-- ==== Sys2Proof/Word.lean ====
section
/-! DEFINITION. The plain value types of the model: bytes, words, sparse maps and exact numbers. -/

namespace Sys2Proof

/-- One byte. -/
abbrev Byte := BitVec 8

/-- A general register of a lane kernel, or any 32-bit field (R176). -/
abbrev Word32 := BitVec 32

/-- A register of register space (R13). -/
abbrev Word64 := BitVec 64

/-- A sparse array in canonical form: keys strictly rising, no entry equal to the default its reader names. -/
abbrev SMap (α : Type) := List (Nat × α)

/-- An exact value as R94 decodes it: a NaN, a signed infinity, or (−1)^neg × m × 2^e (a zero keeps its sign). -/
inductive Num where
  | nan
  | inf (neg : Bool)
  | fin (neg : Bool) (m : Nat) (e : Int)
  deriving DecidableEq, Repr

/-- The layout of a floating element format (Tables 3.1 to 3.3). `maxBits` is its largest finite magnitude. -/
structure FloatSpec where
  expW     : Nat
  fracW    : Nat
  bias     : Nat
  maxBits  : Nat
  infBits  : Option Nat
  nanBits  : Option Nat
  deriving DecidableEq, Repr

/-- The format codes of Table 2.2. -/
inductive Fmt where
  | raw | f32 | f16 | w16 | e4m3 | e5m2 | int8 | e2m1 | b8e4 | b8e5 | b4 | a48
  deriving DecidableEq, Repr

/-- The rounding of a conversion: nearest even (R112), stochastic with 16 random bits (R113), or toward +∞ in
magnitude (the amax of R116). -/
inductive Rounding where
  | rne
  | sr (r : Nat)
  | up
  deriving DecidableEq, Repr

/-- The counts of a statistics record (Table 3.8); `amax` holds the bits of its F32 value. -/
structure Stats where
  elements : Nat := 0
  zeros    : Nat := 0
  sats     : Nat := 0
  nans     : Nat := 0
  infs     : Nat := 0
  amax     : Nat := 0
  deriving DecidableEq, Repr

end Sys2Proof
end

