-- ==== Sys2Proof/Types/Compute.lean ====
section
/-! DEFINITION. The data of the compute side: the timetable image (R75 to R81), the timetable unit (R82 to R92, R200
to R222), the crossing clock (R17 to R50), the islets (R139 to R166) and the lane engine (R167 to R199). -/

namespace Sys2Proof

/-- The ordering code (R1). -/
inductive Cfg where
  | sk3_4a
  | sk3_2a
  deriving DecidableEq, Repr

/-! ### The image -/

/-- A place (Table 2.3). -/
structure Place where
  space  : Nat
  lislet : Nat
  addr   : Nat
  offset : Nat
  deriving DecidableEq, Repr

/-- A region entry (Table 2.5). -/
structure RegionEnt where
  kind  : Nat
  home  : Nat
  flags : Nat
  bytes : Nat
  deriving DecidableEq, Repr

/-- A tensor entry (Table 2.6). -/
structure TensorEnt where
  id      : Nat
  region  : Nat
  fmt     : Nat
  block   : Nat
  offset  : Nat
  dim0    : Nat
  dim1    : Nat
  dim2    : Nat
  dim3    : Nat
  stride1 : Nat
  stride2 : Nat
  stride3 : Nat
  hist    : Nat
  flags   : Nat
  deriving DecidableEq, Repr

/-- A range entry (R78). -/
structure RangeEnt where
  place  : Place
  access : Nat
  bytes  : Nat
  deriving DecidableEq, Repr

/-- A kernel entry (R79) with its code words. -/
structure KernelEnt where
  off  : Nat
  len  : Nat
  code : List Nat
  deriving DecidableEq, Repr

/-- A crossing entry (Table 2.7). -/
structure CrossingEnt where
  first  : Nat
  count  : Nat
  phases : Nat
  flags  : Nat
  deriving DecidableEq, Repr

/-- The fields of a MOVE (Table 2.9). -/
structure MoveOp where
  srcFmt     : Nat
  dstFmt     : Nat
  round      : Nat
  storeBlock : Nat
  purpose    : Nat
  src        : Place
  dst        : Place
  rowBytes   : Nat
  rows       : Nat
  srcStride  : Nat
  dstStride  : Nat
  deriving DecidableEq, Repr

/-- The fields of an MMA (Table 2.10). -/
structure MmaOp where
  aAddr      : Nat
  bAddr      : Nat
  accAddr    : Nat
  acc2Addr   : Nat
  cAddr      : Nat
  k          : Nat
  chunkFirst : Nat
  chunkCount : Nat
  aFmt       : Nat
  bFmt       : Nat
  cFmt       : Nat
  mode       : Nat
  flags      : Nat
  epiExp     : Int
  purpose    : Nat
  statusAddr : Nat
  deriving DecidableEq, Repr

/-- The fields of a KERNEL (Table 2.11). -/
structure KernelOp where
  kernel     : Nat
  rangeCount : Nat
  rangeFirst : Nat
  args       : List Nat
  deriving DecidableEq, Repr

/-- The fields of an EXCH (Table 2.12). -/
structure ExchOp where
  op        : Nat
  redop     : Nat
  fmt       : Nat
  root      : Nat
  src       : Nat
  dst       : Nat
  srcOffset : Nat
  dstOffset : Nat
  elems     : Nat
  deriving DecidableEq, Repr

/-- The fields of a SNAP (Table 2.13). -/
structure SnapOp where
  mode        : Nat
  block       : Nat
  rangeCount  : Nat
  rangeFirst  : Nat
  staging     : Nat
  lisletFirst : Nat
  lisletCount : Nat
  storeAddr   : Nat
  deriving DecidableEq, Repr

/-- A step's operation (Table 2.8); `bad` keeps an undefined opcode for the STEPS check. -/
inductive StepOp where
  | move (o : MoveOp)
  | mma (o : MmaOp)
  | kernel (o : KernelOp)
  | exch (o : ExchOp)
  | snap (o : SnapOp)
  | bad
  deriving DecidableEq, Repr

/-- A step (R81); `reserved` says that its bytes a mode leaves unused are zero (R75). -/
structure StepEnt where
  phase    : Nat
  lislet   : Nat
  dep0     : Nat
  dep1     : Nat
  op       : StepOp
  reserved : Bool
  deriving DecidableEq, Repr

/-- A timetable image as its tables spell it (R75). -/
structure Image where
  loop      : Bool
  lislets   : Nat
  ranks     : Nat
  loopFrom  : Nat
  iterCount : Nat
  regions   : List RegionEnt
  tensors   : List TensorEnt
  kernels   : List KernelEnt
  ranges    : List RangeEnt
  crossings : List CrossingEnt
  steps     : List StepEnt
  digest    : List Byte
  bytes     : Nat
  deriving DecidableEq, Repr

/-- The state of an image slot (Table 2.16). -/
inductive SlotState where
  | empty | loading | admitted | rejected
  deriving DecidableEq, Repr

/-- A cursor table entry (R207). -/
structure Cursor where
  tag  : Nat
  data : List Byte
  deriving DecidableEq, Repr

/-- One byte range that a step touches (R60): its space (a store or an image region), where it lies, and whether it is
read and written; `tensor` its tensor, `rawCopy` whether it is the destination of a byte copy (R109). -/
structure Access where
  space   : Nat
  lo      : Nat
  hi      : Nat
  rd      : Bool
  wr      : Bool
  tensor  : Option Nat
  rawCopy : Bool
  deriving DecidableEq, Repr

/-- An image slot: its state, the image, where it lies, its bindings (base and bytes of each region), the loading
context, its cursor table (R207), its latest position record (R208) and where its run stands (R219). -/
structure ImgSlot where
  state    : SlotState := .empty
  image    : Option Image := none
  base     : Nat := 0
  holder   : Nat × Nat := (0, 0)                 -- base and bytes of the region that holds the image (R268)
  context  : Nat := 0
  binding  : List (Nat × Nat) := []
  cursors  : List Cursor := []
  position : List Byte := []
  ranIndex : Option Nat := none   -- index of its last committed anchor
  ranTick  : Nat := 0             -- and the tick of that commit
  seed     : Nat := 0
  stepBase : Nat := 0
  deriving DecidableEq, Repr

/-- TTU_STATUS.FUNC and the other function states (Table 2.16, R371). -/
inductive FuncState where
  | stopped | starting | running | stopping
  deriving DecidableEq, Repr

/-- A pending switch (R217). -/
structure SwitchReq where
  resume   : Bool
  seed     : Nat
  stepBase : Nat
  atIndex  : Nat
  deriving DecidableEq, Repr

/-- A ship target (R212): a staging region of a slot's image, and a range of a host region. -/
structure ShipTarget where
  slot   : Bool
  region : Nat
  base   : Nat
  bytes  : Nat
  deriving DecidableEq, Repr

/-- A captured snapshot (R210, R212): its slot, staging region, SEQ and layout. -/
structure Snapshot where
  slot     : Bool
  region   : Nat
  seq      : Nat
  index    : Nat
  stage    : Nat
  manifest : Nat
  dataOff  : Nat
  total    : Nat
  deriving DecidableEq, Repr

/-- A shipment in progress (R212): the data being written, then the manifest. -/
structure Shipment where
  snap     : Snapshot
  target   : Option (Nat × Nat)
  manifest : Bool
  deriving DecidableEq, Repr

/-- The timetable unit. -/
structure Ttu where
  func       : FuncState := .stopped
  active     : Bool := false                     -- TTU_STATUS.SLOT
  slotA      : ImgSlot := {}
  slotB      : ImgSlot := {}
  phase      : Nat := 0
  batch      : Nat := 0
  rejCode    : Nat := 0
  rejEntry   : Nat := 0
  rejSlot    : Bool := false
  ran        : List Nat := []                    -- steps of the executing crossing that have taken effect
  done       : List Nat := []                    -- steps of it whose completion is registered (R20)
  opened     : Bool := false                     -- an index is open
  runIdx     : Nat := 0                          -- the index whose steps execute (below XNG_INDEX in a replay)
  replay     : Bool := false                     -- a replay is in progress (R387)
  replayDue  : Bool := false                     -- it waits for the steps in flight (R387 step 2)
  switchWait : Bool := false                     -- a switch waits for a securing's reads (R392)
  lastDone   : Nat := 0                          -- cycle of the last registered completion in the crossing
  anyDone    : Bool := false
  ahead      : List (Nat × Nat) := []            -- steps whose completion falls in a crossing not yet open, and its cycle (R20)
  stopNext   : Bool := false                     -- a failed check or trap: STOPPING at the next tick (R68, R194)
  stats      : SMap Stats := []                  -- the statistics of the crossing, by tensor index (R72)
  cursorData : List Word64 := List.replicate 8 0
  postStatus : BitVec 2 := 0
  pending    : Option SwitchReq := none
  lastMode   : Bool := false
  resumable  : Bool := false
  switching  : Option SwitchReq := none          -- the switch whose crossing is open (R218)
  locksWait  : Bool := false                     -- STARTING waits for the locks (R268)
  restart    : Option Nat := none                -- the index a start opens, when not 0 (R219, R402)
  targets    : List ShipTarget := []
  captured   : List Snapshot := []
  released   : List Snapshot := []
  shipping   : Option Shipment := none
  shipErr    : Bool := false
  shipRegion : BitVec 8 := 0
  shipSeq    : BitVec 32 := 0
  copied     : SMap (List (Nat × Nat)) := []     -- the runs RAW MOVEs copied in the crossing and not counted yet, by tensor (R116)
  exLog      : List (Nat × Nat × Nat × Nat × Stats) := []  -- exchange log (R385): index, step, offset, bytes, counts
  exNext     : Nat := 0                          -- offset in SWAP of the next log entry
  logFull    : Bool := false                     -- HLT_STATUS.LOG_FULL (R385)
  noRecovery : Bool := false                     -- HLT_STATUS.NO_RECOVERY (R384)
  groupDue   : Bool := false                     -- the GROUP check of this start is still due (R84, R220, R402)
  deriving DecidableEq, Repr

/-! ### The crossing clock and the group -/

/-- XNG_STATUS.ROLE (Table 1.7). -/
inductive Role where
  | solo | joining | member | lead | leaving
  deriving DecidableEq, Repr

/-- A decision's outcome (R35). -/
inductive Verdict where
  | advance | slack | fault
  deriving DecidableEq, Repr

/-- A membership change that a decision names (R44, R45, R349): a join or a leave of a rank, and its tick. -/
structure MemberChange where
  join : Bool
  rank : Nat
  tick : Nat
  peer : Nat := 0
  gtick : Nat := 0                        -- a joiner: the tick in the group's numbering
  sizeM1 : Nat := 0                       -- a joiner: the group's SIZE_M1 from that tick (Table 12.9)
  deriving DecidableEq, Repr

/-- A decision (R35, R349, Table 12.9): what the lead decided for tick `tick`, the index that tick's crossing runs, the
run of slack crossings, STOP (R30), a pending period change (R22), membership changes and a switch (R220). -/
structure Decision where
  group    : Nat
  tick     : Nat
  verdict  : Verdict
  index    : Nat
  slackRun : Nat
  stop     : Bool
  period   : Option (Nat × Nat)
  members  : List MemberChange
  switch   : Option Nat
  dissolve : Option Nat := none
  sizeM1   : Nat := 0
  deriving DecidableEq, Repr

/-- The crossing clock, the XNG_ registers (Tables 1.6 to 1.20) and the group as this module sees it. -/
structure Xng where
  running    : Bool := false              -- the clock runs (R17)
  ovrStop    : Bool := false
  ringEn     : Bool := false
  missRank   : BitVec 10 := 0
  badRing    : Bool := false
  leadLost   : Bool := false
  groupFault : Bool := false
  overrun    : Bool := false
  badWindow  : Bool := false
  badPeriod  : Bool := false
  alignErr   : Bool := false
  holdover   : Bool := false
  outOfStep  : Bool := false
  role       : Role := .solo
  next       : BitVec 26 := 0x9C40
  current    : BitVec 26 := 0x9C40
  applyAt    : Word64 := 0
  rttMax     : BitVec 26 := 0
  window     : BitVec 26 := 0
  groupId    : BitVec 16 := 0
  votePort   : BitVec 3 := 0
  altPort    : BitVec 3 := 0
  sizeM1     : BitVec 10 := 0
  rank       : BitVec 10 := 0
  tick       : Word64 := 0
  tickCycle  : Word64 := 0
  cycle      : Word64 := 0
  index      : BitVec 48 := 0
  elapsed    : BitVec 32 := 0
  slackTotal : BitVec 32 := 0
  slackRun   : BitVec 32 := 0
  ttTime     : Word64 := 0
  ringBase   : BitVec 36 := 0
  ringSize   : BitVec 4 := 0
  ringWp     : Word64 := 0
  ttRunning  : Bool := false              -- XNG_TT_TIME counts (R47)
  armed      : Option (Nat × Nat) := none -- period and tick of an armed change (R21)
  changed    : Option (Nat × Nat) := none -- the change that the last tick reached, for its event
  -- the open crossing
  slack      : Bool := false              -- opened as a slack crossing
  maint      : Bool := false
  idle       : Bool := true
  idleCount  : Nat := 0                   -- idle crossings since the last maintenance one (R32)
  idleSince  : Nat := 0                   -- cycle of the last maintenance crossing
  overrunRaised : Bool := false           -- the fault of this run is raised (R29)
  -- votes and decisions
  voted      : Bool := false              -- the cutoff of this crossing has passed
  ready      : Bool := false              -- this module's vote
  votes      : List Nat := []             -- lead: ranks whose votes are in
  votesReady : Bool := true               -- lead: their AND
  missing    : SMap Nat := []             -- lead: consecutive missing votes by rank (R39)
  decided    : Option Decision := none    -- lead: the decision sent for the next tick
  decision   : Option Decision := none    -- the decision received for the next tick
  missed     : Nat := 0                   -- consecutive decisions missed (R40)
  stopping   : Bool := false              -- lead: STOP in every decision (R30)
  joins      : List MemberChange := []    -- lead: membership changes not yet in effect
  members    : List Nat := []             -- lead: ranks whose votes count
  latencies  : SMap Nat := []             -- lead: one-way latency measured by rank (R37)
  formTick   : Option Nat := none
  sizeNext   : Option (Nat × Nat) := none -- MEMBER_AT and SIZE_M1 of the set that decisions carry (Table 12.9)
  -- alignment
  offset     : Int := 0                   -- tick offset, cycles (R42)
  offTicks   : Nat := 0                   -- consecutive ticks beyond 64 cycles (R43)
  onTicks    : Nat := 0                   -- consecutive aligned ticks while JOINING (R44)
  slew       : Int := 0                   -- the next tick's move (R18, R42)
  useAlt     : Bool := false              -- votes go to ALT_PORT (R43)
  unmarked   : Nat := 0                   -- ticks without a valid marker (R42)
  switchAt   : Option Nat := none         -- SWITCH_INDEX of a decision (R220)
  silent     : Bool := false              -- sends no further vote (R387, R397, R407)
  dissolveAt : Option Nat := none         -- MEMBER_AT of a decision with DISSOLVE (R349)
  period     : Option (Nat × Nat) := none -- lead: the change that its decisions carry (R22)
  switchReq  : Option Nat := none         -- lead: the switch that its decisions carry (R220)
  -- GROUP_ID, VOTE_PORT, ALT_PORT, SIZE_M1, RANK and RTT_MAX before the group command in progress (R363)
  groupWas   : Option (BitVec 16 × BitVec 3 × BitVec 3 × BitVec 10 × BitVec 10 × BitVec 26) := none
  deriving DecidableEq, Repr

/-! ### The islets -/

/-- The state of a physical islet (R140). -/
inductive IsletState where
  | active | spare | fenced | absent
  deriving DecidableEq, Repr

/-- One physical islet: its state, FENCE_CAUSE, CE_COUNT (Table 5.12). -/
structure Islet where
  state   : IsletState
  cause   : BitVec 4 := 0
  ceCount : BitVec 32 := 0
  deriving DecidableEq, Repr

/-- ISL_ECC_LAST (Table 5.11). -/
structure IslEcc where
  islet    : BitVec 10 := 0
  kind     : Bool := false
  syndrome : BitVec 7 := 0
  addr     : BitVec 22 := 0
  deriving DecidableEq, Repr

/-- The islets of the module. `store` holds the bytes as encoded, at islet × 2^22 + address; `flips` the 39-bit error
pattern of each word in error, at islet × 2^20 + word. `slots` is the deal of R86; `faulted` the islets fenced since the
last tick. -/
structure Islets where
  scrubEn  : Bool := true
  nfTrap   : Bool := false
  nfInForce : Bool := false
  eccLast  : IslEcc := {}
  islets   : SMap Islet := []
  store    : SMap Byte := []
  flips    : SMap Nat := []
  slots    : List Nat := []
  dealt    : Bool := false      -- bring-up has given the islets their states and slots (R164)
  resident : SMap Nat := []     -- by slot, the logical islet (plus one) whose store lies there (R87)
  faulted  : List Nat := []
  deriving DecidableEq, Repr

/-- One free-running queue (Tables 5.14 to 5.17, 6.12 to 6.15). `inProgress` lists the positions started and not
completed; `finished` those whose work has ended, with the status and the bytes of their record. -/
structure Queue where
  base       : BitVec 36 := 0
  context    : BitVec 16 := 0
  size       : BitVec 4 := 0
  irqEn      : Bool := false
  stopOnErr  : Bool := true
  enable     : Bool := false
  tail       : BitVec 32 := 0
  err        : Bool := false
  head       : BitVec 32 := 0
  inProgress : List (Nat × Nat × List Byte) := []   -- position, islet, descriptor bytes
  finished   : List (Nat × Nat × List Byte × Bool) := []  -- position, islet, completion record, interrupt asked
  stopped    : Bool := false                        -- stopped by an error status (R160)
  drain      : Bool := false                        -- disabled: the rest up to TAIL completes as ABORTED (R160)
  moved      : List (Nat × List Byte) := []         -- the descriptors of `finished` that have moved their data (R268)
  recOut     : Bool := false                        -- the record of the position at HEAD has left and is not yet visible (R159)
  deriving DecidableEq, Repr

/-- The ferry pool. -/
structure Ferry where
  func   : FuncState := .stopped
  queues : SMap Queue := []
  deriving DecidableEq, Repr

/-! ### The lane engine -/

/-- Which kernel a lane command belongs to: the KERNEL step of a logical islet, or a launch queue. -/
inductive LaneRun where
  | step (lislet : Nat)
  | queue (q : Nat)
  deriving DecidableEq, Repr

/-- Where a kernel range lies: a logical islet's store, a tensor of the image, or physical memory. -/
inductive RangeBase where
  | store (lislet addr : Nat)
  | tensor (idx offset : Nat)
  | phys (base : Nat)
  deriving DecidableEq, Repr

/-- A kernel's range (R69, R195). -/
structure KRange where
  base   : RangeBase
  access : Nat
  bytes  : Nat
  fmt    : Fmt
  tensor : Nat
  deriving DecidableEq, Repr

/-- An operand descriptor (Table 6.5). -/
structure OpDesc where
  base    : Nat
  range   : Nat
  fmt     : Nat
  mode    : Nat
  sr      : Bool
  rawW    : Nat
  cols    : Nat
  purpose : Nat
  pitch   : Nat
  deriving DecidableEq, Repr

/-- A trap (Table 6.7): its cause, the word index and the BRK code. -/
structure LaneTrap where
  cause : Nat
  pc    : Nat
  code  : Nat
  deriving DecidableEq, Repr

/-- One store of an instance (R173): where it goes (a store or physical memory), its bytes, the word index of the
instruction, and for a timetable tensor its index, the byte offset in it, and the value an STE presents (R187). -/
structure LaneStore where
  target : RangeBase
  bytes  : List Byte
  pc     : Nat
  tensor : Option (Nat × Nat) := none
  value  : Option (Num × Bool) := none
  deriving DecidableEq, Repr

/-- What a waiting thread waits for (R168): a value already decided for a register, or data of an absent page served
remotely (R273), raw or of a format, for a register or a descriptor slot. -/
inductive LaneWait where
  | near
  | remoteReg (rd bytes addr : Nat) (fmt : Option Fmt)
  | remoteOd (od addr : Nat)
  deriving DecidableEq, Repr

/-- What a load meets: its bytes, poison (R193), a remote access that LANE_LOAD_RETURN answers (R273), a page in migration
(R260 step 6), or a store word that fenced the islet (R147). -/
inductive LoadRes where
  | data (bs : List Byte)
  | poison
  | remote (addr : Nat)
  | busy
  | lost
  deriving DecidableEq, Repr

/-- One instance of the code: the uniform instance, or an element iteration (R170, R171). -/
structure LaneThread where
  g       : List Word32
  p       : List Bool
  pc      : Nat
  ei      : Nat := 0
  waiting : Option LaneWait := none       -- gave up its core for a memory load (R168)
  done    : Bool := false                 -- reached ENDVL
  stores  : List LaneStore := []          -- oldest first
  reds    : List (Nat × Word32) := []     -- reduction slot and contribution
  trap    : Option LaneTrap := none
  deriving DecidableEq, Repr

/-- An element loop in progress (R171, R172): the word index of its SETVL, the pass, and its iterations by element. -/
structure LaneLoop where
  start   : Nat
  pass    : Nat
  threads : SMap LaneThread
  deriving DecidableEq, Repr

/-- A reduction slot (R188): the operation last named, the VL of that loop, and the contributions by element. -/
structure RedSlot where
  op   : Option Nat := none
  vl   : Nat := 0
  vals : List (Nat × Word32) := []
  deriving DecidableEq, Repr

/-- A running kernel. `step` is the step index of a timetable kernel; `pos` the queue position of a free-running one. -/
structure LaneKernel where
  code    : List Nat
  ranges  : List KRange
  uni     : LaneThread
  vl      : Nat := 0
  ods     : List (Option OpDesc) := List.replicate 8 none
  slots   : List RedSlot := List.replicate 4 {}
  loop    : Option LaneLoop := none
  islet   : Nat
  step    : Nat := 0
  pos     : Nat := 0
  mixStep : Nat := 0
  seed    : Nat := 0
  context : Nat := 0
  queue   : Bool := false                 -- a free-running kernel
  lislet  : Nat := 0                      -- the logical islet of a timetable kernel
  irq     : Bool := false
  halted  : Bool := false
  past    : List Nat := []                -- the islets it has run on before it was suspended (R196)
  deriving DecidableEq, Repr

/-- The lane pool: the kernels of timetable steps by logical islet, those of the queues by queue, the suspended ones,
LNC_TRAP_LAST and LNC_TRAP_WHERE. -/
structure Lanes where
  queues     : SMap Queue := []
  steps      : List (Nat × LaneKernel) := []
  free       : List (Nat × LaneKernel) := []
  suspended  : List (Nat × LaneKernel) := []
  trapValid  : Bool := false
  trapIslet  : BitVec 10 := 0
  trapQueue  : BitVec 8 := 0
  trapStep   : BitVec 26 := 0
  trapCause  : BitVec 8 := 0
  trapEi     : BitVec 32 := 0
  trapCode   : BitVec 17 := 0
  trapPc     : BitVec 14 := 0
  nextQueue  : Nat := 0                    -- round-robin position (R196)
  deriving DecidableEq, Repr

end Sys2Proof
end

