-- ==== Sys2Proof/Types/Link.lean ====
section
/-! DEFINITION. The data of the Zuong link (R318 to R352) and of the Sound ring with the mainland harts (R279 to R317). -/

namespace Sys2Proof

/-! ### Accesses of a hart (R282) -/

/-- The operation of an AMO, as the RISC-V documents that R279 names have them. (PRESUMED, assumption log 145) -/
inductive AmoOp where
  | swap | add | xor | and | or | min | max | minu | maxu
  deriving DecidableEq, Repr

/-- What a hart's access is (Table 10.3, R275): a load, an instruction fetch, a load-reserved or a prefetch; a store, a
store-conditional or an AMO. -/
inductive AccKind where
  | load | fetch | lr | store | sc
  | prefetch (trigger : Nat)
  | amo (op : AmoOp)
  deriving DecidableEq, Repr

/-- The kind of an access fault (R282). -/
inductive AccessFault where
  | load | store | fetch
  deriving DecidableEq, Repr

/-! ### The Zuong link -/

/-- ZNG_PSTATE.PHASE (Table 12.15). -/
inductive PortPhase where
  | down | detect | equalise | align | linkup | active | retrain | lost
  deriving DecidableEq, Repr

/-- A transaction to be sent (R331): its class (0 REQ, 1 RSP, 2 CTL, 3 none), its bytes, header and padded
payload, and the cycle from which it waits. -/
structure Txn where
  cls   : Nat
  bytes : List Byte
  since : Nat := 0
  deriving DecidableEq, Repr

/-- What asked for a host or peer access, and so learns of its end (R341). -/
inductive HostUse where
  /-- A migration's read, by coalescing entry (R270). -/
  | migrate (entry : Nat)
  /-- An eviction's write, by coalescing entry (R276). -/
  | evict (entry : Nat)
  /-- A lane core's access, by islet (R273). -/
  | lane (islet : Nat)
  /-- A line of an absent page served remotely to a requester (R273). -/
  | line (who addr : Nat)
  /-- A hart's access to the host window or an absent page (R283, R273). -/
  | hart (hart ctx addr : Nat) (va : Word64)
  /-- A line of an absent page for a ring transaction (R303). -/
  | ring (agent line : Nat)
  /-- A window-path payload (R356). -/
  | payload (mb : Nat)
  /-- A response's payload or header (R358). -/
  | response (mb : Nat) (header : Bool)
  /-- A free-running descriptor's access (R158). -/
  | ferry (q pos : Nat)
  /-- A launch queue's read of its descriptor, code or range list, or its write of a record or a save slot (R195 to R197). -/
  | launch (q : Nat)
  /-- A PULL's read or a PUSH's write (R339). -/
  | command (port q seq : Nat)
  /-- A command completion record (R340). -/
  | completion (port q seq : Nat)
  /-- A shipment's write, of data or of the manifest (R212). -/
  | ship (manifest : Bool)
  /-- A securing's write: destination 0 partner or 1 host, and its stage (R391). -/
  | secure (dest stage : Nat)
  /-- A restore's read of a slot (R401), or its request to the partner. -/
  | restore
  /-- A restore served to the partner (R400). -/
  | serve (header : Bool)
  /-- What asked has ended without it (R276). -/
  | dropped
  deriving DecidableEq, Repr

/-- A host read, a host write or a peer write, waiting or outstanding (R341, R346): its key (R342), first byte and length,
and once issued its port, tag, and how many bytes have come. -/
structure HostReq where
  write : Bool
  peer  : Option (Nat × Nat) := none      -- PEER_WR: peer ID and handle
  off   : Nat
  len   : Nat
  data  : List Byte := []
  use   : HostUse
  port  : Nat := 0
  tag   : Nat := 0
  got   : Nat := 0
  parts : SMap Byte := []                 -- the bytes that have come of a read that is answered whole
  bad   : Bool := false                   -- a part of it came with an error
  came  : List (Nat × Nat) := []          -- the parts delivered so far, as offset and length
  deriving DecidableEq, Repr

/-- A placement that waits for its channel (R240, R343). -/
structure PlaceWait where
  port   : Nat
  handle : Nat
  tag    : Nat
  off    : Nat
  ack    : Bool
  bad    : Option Nat
  data   : List Byte
  deriving DecidableEq, Repr

/-- What the reads of one use have brought so far (R158, R273): bytes by host-window offset, the runs that have come, and those
of them that came poisoned. -/
structure FetchBuf where
  use   : HostUse
  bytes : SMap Byte := []
  runs  : List (Nat × Nat) := []
  bad   : List (Nat × Nat) := []
  deriving DecidableEq, Repr

/-- A command of a window queue that has started (R337): its status once its work has ended, the bytes moved, the bytes
still to come, whether its record is held (R386) and whether it is written. -/
structure WinCmd where
  seq     : Nat
  op      : Nat
  irq     : Bool
  fence   : Bool
  tag     : Nat
  arg0    : Nat
  arg1    : Nat
  arg2    : Nat
  begun   : Bool := false
  bytes   : Nat := 0
  bad     : Bool := false
  islet   : Nat := 0                      -- the islet whose ferry a PULL or PUSH runs on (R339)
  aborted : Bool := false                 -- that islet was fenced before the move (R161)
  status  : Option Nat := none
  held    : Bool := false
  written : Bool := false
  deriving DecidableEq, Repr

/-- One window queue (R336, R337, R340). `ring` is the host-window offset of its completion ring, or of queue 0's response
ring; `tries` the invalid reads of the slot at HEAD so far. -/
structure WinQ where
  head       : BitVec 32 := 0
  tail       : BitVec 32 := 0
  halted     : Bool := false
  configured : Bool := false
  context    : Nat := 0
  ring       : Nat := 0
  tries      : Nat := 0
  cmds       : List WinCmd := []
  deriving DecidableEq, Repr

/-- One Zuong port (R318 to R332, Tables 12.15 to 12.20). `ack` is the SEQ of the last DATA flit received in order; `unacked`
the bodies of the flits sent and not acknowledged, oldest first; `waiting` the transactions not yet sent. -/
structure Port where
  phase    : PortPhase := .down
  func     : FuncState := .stopped
  attempts : Nat := 0
  fails    : Nat := 0
  off      : Bool := false                -- stopped by command since it last trained
  keep     : Bool := false                -- its LINKUP keeps the link state (R404)
  cause    : Nat := 0                     -- why it retrains (R325)
  swap     : Option Nat := none           -- the physical lane that the retrain replaces (R325)
  retrains : BitVec 8 := 0
  away     : Bool := false                -- its keys went to a substitute and have not all returned (R350)
  latency  : BitVec 16 := 0
  spare    : Bool := false
  failed   : BitVec 5 := 0
  map      : BitVec 12 := 0x688
  crcErr   : BitVec 32 := 0
  replays  : BitVec 32 := 0
  uncorr   : BitVec 16 := 0
  corr     : BitVec 48 := 0
  laneCorr : List (Nat × Nat × Nat) := [] -- corrected symbols of the last second: cycle, physical lane, count (R319, R325)
  txSeq    : Nat := 0
  ack      : Nat := 0
  unacked  : List (Nat × List Byte) := []
  naks     : Nat := 0                     -- NAKs received without progress
  nakAt    : Option Nat := none           -- the cycle of the NAK whose flit has not come
  creditReq : Nat := 0
  creditCtl : Nat := 0
  waiting  : List Txn := []
  tx       : List Byte := []              -- the rest of a transaction whose first flit has left (R328)
  stream   : List Byte := []              -- received bytes of a transaction not yet whole
  window   : SMap Byte := []
  queues   : SMap WinQ := []
  present  : Option Bool := none
  deriving DecidableEq, Repr

/-- Who issued a FLUSH (R345, R369). -/
inductive FlushBy where
  | command (port q seq : Nat)
  | register
  | release (mb handle : Nat)
  deriving DecidableEq, Repr

/-- A PULL or PUSH of a queue (R339): its SEQ, and the islet whose ferry takes it up. -/
structure MoveOn where
  seq   : Nat
  islet : Nat
  deriving DecidableEq, Repr

/-- A FLUSH in progress: its number and the ports that have not answered. -/
structure FlushJob where
  num   : Nat
  left  : List Nat
  by_   : FlushBy
  start : Nat
  deriving DecidableEq, Repr

/-- A registered placement handle (R343, R369). -/
structure PlaceH where
  owner : Nat
  base  : Nat
  bytes : Nat
  deriving DecidableEq, Repr

/-- The Zuong block. -/
structure Link where
  creditTo : BitVec 16 := 0x2626
  laneCe   : BitVec 16 := 0x1000
  portEn   : BitVec 8 := 0xFF
  peerId   : BitVec 32 := 0
  peerSet  : Bool := false
  feed     : BitVec 16 := 0
  flBusy   : Bool := false
  flTimeout : Bool := false
  flDone   : BitVec 32 := 0
  flushNo  : Nat := 0
  flushes  : List FlushJob := []
  ports    : SMap Port := []
  queued   : List HostReq := []           -- not yet issued, in issue order
  placing  : List PlaceWait := []         -- placements that wait for their channels (R240)
  issued   : List HostReq := []           -- outstanding, in issue order
  bufs     : List FetchBuf := []          -- data fetched for descriptors in progress
  arose    : List (Nat × Nat × Nat) := [] -- completion records not yet written: port, queue, position (R386)
  handles  : SMap (Option PlaceH) := []
  hosts    : SMap (Option (Nat × Nat)) := []  -- host regions: offset and bytes (R369)
  deriving DecidableEq, Repr

/-! ### The Sound ring -/

/-- A caching agent's state of a line (R295, R310). -/
inductive CState where
  | i | s | e | o | m | isu | iso | imu | smu | omu | imo | wb | wbn
  deriving DecidableEq, Repr

/-- Ring messages (Table 11.3). -/
inductive RKind where
  | rds | rdx | upg | cbo | vic | chk | snps | snpx | snpw | snpv | srsp | gnt | nack | cack | wcan | data | wdata | udata
  deriving DecidableEq, Repr

/-- Where SNPX has the owner send its data (Table 11.3). -/
inductive SnpDst where
  | req | home | drop
  deriving DecidableEq, Repr

/-- What a GNT grants (Table 11.3). -/
inductive Grant where
  | s | e | m | u | o
  | deny (reason : Nat)
  deriving DecidableEq, Repr

/-- A cbo instruction (R304). -/
inductive CboOp where
  | clean | flush | inval
  deriving DecidableEq, Repr

/-- A ring message with the fields of every kind (R297). `agent` is the requesting agent; `stop` the stop that a snoop is for
or that an SRSP comes from. -/
structure RMsg where
  kind   : RKind
  line   : Nat
  agent  : Nat
  stop   : Nat := 0
  txn    : Nat := 0
  ctx    : Nat := 0
  aged   : Bool := false
  stamp  : Nat := 0
  cboOp  : CboOp := .clean
  dst    : SnpDst := .req
  owner  : Bool := false
  shared : Bool := false
  holds  : Bool := false
  keep   : CState := .i                   -- SRSP: the requester's own M, O or E (Table 11.4)
  grant  : Grant := .s
  src    : Nat := 0
  bytes  : List Byte := []
  poison : Bool := false
  mask   : Nat := 0
  dirty  : CState := .m                   -- WDATA: M or O
  wr     : Bool := false                  -- CHK: for a store
  pre    : Bool := false                  -- RDS: of a prefetch (R275)
  noted  : Bool := false                  -- a VIC that waits: its pinned set has been recorded (R312)
  denied : Option Nat := none             -- GNT U: refused on its second decision, with this reason (R260)
  parity : Bool := true                   -- the header's parity holds (R313)
  dataOk : Bool := true                   -- the parity of the 64 bytes holds (R313)
  deriving DecidableEq, Repr

/-- A core access that waits for its line (Table 11.5): a load, a store, or a cache-block operation (R304). -/
structure CAccess where
  hart  : Nat
  ctx   : Nat
  addr  : Nat
  write : Option (List Byte)
  size  : Nat
  cbo   : Option CboOp := none
  kind  : AccKind := .load
  va    : Word64 := 0                     -- its virtual address (R288)
  deriving DecidableEq, Repr

/-- A line in a caching agent: its state and bytes, the context of R285, and while a request of its own is open the request,
its grant and data, and a deferred snoop (R307, R309). -/
structure CLine where
  st      : CState := .i
  bytes   : List Byte := []
  poison  : Bool := false
  ctx     : Nat := 0
  waiting : List CAccess := []
  req     : Option RMsg := none
  starter : Option CAccess := none        -- the access of `waiting` that sent it; none for a prefetch
  tries   : Nat := 0
  backoff : Option Nat := none            -- NACKed: the cycle of the resend (R307)
  holds   : Bool := false
  gnt     : Option RMsg := none
  data    : Option (List Byte × Bool) := none
  defer   : Option RMsg := none
  wbM     : Bool := false                 -- in WB: the line is M, not O
  chk     : Bool := false                 -- a CHK is open for it (R285)
  cbo     : Option CboOp := none          -- a CBO is open for it (R304)
  cboVa   : Word64 := 0                   -- its virtual address (R288)
  written : Nat := 0                      -- bytes stored in this permission grant (R289)
  deriving DecidableEq, Repr

/-- A transaction open at its home agent (R300). -/
structure HTxn where
  num     : Nat
  req     : RMsg
  left    : List Nat                      -- stops whose SRSP is not in
  owner   : Bool := false
  shared  : Bool := false
  holds   : Bool := false
  keep    : CState := .i
  granted : Bool := false
  waitData : Bool := false                -- a VIC whose WDATA or WCAN is not in, a flush whose WDATA is not in, UDATA
  waitCack : Bool := false
  start   : Nat
  aged    : Option (Nat × Nat) := none    -- oldest aged request met: agent and stamp (R307)
  single  : Bool := false                 -- the page is never cached: GNT U (R303)
  stored  : Bool := false                 -- its UDATA is in and held under R271 (R303)
  busy    : Bool := false                 -- waits for its channel, with what the home cache is to replace (R240)
  victim  : Option Nat := none
  deriving DecidableEq, Repr

/-- A line reserved for an aged request (R307). -/
structure Reserve where
  line  : Nat
  agent : Nat
  until_ : Nat
  deriving DecidableEq, Repr

/-- A snoop-filter entry (R311): its sector and its presence bits. -/
structure FEntry where
  sector : Nat
  bits   : BitVec 4
  deriving DecidableEq, Repr

/-- The Sound ring. `lines` is keyed by agent × 2^42 + line; `flight` holds the messages sent and not received, in order;
`filters` the entries of a set, least recently used first, by island stop × 16,384 + set. -/
structure Ring where
  lock    : Bool := false
  mode    : Bool := false
  timeout : BitVec 16 := 0x2626
  errValid : Bool := false
  errKind : BitVec 4 := 0
  errStop : BitVec 3 := 0
  errAgent : BitVec 8 := 0
  errMsg  : BitVec 5 := 0
  errState : BitVec 4 := 0
  errTxn  : BitVec 16 := 0
  errLine : BitVec 42 := 0
  lines   : SMap CLine := []
  flight  : List RMsg := []
  txns    : List HTxn := []
  conflict : List RMsg := []
  reserved : List Reserve := []
  nextTxn : Nat := 0
  filters : SMap (List FEntry) := []
  deriving DecidableEq, Repr

/-- The privilege of a hart that accesses a CSR (R284). -/
inductive Priv where
  | m | s | u | vs | vu
  deriving DecidableEq, Repr

/-- What the module holds of a hart: skctx and skfault (R284, R288), xtval of its last access fault (R288), mncause and mnepc of its last
non-maskable interrupt (R290), the line of its load-reserved (R282), and its uncached accesses that wait behind one that its target has
not accepted, in program order (R283). (DESIGN CHOICE, assumption log 45) -/
structure Hart where
  ctx      : BitVec 16 := 0
  faultCtx : BitVec 16 := 0
  faultKind : BitVec 3 := 0
  tval     : Word64 := 0
  mncause  : Word64 := 0
  mnepc    : Word64 := 0
  mnpp     : BitVec 2 := 0                 -- mnstatus: the mode that the NMI interrupted
  mnpv     : Bool := false                 -- and its virtualization
  nmie     : Bool := true                  -- mnstatus.NMIE: an NMI may be taken (Smrnmi)
  nmiWait  : Bool := false                 -- one came while another was being handled
  resv     : Option Nat := none
  io       : List CAccess := []
  deriving DecidableEq, Repr

end Sys2Proof
end

