-- ==== Sys2Proof/Types/Memory.lean ====
section
/-! DEFINITION. The data of module memory (R223 to R250), of regions, contexts and page tags (R251 to R278) and of the
event recorder (R410 to R424). -/

namespace Sys2Proof

/-- MEM_CH.STATE (Table 8.10). -/
inductive ChanState where
  | active | spare | retired | retirePending | lost | absent
  deriving DecidableEq, Repr

/-- One physical channel (Table 8.10, R241, R248). `ceTimes` lists the cycles of its corrected errors of the last 24
hours; `busy` says that its primary calibration of a maintenance crossing has not ended. -/
structure Channel where
  state    : ChanState
  slot     : BitVec 7 := 0x7F
  ceCount  : BitVec 24 := 0
  ueCount  : BitVec 8 := 0
  fallback : Bool := false
  calAt    : Nat := 0
  busy     : Bool := false
  ceTimes  : List Nat := []
  deriving DecidableEq, Repr

/-- An entry of a channel's write-combining buffer (R234): the block, the bytes written (offset and byte) and the cycle of
its last write. Entries stand in the order of their last write, oldest first. -/
structure WcEntry where
  block : Nat
  bytes : SMap Byte
  last  : Nat
  deriving DecidableEq, Repr

/-- MEM_ECC_LAST (Table 8.7). -/
structure MemEcc where
  valid  : Bool := false
  kind   : BitVec 2 := 0
  half   : Bool := false
  symbol : BitVec 8 := 0
  addr   : BitVec 40 := 0
  deriving DecidableEq, Repr

/-- A symbol in error of a block: the half, the symbol (0 to 131) and the bits flipped (R228). -/
structure SymErr where
  half   : Bool
  symbol : Nat
  flip   : Nat
  deriving DecidableEq, Repr

/-- A margin scan (R242 to R244): KIND, DIRECTION and TARGET of Table 8.4, and the mailbox that asked. -/
structure MarginScan where
  kind    : Nat
  dir     : Nat
  target  : Nat
  mailbox : Nat
  deriving DecidableEq, Repr

/-- A request of a line: its context and requester, its address, the bytes and mask of a write, whether a byte of a write fails its
parity (R231), and whether it is the single write of a ring transaction (R303). -/
structure HeldReq where
  ctx    : Nat
  who    : Nat
  addr   : Nat
  write  : Option (List Byte × Nat)
  bad    : Bool := false
  ring   : Bool := false
  poison : Bool := false
  deriving DecidableEq, Repr

/-- A request that waits at its channel and holds one of its trackers (R238): whether it is timetabled traffic, and whether the
tracker is one of the shared pool. -/
structure Tracked where
  req    : HeldReq
  timed  : Bool
  shared : Bool
  deriving DecidableEq, Repr

/-- Module memory. `cells` are the bytes as encoded (an unlisted byte reads 0x00: assumption log 3), `poison` the poisoned
256-byte blocks, `errs` the symbols in error of a block. -/
structure Mem where
  cells    : List (Nat × Byte) := []
  poison   : SMap Bool := []
  errs     : SMap (List SymErr) := []
  wc       : SMap (List WcEntry) := []          -- by channel, h × 256 + p
  chans    : SMap Channel := []                 -- by h × 256 + p
  ceLimit  : BitVec 16 := 0x100
  scrubEn  : Bool := true
  trained  : Bool := false
  homeFail : BitVec 5 := 0
  eccLast  : MemEcc := {}
  calLast  : Word64 := 0
  scans    : List MarginScan := []              -- waiting, oldest first
  scanning : Option MarginScan := none
  maint    : Bool := false                      -- a maintenance crossing's work is in progress (R31)
  maintAt  : Nat := 0                           -- the cycle at which the last of that work ended (R34)
  held     : List HeldReq := []                 -- held at their home's entry (R260 step 6)
  tracked  : List Tracked := []                 -- waiting at their channels, oldest first (R238, R240, R242)
  untracked : List HeldReq := []                -- waiting at their home's entry for a tracker, oldest first (R238)
  scanMoved : Option (Nat × Nat) := none        -- the strait or Zuong lane under scan, whose traffic its spare carries (R242)
  straitSpared : List Nat := []                 -- strait × 256 + lane replaced by its spare
  straitDropped : List Nat := []                -- groups of 32 lanes dropped (R405): (strait × 256 + lane) / 32
  deriving DecidableEq, Repr

/-- A region descriptor (Table 9.2). -/
structure RegionD where
  base    : Nat
  bytes   : Nat
  kind    : Nat
  access  : Nat
  flags   : Nat
  group   : Nat
  backing : Nat
  deriving DecidableEq, Repr

/-- The residency of a page (Table 9.4). -/
inductive Res where
  | free | resident | absent | migrating | evicting | reserved
  deriving DecidableEq, Repr

/-- A page tag (Table 9.4). -/
structure Tag where
  count  : BitVec 8 := 0
  lock   : Bool := false
  pinned : Bool := false
  shared : Bool := false
  res    : Res := .free
  owner  : BitVec 16 := 0
  deriving DecidableEq, Repr

/-- The state of a context (Table 9.6). -/
inductive CtxState where
  | free | ready | running | parked | swapped
  deriving DecidableEq, Repr

/-- A context table entry (Table 9.6). -/
structure Ctx where
  state     : CtxState
  park      : BitVec 8 := 0
  parkEntry : BitVec 16 := 0xFFFF
  groups    : List (BitVec 16) := List.replicate 4 0xFFFF
  faultAddr : Word64 := 0
  deriving DecidableEq, Repr

/-- A coalescing entry (R269, R270, R276): its page, whether it evicts, whether its accesses have
been issued (R270 step 2), the bytes of it moved so far, and whether a part failed. -/
structure CoEntry where
  page    : Nat
  evict   : Bool
  begun   : Bool := false
  moved   : Nat := 0
  failed  : Bool := false
  bad     : List Nat := []                -- the blocks that overlap a line delivered poisoned (R270)
  deriving DecidableEq, Repr

/-- Where a command came from: a mailbox, or RGN_CMD. -/
inductive Via where
  | mailbox (m : Nat)
  | register
  deriving DecidableEq, Repr

/-- A region command in progress (R261): PIN, the pin of an ADD_REGION, or EVICT; its region's BASE, or the page's address, and
the cycle at which it began. -/
structure RgnJob where
  via   : Via
  op    : Nat
  owner : Nat
  base  : Nat
  start : Nat
  deriving DecidableEq, Repr

/-- The region unit. `lists` holds the region lists, of context c at key c and of group g at key 65,536 + g. -/
structure Regions where
  threshold : BitVec 8 := 0x40
  decay     : BitVec 4 := 0xC
  migEn     : Bool := true
  lists     : SMap (List RegionD) := []
  tags      : SMap Tag := []                    -- by physical address / 2 MiB
  ctxs      : SMap Ctx := []
  entries   : SMap (Option CoEntry) := []
  faults    : List (Nat × Nat) := []            -- contexts parked for a free entry, in order, with their page
  wake      : List Nat := []                    -- parked contexts whose page has become RESIDENT: they leave PARKED at the next tick (R272)
  again     : List (Nat × Nat) := []            -- by parked context, the work that faulted and is checked first (R272)
  arg0      : Word64 := 0
  arg1      : Word64 := 0
  job       : Option RgnJob := none
  refused   : Bool := false
  status    : BitVec 8 := 0
  result    : Word64 := 0
  faultValid : Bool := false
  faultKind : BitVec 3 := 0
  faultCtx  : BitVec 16 := 0
  faultPage : BitVec 27 := 0
  ctxSel    : BitVec 16 := 0
  ttContext : BitVec 16 := 0
  locked    : Bool := false
  lastDecay : Nat := 0
  deriving DecidableEq, Repr

/-- An event (R413): its code, SUBJECT, the 20 detail bytes after it, and when it was raised. -/
structure Event where
  code    : Nat
  subject : Nat
  detail  : List Byte
  cycle   : Nat
  early   : Bool
  minutes : Nat
  powers  : Nat
  state   : Nat
  deriving DecidableEq, Repr

/-- A record (Table 15.1) as the writer forms it, before its slot's 64 bytes. -/
structure Record where
  ev      : Event
  seq     : Nat
  repeats : Nat
  last    : Nat
  deriving DecidableEq, Repr

/-- The event recorder. `mram` holds the 64-byte slots by number; `queue` the records waiting for the writer, oldest
first; `fresh` the events raised in the present cycle, not yet numbered (R414). (DESIGN CHOICE, assumption log 10) -/
structure Recorder where
  mram      : SMap (List Byte) := []
  queue     : List Record := []
  newest    : Option Record := none
  newestSlot : Nat := 0
  written   : Bool := false                -- the newest record is written in its slot
  nextSeq   : Nat := 0
  seen      : List Nat := []               -- codes recorded since manufacture ended (R416)
  circ      : Nat := 65535                 -- slot of the newest record of the circular area
  dropped   : BitVec 16 := 0
  sinceDrop : Nat := 0
  permFull  : Bool := false
  factory   : BitVec 11 := 0
  powers    : BitVec 32 := 0
  minutes   : BitVec 32 := 0
  minuteAt  : Nat := 0                     -- the cycle at which the present minute began (R417)
  sel       : BitVec 16 := 0
  ringBase  : BitVec 36 := 0
  ringSize  : BitVec 4 := 0
  fromSeq   : Word64 := 0
  ringWp    : Word64 := 0
  refold    : Bool := false                -- the newest record was folded after it was written (R421)
  held      : Bool := true                 -- before bring-up stage 1 ends, records are queued (R418)
  deriving DecidableEq, Repr

end Sys2Proof
end

