-- ==== Sys2Proof/Types/Control.lean ====
section
/-! DEFINITION. The data of the Harbour controller (R352 to R379), of health and survival (R380 to R409), of security
(R425 to R438) and of power (R439 to R457), and what leaves the module. -/

namespace Sys2Proof

/-- The module state (HBR_STATE.STATE, Table 13.11). -/
inductive ModState where
  | boot | train | ready | run | degraded | securing | halted | failed
  deriving DecidableEq, Repr

/-! ### The Harbour controller -/

/-- The state of a mailbox (R357). -/
inductive MbState where
  | idle | posted | running | done
  deriving DecidableEq, Repr

/-- What a RUNNING command waits for. -/
inductive MbWait where
  | nothing
  | payload                                -- its payload is being fetched (R356)
  | fetched                                -- the payload has come
  | commit                                 -- the bank is being written (R434)
  | start (f : Nat)                        -- a function leaves STARTING (R371)
  | stop (f : Nat)                         -- a function reaches STOPPED (R372)
  | halt                                   -- HALTED (R373)
  | form | join | leave                    -- the group commands (R368)
  | admitting (rank peer : Nat)
  | region                                 -- a region command in progress (R261)
  | release (handle : Nat)                 -- PLACE_RELEASE's FLUSH (R369)
  | margin
  | pair (peer cofed theirs mine : Nat)    -- the partner's FEED (R398)
  | secure                                 -- SECURE, its securing not yet bound
  | secured                                -- SECURE, its securing in progress
  | restore
  | takeover (rank peer : Nat)
  deriving DecidableEq, Repr

/-- One mailbox (Table 13.2). `posted` is the cycle of its doorbell. -/
structure Mailbox where
  state  : MbState := .idle
  bytes  : SMap Byte := []
  err    : Bool := false
  irqEn  : Bool := false
  wait   : MbWait := .nothing
  posted : Nat := 0
  bad    : Bool := false                   -- its fetched payload met an error
  busy   : Bool := false                   -- its class was taken when it arrived (R362)
  deriving DecidableEq, Repr

/-- The Harbour controller: bring-up, the I3C target (R359) and the mailboxes. `stage` is the lowest unfinished stage;
`lpddr` says that stage 3 has ended, which runs beside stage 2. -/
structure Hbr where
  stage    : Nat := 0
  lpddr    : Bool := false
  window   : Bool := false                 -- CONFIG_OPEN
  openAt   : Nat := 0                      -- the cycle at which the window opened
  exchange : FuncState := .stopped
  reader   : FuncState := .stopped
  mbs      : SMap Mailbox := []
  last     : Nat := 15                     -- the mailbox taken last (R357)
  i3cAddr  : Option Nat := none
  i3cOff   : Nat := 0
  config   : SMap Nat := []                -- the keys applied in this bring-up (Table 13.6), plus one
  pwrStop  : Bool := false                 -- SHUTDOWN is on its way to HALTED
  deriving DecidableEq, Repr

/-! ### What persists (R378) -/

/-- A secured-state destination as the configuration flash keeps it (R390): its newest slot and GEN. -/
structure DestGen where
  slot : Option Bool := none
  gen  : Nat := 0
  deriving DecidableEq, Repr

/-- A recorded pairing (R398): the partner and its feed, both guest handles, whether it was accepted co-fed, and the module's own feed
then. -/
structure Pairing where
  peer   : Nat
  feed   : Nat
  theirs : Nat
  mine   : Nat
  cofed  : Bool
  own    : Nat := 0
  deriving DecidableEq, Repr

/-- The configuration flash and the fuses. `banks` holds the firmware banks by 2 × kind + bank (kind 1 and 2), `keys` the
digests of the signing keys by slot. (DESIGN CHOICE, assumption log 10) -/
structure Flash where
  config   : SMap Nat := []                -- stored keys (Table 13.6), the value plus one
  pairing  : Option Pairing := none
  cofed    : Bool := false
  partner  : DestGen := {}
  host     : DestGen := {}
  banks    : SMap (SMap Byte) := []
  staging  : SMap Byte := []
  prefer   : SMap (Option Bool) := []      -- by kind: the preferred bank
  cert     : List Byte := []
  keys     : SMap (List Byte) := []
  rollback : SMap Nat := []                -- by kind: the anti-rollback counter (R433)
  uds      : List Byte := List.replicate 32 0
  serial   : Nat := 0
  minutes  : BitVec 32 := 0
  islets   : List (Nat × IsletState) := [] -- the recorded state of the islets that have changed (R164)
  deriving DecidableEq, Repr

/-! ### Health and survival -/

/-- One destination of a securing (R391): 0 the partner, 1 the host; its slot and GEN; the stage whose writes are out, and
whether it has ended. -/
structure SecDest where
  dest  : Nat
  slot  : Bool
  gen   : Nat
  stage : Nat := 1
  ended : Bool := false
  ok    : Bool := false
  deriving DecidableEq, Repr

/-- A securing in progress (R389 to R391): anchor index and tick, what each stage writes (offset in the slot and bytes), and
its destinations. -/
structure Securing where
  index     : Nat
  tick      : Nat
  emergency : Bool
  stages    : List (List (Nat × List Byte))
  dests     : List SecDest
  begun     : Nat
  slotLog2  : Nat
  host      : Nat
  headers   : List (Nat × List Byte)       -- by destination, its header
  deriving DecidableEq, Repr

/-- A restore in progress (R401): its mailbox, its source, X, the resume step and cursor; what is being read (0 the headers, 1
entries and anchor copies, 2 the tensors of the chosen slot); the bytes read, by offset from X, and the runs that came with an
error. -/
structure Restoring where
  mb     : Nat
  host   : Bool
  off    : Nat
  step   : Nat
  cursor : List Byte
  phase  : Nat := 0
  slot   : Bool := false
  bytes  : SMap Byte := []
  bad    : List (Nat × Nat) := []
  deriving DecidableEq, Repr

/-- The health monitor and the survival state. `e64` is E in steps of 1/64 (R380). -/
structure Health where
  e64       : Nat := 0
  temp      : Nat := 0
  cofed     : Bool := false
  warning   : Bool := false                -- the power-warning input is asserted (R382)
  lastReq   : Option Nat := none           -- RISK at the previous request, until RISK falls (R383)
  secureAt  : BitVec 8 := 0x80
  half      : BitVec 6 := 0x2A
  grain     : BitVec 5 := 0x0C
  slotLog2  : BitVec 6 := 0x28
  windowH   : BitVec 10 := 0x0A8
  mode      : Bool := false
  secErr    : Bool := false
  emergency : Bool := false
  dest      : BitVec 2 := 0
  hostOff   : Nat := 0
  secureEver : Bool := false               -- a SECURE has been accepted
  lastIndex : BitVec 48 := 0
  cost      : BitVec 32 := 0x00010000
  standby   : Option Nat := none
  armed     : Option Nat := none           -- a securing bound to the first anchor at or after this tick (R393, R396)
  lastBind  : Nat := 0                     -- tick of the previous securing's anchor, or of the start (R394)
  expired   : Bool := false                -- the interval's expiry has been recorded
  securing  : Option Securing := none
  restoring : Option Restoring := none
  serving   : Bool := false
  anchorTick : Nat := 0                    -- XNG_TICK of the last committed anchor
  anchored  : Bool := false                -- the running timetable has committed an anchor
  weighty   : List Nat := []               -- when the events of weight 16 or more were raised (R394)
  deriving DecidableEq, Repr

/-! ### Security -/

/-- The security block. `bank` is the bank of a kind that passed and runs. -/
structure Sec where
  identity : Bool := false
  fallback : SMap Bool := []
  bank     : SMap (Option Bool) := []
  svn      : SMap Nat := []
  version  : SMap Nat := []
  meas     : SMap (List Byte) := []
  reports  : SMap (List Byte) := []        -- by mailbox
  sram     : SMap Byte := []               -- the Harbour SRAM's copy of a bank, from which the firmware runs (R428)
  engine   : List Byte := []               -- the seed of the key pair that the signing engine holds (R435)
  udsLock  : Bool := false                 -- the UDS fuses are locked (R435)
  deriving DecidableEq, Repr

/-! ### Power -/

/-- The input controller and the power registers. `latch` is the cause latch (R442); `step` counts the sequencing steps that
are up, 6 when every rail is good. (DESIGN CHOICE, assumption log 4) -/
structure Power where
  closed   : Bool := true
  good     : Bool := true
  step     : Nat := 6
  vin      : BitVec 12 := 0
  iin      : BitVec 12 := 0
  pin      : BitVec 16 := 0
  limI     : Bool := false                 -- gating for an input limit (R443)
  limT     : Bool := false                 -- gating for temperature (R449)
  leak     : BitVec 2 := 0                 -- bit 0 the sensor, bit 1 LEAK_IN_N
  warnUv   : Bool := false
  warnPin  : Bool := false
  pLimit   : BitVec 16 := 0x16A8
  iLimit   : BitVec 12 := 0x708
  coolOut  : BitVec 16 := 0
  coolIn   : BitVec 16 := 0
  hottest  : BitVec 16 := 0
  hotDie   : BitVec 3 := 0
  tstate   : BitVec 2 := 0
  railWarn : BitVec 12 := 0
  railOut  : SMap Nat := []                -- by rail: the cycle at which it last left ±5 %, plus one (R445)
  slotId   : BitVec 5 := 0
  feedPins : BitVec 12 := 0                -- the straps as they stand
  feedId   : BitVec 12 := 0                -- as read in stage 1 (R454)
  enable   : Bool := true
  latch    : BitVec 3 := 0
  lastOff  : BitVec 3 := 0
  downWait : Bool := false                 -- a power-down waits for HALTED (R446)
  downAt   : Nat := 0                      -- the cycle from which it waits
  downCause : BitVec 3 := 0
  down     : Bool := false                 -- a power-down is in progress
  deriving DecidableEq, Repr

/-- A hard trip's condition (R442, R455): its cause of Table 17.15, and how many microseconds it has lasted. -/
structure Trip where
  cause : Nat
  us    : Nat
  deriving DecidableEq, Repr

/-! ### What leaves the module -/

/-- What leaves the module, in the order it leaves (the model's own record of the block's outputs). -/
inductive Out where
  /-- A DATA, IDLE or NAK flit on a port (R326). -/
  | flit (port : Nat) (bytes : List Byte)
  /-- The module's own credits, advertised to a port's adapter at LINKUP (R329). -/
  | credits (port req ctl : Nat)
  /-- An interrupt to the external host that no port can carry yet: its vector and information field (R340). -/
  | hostIrq (vector info : Nat)
  /-- An edge of an APLIC source (R291). -/
  | aplic (source : Nat)
  /-- A non-maskable interrupt to every hart (R290). -/
  | nmi
  /-- A line delivered to a requester (R233), and whether its poison bit is set. -/
  | line (who addr : Nat) (data : List Byte) (poison : Bool)
  /-- Data delivered to a hart's load (R283, R310). -/
  | loaded (hart addr : Nat) (data : List Byte)
  /-- An access fault of a hart (R282, R288): its kind, its address, and KIND of Table 10.5. -/
  | fault (hart : Nat) (exc : AccessFault) (addr kind : Nat)
  /-- An illegal-instruction exception of a hart, or a virtual-instruction exception (R284). -/
  | trap (hart : Nat) (virtual : Bool)
  /-- The in-band interrupt of the baseboard path, with its data byte (R359). -/
  | ibi (status : Nat)
  deriving DecidableEq, Repr

end Sys2Proof
end

