-- ==== Sys2Proof/Syntax.lean ====
section
/-! DEFINITION. The commands of the block: one constructor of `Instr` per row of the table of operations and events, with
the row's operands. What an operand says comes from outside the block (a message's fields, a pin's duration, a sensor's
reading), or names which of the block's engines acts. -/

namespace Sys2Proof

/-- Which instance of a kernel executes a lane instruction: its run, and its hardware thread (R167). Uniform code runs as
thread 0. -/
structure LaneWho where
  run : LaneRun
  t   : Nat
  deriving DecidableEq, Repr

/-- The fields of format R (Table 6.2) but for op and fn7. -/
structure FR where
  pg  : BitVec 3
  z   : Bool
  rd  : BitVec 5
  rs1 : BitVec 5
  rs2 : BitVec 5
  deriving DecidableEq, Repr

/-- The fields of format I (Table 6.2). -/
structure FI where
  pg  : BitVec 3
  z   : Bool
  rd  : BitVec 5
  rs1 : BitVec 5
  imm : BitVec 12
  deriving DecidableEq, Repr

/-- The fields of format U (Table 6.2). -/
structure FU where
  pg  : BitVec 3
  z   : Bool
  rd  : BitVec 5
  imm : BitVec 17
  deriving DecidableEq, Repr

/-- The fields of format B (Table 6.2). -/
structure FB where
  pg  : BitVec 3
  rs1 : BitVec 5
  rs2 : BitVec 5
  imm : BitVec 12
  deriving DecidableEq, Repr

/-- The fields of format J (Table 6.2). -/
structure FJ where
  pg  : BitVec 3
  imm : BitVec 22
  deriving DecidableEq, Repr

/-- An error of the matrix array, as the residue check meets it (R132 to R134): the output, the chunk, and what is added to
the exact integer sum N of that chunk. -/
structure Upset where
  m     : Nat
  n     : Nat
  chunk : Nat
  delta : Int
  deriving DecidableEq, Repr

/-- The commands (rows of the table of operations and events), in the table's order. -/
inductive Instr where
  /-- TICK, R18: The crossing clock reaches PERIOD cycles after the previous tick and opens the next crossing. -/
  | tick
  /-- STEP_COMPLETION, R20: A timetable step completes and the timetable unit registers it, which may start the next phase or batch. -/
  | stepCompletion (step cycles : Nat)
  /-- TIMETABLE_STOPPED, R30: The steps in flight in STOPPING complete, the unit enters STOPPED, the locks clear and held effects are released. -/
  | timetableStopped
  /-- PERIOD_APPLY, R21: A write of 1 to XNG_CTRL.PERIOD_APPLY captures NEXT and APPLY_AT and arms or refuses a period change. -/
  | periodApply
  /-- PERIOD_CHANGED, R21: At tick APPLY_AT the armed period becomes XNG_PERIOD.CURRENT. -/
  | periodChanged
  /-- RING_EN, R48: A write of XNG_CTRL.RING_EN enables the elapsed ring or, if the ring is not in one pinned MODULE region, is ignored and sets BAD_RING. -/
  | ringEn (v : Bool)
  /-- WINDOW_WRITE, R37: A write of XNG_WINDOW.WINDOW by the lead is accepted, or refused with BAD_WINDOW. -/
  | windowWrite (w : BitVec 26)
  /-- OVERRUN, R29: The 65th consecutive slack crossing raises the overrun fault, and with OVR_STOP the unit enters STOPPING. -/
  | overrun
  /-- CUTOFF, R34: At cycle T minus W each member samples its readiness and sends its vote. -/
  | cutoff
  /-- VOTE_SUM, R349: The lead receives a combined vote from the adapter tree, and sends its decision once every vote is in. -/
  | voteSum (group tick : Nat) (ready : Bool) (present : BitVec 1024)
  /-- VOTE_DEADLINE, R35: At cycle T minus W/2 the lead counts the votes still absent as missing and sends its decision. -/
  | voteDeadline
  /-- GROUP_FAULT, R39: A rank missing its vote for three consecutive crossings makes the lead issue FAULT. -/
  | groupFault
  /-- DECISION, R36: A member receives the lead's decision, and applies it at the tick if it arrived by T minus 1. -/
  | decision (d : Decision)
  /-- LEAD_LOST, R40: A member that misses two consecutive decisions declares LEAD_LOST and acts as on a group fault. -/
  | leadLost
  /-- CROSSING_MARKER, R42: A crossing-marker ordered set arrives and the module slews its next tick by at most one cycle toward the marked position. -/
  | crossingMarker (bytes : List Byte)
  /-- HOLDOVER, R42: Four ticks without a valid marker set HOLDOVER. -/
  | holdover
  /-- ALIGN_LOST, R43: A tick offset above 64 cycles for 16 consecutive ticks sets ALIGN_ERR. -/
  | alignLost
  /-- PROBE, R37: A PROBE arrives and is echoed, or an echo gives the lead a one-way latency toward RTT_MAX. -/
  | probe (echo : Bool) (group rank tick cycles latency : Nat)
  /-- GROUP_FORMED, R368: At the formation tick every member loads XNG_TICK 0 and joins the group in its role. -/
  | groupFormed
  /-- MEMBER_JOINED, R44: At the join's effective tick the joiner loads the group's tick and index and becomes a MEMBER. -/
  | memberJoined (rank : Nat)
  /-- MEMBER_LEFT, R45: At the leave's effective tick the member's vote is no longer required and it leaves the group. -/
  | memberLeft (rank : Nat)
  /-- DISSOLVE, R368: At MEMBER_AT of a DISSOLVE decision every member becomes SOLO. -/
  | dissolve (group : Nat)
  /-- TT_LOAD, R82: A load binds an image into a slot and runs admission, which admits or rejects it. -/
  | ttLoad (m : Nat)
  /-- TT_START, R84: A start carries the seed and step base, runs the GROUP check and moves the timetable unit to STARTING. -/
  | ttStart (m : Nat) (agree : Bool)
  /-- LOCK_PAGES, R268: After conflicting free-running work completes, the region unit writes back cached lines and locks every bound page. -/
  | lockPages (agree : Bool)
  /-- TT_SWITCH, R217: A switch command is checked and made pending in FRESH or RESUME mode. -/
  | ttSwitch (m : Nat)
  /-- TT_CURSOR, R207: The cursor command posts a tagged 64-byte data cursor to the active slot's cursor table. -/
  | ttCursor (m : Nat)
  /-- TTU_CURSOR_POST, R207: A write of TTU_CURSOR_POST.TAG posts a cursor with the contents of TTU_CURSOR_DATA. -/
  | ttuCursorPost (tag : BitVec 40)
  /-- TT_SHIP_TARGET, R212: The command sets the host range that receives the snapshots of a STAGING region. -/
  | ttShipTarget (m : Nat)
  /-- XNG_PERIOD, R365: The mailbox command judges a period change at once and arms it or refuses it. -/
  | xngPeriod (m : Nat)
  /-- MOVE, R66: A ferry step copies or converts rows from its source place to its destination place. -/
  | move (step : Nat)
  /-- MMA_FULL, R67: A FULL matrix product computes a 32 by 32 tile in reference order and writes C and the tile status. -/
  | mmaFull (step : Nat) (upset : Option Upset)
  /-- MMA_PARTIAL, R67: A PARTIAL product writes the A48 accumulator block and tag of a tree node. -/
  | mmaPartial (step : Nat) (upset : Option Upset)
  /-- MMA_COMBINE, R68: A COMBINE checks two tags and adds two sibling accumulator blocks into the parent block. -/
  | mmaCombine (step : Nat)
  /-- MMA_FINAL, R67: A FINAL applies the epilogue to a root accumulator block and writes C and the tile status. -/
  | mmaFinal (step : Nat)
  /-- KERNEL, R69: A KERNEL step runs a lane kernel on its logical islet with its declared ranges and arguments. -/
  | kernel (step : Nat)
  /-- ALLREDUCE, R70: An EXCH ALLREDUCE reduces SRC over all ranks into DST in canonical tree order. -/
  | allreduce (step : Nat) (others : List (Nat × Int × List Byte))
  /-- REDUCE_SCATTER, R70: An EXCH REDUCE_SCATTER reduces each rank's share of SRC over all ranks. -/
  | reduceScatter (step : Nat) (others : List (Nat × Int × List Byte))
  /-- ALLGATHER, R70: An EXCH ALLGATHER copies every rank's SRC into DST. -/
  | allgather (step : Nat) (others : List (Nat × Int × List Byte))
  /-- BROADCAST, R70: An EXCH BROADCAST copies the root rank's SRC into DST. -/
  | broadcast (step : Nat) (others : List (Nat × Int × List Byte))
  /-- SNAP_SHIP, R210: A SNAP SHIP copies its ranges into the staging region with a manifest, waiting if an earlier snapshot is still being shipped. -/
  | snapShip (step : Nat)
  /-- SNAP_POLICY, R214: A SNAP POLICY writes a B4 policy copy into the staging region and the stores of its logical islets. -/
  | snapPolicy (step : Nat)
  /-- SHIPMENT_START, R212: The next released snapshot starts shipping once the previous shipment has finished. -/
  | shipmentStart
  /-- STORE_SCRUB, R146: The islet store scrubber reads a row in an unclaimed bank cycle and writes back a corrected word. -/
  | storeScrub (islet row : Nat)
  /-- ISLET_PARITY, R161: A byte-parity error on a data path inside an islet is detected as an islet fault. -/
  | isletParity (islet : Nat)
  /-- FERRY_INTERNAL, R161: An internal error of an islet's ferry is detected as an islet fault. -/
  | ferryInternal (islet : Nat)
  /-- LANE_INTERNAL, R194: An internal error of a lane core or the pass buffer is detected as an islet fault. -/
  | laneInternal (islet : Nat)
  /-- FRY_QTAIL, R160: A write of FRY_QTAIL rings a ferry queue's doorbell, or is refused and sets QHEAD.ERR. -/
  | fryQtail (q : Nat) (v : Word32)
  /-- FRY_QCFG_ENABLE, R160: A write of QCFG.ENABLE 1 starts a ferry queue unless it is BUSY. -/
  | fryQcfgEnable (q : Nat) (v : Word64)
  /-- FRY_QCFG_DISABLE, R160: A write of QCFG.ENABLE 0 stops a ferry queue, and its descriptors that have not started complete as ABORTED. -/
  | fryQcfgDisable (q : Nat) (v : Word64)
  /-- FERRY_DESCRIPTOR, R159: The ferry pool reads a descriptor at HEAD, checks it against the context's regions and page tags, and starts moving. -/
  | ferryDescriptor (q islet : Nat)
  /-- COPY, R158: A COPY descriptor moves rows of raw bytes. -/
  | copy (q pos : Nat)
  /-- CONVERT, R158: A CONVERT descriptor converts elements between formats at scale 1.0. -/
  | convert (q pos : Nat)
  /-- FILL, R158: A FILL descriptor writes an 8-byte pattern into every destination row. -/
  | fill (q pos : Nat)
  /-- FERRY_COMPLETION, R159: A descriptor's data movement completes, its completion record is written in order, and HEAD advances. -/
  | ferryCompletion (q : Nat)
  /-- LNC_QTAIL, R197: A write of LNC_QTAIL rings a lane launch queue's doorbell. -/
  | lncQtail (q : Nat) (v : Word32)
  /-- LNC_QCFG_ENABLE, R197: A write of QCFG.ENABLE 1 starts a lane launch queue. -/
  | lncQcfgEnable (q : Nat) (v : Word64)
  /-- LNC_QCFG_DISABLE, R197: A write of QCFG.ENABLE 0 stops a lane launch queue, and its kernels that have not started complete as ABORTED. -/
  | lncQcfgDisable (q : Nat) (v : Word64)
  /-- LANE_LOAD_RETURN, R168: Data of a memory load arrives and the waiting thread becomes ready. -/
  | laneLoadReturn (w : LaneWho) (data : List Byte) (poison : Bool)
  /-- PASS_COMMIT, R173: At the end of a pass its buffered stores take effect in ascending element order. -/
  | passCommit (run : LaneRun)
  /-- ADD, R179: The ALU function ADD adds two registers modulo 2^32. -/
  | laneAdd (w : LaneWho) (f : FR)
  /-- SUB, R179: The ALU function SUB subtracts two registers modulo 2^32. -/
  | laneSub (w : LaneWho) (f : FR)
  /-- AND, R179: The ALU function AND forms the bitwise and of two registers. -/
  | laneAnd (w : LaneWho) (f : FR)
  /-- OR, R179: The ALU function OR forms the bitwise or of two registers. -/
  | laneOr (w : LaneWho) (f : FR)
  /-- XOR, R179: The ALU function XOR forms the bitwise exclusive-or of two registers. -/
  | laneXor (w : LaneWho) (f : FR)
  /-- SLL, R179: The ALU function SLL shifts left by g[rs2] bits 4:0. -/
  | laneSll (w : LaneWho) (f : FR)
  /-- SRL, R179: The ALU function SRL shifts right logically by g[rs2] bits 4:0. -/
  | laneSrl (w : LaneWho) (f : FR)
  /-- SRA, R179: The ALU function SRA shifts right arithmetically by g[rs2] bits 4:0. -/
  | laneSra (w : LaneWho) (f : FR)
  /-- MUL, R179: The ALU function MUL gives the low 32 bits of the product. -/
  | laneMul (w : LaneWho) (f : FR)
  /-- MULHU, R179: The ALU function MULHU gives the high 32 bits of the unsigned product. -/
  | laneMulhu (w : LaneWho) (f : FR)
  /-- MULH, R179: The ALU function MULH gives the high 32 bits of the signed product. -/
  | laneMulh (w : LaneWho) (f : FR)
  /-- MIN, R178: The ALU function MIN gives the signed minimum. -/
  | laneMin (w : LaneWho) (f : FR)
  /-- MAX, R178: The ALU function MAX gives the signed maximum. -/
  | laneMax (w : LaneWho) (f : FR)
  /-- MINU, R178: The ALU function MINU gives the unsigned minimum. -/
  | laneMinu (w : LaneWho) (f : FR)
  /-- MAXU, R178: The ALU function MAXU gives the unsigned maximum. -/
  | laneMaxu (w : LaneWho) (f : FR)
  /-- DIVU, R179: The ALU function DIVU gives the unsigned quotient, and all ones for a zero divisor. -/
  | laneDivu (w : LaneWho) (f : FR)
  /-- REMU, R179: The ALU function REMU gives the unsigned remainder, and the dividend for a zero divisor. -/
  | laneRemu (w : LaneWho) (f : FR)
  /-- ADD_B4, R178: The PACK function ADD.B4 adds per byte modulo 2^8. -/
  | laneAddB4 (w : LaneWho) (f : FR)
  /-- SUB_B4, R178: The PACK function SUB.B4 subtracts per byte modulo 2^8. -/
  | laneSubB4 (w : LaneWho) (f : FR)
  /-- ADDS_B4, R178: The PACK function ADDS.B4 adds per byte with signed saturation. -/
  | laneAddsB4 (w : LaneWho) (f : FR)
  /-- MIN_B4, R178: The PACK function MIN.B4 gives the signed minimum per byte. -/
  | laneMinB4 (w : LaneWho) (f : FR)
  /-- MAX_B4, R178: The PACK function MAX.B4 gives the signed maximum per byte. -/
  | laneMaxB4 (w : LaneWho) (f : FR)
  /-- DOT_B4, R178: The PACK function DOT.B4 accumulates the four signed byte products into rd. -/
  | laneDotB4 (w : LaneWho) (f : FR)
  /-- ADD_H2, R178: The PACK function ADD.H2 adds per half modulo 2^16. -/
  | laneAddH2 (w : LaneWho) (f : FR)
  /-- SUB_H2, R178: The PACK function SUB.H2 subtracts per half modulo 2^16. -/
  | laneSubH2 (w : LaneWho) (f : FR)
  /-- ADDS_H2, R178: The PACK function ADDS.H2 adds per half with signed saturation. -/
  | laneAddsH2 (w : LaneWho) (f : FR)
  /-- MIN_H2, R178: The PACK function MIN.H2 gives the signed minimum per half. -/
  | laneMinH2 (w : LaneWho) (f : FR)
  /-- MAX_H2, R178: The PACK function MAX.H2 gives the signed maximum per half. -/
  | laneMaxH2 (w : LaneWho) (f : FR)
  /-- MUL_H2, R178: The PACK function MUL.H2 gives the low 16 bits of each half product. -/
  | laneMulH2 (w : LaneWho) (f : FR)
  /-- ADDI, R178: ADDI adds a sign-extended immediate to a register. -/
  | laneAddi (w : LaneWho) (f : FI)
  /-- ANDI, R178: ANDI ands a register with a sign-extended immediate. -/
  | laneAndi (w : LaneWho) (f : FI)
  /-- ORI, R178: ORI ors a register with a sign-extended immediate. -/
  | laneOri (w : LaneWho) (f : FI)
  /-- XORI, R178: XORI exclusive-ors a register with a sign-extended immediate. -/
  | laneXori (w : LaneWho) (f : FI)
  /-- SLLI, R178: SLLI shifts a register left by an immediate amount. -/
  | laneSlli (w : LaneWho) (f : FI)
  /-- SRLI, R178: SRLI shifts a register right logically by an immediate amount. -/
  | laneSrli (w : LaneWho) (f : FI)
  /-- SRAI, R178: SRAI shifts a register right arithmetically by an immediate amount. -/
  | laneSrai (w : LaneWho) (f : FI)
  /-- LUI, R178: LUI loads imm17 shifted left by 15 into rd. -/
  | laneLui (w : LaneWho) (f : FU)
  /-- LLI, R178: LLI sets rd bits 14:0 from the immediate and keeps bits 31:15. -/
  | laneLli (w : LaneWho) (f : FU)
  /-- FADD, R180: FADD adds two F32 values with one rounding. -/
  | laneFadd (w : LaneWho) (f : FR)
  /-- FSUB, R180: FSUB subtracts two F32 values with one rounding. -/
  | laneFsub (w : LaneWho) (f : FR)
  /-- FMUL, R180: FMUL multiplies two F32 values with one rounding. -/
  | laneFmul (w : LaneWho) (f : FR)
  /-- FDIV, R180: FDIV divides two F32 values with one rounding. -/
  | laneFdiv (w : LaneWho) (f : FR)
  /-- FMIN, R101: FMIN gives the F32 minimum under the module's MIN rules. -/
  | laneFmin (w : LaneWho) (f : FR)
  /-- FMAX, R101: FMAX gives the F32 maximum under the module's MAX rules. -/
  | laneFmax (w : LaneWho) (f : FR)
  /-- FSQRT, R180: FSQRT gives the rounded square root of g[rs1]. -/
  | laneFsqrt (w : LaneWho) (f : FR)
  /-- FEXP2, R180: FEXP2 gives 2 raised to g[rs1], rounded once. -/
  | laneFexp2 (w : LaneWho) (f : FR)
  /-- FLOG2, R180: FLOG2 gives the base-2 logarithm of g[rs1], rounded once. -/
  | laneFlog2 (w : LaneWho) (f : FR)
  /-- FNEG, R180: FNEG negates g[rs1], giving the canonical NaN for a NaN. -/
  | laneFneg (w : LaneWho) (f : FR)
  /-- FABS, R180: FABS gives the magnitude of g[rs1], giving the canonical NaN for a NaN. -/
  | laneFabs (w : LaneWho) (f : FR)
  /-- FMAC, R180: FMAC adds the product of g[rs1] and g[rs2] to rd with one rounding. -/
  | laneFmac (w : LaneWho) (f : FR)
  /-- F2I, R181: F2I converts F32 to a signed 32-bit integer, rounding to nearest even and clamping. -/
  | laneF2i (w : LaneWho) (f : FR)
  /-- I2F, R181: I2F converts a signed 32-bit integer to F32. -/
  | laneI2f (w : LaneWho) (f : FR)
  /-- F2F16, R181: F2F16 converts F32 to F16. -/
  | laneF2f16 (w : LaneWho) (f : FR)
  /-- F162F, R181: F162F converts F16 to F32. -/
  | laneF162f (w : LaneWho) (f : FR)
  /-- F2W16, R181: F2W16 converts F32 to W16. -/
  | laneF2w16 (w : LaneWho) (f : FR)
  /-- W162F, R181: W162F converts W16 to F32. -/
  | laneW162f (w : LaneWho) (f : FR)
  /-- F2E4M3, R181: F2E4M3 converts F32 to E4M3. -/
  | laneF2e4m3 (w : LaneWho) (f : FR)
  /-- E4M32F, R181: E4M32F converts E4M3 to F32. -/
  | laneE4m32f (w : LaneWho) (f : FR)
  /-- F2E5M2, R181: F2E5M2 converts F32 to E5M2. -/
  | laneF2e5m2 (w : LaneWho) (f : FR)
  /-- E5M22F, R181: E5M22F converts E5M2 to F32. -/
  | laneE5m22f (w : LaneWho) (f : FR)
  /-- F2I8, R181: F2I8 converts F32 to INT8. -/
  | laneF2i8 (w : LaneWho) (f : FR)
  /-- I82F, R181: I82F converts INT8 to F32. -/
  | laneI82f (w : LaneWho) (f : FR)
  /-- FEQ, R180: FEQ sets a predicate when two F32 values are equal. -/
  | laneFeq (w : LaneWho) (f : FR)
  /-- FLT, R180: FLT sets a predicate when the first F32 value is less than the second. -/
  | laneFlt (w : LaneWho) (f : FR)
  /-- FLE, R180: FLE sets a predicate when the first F32 value is less than or equal to the second. -/
  | laneFle (w : LaneWho) (f : FR)
  /-- FUN, R180: FUN sets a predicate when two F32 values are unordered. -/
  | laneFun (w : LaneWho) (f : FR)
  /-- EQ, R178: EQ sets a predicate on integer equality. -/
  | laneEq (w : LaneWho) (f : FR)
  /-- NE, R178: NE sets a predicate on integer inequality. -/
  | laneNe (w : LaneWho) (f : FR)
  /-- LT, R178: LT sets a predicate on signed less-than. -/
  | laneLt (w : LaneWho) (f : FR)
  /-- LTU, R178: LTU sets a predicate on unsigned less-than. -/
  | laneLtu (w : LaneWho) (f : FR)
  /-- GE, R178: GE sets a predicate on signed greater-or-equal. -/
  | laneGe (w : LaneWho) (f : FR)
  /-- GEU, R178: GEU sets a predicate on unsigned greater-or-equal. -/
  | laneGeu (w : LaneWho) (f : FR)
  /-- PLOG_AND, R178: PLOG AND sets a predicate to the and of two predicates. -/
  | lanePlogAnd (w : LaneWho) (f : FR)
  /-- PLOG_OR, R178: PLOG OR sets a predicate to the or of two predicates. -/
  | lanePlogOr (w : LaneWho) (f : FR)
  /-- PLOG_XOR, R178: PLOG XOR sets a predicate to the exclusive-or of two predicates. -/
  | lanePlogXor (w : LaneWho) (f : FR)
  /-- PLOG_ANDN, R178: PLOG ANDN sets a predicate to ps1 and not ps2. -/
  | lanePlogAndn (w : LaneWho) (f : FR)
  /-- SEL, R178: SEL selects one of two registers by a predicate. -/
  | laneSel (w : LaneWho) (f : FR) (pq : BitVec 3)
  /-- LDS_B, R183: LDS.B loads a byte from the own islet store. -/
  | laneLdsB (w : LaneWho) (f : FI)
  /-- LDS_H, R183: LDS.H loads a halfword from the own islet store. -/
  | laneLdsH (w : LaneWho) (f : FI)
  /-- LDS_W, R183: LDS.W loads a word from the own islet store. -/
  | laneLdsW (w : LaneWho) (f : FI)
  /-- STS_B, R183: STS.B stores a byte to the own islet store. -/
  | laneStsB (w : LaneWho) (f : FI)
  /-- STS_H, R183: STS.H stores a halfword to the own islet store. -/
  | laneStsH (w : LaneWho) (f : FI)
  /-- STS_W, R183: STS.W stores a word to the own islet store. -/
  | laneStsW (w : LaneWho) (f : FI)
  /-- LDM_B, R184: LDM.B loads a byte through a declared range. -/
  | laneLdmB (w : LaneWho) (f : FR)
  /-- LDM_H, R184: LDM.H loads a halfword through a declared range. -/
  | laneLdmH (w : LaneWho) (f : FR)
  /-- LDM_W, R184: LDM.W loads a word through a declared range. -/
  | laneLdmW (w : LaneWho) (f : FR)
  /-- STM_B, R184: STM.B stores a byte through a declared range. -/
  | laneStmB (w : LaneWho) (f : FR)
  /-- STM_H, R184: STM.H stores a halfword through a declared range. -/
  | laneStmH (w : LaneWho) (f : FR)
  /-- STM_W, R184: STM.W stores a word through a declared range. -/
  | laneStmW (w : LaneWho) (f : FR)
  /-- LDE, R187: LDE loads element EI through an operand descriptor, decoded and scaled into F32. -/
  | laneLde (w : LaneWho) (f : FR)
  /-- STE, R187: STE encodes g[rd] into element EI through a TILE operand descriptor. -/
  | laneSte (w : LaneWho) (f : FR)
  /-- LDOD, R185: LDOD loads a 16-byte operand descriptor through a range into a descriptor slot. -/
  | laneLdod (w : LaneWho) (f : FR)
  /-- BEQ, R178: BEQ branches if two registers are equal. -/
  | laneBeq (w : LaneWho) (f : FB)
  /-- BNE, R178: BNE branches if two registers differ. -/
  | laneBne (w : LaneWho) (f : FB)
  /-- BLT, R178: BLT branches on signed less-than. -/
  | laneBlt (w : LaneWho) (f : FB)
  /-- BGE, R178: BGE branches on signed greater-or-equal. -/
  | laneBge (w : LaneWho) (f : FB)
  /-- BLTU, R178: BLTU branches on unsigned less-than. -/
  | laneBltu (w : LaneWho) (f : FB)
  /-- BGEU, R178: BGEU branches on unsigned greater-or-equal. -/
  | laneBgeu (w : LaneWho) (f : FB)
  /-- BP, R178: BP branches if a predicate is true. -/
  | laneBp (w : LaneWho) (f : FB)
  /-- J, R178: J jumps by a signed word offset. -/
  | laneJ (w : LaneWho) (f : FJ)
  /-- SETVL, R171: SETVL sets VL, clears the reduction slots it names and opens an element loop. -/
  | laneSetvl (w : LaneWho) (f : FI)
  /-- ENDVL, R171: ENDVL closes an element loop once every iteration has reached it and the last pass has committed. -/
  | laneEndvl (w : LaneWho) (f : FR)
  /-- RED_FSUM, R189: RED FSUM contributes an element to an A48 sum reduction slot. -/
  | laneRedFsum (w : LaneWho) (f : FR)
  /-- RED_FPROD, R189: RED FPROD contributes an element to a product reduction slot. -/
  | laneRedFprod (w : LaneWho) (f : FR)
  /-- RED_FMAX, R189: RED FMAX contributes an element to a maximum reduction slot. -/
  | laneRedFmax (w : LaneWho) (f : FR)
  /-- RED_FMIN, R189: RED FMIN contributes an element to a minimum reduction slot. -/
  | laneRedFmin (w : LaneWho) (f : FR)
  /-- RED_FARGMAX, R189: RED FARGMAX contributes a value and index to an argmax reduction slot. -/
  | laneRedFargmax (w : LaneWho) (f : FR)
  /-- RED_FARGMIN, R189: RED FARGMIN contributes a value and index to an argmin reduction slot. -/
  | laneRedFargmin (w : LaneWho) (f : FR)
  /-- RED_ISUM, R189: RED ISUM contributes to an integer sum modulo 2^32. -/
  | laneRedIsum (w : LaneWho) (f : FR)
  /-- RED_IMAX, R189: RED IMAX contributes to a signed integer maximum. -/
  | laneRedImax (w : LaneWho) (f : FR)
  /-- RED_IMIN, R189: RED IMIN contributes to a signed integer minimum. -/
  | laneRedImin (w : LaneWho) (f : FR)
  /-- GETRED, R190: GETRED reads a reduction slot's result and sets a predicate to EMPTY. -/
  | laneGetred (w : LaneWho) (f : FR)
  /-- MFSR, R178: MFSR reads VL or EI into a register. -/
  | laneMfsr (w : LaneWho) (f : FI)
  /-- BRK, R192: BRK traps with its imm17 code. -/
  | laneBrk (w : LaneWho) (f : FU)
  /-- HALT, R174: HALT ends the kernel, which completes once its stores are visible. -/
  | laneHalt (w : LaneWho) (f : FR)
  /-- LINE_READ, R233: A read of a 64-byte line arrives at its home controller, passes the page check and is served from its decoded block. -/
  | lineRead (ctx who addr : Nat)
  /-- LINE_WRITE, R234: A write of a line passes the page check and is accepted into a write-combining entry. -/
  | lineWrite (ctx who addr : Nat) (data : List Byte) (mask : BitVec 64) (parityBad : Bool)
  /-- WC_EVICTION, R234: A write-combining entry untouched for 512 cycles is evicted and written, by read-modify-write if it is partly valid. -/
  | wcEviction (chan block : Nat)
  /-- PATROL_SCRUB, R232: The patrol scrubber reads a data block in an unclaimed cycle and handles what it finds. -/
  | patrolScrub (block : Nat)
  /-- REFRESH, R239: A controller performs a per-bank refresh when its interval is due. -/
  | refresh (chan : Nat)
  /-- PRIMARY_CALIBRATION, R240: A channel's primary calibration ends, MEM_CAL_LAST is set, and any fall-back ends. -/
  | primaryCalibration (chan : Nat)
  /-- CAL_FALLBACK, R241: 100 ms after a channel's last primary calibration it enters fall-back calibration. -/
  | calFallback (chan : Nat)
  /-- MARGIN_SCAN_DONE, R243: A margin scan ends and produces its result record and verdict. -/
  | marginScanDone (tLeft tRight vLow vHigh : Nat)
  /-- CE_LIMIT_REACHED, R248: A channel's corrected errors in 24 hours reach CE_LIMIT and it becomes RETIRE_PENDING. -/
  | ceLimitReached (chan : Nat)
  /-- CHANNEL_LOST, R248: A channel stops answering, becomes LOST and takes the uncorrectable path. -/
  | channelLost (chan : Nat)
  /-- ALLOC_CTX, R261: The region command ALLOC_CTX makes a FREE context READY. -/
  | allocCtx (via : Via)
  /-- FREE_CTX, R261: The region command FREE_CTX removes a context's regions and groups and frees it. -/
  | freeCtx (via : Via)
  /-- ADD_REGION, R262: The region command ADD_REGION checks a descriptor, inserts it, claims its pages and pins it if asked. -/
  | addRegion (via : Via)
  /-- REMOVE_REGION, R262: The region command REMOVE_REGION removes a region and returns its pages to FREE. -/
  | removeRegion (via : Via)
  /-- PIN, R267: The region command PIN migrates every absent page in and sets PINNED. -/
  | pin (via : Via)
  /-- UNPIN, R263: The region command UNPIN clears PINNED on a region. -/
  | unpin (via : Via)
  /-- EVICT, R276: The region command EVICT writes a page back to its backing page and makes it ABSENT. -/
  | evict (via : Via)
  /-- JOIN_GROUP, R261: The region command JOIN_GROUP adds a shared group to a context. -/
  | joinGroup (via : Via)
  /-- LEAVE_GROUP, R261: The region command LEAVE_GROUP removes a shared group from a context. -/
  | leaveGroup (via : Via)
  /-- PAGE_MIGRATED, R270: A migration's last block is written, the page becomes RESIDENT, and held requests are decided again. -/
  | pageMigrated (entry : Nat)
  /-- COUNT_DECAY, R274: Every 2^(DECAY+20) cycles the region unit halves COUNT in every ABSENT page tag. -/
  | countDecay
  /-- SKCTX_WRITE, R284: A write of CSR skctx sets the context carried by the hart's later requests. -/
  | skctxWrite (hart : Nat) (priv : Priv) (v : Word64)
  /-- LOAD, R310: A core load meets its cache line and hits, waits or sends RDS. -/
  | load (hart addr size : Nat) (kind : AccKind) (va : Word64) (victim : Option Nat)
  /-- STORE, R310: A core store meets its cache line and hits, waits, or sends RDX or UPG. -/
  | store (hart addr : Nat) (data : List Byte) (kind : AccKind) (va : Word64) (victim : Option Nat)
  /-- CBO_CLEAN, R287: cbo.clean writes dirty bytes of a line to its home. -/
  | cboClean (hart addr : Nat) (va : Word64)
  /-- CBO_FLUSH, R287: cbo.flush writes back and invalidates a line. -/
  | cboFlush (hart addr : Nat) (va : Word64)
  /-- CBO_INVAL, R287: cbo.inval invalidates a line, or flushes it where envcfg forbids invalidation. -/
  | cboInval (hart addr : Nat) (va : Word64) (permit : Bool)
  /-- CBO_ZERO, R289: cbo.zero writes a whole line and clears its poison. -/
  | cboZero (hart addr : Nat) (va : Word64) (victim : Option Nat)
  /-- RDS, R300: A home agent accepts a read-for-sharing, checks the page and sends SNPS. -/
  | rds (x : RMsg)
  /-- RDX, R300: A home agent accepts a read-for-ownership and sends SNPX. -/
  | rdx (x : RMsg)
  /-- UPG, R300: A home agent accepts an upgrade request and sends SNPX. -/
  | upg (x : RMsg)
  /-- CBO, R304: A home agent accepts a CBO request and sends SNPW or SNPX. -/
  | cbo (x : RMsg)
  /-- VIC, R302: A home agent accepts a victim request and orders it by SNPV. -/
  | vic (x : RMsg)
  /-- CHK, R285: A home agent re-checks a line's context and grants S or DENY. -/
  | chk (x : RMsg)
  /-- SNPS, R310: A cache receives a snoop serving an RDS and acts per its state. -/
  | snps (x : RMsg)
  /-- SNPX, R310: A cache receives an invalidating snoop and acts per its state. -/
  | snpx (x : RMsg)
  /-- SNPW, R310: A cache receives a write-back snoop and acts per its state. -/
  | snpw (x : RMsg)
  /-- SNPV, R302: A victim receives SNPV and sends WDATA or WCAN. -/
  | snpv (x : RMsg)
  /-- SRSP, R300: A home agent receives a stop's snoop response, and sends the grant once all are in. -/
  | srsp (x : RMsg) (victim : Option Nat)
  /-- GNT, R310: A requester receives a grant and installs once its data is present. -/
  | gnt (x : RMsg)
  /-- NACK, R306: A requester receives NACK in retry mode and waits its backoff. -/
  | nack (x : RMsg)
  /-- CACK, R306: A home agent receives CACK and closes the transaction in retry mode. -/
  | cack (x : RMsg)
  /-- WCAN, R302: A home agent receives a VIC cancellation. -/
  | wcan (x : RMsg)
  /-- DATA, R301: A requester receives 64 bytes of line data. -/
  | data (x : RMsg)
  /-- WDATA, R302: A home agent receives write-back data and writes it to its home cache or channel. -/
  | wdata (x : RMsg) (victim : Option Nat)
  /-- UDATA, R303: A home agent receives uncached store bytes for an uncacheable page. -/
  | udata (x : RMsg)
  /-- REQUEST_RESEND, R307: After its backoff a NACKed request is sent again with its original age stamp. -/
  | requestResend (agent line : Nat)
  /-- RESERVATION_EXPIRY, R307: The 4,096-cycle reservation of a line for an aged request ends. -/
  | reservationExpiry (line : Nat)
  /-- TRANSACTION_TIMEOUT, R313: A transaction left open longer than SND_CTRL.TIMEOUT is a protocol error. -/
  | transactionTimeout (num : Nat)
  /-- SND_LOCK, R305: Setting SND_CTRL.LOCK fixes the race mode and timeout until reset. -/
  | sndLock
  /-- DETECT, R321: The adapter is detected on all five lanes and the port moves to EQUALISE. -/
  | detect (p : Nat)
  /-- EQUALISE, R321: Equalisation of each lane completes and the port moves to ALIGN. -/
  | equalise (p : Nat)
  /-- ALIGN, R322: Lock, deskew and spare selection complete and the port moves to LINKUP. -/
  | align (p : Nat) (bad : BitVec 5) (scans : List (Nat × Nat × Nat × Nat))
  /-- LINKUP, R324: Credits and peer ID are exchanged, latency is measured, and the port becomes ACTIVE. -/
  | linkup (p peer req ctl trip : Nat)
  /-- TRAINING_TIMEOUT, R321: A training phase exceeds its limit and the port returns to DOWN, becoming LOST after three attempts. -/
  | trainingTimeout (p : Nat)
  /-- CODEWORD_LOCK_LOST, R325: An ACTIVE port loses codeword lock and retrains. -/
  | codewordLockLost (p : Nat)
  /-- RETRAIN_REQUEST, R325: The adapter requests a retrain by an ordered set. -/
  | retrainRequest (p : Nat)
  /-- LANE_CE_LIMIT, R325: A lane's corrected symbols in one second reach LANE_CE_LIMIT and a retrain takes the spare. -/
  | laneCeLimit (p lane : Nat)
  /-- RETRAIN_DONE, R325: A retrain completes and the transmitter resends from ACK plus 1, or a third failure makes the port LOST. -/
  | retrainDone (p : Nat) (bad : BitVec 5) (peer trip : Nat)
  /-- DATA_FLIT, R327: A DATA flit arrives and is accepted, discarded, or answered with a NAK. -/
  | dataFlit (p : Nat) (bytes : List Byte) (corr : List Nat) (uncorr : Nat)
  /-- IDLE_FLIT, R327: An IDLE flit arrives carrying the peer's latest ACK. -/
  | idleFlit (p : Nat) (bytes : List Byte) (corr : List Nat) (uncorr : Nat)
  /-- NAK, R327: A NAK flit arrives and the transmitter resends every DATA flit from ACK plus 1. -/
  | nak (p : Nat) (bytes : List Byte) (corr : List Nat) (uncorr : Nat)
  /-- NAK_HOLDOFF_EXPIRY, R327: 2 µs after a NAK without the expected flit, the receiver may send another NAK. -/
  | nakHoldoffExpiry (p : Nat)
  /-- ACK_FLIT_INTERVAL, R327: 64 flit times without a sent flit make the side send one carrying its ACK. -/
  | ackFlitInterval (p : Nat)
  /-- CRD, R329: A credit return arrives and adds units to a class. -/
  | crd (p cls units : Nat)
  /-- CREDIT_STALL, R329: A transaction waits for credits longer than CREDIT_TO and the port is LOST. -/
  | creditStall (p : Nat)
  /-- WIN_WR, R334: A window write lands in the port's inbound SRAM, or is refused. -/
  | winWr (p off : Nat) (data : List Byte)
  /-- WINDOW_DOORBELL, R336: A window doorbell write advances TAIL and resumes a HALTED queue. -/
  | windowDoorbell (p q : Nat) (v : Word64)
  /-- SLOT_READ, R337: While HEAD differs from TAIL the command processor reads and validates the slot at HEAD. -/
  | slotRead (p q : Nat)
  /-- SLOT_REREAD, R337: 250 ns after an invalid read the slot is read again, up to 8 times. -/
  | slotReread (p q : Nat)
  /-- PULL, R339: A PULL command copies host-region bytes into module memory on the ferry pool, on the ferry of an islet. -/
  | pull (p q : Nat) (m : MoveOn)
  /-- PUSH, R339: A PUSH command copies module memory into a host region on the ferry pool, on the ferry of an islet. -/
  | push (p q : Nat) (m : MoveOn)
  /-- FLUSH, R345: A FLUSH sends FLUSH_REQ on every ACTIVE port and waits for every FLUSH_ACK. -/
  | flush (p q seq : Nat)
  /-- NOP, R338: A NOP command does nothing and completes. -/
  | nop (p q seq : Nat)
  /-- ZNG_FLUSH_START, R345: A write of ZNG_FLUSH.START issues a FLUSH unless one is BUSY. -/
  | zngFlushStart
  /-- FLUSH_ACK, R345: A port's FLUSH_ACK arrives, and the FLUSH completes when all ports have answered. -/
  | flushAck (p num : Nat)
  /-- FLUSH_TIMEOUT, R345: A FLUSH not complete after 10 ms completes with TIMEOUT. -/
  | flushTimeout (num : Nat)
  /-- PLACE, R343: An adapter placement is checked and written into a registered region, or refused. -/
  | place (p h tag off : Nat) (ackReq : Bool) (bad : Option Nat) (data : List Byte)
  /-- RD_CPL, R341: A host read completion part arrives and its lines are delivered, poisoned on error. -/
  | rdCpl (p tag status off : Nat) (data : List Byte)
  /-- WR_ACK, R341: A host or peer write acknowledgement arrives and the writer's next stage may proceed. -/
  | wrAck (p tag status : Nat)
  /-- FEED, R348: A FEED arrives, and is answered with the module's FEED_ID or completes a pairing. -/
  | feed (answer : Bool) (dest src feed : Nat)
  /-- LINK_DOWN, R350: The adapter signals the link down and the port is lost. -/
  | linkDown (p : Nat)
  /-- PRSNT_N_HIGH, R453: PRSNT_N goes high after its filter on an ACTIVE port, counting as the link going down. -/
  | prsntNHigh (p us : Nat)
  /-- KEYS_RETURNED, R350: Once a key's traffic on the substitute is acknowledged, the key returns to its re-activated home port. -/
  | keysReturned (p : Nat)
  /-- MAILBOX_DOORBELL, R357: A doorbell moves an IDLE mailbox to POSTED, or is ignored as misuse. -/
  | mailboxDoorbell (m : Nat)
  /-- MAILBOX_ACK, R357: An acknowledgement moves a DONE mailbox to IDLE. -/
  | mailboxAck (m : Nat)
  /-- I3C_PRIVATE_WRITE, R359: An I3C private write sets the offset and writes mailbox bytes or the doorbell and acknowledge register. -/
  | i3cPrivateWrite (bytes : List Byte)
  /-- ENTDAA, R359: The I3C target takes a dynamic address by ENTDAA. -/
  | entdaa (addr : Nat)
  /-- SETDASA, R359: The I3C target takes a dynamic address from its static slot address by SETDASA. -/
  | setdasa (static_ addr : Nat)
  /-- COMMAND_TIMEOUT, R363: A command's time limit passes and it completes with TIMEOUT. -/
  | commandTimeout (via : Via)
  /-- GET_INFO, R366: GET_INFO returns identity, version or spare information by selector. -/
  | getInfo (m : Nat)
  /-- GET_STATE, R366: GET_STATE returns the module state, stage, functions, tick and index. -/
  | getState (m : Nat)
  /-- CONFIG_SET, R367: CONFIG_SET applies and optionally stores a configuration key. -/
  | configSet (m : Nat)
  /-- CONFIG_DONE, R377: CONFIG_DONE closes the configuration window and ends bring-up stage 4. -/
  | configDone (m : Nat)
  /-- SHUTDOWN, R373: SHUTDOWN stops every function and drains memory on the way to HALTED. -/
  | shutdown (m : Nat)
  /-- RESET, R373: RESET writes its response and returns the module to BOOT within 10 ms. -/
  | reset (m : Nat)
  /-- FUNC_START, R371: FUNC_START moves a STOPPED function to STARTING. -/
  | funcStart (m : Nat)
  /-- FUNC_STOP, R372: FUNC_STOP moves a function to STOPPING and completes when it reaches STOPPED. -/
  | funcStop (m : Nat)
  /-- FUNCTION_RUNNING, R371: A function's STARTING work ends and it becomes RUNNING. -/
  | functionRunning (f : Nat)
  /-- FUNCTION_STOPPED, R372: A function's STOPPING work ends and it becomes STOPPED, completing its stop commands. -/
  | functionStopped (f : Nat)
  /-- GROUP_FORM, R368: GROUP_FORM starts the formation of a crossing group, with the lead probing every rank. -/
  | groupForm (m : Nat)
  /-- GROUP_JOIN, R368: GROUP_JOIN enters JOINING and aligns the module to a group's markers. -/
  | groupJoin (m : Nat)
  /-- GROUP_ADMIT, R368: GROUP_ADMIT on the lead admits a joiner at an effective tick, or refuses it. -/
  | groupAdmit (m : Nat)
  /-- GROUP_LEAVE, R368: GROUP_LEAVE requests a member's leave, or on the lead dissolves the group. -/
  | groupLeave (m : Nat)
  /-- GROUP_WINDOW, R368: GROUP_WINDOW sets the decision window on the lead under the window rules. -/
  | groupWindow (m : Nat)
  /-- HOST_REGISTER, R369: HOST_REGISTER records a host region of the window. -/
  | hostRegister (m : Nat)
  /-- HOST_RELEASE, R369: HOST_RELEASE removes a host region that nothing uses. -/
  | hostRelease (m : Nat)
  /-- PLACE_REGISTER, R369: PLACE_REGISTER gives a PLACE region a handle and sends it to the adapters. -/
  | placeRegister (m : Nat)
  /-- PLACE_RELEASE, R369: PLACE_RELEASE completes a FLUSH and withdraws the handle from every adapter. -/
  | placeRelease (m : Nat)
  /-- QUEUE_CONFIG, R369: QUEUE_CONFIG binds a command queue to a context and completion ring, or moves queue 0's response ring. -/
  | queueConfig (m : Nat)
  /-- MARGIN, R242: MARGIN requests a margin scan, which runs in TRAIN or waits for a maintenance crossing. -/
  | margin (m : Nat)
  /-- PAIR, R398: PAIR sends FEED to the partner and waits for its answer. -/
  | pair (m : Nat)
  /-- UNPAIR, R398: UNPAIR clears the pairing. -/
  | unpair (m : Nat)
  /-- SECURE, R395: SECURE selects the securing destinations and binds a securing to the next anchor. -/
  | secure (m : Nat)
  /-- RESTORE, R401: RESTORE reads a secured state from the partner or host, checks it and restarts the timetable from it. -/
  | restore (m : Nat)
  /-- HEALTH_CONFIG, R383: HEALTH_CONFIG sets SECURE_AT, the securing mode and the interval window. -/
  | healthConfig (m : Nat)
  /-- STANDBY, R403: STANDBY makes a SOLO module a hot spare for a group. -/
  | standby (m : Nat)
  /-- TAKEOVER, R404: TAKEOVER retrains every ACTIVE port's LINKUP to take the lost module's peer ID. -/
  | takeover (m : Nat)
  /-- REC_READ, R420: REC_READ returns recorder slots in ascending order. -/
  | recRead (m : Nat)
  /-- ATTEST, R437: ATTEST forms and signs a new report at offset 0, or returns a slice of the last report. -/
  | attest (m : Nat)
  /-- GET_CERT, R436: GET_CERT returns a slice of the device certificate chain. -/
  | getCert (m : Nat)
  /-- FW_WRITE, R434: FW_WRITE writes payload bytes into the firmware staging area. -/
  | fwWrite (m : Nat)
  /-- FW_COMMIT, R434: FW_COMMIT checks the staged image, writes it to the idle bank, verifies it and makes it preferred. -/
  | fwCommit (m : Nat) (flashBad : Bool)
  /-- MODULE_HALTED, R373: Once every function is STOPPED and memory is drained, the module enters HALTED. -/
  | moduleHalted
  /-- E_HALVING, R381: Every 2^HALF cycles the risk event sum E halves. -/
  | eHalving
  /-- TEMP_SAMPLE, R449: Each die's hottest sensor is read every millisecond, updating TEMP and the thermal responses. -/
  | tempSample (dies : List Int) (coolIn coolOut : BitVec 16)
  /-- INTERVAL_EXPIRY, R394: In interval mode, I ticks after the previous securing's anchor, a securing is requested. -/
  | intervalExpiry
  /-- POWER_WARNING, R397: The power-warning input or undervoltage asserts and the module secures in emergency and halts. -/
  | powerWarning (uv : Bool) (us : Nat)
  /-- LEAK_DETECTED, R447: A leak source asserts, asserting LEAK_N and the power warning. -/
  | leakDetected (src us : Nat)
  /-- RECORD_WRITE, R414: The recorder writer writes the next queued record into its slot. -/
  | recordWrite
  /-- MINUTE_COUNT, R417: Each whole minute of good power increments MINUTES, which is stored every 60 minutes. -/
  | minuteCount
  /-- PWR_EN_N_ASSERTED, R441: PWR_EN_N is asserted after its filter and the input switch closes if the voltage allows. -/
  | pwrEnNAsserted (us : Nat) (above : Bool)
  /-- PWR_EN_N_DEASSERTED, R446: PWR_EN_N is deasserted after its filter and a power-down starts, or waits for HALTED. -/
  | pwrEnNDeasserted (us : Nat)
  /-- POWER_DOWN, R446: The rails are removed in reverse order and the input switch opens. -/
  | powerDown
  /-- RAIL_STEP, R445: Every rail of a sequencing step reaches ±5 % and the next step starts. -/
  | railStep
  /-- RAIL_STEP_TIMEOUT, R445: A sequencing step exceeds its limit, the input switch opens and cause 6 is latched. -/
  | railStepTimeout
  /-- HARD_TRIP, R442: An undervoltage, overvoltage, overcurrent, rail or thermal trip opens the input switch and latches the cause. -/
  | hardTrip (trip : Trip)
  /-- POWER_LIMITING, R443: A sampled input reaches a current or power limit and issue gating starts. -/
  | powerLimiting (vin iin : BitVec 12) (watts : BitVec 16)
  /-- REGULATOR_WARNING, R445: A rail leaves ±5 % for 10 µs and its warning bit is set. -/
  | regulatorWarning (rail us : Nat)
  /-- COOLANT_WARNING, R450: A coolant inlet or rise condition lasts 10 s. -/
  | coolantWarning (coolIn coolOut : BitVec 16)
  /-- FEED_ID_CHANGED, R454: A feed strap changes after stage 1 and stays changed through its filter. -/
  | feedIdChanged (feed : BitVec 12) (us : Nat)
  /-- HARBOUR_FIRMWARE_START, R428: The mask ROM has verified and measured firmware and starts the Harbour firmware, ending stage 0. -/
  | harbourFirmwareStart
  /-- FLASH_READ, R377: Bring-up stage 1 reads the configuration flash, latches, straps and identity, and enters TRAIN. -/
  | flashRead (feed : BitVec 12) (slot : BitVec 5)
  /-- STRAIT_TRAINING, R377: Bring-up stage 2 ends when every strait is trained and every enabled port is ACTIVE or LOST. -/
  | straitTraining (bad : List Nat)
  /-- LPDDR_TRAINING, R246: Bring-up stage 3 trains and tests memory, retires channels and sets TRAINED. -/
  | lpddrTraining (bad : List Nat) (scans : List (Nat × Nat × Nat × Nat × Nat))
  /-- CONFIG_HOLD_EXPIRED, R377: CONFIG_HOLD expires and the configuration window closes. -/
  | configHoldExpired
  /-- ISLET_TEST, R164: Bring-up stage 6 releases the harts after the mainland body check, and ends when every islet is tested. -/
  | isletTest (bad : List Nat)
  /-- CLOCK_START, R377: Bring-up stage 7 starts XNG_CYCLE and XNG_TICK and enters READY or DEGRADED. -/
  | clockStart
  /-- ROLLBACK_RAISED, R433: Anti-rollback fuse programming completes, raising a counter to the running SVN. -/
  | rollbackRaised (kind : Nat)
  /-- BRINGUP_FAILED, R377: A bring-up stage exceeds its limit and the module enters FAILED. -/
  | bringupFailed (stage : Nat)
  /-- REGISTER_WRITE, R13: A write to a register without a row of its own sets its RW, W1C, W1S or RWL fields by their types. -/
  | registerWrite (off : Nat) (v : Word64)
  /-- TURN_ON_THRESHOLD, R441: The input voltage rises to the turn-on threshold while PWR_EN_N is already asserted, and the input switch closes. -/
  | turnOnThreshold
  /-- GATING_RELEASED, R443: A 1 µs input sample finds the draw back within both limits, and issue gating ends with PWR_STATUS.LIMITING cleared. -/
  | gatingReleased (vin iin : BitVec 12) (watts : BitVec 16)
  /-- WARNING_SOURCE_DEASSERTED, R447: A power-warning or leak source deasserts after its filter, releasing LEAK_N and clearing its status bits without leaving HALTED. -/
  | warningSourceDeasserted (src us : Nat)
  /-- STRAIT_LANE_SPARED, R405: A strait lane fails at run time and is replaced by its strait's spare lane, or its group of 32 lanes is dropped once the spare is in service. -/
  | straitLaneSpared (target : Nat)
  /-- LEAVE_REQUEST_RECEIVED, R368: The lead receives a member's DECISION carrying one leave entry and names an effective tick for the leave. -/
  | leaveRequestReceived (group rank : Nat)
  /-- HOST_WINDOW_ACCESS, R283: A hart's uncached load or store to the host window takes the region check and goes out as HOST_RD or HOST_WR in program order. -/
  | hostWindowAccess (hart addr size : Nat) (va : Word64) (data : Option (List Byte))
  /-- UNDEFINED_OPCODE, R361: A mailbox command, or an RGN_CMD write, whose opcode is not defined completes with BAD_OPCODE and does nothing. -/
  | undefinedOpcode (via : Via)
  deriving DecidableEq, Repr

end Sys2Proof
end

