-- ==== Sys2Proof/Decode.lean ====
section
/-! DEFINITION. Words that spell commands. No row of the table gives bits, so a table word spells no command. The one
encoding the spec gives is that of the lane instructions (R177, R178): their encoder, their decoder, and the rules that
kernel code meets (R191). -/

namespace Sys2Proof

/-- The command that a table word spells: none, since no row of the table gives bits. -/
def decodeTableWord (_nbits _w : Nat) : Option Instr := none

namespace Machine

/-- A word of format R (Table 6.2). -/
def wordR (op fn : Nat) (f : FR) : Nat :=
  f.pg.toNat <<< 29 ||| b2n f.z <<< 28 ||| op <<< 22 ||| f.rd.toNat <<< 17 ||| f.rs1.toNat <<< 12 ||| f.rs2.toNat <<< 7 ||| fn

/-- A word of format I (Table 6.2). -/
def wordI (op : Nat) (f : FI) : Nat :=
  f.pg.toNat <<< 29 ||| b2n f.z <<< 28 ||| op <<< 22 ||| f.rd.toNat <<< 17 ||| f.rs1.toNat <<< 12 ||| f.imm.toNat

/-- A word of format U (Table 6.2). -/
def wordU (op : Nat) (f : FU) : Nat :=
  f.pg.toNat <<< 29 ||| b2n f.z <<< 28 ||| op <<< 22 ||| f.rd.toNat <<< 17 ||| f.imm.toNat

/-- A word of format B (Table 6.2). -/
def wordB (op : Nat) (f : FB) : Nat :=
  f.pg.toNat <<< 29 ||| op <<< 22 ||| f.rs1.toNat <<< 17 ||| f.rs2.toNat <<< 12 ||| f.imm.toNat

/-- A word of format J (Table 6.2). -/
def wordJ (op : Nat) (f : FJ) : Nat := f.pg.toNat <<< 29 ||| op <<< 22 ||| f.imm.toNat

/-- The fields of a word of format R. -/
def fieldsR (v : Nat) : FR :=
  ⟨.ofNat 3 (bits v 31 29), v.testBit 28, .ofNat 5 (bits v 21 17), .ofNat 5 (bits v 16 12), .ofNat 5 (bits v 11 7)⟩

/-- The fields of a word of format I. -/
def fieldsI (v : Nat) : FI :=
  ⟨.ofNat 3 (bits v 31 29), v.testBit 28, .ofNat 5 (bits v 21 17), .ofNat 5 (bits v 16 12), .ofNat 12 (bits v 11 0)⟩

/-- The fields of a word of format U. -/
def fieldsU (v : Nat) : FU :=
  ⟨.ofNat 3 (bits v 31 29), v.testBit 28, .ofNat 5 (bits v 21 17), .ofNat 17 (bits v 16 0)⟩

/-- The fields of a word of format B. -/
def fieldsB (v : Nat) : FB :=
  ⟨.ofNat 3 (bits v 31 29), .ofNat 5 (bits v 21 17), .ofNat 5 (bits v 16 12), .ofNat 12 (bits v 11 0)⟩

/-- The fields of a word of format J. -/
def fieldsJ (v : Nat) : FJ := ⟨.ofNat 3 (bits v 31 29), .ofNat 22 (bits v 21 0)⟩

/-- The word of a lane instruction (R177, R178); none for every other command. -/
def laneWord : Instr → Option Nat
  | .laneAdd _ f => some (wordR 0x01 0x00 f)
  | .laneSub _ f => some (wordR 0x01 0x01 f)
  | .laneAnd _ f => some (wordR 0x01 0x02 f)
  | .laneOr _ f => some (wordR 0x01 0x03 f)
  | .laneXor _ f => some (wordR 0x01 0x04 f)
  | .laneSll _ f => some (wordR 0x01 0x05 f)
  | .laneSrl _ f => some (wordR 0x01 0x06 f)
  | .laneSra _ f => some (wordR 0x01 0x07 f)
  | .laneMul _ f => some (wordR 0x01 0x08 f)
  | .laneMulhu _ f => some (wordR 0x01 0x09 f)
  | .laneMulh _ f => some (wordR 0x01 0x0A f)
  | .laneMin _ f => some (wordR 0x01 0x0B f)
  | .laneMax _ f => some (wordR 0x01 0x0C f)
  | .laneMinu _ f => some (wordR 0x01 0x0D f)
  | .laneMaxu _ f => some (wordR 0x01 0x0E f)
  | .laneDivu _ f => some (wordR 0x01 0x0F f)
  | .laneRemu _ f => some (wordR 0x01 0x10 f)
  | .laneAddB4 _ f => some (wordR 0x02 0x00 f)
  | .laneSubB4 _ f => some (wordR 0x02 0x01 f)
  | .laneAddsB4 _ f => some (wordR 0x02 0x02 f)
  | .laneMinB4 _ f => some (wordR 0x02 0x03 f)
  | .laneMaxB4 _ f => some (wordR 0x02 0x04 f)
  | .laneDotB4 _ f => some (wordR 0x02 0x05 f)
  | .laneAddH2 _ f => some (wordR 0x02 0x10 f)
  | .laneSubH2 _ f => some (wordR 0x02 0x11 f)
  | .laneAddsH2 _ f => some (wordR 0x02 0x12 f)
  | .laneMinH2 _ f => some (wordR 0x02 0x13 f)
  | .laneMaxH2 _ f => some (wordR 0x02 0x14 f)
  | .laneMulH2 _ f => some (wordR 0x02 0x15 f)
  | .laneFadd _ f => some (wordR 0x10 0x00 f)
  | .laneFsub _ f => some (wordR 0x10 0x01 f)
  | .laneFmul _ f => some (wordR 0x10 0x02 f)
  | .laneFdiv _ f => some (wordR 0x10 0x03 f)
  | .laneFmin _ f => some (wordR 0x10 0x04 f)
  | .laneFmax _ f => some (wordR 0x10 0x05 f)
  | .laneFsqrt _ f => some (wordR 0x10 0x06 f)
  | .laneFexp2 _ f => some (wordR 0x10 0x07 f)
  | .laneFlog2 _ f => some (wordR 0x10 0x08 f)
  | .laneFneg _ f => some (wordR 0x10 0x09 f)
  | .laneFabs _ f => some (wordR 0x10 0x0A f)
  | .laneFmac _ f => some (wordR 0x10 0x0B f)
  | .laneF2i _ f => some (wordR 0x11 0x00 f)
  | .laneI2f _ f => some (wordR 0x11 0x01 f)
  | .laneF2f16 _ f => some (wordR 0x11 0x02 f)
  | .laneF162f _ f => some (wordR 0x11 0x03 f)
  | .laneF2w16 _ f => some (wordR 0x11 0x04 f)
  | .laneW162f _ f => some (wordR 0x11 0x05 f)
  | .laneF2e4m3 _ f => some (wordR 0x11 0x06 f)
  | .laneE4m32f _ f => some (wordR 0x11 0x07 f)
  | .laneF2e5m2 _ f => some (wordR 0x11 0x08 f)
  | .laneE5m22f _ f => some (wordR 0x11 0x09 f)
  | .laneF2i8 _ f => some (wordR 0x11 0x0A f)
  | .laneI82f _ f => some (wordR 0x11 0x0B f)
  | .laneFeq _ f => some (wordR 0x12 0x00 f)
  | .laneFlt _ f => some (wordR 0x12 0x01 f)
  | .laneFle _ f => some (wordR 0x12 0x02 f)
  | .laneFun _ f => some (wordR 0x12 0x03 f)
  | .laneEq _ f => some (wordR 0x12 0x08 f)
  | .laneNe _ f => some (wordR 0x12 0x09 f)
  | .laneLt _ f => some (wordR 0x12 0x0A f)
  | .laneLtu _ f => some (wordR 0x12 0x0B f)
  | .laneGe _ f => some (wordR 0x12 0x0C f)
  | .laneGeu _ f => some (wordR 0x12 0x0D f)
  | .lanePlogAnd _ f => some (wordR 0x13 0x00 f)
  | .lanePlogOr _ f => some (wordR 0x13 0x01 f)
  | .lanePlogXor _ f => some (wordR 0x13 0x02 f)
  | .lanePlogAndn _ f => some (wordR 0x13 0x03 f)
  | .laneRedFsum _ f => some (wordR 0x3A 0x00 f)
  | .laneRedFprod _ f => some (wordR 0x3A 0x01 f)
  | .laneRedFmax _ f => some (wordR 0x3A 0x02 f)
  | .laneRedFmin _ f => some (wordR 0x3A 0x03 f)
  | .laneRedFargmax _ f => some (wordR 0x3A 0x04 f)
  | .laneRedFargmin _ f => some (wordR 0x3A 0x05 f)
  | .laneRedIsum _ f => some (wordR 0x3A 0x08 f)
  | .laneRedImax _ f => some (wordR 0x3A 0x09 f)
  | .laneRedImin _ f => some (wordR 0x3A 0x0A f)
  | .laneLdmB _ f => some (wordR 0x26 0x00 f)
  | .laneLdmH _ f => some (wordR 0x27 0x00 f)
  | .laneLdmW _ f => some (wordR 0x28 0x00 f)
  | .laneStmB _ f => some (wordR 0x29 0x00 f)
  | .laneStmH _ f => some (wordR 0x2A 0x00 f)
  | .laneStmW _ f => some (wordR 0x2B 0x00 f)
  | .laneLde _ f => some (wordR 0x2C 0x00 f)
  | .laneSte _ f => some (wordR 0x2D 0x00 f)
  | .laneLdod _ f => some (wordR 0x2E 0x00 f)
  | .laneEndvl _ f => some (wordR 0x39 0x00 f)
  | .laneGetred _ f => some (wordR 0x3B 0x00 f)
  | .laneHalt _ f => some (wordR 0x3F 0x00 f)
  | .laneSel _ f pq => some (wordR 0x14 pq.toNat f)
  | .laneAddi _ f => some (wordI 0x03 f)
  | .laneAndi _ f => some (wordI 0x04 f)
  | .laneOri _ f => some (wordI 0x05 f)
  | .laneXori _ f => some (wordI 0x06 f)
  | .laneSlli _ f => some (wordI 0x07 f)
  | .laneSrli _ f => some (wordI 0x08 f)
  | .laneSrai _ f => some (wordI 0x09 f)
  | .laneLdsB _ f => some (wordI 0x20 f)
  | .laneLdsH _ f => some (wordI 0x21 f)
  | .laneLdsW _ f => some (wordI 0x22 f)
  | .laneStsB _ f => some (wordI 0x23 f)
  | .laneStsH _ f => some (wordI 0x24 f)
  | .laneStsW _ f => some (wordI 0x25 f)
  | .laneSetvl _ f => some (wordI 0x38 f)
  | .laneMfsr _ f => some (wordI 0x3C f)
  | .laneLui _ f => some (wordU 0x0A f)
  | .laneLli _ f => some (wordU 0x0B f)
  | .laneBrk _ f => some (wordU 0x3E f)
  | .laneBeq _ f => some (wordB 0x30 f)
  | .laneBne _ f => some (wordB 0x31 f)
  | .laneBlt _ f => some (wordB 0x32 f)
  | .laneBge _ f => some (wordB 0x33 f)
  | .laneBltu _ f => some (wordB 0x34 f)
  | .laneBgeu _ f => some (wordB 0x35 f)
  | .laneBp _ f => some (wordB 0x36 f)
  | .laneJ _ f => some (wordJ 0x37 f)
  | _ => none

/-- The opcodes that take a function code, or whose bits 6:0 are zero (Table 6.3). -/
def laneOfWordR (w : LaneWho) (v : Nat) : Option Instr :=
  match bits v 27 22, bits v 6 0 with
  | 0x01, 0x00 => some (.laneAdd w (fieldsR v))
  | 0x01, 0x01 => some (.laneSub w (fieldsR v))
  | 0x01, 0x02 => some (.laneAnd w (fieldsR v))
  | 0x01, 0x03 => some (.laneOr w (fieldsR v))
  | 0x01, 0x04 => some (.laneXor w (fieldsR v))
  | 0x01, 0x05 => some (.laneSll w (fieldsR v))
  | 0x01, 0x06 => some (.laneSrl w (fieldsR v))
  | 0x01, 0x07 => some (.laneSra w (fieldsR v))
  | 0x01, 0x08 => some (.laneMul w (fieldsR v))
  | 0x01, 0x09 => some (.laneMulhu w (fieldsR v))
  | 0x01, 0x0A => some (.laneMulh w (fieldsR v))
  | 0x01, 0x0B => some (.laneMin w (fieldsR v))
  | 0x01, 0x0C => some (.laneMax w (fieldsR v))
  | 0x01, 0x0D => some (.laneMinu w (fieldsR v))
  | 0x01, 0x0E => some (.laneMaxu w (fieldsR v))
  | 0x01, 0x0F => some (.laneDivu w (fieldsR v))
  | 0x01, 0x10 => some (.laneRemu w (fieldsR v))
  | 0x02, 0x00 => some (.laneAddB4 w (fieldsR v))
  | 0x02, 0x01 => some (.laneSubB4 w (fieldsR v))
  | 0x02, 0x02 => some (.laneAddsB4 w (fieldsR v))
  | 0x02, 0x03 => some (.laneMinB4 w (fieldsR v))
  | 0x02, 0x04 => some (.laneMaxB4 w (fieldsR v))
  | 0x02, 0x05 => some (.laneDotB4 w (fieldsR v))
  | 0x02, 0x10 => some (.laneAddH2 w (fieldsR v))
  | 0x02, 0x11 => some (.laneSubH2 w (fieldsR v))
  | 0x02, 0x12 => some (.laneAddsH2 w (fieldsR v))
  | 0x02, 0x13 => some (.laneMinH2 w (fieldsR v))
  | 0x02, 0x14 => some (.laneMaxH2 w (fieldsR v))
  | 0x02, 0x15 => some (.laneMulH2 w (fieldsR v))
  | 0x10, 0x00 => some (.laneFadd w (fieldsR v))
  | 0x10, 0x01 => some (.laneFsub w (fieldsR v))
  | 0x10, 0x02 => some (.laneFmul w (fieldsR v))
  | 0x10, 0x03 => some (.laneFdiv w (fieldsR v))
  | 0x10, 0x04 => some (.laneFmin w (fieldsR v))
  | 0x10, 0x05 => some (.laneFmax w (fieldsR v))
  | 0x10, 0x06 => some (.laneFsqrt w (fieldsR v))
  | 0x10, 0x07 => some (.laneFexp2 w (fieldsR v))
  | 0x10, 0x08 => some (.laneFlog2 w (fieldsR v))
  | 0x10, 0x09 => some (.laneFneg w (fieldsR v))
  | 0x10, 0x0A => some (.laneFabs w (fieldsR v))
  | 0x10, 0x0B => some (.laneFmac w (fieldsR v))
  | 0x11, 0x00 => some (.laneF2i w (fieldsR v))
  | 0x11, 0x01 => some (.laneI2f w (fieldsR v))
  | 0x11, 0x02 => some (.laneF2f16 w (fieldsR v))
  | 0x11, 0x03 => some (.laneF162f w (fieldsR v))
  | 0x11, 0x04 => some (.laneF2w16 w (fieldsR v))
  | 0x11, 0x05 => some (.laneW162f w (fieldsR v))
  | 0x11, 0x06 => some (.laneF2e4m3 w (fieldsR v))
  | 0x11, 0x07 => some (.laneE4m32f w (fieldsR v))
  | 0x11, 0x08 => some (.laneF2e5m2 w (fieldsR v))
  | 0x11, 0x09 => some (.laneE5m22f w (fieldsR v))
  | 0x11, 0x0A => some (.laneF2i8 w (fieldsR v))
  | 0x11, 0x0B => some (.laneI82f w (fieldsR v))
  | 0x12, 0x00 => some (.laneFeq w (fieldsR v))
  | 0x12, 0x01 => some (.laneFlt w (fieldsR v))
  | 0x12, 0x02 => some (.laneFle w (fieldsR v))
  | 0x12, 0x03 => some (.laneFun w (fieldsR v))
  | 0x12, 0x08 => some (.laneEq w (fieldsR v))
  | 0x12, 0x09 => some (.laneNe w (fieldsR v))
  | 0x12, 0x0A => some (.laneLt w (fieldsR v))
  | 0x12, 0x0B => some (.laneLtu w (fieldsR v))
  | 0x12, 0x0C => some (.laneGe w (fieldsR v))
  | 0x12, 0x0D => some (.laneGeu w (fieldsR v))
  | 0x13, 0x00 => some (.lanePlogAnd w (fieldsR v))
  | 0x13, 0x01 => some (.lanePlogOr w (fieldsR v))
  | 0x13, 0x02 => some (.lanePlogXor w (fieldsR v))
  | 0x13, 0x03 => some (.lanePlogAndn w (fieldsR v))
  | 0x26, 0x00 => some (.laneLdmB w (fieldsR v))
  | 0x27, 0x00 => some (.laneLdmH w (fieldsR v))
  | 0x28, 0x00 => some (.laneLdmW w (fieldsR v))
  | 0x29, 0x00 => some (.laneStmB w (fieldsR v))
  | 0x2A, 0x00 => some (.laneStmH w (fieldsR v))
  | 0x2B, 0x00 => some (.laneStmW w (fieldsR v))
  | 0x2C, 0x00 => some (.laneLde w (fieldsR v))
  | 0x2D, 0x00 => some (.laneSte w (fieldsR v))
  | 0x2E, 0x00 => some (.laneLdod w (fieldsR v))
  | 0x39, 0x00 => some (.laneEndvl w (fieldsR v))
  | 0x3A, 0x00 => some (.laneRedFsum w (fieldsR v))
  | 0x3A, 0x01 => some (.laneRedFprod w (fieldsR v))
  | 0x3A, 0x02 => some (.laneRedFmax w (fieldsR v))
  | 0x3A, 0x03 => some (.laneRedFmin w (fieldsR v))
  | 0x3A, 0x04 => some (.laneRedFargmax w (fieldsR v))
  | 0x3A, 0x05 => some (.laneRedFargmin w (fieldsR v))
  | 0x3A, 0x08 => some (.laneRedIsum w (fieldsR v))
  | 0x3A, 0x09 => some (.laneRedImax w (fieldsR v))
  | 0x3A, 0x0A => some (.laneRedImin w (fieldsR v))
  | 0x3B, 0x00 => some (.laneGetred w (fieldsR v))
  | 0x3F, 0x00 => some (.laneHalt w (fieldsR v))
  | _, _ => none

/-- The opcodes of the other formats (Table 6.3). -/
def laneOfWordO (w : LaneWho) (v : Nat) : Option Instr :=
  match bits v 27 22 with
  | 0x03 => some (.laneAddi w (fieldsI v))
  | 0x04 => some (.laneAndi w (fieldsI v))
  | 0x05 => some (.laneOri w (fieldsI v))
  | 0x06 => some (.laneXori w (fieldsI v))
  | 0x07 => some (.laneSlli w (fieldsI v))
  | 0x08 => some (.laneSrli w (fieldsI v))
  | 0x09 => some (.laneSrai w (fieldsI v))
  | 0x20 => some (.laneLdsB w (fieldsI v))
  | 0x21 => some (.laneLdsH w (fieldsI v))
  | 0x22 => some (.laneLdsW w (fieldsI v))
  | 0x23 => some (.laneStsB w (fieldsI v))
  | 0x24 => some (.laneStsH w (fieldsI v))
  | 0x25 => some (.laneStsW w (fieldsI v))
  | 0x38 => some (.laneSetvl w (fieldsI v))
  | 0x3C => some (.laneMfsr w (fieldsI v))
  | 0x0A => some (.laneLui w (fieldsU v))
  | 0x0B => some (.laneLli w (fieldsU v))
  | 0x3E => some (.laneBrk w (fieldsU v))
  | 0x30 => some (.laneBeq w (fieldsB v))
  | 0x31 => some (.laneBne w (fieldsB v))
  | 0x32 => some (.laneBlt w (fieldsB v))
  | 0x33 => some (.laneBge w (fieldsB v))
  | 0x34 => some (.laneBltu w (fieldsB v))
  | 0x35 => some (.laneBgeu w (fieldsB v))
  | 0x36 => some (.laneBp w (fieldsB v))
  | 0x37 => some (.laneJ w (fieldsJ v))
  | 0x14 => if bits v 6 3 = 0 then some (.laneSel w (fieldsR v) (BitVec.ofNat 3 v)) else none
  | _ => none

/-- The lane instruction that a word spells, before its unused fields are checked. -/
def laneRead (w : LaneWho) (v : Nat) : Option Instr :=
  match laneOfWordR w v with
  | some i => some i
  | none => laneOfWordO w v

/-- The fields that a lane instruction does not use are zero (R177, Table 6.3). -/
def laneUnused : Instr → Bool
  | .laneFsqrt _ f | .laneFexp2 _ f | .laneFlog2 _ f | .laneFneg _ f | .laneFabs _ f => f.rs2 == 0
  | .laneF2i _ f | .laneI2f _ f | .laneF2f16 _ f | .laneF162f _ f | .laneF2w16 _ f | .laneW162f _ f
  | .laneF2e4m3 _ f | .laneE4m32f _ f | .laneF2e5m2 _ f | .laneE5m22f _ f | .laneF2i8 _ f | .laneI82f _ f => f.rs2 == 0
  | .laneFeq _ f | .laneFlt _ f | .laneFle _ f | .laneFun _ f | .laneEq _ f | .laneNe _ f | .laneLt _ f | .laneLtu _ f
  | .laneGe _ f | .laneGeu _ f => f.rd.toNat < 8
  | .lanePlogAnd _ f | .lanePlogOr _ f | .lanePlogXor _ f | .lanePlogAndn _ f =>
    f.rd.toNat < 8 && f.rs1.toNat < 8 && f.rs2.toNat < 8
  | .laneSlli _ f | .laneSrli _ f | .laneSrai _ f => f.imm.toNat < 32
  | .laneLli _ f => f.imm.toNat < 2 ^ 15
  | .laneLde _ f | .laneSte _ f => f.rs1.toNat < 8 && f.rs2 == 0
  | .laneLdod _ f => f.rd.toNat < 8
  | .laneBp _ f => f.rs1.toNat < 8 && f.rs2 == 0
  | .laneSetvl _ f => f.rd == 0 && f.imm == 0 && f.pg == 0 && !f.z
  | .laneEndvl _ f => f.rd == 0 && f.rs1 == 0 && f.rs2 == 0 && f.pg == 0 && !f.z
  | .laneRedFsum _ f | .laneRedFprod _ f | .laneRedFmax _ f | .laneRedFmin _ f | .laneRedFargmax _ f
  | .laneRedFargmin _ f | .laneRedIsum _ f | .laneRedImax _ f | .laneRedImin _ f => f.rd.toNat < 4 && f.rs2 == 0
  | .laneGetred _ f => f.rs1.toNat < 4 && f.rs2.toNat < 8
  | .laneMfsr _ f => f.rs1 == 0 && f.imm.toNat < 2
  | .laneBrk _ f => f.rd == 0
  | .laneHalt _ f => f.rd == 0 && f.rs1 == 0 && f.rs2 == 0
  | _ => true

/-- The lane instruction that a word spells (R177, R178): bit 28 of formats B and J is zero, and so is every unused
field. -/
def laneOfWord (w : LaneWho) (v : Nat) : Option Instr :=
  match laneRead w v with
  | some i => if laneUnused i && laneWord i == some v then some i else none
  | none => none

/-! ### The structure of kernel code (R191) -/

/-- The opcode of a word. -/
def opOf (v : Nat) : Nat := bits v 27 22

/-- For each word, whether it stands in a body (strictly between SETVL and ENDVL), and the index of its SETVL. -/
def bodies : Nat → Option Nat → List Nat → List (Option Nat)
  | _, _, [] => []
  | i, cur, v :: vs =>
    if opOf v = 0x38 then none :: bodies (i + 1) (some i) vs
    else if opOf v = 0x39 then none :: bodies (i + 1) none vs
    else cur :: bodies (i + 1) cur vs

/-- SETVL and ENDVL alternate and every loop is closed (R191 rule 2). -/
def alternates : Bool → List Nat → Bool
  | open_, [] => !open_
  | open_, v :: vs =>
    if opOf v = 0x38 then !open_ && alternates true vs
    else if opOf v = 0x39 then open_ && alternates false vs
    else alternates open_ vs

/-- The target of a branch or a jump at word i, as a word index. -/
def branchTarget (i v : Nat) : Option Int :=
  if 0x30 ≤ opOf v ∧ opOf v ≤ 0x36 then some (i + sext 12 (bits v 11 0))
  else if opOf v = 0x37 then some (i + sext 22 (bits v 21 0))
  else none

/-- A branch of word i goes where rule 3 of R191 lets it. -/
def targetOk (code : List Nat) (bs : List (Option Nat)) (i v : Nat) : Bool :=
  match branchTarget i v with
  | none => true
  | some z =>
    if z < 0 || (code.length : Int) ≤ z then false
    else
      let t := z.toNat
      let tv := code.getD t 0
      match bs.getD i none with
      | some b =>
        bs.getD t none == some b
          || (opOf tv == 0x39 && t != 0 && (bs.getD (t - 1) none == some b || t - 1 == b))
      | none => bs.getD t none == none && opOf tv != 0x39

/-- Every RED of one body that names a slot carries one function code (R191 rule 5). -/
def redsAgree (code : List Nat) (bs : List (Option Nat)) : Bool :=
  let reds := ((code.zip bs).filter fun p => opOf p.1 == 0x3A)
  reds.all fun p => reds.all fun q =>
    p.2 != q.2 || bits p.1 18 17 != bits q.1 18 17 || bits p.1 6 0 == bits q.1 6 0

/-- Kernel code is accepted (R191); `free` for a free-running kernel. -/
def codeOk (free : Bool) (code : List Nat) : Bool :=
  let bs := bodies 0 none code
  code.all (fun v => (laneOfWord ⟨.queue 0, 0⟩ v).isSome)
    && alternates false code
    && ((code.zip bs).zipIdx).all (fun p => targetOk code bs p.2 p.1.1)
    && (code.zip bs).all (fun p =>
      (opOf p.1 != 0x3A || p.2.isSome)
        && (!(opOf p.1 == 0x3B || opOf p.1 == 0x2E || opOf p.1 == 0x3F) || p.2.isNone)
        && (!free || !(0x20 ≤ opOf p.1 && opOf p.1 ≤ 0x25)))
    && redsAgree code bs

end Machine

end Sys2Proof
end

