-- ==== Sys2Proof/Config.lean ====
section
/-! DEFINITION. What an implementation fixes and the values the spec leaves open: opaque constants, so that nothing can be
proved about a value of theirs. -/

namespace Sys2Proof.Config

/-- The free values, drawn by the state's counter (DESIGN CHOICE, assumption log 5). -/
opaque freeValue : Nat → Nat

/-- The 512 bytes in which a suspended kernel is saved; R196 says what they hold and not how (DESIGN CHOICE, assumption log 21). -/
opaque saveSlot : LaneKernel → List Byte

/-- The code of a cause that a record carries, by event and by the cause's place in its rule's list: the spec gives causes of
0x0902 and 0x0B11 no codes (DESIGN CHOICE, assumption log 33). -/
opaque causeCode : Nat → Nat → Nat

/-- ML-DSA-87 of FIPS 204 (R427, R435), which the spec names and does not restate (assumption log 35): verification of a signature
over a 64-byte digest under a public key and a context string. (DESIGN CHOICE, assumption log 35) -/
opaque mldsaVerify : (key digest context signature : List Byte) → Bool

/-- Signing with the key pair of a seed (R427); the last argument is the randomness that FIPS 204 lets a signature draw.
(DESIGN CHOICE, assumption log 35) -/
opaque mldsaSign : (seed digest context : List Byte) → Nat → List Byte

/-- The public key that key generation gives a seed (R435). (DESIGN CHOICE, assumption log 35) -/
opaque mldsaPublic : (seed : List Byte) → List Byte

/-- PRSNT_N of a port whose adapter cable no command has shown is low: the cable is there (R453). (DESIGN CHOICE, assumption log 153) -/
opaque cable : (port : Nat) → Bool

/-- A rail that has left ±5 % of nominal is within it again, at a cycle: no row of the table says so (R445).
(DESIGN CHOICE, assumption log 153) -/
opaque railBack : (rail cycle : Nat) → Bool

/-- The mask ROM's bytes, as their SHA3-512 (R428). -/
opaque romDigest : List Byte

/-- The peer ID of a rank of a group: R368 gives the lead a joiner's alone, and Table 12.9 has an entry name that of every rank that a
formation or a leave names. (DESIGN CHOICE, assumption log 127) -/
opaque memberPeer : (group rank : Nat) → Nat

/-- The fixed receive latency that the module adds to a marker's DELAY, in cycles (R349), which the spec does not give.
(DESIGN CHOICE, assumption log 130) -/
opaque markerLatency : Nat

/-- The instructions that a hart retires in a cycle, which instret counts (R280): a hart's instruction stream is no command of the table.
(DESIGN CHOICE, assumption log 139) -/
opaque retired : (hart cycle : Nat) → Nat

/-- Bytes of the Harbour SRAM, which the spec does not give (R426 reason 6). -/
opaque harbourSram : Nat

end Sys2Proof.Config
end

