-- ==== Sys2Proof/Machine/Numerics.lean ====
section
/-! DEFINITION. Number formats (R93 to R117), the canonical tree (R123) and the exact arithmetic under every unit. -/

namespace Sys2Proof.Machine

/-! ### Layouts (Tables 3.1 to 3.3) -/

/-- F32 (Table 3.1). -/
def specF32 : FloatSpec := ⟨8, 23, 127, 0x7F7FFFFF, some 0x7F800000, some 0x7FC00000⟩
/-- F16 (Table 3.1). -/
def specF16 : FloatSpec := ⟨5, 10, 15, 0x7BFF, some 0x7C00, some 0x7E00⟩
/-- W16 (Table 3.1). -/
def specW16 : FloatSpec := ⟨8, 7, 127, 0x7F7F, some 0x7F80, some 0x7FC0⟩
/-- E4M3 (Table 3.1): no infinity, NaN only at 0x7F and 0xFF. -/
def specE4M3 : FloatSpec := ⟨4, 3, 7, 0x7E, none, some 0x7F⟩
/-- E5M2 (Table 3.1). -/
def specE5M2 : FloatSpec := ⟨5, 2, 15, 0x7B, some 0x7C, some 0x7E⟩
/-- E2M1 (Table 3.1): neither infinity nor NaN. -/
def specE2M1 : FloatSpec := ⟨2, 1, 1, 0x7, none, none⟩
/-- A48 (Table 3.1). -/
def specA48 : FloatSpec := ⟨11, 36, 1023, 0x7FEFFFFFFFFF, some 0x7FF000000000, some 0x7FF800000000⟩

/-- The element layout of a format; none for RAW and INT8. -/
def fmtSpec : Fmt → Option FloatSpec
  | .raw => none
  | .f32 => some specF32
  | .f16 => some specF16
  | .w16 => some specW16
  | .e4m3 => some specE4M3
  | .e5m2 => some specE5M2
  | .int8 => none
  | .e2m1 => some specE2M1
  | .b8e4 => some specE4M3
  | .b8e5 => some specE5M2
  | .b4 => some specE2M1
  | .a48 => some specA48

/-- The format of a Table 2.2 code. -/
def fmtOfCode : Nat → Option Fmt
  | 0 => some .raw
  | 1 => some .f32
  | 2 => some .f16
  | 3 => some .w16
  | 4 => some .e4m3
  | 5 => some .e5m2
  | 6 => some .int8
  | 7 => some .e2m1
  | 8 => some .b8e4
  | 9 => some .b8e5
  | 10 => some .b4
  | 11 => some .a48
  | _ => none

/-- The Table 2.2 code of a format. -/
def fmtCode : Fmt → Nat
  | .raw => 0 | .f32 => 1 | .f16 => 2 | .w16 => 3 | .e4m3 => 4 | .e5m2 => 5 | .int8 => 6 | .e2m1 => 7
  | .b8e4 => 8 | .b8e5 => 9 | .b4 => 10 | .a48 => 11

/-- Element bits (Table 2.2). -/
def fmtBits : Fmt → Nat
  | .raw | .e4m3 | .e5m2 | .int8 | .b8e4 | .b8e5 => 8
  | .f32 => 32
  | .f16 | .w16 => 16
  | .e2m1 | .b4 => 4
  | .a48 => 48

/-- The block formats (R64). -/
def fmtIsBlock : Fmt → Bool
  | .b8e4 | .b8e5 | .b4 => true
  | _ => false

/-- The scaled formats (R106). -/
def fmtIsScaled : Fmt → Bool
  | .e4m3 | .e5m2 | .e2m1 | .int8 | .b8e4 | .b8e5 | .b4 => true
  | _ => false

/-- The matrix operand class of Table 2.2 as its element width; none where the format is no operand. INT8 pairs only
with INT8, so it has a class of its own. -/
def fmtClass : Fmt → Option Nat
  | .f32 => some 32
  | .f16 | .w16 => some 16
  | .e4m3 | .e5m2 | .b8e4 | .b8e5 => some 8
  | .int8 => some 9
  | .e2m1 | .b4 => some 4
  | .raw | .a48 => none

/-- The elements of a block, by block code (R64, Table 3.4); 0 for no block. -/
def blockElems : Nat → Nat
  | 1 => 16 | 2 => 32 | 3 => 64 | 4 => 128 | _ => 0

/-- The bytes of a block of n elements, its scale byte included (R104). -/
def blockBytes (f : Fmt) (n : Nat) : Nat := n * fmtBits f / 8 + 1

/-! ### Exact values -/

/-- Whether a magnitude is a NaN of the format (Table 3.2). -/
def isNanMag (f : FloatSpec) (mag : Nat) : Bool :=
  match f.infBits, f.nanBits with
  | some i, _ => decide (i < mag)
  | none, some n => mag == n
  | none, none => false

/-- The exact value of an element's bits (R96, R97). -/
def decodeFloat (f : FloatSpec) (v : Nat) : Num :=
  let w := f.expW + f.fracW
  let neg := v.testBit w
  let mag := v % 2 ^ w
  if isNanMag f mag then .nan
  else if f.infBits == some mag then .inf neg
  else
    let e := mag / 2 ^ f.fracW
    let fr := mag % 2 ^ f.fracW
    if e = 0 then .fin neg fr (1 - (f.bias : Int) - f.fracW)
    else .fin neg (fr + 2 ^ f.fracW) ((e : Int) - f.bias - f.fracW)

/-- m × 2^e as an integer multiple of 2^ue under a rounding (R112, R113). -/
def roundTo (mode : Rounding) (m : Nat) (e ue : Int) : Nat :=
  match mode with
  | .rne =>
    if ue ≤ e then m <<< (e - ue).toNat
    else
      let d := (ue - e).toNat
      let q := m >>> d
      let rem := m % 2 ^ d
      let half := 2 ^ (d - 1)
      if half < rem || (rem == half && q % 2 == 1) then q + 1 else q
  | .sr r =>
    let k := e - ue + 16
    let t := if 0 ≤ k then m <<< k.toNat else m >>> (-k).toNat
    (t + r) / 65536
  | .up =>
    if ue ≤ e then m <<< (e - ue).toNat
    else
      let d := (ue - e).toNat
      (m + (2 ^ d - 1)) >>> d

/-- The magnitude bits of a finite value under a rounding, the exponent range taken as unbounded above (R112). -/
def encodeMag (f : FloatSpec) (mode : Rounding) (m : Nat) (e : Int) : Nat :=
  if m = 0 then 0
  else
    let emin : Int := 1 - f.bias
    let ue := max ((m.log2 : Int) + e) emin - f.fracW
    let q := roundTo mode m e ue
    (ue - (emin - f.fracW)).toNat * 2 ^ f.fracW + q

/-- A sign on magnitude bits. -/
def withSign (f : FloatSpec) (neg : Bool) (mag : Nat) : Nat :=
  if neg then mag + 2 ^ (f.expW + f.fracW) else mag

/-- The encoding of a value and whether it counts as a saturation (Table 3.6, Table 3.8). -/
def encodeFloat (f : FloatSpec) (mode : Rounding) (v : Num) : Nat × Bool :=
  match v with
  | .nan => (f.nanBits.getD 0, false)
  | .inf neg =>
    match f.infBits with
    | some i => (withSign f neg i, false)
    | none => (withSign f neg f.maxBits, true)
  | .fin neg m e =>
    let b := encodeMag f mode m e
    if f.maxBits < b then (withSign f neg (f.infBits.getD f.maxBits), true)
    else (withSign f neg b, false)

/-- An INT8 code's integer (R102). -/
def decodeInt8 (q : Nat) : Num :=
  if q < 128 then .fin false q 0 else .fin true (256 - q) 0

/-- A conversion into INT8 (R102, Table 3.6): −128 is never produced. -/
def encodeInt8 (mode : Rounding) (v : Num) : Nat × Bool :=
  match v with
  | .nan => (0, false)
  | .inf neg => (if neg then 0x81 else 0x7F, true)
  | .fin neg m e =>
    let q := roundTo mode m e 0
    if 127 < q then (if neg then 0x81 else 0x7F, true)
    else (if neg then (256 - q) % 256 else q, false)

/-- The value of an element of a non-block format at scale 1.0 (R96, R102); RAW bytes read as integers. -/
def decodeElem (f : Fmt) (v : Nat) : Num :=
  match f with
  | .int8 => decodeInt8 v
  | .raw => .fin false v 0
  | _ => match fmtSpec f with
    | some sp => decodeFloat sp v
    | none => .nan

/-- A conversion into E5M2, whose finite values clamp although it has infinities (Table 3.6). -/
def encodeE5M2 (mode : Rounding) (v : Num) : Nat × Bool :=
  match v with
  | .fin neg m e =>
    let b := encodeMag specE5M2 mode m e
    (withSign specE5M2 neg (min b specE5M2.maxBits), decide (specE5M2.maxBits < b))
  | _ => encodeFloat specE5M2 mode v

/-- The encoding of a value into an element of a format at scale 1.0, and its saturation (Table 3.6); A48 takes no stochastic
rounding (R113). -/
def encodeElem (f : Fmt) (mode : Rounding) (v : Num) : Nat × Bool :=
  match f with
  | .int8 => encodeInt8 mode v
  | .e5m2 => encodeE5M2 mode v
  | .a48 => encodeFloat specA48 .rne v
  | _ => match fmtSpec f with
    | some sp => encodeFloat sp mode v
    | none => (0, false)

/-- v × 2^k, exactly. -/
def scaleNum (k : Int) : Num → Num
  | .fin neg m e => .fin neg m (e + k)
  | v => v

/-- The value is a signed zero. -/
def numIsZero : Num → Bool
  | .fin _ m _ => m == 0
  | _ => false

/-- The value is a NaN. -/
def numIsNan : Num → Bool
  | .nan => true
  | _ => false

/-- The value is an infinity. -/
def numIsInf : Num → Bool
  | .inf _ => true
  | _ => false

/-- A signed integer mantissa. -/
def sgnInt (neg : Bool) (m : Nat) : Int := if neg then -(m : Int) else m

/-- The mantissas of two dyadic numbers over their lesser exponent. -/
def alignInt (n1 : Bool) (m1 : Nat) (e1 : Int) (n2 : Bool) (m2 : Nat) (e2 : Int) : Int × Int × Int :=
  let e := min e1 e2
  (sgnInt n1 m1 * (2 ^ (e1 - e).toNat : Nat), sgnInt n2 m2 * (2 ^ (e2 - e).toNat : Nat), e)

/-- The exact sum of two values, with the zero rule and the special cases of R100. -/
def numAdd : Num → Num → Num
  | .nan, _ => .nan
  | _, .nan => .nan
  | .inf a, .inf b => if a = b then .inf a else .nan
  | .inf a, .fin _ _ _ => .inf a
  | .fin _ _ _, .inf b => .inf b
  | .fin n1 m1 e1, .fin n2 m2 e2 =>
    let (x, y, e) := alignInt n1 m1 e1 n2 m2 e2
    let z := x + y
    if z = 0 then .fin (n1 && n2 && m1 == 0 && m2 == 0) 0 0 else .fin (decide (z < 0)) z.natAbs e

/-- The exact product (R119). -/
def numMul : Num → Num → Num
  | .nan, _ => .nan
  | _, .nan => .nan
  | .inf a, .inf b => .inf (a != b)
  | .inf a, .fin n m _ => if m = 0 then .nan else .inf (a != n)
  | .fin n m _, .inf b => if m = 0 then .nan else .inf (n != b)
  | .fin n1 m1 e1, .fin n2 m2 e2 => .fin (n1 != n2) (m1 * m2) (e1 + e2)

/-- The value with its sign changed. -/
def numNeg : Num → Num
  | .nan => .nan
  | .inf a => .inf (!a)
  | .fin n m e => .fin (!n) m e

/-- a < b as exact values; false when unordered (R101). -/
def numLt : Num → Num → Bool
  | .nan, _ => false
  | _, .nan => false
  | .inf a, .inf b => a && !b
  | .inf a, .fin _ _ _ => a
  | .fin _ _ _, .inf b => !b
  | .fin n1 m1 e1, .fin n2 m2 e2 => let (x, y, _) := alignInt n1 m1 e1 n2 m2 e2; decide (x < y)

/-- a = b as exact values (+0 = −0); false when unordered. -/
def numEq (a b : Num) : Bool := !numIsNan a && !numIsNan b && !numLt a b && !numLt b a

/-- The sign of a value. -/
def numSign : Num → Bool
  | .nan => false
  | .inf n => n
  | .fin n _ _ => n

/-- MAX (R101). -/
def numMax (a b : Num) : Num :=
  if numIsNan a || numIsNan b then .nan
  else if numIsZero a && numIsZero b then .fin (numSign a && numSign b) 0 0
  else if numLt a b then b else a

/-- MIN (R101). -/
def numMin (a b : Num) : Num :=
  if numIsNan a || numIsNan b then .nan
  else if numIsZero a && numIsZero b then .fin (numSign a || numSign b) 0 0
  else if numLt b a then b else a

/-! ### A48 and the canonical tree -/

/-- Rounded once to A48 with round-to-nearest-even (R100, R122). -/
def toA48 (v : Num) : Nat := (encodeFloat specA48 .rne v).1

/-- The A48 value of bits. -/
def ofA48 (b : Nat) : Num := decodeFloat specA48 b

/-- One A48 addition (R100). -/
def add48 (a b : Nat) : Nat := toA48 (numAdd (ofA48 a) (ofA48 b))

/-- One level of the canonical tree (R123): neighbours combined, an odd last entry carried up. -/
def treeLevel {α : Type} (op : α → α → α) : List α → List α
  | a :: b :: r => op a b :: treeLevel op r
  | r => r

/-- The canonical tree by levels, `fuel` of them (R123). -/
def treeAux {α : Type} (op : α → α → α) : Nat → List α → List α
  | 0, l => l
  | n + 1, l => if l.length ≤ 1 then l else treeAux op n (treeLevel op l)

/-- tree() of R123 over any operation; `d` stands for the empty list, which R123 does not cover. -/
def treeFold {α : Type} (op : α → α → α) (d : α) (l : List α) : α :=
  (treeAux op (l.length.log2 + 1) l).headD d

/-! ### F32 operations of the lane engine (R180) -/

/-- The value of F32 bits. -/
def ofF32 (b : Nat) : Num := decodeFloat specF32 b

/-- Rounded once to F32 with round-to-nearest-even (R180). -/
def toF32 (v : Num) : Nat := (encodeFloat specF32 .rne v).1

/-- A quotient of magnitudes to 80 bits and a sticky bit, enough for one rounding to any format up to F32. -/
def quotient (m1 : Nat) (e1 : Int) (m2 : Nat) (e2 : Int) : Nat × Int :=
  let k := 80 + m2.log2
  let n := m1 <<< k
  let q := n / m2
  (2 * q + (if n % m2 = 0 then 0 else 1), e1 - e2 - (k : Int) - 1)

/-- The quotient of two values (R180, the special cases of IEEE 754). -/
def numDiv : Num → Num → Num
  | .nan, _ => .nan
  | _, .nan => .nan
  | .inf _, .inf _ => .nan
  | .inf a, .fin n _ _ => .inf (a != n)
  | .fin n _ _, .inf b => .fin (n != b) 0 0
  | .fin n1 m1 e1, .fin n2 m2 e2 =>
    if m2 = 0 then (if m1 = 0 then .nan else .inf (n1 != n2))
    else if m1 = 0 then .fin (n1 != n2) 0 0
    else let (m, e) := quotient m1 e1 m2 e2; .fin (n1 != n2) m e

/-- The integer square root, one bit a step from bit `k`. -/
def isqrtAux (n : Nat) : Nat → Nat → Nat
  | 0, r => r
  | k + 1, r => let c := r + 2 ^ k; isqrtAux n k (if c * c ≤ n then c else r)

/-- floor(√n). -/
def isqrt (n : Nat) : Nat := isqrtAux n (n.log2 / 2 + 1) 0

/-- FSQRT (R180). -/
def numSqrt : Num → Num
  | .nan => .nan
  | .inf n => if n then .nan else .inf false
  | .fin n m e =>
    if m = 0 then .fin n 0 0
    else if n then .nan
    else
      let k : Nat := 160 + (if e % 2 = 0 then 0 else 1)
      let x := m <<< k
      let r := isqrt x
      .fin false (2 * r + (if r * r = x then 0 else 1)) ((e - k) / 2 - 1)

/-- The fixed-point precision of FEXP2 and FLOG2 (DEDUCED, assumption log 20). -/
def xp : Nat := 320

/-- Σ 1/(k 2^k), k from 1: ln 2 in fixed point. -/
def ln2Aux : Nat → Nat → Nat → Nat
  | 0, _, acc => acc
  | n + 1, k, acc => ln2Aux n (k + 1) (acc + 2 ^ xp / (k * 2 ^ k))

/-- ln 2 in fixed point. (DEDUCED, assumption log 20) -/
def ln2 : Nat := ln2Aux xp 1 0

/-- The exponential series of a fixed-point argument below 1. (DEDUCED, assumption log 20) -/
def expAux (x : Nat) : Nat → Nat → Nat → Nat → Nat
  | 0, _, _, acc => acc
  | n + 1, k, t, acc => let t' := ((t * x) >>> xp) / k; expAux x n (k + 1) t' (acc + t')

/-- 2^f of a fixed-point fraction f in [0, 1), in fixed point. (DEDUCED, assumption log 20) -/
def exp2Frac (f : Nat) : Nat := expAux ((f * ln2) >>> xp) 80 1 (2 ^ xp) (2 ^ xp)

/-- FEXP2 (R180): the exact 2^x, carried with a sticky bit to its one rounding. -/
def numExp2 : Num → Num
  | .nan => .nan
  | .inf n => if n then .fin false 0 0 else .inf false
  | .fin neg m e =>
    if m = 0 then .fin false 1 0
    else if 10 ≤ (m.log2 : Int) + e then (if neg then .fin false 1 (-4096) else .fin false 1 4096)
    else
      let x := sgnInt neg m * (2 ^ (e + xp).toNat : Nat)   -- x × 2^xp, exact for every F32 of this size
      let i := x / (2 ^ xp : Nat)
      let f := (x % (2 ^ xp : Nat)).toNat
      if f = 0 then .fin false 1 i
      else .fin false (2 * exp2Frac f + 1) (i - xp - 1)

/-- The binary digits of log2 of a fixed-point number in [1, 2), by repeated squaring. -/
def log2Digits : Nat → Nat → Nat → Nat
  | 0, _, acc => acc
  | n + 1, x, acc =>
    let y := (x * x) >>> xp
    if 2 ^ (xp + 1) ≤ y then log2Digits n (y / 2) (2 * acc + 1) else log2Digits n y (2 * acc)

/-- FLOG2 (R180): the exact log2 x, carried with a sticky bit to its one rounding. -/
def numLog2 : Num → Num
  | .nan => .nan
  | .inf n => if n then .nan else .inf false
  | .fin neg m e =>
    if m = 0 then .inf true
    else if neg then .nan
    else
      let i : Int := (m.log2 : Int) + e
      if isPow2 m then .fin (decide (i < 0)) i.natAbs 0
      else
        let d := log2Digits 128 (m <<< (xp - m.log2)) 0
        let z : Int := 2 * (i * (2 ^ 128 : Nat) + d) + 1
        .fin (decide (z < 0)) z.natAbs (-129)

/-- F2I (R181): to nearest even, clamped to 32 signed bits, a NaN giving 0; as 32 bits. -/
def f2i (v : Num) : Nat :=
  match v with
  | .nan => 0
  | .inf n => if n then 0x80000000 else 0x7FFFFFFF
  | .fin neg m e =>
    let q := roundTo .rne m e 0
    if neg then (if 0x80000000 ≤ q then 0x80000000 else (2 ^ 32 - q) % 2 ^ 32)
    else (if 0x7FFFFFFF ≤ q then 0x7FFFFFFF else q)

/-- I2F (R181): the value of a signed 32-bit integer. -/
def i2f (v : Nat) : Num :=
  if v < 2 ^ 31 then .fin false v 0 else .fin true (2 ^ 32 - v) 0

/-! ### Block formats -/

/-- The exponent of an E8M0 scale byte (R103). -/
def e8m0Exp (s : Nat) : Int := (s : Int) - 127

/-- The value of an element of a block with scale byte s, at tensor scale 1.0 (R105). -/
def decodeBlockElem (f : Fmt) (s v : Nat) : Num :=
  if s = 0xFF then .nan else scaleNum (e8m0Exp s) (decodeElem f v)

/-- |v| ≤ b × 2^e for a finite v (an infinity or a NaN is not). -/
def magLe (v : Num) (b : Nat) (e : Int) : Bool :=
  match v with
  | .fin _ m e' => !numLt (.fin false b e) (.fin false m e')
  | _ => false

/-- The element maximum M of a block format (R103), as a mantissa and an exponent. -/
def blockMax : Fmt → Nat
  | .b8e4 => 448
  | .b8e5 => 57344
  | _ => 6

/-- The smallest s in 0 … 254 with a ≤ M × 2^(s − 127), where a is finite and at most M × 2^127 (R111). -/
def blockScale (M m : Nat) (e : Int) : Nat :=
  -- a ≤ M × 2^t  ⇔  m × 2^e ≤ M × 2^t; the least such t lies within one of log2 a − log2 M
  let t0 : Int := (m.log2 : Int) + e - (M.log2 : Int)
  let t := if magLe (.fin false m e) M t0 then t0 else t0 + 1
  (max (t + 127) 0).toNat

/-- The largest finite magnitude of a list, 0 where it has none, as for a block whose elements are all infinite (R111).
(DESIGN CHOICE, assumption log 158) -/
def largestFinite : List Num → Num
  | [] => .fin false 0 0
  | .fin _ m e :: r => let x := largestFinite r; if numLt x (.fin false m e) then .fin false m e else x
  | _ :: r => largestFinite r

/-- A block written in a block format (R111): element codes, scale byte and saturations (Table 3.8). `modes` gives each
element its rounding, `S` is the exponent of the tensor scale. -/
def encodeBlock (f : Fmt) (S : Int) (modes : List Rounding) (xs : List Num) : List Nat × Nat × Nat :=
  let ys := xs.map (scaleNum (-S))
  let M := blockMax f
  let nanBlock := List.replicate xs.length 0
  let nInf := (ys.filter numIsInf).length
  if ys.any numIsNan then (nanBlock, 0xFF, 0)
  else if f != .b8e5 && nInf != 0 then (nanBlock, 0xFF, nInf)
  else
    match largestFinite ys with
    | .fin _ m e =>
      let fits := magLe (.fin false m e) M 127
      let s := if m = 0 then 0 else if fits then blockScale M m e else 0xFE
      if m != 0 && !fits && f != .b8e5 then
        (nanBlock, 0xFF, (ys.filter fun y => !magLe y M 127).length)
      else
        let enc := (ys.zip modes).map fun (y, r) => encodeElem f r (scaleNum (-(e8m0Exp s)) y)
        (enc.map (·.1), s, (enc.filter (·.2)).length)
    | _ => (nanBlock, 0xFF, 0)

/-! ### Statistics (R116) -/

/-- The F32 bits of a magnitude rounded toward +∞ and capped (Table 3.8, amax). -/
def amaxBits : Num → Nat
  | .fin _ m e => min (encodeMag specF32 .up m e) 0x7F7FFFFF
  | _ => 0

/-- One presented element counted; `sats` counts its saturation. (DEDUCED, assumption log 18) -/
def countElem (st : Stats) (v : Num) (sat : Bool) : Stats :=
  { elements := st.elements + 1
    zeros := st.zeros + b2n (numIsZero v)
    sats := st.sats + b2n sat
    nans := st.nans + b2n (numIsNan v)
    infs := st.infs + b2n (numIsInf v)
    amax := max st.amax (amaxBits v) }

/-- Two records joined: counts add, amax is the maximum (R72). -/
def addStats (a b : Stats) : Stats :=
  ⟨a.elements + b.elements, a.zeros + b.zeros, a.sats + b.sats, a.nans + b.nans, a.infs + b.infs, max a.amax b.amax⟩

/-! ### Derived scale (R108) -/

/-- The largest entry of a history of F32 magnitudes. -/
def historyMax (h : List Nat) : Nat := h.foldl max 0

/-- The exponent e of the derived scale (R108): the smallest with H ≤ M × 2^e, clamped to −126 … 127. -/
def derivedScale (f : Fmt) (h : List Nat) : Int :=
  let H := historyMax h
  let M := match f with
    | .e4m3 | .b8e4 => 448
    | .e5m2 | .b8e5 => 57344
    | .int8 => 127
    | _ => 6
  match ofF32 H with
  | .fin _ m e =>
    if m = 0 then 0
    else
      let t0 : Int := (m.log2 : Int) + e - (M.log2 : Int)
      let t := if magLe (.fin false m e) M t0 then t0 else t0 + 1
      min (max t (-126)) 127
  | _ => 127

/-- The F32 bits of 2^e for e in −126 … 127 (R106). -/
def scaleBits (e : Int) : Nat := (e + 127).toNat <<< 23

/-- The exponent of a scale held as F32 bits (R106). -/
def scaleExp (b : Nat) : Int := (bits b 30 23 : Int) - 127

end Sys2Proof.Machine
end

