-- ==== Sys2Proof/Machine/Image.lean ====
section
/-! DEFINITION. The timetable image as bytes spell it (R75 to R81), tensor geometry (R77, R104), and the ranges that a
step touches (R60, R66, R69, R70, R151, R210, R214). -/

namespace Sys2Proof.Machine

/-! ### Spans: sorted disjoint byte intervals -/

/-- An interval joined to a list of spans. -/
def spanAdd (lo hi : Nat) : List (Nat × Nat) → List (Nat × Nat)
  | [] => if lo < hi then [(lo, hi)] else []
  | (a, b) :: r =>
    if hi ≤ lo then (a, b) :: r
    else if hi < a then (lo, hi) :: (a, b) :: r
    else if b < lo then (a, b) :: spanAdd lo hi r
    else spanAdd (min a lo) (max b hi) r

/-- Two lists of spans share a byte. -/
def spanMeets (x y : List (Nat × Nat)) : Bool :=
  x.any fun p => y.any fun q => decide (p.1 < q.2) && decide (q.1 < p.2)

/-- The spans cover an interval. -/
def spanCovers (x : List (Nat × Nat)) (lo hi : Nat) : Bool :=
  decide (hi ≤ lo) || x.any fun p => decide (p.1 ≤ lo) && decide (hi ≤ p.2)

/-- The parts of an interval outside sorted spans. -/
def spanGaps (lo hi : Nat) : List (Nat × Nat) → List (Nat × Nat)
  | [] => if lo < hi then [(lo, hi)] else []
  | (a, b) :: r =>
    if b ≤ lo then spanGaps lo hi r
    else if hi ≤ a then (if lo < hi then [(lo, hi)] else [])
    else (if lo < a then [(lo, a)] else []) ++ spanGaps b hi r

/-! ### The tables -/

/-- A place (Table 2.3); `acc` says that byte 1 holds ACCESS (R78). -/
def parsePlace (bs : List Byte) : Place := ⟨fld bs 0 1, fld bs 2 2, fld bs 4 4, fld bs 8 8⟩

/-- A region entry (Table 2.5). -/
def parseRegion (bs : List Byte) : RegionEnt := ⟨fld bs 0 1, fld bs 1 1, fld bs 2 2, fld bs 8 8⟩

/-- A tensor entry (Table 2.6). -/
def parseTensor (bs : List Byte) : TensorEnt :=
  { id := fld bs 0 4, region := fld bs 4 2, fmt := fld bs 6 1, block := fld bs 7 1, offset := fld bs 8 8
    dim0 := fld bs 16 4, dim1 := fld bs 20 4, dim2 := fld bs 24 4, dim3 := fld bs 28 4
    stride1 := fld bs 32 8, stride2 := fld bs 40 8, stride3 := fld bs 48 8
    hist := fld bs 56 1, flags := fld bs 57 1 }

/-- A range entry (R78). -/
def parseRange (bs : List Byte) : RangeEnt := ⟨parsePlace bs, fld bs 1 1, fld bs 16 8⟩

/-- A crossing entry (Table 2.7). -/
def parseCrossing (bs : List Byte) : CrossingEnt := ⟨fld bs 0 4, fld bs 4 4, fld bs 8 1, fld bs 9 1⟩

/-- A MOVE (Table 2.9). -/
def parseMove (bs : List Byte) : MoveOp :=
  { srcFmt := fld bs 8 1, dstFmt := fld bs 9 1, round := fld bs 10 1, storeBlock := fld bs 11 1, purpose := fld bs 12 2
    src := parsePlace (slice bs 16 16), dst := parsePlace (slice bs 32 16)
    rowBytes := fld bs 48 4, rows := fld bs 52 4, srcStride := fld bs 56 4, dstStride := fld bs 60 4 }

/-- An MMA (Table 2.10). -/
def parseMma (bs : List Byte) : MmaOp :=
  { aAddr := fld bs 16 4, bAddr := fld bs 20 4, accAddr := fld bs 24 4, acc2Addr := fld bs 28 4, cAddr := fld bs 32 4
    k := fld bs 36 4, chunkFirst := fld bs 40 4, chunkCount := fld bs 44 4, aFmt := fld bs 48 1, bFmt := fld bs 49 1
    cFmt := fld bs 50 1, mode := fld bs 51 1, flags := fld bs 52 1, epiExp := sext 8 (fld bs 53 1)
    purpose := fld bs 54 2, statusAddr := fld bs 56 4 }

/-- A KERNEL (Table 2.11). -/
def parseKernelOp (bs : List Byte) : KernelOp :=
  { kernel := fld bs 8 2, rangeCount := fld bs 10 2, rangeFirst := fld bs 12 4
    args := (List.range 8).map fun i => fld bs (16 + 4 * i) 4 }

/-- An EXCH (Table 2.12). -/
def parseExch (bs : List Byte) : ExchOp :=
  { op := fld bs 8 1, redop := fld bs 9 1, fmt := fld bs 10 1, root := fld bs 12 2, src := fld bs 16 4
    dst := fld bs 20 4, srcOffset := fld bs 24 8, dstOffset := fld bs 32 8, elems := fld bs 40 8 }

/-- A SNAP (Table 2.13). -/
def parseSnap (bs : List Byte) : SnapOp :=
  { mode := fld bs 8 1, block := fld bs 9 1, rangeCount := fld bs 10 2, rangeFirst := fld bs 12 4
    staging := fld bs 16 2, lisletFirst := fld bs 20 2, lisletCount := fld bs 22 2, storeAddr := fld bs 24 4 }

/-- A step (R81), with the reserved bytes of its opcode checked (Tables 2.8 to 2.13). -/
def parseStep (bs : List Byte) : StepEnt :=
  let op := fld bs 0 1
  let zero : Bool :=
    if op = 1 then zeroAt bs 14 2 && zeroAt bs 17 1 && zeroAt bs 33 1
    else if op = 2 then zeroAt bs 8 8 && zeroAt bs 60 4 && decide (fld bs 52 1 < 8)
    else if op = 3 then zeroAt bs 48 16
    else if op = 4 then zeroAt bs 11 1 && zeroAt bs 14 2 && zeroAt bs 48 16
    else if op = 5 then zeroAt bs 18 2 && zeroAt bs 28 36
    else false
  { phase := fld bs 1 1, lislet := fld bs 2 2, dep0 := fld bs 4 2, dep1 := fld bs 6 2, reserved := zero
    op := if op = 1 then .move (parseMove bs) else if op = 2 then .mma (parseMma bs)
      else if op = 3 then .kernel (parseKernelOp bs) else if op = 4 then .exch (parseExch bs)
      else if op = 5 then .snap (parseSnap bs) else .bad }

/-- `n` entries of `size` bytes from byte `off` of an image. -/
def tableOf {α : Type} (f : List Byte → α) (bs : List Byte) (off n size : Nat) : List α :=
  (chunks size (slice bs off (n * size))).map f

/-- A kernel entry (R79), its code words taken from the code area at `codeOff`. -/
def parseKernelEnt (img : List Byte) (codeOff : Nat) (bs : List Byte) : KernelEnt :=
  let off := fld bs 0 8
  let len := fld bs 8 4
  ⟨off, len, (chunks 4 (slice img (codeOff + off) len)).map leNat⟩

/-- The image that bytes spell (Table 2.4). -/
def parseImage (bs : List Byte) : Image :=
  let nReg := fld bs 32 4
  let nTen := fld bs 36 4
  let nKer := fld bs 40 4
  let nRng := fld bs 44 4
  let nStp := fld bs 48 4
  let nCrs := fld bs 16 4
  { loop := (fld bs 6 2).testBit 0, lislets := fld bs 12 2, ranks := fld bs 14 2, loopFrom := fld bs 20 4
    iterCount := fld bs 24 8
    regions := tableOf parseRegion bs (fld bs 56 8) nReg 32
    tensors := tableOf parseTensor bs (fld bs 64 8) nTen 64
    kernels := tableOf (parseKernelEnt bs (fld bs 104 8)) bs (fld bs 72 8) nKer 16
    ranges := tableOf parseRange bs (fld bs 80 8) nRng 32
    crossings := tableOf parseCrossing bs (fld bs 88 8) nCrs 16
    steps := tableOf parseStep bs (fld bs 96 8) nStp 64
    digest := slice bs 128 64, bytes := bs.length }

/-! ### Tensor geometry (R77, R104) -/

/-- The bytes of `n` elements of a row: whole blocks for a block format, whole bytes for a 4-bit one. -/
def rowBytesOf (f : Fmt) (block n : Nat) : Nat :=
  if fmtIsBlock f then n / blockElems block * blockBytes f (blockElems block) else (n * fmtBits f + 7) / 8

/-- The elements that `b` bytes of a row hold; none when they are not whole elements or blocks (R66). -/
def elemsOfBytes (f : Fmt) (block b : Nat) : Option Nat :=
  if fmtIsBlock f then
    let n := blockElems block
    if n = 0 then none
    else if b % blockBytes f n = 0 then some (b / blockBytes f n * n) else none
  else if b * 8 % fmtBits f = 0 then some (b * 8 / fmtBits f) else none

/-- A tensor's format; RAW where the code is none of Table 2.2. -/
def tensorFmt (t : TensorEnt) : Fmt := (fmtOfCode t.fmt).getD .raw

/-- The elements of a tensor. -/
def tensorElems (t : TensorEnt) : Nat := t.dim0 * t.dim1 * t.dim2 * t.dim3

/-- The bytes of a tensor's row. -/
def tensorRow (t : TensorEnt) : Nat := rowBytesOf (tensorFmt t) t.block t.dim0

/-- The rows of a tensor. -/
def tensorRows (t : TensorEnt) : Nat := t.dim1 * t.dim2 * t.dim3

/-- The byte offset in the tensor of row r, rows counted in element-index order (R77). -/
def rowOffset (t : TensorEnt) (r : Nat) : Nat :=
  r % t.dim1 * t.stride1 + r / t.dim1 % t.dim2 * t.stride2 + r / t.dim1 / t.dim2 * t.stride3

/-- The bytes from a tensor's first byte to its last. -/
def tensorExtent (t : TensorEnt) : Nat := rowOffset t (tensorRows t - 1) + tensorRow t

/-- The byte offset in a row of element i. -/
def elemOffset (f : Fmt) (block i : Nat) : Nat :=
  if fmtIsBlock f then
    let n := blockElems block
    i / n * blockBytes f n + i % n * fmtBits f / 8
  else i * fmtBits f / 8

/-- The row of a tensor that holds the byte at an offset, rows counted in element-index order, and the byte's place in the row (R77); none
for a byte between rows, planes or volumes. -/
def tensorPlace (t : TensorEnt) (off : Nat) : Option (Nat × Nat) :=
  let i3 := if t.dim3 ≤ 1 || t.stride3 = 0 then 0 else off / t.stride3
  let off := off - i3 * t.stride3
  let i2 := if t.dim2 ≤ 1 || t.stride2 = 0 then 0 else off / t.stride2
  let off := off - i2 * t.stride2
  let i1 := if t.dim1 ≤ 1 || t.stride1 = 0 then 0 else off / t.stride1
  let off := off - i1 * t.stride1
  if i1 < t.dim1 ∧ i2 < t.dim2 ∧ i3 < t.dim3 ∧ off < tensorRow t then some (i1 + t.dim1 * (i2 + t.dim2 * i3), off) else none

/-- The element index at a byte offset of a tensor (R77), `nib` for the upper nibble of its byte. -/
def elemIndex (t : TensorEnt) (off : Nat) (nib : Bool) : Nat :=
  let f := tensorFmt t
  let i3 := if t.dim3 ≤ 1 || t.stride3 = 0 then 0 else off / t.stride3
  let off := off - i3 * t.stride3
  let i2 := if t.dim2 ≤ 1 || t.stride2 = 0 then 0 else off / t.stride2
  let off := off - i2 * t.stride2
  let i1 := if t.dim1 ≤ 1 || t.stride1 = 0 then 0 else off / t.stride1
  let off := off - i1 * t.stride1
  let i0 :=
    if fmtIsBlock f then
      let bb := blockBytes f (blockElems t.block)
      off / bb * blockElems t.block + off % bb * 8 / fmtBits f + b2n nib
    else off * 8 / fmtBits f + b2n nib
  i0 + t.dim0 * (i1 + t.dim1 * (i2 + t.dim2 * i3))

/-- Where the elements of one row lie: the first of them in the row, how many, and their bytes in the region. -/
structure RowPart where
  first : Nat
  count : Nat
  lo    : Nat
  hi    : Nat
  deriving DecidableEq, Repr

/-- Elements [a, a + n) of a tensor, row by row. -/
def elemRows (t : TensorEnt) (a n : Nat) : List RowPart :=
  if n = 0 || t.dim0 = 0 then []
  else
    let f := tensorFmt t
    let r0 := a / t.dim0
    let r1 := (a + n - 1) / t.dim0
    (List.range (r1 + 1 - r0)).map fun i =>
      let r := r0 + i
      let lo := max a (r * t.dim0) - r * t.dim0
      let hi := min (a + n) ((r + 1) * t.dim0) - r * t.dim0
      let base := t.offset + rowOffset t r
      let eb := if fmtIsBlock f then rowBytesOf f t.block (ceilDiv hi (blockElems t.block) * blockElems t.block)
                else (hi * fmtBits f + 7) / 8
      let sb := if fmtIsBlock f then rowBytesOf f t.block (lo / blockElems t.block * blockElems t.block)
                else lo * fmtBits f / 8
      ⟨lo, hi - lo, base + sb, base + eb⟩

/-- The byte spans, in its region, of elements [a, a + n) of a tensor. -/
def elemSpans (t : TensorEnt) (a n : Nat) : List (Nat × Nat) :=
  (elemRows t a n).foldl (fun sp r => spanAdd r.lo r.hi sp) []

/-! ### Positions of the crossing table (R63) -/

/-- The position and the iteration of an index (R63). -/
def posIter (i : Image) (index : Nat) : Nat × Nat :=
  let C := i.crossings.length
  if index < C then (index, 0)
  else
    let body := C - i.loopFrom
    (i.loopFrom + (index - C) % body, 1 + (index - C) / body)

/-- The position of an index. -/
def posOf (i : Image) (index : Nat) : Nat := (posIter i index).1

/-- The crossing entry of an index. -/
def crossingAt (i : Image) (index : Nat) : CrossingEnt := i.crossings.getD (posOf i index) ⟨0, 0, 0, 0⟩

/-- MAINT of a crossing (Table 2.7). -/
def isMaint (x : CrossingEnt) : Bool := x.flags.testBit 0
/-- ANCHOR of a crossing (Table 2.7). -/
def isAnchor (x : CrossingEnt) : Bool := x.flags.testBit 1

/-- The step indices of a crossing. -/
def stepsOf (x : CrossingEnt) : List Nat := (List.range x.count).map (x.first + ·)

/-- An index lies beyond the image's end (R63): after the last position of a LOOP-clear image, after the last bounded
iteration, or where the step would reach 2^40. -/
def pastEnd (i : Image) (stepBase index : Nat) : Bool :=
  let it := (posIter i index).2
  (if i.loop then i.iterCount != 0 && decide (i.iterCount ≤ it) else decide (i.crossings.length ≤ index))
    || decide (2 ^ 40 ≤ stepBase + it)

/-- How many of the indices 0 to `index` have a position that satisfies `p`; counted by whole iterations. -/
def countIndices (i : Image) (p : Nat → Bool) (index : Nat) : Nat :=
  let C := i.crossings.length
  let upTo (a b : Nat) := ((List.range (b - a)).filter fun k => p (a + k)).length
  if index < C then upTo 0 (index + 1)
  else
    let (pos, it) := posIter i index
    upTo 0 C + (it - 1) * upTo i.loopFrom C + upTo i.loopFrom (pos + 1)

/-! ### What a step touches -/

/-- The store of a logical islet as a space. -/
def spStore (l : Nat) : Nat := 2 * l
/-- An image region as a space. -/
def spRegion (r : Nat) : Nat := 2 * r + 1

/-- The islet store is 4 MiB (R52). -/
def storeSize : Nat := 2 ^ 22

/-- A place resolved (Table 2.3): its space, its first byte, the end it must stay below, and its tensor. `l` is the
logical islet of the step. -/
def resolvePlace (i : Image) (l : Nat) (p : Place) : Option (Nat × Nat × Nat × Option Nat) :=
  if p.space = 0 ∧ p.lislet = 0 ∧ p.offset = 0 then some (spStore l, p.addr, storeSize, none)
  else if p.space = 1 ∧ p.lislet < i.lislets ∧ p.offset = 0 then some (spStore p.lislet, p.addr, storeSize, none)
  else if p.space = 2 ∧ p.lislet = 0 then
    match i.tensors[p.addr]? with
    | some t => some (spRegion t.region, t.offset + p.offset, t.offset + tensorExtent t, some p.addr)
    | none => none
  else none

/-- The block code that a side of a MOVE uses (R66): the tensor's, or STORE_BLOCK. -/
def moveBlock (i : Image) (m : MoveOp) (p : Place) : Nat :=
  if p.space = 2 then (i.tensors[p.addr]?).elim 0 (·.block) else m.storeBlock

/-- The destination bytes of a row of a MOVE. -/
def moveDstRow (i : Image) (m : MoveOp) : Nat :=
  match fmtOfCode m.srcFmt, fmtOfCode m.dstFmt with
  | some sf, some df =>
    if sf = .raw then m.rowBytes
    else rowBytesOf df (moveBlock i m m.dst) ((elemsOfBytes sf (moveBlock i m m.src) m.rowBytes).getD 0)
  | _, _ => m.rowBytes

/-- The accesses of strided rows. -/
def rowAccesses (sp lo n rows stride : Nat) (rd wr : Bool) (t : Option Nat) (raw : Bool) : List Access :=
  if n = 0 ∨ rows = 0 then []
  else if stride ≤ n then [⟨sp, lo, lo + (rows - 1) * stride + n, rd, wr, t, raw⟩]
  else (List.range rows).map fun r => ⟨sp, lo + r * stride, lo + r * stride + n, rd, wr, t, raw⟩

/-- The k that an MMA's operands cover (R148). -/
def mmaCover (m : MmaOp) : Nat :=
  if m.mode = 1 then min m.k (32 * (m.chunkFirst + m.chunkCount)) - 32 * m.chunkFirst else m.k

/-- The chunk count T of an MMA (R67, R120). -/
def mmaTotal (m : MmaOp) : Nat := ceilDiv m.k 32

/-- The pitch of a k-major operand over `k` elements: its row padded to 64 bytes (R148); blocks are of 32 (R149). -/
def pitchOf (f : Fmt) (k : Nat) : Nat := ceilDiv (rowBytesOf f 2 k) 64 * 64

/-- The bytes of an operand (R151). -/
def operandBytes (f : Fmt) (kMajor : Bool) (k : Nat) : Nat :=
  if kMajor then 32 * pitchOf f k else k * rowBytesOf f 2 32

/-- The bytes of C (R150). -/
def cBytes (f : Fmt) : Nat := 32 * rowBytesOf f 2 32

/-- The bytes of an accumulator block (R127). -/
def accBytes : Nat := 6208

/-- The store ranges of an MMA (Table 5.3). -/
def mmaAccesses (l : Nat) (m : MmaOp) : List Access :=
  let sp := spStore l
  let rd (a n : Nat) : Access := ⟨sp, a, a + n, true, false, none, false⟩
  let wr (a n : Nat) : Access := ⟨sp, a, a + n, false, true, none, false⟩
  let fa := (fmtOfCode m.aFmt).getD .raw
  let fb := (fmtOfCode m.bFmt).getD .raw
  let fc := (fmtOfCode m.cFmt).getD .raw
  let ops := [rd m.aAddr (operandBytes fa (!m.flags.testBit 0) (mmaCover m)),
              rd m.bAddr (operandBytes fb (m.flags.testBit 1) (mmaCover m))]
  match m.mode with
  | 0 => ops ++ [wr m.cAddr (cBytes fc), wr m.statusAddr 64]
  | 1 => ops ++ [wr m.accAddr accBytes]
  | 2 => [rd m.accAddr accBytes, rd m.acc2Addr accBytes, wr m.cAddr accBytes]
  | _ => [rd m.accAddr accBytes, wr m.cAddr (cBytes fc), wr m.statusAddr 64]

/-- The ranges named by a count and a first index; none when they do not lie in the table. -/
def rangesAt (i : Image) (first n : Nat) : Option (List RangeEnt) :=
  if first + n ≤ i.ranges.length then some ((i.ranges.drop first).take n) else none

/-- The accesses of a kernel's ranges (R69). -/
def rangeAccess (i : Image) (l : Nat) (r : RangeEnt) : List Access :=
  match resolvePlace i l r.place with
  | some (sp, lo, _, t) => [⟨sp, lo, lo + r.bytes, r.access.testBit 0, r.access.testBit 1, t, false⟩]
  | none => []

/-- The accesses of an EXCH (R70); an in-place ALLREDUCE is one range read and written (R60). -/
def exchAccesses (i : Image) (x : ExchOp) : List Access :=
  match i.tensors[x.src]?, i.tensors[x.dst]? with
  | some ts, some td =>
    let sn := x.elems * (if x.op = 1 then i.ranks else 1)
    let dn := x.elems * (if x.op = 2 then i.ranks else 1)
    let src (wr : Bool) := (elemSpans ts x.srcOffset sn).map fun p => (⟨spRegion ts.region, p.1, p.2, true, wr, some x.src, false⟩ : Access)
    let dst := (elemSpans td x.dstOffset dn).map fun p => (⟨spRegion td.region, p.1, p.2, false, true, some x.dst, decide (2 ≤ x.op)⟩ : Access)
    if x.op = 0 && x.src == x.dst && x.srcOffset == x.dstOffset then src true else src false ++ dst
  | _, _ => []

/-- DATA_OFF of a manifest (R210). -/
def snapDataOff (n : Nat) : Nat := ceilDiv (256 + 128 * n) 4096 * 4096

/-- The staging offset of each range's data, and the end (R210). -/
def snapOffsets : Nat → List RangeEnt → List Nat × Nat
  | e, [] => ([], e)
  | e, r :: rs =>
    let at_ := ceilDiv e 64 * 64
    let (os, e') := snapOffsets (at_ + r.bytes) rs
    (at_ :: os, e')

/-- The rows of a tensor that lie wholly inside a range, in element-index order (R216). -/
def wholeRows (t : TensorEnt) (off n : Nat) : List Nat :=
  (List.range (tensorRows t)).filter fun r => within (rowOffset t r) (tensorRow t) off n

/-- One row group of a policy copy (R214): its logical islet, store address, staging offset, tensor index, rows. -/
structure PolicyGroup where
  lislet : Nat
  addr   : Nat
  stage  : Nat
  tensor : Nat
  rows   : List Nat
  deriving DecidableEq, Repr

/-- The pitch of a policy row of D elements in B4 blocks of n (R214). -/
def policyPitch (d n : Nat) : Nat := ceilDiv (ceilDiv d n * blockBytes .b4 n) 64 * 64

/-- The row groups of a policy copy in order (R214). `fill` holds the fill address of each islet so far. -/
def policyGroups (i : Image) (o : SnapOp) : List RangeEnt → Nat → Nat → SMap Nat → List PolicyGroup
  | [], _, _, _ => []
  | r :: rs, g, stage, fill =>
    match i.tensors[r.place.addr]? with
    | none => policyGroups i o rs g stage fill
    | some t =>
      let size := 32 * policyPitch t.dim0 (blockElems o.block)
      let cut := chunks 32 (wholeRows t r.place.offset r.bytes)
      let step := fun (st : List PolicyGroup × Nat × Nat × SMap Nat) (rows : List Nat) =>
        let (acc, g, stage, fill) := st
        let l := o.lisletFirst + (if o.lisletCount = 0 then 0 else g % o.lisletCount)
        let a := ((fill.find? fun p => p.1 == l).map (·.2)).getD o.storeAddr
        (acc ++ [⟨l, a, stage, r.place.addr, rows⟩], g + 1, stage + size, (l, a + size) :: fill.filter fun p => p.1 != l)
      let (acc, g, stage, fill) := cut.foldl step ([], g, stage, fill)
      acc ++ policyGroups i o rs g stage fill

/-- The bytes of a row group. -/
def groupBytes (i : Image) (o : SnapOp) (g : PolicyGroup) : Nat :=
  match i.tensors[g.tensor]? with
  | some t => 32 * policyPitch t.dim0 (blockElems o.block)
  | none => 0

/-- The accesses of a SNAP (R71, R216): its ranges, the stores it fills and its staging region. -/
def snapAccesses (i : Image) (o : SnapOp) : List Access :=
  let rs := (rangesAt i o.rangeFirst o.rangeCount).getD []
  let reads := rs.flatMap (rangeAccess i 0)
  let fills := if o.mode = 1 then (policyGroups i o rs 0 4096 []).map fun g =>
      (⟨spStore g.lislet, g.addr, g.addr + groupBytes i o g, false, true, none, false⟩ : Access) else []
  let size := (i.regions[o.staging]?).elim 0 (·.bytes)
  reads ++ fills ++ [⟨spRegion o.staging, 0, size, false, true, none, false⟩]

/-- The byte ranges that a step touches (R60). -/
def stepAccesses (i : Image) (st : StepEnt) : List Access :=
  match st.op with
  | .move m =>
    match resolvePlace i st.lislet m.src, resolvePlace i st.lislet m.dst with
    | some (ss, sl, _, stn), some (ds, dl, _, dtn) =>
      rowAccesses ss sl m.rowBytes m.rows m.srcStride true false stn false
        ++ rowAccesses ds dl (moveDstRow i m) m.rows m.dstStride false true dtn (m.srcFmt == 0)
    | _, _ => []
  | .mma m => mmaAccesses st.lislet m
  | .kernel k => ((rangesAt i k.rangeFirst k.rangeCount).getD []).flatMap (rangeAccess i st.lislet)
  | .exch x => exchAccesses i x
  | .snap o => snapAccesses i o
  | .bad => []

/-- The tensors that a step names as written (R72), whether or not it has a byte to write. -/
def stepWrites (i : Image) (st : StepEnt) : List Nat :=
  match st.op with
  | .move m => if m.dst.space = 2 then [m.dst.addr] else []
  | .exch x => [x.dst]
  | .kernel k => ((rangesAt i k.rangeFirst k.rangeCount).getD []).filterMap fun r =>
      if r.place.space = 2 ∧ r.access.testBit 1 = true then some r.place.addr else none
  | _ => []

/-- The tensors that a crossing's steps write (R72). -/
def crossingWrites (i : Image) (x : CrossingEnt) : List Nat :=
  ((stepsOf x).flatMap fun k => (i.steps[k]?).elim [] (stepWrites i)).eraseDups

/-- A crossing's write of a tensor is full (R109): its ranges cover every element and none is a byte copy. Ranges cover whole bytes: one
that writes one nibble of a byte of E2M1 covers it (DESIGN CHOICE, assumption log 159). -/
def fullWrite (i : Image) (x : CrossingEnt) (t : Nat) : Bool :=
  let acc := ((stepsOf x).flatMap fun k => (i.steps[k]?).elim [] (stepAccesses i)).filter fun a => a.wr && a.tensor == some t
  match i.tensors[t]? with
  | none => false
  | some te =>
    let sp := acc.foldl (fun sp a => spanAdd a.lo a.hi sp) []
    !acc.isEmpty && acc.all (fun a => !a.rawCopy)
      && (List.range (tensorRows te)).all fun r =>
        spanCovers sp (te.offset + rowOffset te r) (te.offset + rowOffset te r + tensorRow te)

end Sys2Proof.Machine
end

