-- ==== Sys2Proof/Machine/State.lean ====
section
/-! DEFINITION. The state of the block: every component's data, the queue of waiting commands, and the state right after
reset. -/

namespace Sys2Proof.Machine

/-- The block stops with no fault: the spec gives every command an effect, or the block's state does not enable it and it
changes nothing (DEDUCED, assumption log 2). -/
inductive Fault where
  deriving DecidableEq, Repr

/-- Why a command has no meaning. -/
inductive Refusal where
  /-- Raised by an arm of `exec` whose command this model gives no meaning yet; safe, since nothing follows from it. -/
  | notModelled (mnemonic : String)
  deriving DecidableEq, Repr

/-- The state of the block. `now`, `freeCtr` and `out` are the model's own: the cycles that have passed, the counter that
free values are drawn from (assumption log 5), and what has left the module, newest first. -/
structure State where
  cfg     : Cfg := .sk3_4a
  now     : Nat := 0
  xng     : Xng := {}
  ttu     : Ttu := {}
  isl     : Islets := {}
  fry     : Ferry := {}
  lnc     : Lanes := {}
  mem     : Mem := {}
  rgn     : Regions := {}
  log     : Recorder := {}
  harts   : SMap Hart := []
  snd     : Ring := {}
  zng     : Link := {}
  hbr     : Hbr := {}
  hlt     : Health := {}
  sec     : Sec := {}
  pwr     : Power := {}
  flash   : Flash := {}
  mode    : ModState := .boot
  out     : List Out := []
  freeCtr : Nat := 0
  pending : List Instr := []
  deriving DecidableEq, Repr

/-- The islets of a whole SK3-4A in the order of their slots (R86): round-robin over N, E, S and W.
(DESIGN CHOICE, assumption log 1) (PRESUMED, assumption log 8) -/
def wholeSlots : List Nat := (List.range 768).map fun k => k % 4 * 256 + k / 4

/-- The module right after reset: an SK3-4A (R4) that is whole, at PWR_GOOD of its first power cycle (R417, R445), in BOOT before
bring-up stage 0 has ended. Every field not named here is at the reset value that its declaration states; `wholeSlots`, the power
pins and what persists are the model's choices (assumption log 1, 4). (DESIGN CHOICE, assumption log 1, 4) -/
def State.reset : State := { isl := { slots := wholeSlots }, log := { powers := 1 } }

end Sys2Proof.Machine
end

