-- ==== Sys2Proof/Machine/Data.lean ====
section
/-! DEFINITION. Sparse arrays, byte memories, the status codes of R16 and CRC-32C. -/

namespace Sys2Proof.Machine

/-! ### Sparse arrays -/

/-- The entry of a key; the default where none is listed. -/
def look {α : Type} (d : α) : SMap α → Nat → α
  | [], _ => d
  | (i, x) :: r, k => if i = k then x else look d r k

/-- The array with one entry set; setting the default removes the entry, so equal arrays are equal lists. -/
def put {α : Type} [DecidableEq α] (d : α) (k : Nat) (v : α) : SMap α → SMap α
  | [] => if v = d then [] else [(k, v)]
  | (i, x) :: r =>
    if i = k then put d k v r
    else if k < i then
      let rest := (i, x) :: r.filter fun p => p.1 != k
      if v = d then rest else (k, v) :: rest
    else (i, x) :: put d k v r

/-- The entry of a key in an association list. -/
def assoc {α : Type} (k : Nat) : List (Nat × α) → Option α
  | [] => none
  | (i, x) :: r => if i = k then some x else assoc k r

/-- The association list with a key's entry replaced. -/
def assocPut {α : Type} (k : Nat) (v : α) (l : List (Nat × α)) : List (Nat × α) :=
  (k, v) :: l.filter fun p => p.1 != k

/-- The association list without a key. -/
def assocDel {α : Type} (k : Nat) (l : List (Nat × α)) : List (Nat × α) := l.filter fun p => p.1 != k

/-! ### Byte memories: an unlisted byte reads as zero (assumption log 3) -/

/-- The bytes from address `a` on, of a memory whose entries below `a` are gone. -/
def expand : Nat → Nat → SMap Byte → List Byte
  | 0, _, _ => []
  | n + 1, a, [] => 0 :: expand n (a + 1) []
  | n + 1, a, (i, b) :: r => if i = a then b :: expand n (a + 1) r else 0 :: expand n (a + 1) ((i, b) :: r)

/-- The `n` bytes at address `a`. (DESIGN CHOICE, assumption log 3) -/
def getBytes (m : SMap Byte) (a n : Nat) : List Byte := expand n a (m.filter fun p => decide (a ≤ p.1))

/-- The entries of a run of bytes from address `a` on; zero bytes take none. -/
def entriesOf : Nat → List Byte → SMap Byte
  | _, [] => []
  | a, b :: r => if b = 0 then entriesOf (a + 1) r else (a, b) :: entriesOf (a + 1) r

/-- A memory with the bytes at address `a` replaced. -/
def setBytes (m : SMap Byte) (a : Nat) (bs : List Byte) : SMap Byte :=
  (m.filter fun p => decide (p.1 < a)) ++ entriesOf a bs ++ (m.filter fun p => decide (a + bs.length ≤ p.1))

/-- A memory with the `n` bytes at `dst` replaced by the `n` bytes that another memory holds at `src`. -/
def copyBytes (m : SMap Byte) (dst : Nat) (from_ : SMap Byte) (src n : Nat) : SMap Byte :=
  (m.filter fun p => decide (p.1 < dst))
    ++ ((from_.filter fun p => decide (src ≤ p.1) && decide (p.1 < src + n)).map fun p => (p.1 - src + dst, p.2))
    ++ (m.filter fun p => decide (dst + n ≤ p.1))

/-- The canonical form of a byte memory: addresses strictly rising, and no entry equal to what an unlisted byte reads.
(DESIGN CHOICE, assumption log 3) -/
def Memory.wf : SMap Byte → Bool
  | [] => true
  | [(_, b)] => b != 0
  | (i, b) :: (j, c) :: r => b != 0 && decide (i < j) && Memory.wf ((j, c) :: r)

/-! ### Status codes (R16) -/

/-- OK. -/
def stOk : Nat := 0
/-- BUSY. -/
def stBusy : Nat := 1
/-- BAD_OPCODE. -/
def stBadOpcode : Nat := 2
/-- BAD_ARG. -/
def stBadArg : Nat := 3
/-- NO_RESOURCE. -/
def stNoResource : Nat := 4
/-- DENIED. -/
def stDenied : Nat := 5
/-- STATE. -/
def stState : Nat := 6
/-- TIMEOUT. -/
def stTimeout : Nat := 7
/-- STALE. -/
def stStale : Nat := 8
/-- SAME_FEED. -/
def stSameFeed : Nat := 9
/-- SKEW. -/
def stSkew : Nat := 10
/-- INTEGRITY. -/
def stIntegrity : Nat := 11

/-! ### CRC-32C -/

/-- One bit step of the reflected CRC-32C (R208: polynomial 0x1EDC_6F41, reflected). -/
def crcBit (c : Nat) : Nat := if c % 2 = 1 then (c / 2) ^^^ 0x82F63B78 else c / 2

/-- CRC-32C (R208). -/
def crc32c (bs : List Byte) : Nat :=
  (bs.foldl (fun c b => iter crcBit 8 (c ^^^ b.toNat)) 0xFFFFFFFF) ^^^ 0xFFFFFFFF

/-- One of the numbers that are free, where the spec names none of them: a free value says which (DESIGN CHOICE, assumption log 61). -/
def pickFree (s : State) (l : List Nat) : Option Nat := l[Config.freeValue s.freeCtr % l.length]?

/-- A free value has been used. (DESIGN CHOICE, assumption log 61) -/
def drawn (s : State) : State := { s with freeCtr := s.freeCtr + 1 }

/-- A free value is drawn (DESIGN CHOICE, assumption log 5). -/
def draw (s : State) : State × Nat := ({ s with freeCtr := s.freeCtr + 1 }, Config.freeValue s.freeCtr)

end Sys2Proof.Machine
end

