-- ==== Sys2Proof/Machine/Send.lean ====
section
/-! DEFINITION. What the module sends on its Zuong ports: flits and credits (R326 to R330), the choice of port (R342), host and
peer accesses (R341, R346) and interrupts to the external host (R340). -/

namespace Sys2Proof.Machine

/-- Something leaves the module. -/
def emit (o : Out) (s : State) : State := { s with out := o :: s.out }

/-! ### Ports -/

/-- A port. -/
def portOf (s : State) (p : Nat) : Port := look {} s.zng.ports p

/-- A port set. -/
def setPort (p : Nat) (x : Port) (s : State) : State :=
  { s with zng := { s.zng with ports := put {} p x s.zng.ports } }

/-- A port is ACTIVE. -/
def portActive (s : State) (p : Nat) : Bool := (portOf s p).phase == .active

/-- A port carries keys: ACTIVE, or retraining while its traffic waits (R325). -/
def portCarries (s : State) (p : Nat) : Bool := (portOf s p).phase == .active || (portOf s p).phase == .retrain

/-- The next carrying port from p in ascending order, wrapping from 7 to 0 (R342). -/
def nextPort (s : State) (p : Nat) : Option Nat := ((List.range 8).map fun i => (p + i) % 8).find? (portCarries s)

/-- No port carries or trains, and one is LOST (R350): what is asked of the outside comes poisoned (R341). (DEDUCED, assumption log 136) -/
def allLost (s : State) : Bool :=
  ((List.range 8).any fun p => (portOf s p).phase == .lost)
    && (List.range 8).all fun p => (portOf s p).phase == .lost || (portOf s p).phase == .down

/-- The port that carries a home port's keys (R342): the home port itself, or the next one that carries. -/
def portOfHome (s : State) (h : Nat) : Option Nat := if portCarries s h then some h else nextPort s h

/-- SUBST (Table 12.15): the port carrying the keys of a home port, while any of them is still elsewhere that port (R350). -/
def substOf (s : State) (h : Nat) : Nat :=
  let away (r : HostReq) : Bool := r.port != h && portCarries s r.port && (match r.peer with
    | some (id, _) => id % 8 == h
    | none => r.off / 2 ^ 21 % 8 == h)
  if portCarries s h then (match s.zng.issued.find? away with
    | some r => r.port
    | none => h)
  else (nextPort s h).getD h

/-! ### Flits -/

/-- A flit (Table 12.2). (DEDUCED, assumption log 30) -/
def flitBytes (seq ack typ : Nat) (body : List Byte) : List Byte :=
  let h := toLE 4 (seq % 4096 + ack % 4096 * 2 ^ 12 + typ * 2 ^ 24) ++ padTo 248 body
  h ++ toLE 4 (crc32c h)

/-- Units of 64 bytes that a transaction takes (R329). -/
def unitsOf (t : Txn) : Nat := ceilDiv t.bytes.length 64

/-- A transaction has its credits (R329). -/
def mayGo (x : Port) (t : Txn) : Bool :=
  (t.cls != 0 || decide (unitsOf t ≤ x.creditReq)) && (t.cls != 2 || decide (unitsOf t ≤ x.creditCtl))

/-- Order of preference at a header position: CRD, CTL, RSP, REQ (R330). -/
def classOrder : List Nat := [3, 2, 1, 0]

/-- The transaction to send next at a header position: the oldest of the most preferred class that has its credits (R329, R330). -/
def nextTxn (x : Port) : Option Txn :=
  classOrder.findSome? fun c => (x.waiting.find? fun t => t.cls == c).filter (mayGo x)

/-- The first occurrence of a transaction removed. -/
def dropFirst {α : Type} [DecidableEq α] (a : α) : List α → List α
  | [] => []
  | b :: r => if a = b then r else b :: dropFirst a r

/-- A transaction joins the stream (R328): its credits are spent. -/
def startTxn (x : Port) (t : Txn) : Port :=
  { x with
    waiting := dropFirst t x.waiting, tx := x.tx ++ t.bytes
    creditReq := if t.cls = 0 then x.creditReq - unitsOf t else x.creditReq
    creditCtl := if t.cls = 2 then x.creditCtl - unitsOf t else x.creditCtl }

/-- The body of the next flit is filled with the transactions that may go (R328, R330), by fuel. -/
def fillBody : Nat → Port → Port
  | 0, x => x
  | n + 1, x =>
    if 248 ≤ x.tx.length then x
    else match nextTxn x with
      | some t => fillBody n (startTxn x t)
      | none => x

/-- One DATA flit leaves with the next 248 bytes of the stream; where the stream ends before, a PAD byte ends the body (R328). -/
def sendFlit (p : Nat) (x : Port) (s : State) : State :=
  let seq := (x.txSeq + 1) % 4096
  let body := x.tx.take 248
  emit (.flit p (flitBytes seq x.ack 1 body)) (setPort p { x with
    txSeq := seq, tx := x.tx.drop 248, unacked := x.unacked ++ [(seq, body)] } s)

/-- What may leave a port leaves while its replay buffer has room for a flit (R327), by fuel. -/
def pumpAux : Nat → Nat → State → State
  | 0, _, s => s
  | n + 1, p, s =>
    let x := fillBody (portOf s p).waiting.length (portOf s p)
    if portActive s p && decide (x.unacked.length < 512) && !x.tx.isEmpty then pumpAux n p (sendFlit p x s) else s

/-- What may leave a port leaves (R327, R328, R330): no more flits than its transactions take. -/
def pump (p : Nat) (s : State) : State :=
  let x := portOf s p
  pumpAux (x.waiting.foldl (fun n t => n + ceilDiv t.bytes.length 248 + 1) (ceilDiv x.tx.length 248)) p s

/-- A transaction is issued on a port. (DEDUCED, assumption log 30) -/
def sendTxn (p cls : Nat) (bytes : List Byte) (s : State) : State :=
  let x := portOf s p
  let t : Txn := ⟨cls, padTo (ceilDiv bytes.length 8 * 8) bytes, s.now⟩
  pump p (setPort p { x with waiting := x.waiting ++ [t] } s)

/-- A transaction header (R331): code, FLAGS, LEN, then the code's fields from byte 4. -/
def txnHead (code flags len size : Nat) (fields : List (Nat × Nat × Nat)) : List Byte :=
  fields.foldl (fun h f => patch h f.1 (toLE f.2.1 f.2.2)) (padTo size (toLE 1 code ++ toLE 1 flags ++ toLE 2 len))

/-! ### Interrupts to the external host -/

/-- HOST_IRQ (Table 12.3) on a port. -/
def hostIrqOn (p vector info : Nat) (s : State) : State :=
  sendTxn p 0 (txnHead 0x0C 0 0 16 [(4, 2, vector), (8, 8, info)]) s

/-- An interrupt on vector 0, for no queue: on the lowest-numbered ACTIVE port (R340). The information field holds the event
code and, from bit 16, its detail. (DEDUCED, assumption log 107) -/
def eventIrq (code detail : Nat) (s : State) : State :=
  let info := code + detail % 2 ^ 48 * 2 ^ 16
  match (List.range 8).find? (portActive s) with
  | some p => hostIrqOn p 0 info s
  | none => emit (.hostIrq 0 info) s

/-! ### Host and peer accesses -/

/-- The key of an access (R342): its 2 MiB page, or the destination peer ID. -/
def keyOf (r : HostReq) : Nat :=
  match r.peer with
  | some (id, _) => id
  | none => r.off / 2 ^ 21

/-- The port of an access (R342, R350): that on which its key has accesses outstanding, while it carries; else its home port's. -/
def portOfKey (s : State) (r : HostReq) : Option Nat :=
  match s.zng.issued.find? fun x => keyOf x == keyOf r && x.peer.isSome == r.peer.isSome && portCarries s x.port with
  | some x => some x.port
  | none => portOfHome s (keyOf r % 8)

/-- Most bytes of one transaction (R331). -/
def pieceMax (r : HostReq) : Nat := if r.write then 1024 else 4096

/-- A port has room for one more access (R341). -/
def hasRoom (s : State) (p : Nat) (write : Bool) : Bool :=
  decide ((s.zng.issued.filter fun r => r.port == p && r.write == write).length < (if write then 1024 else 256))

/-- A tag that no outstanding access of its kind on a port holds. -/
def freeTag (s : State) (p : Nat) (write : Bool) : Nat :=
  let used := (s.zng.issued.filter fun r => r.port == p && r.write == write).map (·.tag)
  (pickFree s ((List.range 65536).filter fun t => !used.contains t)).getD 0

/-- The transaction of an access: HOST_RD, HOST_WR or PEER_WR (Table 12.3). -/
def accessTxn (r : HostReq) : List Byte :=
  match r.peer with
  | some (id, h) =>
    txnHead 0x05 0 r.len 24 [(4, 4, id), (8, 2, h), (10, 6, r.off), (16, 2, r.tag)] ++ r.data
  | none =>
    if r.write then txnHead 0x06 0 r.len 16 [(4, 2, r.tag), (8, 6, r.off)] ++ r.data
    else txnHead 0x07 0 r.len 16 [(4, 2, r.tag), (8, 6, r.off)]

/-- An access issued on a port. -/
def issueOn (p : Nat) (r : HostReq) (s : State) : State :=
  let r := { r with port := p, tag := freeTag s p r.write, got := 0, parts := [], bad := false, came := [] }
  sendTxn p 0 (accessTxn r) { drawn s with zng := { s.zng with issued := s.zng.issued ++ [r] } }

/-- A queued access issued piece by piece while its port has room; what is left of it. -/
def issueAux : Nat → HostReq → State → State × Option HostReq
  | 0, r, s => (s, some r)
  | n + 1, r, s =>
    if r.len = 0 then (s, none)
    else match portOfKey s r with
      | none => (s, some r)
      | some p =>
        if hasRoom s p r.write then
          let k := min r.len (pieceMax r)
          let s := issueOn p { r with len := k, data := r.data.take k } s
          issueAux n { r with off := r.off + k, len := r.len - k, data := r.data.drop k, came := [] } s
        else (s, some r)

/-- The queued accesses go out in order; one whose key is blocked keeps the later ones of its key behind it (R342). -/
def pumpHost (s : State) : State :=
  let q := s.zng.queued
  let (s, rest, _) := q.foldl (fun (acc : State × List HostReq × List Nat) r =>
    let (s, rest, stuck) := acc
    if stuck.contains (keyOf r) then (s, rest ++ [r], stuck)
    else match issueAux 2050 r s with
      | (s, none) => (s, rest, stuck)
      | (s, some r) => (s, rest ++ [r], keyOf r :: stuck)) ({ s with zng := { s.zng with queued := [] } }, [], [])
  { s with zng := { s.zng with queued := rest } }

/-- A run of host-window bytes cut at 2 MiB pages, by fuel. -/
def cutPages : Nat → HostReq → List HostReq
  | 0, _ => []
  | n + 1, r =>
    if r.len = 0 then []
    else
      let k := min r.len (2 ^ 21 - r.off % 2 ^ 21)
      { r with len := k, data := r.data.take k } :: cutPages n { r with off := r.off + k, len := r.len - k, data := r.data.drop k }

/-- An access is asked for. -/
def request (r : HostReq) (s : State) : State :=
  let rs := if r.peer.isSome then [r] else cutPages (r.len / 2 ^ 21 + 2) r
  pumpHost { s with zng := { s.zng with queued := s.zng.queued ++ rs } }

/-- First address of the host window (R223). -/
def hostBase : Nat := 0x100000000000

/-- A read of the host window at an offset. -/
def hostRead (off len : Nat) (use : HostUse) (s : State) : State := request { write := false, off := off, len := len, use := use } s

/-- A write of the host window at an offset. -/
def hostWrite (off : Nat) (data : List Byte) (use : HostUse) (s : State) : State :=
  request { write := true, off := off, len := data.length, data := data, use := use } s

/-- A write of a peer's placement region. -/
def peerWrite (id handle off : Nat) (data : List Byte) (use : HostUse) (s : State) : State :=
  request { write := true, peer := some (id, handle), off := off, len := data.length, data := data, use := use } s

/-- Accesses of a use that are still waiting or outstanding. -/
def openUses (s : State) (use : HostUse) : Bool :=
  (s.zng.queued.any fun r => r.use == use) || (s.zng.issued.any fun r => r.use == use)

end Sys2Proof.Machine
end

