-- ==== Sys2Proof/Machine/Ops.lean ====
section
/-! DEFINITION. The raising of an event (R413 to R418) with its weight on the risk estimate (R380 to R383). -/

namespace Sys2Proof.Machine

/-! ### Events -/

/-- SUBJECT of a class that Table 15.2 gives no unit. -/
def noSubject : Nat := 0xFFFFFFFF

/-- The fields after SUBJECT, each aligned to its own width from the start of DETAIL (R413), as the 20 bytes 4 to 23. -/
def packFields : Nat → List (Nat × Nat) → List Byte
  | _, [] => []
  | off, (w, v) :: r =>
    let pad := (w - off % w) % w
    zeros pad ++ toLE w v ++ packFields (off + pad + w) r

/-- DETAIL bytes 4 to 23 (R413). -/
def packDetail (fields : List (Nat × Nat)) : List Byte := padTo 20 (packFields 4 fields)

/-- HBR_STATE.STATE's code (Table 13.11). -/
def modeCode : ModState → Nat
  | .boot => 1 | .train => 2 | .ready => 3 | .run => 4 | .degraded => 5 | .securing => 6 | .halted => 7
  | .failed => 8

/-- The full P of Table 0.1. -/
def fullP : Cfg → Nat
  | .sk3_4a => 768
  | .sk3_2a => 400

/-- P, the physical islets in service (R86). -/
def inService (s : State) : Nat := s.isl.slots.length

/-- The weight an event adds to E, in steps of 1/64 (Table 14.1; Table 17.16 names its three warnings). -/
def weight64 (code : Nat) : Nat :=
  if code = 0x0403 ∨ code = 0x0601 then 1
  else if code = 0x0404 ∨ code = 0x0602 ∨ code = 0x060D then 64 * 64
  else if code = 0x0302 then 48 * 64
  else if code = 0x0405 ∨ code = 0x0408 ∨ code = 0x0503 ∨ code = 0x0801 ∨ code = 0x0802 ∨ code = 0x0803
    ∨ code = 0x0904 then 32 * 64
  else if code = 0x060B ∨ code = 0x0903 ∨ code = 0x0C03 ∨ code = 0x0C04 ∨ code = 0x0C06 then 16 * 64
  else if code = 0x0902 then 4 * 64
  else 0

/-- RISK (R380 to R382). -/
def risk (s : State) : Nat :=
  if s.hlt.warning then 255
  else min 255 (s.hlt.e64 / 64 + s.hlt.temp + min 64 (8 * (fullP s.cfg - inService s)) + (if s.hlt.cofed then 32 else 0))

/-- The record's 64 bytes (Table 15.1), before its CRC: bytes 0 to 59. -/
def recordHead (perm factory : Bool) (r : Record) : List Byte :=
  toLE 2 r.ev.code ++ toLE 2 r.repeats ++ toLE 4 r.ev.minutes ++ toLE 4 r.ev.powers ++ toLE 1 r.ev.state
    ++ toLE 1 (b2n perm + 2 * b2n factory + 4 * b2n r.ev.early) ++ toLE 2 0 ++ toLE 8 r.seq
    ++ toLE 8 (if r.ev.early then 0 else r.ev.cycle)
    ++ toLE 4 (if r.repeats = 0 || r.ev.early then 0 else min (r.last - r.ev.cycle) 0xFFFFFFFF)
    ++ toLE 4 r.ev.subject ++ padTo 20 r.ev.detail

/-- A record's 64 bytes (Table 15.1). -/
def recordBytes (perm factory : Bool) (r : Record) : List Byte :=
  let h := recordHead perm factory r
  h ++ toLE 4 (crc32c h)

/-- The event equals the newest record's code, SUBJECT and detail, in the same power cycle, with room to repeat (R415). -/
def folds (ev : Event) (r : Record) : Bool :=
  r.ev.code == ev.code && r.ev.subject == ev.subject && r.ev.detail == ev.detail && r.ev.powers == ev.powers
    && decide (r.repeats < 0xFFFF)

/-- The codes of what causes a fence, which come before event 0x0401 of the same islet (R161). -/
def fenceCause (code : Nat) : Bool := code == 0x0404 || code == 0x0405 || code == 0x0408 || code == 0x0503

/-- A record is that of the cause of a fence, of the cycle of the fence's event (R161). -/
def causeOf (ev : Event) (r : Record) : Bool :=
  ev.code == 0x0401 && fenceCause r.ev.code && ev.subject == r.ev.subject && r.ev.cycle == ev.cycle && r.ev.early == ev.early

/-- A new record set among the queued records of its own cycle, in ascending order of CODE and then SUBJECT (R414). -/
def insertByCode (ev : Event) : List Record → List Record
  | [] => [⟨ev, 0, 0, 0⟩]
  | r :: rs =>
    if r.ev.cycle = ev.cycle && r.ev.early = ev.early
        && (decide (ev.code < r.ev.code) || (ev.code == r.ev.code && decide (ev.subject < r.ev.subject))) then
      ⟨ev, 0, 0, 0⟩ :: r :: rs
    else r :: insertByCode ev rs

/-- A new record of event 0x0401 set right after its cause's. -/
def insertAfter (ev : Event) : List Record → List Record
  | [] => [⟨ev, 0, 0, 0⟩]
  | r :: rs => if causeOf ev r then r :: ⟨ev, 0, 0, 0⟩ :: rs else r :: insertAfter ev rs

/-- A new record takes its place in the queue (R414), event 0x0401 after its cause's (R161). (DEDUCED, assumption log 9) -/
def insertEvent (ev : Event) (q : List Record) : List Record :=
  if q.any (causeOf ev) then insertAfter ev q else insertByCode ev q

/-- Queued records numbered from a SEQ on. (DEDUCED, assumption log 9) -/
def renumber : Nat → List Record → List Record
  | _, [] => []
  | n, r :: rs => { r with seq := n } :: renumber (n + 1) rs

/-- The last record of a list. -/
def lastRecord : List Record → Option Record
  | [] => none
  | [r] => some r
  | _ :: rs => lastRecord rs

/-- The queue's last record replaced. -/
def setLast (r : Record) : List Record → List Record
  | [] => []
  | [_] => [r]
  | x :: rs => x :: setLast r rs

/-- An event handed to the recorder (R414, R415): folded into the newest record, or queued, or dropped.
(DEDUCED, assumption log 9) -/
def recordEvent (ev : Event) (g : Recorder) : Recorder :=
  match g.newest with
  | some n =>
    if folds ev n then
      let n' := { n with repeats := n.repeats + 1, last := ev.cycle }
      if g.written then
        let perm := decide (g.newestSlot < 1024)
        { g with newest := some n', mram := put [] g.newestSlot (recordBytes perm false n') g.mram, refold := true }
      else { g with newest := some n', queue := setLast n' g.queue }
    else if 256 ≤ g.queue.length then
      { g with dropped := if g.dropped = 0xFFFF then g.dropped else g.dropped + 1, sinceDrop := g.sinceDrop + 1 }
    else
      let q := insertEvent ev g.queue
      let q := renumber (g.nextSeq - g.queue.length) q
      { g with queue := q, nextSeq := g.nextSeq + 1, newest := lastRecord q, written := false }
  | none =>
    let q := renumber (g.nextSeq - g.queue.length) (insertEvent ev g.queue)
    { g with queue := q, nextSeq := g.nextSeq + 1, newest := lastRecord q, written := false }

/-- The event of this moment (R412: CYCLE, STATE, the counts, EARLY before XNG_CYCLE starts). -/
def eventOf (code subject : Nat) (fields : List (Nat × Nat)) (s : State) : Event :=
  { code := code, subject := subject, detail := packDetail fields
    cycle := if s.xng.running then s.xng.cycle.toNat else s.now
    early := !s.xng.running
    minutes := s.log.minutes.toNat, powers := s.log.powers.toNat, state := modeCode s.mode }

/-- An event recorded without its weight. -/
def logOnly (code subject : Nat) (fields : List (Nat × Nat)) (s : State) : State :=
  { s with log := recordEvent (eventOf code subject fields s) s.log }

/-- The destinations of a securing (R393, R395). -/
def secureDests (s : State) : List Nat :=
  if s.hlt.secureEver then (if s.hlt.dest.getLsbD 0 && s.flash.pairing.isSome then [0] else []) ++ (if s.hlt.dest.getLsbD 1 then [1] else [])
  else if s.flash.pairing.isSome then [0] else []

/-- A securing cannot start (R390, R393). -/
def secureRefused (s : State) : State := logOnly 0x0B04 noSubject [] s

/-- A securing fails at a destination (R391): ERR is set (Table 14.9). -/
def secureFailed (s : State) : State := secureRefused { s with hlt := { s.hlt with secErr := true } }

/-- The tick at or after which an armed securing binds (R396): the next grain in a group, at once on a solo module. -/
def bindTick (s : State) : Nat :=
  let t := s.xng.tick.toNat
  if s.xng.role = .solo then t else (t / 2 ^ s.hlt.grain.toNat + 1) * 2 ^ s.hlt.grain.toNat

/-- A securing is armed for the next anchor (R393, R396). -/
def armSecuring (s : State) : State :=
  match s.hlt.armed with
  | some _ => s
  | none => { s with hlt := { s.hlt with armed := some (bindTick s) } }

/-- A request arms a securing (R393): with no destination, or without recovery, it cannot start. -/
def requestSecuring (s : State) : State :=
  if (secureDests s).isEmpty || s.ttu.noRecovery then secureRefused s else armSecuring s

/-- The securing request of R383, judged on RISK before and after a change. -/
def requestCheck (before : Nat) (s : State) : State :=
  let r := risk s
  let at_ := s.hlt.secureAt.toNat
  let s := if r + 16 < at_ then { s with hlt.lastReq := none } else s
  if at_ = 0 ∨ s.hlt.mode then s
  else
    let due := match s.hlt.lastReq with
      | none => decide (before < at_) && decide (at_ ≤ r)
      | some p => decide (p + 32 ≤ r)
    if due then
      requestSecuring (eventIrq 0x0B01 1 (logOnly 0x0B01 0xFFFFFFFF [(1, 1)] { s with hlt.lastReq := some r }))
    else s

/-- An event is raised: recorded, its weight added to E whether or not it is folded or dropped (R380, R414, R415). -/
def raise (code subject : Nat) (fields : List (Nat × Nat)) (s : State) : State :=
  let before := risk s
  let s := logOnly code subject fields s
  if weight64 code = 0 then s
  else requestCheck before { s with
    hlt.e64 := min (65535 * 64) (s.hlt.e64 + weight64 code)
    hlt.weighty := if 16 * 64 ≤ weight64 code then s.hlt.weighty ++ [s.now] else s.hlt.weighty }

end Sys2Proof.Machine
end

