-- ==== Sys2Proof/Machine/Memory.lean ====
section
/-! DEFINITION. Module memory: homes and channels (R223 to R227, R245), the inline Reed–Solomon code (R228 to R230),
reads and writes of blocks and lines (R231 to R236), and the commands of the memory controllers. -/

namespace Sys2Proof.Machine

/-! ### Homes and channels -/

/-- Active channels N of a home (Table 8.1). -/
def homeChans (c : Cfg) (h : Nat) : Nat :=
  match c, h with
  | _, 0 => 32
  | .sk3_4a, 1 | .sk3_4a, 2 | .sk3_4a, 3 | .sk3_4a, 4 => 112
  | .sk3_2a, 1 | .sk3_2a, 3 => 116
  | _, _ => 0

/-- Spare channels fitted at a home (*Spares*: packages 28 and 29, package 29, package 8). -/
def homeSpares (c : Cfg) (h : Nat) : Nat :=
  match c, h with
  | _, 0 => 4
  | .sk3_4a, 1 | .sk3_4a, 2 | .sk3_4a, 3 | .sk3_4a, 4 => 8
  | .sk3_2a, 1 | .sk3_2a, 3 => 4
  | _, _ => 0

/-- Data bytes of one channel: 11.625 GiB (Table 8.1). -/
def chanBytes : Nat := 11904 * 2 ^ 20

/-- The backed size of a home (Table 8.1). -/
def homeBytes (c : Cfg) (h : Nat) : Nat := homeChans c h * chanBytes

/-- The home whose window holds an address; windows are 2 TiB (R223). -/
def homeOf (a : Nat) : Nat := a / 2 ^ 41

/-- The address is backed by memory (R223, R224). -/
def backed (c : Cfg) (a : Nat) : Bool := decide (a % 2 ^ 41 < homeBytes c (homeOf a))

/-- The channel slot of a backed address (R226). (DEDUCED, assumption log 121) -/
def slotOf (c : Cfg) (a : Nat) : Nat :=
  let N := homeChans c (homeOf a)
  let g := a % 2 ^ 41 / 4096
  let s := g / N
  let f := bits s 7 0 ^^^ bits s 15 8 ^^^ bits s 23 16
  let r := f ^^^ (bits a 42 41 * 0x55)
  (g % N + r) % N

/-- The channel offset of a backed address (R226). (DEDUCED, assumption log 121) -/
def chanOffset (c : Cfg) (a : Nat) : Nat :=
  a % 2 ^ 41 / 4096 / homeChans c (homeOf a) * 4096 + a % 4096

/-- The device address of a channel offset (R227). (DEDUCED, assumption log 121) -/
def deviceAddr (off : Nat) : Nat := 256 * (32 * (off / 256 / 31) + off / 256 % 31) + off % 256

/-- The device address of the check bytes of a channel offset's block (R227). (DEDUCED, assumption log 121) -/
def checkAddr (off : Nat) : Nat := 256 * (32 * (off / 256 / 31) + 31) + 8 * (off / 256 % 31)

/-- The channel offset of a device address, none in a check block (R227). -/
def offsetOfDevice (d : Nat) : Option Nat :=
  if d / 256 % 32 = 31 then none else some (256 * (31 * (d / 8192) + d / 256 % 32) + d % 256)

/-- A channel as made (R245): slot k maps to physical channel k, and the spares follow. -/
def chanDefault (c : Cfg) (k : Nat) : Channel :=
  let h := k / 256
  let p := k % 256
  if p < homeChans c h then { state := .active, slot := BitVec.ofNat 7 p }
  else if p < homeChans c h + homeSpares c h then { state := .spare }
  else { state := .absent }

/-- A channel, by h × 256 + p. -/
def chan (s : State) (k : Nat) : Channel := look (chanDefault s.cfg k) s.mem.chans k

/-- A channel set. -/
def setChan (k : Nat) (ch : Channel) (s : State) : State :=
  { s with mem := { s.mem with chans := put (chanDefault s.cfg k) k ch s.mem.chans } }

/-- The channel serves a slot (Table 8.10). -/
def serves (ch : Channel) : Bool := ch.state == .active || ch.state == .retirePending || ch.state == .lost

/-- The physical channel of a home that serves a slot. -/
def chanOfSlot (s : State) (h slot : Nat) : Option Nat :=
  (List.range 128).find? fun p => let ch := chan s (h * 256 + p); serves ch && ch.slot.toNat == slot

/-- The channel, h × 256 + p, of a backed address (R226, R245). -/
def chanOf (s : State) (a : Nat) : Nat :=
  homeOf a * 256 + (chanOfSlot s (homeOf a) (slotOf s.cfg a)).getD 0xFF

/-! ### The Reed–Solomon code -/

/-- Multiplication by α in GF(2^8) under x^8 + x^4 + x^3 + x^2 + 1 (R228). -/
def gfDouble (x : Nat) : Nat := if x < 128 then 2 * x else (2 * x - 256) ^^^ 0x1D

/-- The product in GF(2^8), over the bits of the second factor from the top. -/
def gfMulAux (x : Nat) : Nat → Nat → Nat → Nat
  | 0, _, acc => acc
  | n + 1, y, acc => gfMulAux x n y (gfDouble acc ^^^ (if y.testBit n then x else 0))

/-- The product in GF(2^8). -/
def gfMul (x y : Nat) : Nat := gfMulAux x 8 y 0

/-- α^n. -/
def gfPow (n : Nat) : Nat := iter gfDouble n 1

/-- The remainder of m(x) × x^4 divided by the generator, from the coefficient of x^3 down, once one more symbol of the message has been
taken (R228): the symbol that leaves feeds back through the generator's coefficients. -/
def rsTake (r : List Nat) (d : Nat) : List Nat :=
  let fb := d ^^^ r.headD 0
  ((r.drop 1 ++ [0]).zip [0x0F, 0x36, 0x78, 0x40]).map fun (p : Nat × Nat) => p.1 ^^^ gfMul fb p.2

/-- The check symbols of one half's 128 data symbols (R228): check byte j holds the coefficient of x^(3 − j). -/
def halfCheck (ds : List Nat) : List Nat := ds.foldl rsTake [0, 0, 0, 0]

/-- The data symbols of one half of a block (R228): the bytes 2i + h. -/
def halfData (bs : List Byte) (half : Nat) : List Nat := (List.range 128).map fun i => (bs.getD (2 * i + half) 0).toNat

/-- The 8 check bytes of a block (R228, R229): those of half 0, then of half 1, every one inverted for a poisoned block. -/
def checkBytes (bs : List Byte) (poison : Bool) : List Byte :=
  (halfCheck (halfData bs 0) ++ halfCheck (halfData bs 1)).map fun c => BitVec.ofNat 8 (if poison then c ^^^ 0xFF else c)

/-- The syndrome that an error value at a symbol adds: e × α^(j (131 − i)) for j = 0 to 3 (R228).
(DEDUCED, assumption log 114) -/
def synOf (e i : Nat) : Nat × Nat × Nat × Nat :=
  let x := gfPow (131 - i)
  let e1 := gfMul e x
  let e2 := gfMul e1 x
  (e, e1, e2, gfMul e2 x)

/-- The sum of two syndromes. -/
def synAdd (a b : Nat × Nat × Nat × Nat) : Nat × Nat × Nat × Nat :=
  (a.1 ^^^ b.1, a.2.1 ^^^ b.2.1, a.2.2.1 ^^^ b.2.2.1, a.2.2.2 ^^^ b.2.2.2)

/-- The zero syndrome. -/
def synZero : Nat × Nat × Nat × Nat := (0, 0, 0, 0)

/-- The syndrome of four inverted check bytes (R229). -/
def synPoison : Nat × Nat × Nat × Nat :=
  [128, 129, 130, 131].foldl (fun a i => synAdd a (synOf 0xFF i)) synZero

/-- The syndrome of one half of a block, from its symbols in error and its poison. -/
def synHalf (es : List SymErr) (poison half : Bool) : Nat × Nat × Nat × Nat :=
  es.foldl (fun a e => if e.half == half then synAdd a (synOf e.flip e.symbol) else a)
    (if poison then synPoison else synZero)

/-- The one symbol whose change clears a non-zero syndrome, with the change. (DEDUCED, assumption log 114) -/
def oneSymbol (y : Nat × Nat × Nat × Nat) : Option (Nat × Nat) :=
  if y.1 = 0 then none else (List.range 132).find? (fun i => synOf y.1 i == y) |>.map fun i => (i, y.1)

/-- The outcome of decoding a block (R229): 0 clean, 1 poisoned, 2 corrected with the half, symbol and change,
3 uncorrectable. (DEDUCED, assumption log 114) -/
def decodeBlock (es : List SymErr) (poison : Bool) : Nat × Bool × Nat × Nat :=
  let y0 := synHalf es poison false
  let y1 := synHalf es poison true
  if y0 == synZero && y1 == synZero then (0, false, 0, 0)
  else if y0 == synPoison && y1 == synPoison then (1, false, 0, 0)
  else if y1 == synZero then match oneSymbol y0 with
    | some (i, e) => (2, false, i, e)
    | none => (3, false, 0, 0)
  else if y0 == synZero then match oneSymbol y1 with
    | some (i, e) => (2, true, i, e)
    | none => (3, false, 0, 0)
  else (3, false, 0, 0)

/-- A block's bytes with its symbols in error applied: half h holds the bytes 2i + h (R228). -/
def applyErrs (es : List SymErr) (bs : List Byte) : List Byte :=
  es.foldl (fun bs e =>
    if e.symbol < 128 then
      let i := 2 * e.symbol + b2n e.half
      patch bs i [(bs.getD i 0) ^^^ BitVec.ofNat 8 e.flip]
    else bs) bs

/-! ### Blocks -/

/-- The block of an address. -/
def blockOf (a : Nat) : Nat := a / 256

/-- The write-combining entry that holds a block (R234). -/
def wcEntry (s : State) (b : Nat) : Option WcEntry :=
  (look [] s.mem.wc (chanOf s (256 * b))).find? fun e => e.block == b

/-- A write-combining buffer set. -/
def setWc (k : Nat) (es : List WcEntry) (s : State) : State :=
  { s with mem := { s.mem with wc := put [] k es s.mem.wc } }

/-- A block's bytes as the array holds them, errors included. -/
def rawBlock (s : State) (b : Nat) : List Byte := applyErrs (look [] s.mem.errs b) (getBytes s.mem.cells (256 * b) 256)

/-- A block's bytes as the controller delivers them: a corrected symbol put right (R230). -/
def goodBlock (s : State) (b : Nat) : List Byte :=
  match decodeBlock (look [] s.mem.errs b) (look false s.mem.poison b) with
  | (2, half, i, e) => applyErrs [⟨half, i, e⟩] (rawBlock s b)
  | _ => rawBlock s b

/-- A block written whole: its bytes, no symbol in error, and its poison (R229). -/
def writeBlock (b : Nat) (bs : List Byte) (poison : Bool) (s : State) : State :=
  { s with mem := { s.mem with
      cells := setBytes s.mem.cells (256 * b) (padTo 256 bs)
      errs := put [] b [] s.mem.errs
      poison := put false b poison s.mem.poison } }

/-- MEM_ECC_LAST is updated (Table 8.7). (DEDUCED, assumption log 29) -/
def eccLast (kind : Nat) (half : Bool) (symbol a : Nat) (s : State) : State :=
  { s with mem := { s.mem with eccLast :=
      ⟨true, BitVec.ofNat 2 kind, half, BitVec.ofNat 8 symbol, BitVec.ofNat 40 (a / 256)⟩ } }

/-- Cycles of 24 hours (R248). -/
def day : Nat := 86400 * 4000000000

/-- A corrected error counted on a channel (R230, R248). -/
def countCe (k : Nat) (s : State) : State :=
  let ch := chan s k
  setChan k { ch with
    ceCount := if ch.ceCount = 0xFFFFFF then ch.ceCount else ch.ceCount + 1
    ceTimes := s.now :: ch.ceTimes.filter fun t => decide (s.now < t + day) } s

/-- An uncorrectable error counted on a channel (R230). -/
def countUe (k : Nat) (s : State) : State :=
  let ch := chan s k
  setChan k { ch with ueCount := if ch.ueCount = 0xFF then ch.ueCount else ch.ueCount + 1 } s

/-- A block met as uncorrectable (R230): it is rewritten poisoned, counted and recorded. A lost channel takes no write
(R248). (DEDUCED, assumption log 29) -/
def uncorrectable (b : Nat) (s : State) : State :=
  let k := chanOf s (256 * b)
  let s := if (chan s k).state == .lost then s else writeBlock b (rawBlock s b) true s
  raise 0x0602 k [(8, 256 * b)] (eccLast 1 false 0 (256 * b) (countUe k s))

/-- A block is read and decoded (R229, R230): what the read does, and whether its lines carry poison. The data delivered
is then that of `goodBlock`. (DEDUCED, assumption log 29) -/
def readBlock (b : Nat) (s : State) : State × Bool :=
  let k := chanOf s (256 * b)
  if (chan s k).state == .lost then (uncorrectable b s, true)
  else
    match decodeBlock (look [] s.mem.errs b) (look false s.mem.poison b) with
    | (0, _) => (s, false)
    | (1, _) => (raise 0x0603 k [(8, 256 * b)] (eccLast 2 false 0 (256 * b) s), true)
    | (2, half, i, _) =>
      let s := if (wcEntry s b).isSome then s else writeBlock b (goodBlock s b) false s
      (raise 0x0601 k [(8, 256 * b)] (eccLast 0 half i (256 * b) (countCe k s)), false)
    | _ => (uncorrectable b s, true)

/-- Bytes of an entry laid over a block's (R236). -/
def overlay (e : Option WcEntry) (bs : List Byte) : List Byte :=
  match e with
  | none => bs
  | some e => e.bytes.foldl (fun bs p => patch bs p.1 [p.2]) bs

/-- An entry holds every byte of a 64-byte line (R236). -/
def lineValid (e : WcEntry) (off : Nat) : Bool :=
  (e.bytes.filter fun p => decide (off ≤ p.1) && decide (p.1 < off + 64)).length == 64

/-- An unbacked access is recorded (R224). -/
def unbacked (who a : Nat) (s : State) : State := raise 0x0608 (homeOf a * 256 + 0xFF) [(2, who), (8, a)] s

/-- The 64-byte lines that a run of bytes touches. -/
def linesOf (a n : Nat) : List Nat :=
  if n = 0 then [] else (List.range ((a + n - 1) / 64 + 1 - a / 64)).map fun i => (a / 64 + i) * 64

/-- The 256-byte blocks that a run of bytes touches. -/
def blocksOf (a n : Nat) : List Nat :=
  if n = 0 then [] else (List.range ((a + n - 1) / 256 + 1 - a / 256)).map fun i => a / 256 + i

/-- The bytes of one block as every reader sees them (R235). -/
def blockBytesOf (s : State) (b : Nat) : List Byte := overlay (wcEntry s b) (goodBlock s b)

/-- The bytes of memory as every reader sees them (R235), without the effects of a read. -/
def peek (s : State) (a n : Nat) : List Byte :=
  match blocksOf a n with
  | [] => []
  | b :: bs => slice ((b :: bs).flatMap (blockBytesOf s)) (a - 256 * b) n

/-- Requester code of the exchange unit (R224). -/
def whoExch : Nat := 0x3000
/-- Requester code of the snapshot engine (R224). -/
def whoSnap : Nat := 0x4000
/-- Requester code of a Zuong placement on a port (R224). -/
def whoPlace (port : Nat) : Nat := 0x5000 + port
/-- Requester code of an internal engine (R224). -/
def whoEngine : Nat := 0x6000

/-- The lines of a run that lie in one block are read for one requester (R224, R233, R236): the block is read once, unless an entry holds
every byte of those lines; whether a line carried poison so far. -/
def readNext (who a n : Nat) (sp : State × Bool) (b : Nat) : State × Bool :=
  let lo := max a (256 * b)
  let ls := linesOf lo (min (a + n) (256 * b + 256) - lo)
  if backed sp.1.cfg (256 * b) then
    if (wcEntry sp.1 b).any fun e => ls.all fun l => lineValid e (l % 256) then sp
    else
      let r := readBlock b sp.1
      (r.1, sp.2 || r.2)
  else (ls.foldl (fun s l => unbacked who l s) sp.1, true)

/-- A run of bytes is read, in ascending order. The bytes, and whether a line carried poison. -/
def readMem (who a n : Nat) (s : State) : State × List Byte × Bool :=
  let r := (blocksOf a n).foldl (readNext who a n) (s, false)
  (r.1, peek r.1 a n, r.2)

/-! ### Write combining -/

/-- A block's entry is gone from its buffer. -/
def dropWc (b : Nat) (s : State) : State :=
  let k := chanOf s (256 * b)
  setWc k ((look [] s.mem.wc k).filter fun x => x.block != b) s

/-- A block's entry holds these bytes, as the most recently written (R234). -/
def putWc (b : Nat) (bytes : SMap Byte) (s : State) : State :=
  let k := chanOf s (256 * b)
  setWc k ((look [] s.mem.wc k).filter (fun e => e.block != b) ++ [⟨b, bytes, s.now⟩]) s

/-- An entry is evicted (R234): a fully valid one is written without a read and clears poison, a partly valid one is
merged into its decoded block, poisoned where that block was. (DEDUCED, assumption log 115) -/
def evictEntry (e : WcEntry) (s : State) : State :=
  let k := chanOf s (256 * e.block)
  let s := dropWc e.block s
  if (chan s k).state == .lost then s
  else if e.bytes.length = 256 then writeBlock e.block (e.bytes.map (·.2)) false s
  else
    let (s, p) := readBlock e.block s
    writeBlock e.block (overlay (some e) (goodBlock s e.block)) p s

/-- A channel's full buffer gives up its least recently written entry (R234). (DEDUCED, assumption log 115) -/
def wcMakeRoom (a : Nat) (s : State) : State :=
  let es := look [] s.mem.wc (chanOf s a)
  if es.any (fun e => e.block == blockOf a) || es.length < 32 then s
  else match es with
    | e :: _ => evictEntry e s
    | [] => s

/-- A write of a line goes to an entry (R234): the bytes of `data` under `mask`. -/
def wcWrite (a : Nat) (data : List Byte) (mask : Nat) (s : State) : State :=
  let b := blockOf a
  let new := (data.zipIdx (a % 256 / 64 * 64)).filterMap fun p =>
    if mask.testBit (p.2 % 64) then some (p.2, p.1) else none
  putWc b (new.foldl (fun m p => (m.filter fun q => decide (q.1 < p.1)) ++ [p] ++ (m.filter fun q => decide (p.1 < q.1)))
    ((wcEntry s b).elim [] (·.bytes))) s

/-- One block's part of a write (R234, R235): `off` its first byte in the block. It goes to the block's entry; one that is then fully valid
is evicted at once, without a read, and clears poison. -/
def writePart (b off : Nat) (bs : List Byte) (s : State) : State :=
  if (chan s (chanOf s (256 * b))).state == .lost then s
  else if bs.length = 256 then writeBlock b bs false (dropWc b s)
  else
    let s := wcMakeRoom (256 * b) s
    let all := setRun ((wcEntry s b).elim [] (·.bytes)) off bs
    if all.length = 256 then writeBlock b (all.map (·.2)) false (dropWc b s) else putWc b all s
where
  /-- Bytes set in an entry; every byte written is listed, a zero too. -/
  setRun (m : SMap Byte) (off : Nat) (bs : List Byte) : SMap Byte :=
    (m.filter fun p => decide (p.1 < off)) ++ (bs.zipIdx off).map (fun p => (p.2, p.1))
      ++ (m.filter fun p => decide (off + bs.length ≤ p.1))

/-- A run of bytes is written and visible (R235). Unbacked lines are discarded and recorded (R224). -/
def writeMem (who a : Nat) (bs : List Byte) (s : State) : State :=
  (blocksOf a bs.length).foldl (fun s b =>
    let lo := max a (256 * b)
    let hi := min (a + bs.length) (256 * b + 256)
    if backed s.cfg (256 * b) then writePart b (lo - 256 * b) (slice bs (lo - a) (hi - lo)) s
    else (linesOf lo (hi - lo)).foldl (fun s l => unbacked who l s) s) s

/-- A block is written poisoned with the bytes that it shows (R229, R231, R289). -/
def poisonBlock (b : Nat) (s : State) : State :=
  let bs := blockBytesOf s b
  writeBlock b bs true (dropWc b s)

/-- The blocks that a run of bytes touches are poisoned (R229). -/
def poisonMem (a n : Nat) (s : State) : State :=
  (blocksOf a n).foldl (fun s b => if backed s.cfg (256 * b) then poisonBlock b s else s) s

/-- Every buffer is drained (R237). -/
def drainAll (s : State) : State :=
  (s.mem.wc.flatMap (·.2)).foldl (fun s e => evictEntry e s) s

/-! ### Trackers (R9, R238) and channels that make their requests wait (R240, R242) -/

/-- Requests to a channel wait: its calibration or its scan has not ended. -/
def chanWaits (s : State) (k : Nat) : Bool :=
  (chan s k).busy || s.mem.scanning.any fun x => x.kind == 1 && x.target == k

/-- The 4 KiB granules that a run of bytes touches; each lies in one channel (R226). -/
def granulesOf (a n : Nat) : List Nat :=
  if n = 0 then [] else (List.range ((a + n - 1) / 4096 + 1 - a / 4096)).map (a / 4096 + ·)

/-- A run of bytes lies in a channel whose requests wait. -/
def memWaits (s : State) (a n : Nat) : Bool :=
  ((s.mem.chans.any fun c => c.2.busy) || s.mem.scanning.isSome)
    && (granulesOf a n).any fun g => backed s.cfg (4096 * g) && chanWaits s (chanOf s (4096 * g))

/-- The trackers of a channel (R9, R238): those reserved for each class, and the shared ones. -/
def trackerPools (k : Nat) : Nat × Nat := if k / 256 = 0 then (128, 768) else (64, 384)

/-- The tracker that a request of a class takes at a channel (R238): a reserved one, else a shared one (`true`), else none. -/
def freeTracker (s : State) (k : Nat) (timed : Bool) : Option Bool :=
  let here := s.mem.tracked.filter fun t => chanOf s t.req.addr == k
  if (here.filter fun t => t.timed == timed && !t.shared).length < (trackerPools k).1 then some false
  else if (here.filter fun t => t.shared).length < (trackerPools k).2 then some true
  else none

end Sys2Proof.Machine
end

