-- ==== Sys2Proof/Machine/Pages.lean ====
section
/-! DEFINITION. Contexts, regions and page tags as every requester meets them (R251 to R260, R264, R265, R268, R269). -/

namespace Sys2Proof.Machine

/-- The page of an address, 2 MiB each (R258). -/
def pageOf (a : Nat) : Nat := a / 2 ^ 21

/-- The pages that a run of bytes touches. -/
def pagesOf (a n : Nat) : List Nat :=
  if n = 0 then [] else (List.range ((a + n - 1) / 2 ^ 21 + 1 - a / 2 ^ 21)).map fun i => a / 2 ^ 21 + i

/-- First byte of the reserved area (Table 9.1), and its end. -/
def reservedStart : Nat := 0x5CDEC00000
/-- End of the reserved area (Table 9.1). -/
def reservedEnd : Nat := 0x5D00000000

/-- The tag of a page that nothing has claimed: RESERVED in the reserved area, else FREE (R255). -/
def tagDefault (p : Nat) : Tag :=
  if reservedStart ≤ p * 2 ^ 21 ∧ p * 2 ^ 21 < reservedEnd then { res := .reserved } else {}

/-- A page's tag. -/
def tag (s : State) (p : Nat) : Tag := look (tagDefault p) s.rgn.tags p

/-- A page's tag set (R259: it takes effect at every controller at once). -/
def setTag (p : Nat) (t : Tag) (s : State) : State :=
  { s with rgn := { s.rgn with tags := put (tagDefault p) p t s.rgn.tags } }

/-- Tags of a list of pages changed. -/
def setTags (f : Tag → Tag) (ps : List Nat) (s : State) : State := ps.foldl (fun s p => setTag p (f (tag s p)) s) s

/-- A context that nothing has allocated: FREE, but for context 0, which is never FREE (R253). -/
def ctxDefault (c : Nat) : Ctx := { state := if c = 0 then .ready else .free }

/-- A context table entry. -/
def ctx (s : State) (c : Nat) : Ctx := look (ctxDefault c) s.rgn.ctxs c

/-- A context table entry set. -/
def setCtx (c : Nat) (x : Ctx) (s : State) : State :=
  { s with rgn := { s.rgn with ctxs := put (ctxDefault c) c x s.rgn.ctxs } }

/-- The groups a context holds (Table 9.6). -/
def groupsOf (s : State) (c : Nat) : List Nat := ((ctx s c).groups.filter (· != 0xFFFF)).map (·.toNat)

/-- A region list: of a context, or of a group at 65,536 + g. -/
def regionList (s : State) (k : Nat) : List RegionD := look [] s.rgn.lists k

/-- A region list set. -/
def setList (k : Nat) (l : List RegionD) (s : State) : State :=
  { s with rgn := { s.rgn with lists := put [] k l s.rgn.lists } }

/-- Every region a context holds: its own and its groups' (*Regions*). -/
def heldRegions (s : State) (c : Nat) : List RegionD :=
  regionList s c ++ (groupsOf s c).flatMap fun g => regionList s (65536 + g)

/-- The region check (R254): the run lies within one held region that permits the access. -/
def regionOk (s : State) (c a n : Nat) (write : Bool) : Bool :=
  (heldRegions s c).any fun r => within a n r.base r.bytes && r.access.testBit (if write then 1 else 0)

/-- An address of the host window (R223). -/
def isHost (a : Nat) : Bool := decide (0x100000000000 ≤ a) && decide (a < 0x200000000000)

/-- What the page check decides (R260). -/
inductive PageVerdict where
  | served | denied | locked | absent | held
  deriving DecidableEq, Repr

/-- The page check of a request from context c (R260). -/
def pageCheck (s : State) (c p : Nat) (write : Bool) : PageVerdict :=
  let t := tag s p
  let owns := if t.shared then (groupsOf s c).contains t.owner.toNat else t.owner.toNat == c
  if t.res == .reserved then .denied
  else if t.res == .free && c != 0 then .denied
  else if c != 0 && !owns then .denied
  else if write && t.lock && c != s.rgn.ttContext.toNat then .locked
  else if t.res == .absent then .absent
  else if t.res == .migrating || t.res == .evicting then .held
  else .served

/-- A refusal is recorded (R260, R278): event 0x0701 or 0x0702, RGN_FAULT_LAST and the context's FAULT_ADDR. -/
def refusePage (c a : Nat) (lock : Bool) (s : State) : State :=
  let p := pageOf a
  let s := setCtx c { ctx s c with faultAddr := BitVec.ofNat 64 a } s
  let s := { s with rgn := { s.rgn with
    faultValid := true, faultKind := if lock then 2 else 1, faultCtx := BitVec.ofNat 16 c,
    faultPage := BitVec.ofNat 27 p } }
  raise (if lock then 0x0702 else 0x0701) c [(8, p * 2 ^ 21)] s

/-- The context that holds the running timetable's locks may write a locked page (R260 step 3, R269). -/
def lockPages (ps : List Nat) (c : Nat) (s : State) : State :=
  let s := setTags (fun t => { t with lock := true }) ps s
  { s with rgn := { s.rgn with ttContext := BitVec.ofNat 16 c, locked := true } }

/-- The locks clear (R269). -/
def unlockPages (ps : List Nat) (s : State) : State :=
  let s := setTags (fun t => { t with lock := false }) ps s
  { s with rgn := { s.rgn with locked := false } }

/-- The pages that an image slot binds, and those of the region that holds its image (R268). -/
def slotPages (sl : ImgSlot) : List Nat :=
  sl.binding.flatMap (fun b => pagesOf b.1 b.2)
    ++ pagesOf sl.holder.1 sl.holder.2

/-! ### The tables of the reserved area (Tables 9.1 to 9.4) -/

/-- A region descriptor's 32 bytes (Table 9.2). -/
def regionBytes (r : RegionD) : List Byte :=
  toLE 8 r.base ++ toLE 8 r.bytes ++ toLE 1 r.kind ++ toLE 1 r.access ++ toLE 1 r.flags ++ zeros 1 ++ toLE 2 r.group ++ zeros 2
    ++ toLE 8 r.backing

/-- The code of a residency (Table 9.4). -/
def resCode : Res → Nat
  | .free => 0 | .resident => 1 | .absent => 2 | .migrating => 3 | .evicting => 4 | .reserved => 5

/-- A page tag's word (Table 9.4). -/
def tagWord (t : Tag) : Nat :=
  t.owner.toNat + resCode t.res * 2 ^ 18 + b2n t.shared * 2 ^ 21 + b2n t.pinned * 2 ^ 22 + b2n t.lock * 2 ^ 23 + t.count.toNat * 2 ^ 24

/-- Pages of a home (Table 9.3). -/
def homePages (c : Cfg) (h : Nat) : Nat := homeBytes c h / 2 ^ 21

/-- First tag index of a home (Table 9.3): the pages of the homes before it. -/
def firstTag (c : Cfg) (h : Nat) : Nat := ((List.range h).map (homePages c)).foldl (· + ·) 0

/-- The page of a tag index (R258); none in the rest of the table. -/
def pageOfTag (c : Cfg) (i : Nat) : Option Nat :=
  ((List.range 5).find? fun h => decide (firstTag c h ≤ i) && decide (i < firstTag c h + homePages c h)).map fun h =>
    h * 2 ^ 20 + (i - firstTag c h)

/-- The byte of the page tag table at which a page's tag stands (R258). -/
def tagByte (c : Cfg) (p : Nat) : Nat := 4 * (firstTag c (p / 2 ^ 20) + p % 2 ^ 20)

/-- The start of the shared groups' region lists (Table 9.1). -/
def groupLists : Nat := 0x5CDEC00000
/-- The start of the contexts' region lists (Table 9.1). -/
def contextLists : Nat := 0x5CDF400000
/-- The start of the page tag table (Table 9.1). -/
def tagTable : Nat := 0x5CFF400000

/-- The region list of a group stands here: 8 KiB each (Table 9.1). -/
def listAt (k : Nat) : Nat := if k < 65536 then contextLists + 8192 * k else groupLists + 8192 * (k - 65536)

/-- An address of the reserved area, whose contents are the tables of Table 9.1. -/
def inTables (a : Nat) : Bool := decide (reservedStart ≤ a) && decide (a < reservedEnd)

/-- A region list's 8 KiB: its descriptors sorted by BASE, and zeros (R256). -/
def listBytes (s : State) (k : Nat) : List Byte := padTo 8192 ((regionList s k).flatMap regionBytes)

/-- The 64 bytes of the reserved area at a line's address (R255, R256, R258). -/
def tableLine (s : State) (a : Nat) : List Byte :=
  if a < contextLists then slice (listBytes s (65536 + (a - groupLists) / 8192)) ((a - groupLists) % 8192) 64
  else if a < tagTable then slice (listBytes s ((a - contextLists) / 8192)) ((a - contextLists) % 8192) 64
  else (List.range 16).flatMap fun i =>
    toLE 4 ((pageOfTag s.cfg ((a - tagTable) / 4 + i)).elim 0 fun p => tagWord (tag s p))

/-- A line of memory as its home answers a read of it (R235, R255). -/
def lineData (s : State) (a : Nat) : List Byte := if inTables a then tableLine s a else peek s a 64

/-! ### The arrays of the devices (R226 to R229) -/

/-- The 256 bytes that a block holds. -/
def storedBlock (s : State) (b : Nat) : List Byte :=
  if inTables (256 * b) then (List.range 4).flatMap fun i => tableLine s (256 * b + 64 * i) else getBytes s.mem.cells (256 * b) 256

/-- The check bytes of a block as the array holds them, the flips of its check symbols included (R228, R229). -/
def rawCheck (s : State) (b : Nat) : List Byte :=
  (look [] s.mem.errs b).foldl (fun cs e =>
    if 128 ≤ e.symbol then
      let i := 4 * b2n e.half + (e.symbol - 128)
      patch cs i [(cs.getD i 0) ^^^ BitVec.ofNat 8 e.flip]
    else cs) (checkBytes (storedBlock s b) (look false s.mem.poison b))

/-- The block of module memory at a channel slot and channel offset (R226): the inverse of the address map over a home.
(DEDUCED, assumption log 121) -/
def blockAt (c : Cfg) (h slot off : Nat) : Nat :=
  let N := homeChans c h
  let stripe := off / 4096
  let g := (List.range N).find? fun j => slotOf c (h * 2 ^ 41 + (stripe * N + j) * 4096) == slot
  blockOf (h * 2 ^ 41 + (stripe * N + g.getD 0) * 4096 + off % 4096)

/-- The 256 bytes of a channel's array at a device block (R227): a data block, or the check block of its frame, whose bytes 248 to 255 are
zero. -/
def deviceBlock (s : State) (h slot n : Nat) : List Byte :=
  let block (d : Nat) : Nat := blockAt s.cfg h slot (256 * d)
  if n % 32 = 31 then (List.range 31).flatMap (fun i => rawCheck s (block (31 * (n / 32) + i))) ++ zeros 8
  else
    let b := block (31 * (n / 32) + n % 32)
    applyErrs (look [] s.mem.errs b) (storedBlock s b)

/-! ### Remote access and migration (R269, R270, R273, R274) -/

/-- The region list of a page's owner, and its backing address (R257). -/
def backingOf (s : State) (p : Nat) : Option Nat :=
  let t := tag s p
  let l := regionList s (if t.shared then 65536 + t.owner.toNat else t.owner.toNat)
  (l.find? fun r => r.kind == 2 && within (p * 2 ^ 21) (2 ^ 21) r.base r.bytes).map fun r =>
    r.backing + (p * 2 ^ 21 - r.base)

/-- A coalescing entry. -/
def coEntry (s : State) (e : Nat) : Option CoEntry := look none s.rgn.entries e

/-- A coalescing entry set or freed. -/
def setEntry (e : Nat) (x : Option CoEntry) (s : State) : State :=
  { s with rgn := { s.rgn with entries := put none e x s.rgn.entries } }

/-- The entry that names a page. -/
def entryOf (s : State) (p : Nat) : Option Nat :=
  (s.rgn.entries.find? fun x => match x.2 with
    | some c => c.page == p
    | none => false).map (·.1)

/-- A free entry of the 256 (R269, R271). -/
def freeEntry (s : State) : Option Nat := pickFree s ((List.range 256).filter fun e => (coEntry s e).isNone)

/-- The host-window offset of a page's backing page. -/
def backingOff (s : State) (p : Nat) : Nat := (backingOf s p).getD hostBase - hostBase

/-- An access to a run of the host window is waiting or outstanding. (DESIGN CHOICE, assumption log 111) -/
def hostBusy (s : State) (off n : Nat) : Bool :=
  let hits (r : HostReq) : Bool := r.peer.isNone && overlaps r.off r.len off n
  s.zng.queued.any hits || s.zng.issued.any hits

/-- A host read that no port can carry is recorded with its key's home port (R341, R352). -/
def hostLost (off : Nat) (s : State) : State := raise 0x0909 (off / 2 ^ 21 % 8) [] s

/-- Migrations whose page has no remote access left read their backing page, whose lines come poisoned where no port is left (R270 steps 2 and 3, R341).
(DESIGN CHOICE, assumption log 111) -/
def beginMigrations (s : State) : State :=
  s.rgn.entries.foldl (fun s x =>
    match x.2 with
    | some c =>
      let off := backingOff s c.page
      if c.evict || c.begun then s
      else if allLost s then
        poisonMem (c.page * 2 ^ 21) (2 ^ 21)
          (setEntry x.1 (some { c with begun := true, moved := 2 ^ 21, failed := true }) (hostLost off s))
      else if hostBusy s off (2 ^ 21) then s
      else hostRead off (2 ^ 21) (.migrate x.1) (setEntry x.1 (some { c with begun := true }) s)
    | none => s) s

/-- The migration of a page starts (R270 step 1): it takes entry e. (DESIGN CHOICE, assumption log 111) -/
def startMigration (e p : Nat) (s : State) : State :=
  let s := setEntry e (some { page := p, evict := false }) (drawn s)
  beginMigrations (setTag p { tag s p with res := .migrating } s)

/-- One remote line access of an ABSENT page in counter mode (R273, R274). -/
def remoteTouch (p : Nat) (s : State) : State :=
  let t := tag s p
  let t' := { t with count := if t.count = 0xFF then t.count else t.count + 1 }
  let s := setTag p t' s
  if s.rgn.migEn && s.rgn.threshold != 0 && decide (s.rgn.threshold.toNat ≤ t'.count.toNat) then
    match freeEntry s with
    | some e => startMigration e p s
    | none => s
  else s

/-- RGN_STATUS.MODE: counter mode on SK3-4A, fault mode on SK3-2A (*Residency*). -/
def counterMode (s : State) : Bool := s.cfg == .sk3_4a

end Sys2Proof.Machine
end

