-- ==== Sys2Proof/Machine/Lines.lean ====
section
/-! DEFINITION. Lines by where they are served (R159, R260, R271, R273), what a range of free-running work is checked for (R254, R260),
the page faults of contexts (R271, R272), and a queue's accesses to its own descriptors and records. -/

namespace Sys2Proof.Machine

/-- A request held at the home's entry (R260 step 6). -/
def holdLine (h : HeldReq) (s : State) : State := { s with mem := { s.mem with held := s.mem.held ++ [h] } }

/-- A held request of an absent page joins its coalescing entry, or starts a migration (R271); with no free entry it waits. -/
def joinEntry (c p : Nat) (s : State) : State :=
  if (entryOf s p).isSome then s
  else match freeEntry s with
    | some e => raise 0x0703 c [(8, p * 2 ^ 21)] (startMigration e p s)
    | none => s

/-! ### Page faults (R271, R272) -/

/-- Work that faulted has been checked again, or has ended (R272). -/
def checkedAgain (c w : Nat) (s : State) : State :=
  { s with rgn := { s.rgn with again := s.rgn.again.filter fun x => !(x.1 == c && x.2 == w) } }

/-- A context parks on page p: it joins the page's entry, or takes a free one and starts the migration, or waits for one. -/
def pageFault (c p : Nat) (s : State) : State :=
  let s := { s with rgn := { s.rgn with
    faultValid := true, faultKind := 3, faultCtx := BitVec.ofNat 16 c, faultPage := BitVec.ofNat 27 p
    wake := s.rgn.wake.filter (· != c) } }
  let parkOn (e : Nat) (s : State) : State :=
    setCtx c { ctx s c with state := .parked, park := 1, parkEntry := BitVec.ofNat 16 e
                            faultAddr := BitVec.ofNat 64 (p * 2 ^ 21) } s
  match entryOf s p with
  | some e => parkOn e s
  | none => match freeEntry s with
    | some e => raise 0x0703 c [(8, p * 2 ^ 21)] (parkOn e (startMigration e p s))
    | none =>
      let s := setCtx c { ctx s c with state := .parked, park := 2, faultAddr := BitVec.ofNat 64 (p * 2 ^ 21) } s
      { s with rgn := { s.rgn with faults := s.rgn.faults ++ [(c, p)] } }

/-- The check of a piece of work faults on page p: its context parks, and the work is the first that is checked again (R272). -/
def workFault (w c p : Nat) (s : State) : State :=
  pageFault c p { s with rgn := { s.rgn with again := (s.rgn.again.filter fun x => x.1 != c) ++ [(c, w)] } }

/-- What the check of one range of free-running work finds (R159, R195, R254, R260, R271). -/
inductive CheckVerdict where
  | ok | bound | denied (page : Nat) (lock : Bool) | fault (page : Nat) | wait
  deriving DecidableEq, Repr

/-- The page check of one range: the first refused page, else the lowest page to fault on, else a page to wait for. -/
def pagesVerdict (s : State) (c a n : Nat) (write : Bool) : CheckVerdict :=
  if isHost a then .ok
  else
    let vs := (pagesOf a n).map fun p => (p, pageCheck s c p write)
    match vs.find? fun v => v.2 == .denied || v.2 == .locked with
    | some v => .denied v.1 (v.2 == .locked)
    | none => match (if counterMode s then none else vs.find? fun v => v.2 == .absent || (tag s v.1).res == .migrating) with
      | some v => .fault v.1
      | none => if vs.any fun v => v.2 == .held && (tag s v.1).res == .evicting then .wait else .ok

/-- The check of every range: address, bytes, read, write. The first that does not pass. (DEDUCED, assumption log 47) -/
def rangesVerdict (s : State) (c : Nat) (rs : List (Nat × Nat × Bool × Bool)) : CheckVerdict :=
  let regions := rs.all fun r =>
    (!r.2.2.1 || regionOk s c r.1 r.2.1 false) && (!r.2.2.2 || regionOk s c r.1 r.2.1 true)
  if !regions then .bound
  else
    let vs := rs.map fun r => pagesVerdict s c r.1 r.2.1 r.2.2.2
    match vs.find? fun v => match v with
      | .denied _ _ => true
      | _ => false with
    | some v => v
    | none =>
      let faults := vs.filterMap fun v => match v with
        | .fault p => some p
        | _ => none
      match faults with
      | p :: ps => .fault (ps.foldl min p)
      | [] => if vs.any (· == .wait) then .wait else .ok

/-! ### Lines by where they are served (R159, R273) -/

/-- A run cut at 64-byte lines. -/
def linePieces (a n : Nat) : List (Nat × Nat) :=
  (linesOf a n).map fun l => (max a l, min (a + n) (l + 64) - max a l)

/-- The data fetched for a use. -/
def bufOf (s : State) (use : HostUse) : FetchBuf := (s.zng.bufs.find? fun b => b.use == use).getD { use := use }

/-- The data fetched for a use set, or dropped. -/
def setBuf (use : HostUse) (b : Option FetchBuf) (s : State) : State :=
  { s with zng := { s.zng with bufs := (s.zng.bufs.filter fun x => x.use != use) ++ b.toList } }

/-- Every byte of a run has come. -/
def bufHas (b : FetchBuf) (off n : Nat) : Bool := (List.range n).all fun i => b.runs.any fun r => within (off + i) 1 r.1 r.2

/-- A run of the buffer came poisoned. -/
def bufBad (b : FetchBuf) (off n : Nat) : Bool := b.bad.any fun r => overlaps off n r.1 r.2

/-- The host-window offset at which a piece of module memory or of the host window is backed. -/
def pieceOff (s : State) (a : Nat) : Nat := if isHost a then a - hostBase else backingOff s (pageOf a) + a % 2 ^ 21

/-- A read of the host window for a use: what no port can carry has come poisoned (R341). -/
def askHost (off n : Nat) (use : HostUse) (s : State) : State :=
  if allLost s then
    let b := bufOf s use
    setBuf use (some { b with runs := b.runs ++ [(off, n)], bad := b.bad ++ [(off, n)] }) (hostLost off s)
  else hostRead off n use s

/-- The reads that a source run needs from outside: host lines, and lines of absent pages, each of which counts (R273, R274). A
page that begins to migrate keeps its later lines for local reading, and a line that has come is not asked for again. -/
def fetchRun (use : HostUse) (r : Nat × Nat) (s : State) : State :=
  if isHost r.1 then askHost (r.1 - hostBase) r.2 use s
  else (linePieces r.1 r.2).foldl (fun s l =>
    if (tag s (pageOf l.1)).res = .absent ∧ bufHas (bufOf s use) (pieceOff s l.1) l.2 = false then
      remoteTouch (pageOf l.1) (askHost (pieceOff s l.1) l.2 use s)
    else s) s

/-- A piece can be read now: it has come, or its page is not on the move. -/
def pieceReady (s : State) (use : HostUse) (l : Nat × Nat) : Bool :=
  bufHas (bufOf s use) (pieceOff s l.1) l.2 ||
    (!isHost l.1 && match (tag s (pageOf l.1)).res with
      | .migrating | .evicting | .absent => false
      | _ => true)

/-- A piece is read: from what was fetched, or from memory. -/
def readPiece (use : HostUse) (who : Nat) (l : Nat × Nat) (s : State) : State × List Byte × Bool :=
  let b := bufOf s use
  let off := pieceOff s l.1
  if (isHost l.1 || (tag s (pageOf l.1)).res != .free) && bufHas b off l.2 then (s, getBytes b.bytes off l.2, bufBad b off l.2)
  else readMem who l.1 l.2 s

/-- A source run is read, line by line: its bytes, and the poisoned parts as offsets in the run. -/
def readRun (use : HostUse) (who : Nat) (r : Nat × Nat) (s : State) : State × List Byte × List (Nat × Nat) :=
  (linePieces r.1 r.2).foldl (fun acc l =>
    let (s, bs, bad) := acc
    let (s, ps, p) := readPiece use who l s
    (s, bs ++ ps, if p then bad ++ [(l.1 - r.1, l.2)] else bad)) (s, [], [])

/-- A destination run is written: to a host region, remotely to an absent page, or to memory; a page on the move holds its lines, and in
fault mode an absent one too, which starts to migrate (R260, R271, R273). -/
def writeRun (use : HostUse) (c who a : Nat) (bs : List Byte) (s : State) : State :=
  if isHost a then hostWrite (a - hostBase) bs use s
  else (linePieces a bs.length).foldl (fun s l =>
    let part := slice bs (l.1 - a) l.2
    let hold (s : State) : State := holdLine
      { ctx := c, who := who, addr := l.1 / 64 * 64
        write := some (zeros (l.1 % 64) ++ part, (2 ^ l.2 - 1) * 2 ^ (l.1 % 64)) } s
    match (tag s (pageOf l.1)).res with
    | .absent =>
      if counterMode s then remoteTouch (pageOf l.1) (hostWrite (pieceOff s l.1) part use s)
      else hold (joinEntry c (pageOf l.1) s)
    | .migrating | .evicting => hold s
    | _ => writeMem who l.1 part s) s

/-- The destination bytes of a run that carry poison are poisoned (R160). -/
def poisonRun (a : Nat) (bad : List (Nat × Nat)) (s : State) : State :=
  if isHost a then s else bad.foldl (fun s b => if b.2 = 0 then s else poisonMem (a + b.1) b.2 s) s

/-! ### A queue's own accesses (R252, R254, R260, R271, R273) -/

/-- What a read by a queue itself finds: its bytes and whether they came poisoned, a refusal of the checks, a page to fault on, or nothing
yet. -/
inductive OwnRead where
  | data (bs : List Byte) (poison : Bool) | bound | denied (page : Nat) (lock : Bool) | fault (page : Nat) | wait
  deriving DecidableEq, Repr

/-- A queue reads its own descriptor, code or range list with its CONTEXT: the region check, the page check, and each line where its page
has it (R252, R254, R260, R271, R273). (DEDUCED, assumption log 134) -/
def ownRead (use : HostUse) (c who a n : Nat) (s : State) : State × OwnRead :=
  if !regionOk s c a n false then (s, .bound)
  else match pagesVerdict s c a n false with
    | .bound => (s, .bound)
    | .denied p lock => (s, .denied p lock)
    | .fault p => (s, .fault p)
    | .wait => (s, .wait)
    | .ok =>
      if (linePieces a n).all (pieceReady s use) && !memWaits s a n then
        let r := readRun use who (a, n) s
        (r.1, .data r.2.1 (!r.2.2.isEmpty))
      else (if openUses s use then s else fetchRun use (a, n) s, .wait)

/-- A queue writes its own record or save slot with its CONTEXT: a write that the checks refuse is discarded (R252, R254, R260).
(DEDUCED, assumption log 134) -/
def ownWrite (use : HostUse) (c who a : Nat) (bs : List Byte) (s : State) : State :=
  if !regionOk s c a bs.length true then s
  else match pagesVerdict s c a bs.length true with
    | .denied p lock => refusePage c (max a (p * 2 ^ 21)) lock s
    | _ => writeRun use c who a bs s

/-- Everything that a queue has written at an address is visible. -/
def ownSeen (s : State) (use : HostUse) (who a : Nat) : Bool :=
  !openUses s use && !s.mem.held.any fun h => h.who == who && h.write.isSome && h.addr == a / 64 * 64

end Sys2Proof.Machine
end

