-- ==== Sys2Proof/Machine/Islets.lean ====
section
/-! DEFINITION. Physical islets, the deal of logical islets (R86), the islet store with its SEC-DED code (R141 to R147),
fencing and spares (R161 to R164), and the commands about an islet. -/

namespace Sys2Proof.Machine

/-! ### Physical islets -/

/-- An island is fitted (R140). -/
def islandFitted (c : Cfg) (island : Nat) : Bool :=
  match c with
  | .sk3_4a => decide (island < 4)
  | .sk3_2a => island == 0 || island == 2

/-- An islet as the configuration flash starts it (R140). Which islets start as spares differs from module to module: the
highest-numbered of each island (PRESUMED, assumption log 8). -/
def isletDefault (c : Cfg) (n : Nat) : Islet :=
  let k := n % 256
  let act := match c with
    | .sk3_4a => 192
    | .sk3_2a => 200
  if n < 1024 ∧ islandFitted c (n / 256) ∧ k < 208 then { state := if k < act then .active else .spare }
  else { state := .absent }

/-- An islet. -/
def isletOf (s : State) (n : Nat) : Islet := look (isletDefault s.cfg n) s.isl.islets n

/-- An islet set. -/
def setIslet (n : Nat) (x : Islet) (s : State) : State :=
  { s with isl := { s.isl with islets := put (isletDefault s.cfg n) n x s.isl.islets } }

/-- The islets of an island in a state, ascending. -/
def isletsIn (s : State) (island : Nat) (st : IsletState) : List Nat :=
  ((List.range 208).map (island * 256 + ·)).filter fun n => (isletOf s n).state == st

/-- Lists dealt one element at a time, skipping a list that is exhausted; by fuel. -/
def dealOut : Nat → List (List Nat) → List Nat
  | 0, _ => []
  | n + 1, ls => ls.filterMap List.head? ++ dealOut n (ls.map List.tail)

/-- The slots of R86: the ACTIVE islets dealt round-robin over N, E, S, W. -/
def deal (s : State) : List Nat := dealOut 208 ((List.range 4).map fun i => isletsIn s i .active)

/-- The physical islet of a logical one, whatever its batch (R86). -/
def physOf (s : State) (l : Nat) : Nat := s.isl.slots.getD (l % max 1 (inService s)) 0xFFF

/-- The batch of a logical islet (R86). -/
def batchOf (s : State) (l : Nat) : Nat := l / max 1 (inService s)

/-- The batches B of an image with L logical islets (R86). -/
def batches (s : State) (L : Nat) : Nat := max 1 (ceilDiv L (max 1 (inService s)))

/-! ### SEC-DED -/

/-- The 3-element subsets of {0, …, 6} in lexicographic order, as masks: data bit i takes the i-th. -/
def secSubsets : List Nat :=
  (List.range 7).flatMap fun a => (List.range 7).flatMap fun b => (List.range 7).filterMap fun c =>
    if a < b ∧ b < c then some (2 ^ a + 2 ^ b + 2 ^ c) else none

/-- The subset of a data bit. -/
def secSubset (i : Nat) : Nat := secSubsets.getD i 0

/-- The check bits of a 32-bit word (R144). -/
def checkBits (w : Nat) : Nat :=
  (List.range 32).foldl (fun c i => if w.testBit i then c ^^^ secSubset i else c) 0

/-- The syndrome of an error pattern: data flips in bits 31:0, check-bit flips in bits 38:32 (the code is linear). -/
def syndrome (flips : Nat) : Nat := checkBits (flips % 2 ^ 32) ^^^ bits flips 38 32

/-- What a read does with a syndrome (Table 5.1): the data bits to invert, or none where it is uncorrectable. -/
def secDecode (syn : Nat) : Option Nat :=
  if syn = 0 then some 0
  else if isPow2 syn then some 0
  else match (List.range 32).find? fun i => secSubset i == syn with
    | some i => some (2 ^ i)
    | none => none

/-! ### Fencing -/

/-- The completion record of a ferry descriptor (R159). -/
def ferryRecord (seq status bytes : Nat) : List Byte := toLE 2 seq ++ toLE 1 status ++ zeros 5 ++ toLE 8 bytes

/-- The completion record of a launch (R197). -/
def laneRecord (seq status cause ei pc code : Nat) : List Byte :=
  toLE 2 seq ++ toLE 1 status ++ toLE 1 cause ++ toLE 4 ei ++ toLE 2 pc ++ toLE 3 code ++ zeros 3

/-- A ferry queue. -/
def fryQ (s : State) (q : Nat) : Queue := look {} s.fry.queues q
/-- A ferry queue set. -/
def setFryQ (q : Nat) (x : Queue) (s : State) : State := { s with fry := { s.fry with queues := put {} q x s.fry.queues } }
/-- A launch queue. -/
def lncQ (s : State) (q : Nat) : Queue := look {} s.lnc.queues q
/-- A launch queue set. -/
def setLncQ (q : Nat) (x : Queue) (s : State) : State := { s with lnc := { s.lnc with queues := put {} q x s.lnc.queues } }

/-- Free-running work on an islet ends as ABORTED (R161, R196). -/
def abortFree (n : Nat) (s : State) : State :=
  let qs := s.fry.queues.map fun p =>
    (p.1, { p.2 with
      inProgress := p.2.inProgress.filter fun d => d.2.1 != n
      finished := p.2.finished ++ (p.2.inProgress.filter fun d => d.2.1 == n).map fun d =>
        (d.1, n, ferryRecord d.1 6 0, (fld d.2.2 1 1).testBit 0) })
  let ports := s.zng.ports.map fun p =>
    (p.1, { p.2 with queues := p.2.queues.map fun q =>
      (q.1, { q.2 with cmds := q.2.cmds.map fun c =>
        if (c.op == 1 || c.op == 2) && c.begun && c.status.isNone && c.bytes == 0 && c.islet == n then { c with aborted := true } else c }) })
  let s := { s with zng := { s.zng with ports := ports } }
  let dead := s.lnc.free.filter fun k => k.2.islet == n
  let s := { s with fry := { s.fry with queues := qs }, lnc := { s.lnc with free := s.lnc.free.filter fun k => k.2.islet != n } }
  dead.foldl (fun s k =>
    let q := lncQ s k.1
    setLncQ k.1 { q with inProgress := q.inProgress.filter (fun d => d.1 != k.2.pos)
                         finished := q.finished ++ [(k.2.pos, n, laneRecord k.2.pos 6 0 0 0 0, k.2.irq)] } s) s

/-- The active image slot. -/
def actSlot (s : State) : ImgSlot := if s.ttu.active then s.ttu.slotB else s.ttu.slotA
/-- The shadow image slot. -/
def shadowSlot (s : State) : ImgSlot := if s.ttu.active then s.ttu.slotA else s.ttu.slotB

/-- Step k is a step of the physical islet n. -/
def stepOn (s : State) (n k : Nat) : Bool :=
  match (actSlot s).image.bind fun i => i.steps[k]? with
  | some st => match st.op with
    | .exch _ | .snap _ => false
    | _ => physOf s st.lislet == n
  | none => false

/-- The timetable's work on an islet that is fenced ends: what it had not completed never completes there (R161, R387). -/
def dropSteps (n : Nat) (s : State) : State :=
  { s with
    ttu := { s.ttu with ran := s.ttu.ran.filter fun k => s.ttu.done.contains k || !stepOn s n k }
    lnc := { s.lnc with steps := s.lnc.steps.filter fun k => k.2.islet != n } }

/-- The record of a physical islet's state is kept in the configuration flash (R164). -/
def keepIslet (n : Nat) (x : Islet) (s : State) : State :=
  { setIslet n x s with flash := { s.flash with islets := assocPut n x.state s.flash.islets } }

/-- The SUBJECT that an islet fault's cause names (Table 15.2): the islet, for the codes of the classes of islets and lanes. -/
def causeSubject (event n : Nat) : Nat := if event / 256 = 4 ∨ event / 256 = 5 then n else noSubject

/-- An islet fault (R161): the cause's event, the fence, event 0x0401, and the end of its free-running work. -/
def fence (n cause event : Nat) (s : State) : State :=
  if (isletOf s n).state == .active || (isletOf s n).state == .spare then
    let was := (isletOf s n).state
    let s := raise event (causeSubject event n) [] s
    let s := keepIslet n { isletOf s n with state := .fenced, cause := BitVec.ofNat 4 cause } s
    let s := raise 0x0401 n [] s
    let s := { s with isl := { s.isl with faulted := if was == .active then s.isl.faulted ++ [n] else s.isl.faulted } }
    abortFree n (dropSteps n s)
  else s

/-! ### The store -/

/-- ISL_ECC_LAST is updated (Table 5.11). -/
def islEccLast (n : Nat) (kind : Bool) (syn a : Nat) (s : State) : State :=
  { s with isl := { s.isl with eccLast := ⟨.ofNat 10 n, kind, .ofNat 7 syn, .ofNat 22 (a / 4 * 4)⟩ } }

/-- One word read (R144, R146, R147): true when its data may be delivered. A corrected word is rewritten. -/
def touchWord (n w : Nat) (s : State) : State × Bool :=
  let k := n * 2 ^ 20 + w
  let fl := look 0 s.isl.flips k
  if fl = 0 then (s, true)
  else
    let syn := syndrome fl
    match secDecode syn with
    | some inv =>
      if syn = 0 then (s, true)
      else
        -- the word's data as delivered: the flips that the correction leaves stay in the rewritten word
        let a := n * 2 ^ 22 + 4 * w
        let v := leNat (getBytes s.isl.store a 4) ^^^ (fl % 2 ^ 32) ^^^ inv
        let s := { s with isl := { s.isl with store := setBytes s.isl.store a (toLE 4 v), flips := put 0 k 0 s.isl.flips } }
        let x := isletOf s n
        let s := setIslet n { x with ceCount := if x.ceCount = 0xFFFFFFFF then x.ceCount else x.ceCount + 1 } s
        (raise 0x0403 n [] (islEccLast n false syn (4 * w) s), true)
    | none => (fence n 2 0x0404 (islEccLast n true syn (4 * w) s), false)

/-- A word's bytes as the array holds them, its undetected flips included. -/
def wordBytes (s : State) (n w : Nat) : List Byte :=
  let v := leNat (getBytes s.isl.store (n * 2 ^ 22 + 4 * w) 4) ^^^ (look 0 s.isl.flips (n * 2 ^ 20 + w) % 2 ^ 32)
  toLE 4 v

/-- The words that a run of store bytes touches. -/
def wordsOf (a n : Nat) : List Nat :=
  if n = 0 then [] else (List.range ((a + n - 1) / 4 + 1 - a / 4)).map (a / 4 + ·)

/-- The words of a run that are in error; every other word reads as it was written. -/
def badWords (s : State) (n a len : Nat) : List Nat :=
  (s.isl.flips.filter fun p => decide (n * 2 ^ 20 + a / 4 ≤ p.1) && decide (p.1 ≤ n * 2 ^ 20 + (a + len - 1) / 4)).map
    fun p => p.1 - n * 2 ^ 20

/-- Words read one after another, up to one that is uncorrectable, whose islet is fenced (R161); true when every one may be
delivered. -/
def touchWords (n : Nat) (ws : List Nat) (s : State) : State × Bool :=
  ws.foldl (fun (sp : State × Bool) w => if sp.2 then touchWord n w sp.1 else sp) (s, true)

/-- A run of bytes of a physical store is read; none where a word is uncorrectable (R147). -/
def readPhys (n a len : Nat) (s : State) : State × Option (List Byte) :=
  let (s, ok) := touchWords n (badWords s n a len) s
  if ok then
    let good := getBytes s.isl.store (n * 2 ^ 22 + a) len
    let patched := (badWords s n a len).foldl (fun bs w =>
      (wordBytes s n w).zipIdx.foldl (fun bs p =>
        let i := 4 * w + p.2
        if a ≤ i ∧ i < a + len then patch bs (i - a) [p.1] else bs) bs) good
    (s, some patched)
  else (s, none)

/-- A word that a write merges into stands in its bank as it was read, with check bits of its own (R145). -/
def settleWord (n w : Nat) (s : State) : State :=
  { s with isl := { s.isl with
      store := setBytes s.isl.store (n * 2 ^ 22 + 4 * w) (wordBytes s n w), flips := put 0 (n * 2 ^ 20 + w) 0 s.isl.flips } }

/-- A run of bytes of a physical store is written (R145): a part of a word is merged into the word as it was read and corrected;
an uncorrectable one fences the islet and nothing is written there. A fenced islet writes nothing (R161). -/
def writePhys (n a : Nat) (bs : List Byte) (s : State) : State :=
  if bs.isEmpty then s
  else if (isletOf s n).state != .active then s
  else
    let part := (badWords s n a bs.length).filter fun w => decide (4 * w < a) || decide (a + bs.length < 4 * w + 4)
    let (s, ok) := touchWords n part s
    if ok then
      let s := part.foldl (fun s w => settleWord n w s) s
      { s with isl := { s.isl with
          store := setBytes s.isl.store (n * 2 ^ 22 + a) bs
          flips := s.isl.flips.filter fun p =>
            !(decide (n * 2 ^ 20 + a / 4 ≤ p.1) && decide (p.1 ≤ n * 2 ^ 20 + (a + bs.length - 1) / 4)) } }
    else s

/-! ### Logical stores (R86, R87, R157) -/

/-- A slot set, by TTU_STATUS.SLOT's numbering. -/
def setSlot (b : Bool) (x : ImgSlot) (s : State) : State :=
  if b then { s with ttu := { s.ttu with slotB := x } } else { s with ttu := { s.ttu with slotA := x } }

/-- The region of a kind that an image binds: its base and bytes. -/
def boundKind (sl : ImgSlot) (kind : Nat) : Option (Nat × Nat) :=
  match sl.image with
  | none => none
  | some i => ((i.regions.zip sl.binding).find? fun p => p.1.kind == kind).map (·.2)

/-- The SWAP address of a logical islet's store (R87). -/
def swapAddr (sl : ImgSlot) (l : Nat) : Nat := ((boundKind sl 1).elim 0 (·.1)) + l * storeSize

/-- The logical islet's store lies on its slot; otherwise it lies in SWAP (R157). -/
def isResident (s : State) (l : Nat) : Bool := look 0 s.isl.resident (l % max 1 (inService s)) == l + 1

/-- Requester code of a ferry or a lane core of a physical islet (R224). -/
def whoFerry (n : Nat) : Nat := 0x1000 + n
/-- Requester code of a lane core (R224). -/
def whoLane (n : Nat) : Nat := 0x2000 + n

/-- Bytes of a logical store are read, wherever it lies; the Bool says that poisoned data was met (R157). -/
def readStore (l a n : Nat) (s : State) : State × Option (List Byte) × Bool :=
  if isResident s l then let (s, r) := readPhys (physOf s l) a n s; (s, r, false)
  else let (s, bs, p) := readMem (whoFerry (physOf s l)) (swapAddr (actSlot s) l + a) n s; (s, some bs, p)

/-- Bytes of a logical store are written, wherever it lies. -/
def writeStore (l a : Nat) (bs : List Byte) (s : State) : State :=
  if isResident s l then writePhys (physOf s l) a bs s
  else writeMem (whoFerry (physOf s l)) (swapAddr (actSlot s) l + a) bs s

/-- A slot's store goes out to its logical islet's place in SWAP; `old` is that islet plus one (R87). -/
def spillStore (n old : Nat) (s : State) : State :=
  match readPhys n 0 storeSize s with
  | (s, some bs) => if old = 0 then s else writeMem (whoFerry n) (swapAddr (actSlot s) (old - 1)) bs s
  | (s, none) => s

/-- A store read from SWAP comes in; poison stops the timetable instead (R87, R388). -/
def takeStore (n : Nat) (r : State × List Byte × Bool) : State :=
  if r.2.2 then { r.1 with ttu := { r.1.ttu with stopNext := true } } else writePhys n 0 r.2.1 r.1

/-- A logical islet's store comes in from its place in SWAP (R87). -/
def fillStore (n l : Nat) (s : State) : State :=
  takeStore n (readMem (whoFerry n) (swapAddr (actSlot s) l) storeSize s)

/-- A slot's store goes out to SWAP and another comes in (R87). -/
def swapSlot (slot l : Nat) (s : State) : State :=
  let n := s.isl.slots.getD slot 0xFFF
  let old := look 0 s.isl.resident slot
  if old = l + 1 then s
  else
    let s := fillStore n l (spillStore n old s)
    { s with isl := { s.isl with resident := put 0 slot (l + 1) s.isl.resident } }

/-- A change of batch (R87): every slot with a logical islet in the incoming batch takes its store. -/
def changeBatch (b L : Nat) (s : State) : State :=
  let P := inService s
  let s := (List.range P).foldl (fun s slot => if b * P + slot < L then swapSlot slot (b * P + slot) s else s) s
  { s with ttu := { s.ttu with batch := b } }

/-- Batch 0 on its slots, as a start or a new deal leaves it. -/
def residentStart (L : Nat) (s : State) : State :=
  let r := (List.range (min L (inService s))).map fun slot => (slot, slot + 1)
  { s with isl := { s.isl with resident := r }, ttu := { s.ttu with batch := 0 } }

/-! ### Spares (R162, R163) -/

/-- The lowest-numbered SPARE for an islet: of its own island, else of the next in the order N, E, S, W. -/
def spareFor (s : State) (n : Nat) : Option Nat :=
  ((List.range 4).flatMap fun d => (isletsIn s ((n / 256 + d) % 4) .spare)).head?

/-- One fenced islet replaced at a tick, or P falls: true when a spare took its place. -/
def replaceIslet (n : Nat) (s : State) : State × Bool :=
  match spareFor s n with
  | some m => (raise 0x0402 m [] (keepIslet m { isletOf s m with state := .active } s), true)
  | none => (raise 0x0406 n [] s, false)

/-- Every islet fenced since the last tick replaced (R162, R163), the deal recomputed (R88), and RISK judged with the new P (R382, R383);
whether P fell. -/
def replaceFaulted (s : State) : State × Bool :=
  let before := risk s
  let (s, fell) := s.isl.faulted.foldl (fun (sp : State × Bool) n =>
    let (s', ok) := replaceIslet n sp.1; (s', sp.2 || !ok)) (s, false)
  let slots := deal s
  let moved := slots != s.isl.slots
  let s := { s with isl := { s.isl with faulted := [], slots := slots } }
  (requestCheck before (if moved then raise 0x0205 0xFFFFFFFF [] s else s), fell)

/-! ### Commands -/

/-- STORE_SCRUB: the scrubber reads one 32-byte row of an islet's store (R146), while SCRUB_EN is 1.
(DEDUCED, assumption log 116) -/
def execStoreScrub (islet row : Nat) (s : State) : Host.Outcome State Fault Refusal :=
  let x := (isletOf s islet).state
  if s.isl.scrubEn && (x == .active || x == .spare) && decide (row < 2 ^ 17) then
    .next (touchWords islet ((List.range 8).map (8 * row + ·)) s).1
  else .next s

/-- ISLET_PARITY: byte parity fails on a data path inside an islet (R161). -/
def execIsletParity (islet : Nat) (s : State) : Host.Outcome State Fault Refusal := .next (fence islet 3 0x0405 s)

/-- FERRY_INTERNAL: an internal error of an islet's ferry (R161). -/
def execFerryInternal (islet : Nat) (s : State) : Host.Outcome State Fault Refusal := .next (fence islet 5 0x0408 s)

/-- LANE_INTERNAL: an internal error of a lane core or of the pass buffer (R194). -/
def execLaneInternal (islet : Nat) (s : State) : Host.Outcome State Fault Refusal := .next (fence islet 5 0x0503 s)

end Sys2Proof.Machine
end

