-- ==== Sys2Proof/Machine/Matrix.lean ====
section
/-! DEFINITION. The counter mixer (R205), the derived scales of tensors (R106 to R110), and the matrix unit: chunks and
products (R118 to R122), the tree (R123, R124), tags (R127, R128), the residue check (R131 to R134), the epilogue and the
tile status (R135 to R137, R153). -/

namespace Sys2Proof.Machine

/-! ### The counter mixer -/

/-- One round of the mixer (R205). -/
def mixRound : Nat × Nat × Nat × Nat × Nat × Nat → Nat × Nat × Nat × Nat × Nat × Nat
  | (x0, x1, x2, x3, k0, k1) =>
    let p := 0xC2A53B0D * x0
    let q := 0xE8F16A27 * x2
    ((q / 2 ^ 32) ^^^ x1 ^^^ k0, q % 2 ^ 32, (p / 2 ^ 32) ^^^ x3 ^^^ k1, p % 2 ^ 32,
      (k0 + 0x7F4A7C15) % 2 ^ 32, (k1 + 0xA1C92E53) % 2 ^ 32)

/-- The counter mixer (R205). -/
def mix (step tensor elem purpose seed : Nat) : Nat :=
  (iter mixRound 8 (step % 2 ^ 32, step / 2 ^ 32 + tensor * 2 ^ 8, elem % 2 ^ 32, elem / 2 ^ 32 + purpose * 2 ^ 16,
    seed % 2 ^ 32, seed / 2 ^ 32)).1

/-- The stochastic rounding of one element: bits 15:0 of the mixer output (R113). -/
def srOf (step tensor elem purpose seed : Nat) : Rounding := .sr (mix step tensor elem purpose seed % 2 ^ 16)

/-- The tensor identifier of a store destination (R66). -/
def storeTensor : Nat := 0xFFFFFF

/-- The element index of a store destination (R66). (DEDUCED, assumption log 19) -/
def storeElem (l b : Nat) (nib : Bool) : Nat := l * 2 ^ 23 + 2 * b + b2n nib

/-- The step counter of an index (R63). -/
def stepCounter (sl : ImgSlot) (index : Nat) : Nat :=
  match sl.image with
  | some i => sl.stepBase + (posIter i index).2
  | none => sl.stepBase

/-! ### Tensors of the running image -/

/-- The first byte of an image region in memory. -/
def regionBase (sl : ImgSlot) (r : Nat) : Nat := (sl.binding.getD r (0, 0)).1

/-- The first byte of a tensor in memory. -/
def tensorBase (sl : ImgSlot) (t : TensorEnt) : Nat := regionBase sl t.region + t.offset

/-- The STATS slot of a tensor (R76). -/
def statsAddr (sl : ImgSlot) (t : Nat) : Nat := ((boundKind sl 2).elim 0 (·.1)) + 512 * t

/-- The exponent of the current S of a tensor, from its STATS slot (R106, R200); 0 for an unscaled format. -/
def scaleNow (s : State) (sl : ImgSlot) (t : Nat) (te : TensorEnt) : Int :=
  if fmtIsScaled (tensorFmt te) then scaleExp (leNat (peek s (statsAddr sl t + 64) 4)) else 0

/-- The amax history of a tensor, the entries held (R202). -/
def historyOf (s : State) (sl : ImgSlot) (t : Nat) : List Nat :=
  let n := leNat (peek s (statsAddr sl t + 69) 1)
  (List.range n).map fun i => leNat (peek s (statsAddr sl t + 128 + 4 * i) 4)

/-- The scale that a write of a tensor in a crossing encodes with (R109). -/
def writeScale (s : State) (sl : ImgSlot) (i : Image) (x : CrossingEnt) (t : Nat) (te : TensorEnt) : Int :=
  if !fmtIsScaled (tensorFmt te) then 0
  else if fullWrite i x t then derivedScale (tensorFmt te) (historyOf s sl t)
  else scaleNow s sl t te

/-! ### Rows of elements -/

/-- The codes of the elements that bytes hold, with the scale byte of each (0x7F stands for none). -/
def rowCodes (f : Fmt) (block : Nat) (bs : List Byte) : List (Nat × Nat) :=
  if fmtIsBlock f then
    let n := blockElems block
    (chunks (blockBytes f n) bs).flatMap fun b =>
      let sc := fld b (blockBytes f n - 1) 1
      (List.range n).map fun i =>
        if fmtBits f = 4 then (fld b (i / 2) 1 / 16 ^ (i % 2) % 16, sc) else (fld b i 1, sc)
  else if fmtBits f = 4 then bs.flatMap fun b => [(b.toNat % 16, 0x7F), (b.toNat / 16, 0x7F)]
  else (chunks (fmtBits f / 8) bs).map fun e => (leNat e, 0x7F)

/-- The exact values of the elements that bytes hold, at tensor scale 2^S (R96, R105). -/
def decodeRow (f : Fmt) (block : Nat) (S : Int) (bs : List Byte) : List Num :=
  (rowCodes f block bs).map fun p =>
    scaleNum S (if fmtIsBlock f then decodeBlockElem f p.2 p.1 else decodeElem f p.1)

/-- Two nibbles to a byte, the first in bits 3:0 (R64). (DEDUCED, assumption log 19) -/
def packNibbles : List Nat → List Byte
  | [] => []
  | [a] => [BitVec.ofNat 8 a]
  | a :: b :: r => BitVec.ofNat 8 (a + 16 * b) :: packNibbles r

/-- Elements encoded into a row, each with its rounding, at tensor scale 2^S, and the statistics of those of them that count, a block
with its first element (R111, R114, R116). -/
def encodeRow (f : Fmt) (block : Nat) (S : Int) (modes : List Rounding) (xs : List Num) (counts : Nat → Bool) :
    List Byte × Stats :=
  if fmtIsBlock f then
    let n := blockElems block
    ((chunks n (xs.zip modes)).zipIdx.map fun q =>
      let c := q.1
      let (codes, sc, sats) := encodeBlock f S (c.map (·.2)) (c.map (·.1))
      let body := if fmtBits f = 4 then packNibbles codes else codes.map (BitVec.ofNat 8)
      let st := c.foldl (fun (st : Stats) (p : Num × Rounding) => countElem st p.1 false) {}
      (body ++ [BitVec.ofNat 8 sc], if counts (q.2 * n) then { st with sats := sats } else {})).foldl
      (fun (acc : List Byte × Stats) p => (acc.1 ++ p.1, addStats acc.2 p.2)) ([], {})
  else
    let enc := (xs.zip modes).map fun p => (p.1, encodeElem f p.2 (scaleNum (-S) p.1))
    let st := enc.zipIdx.foldl (fun (st : Stats) (p : (Num × Nat × Bool) × Nat) =>
      if counts p.2 then countElem st p.1.1 p.1.2.2 else st) {}
    let codes := enc.map (·.2.1)
    (if fmtBits f = 4 then packNibbles codes else codes.flatMap (toLE (fmtBits f / 8)), st)

/-! ### Products and chunks -/

/-- An operand element as the residue check writes it (R131): its value, and m and e where it is finite. -/
def operandOf (f : Fmt) (sc v : Nat) : Num × Int × Int :=
  let x := if fmtIsBlock f then decodeBlockElem f sc v else decodeElem f v
  match x with
  | .fin neg m e => (x, sgnInt neg m, e)
  | _ => (x, 0, 0)

/-- The exact integer N and the exponent E of a chunk of finite products (R131). -/
def chunkSum (ps : List ((Num × Int × Int) × (Num × Int × Int))) : Int × Int :=
  let nz := ps.filter fun p => p.1.2.1 * p.2.2.1 != 0
  match nz with
  | [] => (0, 0)
  | p :: r =>
    let E := r.foldl (fun e q => min e (q.1.2.2 + q.2.2.2)) (p.1.2.2 + p.2.2.2)
    (nz.foldl (fun n q => n + q.1.2.1 * q.2.2.1 * (2 ^ (q.1.2.2 + q.2.2.2 - E).toNat : Nat)) 0, E)

/-- The predicted residue ρ of a chunk (R132), over the exponent E. -/
def predicted (E : Int) (ps : List ((Num × Int × Int) × (Num × Int × Int))) : Int :=
  (ps.filter fun p => p.1.2.1 * p.2.2.1 != 0).foldl (fun r p =>
    (r + (p.1.2.1 % 255) * (p.2.2.1 % 255) * (2 ^ ((p.1.2.2 + p.2.2.2 - E) % 8).toNat : Nat)) % 255) 0

/-- One chunk of one output: its A48 result (R121, R122), whether it holds an invalid or opposed infinite products (the
INVALID of Table 4.1), the first non-finite k within it, and whether the residue check failed (R133). -/
structure ChunkOut where
  bits    : Nat
  invalid : Bool
  nfAt    : Option Nat
  bad     : Bool
  deriving DecidableEq, Repr

/-- A chunk summed exactly, rounded once and checked. `delta` is what the array added to N in error. -/
def chunkOut (delta : Int) (ps : List ((Num × Int × Int) × (Num × Int × Int))) : ChunkOut :=
  let prods := ps.map fun p => numMul p.1.1 p.2.1
  let nf := findIdx? (fun x => numIsNan x || numIsInf x) prods 0
  let pos := prods.any (· == .inf false)
  let neg := prods.any (· == .inf true)
  let zeroInf := ps.any fun p =>
    (numIsZero p.1.1 && numIsInf p.2.1) || (numIsInf p.1.1 && numIsZero p.2.1)
  match nf with
  | some k =>
    let v : Num := if prods.any numIsNan || (pos && neg) then .nan else if pos then .inf false else .inf true
    ⟨toA48 v, zeroInf || (pos && neg), some k, false⟩
  | none =>
    let (N, E) := chunkSum ps
    let M := N + delta
    let v : Num := if M = 0 then .fin (prods.all fun x => numIsZero x && numSign x) 0 0
                   else .fin (decide (M < 0)) M.natAbs E
    ⟨toA48 v, false, none, (predicted E ps) % 255 != M % 255⟩

/-! ### Nodes: an output's part of a partial (R127, R128) -/

/-- One addition of the tree with its INVALID condition (R128). -/
def addNode (a b : Nat × Bool) : Nat × Bool :=
  let opp := match ofA48 a.1, ofA48 b.1 with
    | .inf x, .inf y => x != y
    | _, _ => false
  (add48 a.1 b.1, a.2 || b.2 || opp)

/-- A partial product (R127): the 1,024 A48 values, INVALID, and the first non-finite contribution. -/
structure Partial where
  vals    : List Nat
  invalid : Bool
  first   : Option (Nat × Nat × Nat)
  bad     : Bool
  deriving DecidableEq, Repr

/-- The first position of two, in row-major order, the left one on a tie (R128). -/
def firstOf (a b : Option (Nat × Nat × Nat)) : Option (Nat × Nat × Nat) :=
  match a, b with
  | none, b => b
  | a, none => a
  | some (m, n, k), some (m', n', k') =>
    if 32 * m + n ≤ 32 * m' + n' then some (m, n, k) else some (m', n', k')

/-- The operands of a step: element (m, k) of A and element (k, n) of B, at positions of the step (R148). -/
def operandAt (f : Fmt) (kMajor : Bool) (k : Nat) (bs : List Byte) (row pos : Nat) : Num × Int × Int :=
  -- `row` is m or n, `pos` the position along k
  let (r, i) := if kMajor then (row, pos) else (pos, row)
  let base := if kMajor then r * pitchOf f k else r * rowBytesOf f 2 32
  if fmtIsBlock f then
    let bb := blockBytes f 32
    let at_ := base + i / 32 * bb
    let sc := fld bs (at_ + bb - 1) 1
    let j := i % 32
    operandOf f sc (if fmtBits f = 4 then fld bs (at_ + j / 2) 1 / 16 ^ (j % 2) % 16 else fld bs (at_ + j) 1)
  else if fmtBits f = 4 then operandOf f 0x7F (fld bs (base + i / 2) 1 / 16 ^ (i % 2) % 16)
  else operandOf f 0x7F (fld bs (base + i * (fmtBits f / 8)) (fmtBits f / 8))

/-- The partial over the chunks that an MMA covers (R118 to R123, R128); `kBase` is the k of position 0. -/
def partialOf (m : MmaOp) (abs_ bbs : List Byte) (upset : Option Upset) : Partial :=
  let fa := (fmtOfCode m.aFmt).getD .raw
  let fb := (fmtOfCode m.bFmt).getD .raw
  let cover := mmaCover m
  let c0 := if m.mode = 1 then m.chunkFirst else 0
  let out (r c : Nat) : List (ChunkOut) :=
    (List.range (ceilDiv cover 32)).map fun j =>
      let delta := match upset with
        | some u => if u.m = r ∧ u.n = c ∧ u.chunk = c0 + j then u.delta else 0
        | none => 0
      chunkOut delta ((List.range (min 32 (cover - 32 * j))).map fun i =>
        (operandAt fa (!m.flags.testBit 0) cover abs_ r (32 * j + i),
         operandAt fb (m.flags.testBit 1) cover bbs c (32 * j + i)))
  let cells := (List.range 1024).map fun q => (q / 32, q % 32, out (q / 32) (q % 32))
  let roots := cells.map fun c => treeFold addNode (0, false) (c.2.2.map fun o => (o.bits, o.invalid))
  let first := cells.foldl (fun acc c =>
    match acc with
    | some x => some x
    | none =>
      match findIdx? (fun (o : ChunkOut) => o.nfAt.isSome) c.2.2 0 with
      | some j => some (c.1, c.2.1, 32 * (c0 + j) + (((c.2.2.getD j ⟨0, false, none, false⟩).nfAt).getD 0))
      | none => none) none
  ⟨roots.map (·.1), roots.any (·.2), first, cells.any fun c => c.2.2.any (·.bad)⟩

/-- The tag of an accumulator block (Table 4.1). -/
def tagBytes (first count total : Nat) (p : Partial) : List Byte :=
  let nf := p.first.isSome
  let (fm, fn, fk) := p.first.getD (0, 0, 0xFFFFFFFF)
  toLE 4 first ++ toLE 4 count ++ toLE 4 total ++ toLE 1 (b2n nf + 2 * b2n p.invalid) ++ toLE 1 fm ++ toLE 1 fn
    ++ zeros 1 ++ toLE 4 fk ++ zeros 44

/-- An accumulator block (R127). -/
def accBlock (first count total : Nat) (p : Partial) : List Byte :=
  p.vals.flatMap (toLE 6) ++ tagBytes first count total p

/-- A tag read from a block: FIRST, COUNT, TOTAL, and the partial that the block holds. -/
def parseAcc (bs : List Byte) : Nat × Nat × Nat × Partial :=
  let nf := fld bs 6156 1
  (fld bs 6144 4, fld bs 6148 4, fld bs 6152 4,
    ⟨(chunks 6 (bs.take 6144)).map leNat, nf.testBit 1,
      if nf.testBit 0 then some (fld bs 6157 1, fld bs 6158 1, fld bs 6160 4) else none, false⟩)

/-- The tag check of COMBINE (R68). Where TOTAL is below ACC2.FIRST the rule's difference is negative and no COUNT
equals it. -/
def combineOk (f1 c1 t1 f2 c2 t2 : Nat) : Bool :=
  t1 == t2 && isPow2 c1 && f1 % (2 * c1) == 0 && f2 == f1 + c1 && decide (f2 ≤ t1) && c2 == min c1 (t1 - f2)

/-- The parent of two nodes (R67, R128). -/
def combine (l r : Partial) : Partial :=
  let vs := (l.vals.zip r.vals).map fun p => addNode (p.1, false) (p.2, false)
  ⟨vs.map (·.1), l.invalid || r.invalid || vs.any (·.2), firstOf l.first r.first, false⟩

/-- The epilogue and the tile status (R67, R135, R136): the bytes of C and the fields of the record. `mode q` gives the
rounding of output q. (DEDUCED, assumption log 18) -/
def epilogue (fc : Fmt) (exp : Int) (mode : Nat → Rounding) (p : Partial) (step : Nat) :
    List Byte × List Byte × Bool × Nat × Nat × Nat :=
  let vs := p.vals.map fun v => scaleNum exp (ofA48 v)
  let modes := (List.range 1024).map mode
  let C := (chunks 32 (vs.zip modes)).flatMap fun r => (encodeRow fc 2 0 (r.map (·.2)) (r.map (·.1)) fun _ => true).1
  let anyNan := vs.any numIsNan
  let anyInf := vs.any numIsInf
  -- finite values whose encoding is an infinity or turns their block into a NaN block
  let byEnc := (chunks 32 (vs.zip modes)).map fun r =>
    if fmtIsBlock fc then
      let xs := r.map (·.1)
      if xs.any numIsNan || (fc != .b8e5 && xs.any numIsInf) then r.map fun _ => false
      else (r.zip (encodeBlock fc 0 (r.map (·.2)) xs).1).map fun q => match q.1.1 with
        | .fin _ _ _ => if fc = .b8e5 then q.2 % 128 == 0x7C else !magLe q.1.1 (blockMax fc) 127
        | _ => false
    else r.map fun q => match q.1 with
      | .fin _ _ _ => match fmtSpec fc with
        | some sp => sp.infBits == some ((encodeElem fc q.2 q.1).1 % 2 ^ (sp.expW + sp.fracW))
        | none => false
      | _ => false
  let enc := byEnc.flatMap id
  let overflow := enc.any id
  let value := findIdx? (fun v => numIsNan v || numIsInf v) vs 0
  let coded := findIdx? id enc 0
  let nf := anyNan || anyInf || overflow
  let tagPos := p.first.map fun q => 32 * q.1 + q.2.1
  let cands := [tagPos, value, coded].filterMap id
  let pos := cands.foldl min 1024
  let pos := if nf then pos else 0
  let k := if nf && tagPos == some pos then (p.first.getD (0, 0, 0xFFFFFFFF)).2.2 else 0xFFFFFFFF
  let flags := b2n nf + 2 * b2n anyNan + 4 * b2n anyInf + 8 * b2n p.invalid + 16 * b2n overflow
  (C, toLE 1 flags ++ toLE 1 (pos / 32) ++ toLE 1 (pos % 32) ++ zeros 1 ++ toLE 4 k ++ toLE 4 step ++ zeros 52,
    nf, pos / 32, pos % 32, k)

end Sys2Proof.Machine
end

