-- ==== Sys2Proof/Machine/Lane.lean ====
section
/-! DEFINITION. The lane engine's shared operations: registers (R176), guards (R182), loads and stores through a kernel's
ranges (R173, R174, R183 to R187), traps (R192 to R194), reductions (R188 to R190), and the end of a kernel (R174, R197). -/

namespace Sys2Proof.Machine

/-! ### Registers and threads -/

/-- A general register; g0 reads as zero (R176). -/
def getG (th : LaneThread) (i : Nat) : Word32 := if i = 0 then 0 else th.g.getD i 0

/-- A general register written; a write of g0 is ignored (R176). -/
def setG (th : LaneThread) (i : Nat) (v : Word32) : LaneThread := if i = 0 then th else { th with g := th.g.set i v }

/-- A predicate; p0 reads as true (R176). -/
def getP (th : LaneThread) (i : Nat) : Bool := if i = 0 then true else th.p.getD i false

/-- A predicate written; a write of p0 is ignored (R176). -/
def setP (th : LaneThread) (i : Nat) (v : Bool) : LaneThread := if i = 0 then th else { th with p := th.p.set i v }

/-- The next instruction of the thread. -/
def stepPc (th : LaneThread) : LaneThread := { th with pc := th.pc + 1 }

/-- The kernel of a run. -/
def laneKernel (s : State) : LaneRun → Option LaneKernel
  | .step l => assoc l s.lnc.steps
  | .queue q => assoc q s.lnc.free

/-- The kernel of a run set. -/
def setKernel (r : LaneRun) (k : LaneKernel) (s : State) : State :=
  match r with
  | .step l => { s with lnc := { s.lnc with steps := assocPut l k s.lnc.steps } }
  | .queue q => { s with lnc := { s.lnc with free := assocPut q k s.lnc.free } }

/-- The kernel of a run gone. -/
def dropKernel (r : LaneRun) (s : State) : State :=
  match r with
  | .step l => { s with lnc := { s.lnc with steps := assocDel l s.lnc.steps } }
  | .queue q => { s with lnc := { s.lnc with free := assocDel q s.lnc.free } }

/-- The instance that runs on hardware thread t: the uniform one (as thread 0), or the element of the pass (R172). -/
def threadAt (k : LaneKernel) (t : Nat) : Option LaneThread :=
  match k.loop with
  | none => if t = 0 then some k.uni else none
  | some lp => assoc t lp.threads

/-- The instance on hardware thread t set. -/
def setThread (t : Nat) (th : LaneThread) (k : LaneKernel) : LaneKernel :=
  match k.loop with
  | none => { k with uni := th }
  | some lp => { k with loop := some { lp with threads := assocPut t th lp.threads } }

/-- EI of a trap in uniform code (Table 6.11). -/
def eiUniform : Nat := 0xFFFFFFFF

/-- An instance may issue an instruction. -/
def threadReady (th : LaneThread) : Bool := th.waiting.isNone && !th.done && th.trap.isNone

/-! ### The end of a kernel -/

/-- A step's completion is registered in the present cycle (R20). -/
def registerDone (step : Nat) (s : State) : State :=
  { s with ttu := { s.ttu with
      done := s.ttu.done ++ [step]
      anyDone := true
      lastDone := s.xng.cycle.toNat } }

/-- The timetable unit will enter STOPPING at the next tick (R68, R69, R194, R388). -/
def stopAtTick (s : State) : State := { s with ttu := { s.ttu with stopNext := true } }

/-- A timetable step met poison (R388). (DEDUCED, assumption log 108) -/
def poisonStop (s : State) : State := raise 0x0B0F noSubject [] (stopAtTick s)

/-- The entries of a queue's ring (Tables 5.15 and 6.13). -/
def qEntries (q : Queue) : Nat := 2 ^ (q.size.toNat + 4)
/-- The first byte of a queue's ring. -/
def qBase (q : Queue) : Nat := q.base.toNat * 4096
/-- The address of a position's descriptor. -/
def descAddr (q : Queue) (pos : Nat) : Nat := qBase q + 64 * (pos % qEntries q)
/-- The address of a position's completion record. -/
def recordAddr (q : Queue) (pos : Nat) : Nat := qBase q + 64 * qEntries q + 16 * (pos % qEntries q)

/-- The record of a queue's position is written with the queue's CONTEXT, once (R159, R252): the state after, and whether the record is
visible. (DEDUCED, assumption log 134) -/
def queueRecord (use : HostUse) (x : Queue) (who pos : Nat) (rec : List Byte) (s : State) : State × Bool :=
  let a := recordAddr x pos
  let s := if x.recOut then s else ownWrite use x.context.toNat who a rec s
  (s, ownSeen s use who a)

/-- A queue past a position whose record is visible (R159, R160): HEAD, ERR and the stop. -/
def pastRecord (pos status : Nat) (x : Queue) : Queue :=
  { x with
    head := x.head + 1, recOut := false
    inProgress := x.inProgress.filter fun d => d.1 != pos
    finished := x.finished.filter fun f => f.1 != pos
    moved := x.moved.filter fun f => f.1 != pos
    err := x.err || status != 0
    stopped := x.stopped || status == 4 || (status != 0 && x.stopOnErr) }

/-- A launch completes (R197): its record, HEAD, ERR, event 0x0502, the stop of the queue, the interrupt. A record that is not visible yet
keeps its position waiting. -/
def completeLaunch (q pos islet : Nat) (rec : List Byte) (irq : Bool) (s : State) : State :=
  let status := fld rec 2 1
  let x := lncQ s q
  let r := queueRecord (.launch q) x (whoLane islet) pos rec s
  if r.2 then
    let s := setLncQ q (pastRecord pos status x) r.1
    let s := if status = 0 ∨ status = 6 then s else raise 0x0502 islet [] s
    if irq && x.irqEn then emit (.aplic (272 + q)) s else s
  else setLncQ q { x with
    recOut := true, inProgress := x.inProgress.filter fun d => d.1 != pos
    finished := x.finished.filter (fun f => f.1 != pos) ++ [(pos, islet, rec, irq)] } r.1

/-- LNC_TRAP_LAST and LNC_TRAP_WHERE take a trap (Tables 6.10, 6.11). (DEDUCED, assumption log 26) -/
def trapRegs (islet queue step ei : Nat) (tr : LaneTrap) (s : State) : State :=
  { s with lnc := { s.lnc with
      trapValid := true, trapIslet := .ofNat 10 islet, trapQueue := .ofNat 8 queue, trapStep := .ofNat 26 step
      trapCause := .ofNat 8 tr.cause, trapEi := .ofNat 32 ei, trapCode := .ofNat 17 tr.code
      trapPc := .ofNat 14 tr.pc } }

/-- A kernel ends in a trap (R193, R194, R197). (DEDUCED, assumption log 26) -/
def endTrap (r : LaneRun) (k : LaneKernel) (ei : Nat) (tr : LaneTrap) (s : State) : State :=
  let s := dropKernel r s
  match r with
  | .step l =>
    let s := trapRegs k.islet 0xFF k.step ei tr s
    let s := if tr.cause = 2 then raise 0x0207 noSubject [] s
      else raise 0x0501 k.islet [(1, tr.cause), (4, k.step), (2, l), (2, tr.pc), (4, ei), (4, tr.code)] s
    let s := if tr.cause = 9 then poisonStop s else stopAtTick s
    registerDone k.step { s with ttu := { s.ttu with ran := s.ttu.ran ++ [k.step] } }
  | .queue q =>
    let s := trapRegs k.islet q 0 ei tr s
    completeLaunch q k.pos k.islet (laneRecord k.pos 5 tr.cause ei tr.pc tr.code) k.irq s

/-- The kernel of a run after one of its instances has moved: a uniform trap ends it as it occurs, and so does running past
the end of the code (R192, R193). A kernel that a fence ended stays ended. (DEDUCED, assumption log 27) -/
def settle (w : LaneWho) (k : LaneKernel) (th : LaneThread) (s : State) : State :=
  match laneKernel s w.run with
  | none => s
  | some _ =>
    if k.loop.isSome then setKernel w.run (setThread w.t th k) s
    else match th.trap with
      | some tr => endTrap w.run k eiUniform tr s
      | none =>
        if k.code.length ≤ th.pc then endTrap w.run k eiUniform ⟨7, th.pc, 0⟩ s
        else setKernel w.run (setThread w.t th k) s

/-- One lane instruction (R167, R182): the instance whose next word is the command's executes it, when its islet is ACTIVE.
With a false guard it does `off` and goes on. (DEDUCED, assumption log 27) -/
def laneGo (w : LaneWho) (i : Instr) (pg : BitVec 3) (off : LaneThread → LaneThread)
    (act : LaneKernel → LaneThread → State → State × LaneKernel × LaneThread) (s : State) : State :=
  match laneKernel s w.run with
  | none => s
  | some k =>
    match threadAt k w.t with
    | none => s
    | some th =>
      if threadReady th && (isletOf s k.islet).state == .active && k.code[th.pc]? == laneWord i then
        if getP th pg.toNat then
          let (s', k', th') := act k th s
          settle w k' th' s'
        else settle w k (stepPc (off th)) s
      else s

/-- A zeroing guard clears a general destination (R182). -/
def zeroG (z : Bool) (rd : Nat) (th : LaneThread) : LaneThread := if z then setG th rd 0 else th
/-- A zeroing guard clears a predicate destination (R182). -/
def zeroP (z : Bool) (pd : Nat) (th : LaneThread) : LaneThread := if z then setP th pd false else th

/-- An instruction that writes one general register from the instance's registers. -/
def laneReg (w : LaneWho) (i : Instr) (pg : BitVec 3) (z : Bool) (rd : Nat) (val : LaneThread → Word32) (s : State) : State :=
  laneGo w i pg (zeroG z rd) (fun k th s => (s, k, stepPc (setG th rd (val th)))) s

/-- A register operation of format R: of rd's old value, g[rs1] and g[rs2]. -/
def laneAlu (w : LaneWho) (i : Instr) (f : FR) (op : Word32 → Word32 → Word32 → Word32) (s : State) : State :=
  laneReg w i f.pg f.z f.rd.toNat (fun th => op (getG th f.rd.toNat) (getG th f.rs1.toNat) (getG th f.rs2.toNat)) s

/-- A register operation of format I: of g[rs1] and the immediate. -/
def laneImm (w : LaneWho) (i : Instr) (f : FI) (op : Word32 → BitVec 12 → Word32) (s : State) : State :=
  laneReg w i f.pg f.z f.rd.toNat (fun th => op (getG th f.rs1.toNat) f.imm) s

/-- A comparison: a predicate from g[rs1] and g[rs2]. -/
def laneCmp (w : LaneWho) (i : Instr) (f : FR) (op : Word32 → Word32 → Bool) (s : State) : State :=
  laneGo w i f.pg (zeroP f.z f.rd.toNat)
    (fun k th s => (s, k, stepPc (setP th f.rd.toNat (op (getG th f.rs1.toNat) (getG th f.rs2.toNat))))) s

/-- A predicate operation (PLOG). -/
def lanePlog (w : LaneWho) (i : Instr) (f : FR) (op : Bool → Bool → Bool) (s : State) : State :=
  laneGo w i f.pg (zeroP f.z f.rd.toNat)
    (fun k th s => (s, k, stepPc (setP th f.rd.toNat (op (getP th f.rs1.toNat) (getP th f.rs2.toNat))))) s

/-- The instance goes to the word `off` words from its own (R177). -/
def jumpBy (th : LaneThread) (off : Int) : LaneThread := { th with pc := ((th.pc : Int) + off).toNat }

/-- A branch of format B. -/
def laneBranch (w : LaneWho) (i : Instr) (f : FB) (cond : Word32 → Word32 → Bool) (s : State) : State :=
  laneGo w i f.pg id (fun k th s =>
    (s, k, if cond (getG th f.rs1.toNat) (getG th f.rs2.toNat) then jumpBy th f.imm.toInt else stepPc th)) s

/-! ### Packed operations (Table 6.4) -/

/-- A word built from its four bytes. -/
def packB4 (op : BitVec 8 → BitVec 8 → BitVec 8) (a b : Word32) : Word32 :=
  (op (a.extractLsb' 24 8) (b.extractLsb' 24 8) ++ op (a.extractLsb' 16 8) (b.extractLsb' 16 8))
    ++ (op (a.extractLsb' 8 8) (b.extractLsb' 8 8) ++ op (a.extractLsb' 0 8) (b.extractLsb' 0 8))

/-- A word built from its two halves. -/
def packH2 (op : BitVec 16 → BitVec 16 → BitVec 16) (a b : Word32) : Word32 :=
  op (a.extractLsb' 16 16) (b.extractLsb' 16 16) ++ op (a.extractLsb' 0 16) (b.extractLsb' 0 16)

/-- A signed sum that saturates. -/
def addSat {w : Nat} (a b : BitVec w) : BitVec w :=
  let z := a.toInt + b.toInt
  BitVec.ofInt w (max (-(2 ^ (w - 1) : Nat)) (min z ((2 ^ (w - 1) : Nat) - 1)))

/-- The lesser of two signed values. -/
def minS {w : Nat} (a b : BitVec w) : BitVec w := if a.slt b then a else b
/-- The greater of two signed values. -/
def maxS {w : Nat} (a b : BitVec w) : BitVec w := if a.slt b then b else a

/-- The sum of the four signed byte products (DOT.B4). -/
def dotB4 (a b : Word32) : Int :=
  (a.extractLsb' 0 8).toInt * (b.extractLsb' 0 8).toInt + (a.extractLsb' 8 8).toInt * (b.extractLsb' 8 8).toInt
    + (a.extractLsb' 16 8).toInt * (b.extractLsb' 16 8).toInt + (a.extractLsb' 24 8).toInt * (b.extractLsb' 24 8).toInt

/-- The F32 value of a register (R180). -/
def num (a : Word32) : Num := ofF32 a.toNat
/-- A value rounded into an F32 register (R180). -/
def f32 (v : Num) : Word32 := BitVec.ofNat 32 (toF32 v)
/-- |v|, a NaN staying one (R180). -/
def numAbs : Num → Num
  | .nan => .nan
  | .inf _ => .inf false
  | .fin _ m e => .fin false m e
/-- A narrow result of CVT (R181). -/
def narrow (f : Fmt) (a : Word32) : Word32 := BitVec.ofNat 32 (encodeElem f .rne (num a)).1
/-- A narrow source of CVT (R181). -/
def widen (f : Fmt) (a : Word32) : Word32 := f32 (decodeElem f (a.toNat % 2 ^ fmtBits f))

/-! ### Memory -/

/-- Where byte `off` of a kernel's range lies: a logical store, or physical memory. -/
def rangeTarget (s : State) (kr : KRange) (off : Nat) : RangeBase :=
  match kr.base with
  | .store l a => .store l (a + off)
  | .tensor t o =>
    let sl := actSlot s
    match sl.image with
    | some i => .phys (((i.tensors[t]?).elim 0 (tensorBase sl)) + o + off)
    | none => .phys (o + off)
  | .phys b => .phys (b + off)

/-- The byte address that alignment is judged on (R184). -/
def targetAddr : RangeBase → Nat
  | .store _ a => a
  | .tensor _ o => o
  | .phys a => a

/-- The checks of an access through a range (R184), in the order of R193: the trap's cause. -/
def rangeFault (s : State) (k : LaneKernel) (r off width : Nat) (write raw : Bool) : Option Nat :=
  match k.ranges[r]? with
  | none => some 2
  | some kr =>
    if kr.bytes < off + width || !kr.access.testBit (if write then 1 else 0) then some 2
    else if targetAddr (rangeTarget s kr off) % width != 0 then some 1
    else if write && raw && fmtIsScaled kr.fmt then some 6
    else none

/-- The own iteration's stores laid over bytes read at a target (R173). -/
def overStores (sts : List LaneStore) (t : RangeBase) (bs : List Byte) : List Byte :=
  sts.foldl (fun bs st =>
    let lay (a b : Nat) : List Byte := bs.zipIdx.map fun p =>
      if b ≤ a + p.2 ∧ a + p.2 < b + st.bytes.length then st.bytes.getD (a + p.2 - b) 0 else p.1
    match t, st.target with
    | .store l a, .store l' b => if l = l' then lay a b else bs
    | .phys a, .phys b => lay a b
    | _, _ => bs) bs

/-- The iteration itself has stored every byte (R173). (DEDUCED, assumption log 28) -/
def allStored (sts : List LaneStore) (t : RangeBase) (n : Nat) : Bool :=
  (List.range n).all fun i => sts.any fun st =>
    match t, st.target with
    | .store l a, .store l' b => l == l' && decide (b ≤ a + i) && decide (a + i < b + st.bytes.length)
    | .phys a, .phys b => decide (b ≤ a + i) && decide (a + i < b + st.bytes.length)
    | _, _ => false

/-- A running kernel of a context that is not parked faults on an absent page (R271, R272). -/
def faultOnce (c p : Nat) (s : State) : State := if (ctx s c).park = 0 then pageFault c p s else s

/-- A load's bytes (R173, R184, R260, R271, R273): what memory holds, with the iteration's own stores over it.
(DEDUCED, assumption log 28) -/
def laneGet (k : LaneKernel) (th : LaneThread) (t : RangeBase) (n : Nat) (s : State) : State × LoadRes :=
  if allStored th.stores t n then (s, .data (overStores th.stores t (zeros n)))
  else match t with
    | .store l a =>
      match readStore l a n s with
      | (s, some bs, poison) => (s, if poison then .poison else .data (overStores th.stores t bs))
      | (s, none, _) => (s, .lost)
    | .tensor _ _ => (s, .lost)
    | .phys a =>
      let near (s : State) : State × LoadRes :=
        if memWaits s a n then (s, .busy)
        else
          let (s, bs, poison) := readMem (whoLane k.islet) a n s
          (s, if poison then .poison else .data (overStores th.stores t bs))
      if !k.queue then near s
      else if isHost a then
        if allLost s then (hostLost (a - hostBase) s, .poison) else (hostRead (a - hostBase) n (.lane k.islet) s, .remote a)
      else match pageCheck s k.context (pageOf a) false with
        | .served => near s
        | .absent =>
          let off := backingOff s (pageOf a) + a % 2 ^ 21
          if counterMode s then
            if allLost s then (remoteTouch (pageOf a) (hostLost off s), .poison)
            else (remoteTouch (pageOf a) (hostRead off n (.lane k.islet) s), .remote a)
          else (faultOnce k.context (pageOf a) s, .busy)
        | .held =>
          (if (tag s (pageOf a)).res = .migrating ∧ counterMode s = false then faultOnce k.context (pageOf a) s else s, .busy)
        | _ => (refusePage k.context a false s, .poison)

/-- The instance traps at its instruction. (DEDUCED, assumption log 27, 108) -/
def trapWith (th : LaneThread) (cause code : Nat) : LaneThread := { th with trap := some ⟨cause, th.pc, code⟩ }

/-- The load of a range gives up the core (R168). -/
def leavesStore (k : LaneKernel) (t : RangeBase) : Bool :=
  match t with
  | .store l _ => l != k.lislet
  | _ => true

/-- A load carried out: `fin` takes the bytes to the instance. One that goes to memory waits (R168). -/
def laneLoad (k : LaneKernel) (th : LaneThread) (t : RangeBase) (n : Nat) (remote : Nat → LaneWait)
    (fin : LaneThread → List Byte → LaneThread) (s : State) : State × LaneKernel × LaneThread :=
  match laneGet k th t n s with
  | (s, .data bs) =>
    if leavesStore k t then (s, k, { fin th bs with waiting := some .near }) else (s, k, stepPc (fin th bs))
  | (s, .poison) => (s, k, trapWith th 9 0)
  | (s, .remote a) => (s, k, { th with waiting := some (remote a) })
  | (s, .busy) => (s, k, th)
  | (s, .lost) => (s, k, th)

/-- Little-endian bytes zero-extended into a register. -/
def wordOf (bs : List Byte) : Word32 := BitVec.ofNat 32 (leNat bs)

/-! ### Stores -/

/-- The elements that one byte of a tensor belongs to: their indices, the byte at which each begins, its upper nibble, and
the offset of its block's scale byte. A scale byte, a byte between rows and the nibble after an odd last element belong to none. -/
def byteElems (te : TensorEnt) (off : Nat) : List (Nat × Nat × Bool × Option Nat) :=
  let f := tensorFmt te
  match tensorPlace te off with
  | none => []
  | some (r, o) =>
    let row := te.dim0 * r
    let r0 := off - o
    if fmtIsBlock f then
      let n := blockElems te.block
      let bb := blockBytes f n
      let b := o / bb
      let j := o % bb
      let sc := some (r0 + b * bb + bb - 1)
      if j = bb - 1 then []
      else if fmtBits f = 4 then [(row + b * n + 2 * j, off, false, sc), (row + b * n + 2 * j + 1, off, true, sc)]
      else [(row + b * n + j, off, false, sc)]
    else if fmtBits f = 4 then
      (row + 2 * o, off, false, none) :: if 2 * o + 1 < te.dim0 then [(row + 2 * o + 1, off, true, none)] else []
    else
      let k := o / (fmtBits f / 8)
      [(row + k, r0 + k * (fmtBits f / 8), false, none)]

/-- The statistics of the elements that bytes of a tensor belong to, each element once, decoded from the bytes in place with the tensor's
current S (R116). (DEDUCED, assumption log 19) -/
def byteStats (sl : ImgSlot) (t : Nat) (te : TensorEnt) (offs : List Nat) (s : State) : Stats :=
  let f := tensorFmt te
  let S := scaleNow s sl t te
  let base := tensorBase sl te
  ((offs.flatMap (byteElems te)).eraseDups).foldl (fun st e =>
    let code :=
      if fmtBits f = 4 then leNat (peek s (base + e.2.1) 1) / (if e.2.2.1 then 16 else 1) % 16
      else leNat (peek s (base + e.2.1) (fmtBits f / 8))
    let v := match e.2.2.2 with
      | some sc => decodeBlockElem f (leNat (peek s (base + sc) 1)) code
      | none => decodeElem f code
    countElem st (scaleNum S v) false) {}

/-- The offsets of a run of bytes. -/
def runBytes (off n : Nat) : List Nat := (List.range n).map (off + ·)

/-- A tensor's statistics of the crossing joined with more (R72). -/
def addTensorStats (t : Nat) (st : Stats) (s : State) : State :=
  { s with ttu := { s.ttu with stats := put {} t (addStats (look {} s.ttu.stats t) st) s.ttu.stats } }

/-- The bytes that RAW MOVEs of the crossing copied into a tensor count (R116): an element that several of them wrote in parts counts
once, so the record is the same however the copy is split (R72). (DEDUCED, assumption log 19) -/
def settleCopies (t : Nat) (s : State) : State :=
  let sl := actSlot s
  match sl.image.bind fun i => i.tensors[t]? with
  | none => s
  | some te =>
    let runs := look [] s.ttu.copied t
    addTensorStats t (byteStats sl t te (runs.flatMap fun r => runBytes r.1 r.2) s)
      { s with ttu := { s.ttu with copied := put [] t [] s.ttu.copied } }

/-- Bytes of a tensor are about to be written: those that a RAW MOVE of the crossing has put there count first. -/
def overCopies (t off n : Nat) (s : State) : State :=
  if (look [] s.ttu.copied t).any fun r => overlaps r.1 r.2 off n then settleCopies t s else s

/-- A RAW MOVE has copied bytes into a tensor. -/
def noteCopy (t off n : Nat) (s : State) : State :=
  { s with ttu := { s.ttu with copied := put [] t (look [] s.ttu.copied t ++ [(off, n)]) s.ttu.copied } }

/-- The statistics of one store of a timetable kernel, once it has taken effect (R187). -/
def storeStats (st : LaneStore) (s : State) : State :=
  match st.tensor with
  | none => s
  | some (t, off) =>
    let sl := actSlot s
    match sl.image.bind fun i => i.tensors[t]? with
    | none => s
    | some te =>
      match st.value with
      | some (v, sat) => addTensorStats t (countElem {} v sat) s
      | none =>
        addTensorStats t (byteStats sl t te (runBytes off st.bytes.length) s) s

/-- One store takes effect (R173, R174). -/
def commitStore (k : LaneKernel) (s : State) (st : LaneStore) : State :=
  match st.target with
  | .store l a => writeStore l a st.bytes s
  | .tensor _ _ => s
  | .phys a =>
    if k.queue then writeRun (.lane k.islet) k.context (whoLane k.islet) a st.bytes s
    else
      let s := st.tensor.elim s fun p => overCopies p.1 p.2 st.bytes.length s
      storeStats st (writeMem (whoLane k.islet) a st.bytes s)

/-- What a store meets at its destination (R196, R240, R260, R271): refused, held back, at a page to fault on (in fault mode an absent one, or
one that migrates), or nothing in its way. (DEDUCED, assumption log 28) -/
def storeVerdict (s : State) (k : LaneKernel) (st : LaneStore) : PageVerdict :=
  match st.target with
  | .phys a =>
    if k.queue && isHost a then .served
    else match (if k.queue then pageCheck s k.context (pageOf a) true else .served) with
      | .absent => if counterMode s then .served else .absent
      | .held => if (tag s (pageOf a)).res = .migrating ∧ counterMode s = false then .absent else .held
      | .served => if memWaits s a st.bytes.length then .held else .served
      | v => v
  | _ => .served

/-- A store executes: in a body it joins the iteration's stores, at most 32 of them (R175); in uniform code it takes effect
at once (R174). -/
def laneStore (k : LaneKernel) (th : LaneThread) (st : LaneStore) (s : State) : State × LaneKernel × LaneThread :=
  if k.loop.isSome then
    if 32 ≤ th.stores.length then (s, k, trapWith th 3 0)
    else (s, k, stepPc { th with stores := th.stores ++ [st] })
  else match storeVerdict s k st with
    | .served => (commitStore k s st, k, stepPc th)
    | .held => (s, k, th)
    | .absent => (faultOnce k.context (pageOf (targetAddr st.target)) s, k, th)
    | v =>
      let a := targetAddr st.target
      (refusePage k.context a (v == .locked) s, k, trapWith th 10 0)

/-- The tensor and the offset in it that a range's byte stands for, of a timetable kernel. -/
def rangeTensor (kr : KRange) (off : Nat) : Option (Nat × Nat) :=
  match kr.base with
  | .tensor t o => some (t, o + off)
  | _ => none

/-! ### Loads and stores by instruction -/

/-- LDS: the own store at g[rs1] + sext(imm12), through a declared store range that permits it (R183). -/
def ldsFault (k : LaneKernel) (a width : Nat) (write : Bool) : Option Nat :=
  let declared := k.ranges.any fun kr => match kr.base with
    | .store l b => l == k.lislet && within a width b kr.bytes && kr.access.testBit (if write then 1 else 0)
    | _ => false
  if storeSize < a + width || !declared then some 2
  else if a % width != 0 then some 1
  else none

/-- The address of an LDS or STS (R183). -/
def ldsAddr (th : LaneThread) (f : FI) : Nat := (getG th f.rs1.toNat + f.imm.signExtend 32).toNat

/-- An LDS of a width (R183). -/
def laneLds (w : LaneWho) (i : Instr) (f : FI) (width : Nat) (s : State) : State :=
  laneGo w i f.pg (zeroG f.z f.rd.toNat) (fun k th s =>
    let a := ldsAddr th f
    match ldsFault k a width false with
    | some c => (s, k, trapWith th c 0)
    | none => laneLoad k th (.store k.lislet a) width (fun _ => .near)
        (fun th bs => setG th f.rd.toNat (wordOf bs)) s) s

/-- An STS of a width (R183). -/
def laneSts (w : LaneWho) (i : Instr) (f : FI) (width : Nat) (s : State) : State :=
  laneGo w i f.pg id (fun k th s =>
    let a := ldsAddr th f
    match ldsFault k a width true with
    | some c => (s, k, trapWith th c 0)
    | none => laneStore k th ⟨.store k.lislet a, toLE width (getG th f.rd.toNat).toNat, th.pc, none, none⟩ s) s

/-- An LDM of a width (R184). -/
def laneLdm (w : LaneWho) (i : Instr) (f : FR) (width : Nat) (s : State) : State :=
  laneGo w i f.pg (zeroG f.z f.rd.toNat) (fun k th s =>
    let r := (getG th f.rs1.toNat).toNat
    let off := (getG th f.rs2.toNat).toNat * width
    match rangeFault s k r off width false true with
    | some c => (s, k, trapWith th c 0)
    | none => match k.ranges[r]? with
      | none => (s, k, th)
      | some kr => laneLoad k th (rangeTarget s kr off) width (fun a => .remoteReg f.rd.toNat width a none)
          (fun th bs => setG th f.rd.toNat (wordOf bs)) s) s

/-- An STM of a width (R184). -/
def laneStm (w : LaneWho) (i : Instr) (f : FR) (width : Nat) (s : State) : State :=
  laneGo w i f.pg id (fun k th s =>
    let r := (getG th f.rs1.toNat).toNat
    let off := (getG th f.rs2.toNat).toNat * width
    match rangeFault s k r off width true true with
    | some c => (s, k, trapWith th c 0)
    | none => match k.ranges[r]? with
      | none => (s, k, th)
      | some kr => laneStore k th
          ⟨rangeTarget s kr off, toLE width (getG th f.rd.toNat).toNat, th.pc, rangeTensor kr off, none⟩ s) s

/-- An operand descriptor (Table 6.5); none where it breaks the table. -/
def parseOd (bs : List Byte) : Option OpDesc :=
  let fmt := fld bs 5 1
  let flags := fld bs 7 1
  let rawW := bits flags 2 1
  if fmt ≤ 6 && fld bs 6 1 ≤ 3 && flags < 8 && rawW != 3 && (fmt == 0 || rawW == 0) && fld bs 8 2 != 0 then
    some { base := fld bs 0 4, range := fld bs 4 1, fmt := fmt, mode := fld bs 6 1, sr := flags.testBit 0, rawW := rawW
           cols := fld bs 8 2, purpose := fld bs 10 2, pitch := fld bs 12 4 }
  else none

/-- The element size of a descriptor in bytes. -/
def odSize (d : OpDesc) : Nat := if d.fmt = 0 then 2 ^ d.rawW else fmtBits ((fmtOfCode d.fmt).getD .raw) / 8

/-- The byte offset of element e through a descriptor (R186), computed exactly. -/
def odOffset (d : OpDesc) (e : Nat) : Nat :=
  match d.mode with
  | 0 => d.base + e / d.cols * d.pitch + e % d.cols * odSize d
  | 1 => d.base + e % d.cols * odSize d
  | 2 => d.base + e / d.cols * d.pitch
  | _ => d.base

/-- The exponent of the scale that LDE decodes with (R187, R110). -/
def loadScale (s : State) (kr : KRange) : Int :=
  match kr.base with
  | .tensor t _ =>
    let sl := actSlot s
    match sl.image.bind fun i => i.tensors[t]? with
    | some te => scaleNow s sl t te
    | none => 0
  | _ => 0

/-- The exponent of the scale that STE encodes with (R187, R109). -/
def storeScale (s : State) (kr : KRange) : Int :=
  match kr.base with
  | .tensor t _ =>
    let sl := actSlot s
    match sl.image with
    | some i => match i.tensors[t]? with
      | some te => writeScale s sl i (crossingAt i s.ttu.runIdx) t te
      | none => 0
    | none => 0
  | _ => 0

/-- The element that LDE delivers, from its bytes (R187). -/
def ldeWord (d : OpDesc) (S : Int) (bs : List Byte) : Word32 :=
  if d.fmt = 0 then wordOf bs
  else f32 (scaleNum S (decodeElem ((fmtOfCode d.fmt).getD .raw) (leNat bs)))

/-- A range is a WEIGHT tensor of the image (R204). -/
def rangeIsWeight (s : State) (kr : KRange) : Bool :=
  match kr.base with
  | .tensor t _ => match (actSlot s).image.bind fun i => i.tensors[t]? with
    | some te => te.flags.testBit 1
    | none => false
  | _ => false

/-- The rounding of an STE (R187). -/
def steRounding (s : State) (k : LaneKernel) (kr : KRange) (d : OpDesc) (off : Nat) : Rounding :=
  if !(d.sr || rangeIsWeight s kr) then .rne
  else match kr.base with
    | .store l a => srOf k.mixStep storeTensor (storeElem l (a + off) false) d.purpose k.seed
    | .tensor _ o => srOf k.mixStep kr.tensor ((o + off) / odSize d) d.purpose k.seed
    | .phys _ => srOf k.mixStep kr.tensor (off / odSize d) d.purpose k.seed

/-! ### Reductions (R188 to R190) -/

/-- One level of tree() over present leaves: an absent neighbour leaves the other as it is (R189). -/
def redLevel {α : Type} (op : α → α → α) : List (Nat × α) → List (Nat × α)
  | [] => []
  | [(i, a)] => [(i / 2, a)]
  | (i, a) :: (j, b) :: r =>
    if i / 2 = j / 2 then (i / 2, op a b) :: redLevel op r else (i / 2, a) :: redLevel op ((j, b) :: r)

/-- The root over present leaves, of element indices below 2^32. -/
def redRoot {α : Type} (op : α → α → α) (l : List (Nat × α)) : Option α := ((iter (redLevel op) 32 l).head?).map (·.2)

/-- The pair that FARGMAX keeps (R189): a NaN before any number, the larger value with +0 above −0, the lower index. -/
def argMax (less : Num → Num → Bool) (a b : Num × Nat) : Num × Nat :=
  if numIsNan a.1 then a
  else if numIsNan b.1 then b
  else if less a.1 b.1 then b else a

/-- a below b, −0 below +0. -/
def numLtZ (a b : Num) : Bool := if numIsZero a && numIsZero b then numSign a && !numSign b else numLt a b

/-- The result of a slot and EMPTY (R189, R190, Table 6.6). -/
def redResult (r : RedSlot) : Word32 × Bool :=
  let f32s := r.vals.map fun p => (p.1, num p.2)
  let a48s := r.vals.map fun p => (p.1, toA48 (num p.2))
  let arg := r.vals.map fun p => (p.1, (num p.2, p.1))
  match r.op with
  | none => (0, true)
  | some op =>
    let res : Option Word32 := match op with
      | 0 => (redRoot add48 a48s).map fun v => f32 (ofA48 v)
      | 1 => (redRoot (fun a b => toA48 (numMul (ofA48 a) (ofA48 b))) a48s).map fun v => f32 (ofA48 v)
      | 2 => (redRoot numMax f32s).map f32
      | 3 => (redRoot numMin f32s).map f32
      | 4 => (redRoot (argMax numLtZ) arg).map fun p => BitVec.ofNat 32 p.2
      | 5 => (redRoot (argMax fun a b => numLtZ b a) arg).map fun p => BitVec.ofNat 32 p.2
      | 8 => redRoot (· + ·) r.vals
      | 9 => redRoot maxS r.vals
      | _ => redRoot minS r.vals
    match res with
    | some v => (v, false)
    | none => (match op with
      | 0 => 0x00000000 | 1 => 0x3F800000 | 2 => 0xFF800000 | 3 => 0x7F800000 | 4 => 0xFFFFFFFF | 5 => 0xFFFFFFFF
      | 8 => 0 | 9 => 0x80000000 | _ => 0x7FFFFFFF, true)

/-- A contribution (R188): a second one to a slot in the same iteration traps. -/
def laneRed (w : LaneWho) (i : Instr) (f : FR) (s : State) : State :=
  laneGo w i f.pg id (fun k th s =>
    let slot := f.rd.toNat % 4
    if th.reds.any fun r => r.1 == slot then (s, k, trapWith th 4 0)
    else (s, k, stepPc { th with reds := th.reds ++ [(slot, getG th f.rs1.toNat)] })) s

/-! ### Element loops -/

/-- The instances of a pass (R171, R172): they start with the registers of SETVL; those at or beyond VL are masked. -/
def passThreads (k : LaneKernel) (start pass : Nat) : List (Nat × LaneThread) :=
  (List.range (min 256 (k.vl - 256 * pass))).map fun t =>
    (t, { g := k.uni.g, p := k.uni.p, pc := start + 1, ei := 256 * pass + t })

/-- The index of the ENDVL that closes the loop opened at a word. -/
def loopEnd (code : List Nat) (start : Nat) : Nat :=
  match findIdx? (fun v => opOf v == 0x39) (code.drop (start + 1)) 0 with
  | some j => start + 1 + j
  | none => code.length

/-- The slots that the body of a loop names, with the function code of its RED (R188, R190). -/
def loopSlots (code : List Nat) (start : Nat) : List (Nat × Nat) :=
  (((code.take (loopEnd code start)).drop (start + 1)).filter fun v => opOf v == 0x3A).map fun v =>
    (bits v 18 17, bits v 6 0)

/-- The slots cleared at a SETVL (R190). -/
def clearSlots (k : LaneKernel) (start : Nat) : List RedSlot :=
  (loopSlots k.code start).foldl (fun sl p => sl.set p.1 { op := some p.2, vl := k.vl, vals := [] }) k.slots

/-- The pass is over: its stores have taken effect and its contributions join the slots; the next pass opens, or the loop
closes and uniform code goes on with the registers of SETVL (R171, R173). -/
def nextPass (k : LaneKernel) (lp : LaneLoop) : LaneKernel :=
  let elems := (List.range 256).filterMap fun t => (assoc t lp.threads).map fun th => th
  let slots := elems.foldl (fun sl th => th.reds.foldl (fun sl r =>
    let x := sl.getD r.1 {}
    sl.set r.1 { x with vals := x.vals ++ [(th.ei, r.2)] }) sl) k.slots
  let k := { k with slots := slots }
  if 256 * (lp.pass + 1) < k.vl then
    { k with loop := some { start := lp.start, pass := lp.pass + 1, threads := passThreads k lp.start (lp.pass + 1) } }
  else { k with loop := none, uni := { k.uni with pc := loopEnd k.code lp.start + 1 } }

/-- The trap that a pass reports (R193): that of the lowest element whose every lower element has ended.
(DEDUCED, assumption log 26) -/
def passTrap (lp : LaneLoop) : Option (LaneThread × LaneTrap) :=
  let ths := (List.range 256).filterMap fun t => assoc t lp.threads
  match ths.dropWhile fun th => th.done && th.trap.isNone with
  | th :: _ => th.trap.map fun tr => (th, tr)
  | [] => none

/-- A pass commits (R173, R196): its trap, or a refused destination page, ends the kernel and nothing of the pass is written;
one that finds pages to fault on faults on the lowest of them
(R271); otherwise its stores take effect in element order and, within an element, in program order, each as its page stands then (R273). -/
def passCommit (run : LaneRun) (s : State) : State :=
  match laneKernel s run with
  | none => s
  | some k =>
    match k.loop with
    | none => s
    | some lp =>
      let ths := (List.range 256).filterMap fun t => assoc t lp.threads
      if (isletOf s k.islet).state != .active then s
      else match passTrap lp with
        | some (th, tr) => endTrap run k th.ei tr s
        | none =>
          if !(ths.all fun th => th.done) then s
          else
            let sts := ths.flatMap fun th => th.stores.map fun st => (th.ei, st)
            match sts.find? fun p => storeVerdict s k p.2 == .denied || storeVerdict s k p.2 == .locked with
            | some (ei, st) =>
              let s := refusePage k.context (targetAddr st.target) (storeVerdict s k st == .locked) s
              endTrap run k ei ⟨10, st.pc, 0⟩ s
            | none =>
              match (sts.filter fun p => storeVerdict s k p.2 == .absent).map fun p => pageOf (targetAddr p.2.target) with
              | p :: ps => faultOnce k.context (ps.foldl min p) s
              | [] =>
                if sts.any fun p => storeVerdict s k p.2 == .held then s
                else
                  let s := sts.foldl (fun s p => commitStore k s p.2) s
                  match laneKernel s run with
                  | none => s
                  | some _ =>
                    let k' := nextPass k lp
                    if k'.loop.isNone && k'.code.length ≤ k'.uni.pc then
                      endTrap run k' eiUniform ⟨7, k'.uni.pc, 0⟩ s
                    else setKernel run k' s

end Sys2Proof.Machine
end

