-- ==== Sys2Proof/Machine/Sha3.lean ====
section
/-! DEFINITION. SHA3-512 (FIPS 202), which digests images, manifests, ranges and secured states (R75, R210, R391). -/

namespace Sys2Proof.Machine

/-- The feedback register of the round constants after t shifts (FIPS 202, x⁸ + x⁶ + x⁵ + x⁴ + 1). -/
def rcShift : Nat → Nat
  | 0 => 1
  | t + 1 => if rcShift t < 128 then 2 * rcShift t else (2 * rcShift t) ^^^ 0x171

/-- The constant of round r: bit 2^j − 1 is the register's bit 0 after j + 7r shifts. -/
def roundConstant (r : Nat) : Nat := ((List.range 7).map fun j => (rcShift (j + 7 * r) % 2) * 2 ^ (2 ^ j - 1)).sum

/-- The lanes, numbered x + 5y, in the order in which ρ visits them from lane (1, 0). -/
def rhoOrder : Nat → Nat → List Nat
  | 0, _ => []
  | n + 1, p => p :: rhoOrder n (p / 5 + 5 * ((2 * (p % 5) + 3 * (p / 5)) % 5))

/-- The rotation of a lane: the triangular number of its place in ρ's order; lane (0, 0) keeps its place. -/
def rhoTurn (p : Nat) : Nat := match (rhoOrder 24 1).findIdx? (· == p) with
  | some t => (t + 1) * (t + 2) / 2 % 64
  | none => 0

/-- A lane turned left by n bits. -/
def turn (n v : Nat) : Nat := (v <<< n) % 2 ^ 64 ||| v >>> (64 - n)

/-- The state as five planes of five lanes: plane y holds the lanes (0, y) to (4, y). -/
abbrev Planes := List (List Nat)

/-- Lane (x, y), its coordinates taken modulo 5. -/
def planeLane (a : Planes) (x y : Nat) : Nat := (a.getD (y % 5) []).getD (x % 5) 0

/-- Planes given lane by lane. -/
def planesOf (f : Nat → Nat → Nat) : Planes := (List.range 5).map fun y => (List.range 5).map fun x => f x y

/-- θ: every lane takes the parities of the columns beside it. -/
def theta (a : Planes) : Planes :=
  let parity := (List.range 5).map fun x => a.foldl (fun p row => p ^^^ row.getD x 0) 0
  let mix := (List.range 5).map fun x => parity.getD ((x + 4) % 5) 0 ^^^ turn 1 (parity.getD ((x + 1) % 5) 0)
  a.map fun row => row.zipWith (· ^^^ ·) mix

/-- ρ, which turns the lanes, and π, which moves lane (x + 3y, x) to (x, y). -/
def rhoPi (a : Planes) : Planes :=
  let turned := a.mapIdx fun y row => row.mapIdx fun x v => turn (rhoTurn (x + 5 * y)) v
  planesOf fun x y => planeLane turned (x + 3 * y) x

/-- χ, row by row. -/
def chi (a : Planes) : Planes := planesOf fun x y => planeLane a x y ^^^ ((planeLane a (x + 1) y ^^^ (2 ^ 64 - 1)) &&& planeLane a (x + 2) y)

/-- Keccak-f[1600]: 24 rounds, each of which ends with ι. -/
def keccakF (a : Planes) : Planes :=
  (List.range 24).foldl (fun a r =>
    let b := chi (rhoPi (theta a))
    planesOf fun x y => if x + y = 0 then planeLane b 0 0 ^^^ roundConstant r else planeLane b x y) a

/-- One 72-byte block absorbed. -/
def absorb (a : Planes) (block : List Byte) : Planes :=
  keccakF (planesOf fun x y => planeLane a x y ^^^ fld block (8 * (x + 5 * y)) 8)

/-- The message padded to whole 72-byte blocks (FIPS 202: the suffix 01, then pad10*1). -/
def sha3Pad (m : List Byte) : List Byte :=
  let n := 72 - m.length % 72
  if n = 1 then m ++ [0x86] else m ++ [0x06] ++ zeros (n - 2) ++ [0x80]

/-- SHA3-512. -/
def sha3 (m : List Byte) : List Byte :=
  ((((chunks 72 (sha3Pad m)).foldl absorb (planesOf fun _ _ => 0)).flatten).take 8).flatMap (toLE 8)

end Sys2Proof.Machine
end

