-- ==== Sys2Proof/Machine/Steps.lean ====
section
/-! DEFINITION. The steps of a timetable as they execute (R58 to R71, R134, R137, R156, R157, R210, R214, R215, R385, R388):
MOVE, MMA, KERNEL, EXCH and SNAP. Each command takes the whole effect of its step; STEP_COMPLETION registers it. -/

namespace Sys2Proof.Machine

/-! ### When a step may execute -/

/-- The engine of an operation (R59). -/
def engineOf : StepOp → Nat
  | .move _ => 0
  | .mma _ => 1
  | .kernel _ => 2
  | .exch _ => 3
  | .snap _ => 4
  | .bad => 5

/-- A step of the whole module (R81). -/
def moduleWide (st : StepEnt) : Bool := engineOf st.op == 3 || engineOf st.op == 4

/-- The batch that a step runs in (R86, R87); the steps of the whole module run in batch 0. (DEDUCED, assumption log 13) -/
def stepBatch (s : State) (st : StepEnt) : Nat := if moduleWide st then 0 else batchOf s st.lislet

/-- The crossing whose steps execute. -/
def openCrossing (s : State) (i : Image) : CrossingEnt := crossingAt i s.ttu.runIdx

/-- A channel that holds a byte of an image region that the step touches makes its requests wait (R240, R242). -/
def stepWaits (sl : ImgSlot) (i : Image) (st : StepEnt) (s : State) : Bool :=
  ((s.mem.chans.any fun c => c.2.busy) || s.mem.scanning.isSome) && engineOf st.op != 2
    && (stepAccesses i st).any fun a => (List.range i.regions.length).any fun r =>
      a.space == spRegion r && memWaits s (regionBase sl r + a.lo) (a.hi - a.lo)

/-- Step k may execute now: its crossing is open, its channels serve, its phase and batch have come, every earlier step of its engine and every
step it waits on has gone before (R58, R59, R156), no islet fault is outstanding (R387), and its islet is ACTIVE.
(DEDUCED, assumption log 2, 11, 12) -/
def stepReady (k : Nat) (s : State) : Option (ImgSlot × Image × StepEnt) :=
  let sl := actSlot s
  match sl.image with
  | none => none
  | some i =>
    let x := openCrossing s i
    match i.steps[k]? with
    | none => none
    | some st =>
      let inPhase := (stepsOf x).filter fun j => match i.steps[j]? with
        | some t => t.phase == st.phase && engineOf t.op == engineOf st.op
            && (moduleWide st || t.lislet == st.lislet)
        | none => false
      let dep (d : Nat) : Bool := d == 0 || s.ttu.done.contains (k - d)
      if (s.ttu.func == .running || s.ttu.func == .stopping) && s.ttu.opened
          && (stepsOf x).contains k && !s.ttu.ran.contains k
          && s.ttu.phase == st.phase && s.ttu.batch == stepBatch s st
          && (inPhase.all fun j => decide (k ≤ j) || s.ttu.ran.contains j)
          && dep st.dep0 && dep st.dep1
          && s.isl.faulted.isEmpty && !s.ttu.replayDue && !stepWaits sl i st s
          && (moduleWide st || (isletOf s (physOf s st.lislet)).state == .active)
          && (engineOf st.op != 2 || (assoc st.lislet s.lnc.steps).isNone)
      then some (sl, i, st) else none

/-- A step has taken its effect. -/
def ranStep (k : Nat) (s : State) : State := { s with ttu := { s.ttu with ran := s.ttu.ran ++ [k] } }

/-- A step that met poison writes nothing (R388). -/
def ranPoisoned (k : Nat) (s : State) : State := poisonStop (ranStep k s)

/-! ### Places -/

/-- `n` bytes at byte `off` of a place, read by a step of logical islet l (R65, R157): none where a store word is
uncorrectable; whether poison was met. -/
def readPlace (sl : ImgSlot) (i : Image) (l : Nat) (p : Place) (off n : Nat) (s : State) : State × Option (List Byte) × Bool :=
  if p.space = 0 then readStore l (p.addr + off) n s
  else if p.space = 1 then readStore p.lislet (p.addr + off) n s
  else match i.tensors[p.addr]? with
    | some te =>
      let (s, bs, poison) := readMem (whoFerry (physOf s l)) (tensorBase sl te + p.offset + off) n s
      (s, some bs, poison)
    | none => (s, some (zeros n), false)

/-- Bytes written at byte `off` of a place by a step of logical islet l. -/
def writePlace (sl : ImgSlot) (i : Image) (l : Nat) (p : Place) (off : Nat) (bs : List Byte) (s : State) : State :=
  if p.space = 0 then writeStore l (p.addr + off) bs s
  else if p.space = 1 then writeStore p.lislet (p.addr + off) bs s
  else match i.tensors[p.addr]? with
    | some te => writeMem (whoFerry (physOf s l)) (tensorBase sl te + p.offset + off) bs s
    | none => s

/-- The rows of a place read in turn: none where a store word is uncorrectable; whether poison was met. -/
def readRows (rd : Nat → State → State × Option (List Byte) × Bool) (rows stride : Nat) (s : State) :
    State × Option (List (List Byte)) × Bool :=
  (List.range rows).foldl (fun acc r =>
    let (s, got, p) := acc
    match got with
    | none => (s, none, p)
    | some rs => match rd (r * stride) s with
      | (s, some bs, q) => (s, some (rs ++ [bs]), p || q)
      | (s, none, q) => (s, none, p || q)) (s, some [], false)

/-! ### MOVE (R66) -/

/-- The rounding of element i of a converted row whose first byte lies at `off` of its place. -/
def moveRounding (sl : ImgSlot) (i : Image) (l : Nat) (m : MoveOp) (df : Fmt) (block off index elem seed : Nat) : Rounding :=
  if m.round = 0 then .rne
  else
    let b := elemOffset df block elem
    let nib := fmtBits df == 4 && elem % 2 == 1
    if m.dst.space = 2 then
      match i.tensors[m.dst.addr]? with
      | some te => srOf (stepCounter sl index) te.id (elemIndex te (m.dst.offset + off + b) nib) m.purpose seed
      | none => .rne
    else
      let dl := if m.dst.space = 1 then m.dst.lislet else l
      srOf (stepCounter sl index) storeTensor (storeElem dl (m.dst.addr + off + b) nib) m.purpose seed

/-- One row of a MOVE written: the bytes, and where its destination is a tensor the statistics of a converting one, or the bytes that a
RAW one copied. An element of a converted row that lies in the nibble after an odd last element counts in no field (R116). -/
def moveRow (sl : ImgSlot) (i : Image) (l index : Nat) (m : MoveOp) (srcS dstS : Int) (r : Nat) (src : List Byte) (s : State) :
    State :=
  let off := r * m.dstStride
  let sf := (fmtOfCode m.srcFmt).getD .raw
  let df := (fmtOfCode m.dstFmt).getD .raw
  let at_ := m.dst.offset + off
  if m.srcFmt = 0 then
    if m.dst.space = 2 then
      noteCopy m.dst.addr at_ src.length (writePlace sl i l m.dst off src (overCopies m.dst.addr at_ src.length s))
    else writePlace sl i l m.dst off src s
  else
    let sb := moveBlock i m m.src
    let db := moveBlock i m m.dst
    let xs := decodeRow sf sb srcS src
    let modes := (List.range xs.length).map fun e => moveRounding sl i l m df db off index e sl.seed
    let counts (e : Nat) : Bool :=
      m.dst.space != 2 || (i.tensors[m.dst.addr]?).any fun te =>
        (byteElems te (at_ + elemOffset df db e)).any fun q => q.1 == elemIndex te (at_ + elemOffset df db e) (fmtBits df == 4 && e % 2 == 1)
    let (bs, st) := encodeRow df db dstS modes xs counts
    -- an odd last 4-bit element leaves the other nibble of its byte as it is
    let bs := if fmtBits df = 4 && !fmtIsBlock df && xs.length % 2 == 1 then
        match readPlace sl i l m.dst (off + bs.length - 1) 1 s with
        | (_, some old, _) => patch bs (bs.length - 1)
            [BitVec.ofNat 8 (fld bs (bs.length - 1) 1 % 16 + leNat old / 16 * 16)]
        | _ => bs
      else bs
    if m.dst.space = 2 then
      addTensorStats m.dst.addr st (writePlace sl i l m.dst off bs (overCopies m.dst.addr at_ bs.length s))
    else writePlace sl i l m.dst off bs s

/-- A MOVE executes (R66, R156, R157, R388). -/
def doMove (k : Nat) (sl : ImgSlot) (i : Image) (st : StepEnt) (m : MoveOp) (s : State) : State :=
  let l := st.lislet
  match readRows (fun off s => readPlace sl i l m.src off m.rowBytes s) m.rows m.srcStride s with
  | (s, none, _) => s
  | (s, some _, true) => ranPoisoned k s
  | (s, some rows, false) =>
    let index := s.ttu.runIdx
    let scaleOf (p : Place) (write : Bool) : Int :=
      if p.space = 2 then match i.tensors[p.addr]? with
        | some te => if write then writeScale s sl i (openCrossing s i) p.addr te else scaleNow s sl p.addr te
        | none => 0
      else 0
    let srcS := scaleOf m.src false
    let dstS := scaleOf m.dst true
    ranStep k (rows.zipIdx.foldl (fun s p => moveRow sl i l index m srcS dstS p.2 p.1 s) s)

/-- MOVE: the ferry of a logical islet copies or converts rows (R66). -/
def execMove (step : Nat) (s : State) : Host.Outcome State Fault Refusal :=
  match stepReady step s with
  | some (sl, i, st) => match st.op with
    | .move m => .next (doMove step sl i st m s)
    | _ => .next s
  | none => .next s

/-! ### MMA (R67, R68) -/

/-- The rounding of output q of a tile: its element of C in the store (R66, R67). -/
def tileRounding (sl : ImgSlot) (l index : Nat) (m : MmaOp) (q : Nat) : Rounding :=
  if !m.flags.testBit 2 then .rne
  else
    let fc := (fmtOfCode m.cFmt).getD .raw
    let b := m.cAddr + q / 32 * rowBytesOf fc 2 32 + elemOffset fc 2 (q % 32)
    srOf (stepCounter sl index) storeTensor (storeElem l b (fmtBits fc == 4 && q % 2 == 1)) m.purpose sl.seed

/-- C and the tile status written (R67, R136, R137, R153). -/
def writeTile (k : Nat) (sl : ImgSlot) (l : Nat) (m : MmaOp) (p : Partial) (s : State) : State :=
  let (c, rec, nf, fm, fn, fk) :=
    epilogue ((fmtOfCode m.cFmt).getD .raw) m.epiExp (tileRounding sl l s.ttu.runIdx m) p k
  let s := writeStore l m.statusAddr rec (writeStore l m.cAddr c s)
  if nf && s.isl.nfInForce then raise 0x0301 noSubject [(4, k), (2, l), (1, fm), (1, fn), (4, fk)] s else s

/-- The partial of an MMA's operands (R118 to R128, R148), with the state after their reads. -/
def readOperands (l : Nat) (m : MmaOp) (upset : Option Upset) (s : State) : State × Option Partial :=
  let fa := (fmtOfCode m.aFmt).getD .raw
  let fb := (fmtOfCode m.bFmt).getD .raw
  match readStore l m.aAddr (operandBytes fa (!m.flags.testBit 0) (mmaCover m)) s with
  | (s, some a, _) => match readStore l m.bAddr (operandBytes fb (m.flags.testBit 1) (mmaCover m)) s with
    | (s, some b, _) => (s, some (partialOf m a b upset))
    | (s, none, _) => (s, none)
  | (s, none, _) => (s, none)

/-- A residue mismatch is an islet fault: nothing of the step is written (R134). (DEDUCED, assumption log 25) -/
def residueFault (l : Nat) (s : State) : State := fence (physOf s l) 1 0x0302 s

/-- A failed tag check writes nothing and stops the unit (R68). (DEDUCED, assumption log 25) -/
def treeMismatch (k : Nat) (s : State) : State := stopAtTick (raise 0x0206 noSubject [] (ranStep k s))

/-- MMA FULL (R67). -/
def execMmaFull (step : Nat) (upset : Option Upset) (s : State) : Host.Outcome State Fault Refusal :=
  match stepReady step s with
  | some (sl, _, st) => match st.op with
    | .mma m =>
      if m.mode != 0 then .next s
      else match readOperands st.lislet m upset s with
        | (s, some p) =>
          if p.bad then .next (residueFault st.lislet s)
          else .next (ranStep step (writeTile step sl st.lislet m p s))
        | (s, none) => .next s
    | _ => .next s
  | none => .next s

/-- MMA PARTIAL (R67, R127): the accumulator block of a chunk range. -/
def execMmaPartial (step : Nat) (upset : Option Upset) (s : State) : Host.Outcome State Fault Refusal :=
  match stepReady step s with
  | some (_, _, st) => match st.op with
    | .mma m =>
      if m.mode != 1 then .next s
      else match readOperands st.lislet m upset s with
        | (s, some p) =>
          if p.bad then .next (residueFault st.lislet s)
          else .next (ranStep step
            (writeStore st.lislet m.accAddr (accBlock m.chunkFirst m.chunkCount (mmaTotal m) p) s))
        | (s, none) => .next s
    | _ => .next s
  | none => .next s

/-- MMA COMBINE (R67, R68): the parent of two sibling blocks, at C_ADDR. (DEDUCED, assumption log 25) -/
def execMmaCombine (step : Nat) (s : State) : Host.Outcome State Fault Refusal :=
  match stepReady step s with
  | some (_, _, st) => match st.op with
    | .mma m =>
      if m.mode != 2 then .next s
      else match readStore st.lislet m.accAddr accBytes s with
        | (s, some a, _) => match readStore st.lislet m.acc2Addr accBytes s with
          | (s, some b, _) =>
            let (f1, c1, t1, p1) := parseAcc a
            let (f2, c2, t2, p2) := parseAcc b
            if combineOk f1 c1 t1 f2 c2 t2 then
              .next (ranStep step (writeStore st.lislet m.cAddr (accBlock f1 (c1 + c2) t1 (combine p1 p2)) s))
            else .next (treeMismatch step s)
          | (s, none, _) => .next s
        | (s, none, _) => .next s
    | _ => .next s
  | none => .next s

/-- MMA FINAL (R67, R68): the epilogue of the root block. (DEDUCED, assumption log 25) -/
def execMmaFinal (step : Nat) (s : State) : Host.Outcome State Fault Refusal :=
  match stepReady step s with
  | some (sl, _, st) => match st.op with
    | .mma m =>
      if m.mode != 3 then .next s
      else match readStore st.lislet m.accAddr accBytes s with
        | (s, some a, _) =>
          let (f, c, t, p) := parseAcc a
          if f = 0 ∧ c = t then .next (ranStep step (writeTile step sl st.lislet m p s))
          else .next (treeMismatch step s)
        | (s, none, _) => .next s
    | _ => .next s
  | none => .next s

/-! ### KERNEL (R69) -/

/-- The ranges of a KERNEL step as its kernel meets them. -/
def kernelRanges (i : Image) (l : Nat) (o : KernelOp) : List KRange :=
  ((rangesAt i o.rangeFirst o.rangeCount).getD []).map fun r =>
    if r.place.space = 2 then
      match i.tensors[r.place.addr]? with
      | some te => ⟨.tensor r.place.addr r.place.offset, r.access, r.bytes, tensorFmt te, te.id⟩
      | none => ⟨.tensor r.place.addr r.place.offset, 0, 0, .raw, 0⟩
    else ⟨.store (if r.place.space = 1 then r.place.lislet else l) r.place.addr, r.access, r.bytes, .raw, storeTensor⟩

/-- The uniform instance at the start of a kernel (R176): g1 to g8 hold the arguments. -/
def startThread (args : List Nat) : LaneThread :=
  { g := 0 :: (args.map (BitVec.ofNat 32)) ++ List.replicate (31 - args.length) 0
    p := true :: List.replicate 7 false, pc := 0 }

/-- KERNEL: the kernel starts on the lane engine of its logical islet (R69, R176). -/
def execKernel (step : Nat) (s : State) : Host.Outcome State Fault Refusal :=
  match stepReady step s with
  | some (sl, i, st) => match st.op with
    | .kernel o =>
      let k : LaneKernel :=
        { code := (i.kernels[o.kernel]?).elim [] (·.code), ranges := kernelRanges i st.lislet o, uni := startThread o.args
          islet := physOf s st.lislet, step := step, mixStep := stepCounter sl s.ttu.runIdx, seed := sl.seed
          context := sl.context, lislet := st.lislet }
      .next { s with lnc := { s.lnc with steps := s.lnc.steps ++ [(st.lislet, k)] } }
    | _ => .next s
  | none => .next s

/-! ### EXCH (R70, R385) -/

/-- The bytes of elements [a, a + n) of a tensor, in element order. -/
def readElems (sl : ImgSlot) (te : TensorEnt) (a n : Nat) (s : State) : State × List Byte × Bool :=
  (elemSpans te a n).foldl (fun acc p =>
    let (s, bs, q) := acc
    let (s, b, q') := readMem whoExch (regionBase sl te.region + p.1) (p.2 - p.1) s
    (s, bs ++ b, q || q')) (s, [], false)

/-- Elements [a, a + n) of a tensor are about to be written (R72). -/
def overElems (t : Nat) (te : TensorEnt) (a n : Nat) (s : State) : State :=
  (elemSpans te a n).foldl (fun s p => overCopies t (p.1 - te.offset) (p.2 - p.1) s) s

/-- Bytes written over elements [a, a + n) of a tensor, in element order. -/
def writeElems (sl : ImgSlot) (te : TensorEnt) (a n : Nat) (bs : List Byte) (s : State) : State :=
  ((elemSpans te a n).foldl (fun (acc : State × List Byte) p =>
    (writeMem whoExch (regionBase sl te.region + p.1) (acc.2.take (p.2 - p.1)) acc.1, acc.2.drop (p.2 - p.1)))
    (s, bs)).1

/-- The codes of elements [a, a + n) of a tensor that is not of a block format, from the bytes of their rows. -/
def codesOf (te : TensorEnt) (a n : Nat) (bs : List Byte) : List Nat :=
  let f := tensorFmt te
  ((elemRows te a n).foldl (fun (acc : List Nat × List Byte) r =>
    let cs := (rowCodes f 0 (acc.2.take (r.hi - r.lo))).map (·.1)
    (acc.1 ++ if fmtBits f = 4 then (cs.drop (r.first % 2)).take r.count else cs, acc.2.drop (r.hi - r.lo))) ([], bs)).1

/-- Codes put over elements [a, a + n), whose rows hold the bytes `old`: of 4-bit elements the other nibbles of the bytes stay. -/
def overCodes (te : TensorEnt) (a n : Nat) (old : List Byte) (cs : List Nat) : List Byte :=
  let f := tensorFmt te
  ((elemRows te a n).foldl (fun (acc : List Byte × List Byte × List Nat) r =>
    let (out, old, cs) := acc
    let here := cs.take r.count
    let bs :=
      if fmtBits f = 4 then
        let all := (rowCodes f 0 (old.take (r.hi - r.lo))).map (·.1)
        packNibbles (all.take (r.first % 2) ++ here ++ all.drop (r.first % 2 + here.length))
      else here.flatMap (toLE (fmtBits f / 8))
    (out ++ bs, old.drop (r.hi - r.lo), cs.drop r.count)) ([], old, cs)).1

/-- The bytes of elements [a, a + n) of a tensor as memory holds them. -/
def peekElems (sl : ImgSlot) (te : TensorEnt) (a n : Nat) (s : State) : List Byte :=
  (elemSpans te a n).flatMap fun p => peek s (regionBase sl te.region + p.1) (p.2 - p.1)

/-- The bytes that ALLGATHER and BROADCAST put over DST from the bytes of whole SRC parts (R70): blocks as they are, other elements by
their codes. -/
def copiedElems (sl : ImgSlot) (ts td : TensorEnt) (x : ExchOp) (sa dn : Nat) (parts : List (List Byte)) (s : State) : List Byte :=
  if fmtIsBlock (tensorFmt td) then parts.flatten
  else overCodes td x.dstOffset dn (peekElems sl td x.dstOffset dn s) (parts.flatMap (codesOf ts sa x.elems))

/-- The reduction over ranks in rank order (R70). -/
def reduceRanks (redop : Nat) (vs : List Num) : Num :=
  if redop = 0 then ofA48 (treeFold add48 0 (vs.map toA48))
  else if redop = 1 then treeFold numMax .nan vs
  else treeFold numMin .nan vs

/-- The contributions of every rank, in rank order; none where one is missing. -/
def rankParts (ranks own : Nat) (mine : Int × List Byte) (others : List (Nat × Int × List Byte)) :
    Option (List (Int × List Byte)) :=
  (List.range ranks).mapM fun r => if r = own then some mine else assoc r others

/-- A log entry is added (R385): the DST bytes, where they fit the SWAP region above 4 MiB × L. The model's entry keeps
the counts of the step too, so that its replay presents the same (R56; assumption log 22). (DEDUCED, assumption log 22) -/
def logExch (sl : ImgSlot) (i : Image) (step : Nat) (bs : List Byte) (st : Stats) (s : State) : State :=
  if s.xng.role == .solo || s.ttu.logFull then s
  else match boundKind sl 1 with
    | none => s
    | some (base, size) =>
      let at_ := if s.ttu.exNext = 0 then storeSize * i.lislets else s.ttu.exNext
      if at_ + bs.length ≤ size then
        let s := writeMem whoExch (base + at_) bs s
        { s with ttu := { s.ttu with
            exLog := s.ttu.exLog ++ [(s.ttu.runIdx, step, at_, bs.length, st)], exNext := at_ + bs.length } }
      else raise 0x0B0E noSubject [] { s with ttu := { s.ttu with logFull := true } }

/-- The log entry of a step of the index that executes. (DEDUCED, assumption log 22) -/
def exLogged (s : State) (step : Nat) : Option (Nat × Nat × Stats) :=
  (s.ttu.exLog.find? fun e => e.1 == s.ttu.runIdx && e.2.1 == step).map fun e => e.2.2

/-- DST takes its bytes, with the statistics that they present. -/
def finishExch (k : Nat) (sl : ImgSlot) (i : Image) (x : ExchOp) (td : TensorEnt) (dn : Nat) (bs : List Byte)
    (st : State → Stats) (s : State) : State :=
  let s := writeElems sl td x.dstOffset dn bs (overElems x.dst td x.dstOffset dn s)
  let counts := st s
  ranStep k (logExch sl i k bs counts (addTensorStats x.dst counts s))

/-- The statistics of elements [a, a + n) of a tensor as they stand, at scale 2^S (R116). (DEDUCED, assumption log 19) -/
def elemStats (sl : ImgSlot) (te : TensorEnt) (S : Int) (a n : Nat) (s : State) : Stats :=
  let f := tensorFmt te
  let bs := peekElems sl te a n s
  let vs := if fmtIsBlock f then decodeRow f te.block S bs
    else (codesOf te a n bs).map fun c => scaleNum S (decodeElem f c)
  vs.foldl (fun st v => countElem st v false) {}

/-- An EXCH executes (R70, R387, R388). -/
def doExch (k : Nat) (sl : ImgSlot) (i : Image) (x : ExchOp) (others : List (Nat × Int × List Byte)) (s : State) : State :=
  match i.tensors[x.src]?, i.tensors[x.dst]? with
  | some ts, some td =>
    let R := i.ranks
    let own := if R = 1 then 0 else s.xng.rank.toNat
    let f := tensorFmt td
    let dn := x.elems * (if x.op = 2 then R else 1)
    let sa := x.srcOffset + (if x.op = 1 then own * x.elems else 0)
    match (if s.ttu.replay then exLogged s k else none) with
    | some (at_, n, st) =>
      let base := (boundKind sl 1).elim 0 (·.1)
      match readMem whoExch (base + at_) n s with
      | (s, _, true) => ranPoisoned k s
      | (s, bs, false) => ranStep k (addTensorStats x.dst st (writeElems sl td x.dstOffset dn bs (overElems x.dst td x.dstOffset dn s)))
    | none =>
      let S := scaleNow s sl x.src ts
      match readElems sl ts (if x.op = 1 then x.srcOffset else sa) (x.elems * (if x.op = 1 then R else 1)) s with
      | (s, _, true) => ranPoisoned k s
      | (s, _, false) =>
        let (s, mine, _) := readElems sl ts sa x.elems s
        let copy (parts : List (List Byte)) : State :=
          finishExch k sl i x td dn (copiedElems sl ts td x sa dn (parts.map (padTo mine.length)) s)
            (fun s => elemStats sl td (scaleNow s sl x.dst td) x.dstOffset dn s) s
        if x.op = 3 then
          match (if own = x.root then some mine else (assoc x.root others).map (·.2)) with
          | some bs => copy [bs]
          | none => s
        else match rankParts R own (S, mine) others with
          | none => s
          | some parts =>
            if x.op = 2 then copy (parts.map (·.2))
            else
              let dS := writeScale s sl i (openCrossing s i) x.dst td
              let vals := parts.map fun p =>
                (codesOf ts sa x.elems (padTo mine.length p.2)).map fun c => scaleNum p.1 (decodeElem f c)
              let outs := (List.range x.elems).map fun e => reduceRanks x.redop (vals.map fun v => v.getD e .nan)
              let enc := outs.map fun v => (v, encodeElem f .rne (scaleNum (-dS) v))
              finishExch k sl i x td dn (overCodes td x.dstOffset dn (peekElems sl td x.dstOffset dn s) (enc.map (·.2.1)))
                (fun _ => enc.foldl (fun st p => countElem st p.1 p.2.2) {}) s
  | _, _ => s

/-- An EXCH command of one operation. -/
def exchStep (op step : Nat) (others : List (Nat × Int × List Byte)) (s : State) : State :=
  match stepReady step s with
  | some (sl, i, st) => match st.op with
    | .exch x => if x.op = op then doExch step sl i x others s else s
    | _ => s
  | none => s

/-- ALLREDUCE (R70). -/
def execAllreduce (step : Nat) (others : List (Nat × Int × List Byte)) (s : State) : Host.Outcome State Fault Refusal :=
  .next (exchStep 0 step others s)

/-- REDUCE_SCATTER (R70). -/
def execReduceScatter (step : Nat) (others : List (Nat × Int × List Byte)) (s : State) : Host.Outcome State Fault Refusal :=
  .next (exchStep 1 step others s)

/-- ALLGATHER (R70). -/
def execAllgather (step : Nat) (others : List (Nat × Int × List Byte)) (s : State) : Host.Outcome State Fault Refusal :=
  .next (exchStep 2 step others s)

/-- BROADCAST (R70). -/
def execBroadcast (step : Nat) (others : List (Nat × Int × List Byte)) (s : State) : Host.Outcome State Fault Refusal :=
  .next (exchStep 3 step others s)

/-! ### SNAP (R71, R210, R214, R215) -/

/-- A crossing holds a SHIP into a staging region. -/
def shipsInto (i : Image) (region : Nat) (pos : Nat) : Bool :=
  (stepsOf (i.crossings.getD pos ⟨0, 0, 0, 0⟩)).any fun k => match i.steps[k]? with
    | some st => match st.op with
      | .snap o => o.mode == 0 && o.staging == region
      | _ => false
    | none => false

/-- A manifest entry (Table 7.5). -/
def manifestEntry (sl : ImgSlot) (i : Image) (r : RangeEnt) (stage : Nat) (data : List Byte) (s : State) : List Byte :=
  match i.tensors[r.place.addr]? with
  | some te =>
    let sc := if fmtIsScaled (tensorFmt te) then leNat (peek s (statsAddr sl r.place.addr + 64) 4) else 0x3F800000
    toLE 4 te.id ++ toLE 1 te.fmt ++ toLE 1 te.block ++ zeros 2 ++ toLE 8 r.place.offset ++ toLE 8 r.bytes
      ++ toLE 8 stage ++ toLE 4 sc ++ zeros 28 ++ sha3 data
  | none => zeros 128

/-- A manifest header with its digest (Table 7.4). -/
def manifestHeader (seq index step entries dataOff dataBytes : Nat) (digest : List Byte) (ents : List Byte) : List Byte :=
  let h := toLE 4 0x50414E53 ++ toLE 2 1 ++ zeros 2 ++ toLE 8 seq ++ toLE 8 index ++ toLE 8 step ++ toLE 4 entries
    ++ toLE 4 dataOff ++ toLE 8 dataBytes ++ padTo 64 digest ++ zeros 144
  patch h 128 (sha3 (h ++ ents))

/-- An earlier snapshot of these staging bytes, of either image, is released and not yet read to its end (R213).
(DEDUCED, assumption log 118) -/
def snapBusy (base n : Nat) (s : State) : Bool :=
  (s.ttu.released.any fun c => overlaps c.stage c.total base n) || match s.ttu.shipping with
    | some sh => overlaps sh.snap.stage sh.snap.total base n && !sh.manifest
    | none => false

/-- SNAP SHIP executes (R71, R210). A staging region whose earlier snapshot is still being read for shipment waits (R213).
(DEDUCED, assumption log 118) -/
def doShip (k : Nat) (sl : ImgSlot) (i : Image) (o : SnapOp) (s : State) : State :=
  let rs := (rangesAt i o.rangeFirst o.rangeCount).getD []
  let dataOff := snapDataOff rs.length
  let (offs, end_) := snapOffsets dataOff rs
  let base := regionBase sl o.staging
  if snapBusy base end_ s then s
  else
    let read := rs.foldl (fun (acc : State × List (List Byte) × Bool) r =>
      let (s, ds, p) := acc
      match i.tensors[r.place.addr]? with
      | some te =>
        let (s, bs, q) := readMem whoSnap (tensorBase sl te + r.place.offset) r.bytes s
        (s, ds ++ [bs], p || q)
      | none => (s, ds ++ [[]], p)) (s, [], false)
    let (s, datas, poison) := read
    if poison then ranPoisoned k s
    else
      let seq := countIndices i (shipsInto i o.staging) s.ttu.runIdx
      let ents := ((rs.zip offs).zip datas).flatMap fun p => manifestEntry sl i p.1.1 p.1.2 p.2 s
      let hdr := manifestHeader seq s.ttu.runIdx (stepCounter sl s.ttu.runIdx) rs.length dataOff (end_ - dataOff) i.digest ents
      let s := writeMem whoSnap base (hdr ++ ents) s
      let s := (offs.zip datas).foldl (fun s p => writeMem whoSnap (base + p.1) p.2 s) s
      let snap : Snapshot :=
        { slot := s.ttu.active, region := o.staging, seq := seq, index := s.ttu.runIdx, stage := base
          manifest := 256 + 128 * rs.length, dataOff := dataOff, total := end_ }
      let keep := s.ttu.captured.filter fun c => !(c.slot == snap.slot && c.region == snap.region && c.index == snap.index)
      ranStep k { s with ttu := { s.ttu with captured := keep ++ [snap] } }

/-- One row of a policy copy (R214, R215): its bytes at the pitch, its blocks and NaN blocks, and its amax. -/
def policyRow (n pitch : Nat) (xs : List Num) : List Byte × Nat × Nat × Nat :=
  let pad := xs ++ List.replicate ((n - xs.length % n) % n) (.fin false 0 0)
  let blocks := (chunks n pad).map fun b => encodeBlock .b4 0 (b.map fun _ => .rne) b
  (padTo pitch (blocks.flatMap fun b => packNibbles b.1 ++ [BitVec.ofNat 8 b.2.1]), blocks.length,
    (blocks.filter fun b => b.2.1 == 0xFF).length, xs.foldl (fun a v => max a (amaxBits v)) 0)

/-- A row of a short group: zero blocks with scale byte 0x00 (R214). -/
def policyZeroRow (n pitch d : Nat) : List Byte × Nat × Nat × Nat := policyRow n pitch (List.replicate d (.fin false 0 0))

/-- The bytes of a row group with its counts; the rows' bytes are read. -/
def policyGroup (sl : ImgSlot) (i : Image) (n : Nat) (g : PolicyGroup) (s : State) :
    State × (List Byte × Nat × Nat × Nat) × Bool :=
  match i.tensors[g.tensor]? with
  | none => (s, ([], 0, 0, 0), false)
  | some te =>
    let pitch := policyPitch te.dim0 n
    let (s, rows, poison) := g.rows.foldl (fun (acc : State × List (List Byte × Nat × Nat × Nat) × Bool) r =>
      let (s, rs, p) := acc
      let (s, bs, q) := readMem whoSnap (tensorBase sl te + rowOffset te r) (tensorRow te) s
      (s, rs ++ [policyRow n pitch (decodeRow (tensorFmt te) 0 0 bs)], p || q)) (s, [], false)
    let rows := rows ++ List.replicate (32 - rows.length) (policyZeroRow n pitch te.dim0)
    (s, rows.foldl (fun a r => (a.1 ++ r.1, a.2.1 + r.2.1, a.2.2.1 + r.2.2.1, max a.2.2.2 r.2.2.2)) ([], 0, 0, 0), poison)

/-- SNAP POLICY executes (R71, R214, R215). -/
def doPolicy (k : Nat) (sl : ImgSlot) (i : Image) (o : SnapOp) (s : State) : State :=
  let rs := (rangesAt i o.rangeFirst o.rangeCount).getD []
  let n := blockElems o.block
  let groups := policyGroups i o rs 0 4096 []
  let (s, outs, poison) := groups.foldl (fun (acc : State × List (PolicyGroup × List Byte × Nat × Nat × Nat) × Bool) g =>
    let (s, os, p) := acc
    let (s, r, q) := policyGroup sl i n g s
    (s, os ++ [(g, r)], p || q)) (s, [], false)
  if poison then ranPoisoned k s
  else
    let base := regionBase sl o.staging
    let sum (f : Nat × Nat × Nat → Nat) : Nat := outs.foldl (fun a g => a + f g.2.2) 0
    let bytes := outs.foldl (fun a g => a + g.2.1.length) 0
    let report := toLE 8 s.ttu.runIdx ++ toLE 8 (stepCounter sl s.ttu.runIdx) ++ toLE 8 (sum fun x => x.1)
      ++ toLE 8 (sum fun x => x.2.1) ++ toLE 8 outs.length ++ toLE 8 bytes
      ++ toLE 4 (outs.foldl (fun a g => max a g.2.2.2.2) 0) ++ zeros 12
    let s := outs.foldl (fun s g =>
      writeStore g.1.lislet g.1.addr g.2.1 (writeMem whoSnap (base + g.1.stage) g.2.1 s)) s
    ranStep k (writeMem whoSnap base report s)

/-- SNAP SHIP (R71). -/
def execSnapShip (step : Nat) (s : State) : Host.Outcome State Fault Refusal :=
  match stepReady step s with
  | some (sl, i, st) => match st.op with
    | .snap o => if o.mode = 0 then .next (doShip step sl i o s) else .next s
    | _ => .next s
  | none => .next s

/-- SNAP POLICY (R71). -/
def execSnapPolicy (step : Nat) (s : State) : Host.Outcome State Fault Refusal :=
  match stepReady step s with
  | some (sl, i, st) => match st.op with
    | .snap o => if o.mode = 1 then .next (doPolicy step sl i o s) else .next s
    | _ => .next s
  | none => .next s

end Sys2Proof.Machine
end

