-- ==== Sys2Proof/Machine/Admission.lean ====
section
/-! DEFINITION. Admission of an image (R55, R75 to R85, R211, R216, R266): the checks of Table 2.14 in the order of their
codes. A check answers the ENTRY of its first failure. -/

namespace Sys2Proof.Machine

/-- ENTRY of a check that concerns no entry (Table 2.17). -/
def noEntry : Nat := 0xFFFFFFFF

/-- The index of the first entry that fails. -/
def firstFail {α : Type} (ok : Nat → α → Bool) (l : List α) : Option Nat :=
  (l.zipIdx.find? fun p => !ok p.2 p.1).map (·.2)

/-- A failure of the whole check, where its condition does not hold. -/
def need (ok : Bool) : Option Nat := if ok then none else some noEntry

/-- The first failure of several. -/
def orFail (a : Option Nat) (b : Option Nat) : Option Nat :=
  match a with
  | some e => some e
  | none => b

/-! ### 0x01 to 0x04 -/

/-- 0x01 HEADER (R75, Table 2.4). An image too short for its header fails here. (DESIGN CHOICE, assumption log 142) -/
def headerOk (h : List Byte) (n : Nat) : Bool :=
  fld h 0 4 == 0x4C435343 && fld h 8 4 == 256 && fld h 112 8 == n && decide (256 ≤ n)
    && decide (fld h 6 2 < 2) && zeroAt h 52 4 && zeroAt h 120 8 && zeroAt h 224 32

/-- 0x02 VERSION (R89). -/
def versionOk (h : List Byte) : Bool := fld h 4 1 == 1 && fld h 5 1 == 0

/-- 0x03 DIGEST (R75): the digest with its own bytes taken as zero. -/
def digestOk (bs : List Byte) : Bool := sha3 (patch bs 128 (zeros 64)) == slice bs 128 64

/-- The extents of the seven tables (R75): offset and bytes, those without entries left out. -/
def tableExtents (bs : List Byte) : List (Nat × Nat) :=
  let k := tableOf (fun e => fld e 0 8 + fld e 8 4) bs (fld bs 72 8) (fld bs 40 4) 16
  ([(fld bs 56 8, 32 * fld bs 32 4), (fld bs 64 8, 64 * fld bs 36 4), (fld bs 72 8, 16 * fld bs 40 4),
    (fld bs 80 8, 32 * fld bs 44 4), (fld bs 88 8, 16 * fld bs 16 4), (fld bs 96 8, 64 * fld bs 48 4),
    (fld bs 104 8, k.foldl max 0)]).filter fun p => p.2 != 0

/-- No two of the extents overlap. -/
def disjointAll : List (Nat × Nat) → Bool
  | [] => true
  | p :: r => (r.all fun q => !overlaps p.1 p.2 q.1 q.2) && disjointAll r

/-- 0x04 LAYOUT (R75). -/
def layoutOk (bs : List Byte) : Bool :=
  let es := tableExtents bs
  (es.all fun p => p.1 % 8 == 0 && decide (256 ≤ p.1) && decide (p.1 + p.2 ≤ bs.length)) && disjointAll es

/-! ### 0x05 LIMITS (Table 2.1, R63) -/

/-- 0x05 LIMITS: the limits of the whole image first, with ENTRY 0xFFFF_FFFF, then those of tensors, kernels and crossings.
(DESIGN CHOICE, assumption log 156) -/
def limitsFail (i : Image) : Option Nat :=
  let C := i.crossings.length
  let ok := decide (1 ≤ i.lislets) && decide (i.lislets ≤ 4096) && decide (1 ≤ i.ranks) && decide (i.ranks ≤ 1024)
    && decide (1 ≤ C) && decide (C ≤ 2 ^ 24) && decide (i.steps.length ≤ 2 ^ 26) && decide (2 ≤ i.regions.length)
    && decide (i.regions.length ≤ 256) && decide (i.tensors.length ≤ 65535) && decide (i.ranges.length ≤ 2 ^ 24)
    && decide (i.kernels.length ≤ 1024) && decide ((i.kernels.foldl (fun a k => a + k.len) 0) ≤ 2 ^ 20)
    && decide (i.bytes ≤ 2 ^ 33)
    && (if i.loop then decide (i.loopFrom < C) else i.loopFrom == 0 && i.iterCount == 0)
  orFail (need ok)
    (orFail (firstFail (fun _ t => decide (1 ≤ tensorElems t) && decide (tensorElems t ≤ 2 ^ 48)) i.tensors)
      (orFail (firstFail (fun _ (k : KernelEnt) => decide (4 ≤ k.len) && decide (k.len ≤ 65536)) i.kernels)
        (firstFail (fun _ x => decide (x.count ≤ 2 ^ 20) && (isMaint x || (decide (1 ≤ x.phases) && decide (x.phases ≤ 16))))
          i.crossings)))

/-! ### 0x06 BINDING and 0x07 REGIONS (R266, R76) -/

/-- The regions that a step writes through a tensor: a MOVE or EXCH destination, a kernel range with write access (R266). -/
def writtenRegions (i : Image) : List Nat :=
  let ofT (t : Nat) : List Nat := (i.tensors[t]?).elim [] fun te => [te.region]
  i.steps.flatMap fun st => match st.op with
    | .move m => if m.dst.space = 2 then ofT m.dst.addr else []
    | .exch x => ofT x.dst
    | .kernel o => ((rangesAt i o.rangeFirst o.rangeCount).getD []).flatMap fun r =>
        if r.place.space = 2 && r.access.testBit 1 then ofT r.place.addr else []
    | _ => []

/-- A region descriptor is pinned module memory with the access asked (R266). -/
def bindable (r : RegionD) (write : Bool) : Bool :=
  (r.kind == 0 || r.kind == 2) && r.flags.testBit 0 && r.access.testBit 0 && (!write || r.access.testBit 1)

/-- The held region with exactly this BASE. -/
def heldAt (s : State) (c base : Nat) : Option RegionD := (heldRegions s c).find? fun r => r.base == base

/-- The held region that a run of bytes lies in, pinned and readable. -/
def holderOf (s : State) (c a n : Nat) : Option RegionD :=
  (heldRegions s c).find? fun r => within a n r.base r.bytes && bindable r false

/-- The bound regions, base and bytes, as far as each entry names a held region. -/
def boundRegions (s : State) (c : Nat) (bases : List Nat) : List (Nat × Nat) :=
  bases.map fun b => (b, ((heldAt s c b).map (·.bytes)).getD 0)

/-- 0x06 BINDING (R266): each entry in order, then a list that is too long, the image's holder, and what overlaps.
(DESIGN CHOICE, assumption log 156) -/
def bindingFail (s : State) (c addr n : Nat) (i : Image) (bases : List Nat) : Option Nat :=
  let wr := writtenRegions i
  let one (k : Nat) (r : RegionEnt) : Bool :=
    match bases[k]? with
    | none => false
    | some b => match heldAt s c b with
      | none => false
      | some d => bindable d (r.kind == 1 || r.kind == 2 || r.kind == 3 || wr.contains k)
  let bound := boundRegions s c bases
  let apart (k : Nat) (p : Nat × Nat) : Bool :=
    !overlaps p.1 p.2 addr n && (bound.take k).all fun q => !overlaps p.1 p.2 q.1 q.2
  orFail (firstFail one i.regions)
    (orFail (need (bases.length == i.regions.length))
      (orFail (need (holderOf s c addr n).isSome) (firstFail apart bound)))

/-- 0x07 REGIONS (R76): `raw` holds the entries' bytes. -/
def regionsFail (i : Image) (raw : List (List Byte)) (bound : List (Nat × Nat)) : Option Nat :=
  let one (k : Nat) (r : RegionEnt) : Bool :=
    let e := raw.getD k []
    let earlier := (i.regions.take k).any fun q => q.kind == r.kind
    decide (r.kind ≤ 3) && decide (r.home ≤ 5) && decide (r.flags < 2) && zeroAt e 4 4 && zeroAt e 16 16
      && r.bytes % 2 ^ 21 == 0 && decide (r.bytes ≤ (bound.getD k (0, 0)).2)
      && (r.kind != 1 || (!earlier && decide (storeSize * i.lislets ≤ r.bytes)))
      && (r.kind != 2 || (!earlier && decide (512 * i.tensors.length ≤ r.bytes)))
  orFail (firstFail one i.regions)
    (need ((i.regions.any fun r => r.kind == 1) && (i.regions.any fun r => r.kind == 2)))

/-! ### 0x08 to 0x0A -/

/-- 0x08 TENSORS (R64, R77). -/
def tensorsFail (i : Image) (raw : List (List Byte)) : Option Nat :=
  firstFail (fun k t =>
    let e := raw.getD k []
    match fmtOfCode t.fmt with
    | none => false
    | some f =>
      f != .raw && decide (t.id < 0xFFFFFF) && zeroAt e 58 6 && decide (t.flags < 4) && decide (t.hist ≤ 64)
        && decide (t.block ≤ 4) && ((t.block != 0) == fmtIsBlock f)
        && (!fmtIsBlock f || t.dim0 % blockElems t.block == 0)
        && (!t.flags.testBit 1 || f == .w16)
        && !((i.tensors.take k).any fun q => q.id == t.id)
        && decide (tensorRow t ≤ t.stride1) && decide (t.dim1 * t.stride1 ≤ t.stride2)
        && decide (t.dim2 * t.stride2 ≤ t.stride3)
        && (match i.regions[t.region]? with
          | some r => r.kind == 0 && decide (t.offset + tensorExtent t ≤ r.bytes)
          | none => false)) i.tensors

/-- 0x09 KERNELS (R79, R191). -/
def kernelsFail (i : Image) (raw : List (List Byte)) : Option Nat :=
  firstFail (fun k (e : KernelEnt) => zeroAt (raw.getD k []) 12 4 && e.len % 4 == 0 && codeOk false e.code) i.kernels

/-- The region that a step writes other than through a kernel's ranges (R76, R266). -/
def stepRegion (i : Image) (st : StepEnt) : Option Nat :=
  match st.op with
  | .move m => if m.dst.space = 2 then (i.tensors[m.dst.addr]?).map (·.region) else none
  | .exch x => (i.tensors[x.dst]?).map (·.region)
  | .snap o => some o.staging
  | _ => none

/-- A region is READ_ONLY (Table 2.5). -/
def readOnly (i : Image) (r : Nat) : Bool := (i.regions[r]?).elim false fun e => e.flags.testBit 0

/-- 0x0A RANGES (R78): the range table, then the writes that steps make into READ_ONLY regions (Table 2.5).
(DEDUCED, assumption log 14, 17) -/
def rangesFail (i : Image) (raw : List (List Byte)) : Option Nat :=
  orFail (firstFail (fun k r =>
    zeroAt (raw.getD k []) 24 8 && decide (1 ≤ r.access) && decide (r.access ≤ 3)
      && (match resolvePlace i 0 r.place with
        | some (_, lo, hi, t) => decide (lo + r.bytes ≤ hi)
            && !(r.access.testBit 1 && (t.bind fun t => i.tensors[t]?).elim false fun te => readOnly i te.region)
        | none => false)) i.ranges)
    (firstFail (fun _ st => !((stepRegion i st).elim false (readOnly i))) i.steps)

/-! ### 0x0B STEPS (R58 to R71, R80, R81, R120, R148 to R151, R204, R211, R216) -/

/-- A MOVE is well formed (R66, R204). ROUND and PURPOSE count as used by every MOVE. (DEDUCED, assumption log 17)
(DESIGN CHOICE, assumption log 143) -/
def moveOk (i : Image) (l : Nat) (m : MoveOp) : Bool :=
  match fmtOfCode m.srcFmt, fmtOfCode m.dstFmt, resolvePlace i l m.src, resolvePlace i l m.dst with
  | some sf, some df, some (_, sl, sh, st), some (_, dl, dh, dt) =>
    let raw := m.srcFmt == 0 && m.dstFmt == 0
    let own (t : Option Nat) (f : Nat) : Bool := raw || (t.bind fun t => i.tensors[t]?).elim true fun te => te.fmt == f
    let storeBlk := (fmtIsBlock sf && st.isNone) || (fmtIsBlock df && dt.isNone)
    let n := if raw then some m.rowBytes else elemsOfBytes sf (moveBlock i m m.src) m.rowBytes
    let span (lo n stride : Nat) : Nat := if n = 0 ∨ m.rows = 0 then lo else lo + (m.rows - 1) * stride + n
    decide (m.round ≤ 1) && ((m.srcFmt == 0) == (m.dstFmt == 0)) && decide (m.storeBlock ≤ 4)
      && ((m.storeBlock != 0) == storeBlk) && own st m.srcFmt && own dt m.dstFmt
      && n.isSome && (raw || !fmtIsBlock df || n.getD 0 % blockElems (moveBlock i m m.dst) == 0)
      && (raw || m.round == 1 || !((dt.bind fun t => i.tensors[t]?).elim false fun te => te.flags.testBit 1))
      && decide (span sl m.rowBytes m.srcStride ≤ sh) && decide (span dl (moveDstRow i m) m.dstStride ≤ dh)
  | _, _, _, _ => false

/-- One operand of an MMA (R149): block formats k-major in whole blocks of 32, at the end of K too (DESIGN CHOICE, assumption log 160);
k-major E2M1 over an even number of k. -/
def operandOk (f : Fmt) (kMajor : Bool) (cover : Nat) : Bool :=
  (!fmtIsBlock f || (kMajor && cover % 32 == 0)) && (f != .e2m1 || !kMajor || cover % 2 == 0)

/-- An MMA is well formed (R64, R67, R120, R149, R151): its fields, those that its mode leaves unused, its ranges. PURPOSE need not be zero
without the stochastic flag (DESIGN CHOICE, assumption log 157). (DEDUCED, assumption log 14) -/
def mmaOk (l : Nat) (m : MmaOp) : Bool :=
  let fa := (fmtOfCode m.aFmt).bind fmtClass
  let fb := (fmtOfCode m.bFmt).bind fmtClass
  let operands := fa.isSome && fa == fb && decide (1 ≤ m.k)
    && operandOk ((fmtOfCode m.aFmt).getD .raw) (!m.flags.testBit 0) (mmaCover m)
    && operandOk ((fmtOfCode m.bFmt).getD .raw) (m.flags.testBit 1) (mmaCover m)
  let cOk := match fmtOfCode m.cFmt with
    | some f => f != .raw && f != .int8
    | none => false
  let noOperands := m.aAddr == 0 && m.bAddr == 0 && m.k == 0 && m.aFmt == 0 && m.bFmt == 0
    && !m.flags.testBit 0 && !m.flags.testBit 1
  let noChunks := m.chunkFirst == 0 && m.chunkCount == 0
  let noTile := m.cFmt == 0 && m.epiExp == 0 && m.purpose == 0 && m.statusAddr == 0 && !m.flags.testBit 2
  let aligned := (mmaAccesses l m).all fun a => a.lo % 64 == 0 && decide (a.hi ≤ storeSize)
  aligned && (match m.mode with
    | 0 => operands && cOk && noChunks && m.accAddr == 0 && m.acc2Addr == 0
    | 1 => operands && noTile && m.acc2Addr == 0 && m.cAddr == 0
    | 2 => noOperands && noChunks && noTile && !overlaps m.cAddr accBytes m.accAddr accBytes
        && !overlaps m.cAddr accBytes m.acc2Addr accBytes
    | 3 => noOperands && noChunks && cOk && m.acc2Addr == 0
    | _ => false)

/-- An EXCH is well formed (R70, R204). -/
def exchOk (i : Image) (x : ExchOp) : Bool :=
  match i.tensors[x.src]?, i.tensors[x.dst]?, fmtOfCode x.fmt with
  | some ts, some td, some f =>
    let n := if fmtIsBlock f then blockElems ts.block else 1
    let sn := x.elems * (if x.op = 1 then i.ranks else 1)
    let dn := x.elems * (if x.op = 2 then i.ranks else 1)
    ts.fmt == x.fmt && td.fmt == x.fmt && ts.block == td.block && decide (x.op ≤ 3)
      && (if x.op ≤ 1 then decide (x.redop ≤ 2)
            && (if x.redop = 0 then (f == .f32 || f == .f16 || f == .w16 || f == .a48) && !td.flags.testBit 1
                else !fmtIsBlock f)
          else x.redop == 0 && x.elems % n == 0 && x.srcOffset % n == 0 && x.dstOffset % n == 0)
      && (if x.op = 3 then decide (x.root < i.ranks) else x.root == 0)
      && decide (x.srcOffset + sn ≤ tensorElems ts) && decide (x.dstOffset + dn ≤ tensorElems td)
  | _, _, _ => false

/-- A policy range covers whole rows (R216): it starts at a row's first byte and ends at a row's last. -/
def policyRange (i : Image) (r : RangeEnt) : Bool :=
  match i.tensors[r.place.addr]? with
  | some te =>
    let f := tensorFmt te
    let rows := wholeRows te r.place.offset r.bytes
    (f == .f32 || f == .f16 || f == .w16)
      && (match rows.head?, rows.getLast? with
        | some a, some b => rowOffset te a == r.place.offset && rowOffset te b + tensorRow te == r.place.offset + r.bytes
        | _, _ => false)
  | none => false

/-- A SNAP is well formed (R71, R210, R211, R216). -/
def snapOk (i : Image) (st : StepEnt) (o : SnapOp) : Bool :=
  match rangesAt i o.rangeFirst o.rangeCount, i.regions[o.staging]? with
  | some rs, some g =>
    st.phase == 0 && g.kind == 3 && (rs.all fun r => r.place.space == 2 && r.access == 1)
      && (if o.mode = 0 then
            o.block == 0 && o.lisletFirst == 0 && o.lisletCount == 0 && o.storeAddr == 0
              && decide ((snapOffsets (snapDataOff rs.length) rs).2 ≤ g.bytes)
          else if o.mode = 1 then
            let gs := policyGroups i o rs 0 4096 []
            decide (1 ≤ o.block) && decide (o.block ≤ 4) && o.lisletCount != 0
              && decide (o.lisletFirst + o.lisletCount ≤ i.lislets) && o.storeAddr % 64 == 0
              && (rs.all (policyRange i))
              && (gs.all fun p => decide (p.addr + groupBytes i o p ≤ storeSize)
                && decide (p.stage + groupBytes i o p ≤ g.bytes))
              && decide (4096 ≤ g.bytes)
          else false)
  | _, _ => false

/-- One step of a crossing (R80, R81): `first` is the index of the crossing's first step. -/
def stepOk (i : Image) (x : CrossingEnt) (k : Nat) (st : StepEnt) : Bool :=
  let wide := moduleWide st
  let dep (d : Nat) : Bool := d == 0 || (decide (d ≤ k - x.first) && (match i.steps[k - d]? with
    | some t => t.phase == st.phase && t.lislet == st.lislet
    | none => false))
  let key (t : StepEnt) : Nat := t.phase * 65536 + t.lislet
  let sorted := k == x.first || (match i.steps[k - 1]? with
    | some t => decide (key t ≤ key st)
    | none => false)
  st.reserved && decide (st.phase < x.phases) && sorted
    && (if wide then st.lislet == 0xFFFF && st.dep0 == 0 && st.dep1 == 0
        else decide (st.lislet < i.lislets) && dep st.dep0 && dep st.dep1)
    && (match st.op with
      | .move m => moveOk i st.lislet m
      | .mma m => mmaOk st.lislet m
      | .kernel o => decide (o.kernel < i.kernels.length) && (rangesAt i o.rangeFirst o.rangeCount).isSome
      | .exch e => exchOk i e
      | .snap o => snapOk i st o
      | .bad => false)

/-- The crossings cover the step table in order (R80), and a maintenance crossing is empty (R74). `raw` holds their bytes. -/
def crossingsOk : Nat → List (CrossingEnt × List Byte) → Nat → Option Nat
  | _, [], _ => none
  | k, (x, e) :: r, next =>
    if x.first == next && decide (x.flags < 4) && zeroAt e 10 6 && (!isMaint x || (x.phases == 0 && x.count == 0)) then
      crossingsOk (k + 1) r (next + x.count)
    else some k

/-- The positions of the table, and the loop body once more (R73, R211: across the loop wrap). -/
def walk (i : Image) : List Nat :=
  List.range i.crossings.length
    ++ (if i.loop then (List.range (i.crossings.length - i.loopFrom)).map (i.loopFrom + ·) else [])

/-- Two captures into one staging region with no anchor commit between them (R211): the step of the second. -/
def shipFail (i : Image) : Option Nat :=
  ((walk i).foldl (fun (acc : List Nat × Option Nat) pos =>
    match acc with
    | (pend, some e) => (pend, some e)
    | (pend, none) =>
      let x := i.crossings.getD pos ⟨0, 0, 0, 0⟩
      let r := (stepsOf x).foldl (fun (acc : List Nat × Option Nat) k =>
        match acc.2, (i.steps[k]?).map StepEnt.op with
        | none, some op => (match op with
          | .snap o =>
            if o.mode = 0 then (if acc.1.contains o.staging then (acc.1, some k) else (o.staging :: acc.1, none)) else acc
          | _ => acc)
        | _, _ => acc) (pend, none)
      if isAnchor x then ([], r.2) else r) ([], none)).2

/-- 0x0B STEPS. -/
def stepsFail (i : Image) (rawX : List (List Byte)) : Option Nat :=
  let perStep := (i.crossings.flatMap fun x => (stepsOf x).map fun k => (x, k)).find? fun p =>
    match i.steps[p.2]? with
    | some st => !stepOk i p.1 p.2 st
    | none => true
  orFail (crossingsOk 0 (i.crossings.zip rawX) 0)
    (orFail (need ((i.crossings.foldl (fun a x => a + x.count) 0) == i.steps.length))
      (orFail (perStep.map (·.2)) (shipFail i)))

/-! ### 0x0C to 0x11 -/

/-- A chunk range is a node of the canonical tree (R68). (DEDUCED, assumption log 14) -/
def treeNode (first count total : Nat) : Bool :=
  decide (first < total) && (List.range 28).any fun j => first % 2 ^ j == 0 && count == min (2 ^ j) (total - first)

/-- 0x0C TREE (R68). -/
def treeFail (i : Image) : Option Nat :=
  firstFail (fun _ st => match st.op with
    | .mma m => m.mode != 1 || treeNode m.chunkFirst m.chunkCount (mmaTotal m)
    | _ => true) i.steps

/-- Two accesses share a byte that at least one of them writes (R60). -/
def conflict (a b : Access) : Bool := a.space == b.space && decide (a.lo < b.hi) && decide (b.lo < a.hi) && (a.wr || b.wr)

/-- One access is read, the other is written, and they share a byte (R60). -/
def selfConflict : List Access → Bool
  | [] => false
  | a :: r => (r.any fun b => a.space == b.space && decide (a.lo < b.hi) && decide (b.lo < a.hi)
      && ((a.rd && b.wr) || (a.wr && b.rd))) || selfConflict r

/-- The steps from j on that a chain of DEP links reaches from step k, k among them (R59). A link counts back, so that one pass
over the steps from k down meets every chain. (DEDUCED, assumption log 16) -/
def depsOf (i : Image) (j k : Nat) : List Nat :=
  (List.range (k - j)).foldl (fun r d =>
    if r.contains (k - d) then
      (i.steps[k - d]?).elim r fun st =>
        ([st.dep0, st.dep1].filter fun x => decide (1 ≤ x) && decide (x ≤ k - d) && !r.contains (k - d - x)).map (k - d - ·) ++ r
    else r) [k]

/-- Two steps of one phase, j before k, are ordered (R59): one logical islet and engine, or a chain of DEP links.
(DEDUCED, assumption log 16) -/
def orderedSteps (i : Image) (j k : Nat) (a b : StepEnt) : Bool :=
  (engineOf a.op == engineOf b.op && (moduleWide a || a.lislet == b.lislet)) || (depsOf i j k).contains j

/-- 0x0D HAZARD (R60). Two MMA steps of one islet and phase that share STATUS_ADDR are ordered by their engine (R59), and so no conflict
(DESIGN CHOICE, assumption log 161). (DEDUCED, assumption log 16) -/
def hazardFail (i : Image) : Option Nat :=
  (i.crossings.flatMap fun x => (stepsOf x).map fun k => (x, k)).findSome? fun p =>
    match i.steps[p.2]? with
    | none => some p.2
    | some b =>
      let ab := stepAccesses i b
      let bad := selfConflict ab || ((List.range (p.2 - p.1.first)).any fun d =>
        let j := p.1.first + d
        match i.steps[j]? with
        | some a => a.phase == b.phase && !orderedSteps i j p.2 a b
            && (stepAccesses i a).any fun u => ab.any fun v => conflict u v
        | none => false)
      if bad then some p.2 else none

/-- Spans by space. -/
abbrev SpanMap := List (Nat × List (Nat × Nat))

/-- The spans of a space. -/
def spansAt (m : SpanMap) (k : Nat) : List (Nat × Nat) := (assoc k m).getD []

/-- An interval added to a space's spans. -/
def spanPut (k lo hi : Nat) (m : SpanMap) : SpanMap := assocPut k (spanAdd lo hi (spansAt m k)) m

/-- The step is a SNAP POLICY, whose store bytes stay live (R73). -/
def isPolicy (st : StepEnt) : Bool :=
  match st.op with
  | .snap o => o.mode == 1
  | _ => false

/-- 0x0E NOT_LIVE (R73): the live spans, those kept over anchors, and the first failing step. A byte once kept is kept for good.
(DEDUCED, assumption log 15) (DESIGN CHOICE, assumption log 140) -/
def liveFail (i : Image) : Option Nat :=
  ((walk i).foldl (fun (acc : SpanMap × SpanMap × Option Nat) pos =>
    let x := i.crossings.getD pos ⟨0, 0, 0, 0⟩
    let r := (stepsOf x).foldl (fun (acc : SpanMap × SpanMap × Option Nat) k =>
      match acc.2.2, i.steps[k]? with
      | none, some st =>
        let as_ := (stepAccesses i st).filter fun a => a.space % 2 == 0
        if as_.all fun a => !a.rd || spanCovers (spansAt acc.1 a.space) a.lo a.hi then
          let w := as_.filter (·.wr)
          let live := w.foldl (fun m a => spanPut a.space a.lo a.hi m) acc.1
          let keep := if isPolicy st then w.foldl (fun m a => spanPut a.space a.lo a.hi m) acc.2.1 else acc.2.1
          (live, keep, none)
        else (acc.1, acc.2.1, some k)
      | _, _ => acc) acc
    if isAnchor x then (r.2.1, r.2.1, r.2.2) else r) ([], [], none)).2.2

/-- 0x0F REPLAY (R73): between anchors no tensor byte is both read before it is written and written. -/
def replayFail (i : Image) : Option Nat :=
  let body := i.crossings.drop i.loopFrom
  if i.loop && !(body.any isAnchor) then some noEntry
  else
    ((walk i).foldl (fun (acc : SpanMap × SpanMap × Option Nat) pos =>
      let x := i.crossings.getD pos ⟨0, 0, 0, 0⟩
      let r := (stepsOf x).foldl (fun (acc : SpanMap × SpanMap × Option Nat) k =>
        match acc.2.2, i.steps[k]? with
        | none, some st =>
          let as_ := (stepAccesses i st).filter fun a => a.tensor.isSome
          let rbw := (as_.filter (·.rd)).foldl (fun m a =>
            (spanGaps a.lo a.hi (spansAt acc.2.1 a.space)).foldl (fun m g => spanPut a.space g.1 g.2 m) m) acc.1
          let wrt := (as_.filter (·.wr)).foldl (fun m a => spanPut a.space a.lo a.hi m) acc.2.1
          let bad := as_.any fun a => spanMeets (spansAt rbw a.space) (spansAt wrt a.space)
          (rbw, wrt, if bad then some k else none)
        | _, _ => acc) acc
      if isAnchor x then ([], [], r.2.2) else r) ([], [], none)).2.2

/-- The gaps between neighbouring maintenance positions exceed a limit: the position that ends the first such gap.
(DEDUCED, assumption log 15) -/
def gapFail (cap : Nat) : Nat → List Nat → Option Nat
  | _, [] => none
  | prev, p :: r => if p - prev ≤ cap then gapFail cap p r else some p

/-- 0x10 MAINT (R74), at a period: the first gap is the position of the first maintenance crossing, the last one the crossings from the
last of them to the end. (DEDUCED, assumption log 15) (DESIGN CHOICE, assumption log 141) -/
def maintFail (i : Image) (period : Nat) : Option Nat :=
  let C := i.crossings.length
  let ms := (i.crossings.zipIdx.filter fun p => isMaint p.1).map (·.2)
  let cap := min (2 ^ 16) (400000000 / max 1 period)
  match ms.getLast? with
  | none => none
  | some last =>
    orFail (gapFail cap 0 ms)
      (if !i.loop then need (decide (C - last ≤ cap))
       else match ms.find? fun p => decide (i.loopFrom ≤ p) with
        | some first =>
          if i.iterCount = 1 then none
          else if (C - last) + (first - i.loopFrom) ≤ cap then none else some first
        | none => need (i.iterCount != 0 && decide ((C - last) + (i.iterCount - 1) * (C - i.loopFrom) ≤ cap)))

/-- The kernel code bytes of an image. -/
def codeBytes (i : Image) : Nat := i.kernels.foldl (fun a k => a + k.len) 0

/-- 0x11 CAPACITY: the kernel code of both slots together. -/
def capacityFail (i : Image) (other : Nat) : Option Nat := need (decide (codeBytes i + other ≤ 2 ^ 21))

/-- The first check of a list that fails: its code and ENTRY. (DEDUCED, assumption log 14) -/
def firstCheck : List (Nat × (Unit → Option Nat)) → Option (Nat × Nat)
  | [] => none
  | (code, f) :: r => match f () with
    | some e => some (code, e)
    | none => firstCheck r

/-- Admission of `n` bytes at `addr` for context c (R83): the rejection, or the image. -/
def admitImage (c addr n : Nat) (bases : List Nat) (other : Nat) (s : State) : State × Except (Nat × Nat) Image :=
  let (s, head, p0) := readMem whoEngine addr (min n 256) s
  if p0 then (s, .error (3, noEntry))
  else if !headerOk head n then (s, .error (1, noEntry))
  else if !versionOk head then (s, .error (2, noEntry))
  else
    let (s, bs, p) := readMem whoEngine addr n s
    if p || !digestOk bs then (s, .error (3, noEntry))
    else if !layoutOk bs then (s, .error (4, noEntry))
    else
      let i := parseImage bs
      let raw (off cnt size : Nat) : List (List Byte) := tableOf id bs (fld bs off 8) (fld bs cnt 4) size
      let fail := firstCheck [(5, fun _ => limitsFail i), (6, fun _ => bindingFail s c addr n i bases),
        (7, fun _ => regionsFail i (raw 56 32 32) (boundRegions s c bases)), (8, fun _ => tensorsFail i (raw 64 36 64)),
        (9, fun _ => kernelsFail i (raw 72 40 16)), (0x0A, fun _ => rangesFail i (raw 80 44 32)),
        (0x0B, fun _ => stepsFail i (raw 88 16 16)), (0x0C, fun _ => treeFail i), (0x0D, fun _ => hazardFail i),
        (0x0E, fun _ => liveFail i), (0x0F, fun _ => replayFail i), (0x10, fun _ => maintFail i s.xng.current.toNat),
        (0x11, fun _ => capacityFail i other)]
      match fail with
      | some e => (s, .error e)
      | none => (s, .ok i)

/-- The status of a rejection (Table 2.14). -/
def rejectStatus (code : Nat) : Nat := 
  if code = 3 then stIntegrity else if code = 6 then stDenied else if code = 0x11 then stNoResource else stBadArg

end Sys2Proof.Machine
end

