-- ==== Sys2Proof/Machine/Mailbox.lean ====
section
/-! DEFINITION. Time (R17), the module's state (R373, R406), the mailboxes (R354 to R363): the order in which commands are taken,
their checks (Table 13.4) and the response. -/

namespace Sys2Proof.Machine

/-! ### Time -/

/-- Arithmetic cycles pass (R17, R47). (DEDUCED, assumption log 7) -/
def pass (d : Nat) (s : State) : State :=
  if d = 0 then s
  else
    let x := s.xng
    { s with
      now := s.now + d
      xng := if x.running then
          { x with cycle := x.cycle + BitVec.ofNat 64 d
                   ttTime := if x.ttRunning then x.ttTime + BitVec.ofNat 64 d else x.ttTime }
        else x }

/-- The block without a command: one arithmetic cycle passes (DESIGN CHOICE, assumption log 6). -/
def idle (s : State) : State := pass 1 s

/-- Time passes to a cycle of `now`, where that has not come yet. (DEDUCED, assumption log 7) -/
def passNow (t : Nat) (s : State) : State := pass (t - s.now) s

/-- Time passes to a value of XNG_CYCLE, where that has not come yet. (DEDUCED, assumption log 7) -/
def passCycle (t : Nat) (s : State) : State := pass (t - s.xng.cycle.toNat) s

/-- Arithmetic cycles of one second (R5). -/
def second : Nat := 4000000000
/-- Arithmetic cycles of one microsecond. -/
def micro : Nat := 4000

/-! ### The module state -/

/-- The module state changes; the change is recorded (R373). -/
def setMode (m : ModState) (s : State) : State :=
  if s.mode = m then s else raise 0x0A01 noSubject [(1, modeCode s.mode), (1, modeCode m)] { s with mode := m }

/-- READY, RUN or DEGRADED (R373, R406). -/
def restMode (s : State) : ModState :=
  if inService s < fullP s.cfg then .degraded else if s.ttu.func = .stopped then .ready else .run

/-- The module state follows the timetable unit and P, where it is one of READY, RUN and DEGRADED. -/
def settleMode (s : State) : State :=
  if s.mode = .ready ∨ s.mode = .run ∨ s.mode = .degraded then setMode (restMode s) s else s

/-- The module serves: READY, RUN, DEGRADED or SECURING. -/
def modeServes (s : State) : Bool := s.mode == .ready || s.mode == .run || s.mode == .degraded || s.mode == .securing

/-! ### Mailboxes -/

/-- A mailbox. -/
def mbOf (s : State) (m : Nat) : Mailbox := look {} s.hbr.mbs m

/-- A mailbox set. -/
def setMb (m : Nat) (x : Mailbox) (s : State) : State := { s with hbr := { s.hbr with mbs := put {} m x s.hbr.mbs } }

/-- A field of a mailbox's bytes. -/
def mbField (x : Mailbox) (off n : Nat) : Nat := leNat (getBytes x.bytes off n)
/-- OPCODE of the request (Table 12.5). -/
def mbOp (x : Mailbox) : Nat := mbField x 0 1
/-- ARGi of the request. -/
def mbArg (x : Mailbox) (i : Nat) : Nat := mbField x (8 + 8 * i) 8
/-- SEQ of the request. -/
def mbSeq (x : Mailbox) : Nat := mbField x 4 4
/-- ARG5's payload length (R356). -/
def mbPayLen (x : Mailbox) : Nat := mbArg x 5 % 2 ^ 11
/-- The request's payload. -/
def mbPayload (x : Mailbox) : List Byte := getBytes x.bytes 64 (mbPayLen x)

/-- A window queue of a port. -/
def winQ (s : State) (p q : Nat) : WinQ := look {} (portOf s p).queues q
/-- A window queue set. -/
def setWinQ (p q : Nat) (w : WinQ) (s : State) : State :=
  setPort p { portOf s p with queues := put {} q w (portOf s p).queues } s

/-- The response slot of a mailbox of the window path, as a host-window offset (R358). (DEDUCED, assumption log 112) -/
def responseSlot (s : State) (m : Nat) : Nat := (winQ s m 0).ring + 2048 * (mbSeq (mbOf s m) % 64)

/-- The response leaves on its path (R357 to R360). (DEDUCED, assumption log 112) -/
def deliver (m status len : Nat) (s : State) : State :=
  let x := mbOf s m
  if m < 8 then
    if len = 0 then hostWrite (responseSlot s m) (getBytes x.bytes 2048 64) (.response m true) s
    else hostWrite (responseSlot s m + 64) (getBytes x.bytes 2112 len) (.response m false) s
  else if m = 8 then emit (.ibi status) s
  else if x.irqEn then emit (.aplic 337) s
  else s

/-- A command completes (R355, R357): the payload, then the header of Table 13.3; the mailbox is DONE.
(DEDUCED, assumption log 112) -/
def complete (m status : Nat) (res : List Nat) (payload : List Byte) (s : State) : State :=
  let x := mbOf s m
  let pay := payload.take 1984
  let head := toLE 1 (mbOp x) ++ toLE 1 status ++ toLE 2 pay.length ++ toLE 4 (mbSeq x)
    ++ ((List.range 6).flatMap fun i => toLE 8 (res.getD i 0)) ++ getBytes x.bytes 56 4
  let head := head ++ toLE 4 (crc32c (head ++ pay))
  let x := { x with bytes := setBytes (setBytes x.bytes 2112 pay) 2048 head, state := .done, wait := .nothing, bad := false }
  deliver m status pay.length (setMb m x s)

/-- A command completes with a status alone. -/
def finish (m status : Nat) (s : State) : State := complete m status [] [] s

/-- A running command waits. -/
def await (m : Nat) (w : MbWait) (s : State) : State := setMb m { mbOf s m with wait := w } s

/-- The mailboxes whose commands wait for the same thing. (DEDUCED, assumption log 110) -/
def waiters (s : State) (w : MbWait) : List Nat :=
  (List.range 16).filter fun m => (mbOf s m).state == .running && (mbOf s m).wait == w

/-- Every command that waits for one thing completes. (DEDUCED, assumption log 110) -/
def finishAll (w : MbWait) (status : Nat) (s : State) : State := (waiters s w).foldl (fun s m => finish m status s) s

/-! ### The command table (Table 13.5) -/

/-- The class of an opcode, in the order of R362: 0 READ, 1 CONFIG, 2 POWER, 3 FUNCTION, 4 TIMETABLE, 5 GROUP, 6 REGION,
7 MARGIN, 8 SURVIVAL, 9 FIRMWARE. -/
def cmdClass (op : Nat) : Option Nat :=
  if op = 0x01 ∨ op = 0x02 ∨ op = 0x70 ∨ op = 0x78 ∨ op = 0x79 then some 0
  else if op = 0x03 ∨ op = 0x04 then some 1
  else if op = 0x05 ∨ op = 0x06 then some 2
  else if op = 0x10 ∨ op = 0x11 then some 3
  else if 0x20 ≤ op ∧ op ≤ 0x25 then some 4
  else if 0x30 ≤ op ∧ op ≤ 0x34 then some 5
  else if 0x40 ≤ op ∧ op ≤ 0x4D then some 6
  else if op = 0x50 then some 7
  else if 0x60 ≤ op ∧ op ≤ 0x66 then some 8
  else if op = 0x7A ∨ op = 0x7B then some 9
  else none

/-- The path of a mailbox may carry an opcode (Table 13.5): every one on H and M, those listed on B. -/
def pathOk (op m : Nat) : Bool :=
  m != 8 || [0x01, 0x02, 0x03, 0x04, 0x05, 0x06, 0x70, 0x78, 0x79, 0x7A, 0x7B].contains op

/-- The module state accepts an opcode (Table 13.7); `persist` is bit 0 of ARG2. -/
def stateOk (s : State) (op : Nat) (persist : Bool) : Bool :=
  let m := s.mode
  let serving := m == .ready || m == .run || m == .degraded
  match cmdClass op with
  | some 0 => m != .boot
  | some 1 => (m == .train && s.hbr.window) || (op == 3 && persist && (m == .ready || m == .halted))
  | some 2 => if op = 5 then m == .train || serving || m == .failed else m == .ready || m == .halted || m == .failed
  | some 7 => m == .train || serving
  | some 9 => m == .ready || m == .halted || m == .failed
  | _ => serving

/-- The named arguments of an opcode (Table 13.5), ARG5 apart; every other one is zero. -/
def namedArgs (op : Nat) : List Nat :=
  if op = 0x01 ∨ op = 0x06 ∨ op = 0x10 ∨ op = 0x11 ∨ op = 0x23 ∨ op = 0x34 ∨ op = 0x4A ∨ op = 0x4C ∨ op = 0x65 ∨ op = 0x78
    ∨ op = 0x79 ∨ op = 0x7A ∨ op = 0x7B ∨ op = 0x40 ∨ op = 0x41 then [0]
  else if op = 0x21 ∨ op = 0x25 ∨ op = 0x31 ∨ op = 0x32 ∨ op = 0x49 ∨ op = 0x62 ∨ op = 0x66 ∨ op = 0x70
    ∨ (0x43 ≤ op ∧ op ≤ 0x48) then [0, 1]
  else if op = 0x03 ∨ op = 0x22 ∨ op = 0x24 ∨ op = 0x30 ∨ op = 0x4B ∨ op = 0x4D ∨ op = 0x50 ∨ op = 0x63 ∨ op = 0x64 then [0, 1, 2]
  else if op = 0x20 ∨ op = 0x60 then [0, 1, 2, 3]
  else if op = 0x42 then [0, 1, 2, 3, 4]
  else []

/-- The opcodes that take an input payload (Table 13.5, R356). -/
def takesPayload (op : Nat) : Bool := [0x20, 0x23, 0x63, 0x78, 0x7A].contains op

/-- The lengths that the input payload of a command may have (R356); none where it takes none. -/
def payloadOk (op : Nat) (x : Mailbox) (n : Nat) : Bool :=
  if op = 0x20 then n % 4 == 0
  else if op = 0x23 ∨ op = 0x63 then n == 64
  else if op = 0x78 then n == (if mbArg x 0 = 0 then 64 else 0)
  else if op = 0x7A then decide (1 ≤ n)
  else n == 0

/-- The host-window offset that ARG5 names on the window path. -/
def mbPayOff (x : Mailbox) : Nat := mbArg x 5 / 2 ^ 16

/-- ARG5 is well formed on its path (R356). -/
def arg5Ok (op m : Nat) (x : Mailbox) : Bool :=
  let n := mbPayLen x
  payloadOk op x n && decide (n ≤ 1984) && bits (mbArg x 5) 15 11 == 0
    && (if m < 8 ∧ takesPayload op = true then mbPayOff x % 8 == 0 else mbPayOff x == 0)

/-- A key's value lies in its range (Table 13.6). -/
def configOk (key value : Nat) (persist : Bool) : Bool :=
  match key with
  | 1 => decide (value ≤ 1)
  | 2 => decide (1 ≤ value) && decide (value ≤ 0xFFFF)
  | 3 => decide (value ≤ 600000) && persist
  | 4 => decide (value ≤ 0xFF) && persist
  | 5 => decide (value ≤ 1)
  | _ => false

/-- OWNER (R256): a context, or a group in bits 9:0 with bit 16 set. -/
def ownerOk (a : Nat) : Bool := decide (a < 65536) || (decide (65536 ≤ a) && decide (a < 65536 + 1024))

/-- TARGET of a margin scan by KIND (Table 8.4): a fitted channel, a strait that the configuration has, a lane of a port. -/
def marginTargetOk (cfg : Cfg) (kind target : Nat) : Bool :=
  match kind with
  | 1 => decide (target % 256 < homeChans cfg (target / 256) + homeSpares cfg (target / 256))
  | 2 => decide (target / 256 < (match cfg with
      | .sk3_4a => 8
      | .sk3_2a => 2))
  | _ => decide (target / 256 < 8) && decide (target % 256 < 5)

/-- The stated ranges of a command's arguments (check 5 of Table 13.4, Table 13.5). -/
def rangesOk (cfg : Cfg) (op : Nat) (x : Mailbox) : Bool :=
  let a (i : Nat) := mbArg x i
  match op with
  | 0x01 => decide (a 0 ≤ 2)
  | 0x03 => decide (a 2 ≤ 1) && configOk (a 0) (a 1) (a 2 == 1)
  | 0x06 => a 0 == 0x5A5AA5A5
  | 0x10 => [1, 2, 3, 8, 9, 10, 11, 12, 13, 14, 15].contains (a 0)
  | 0x11 => [0, 1, 2, 3, 8, 9, 10, 11, 12, 13, 14, 15].contains (a 0)
  | 0x20 => decide (a 0 ≤ 1) && a 1 % 8 == 0 && decide (a 3 < 65536)
  | 0x21 => decide (a 1 < 2 ^ 40)
  | 0x22 => decide (a 0 ≤ 1)
  | 0x24 => decide (a 0 < 256)
  | 0x30 => bits (a 0) 31 26 == 0 && bits (a 0) 47 42 == 0 && decide (a 0 < 2 ^ 58) && decide (1 ≤ bits (a 0) 25 16)
      && decide (a 1 < 128) && !(a 1).testBit 3 && decide (bits (a 0) 57 48 ≤ bits (a 0) 25 16)
      && decide (a 2 < 2 ^ 26)
  | 0x31 => bits (a 0) 31 16 == 0 && decide (a 0 < 2 ^ 42) && decide (a 1 < 128) && !(a 1).testBit 3
  | 0x32 | 0x66 => decide (a 0 < 1024) && decide (a 1 < 2 ^ 32)
  | 0x34 => decide (a 0 < 2 ^ 26)
  | 0x40 => decide (a 0 < 65536) || a 0 == 0xFFFFFFFF
  | 0x41 => decide (a 0 < 65536)
  | 0x42 | 0x43 | 0x44 | 0x45 | 0x46 => ownerOk (a 0)
  | 0x47 | 0x48 => decide (a 0 < 65536) && decide (a 1 < 1024)
  | 0x49 => a 0 % 2 ^ 21 == 0 && a 1 % 2 ^ 21 == 0 && a 1 != 0 && decide (a 0 + a 1 ≤ 2 ^ 44)
  | 0x4A => decide (a 0 < 64)
  | 0x4B => ownerOk (a 0) && decide (a 2 < 2 ^ 17) && bits (a 2) 15 12 == 0
  | 0x4C => decide (a 0 < 4096)
  | 0x4D => decide (a 0 < 2 ^ 11) && bits (a 0) 7 3 == 0 && decide (a 1 < 65536)
      && a 2 % (if bits (a 0) 10 8 = 0 then 2 ^ 17 else 4096) == 0 && (bits (a 0) 10 8 != 0 || a 1 == 0)
  | 0x50 => decide (1 ≤ a 0) && decide (a 0 ≤ 3) && decide (a 2 ≤ 1) && marginTargetOk cfg (a 0) (a 1)
  | 0x60 => decide (a 0 < 2 ^ 32) && decide (a 1 ≤ 1) && decide (a 2 ≤ 4092) && decide (a 3 ≤ 4092)
  | 0x62 => decide (1 ≤ a 0) && decide (a 0 ≤ 3)
  | 0x63 => decide (a 0 ≤ 1)
  | 0x64 => decide (a 0 ≤ 255) && decide (a 1 ≤ 1) && decide (1 ≤ a 2) && decide (a 2 ≤ 720)
  | 0x65 => decide (a 0 < 65536)
  | 0x70 => decide (1 ≤ a 1) && decide (a 1 ≤ 31) && decide (a 0 + a 1 ≤ 65536)
  | 0x7B => a 0 == 1 || a 0 == 2
  | _ => true

/-- The zero fields of a request header are zero (Table 12.5): bytes 1 and 3, and bits 7:2 of FLAGS.
(DEDUCED, assumption log 78) -/
def headOk (x : Mailbox) : Bool := mbField x 1 1 == 0 && decide (mbField x 2 1 < 4) && mbField x 3 1 == 0

/-- Check 5 of Table 13.4. -/
def argsOk (cfg : Cfg) (op m : Nat) (x : Mailbox) : Bool :=
  headOk x && arg5Ok op m x && ((List.range 5).all fun i => (namedArgs op).contains i || mbArg x i == 0) && rangesOk cfg op x

/-- A class that runs one command at a time is taken by another mailbox (R362). -/
def classBusy (s : State) (op m : Nat) : Bool :=
  match cmdClass op with
  | some c => decide (4 ≤ c) && c != 7 && (List.range 16).any fun k =>
      k != m && (mbOf s k).state == .running && cmdClass (mbOp (mbOf s k)) == some c
  | none => false

/-- The POSTED mailbox that comes next in round robin (R357). -/
def nextPosted (s : State) : Option Nat :=
  ((List.range 16).map fun i => (s.hbr.last + 1 + i) % 16).find? fun m => (mbOf s m).state == .posted

/-- The mask ROM answers, stage 0 having failed (R429). -/
def romAnswers (s : State) : Bool := s.mode == .failed && s.hbr.stage == 0

/-- The Harbour controller takes commands: not in BOOT (R374); where stage 0 has failed the mask ROM answers on mailbox 8
alone (R429). (DEDUCED, assumption log 105) -/
def harbourServes (s : State) (m : Nat) : Bool :=
  s.mode != .boot && (m == 8 || !romAnswers s)

/-- The opcodes that the mask ROM serves when stage 0 has failed (R429). (DEDUCED, assumption log 105) -/
def romServes (op : Nat) : Bool := [0x01, 0x02, 0x06, 0x70, 0x79, 0x7A, 0x7B].contains op

/-- Mailbox m's request is to be taken now, its payload has been fetched, or its bank is being written (R356, R357, R434). (DEDUCED, assumption log 2) -/
def mbReady (m : Nat) (s : State) : Bool :=
  let x := mbOf s m
  decide (m < 16) && harbourServes s m
    && ((x.state == .posted && nextPosted s == some m) || (x.state == .running && (x.wait == .fetched || x.wait == .commit)))

/-- The first failing check of Table 13.4 among the first four; the mask ROM answers every command that it does not serve with STATE,
whatever its path (R429). -/
def firstChecks (s : State) (m : Nat) : Option Nat :=
  let x := mbOf s m
  let op := mbOp x
  if 8 ≤ m ∧ mbField x 60 4 ≠ crc32c (getBytes x.bytes 0 60) then some stIntegrity
  else if (cmdClass op).isNone then some stBadOpcode
  else if romAnswers s && !romServes op then some stState
  else if !pathOk op m then some stDenied
  else if !stateOk s op ((mbArg x 2).testBit 0) then some stState
  else none

/-- Checks 5 and 6, then the command's own effect; whether the class is free was seen when the command arrived (R362).
(DEDUCED, assumption log 106) -/
def laterChecks (m : Nat) (act : Mailbox → State → State) (s : State) : State :=
  let x := mbOf s m
  if x.bad then finish m stIntegrity s
  else if !argsOk s.cfg (mbOp x) m x then finish m stBadArg s
  else if x.busy then finish m stBusy s
  else act x (await m .nothing s)

/-- A window-path payload is fetched, as far as a mailbox holds it (R356); one that no port can bring comes poisoned (R341).
(DEDUCED, assumption log 106) -/
def fetchPayload (m : Nat) (act : Mailbox → State → State) (s : State) : State :=
  let x := mbOf s m
  if allLost s then laterChecks m act (setMb m { x with bad := true } s)
  else hostRead (mbPayOff x) (min (mbPayLen x) 1984) (.payload m) (await m .payload s)

/-- A command is taken (R356, R357, R361): its checks in order, with a window-path payload fetched between the fourth and the
fifth, and then its own conditions and effect `act`. The row names the opcode that the request holds. -/
def mbCommand (op m : Nat) (act : Mailbox → State → State) (s : State) : State :=
  let x := mbOf s m
  if !mbReady m s || mbOp x != op then s
  else if x.state == .running then laterChecks m act s
  else
    let x := { x with state := .running, wait := .nothing, bad := false, busy := classBusy s (mbOp x) m }
    let s := { s with hbr := { s.hbr with last := m, mbs := put {} m x s.hbr.mbs } }
    match firstChecks s m with
    | some st => finish m st s
    | none =>
      if m < 8 ∧ takesPayload op = true ∧ mbPayLen x ≠ 0 then fetchPayload m act s else laterChecks m act s

/-- The time limit of a command (Table 13.5, R363), in cycles; none for one that takes effect at once. -/
def timeLimit (x : Mailbox) : Option Nat :=
  let op := mbOp x
  let port := decide (8 ≤ mbArg x 0)
  if op = 0x03 ∨ op = 0x32 ∨ op = 0x33 ∨ op = 0x4B ∨ op = 0x60 ∨ op = 0x78 ∨ op = 0x7A then some second
  else if op = 0x05 then some (5 * second)
  else if op = 0x10 then some (if port then second else second / 1000)
  else if op = 0x11 then
    some (if mbArg x 0 ≤ 1 then 10 * second else if mbArg x 0 = 3 then second / 1000 else second / 100)
  else if op = 0x20 ∨ op = 0x7B then some (30 * second)
  else if op = 0x21 ∨ op = 0x30 ∨ op = 0x31 ∨ op = 0x50 then some (10 * second)
  else if (0x40 ≤ op ∧ op ≤ 0x48) ∨ op = 0x62 ∨ op = 0x63 ∨ op = 0x66 then some (60 * second)
  else if op = 0x4C then some (11 * second)
  else none

/-- Event 0x0A03, with the opcode and the mailbox; 0xFF for RGN_CMD. (DEDUCED, assumption log 93) -/
def timedOut (op m : Nat) (s : State) : State := raise 0x0A03 noSubject [(1, op), (1, m)] s

/-- A request reaches a mailbox (R357): IDLE becomes POSTED; in another state it is misuse. -/
def ringBell (m : Nat) (s : State) : State :=
  let x := mbOf s m
  if x.state = .idle then setMb m { x with state := .posted, posted := s.now, wait := .nothing, bad := false } s
  else raise 0x0A05 noSubject [] (setMb m { x with err := true } s)

/-- A response is acknowledged (R357). -/
def ackBox (m : Nat) (s : State) : State :=
  let x := mbOf s m
  if x.state = .done then setMb m { x with state := .idle } s else s

/-- Request bytes are written, in IDLE and DONE only (R357). -/
def writeBox (m off : Nat) (bs : List Byte) (s : State) : State :=
  let x := mbOf s m
  if x.state = .idle ∨ x.state = .done then setMb m { x with bytes := setBytes x.bytes off (bs.take (4096 - off)) } s else s

/-! ### Functions (R370 to R372) -/

/-- FUNC of a function. -/
def funcOf (s : State) (f : Nat) : FuncState :=
  if f = 0 then s.ttu.func else if f = 1 then s.fry.func else if f = 2 then s.hbr.exchange else if f = 3 then s.hbr.reader
  else (portOf s (f - 8)).func

/-- FUNC of a function set. -/
def setFunc (f : Nat) (v : FuncState) (s : State) : State :=
  if f = 0 then { s with ttu := { s.ttu with func := v } }
  else if f = 1 then { s with fry := { s.fry with func := v } }
  else if f = 2 then { s with hbr := { s.hbr with exchange := v } }
  else if f = 3 then { s with hbr := { s.hbr with reader := v } }
  else setPort (f - 8) { portOf s (f - 8) with func := v } s

/-- The functions (Table 13.8). -/
def functionIds : List Nat := [0, 1, 2, 3, 8, 9, 10, 11, 12, 13, 14, 15]

/-- FUNC's code. -/
def funcCode : FuncState → Nat
  | .stopped => 0 | .starting => 1 | .running => 2 | .stopping => 3

end Sys2Proof.Machine
end

