-- ==== Sys2Proof/Machine/Launch.lean ====
section
/-! DEFINITION. Page faults and parking (R271, R272), the states of contexts (R265), and the launch queues of the lane pool
(R195 to R197): the doorbell, enabling and disabling, and the placement of free-running kernels at a tick. -/

namespace Sys2Proof.Machine

/-! ### Parked contexts (R272) -/

/-- A piece of free-running work, as the one of its context that faulted (R272): a ferry queue's next descriptor, a lane queue's launch or
suspended kernel, or a PULL or PUSH of a window queue. -/
def workFerry (q : Nat) : Nat := q
/-- The work of a lane queue (R272). -/
def workLane (q : Nat) : Nat := 256 + q
/-- The next command of a window queue (R272). -/
def workWindow (p q : Nat) : Nat := 320 + 8 * p + q

/-- The work is still to be done: its queue has it to start, or to resume. -/
def workDue (s : State) (w : Nat) : Bool :=
  if w < 256 then (fryQ s w).enable && (fryQ s w).head != (fryQ s w).tail
  else if w < 320 then
    let x := lncQ s (w - 256)
    (assoc (w - 256) s.lnc.suspended).isSome || (x.enable && x.head != x.tail)
  else (winQ s ((w - 320) / 8) ((w - 320) % 8)).cmds.any fun c => !c.begun && c.status.isNone

/-- Work of a context may be checked and start: the context is not parked, and other work of it that has faulted is not due before
(R272 steps 2 and 4). -/
def mayCheck (s : State) (c w : Nat) : Bool :=
  (ctx s c).park == 0 && !s.rgn.again.any fun x => x.1 == c && x.2 != w && workDue s x.2

/-- Contexts that wait for a free entry take entries in the order of their faults (R272); one whose page is no longer absent leaves PARKED
at the next tick (R265). -/
def serveFaults (s : State) : State :=
  s.rgn.faults.foldl (fun s f =>
    if (entryOf s f.2).isSome || (freeEntry s).isSome then
      let s := { s with rgn := { s.rgn with faults := dropFirst f s.rgn.faults } }
      if (tag s f.2).res = .absent ∨ (tag s f.2).res = .migrating then pageFault f.1 f.2 s
      else { s with rgn := { s.rgn with wake := s.rgn.wake ++ [f.1] } }
    else s) s

/-- The contexts parked on an entry (R272). -/
def parkedOn (s : State) (e : Nat) : List Nat :=
  (s.rgn.ctxs.filter fun p => p.2.park == 1 && p.2.parkEntry.toNat == e).map (·.1)

/-- At a tick, every context whose page has become RESIDENT since leaves PARKED (R272 step 4). -/
def unparkAll (s : State) : State :=
  s.rgn.wake.foldl (fun s c => setCtx c { ctx s c with park := 0, parkEntry := 0xFFFF, state := .ready } s)
    { s with rgn := { s.rgn with wake := [] } }

/-! ### The states of contexts (R265) -/

/-- A context has work on a ferry or a lane engine, or its timetable is not STOPPED. -/
def ctxRuns (s : State) (c : Nat) : Bool :=
  (s.ttu.func != .stopped && (actSlot s).context == c && (actSlot s).image.isSome)
    || (s.fry.queues.any fun q => q.2.context.toNat == c && !(q.2.inProgress.isEmpty && q.2.moved.isEmpty))
    || (s.zng.ports.any fun p => p.2.queues.any fun w => w.2.context == c
      && w.2.cmds.any fun m => (m.op == 1 || m.op == 2) && m.begun && m.status.isNone)
    || (s.lnc.free.any fun k => k.2.context == c)

/-- The state that applies to a context (R265). -/
def ctxStateOf (s : State) (c : Nat) : CtxState :=
  if (ctx s c).park ≠ 0 then .parked
  else if ctxRuns s c then .running
  else if s.lnc.suspended.any fun k => k.2.context == c then .swapped
  else .ready

/-- The contexts take their states at a tick (R265). -/
def settleContexts (s : State) : State :=
  let cs := 0 :: (actSlot s).context :: s.rgn.ctxs.map (·.1)
  cs.foldl (fun s c =>
    let x := ctx s c
    if x.state = .free then s else setCtx c { x with state := ctxStateOf s c } s) s

/-! ### Launch queues -/

/-- A queue's doorbell (R160, R197): a value below HEAD, or more than the entries above it, is ignored and sets ERR. One that is not below
HEAD is taken, though descriptors past it have started (DESIGN CHOICE, assumption log 162). -/
def ringTail (q : Queue) (v : Word32) : Queue :=
  if (v - q.head).toNat ≤ qEntries q then { q with tail := v } else { q with err := true }

/-- A write of QCFG with ENABLE 1 (Tables 5.15, 6.13): IRQ_EN and STOP_ON_ERR are taken; CONTEXT and SIZE are locked while ENABLE is 1;
a start while BUSY is ignored (DEDUCED, assumption log 48). A queue that an error has stopped keeps ENABLE 1, and such a write runs it again
(DESIGN CHOICE, assumption log 162). -/
def enableQueue (q : Queue) (busy : Bool) (v : Word64) : Queue :=
  let q := { q with irqEn := v.getLsbD 2, stopOnErr := v.getLsbD 1 }
  if busy then q
  else
    if q.enable then { q with stopped := false }
    else { q with context := v.extractLsb' 32 16, size := v.extractLsb' 16 4, enable := true, stopped := false, drain := false }

/-- A write of QCFG with ENABLE 0: the queue stops, and what it has not started up to TAIL is to complete as ABORTED.
(DEDUCED, assumption log 48) -/
def disableQueue (q : Queue) (v : Word64) : Queue :=
  let q := { q with irqEn := v.getLsbD 2, stopOnErr := v.getLsbD 1 }
  if q.enable then { q with enable := false, drain := true }
  else { q with context := v.extractLsb' 32 16, size := v.extractLsb' 16 4 }

/-- A kernel of the queue is running or suspended. -/
def lncHolds (s : State) (q : Nat) : Bool := (assoc q s.lnc.free).isSome || (assoc q s.lnc.suspended).isSome

/-- Launches of the queue are in progress, those that a disabled queue still has to abort among them (Table 6.15, R160). -/
def lncBusy (s : State) (q : Nat) : Bool := lncHolds s q || (lncQ s q).drain || !(lncQ s q).finished.isEmpty

/-- The IRQ flag of a descriptor that is to complete as ABORTED: none while its read waits. A queue whose IRQ_EN is 0 has no use for it, and
a descriptor that its context may not read asks for no interrupt (R160). (DEDUCED, assumption log 48) -/
def abortFlag (use : HostUse) (x : Queue) (who pos : Nat) (s : State) : State × Option Bool :=
  if !x.irqEn then (s, some false)
  else match ownRead use x.context.toNat who (descAddr x pos) 64 s with
    | (s, .data d _) => (setBuf use none s, some ((fld d 1 1).testBit 0))
    | (s, .wait) => (s, none)
    | (s, _) => (s, some false)

/-- What an islet's fence ended is recorded (R196), and a disabled queue's rest completes as ABORTED (R160, R197).
(DEDUCED, assumption log 48) -/
def lncDrain (q : Nat) (s : State) : State :=
  let x := lncQ s q
  let s := x.finished.foldl (fun s f =>
    if f.1 = (lncQ s q).head.toNat then completeLaunch q f.1 f.2.1 f.2.2.1 f.2.2.2 s else s) s
  let x := lncQ s q
  if x.drain && !lncHolds s q && x.finished.isEmpty then
    let n := (x.tail - x.head).toNat
    let s := (List.range n).foldl (fun s i =>
      let pos := (x.head.toNat + i) % 2 ^ 32
      if (lncQ s q).finished.isEmpty && (lncQ s q).head.toNat == pos then
        match abortFlag (.launch q) x (whoLane 0) pos s with
        | (s, some irq) => completeLaunch q pos 0 (laneRecord pos 6 0 0 0 0) irq s
        | (s, none) => s
      else s) s
    let x := lncQ s q
    if x.finished.isEmpty && x.head == x.tail then setLncQ q { x with drain := false, stopped := false } s else s
  else s

/-- LNC_QTAIL (R197). -/
def execLncQtail (q : Nat) (v : Word32) (s : State) : Host.Outcome State Fault Refusal :=
  .next (if q < 64 then setLncQ q (ringTail (lncQ s q) v) s else s)

/-- LNC_QCFG with ENABLE 1 (R197). -/
def execLncQcfgEnable (q : Nat) (v : Word64) (s : State) : Host.Outcome State Fault Refusal :=
  .next (if q < 64 then setLncQ q (enableQueue (lncQ s q) (lncBusy s q) v) s else s)

/-- LNC_QCFG with ENABLE 0 (R197). -/
def execLncQcfgDisable (q : Nat) (v : Word64) (s : State) : Host.Outcome State Fault Refusal :=
  .next (if q < 64 then lncDrain q (setLncQ q (disableQueue (lncQ s q) v) s) else s)

/-! ### Launch descriptors (R195) -/

/-- A range entry of a launch (R195); none where it breaks its layout. -/
def parseLaunchRange (bs : List Byte) : Option KRange :=
  match fmtOfCode (fld bs 17 1) with
  | some f =>
    if fld bs 6 2 == 0 && decide (1 ≤ fld bs 16 1) && decide (fld bs 16 1 ≤ 3) && zeroAt bs 18 2 && fld bs 23 1 == 0
      && zeroAt bs 24 8 then some ⟨.phys (fld bs 0 8), fld bs 16 1, fld bs 8 8, f, fld bs 20 4⟩ else none
  | none => none

/-- A launch descriptor keeps its layout (Table 6.8). (DEDUCED, assumption log 47) -/
def launchOk (d : List Byte) : Bool :=
  fld d 0 1 == 1 && decide (fld d 1 1 < 2) && decide (fld d 2 2 ≤ 256) && zeroAt d 4 2 && fld d 14 2 == 0
    && decide (4 ≤ fld d 16 3) && decide (fld d 16 3 ≤ 65536) && fld d 16 3 % 4 == 0

/-- The ranges of a kernel as its context is checked for them. (DEDUCED, assumption log 47) -/
def checkedRanges (rs : List KRange) : List (Nat × Nat × Bool × Bool) :=
  rs.filterMap fun r => match r.base with
    | .phys a => if r.bytes = 0 then none else some (a, r.bytes, r.access.testBit 0, r.access.testBit 1)
    | _ => none

/-- What a launch has come to as its descriptor, its code and its range list are read (R195): a status with the IRQ flag, a page to fault
on, a wait, or a verdict on its ranges and the kernel. -/
inductive LaunchRead where
  | failed (status : Nat) (irq : Bool)
  | fault (page : Nat)
  | wait
  | checked (v : CheckVerdict) (k : LaneKernel)
  deriving DecidableEq, Repr

/-- A read by launch queue q itself, and what goes on with its bytes; a read that the checks refuse ends the launch (R195, R254, R260). -/
def launchRead (q islet a n : Nat) (irq : Bool) (next : List Byte → State → State × LaunchRead) (s : State) : State × LaunchRead :=
  let c := (lncQ s q).context.toNat
  if n = 0 then next [] s
  else match ownRead (.launch q) c (whoLane islet) a n s with
    | (s, .data bs _) => next bs s
    | (s, .bound) => (s, .failed 1 irq)
    | (s, .denied p lock) => (refusePage c (max a (p * 2 ^ 21)) lock s, .failed 2 irq)
    | (s, .fault p) => (s, .fault p)
    | (s, .wait) => (s, .wait)

/-- A launch's descriptor is read and checked (R195). (DEDUCED, assumption log 47, 134) -/
def readLaunch (q pos islet : Nat) (s : State) : State × LaunchRead :=
  let x := lncQ s q
  let c := x.context.toNat
  launchRead q islet (descAddr x pos) 64 false (fun d s =>
    let irq := (fld d 1 1).testBit 0
    if !launchOk d then (s, .failed 3 irq)
    else if fld d 6 2 ≠ pos % 65536 then (s, .failed 4 irq)
    else launchRead q islet (fld d 8 8) (fld d 16 3) irq (fun cb s =>
      launchRead q islet (fld d 24 8) (32 * fld d 2 2) irq (fun rb s =>
        let words := (chunks 4 cb).map leNat
        match (chunks 32 rb).mapM parseLaunchRange with
        | none => (s, .failed 3 irq)
        | some ranges =>
          if !codeOk true words then (s, .failed 3 irq)
          else
            let k : LaneKernel :=
              { code := words, ranges := ranges, uni := startThread ((List.range 8).map fun i => fld d (32 + 4 * i) 4)
                islet := islet, pos := pos, mixStep := fld d 19 5, context := c, queue := true, irq := irq }
            (s, .checked (rangesVerdict s c (checkedRanges ranges)) k)) s) s) s

/-- A launch whose check fails completes with the status (R197). -/
def failLaunch (q pos islet status : Nat) (irq : Bool) (s : State) : State :=
  completeLaunch q pos islet (laneRecord pos status 0 0 0 0) irq (checkedAgain (lncQ s q).context.toNat (workLane q) s)

/-- The verdict on a kernel's ranges acted on: it starts or resumes, its context parks, or it is refused. -/
def placeKernel (q : Nat) (k : LaneKernel) (v : CheckVerdict) (s : State) : State × Bool :=
  match v with
  | .ok =>
    let x := lncQ s q
    let s := checkedAgain k.context (workLane q) (setLncQ q { x with inProgress := [(k.pos, k.islet, [])] } s)
    ({ s with lnc := { s.lnc with free := assocPut q k s.lnc.free, suspended := assocDel q s.lnc.suspended } }, true)
  | .bound => (failLaunch q k.pos k.islet 1 k.irq { s with lnc := { s.lnc with suspended := assocDel q s.lnc.suspended } }, false)
  | .denied p lock =>
    let s := refusePage k.context (p * 2 ^ 21) lock s
    (failLaunch q k.pos k.islet 2 k.irq { s with lnc := { s.lnc with suspended := assocDel q s.lnc.suspended } }, false)
  | .fault p => (workFault (workLane q) k.context p s, false)
  | .wait => (s, false)

/-- One queue is offered an islet (R196): its suspended kernel resumes, or its next descriptor starts. True when the islet is
taken. (DEDUCED, assumption log 109) -/
def offerIslet (q islet : Nat) (s : State) : State × Bool :=
  let x := lncQ s q
  if !mayCheck s x.context.toNat (workLane q) || (assoc q s.lnc.free).isSome || !x.finished.isEmpty then (s, false)
  else match assoc q s.lnc.suspended with
    | some k =>
      let k := { k with islet := islet }
      placeKernel q k (rangesVerdict s k.context (checkedRanges k.ranges)) s
    | none =>
      if x.enable && !x.stopped && x.head != x.tail then
        match readLaunch q x.head.toNat islet s with
        | (s, .failed st irq) => (failLaunch q x.head.toNat islet st irq (setBuf (.launch q) none s), false)
        | (s, .fault p) => (workFault (workLane q) x.context.toNat p s, false)
        | (s, .wait) => (s, false)
        | (s, .checked v k) => placeKernel q k v (setBuf (.launch q) none s)
      else (s, false)

/-- A running kernel as its save slot keeps it (R196): the pass in progress starts again, and uniform code goes on at the instruction where
it stopped, a near load whose data it has taken still to return.
(DESIGN CHOICE, assumption log 21) -/
def savedKernel (k : LaneKernel) : LaneKernel :=
  match k.loop with
  | none =>
    { k with uni := if k.uni.waiting = some .near then k.uni else { k.uni with waiting := none } }
  | some lp => { k with loop := some { lp with threads := passThreads k lp.start lp.pass } }

/-- A free-running kernel is suspended (R196); its islet's writes stay its own until they are visible (R174, R197). (DESIGN CHOICE, assumption log 21) -/
def suspendKernel (q : Nat) (k : LaneKernel) (s : State) : State :=
  let x := lncQ s q
  let k := { savedKernel k with past := if k.past.contains k.islet then k.past else k.islet :: k.past }
  let s := ownWrite (.launch q) x.context.toNat (whoLane k.islet) (qBase x + 80 * qEntries x) (padTo 512 (Config.saveSlot k)) s
  { s with lnc := { s.lnc with free := assocDel q s.lnc.free, suspended := assocPut q k s.lnc.suspended } }

/-- The islets of the open crossing's KERNEL steps due or in progress (R196). (DEDUCED, assumption log 109) -/
def kernelIslets (s : State) : List Nat :=
  match (actSlot s).image with
  | none => []
  | some i =>
    if s.ttu.func == .running && s.ttu.opened then
      (stepsOf (crossingAt i s.ttu.runIdx)).filterMap fun k => match i.steps[k]? with
        | some st => if engineOf st.op == 2 && !s.ttu.done.contains k then some (physOf s st.lislet) else none
        | none => none
    else []

/-- Free-running work may start (R397, R407). -/
def freeWork (s : State) : Bool := modeServes s && !s.hlt.emergency

/-- The lane pool at a tick (R196): kernels whose islet is needed are suspended, to resume at a later tick, then the other queues are
offered the available islets round-robin. (DEDUCED, assumption log 109) -/
def placeFree (s : State) : State :=
  let s := (List.range 64).foldl (fun s q => lncDrain q s) s
  let need := kernelIslets s ++ s.lnc.steps.map fun k => k.2.islet
  let now := (s.lnc.free.filter fun k => need.contains k.2.islet).map (·.1)
  let s := s.lnc.free.foldl (fun s k => if need.contains k.2.islet then suspendKernel k.1 k.2 s else s) s
  if !freeWork s then s
  else
    let free := s.isl.slots.filter fun n => !need.contains n && !(s.lnc.free.any fun k => k.2.islet == n)
    let busy := (List.range 64).filter fun q =>
      !now.contains q && ((assoc q s.lnc.suspended).isSome || ((lncQ s q).enable && (lncQ s q).head != (lncQ s q).tail))
    let order := (busy.filter fun q => decide (s.lnc.nextQueue ≤ q)) ++ busy.filter fun q => decide (q < s.lnc.nextQueue)
    (order.foldl (fun (acc : State × List Nat) q =>
      match acc.2 with
      | [] => acc
      | n :: rest =>
        match offerIslet q n acc.1 with
        | (s, true) => ({ s with lnc := { s.lnc with nextQueue := (q + 1) % 64 } }, rest)
        | (s, false) => (s, n :: rest)) (s, free)).1

end Sys2Proof.Machine
end

