-- ==== Sys2Proof/Machine/Caches.lean ====
section
/-! DEFINITION. The Sound ring's stops, agents and homes (R292, R293), the order of its segments (R294), the lines that agents hold and
the presence bits of the snoop filters (R281, R311). -/

namespace Sys2Proof.Machine

/-! ### Stops, agents and homes (R292, R293) -/

/-- The stops that are present (Table 11.1). -/
def ringStops (c : Cfg) : List Nat :=
  match c with
  | .sk3_4a => [0, 1, 2, 3, 4, 5]
  | .sk3_2a => [0, 1, 3, 4]

/-- The stop of a caching agent. -/
def stopOf (agent : Nat) : Nat :=
  if agent < 64 then 0 else if agent < 128 then 3 else if agent < 160 then 0 else if agent < 192 then 3
  else if agent = 192 then 1 else if agent = 193 then 2 else if agent = 194 then 4 else 5

/-- The stop of a line's home agent (Table 11.1). -/
def homeStop (c : Cfg) (line : Nat) : Nat :=
  match homeOf (line * 64) with
  | 0 => if slotOf c (line * 64) < 16 then 0 else 3
  | 1 => 1
  | 2 => 2
  | 3 => 4
  | _ => 5

/-- The home cache of a line (R293). -/
def homeCache (c : Cfg) (line : Nat) : Nat :=
  let a := line * 64
  if homeOf a = 0 then
    let f := bits a 10 6 ^^^ bits a 15 11 ^^^ bits a 20 16 ^^^ bits a 25 21 ^^^ bits a 30 26 ^^^ bits a 35 31 ^^^ bits a 40 36
    128 + (if homeStop c line = 3 then 32 else 0) + f
  else 191 + homeOf a

/-- The key of a line in an agent. -/
def clKey (agent line : Nat) : Nat := agent * 2 ^ 42 + line

/-- A line in an agent. -/
def cline (s : State) (agent line : Nat) : CLine := look {} s.snd.lines (clKey agent line)

/-- A line in an agent set. -/
def setCline (agent line : Nat) (x : CLine) (s : State) : State :=
  { s with snd := { s.snd with lines := put {} (clKey agent line) x s.snd.lines } }

/-! ### Segments (R294, Table 11.2) -/

/-- The clockwise order of the stops (Table 11.2). -/
def ringOrder (c : Cfg) : List Nat := ringStops c

/-- The place of a stop in the clockwise order. -/
def ringPlace (c : Cfg) (stop : Nat) : Nat := (findIdx? (· == stop) (ringOrder c) 0).getD 0

/-- Hops from one stop to another, clockwise. -/
def hopsClockwise (c : Cfg) (a b : Nat) : Nat :=
  (ringPlace c b + (ringOrder c).length - ringPlace c a) % (ringOrder c).length

/-- A message goes the shorter way round, and clockwise where both are equally long. -/
def goesClockwise (c : Cfg) (a b : Nat) : Bool := decide (2 * hopsClockwise c a b ≤ (ringOrder c).length)

/-- Hops of a message from one stop to another. -/
def ringHops (c : Cfg) (a b : Nat) : Nat :=
  if goesClockwise c a b then hopsClockwise c a b else hopsClockwise c b a

/-! ### The snoop filters (R311) -/

/-- The filter set of a line at its island stop. -/
def filterKey (c : Cfg) (line : Nat) : Nat := homeStop c line * 16384 + line * 64 % 2 ^ 22 / 256
/-- The sector of a line. -/
def sectorOf (line : Nat) : Nat := line / 4

/-- A filter set set. -/
def setFilter (k : Nat) (es : List FEntry) (s : State) : State := { s with snd := { s.snd with filters := put [] k es s.snd.filters } }

/-- The presence bit of a line in its sector (R311). -/
def presenceBit (line : Nat) : BitVec 4 := BitVec.ofNat 4 (2 ^ (line % 4))

/-- The presence bit of a line is set at its island stop (R311). -/
def present (s : State) (line : Nat) : Bool :=
  (look [] s.snd.filters (filterKey s.cfg line)).any fun e => e.sector == sectorOf line && (e.bits &&& presenceBit line) != 0

/-- A line has left a cache: in a harbour cache its presence bit clears (R311). -/
def leaveFilter (agent line : Nat) (s : State) : State :=
  if agent < 192 then s
  else
    let k := filterKey s.cfg line
    setFilter k ((look [] s.snd.filters k).map fun e =>
      if e.sector = sectorOf line then { e with bits := e.bits &&& ~~~presenceBit line } else e) s

end Sys2Proof.Machine
end

