-- ==== Sys2Proof/Machine/Jobs.lean ====
section
/-! DEFINITION. The layout of a ferry descriptor (R158), the pages that work in progress is checked for, and the region commands that
take time (R261, R267, R276): PIN and EVICT. -/

namespace Sys2Proof.Machine

/-! ### The descriptor (Table 5.7) -/

/-- Bytes of a source row (of a destination row, for FILL). -/
def dRowBytes (d : List Byte) : Nat := fld d 24 4
/-- Rows of a descriptor. -/
def dRows (d : List Byte) : Nat := fld d 28 4

/-- Elements of a CONVERT's source row. (DEDUCED, assumption log 23) -/
def dRowElems (d : List Byte) : Option Nat :=
  (fmtOfCode (fld d 2 1)).bind fun f => elemsOfBytes f (fld d 43 1) (dRowBytes d)

/-- Bytes of a destination row. (DEDUCED, assumption log 23) -/
def dDstRow (d : List Byte) : Nat :=
  if fld d 0 1 = 2 then rowBytesOf ((fmtOfCode (fld d 3 1)).getD .raw) (fld d 43 1) ((dRowElems d).getD 0) else dRowBytes d

/-- The format pair and block code of a CONVERT: a block code belongs to a block format (R64).
(DEDUCED, assumption log 23) -/
def convertOk (d : List Byte) : Bool :=
  match fmtOfCode (fld d 2 1), fmtOfCode (fld d 3 1) with
  | some sf, some df =>
    let blk := fld d 43 1
    sf != .raw && df != .raw && (dRowElems d).isSome && (fmtIsBlock sf || fmtIsBlock df) == (blk != 0)
      && (!fmtIsBlock df || (dRowElems d).getD 0 % blockElems blk == 0)
  | _, _ => false

/-- A descriptor keeps its layout (Table 5.7); the format codes of a FILL are codes of Table 2.2 too. -/
def ferryOk (d : List Byte) : Bool :=
  let op := fld d 0 1
  decide (1 ≤ op) && decide (op ≤ 3) && decide (fld d 1 1 < 8) && decide (fld d 43 1 ≤ 4) && zeroAt d 55 9
    && decide (1 ≤ dRowBytes d) && decide (dRowBytes d ≤ 2 ^ 24) && decide (1 ≤ dRows d) && decide (dRows d ≤ 2 ^ 24)
    && (op == 3 || zeroAt d 14 2) && zeroAt d 22 2 && (fmtOfCode (fld d 2 1)).isSome && (fmtOfCode (fld d 3 1)).isSome
    && (op != 1 || (fld d 2 1 == 0 && fld d 3 1 == 0 && fld d 43 1 == 0)) && (op != 2 || convertOk d)

/-- The source rows: first byte and length. -/
def srcRuns (d : List Byte) : List (Nat × Nat) :=
  if fld d 0 1 = 3 then [] else (List.range (dRows d)).map fun i => (fld d 8 8 + i * fld d 32 4, dRowBytes d)

/-- The destination rows. -/
def dstRuns (d : List Byte) : List (Nat × Nat) :=
  (List.range (dRows d)).map fun i => (fld d 16 8 + i * fld d 36 4, dDstRow d)

/-- The ranges that a descriptor is checked for (R159). -/
def ferryRanges (d : List Byte) : List (Nat × Nat × Bool × Bool) :=
  (srcRuns d).map (fun r => (r.1, r.2, true, false)) ++ (dstRuns d).map fun r => (r.1, r.2, false, true)

/-- The pages that a window queue's PULL or PUSH touches. -/
def commandPages (c : WinCmd) : List Nat := if c.begun && c.status.isNone && (c.op == 1 || c.op == 2) then pagesOf c.arg0 c.arg2 else []

/-- Pages that descriptors not yet complete, of contexts for which `p` holds, are checked for. -/
def pagesInUse (s : State) (p : Nat → Bool) : List Nat :=
  (s.fry.queues.flatMap fun q =>
    if p q.2.context.toNat then ((q.2.inProgress.map (·.2.2)) ++ q.2.moved.map (·.2)).flatMap fun d =>
      (ferryRanges d).flatMap fun r => pagesOf r.1 r.2.1
    else [])
  ++ s.zng.ports.flatMap fun x => x.2.queues.flatMap fun w =>
    if p w.2.context then w.2.cmds.flatMap commandPages else []

/-- The bytes of a flushed line, with its poison, go to memory. -/
def flushBack (a : Nat) (x : CLine) (s : State) : State :=
  let s := writeMem whoEngine a x.bytes s
  if x.poison then poisonMem a 64 s else s

/-- A line of a cache set by its key. -/
def putLine (k : Nat) (y : CLine) (s : State) : State := { s with snd := { s.snd with lines := put {} k y s.snd.lines } }

/-- The state in which a flush leaves a line; one that is gone leaves the filter too (R311). -/
def setFlushed (k : Nat) (y : CLine) (s : State) : State :=
  if y.st = .i then leaveFilter (k / 2 ^ 42) (k % 2 ^ 42) (putLine k y s) else putLine k y s

/-- A line flushed from one cache, as a snoop of a flush finds it (R304, Table 11.5): what it owns is written back.
(DEDUCED, assumption log 119) -/
def flushLine (k : Nat) (x : CLine) (s : State) : State :=
  let a := k % 2 ^ 42 * 64
  let gone : CLine := if x.cbo = none ∧ x.chk = false ∧ x.waiting = [] then {} else { x with st := .i }
  match x.st with
  | .m | .o => setFlushed k gone (flushBack a x s)
  | .s | .e => setFlushed k gone s
  | .wb => setFlushed k { x with st := .wbn } (flushBack a x s)
  | .omu => setFlushed k { x with st := .imu } (flushBack a x s)
  | .smu => setFlushed k { x with st := .imu } s
  | _ => s

/-- Every line of a page held in a Sound ring cache is written back and invalidated (R276, R287).
(DEDUCED, assumption log 119) -/
def flushPage (p : Nat) (s : State) : State :=
  (s.snd.lines.filter fun x => decide (x.1 % 2 ^ 42 * 64 / 2 ^ 21 = p)).foldl (fun s x => flushLine x.1 x.2 s) s

/-- A transaction of the ring that its home agent has accepted is under way on a page: the flush of its lines comes after it (R300,
R304). (DEDUCED, assumption log 119) -/
def ringBusy (s : State) (p : Nat) : Bool :=
  let on (line : Nat) : Bool := decide (line * 64 / 2 ^ 21 = p)
  (s.snd.txns.any fun t => on t.req.line)
    || (s.snd.flight.any fun m => on m.line && [RKind.gnt, .data, .wdata, .udata].contains m.kind)
    || s.snd.lines.any fun x => on (x.1 % 2 ^ 42) && (x.2.st == .iso || x.2.st == .imo)

/-! ### Region commands in progress (R261) -/

/-- Records 0x0704 to 0x0706 name the owner of a page as its tag holds it (R278). -/
def tagSubject (t : Tag) : Nat := t.owner.toNat + (if t.shared then 65536 else 0)

/-- A region command completes (R261): STATUS and RESULT, and the answer on its path. (DEDUCED, assumption log 60) -/
def finishRgn (via : Via) (status result : Nat) (s : State) : State :=
  let s := { s with rgn := { s.rgn with status := BitVec.ofNat 8 status, result := BitVec.ofNat 64 result, job := none } }
  match via with
  | .mailbox m => complete m status [result] [] s
  | .register => emit (.aplic 336) s

/-- The region of an owner with a BASE. -/
def regionAt (s : State) (owner base : Nat) : Option RegionD := (regionList s owner).find? fun r => r.base == base

/-- A region of an owner replaced. -/
def setRegion (owner : Nat) (r : RegionD) (s : State) : State :=
  setList owner ((regionList s owner).map fun x => if x.base = r.base then r else x) s

/-- Event 0x0707 (R262, R278). -/
def regionChanged (owner op base : Nat) (s : State) : State := raise 0x0707 owner [(1, op), (8, base)] s

/-- PINNED is set on a region and its pages (R262, R267). -/
def setPinned (owner : Nat) (r : RegionD) (v : Bool) (s : State) : State :=
  let s := setRegion owner { r with flags := if v then r.flags ||| 1 else r.flags - r.flags % 2 } s
  setTags (fun t => { t with pinned := v }) (if r.kind = 1 then [] else pagesOf r.base r.bytes) s

/-- Absent pages of a region take free entries and migrate (R267). -/
def pinPages (r : RegionD) (s : State) : State :=
  (pagesOf r.base r.bytes).foldl (fun s p =>
    if (tag s p).res = .absent ∧ entryOf s p = none then
      match freeEntry s with
      | some e => startMigration e p s
      | none => s
    else s) s

/-- A PIN goes on (R267): it ends when the last page is RESIDENT. -/
def pinStep (j : RgnJob) (s : State) : State :=
  match regionAt s j.owner j.base with
  | none => finishRgn j.via stBadArg 0 s
  | some r =>
    let s := pinPages r s
    if (pagesOf r.base r.bytes).all fun p => (tag s p).res == .resident then
      finishRgn j.via stOk 0 (regionChanged j.owner 5 r.base (setPinned j.owner r true s))
    else s

/-- The page's write-back starts (R276 steps 3 to 5). -/
def startEvict (e p : Nat) (s : State) : State :=
  let s := setEntry e (some { page := p, evict := true, begun := true }) (drawn s)
  let s := flushPage p (setTag p { tag s p with res := .evicting } s)
  let r := readMem whoEngine (p * 2 ^ 21) (2 ^ 21) s
  hostWrite (backingOff r.1 p) r.2.1 (.evict e) r.1

/-- An EVICT goes on (R276): it waits for the page's entry and for the work that covers it. (DEDUCED, assumption log 119) -/
def evictStep (j : RgnJob) (s : State) : State :=
  let p := pageOf j.base
  match entryOf s p with
  | some e => match coEntry s e with
    | some c =>
      if c.evict && !openUses s (.evict e) then
        let t := tag s p
        let s := setEntry e none s
        if c.failed then finishRgn j.via stIntegrity 0 (setTag p { t with res := .resident, count := 0 } s)
        else
          let s := setTag p { t with res := .absent, count := 0 } s
          finishRgn j.via stOk 0 (raise 0x0706 (tagSubject t) [(8, p * 2 ^ 21)] s)
      else s
    | none => s
  | none =>
    if (tag s p).res = .absent then finishRgn j.via stOk 0 s
    else if (pagesInUse s fun _ => true).contains p || ringBusy s p then s
    else match freeEntry s with
      | some e => startEvict e p s
      | none => s

/-- The region command in progress goes on. -/
def advanceRegion (s : State) : State :=
  match s.rgn.job with
  | some j => if j.op = 7 then evictStep j s else pinStep j s
  | none => s

end Sys2Proof.Machine
end

