-- ==== Sys2Proof/Machine/Secure.lean ====
section
/-! DEFINITION. Secured state (R389 to R397): what a securing writes, its stages and its end, and when one is bound. -/

namespace Sys2Proof.Machine

/-! ### What a securing writes -/

/-- Byte of a slot at which the anchor copy lies (R391). -/
def anchorOff : Nat := 8392704

/-- Where each secured tensor lies in the slot (R391): its index, its bytes and its offset, from an offset on. -/
def secureLayout (i : Image) : Nat → List Nat → List (Nat × Nat × Nat)
  | _, [] => []
  | at_, t :: r =>
    let n := (i.tensors[t]?).elim 0 tensorExtent
    let a := ceilDiv at_ 4096 * 4096
    (t, n, a) :: secureLayout i (a + n) r

/-- The tensors whose SECURED flag is set (R77, R389). -/
def securedTensors (i : Image) : List Nat :=
  (i.tensors.zipIdx.filter fun p => p.1.flags.testBit 0).map (·.2)

/-- The blocks of a run that are poisoned. -/
def poisonedBlocks (s : State) (a n : Nat) : Nat := ((blocksOf a n).filter fun b => look false s.mem.poison b).length

/-- An entry (Table 14.3). -/
def secureEntry (id t bytes off poisoned : Nat) (data : List Byte) : List Byte :=
  toLE 4 id ++ toLE 2 t ++ zeros 2 ++ toLE 8 bytes ++ toLE 8 off ++ toLE 8 poisoned ++ zeros 32 ++ sha3 data

/-- The header (Table 14.2) with a MAGIC and no digest. -/
def secureHeader (s : State) (magic slot flags gen index tick entries tensors dataBytes : Nat) (digest pos : List Byte) : List Byte :=
  toLE 4 magic ++ toLE 2 1 ++ toLE 1 slot ++ toLE 1 flags ++ toLE 8 gen ++ toLE 8 index ++ toLE 8 tick ++ toLE 4 entries
    ++ toLE 4 tensors ++ toLE 8 dataBytes ++ toLE 4 s.zng.peerId.toNat
    ++ toLE 2 (if s.xng.role = .solo then 0xFFFF else s.xng.rank.toNat) ++ toLE 1 s.hlt.slotLog2.toNat ++ zeros 9
    ++ padTo 64 digest ++ padTo 128 pos ++ zeros 256

/-- MAGIC of a secured state. -/
def securedMagic : Nat := 0x44434553

/-- The destination's record in the flash (R390): 0 the partner, 1 the host. -/
def destGen (s : State) (d : Nat) : DestGen := if d = 0 then s.flash.partner else s.flash.host

/-- What a securing of an anchor writes, every byte of it read (R389 to R391): the job, and the state after its reads. -/
def readSecured (sl : ImgSlot) (i : Image) (index tick : Nat) (emergency : Bool) (s : State) : State × Securing :=
  let tc := i.tensors.length
  let stats := (boundKind sl 2).elim 0 (·.1)
  let lay := secureLayout i (anchorOff + 512 * tc) (securedTensors i)
  let (s, copy, bad) := readMem whoEngine (stats + 512 * tc) (512 * tc) s
  let (s, parts, bad) := lay.foldl (fun (acc : State × List (List Byte × List Byte × Nat) × Bool) e =>
    let (s, ps, bad) := acc
    match i.tensors[e.1]? with
    | none => (s, ps, bad)
    | some te =>
      let (s, bs, p) := readMem whoEngine (tensorBase sl te) e.2.1 s
      let n := poisonedBlocks s (tensorBase sl te) e.2.1
      (s, ps ++ [(bs, secureEntry te.id e.1 e.2.1 e.2.2 n bs, e.2.2)], bad || p)) (s, [], bad)
  let dataBytes := (lay.getLast?).elim (anchorOff + 512 * tc) fun e => e.2.2 + e.2.1
  let ents := parts.flatMap (·.2.1)
  let flags := b2n emergency + 2 * b2n bad + 4 * b2n (s.xng.role != .solo)
  let dests := (secureDests s).map fun d =>
    let g := destGen s d
    ({ dest := d, slot := !(g.slot.getD true), gen := g.gen + 1 } : SecDest)
  let head (d : SecDest) (magic : Nat) : List Byte :=
    secureHeader s magic (b2n d.slot) flags d.gen index tick parts.length tc dataBytes i.digest sl.position
  let headers := dests.map fun d =>
    let h := head d securedMagic
    (d.dest, patch h 256 (sha3 (h ++ ents ++ copy)))
  (s, { index := index, tick := tick, emergency := emergency
        stages := [parts.map fun p => (p.2.2, p.1), [(anchorOff, copy)], [(512, ents)]]
        dests := dests, begun := s.xng.tick.toNat, slotLog2 := s.hlt.slotLog2.toNat, host := s.hlt.hostOff, headers := headers })

/-- One write of a securing leaves for its destination (R390). -/
def secureWrite (j : Securing) (d : SecDest) (off : Nat) (bs : List Byte) (s : State) : State :=
  if bs.isEmpty then s
  else if d.dest = 0 then
    match s.flash.pairing with
    | some p => peerWrite p.peer (p.theirs + 1 + b2n d.slot) off bs (.secure 0 d.stage) s
    | none => s
  else hostWrite (j.host + b2n d.slot * 2 ^ j.slotLog2 + off) bs (.secure 1 d.stage) s

/-- The writes of a destination's stage leave: the header with MAGIC zero, the data, the anchor copy, the entries, the header. -/
def startStage (j : Securing) (d : SecDest) (s : State) : State :=
  let head := (assoc d.dest j.headers).getD []
  if d.stage = 1 then secureWrite j d 0 (patch head 0 (zeros 4)) s
  else if d.stage = 5 then secureWrite j d 0 head s
  else (j.stages.getD (d.stage - 2) []).foldl (fun s w => secureWrite j d w.1 w.2 s) s

/-- A destination of the securing in progress set. -/
def setDest (d : SecDest) (s : State) : State :=
  match s.hlt.securing with
  | some j => { s with hlt := { s.hlt with securing := some { j with dests := j.dests.map fun e => if e.dest = d.dest then d else e } } }
  | none => s

/-- A destination's header write is acknowledged (R391): the flash and LAST_INDEX are updated. -/
def destDone (j : Securing) (d : SecDest) (s : State) : State :=
  let g : DestGen := { slot := some d.slot, gen := d.gen }
  let s := { s with flash := if d.dest = 0 then { s.flash with partner := g } else { s.flash with host := g }
                    hlt := { s.hlt with lastIndex := BitVec.ofNat 48 j.index } }
  setDest { d with ended := true, ok := true } s

/-- The stages of a destination go on while their writes are acknowledged; by fuel. (DEDUCED, assumption log 49) -/
def advanceDest (d : Nat) : Nat → State → State
  | 0, s => s
  | n + 1, s =>
    match s.hlt.securing with
    | none => s
    | some j => match j.dests.find? fun e => e.dest == d with
      | none => s
      | some e =>
        if e.ended || openUses s (.secure d e.stage) then s
        else if e.stage = 5 then destDone j e s
        else
          let e := { e with stage := e.stage + 1 }
          advanceDest d n (startStage j e (setDest e s))

/-- The ticks that a securing has lasted, saturating (R394). -/
def secureCost (s : State) (j : Securing) : BitVec 32 := BitVec.ofNat 32 (min (s.xng.tick.toNat - j.begun) 0xFFFFFFFF)

/-- Every destination has ended: the securing is over (R391, R392, R395). (DEDUCED, assumption log 24, 50) -/
def endSecuring (s : State) : State :=
  match s.hlt.securing with
  | none => s
  | some j =>
    if j.dests.all (·.ended) then
      let ok := j.dests.any (·.ok)
      let s := { s with hlt := { s.hlt with securing := none, cost := if ok then secureCost s j else s.hlt.cost } }
      let s := if j.dests.all (·.ok) then raise 0x0B03 noSubject [] s else s
      let s := (waiters s .secured).foldl (fun s m =>
        if ok then complete m stOk [j.index] [] s else finish m stIntegrity s) s
      if j.emergency || s.hlt.emergency then s
      else if s.mode = .securing then setMode (restMode s) s else s
    else s

/-- The securing in progress goes on (R391). (DEDUCED, assumption log 24) -/
def advanceSecuring (s : State) : State := endSecuring (advanceDest 1 6 (advanceDest 0 6 s))

/-- A destination's write returned an error: its securing ends (R391). (DEDUCED, assumption log 24) -/
def failDest (d : Nat) (s : State) : State :=
  match s.hlt.securing with
  | none => s
  | some j => match j.dests.find? fun e => e.dest == d with
    | some e =>
      if e.ended then s
      else
        let drop (r : HostReq) : Bool := match r.use with
          | .secure d' _ => d' == d
          | _ => false
        let s := { s with zng := { s.zng with queued := s.zng.queued.filter fun r => !drop r } }
        endSecuring (secureFailed (setDest { e with ended := true } s))
    | none => s

/-- A securing of an anchor starts (R389 to R393): refused where it has no destination or is larger than a slot.
(DEDUCED, assumption log 49, 51) -/
def startSecuring (index tick : Nat) (emergency : Bool) (s : State) : State :=
  let sl := actSlot s
  let fail (s : State) : State := secureRefused (finishAll .secure stIntegrity s)
  match sl.image with
  | none => fail s
  | some i =>
    if (secureDests s).isEmpty || s.ttu.noRecovery then fail s
    else
      let (s, j) := readSecured sl i index tick emergency (drainAll s)
      let size := fld ((j.headers.head?).elim [] (·.2)) 40 8
      if 2 ^ j.slotLog2 < size then fail s
      else
        let s := if emergency then raise 0x0B09 noSubject [] s else raise 0x0B02 noSubject [] s
        let s := { s with hlt := { s.hlt with securing := some j, lastBind := tick, expired := false } }
        let s := (waiters s .secure).foldl (fun s m => await m .secured s) s
        let s := if emergency then s else setMode .securing s
        advanceSecuring (j.dests.foldl (fun s d => startStage j d s) s)

/-- A securing in progress is abandoned (R397, R407). -/
def abandonSecuring (s : State) : State :=
  let keep (r : HostReq) : Bool := match r.use with
    | .secure _ _ => false
    | _ => true
  let s := { s with
    hlt := { s.hlt with securing := none, armed := none }
    zng := { s.zng with queued := s.zng.queued.filter keep } }
  finishAll .secure stIntegrity (finishAll .secured stIntegrity s)

/-! ### Binding (R393 to R396) -/

/-- I of R394, from C, W and F: sqrt(2 × C × M) held within 4 × C to 2^32 − 1. (DEDUCED, assumption log 91) -/
def intervalTicks (s : State) : Nat :=
  let c := s.hlt.cost.toNat
  let hours := s.hlt.windowH.toNat * 3600 * second
  let f := (s.hlt.weighty.filter fun t => decide (s.now < t + hours)).length
  let m := hours / s.xng.current.toNat / (f + 1)
  min (2 ^ 32 - 1) (max (4 * c) (isqrt (2 * c * m)))

/-- At tick n of the interval mode I ticks have passed since the previous securing's anchor, or since the start: a securing is
requested (R394). -/
def expireInterval (n : Nat) (s : State) : State :=
  if s.hlt.mode && s.ttu.func == .running && !s.hlt.expired && decide (s.hlt.lastBind + intervalTicks s ≤ n) then
    requestSecuring (raise 0x0B01 noSubject [(1, 2)] { s with hlt := { s.hlt with expired := true } })
  else s

/-- An anchor commits at tick n (R392 to R394): the interval mode's request is due before it, and an armed securing binds to it,
unless one is still in progress. (DEDUCED, assumption log 49) -/
def bindAnchor (index n : Nat) (s : State) : State :=
  let s := expireInterval n s
  match s.hlt.armed with
  | some t =>
    if t ≤ n ∧ s.hlt.securing.isNone then startSecuring index n false { s with hlt := { s.hlt with armed := none } } else s
  | none => s

end Sys2Proof.Machine
end

