-- ==== Sys2Proof/Machine/Timetable.lean ====
section
/-! DEFINITION. The timetable unit (R58, R63, R72, R73, R84 to R88, R154, R200 to R220, R384 to R387): how an index opens, runs
and closes, its starts and stops, replay and switches; and STEP_COMPLETION, TIMETABLE_STOPPED and SHIPMENT_START. -/

namespace Sys2Proof.Machine

/-! ### Phases and batches -/

/-- A module in a group whose decisions it applies. -/
def grouped (s : State) : Bool := s.xng.role == .member || s.xng.role == .lead || s.xng.role == .leaving

/-- The members of the group. -/
def groupSize (s : State) : Nat := s.xng.sizeM1.toNat + 1

/-- The size that GROUP compares RANKS with: 1 on a solo module. (DEDUCED, assumption log 57) -/
def rankCount (s : State) : Nat := if grouped s then groupSize s else 1

/-- The statistics record of a tensor (Table 5.6) written over bytes 0 to 63 of its slot (R154). -/
def writeStats (sl : ImgSlot) (i : Image) (x : CrossingEnt) (index t : Nat) (s : State) : State :=
  let a := statsAddr sl t
  let st := look {} s.ttu.stats t
  let writes := min (leNat (peek s (a + 56) 4) + 1) 0xFFFFFFFF
  writeMem whoEngine a (toLE 8 st.elements ++ toLE 8 st.zeros ++ toLE 8 st.sats ++ toLE 8 st.nans ++ toLE 8 st.infs
    ++ toLE 4 st.amax ++ toLE 1 (b2n (fullWrite i x t)) ++ zeros 3 ++ toLE 8 index ++ toLE 4 writes ++ zeros 4) s

/-- The records of the tensors that a crossing writes (R72, R154). -/
def writeAllStats (sl : ImgSlot) (i : Image) (x : CrossingEnt) (index : Nat) (s : State) : State :=
  (crossingWrites i x).foldl (fun s t => writeStats sl i x index t (settleCopies t s)) s

/-- Phases and batches go on while every step of the present ones is done (R58, R87); by fuel. PHASE reaches PHASES when
the crossing's steps are all done. -/
def goOn : Nat → State → State
  | 0, s => s
  | n + 1, s =>
    let sl := actSlot s
    match sl.image with
    | none => s
    | some i =>
      let x := openCrossing s i
      if !s.ttu.opened || x.phases ≤ s.ttu.phase then s
      else
        let here := (stepsOf x).filter fun k => match i.steps[k]? with
          | some st => st.phase == s.ttu.phase && stepBatch s st == s.ttu.batch
          | none => false
        if !(here.all fun k => s.ttu.done.contains k) then s
        else
          let B := batches s i.lislets
          if s.ttu.batch + 1 < B then goOn n (changeBatch (s.ttu.batch + 1) i.lislets s)
          else
            let s := if B = 1 then s else changeBatch 0 i.lislets s
            goOn n { s with ttu := { s.ttu with phase := s.ttu.phase + 1 } }

/-- Fuel enough for every phase and batch of a crossing. -/
def goFuel (s : State) : Nat := 16 * ((actSlot s).image.elim 1 fun i => batches s i.lislets) + 1

/-- Every step of the index that executes has completed. -/
def stepsDone (s : State) : Bool :=
  match (actSlot s).image with
  | none => true
  | some i => decide ((openCrossing s i).phases ≤ s.ttu.phase)

/-- A securing has not yet read every byte that it secures: a destination's data or anchor copy is still to be written (R392).
(DEDUCED, assumption log 49) -/
def securingReads (s : State) : Bool :=
  s.hlt.securing.any fun j => j.dests.any fun d => !d.ended && (decide (d.stage < 4)
    && (decide (d.stage < 3) || s.zng.queued.any fun r => r.use == .secure d.dest d.stage))

/-- The open crossing is an anchor whose commit waits for the securing's reads (R392). -/
def anchorWaits (s : State) : Bool :=
  securingReads s && (actSlot s).image.any fun i => isAnchor (crossingAt i s.xng.index.toNat)

/-- Every step of XNG_INDEX has completed, no islet fault is outstanding, and no replay is in progress. -/
def indexDone (s : State) : Bool :=
  s.ttu.opened && stepsDone s && !s.ttu.replay && s.isl.faulted.isEmpty

/-- The maintenance work of the open crossing has ended (R31, R242). -/
def maintDone (s : State) : Bool := !s.mem.maint || ((s.mem.chans.all fun c => !c.2.busy) && s.mem.scanning.isNone)

/-- This module's crossing may close (R25, R31, R392). -/
def readyNow (s : State) : Bool :=
  s.ttu.func != .running
    || (if s.ttu.switchWait then !securingReads s else indexDone s && maintDone s && !anchorWaits s)

/-- An index starts to execute: nothing of it has run (R58). -/
def beginIndex (c : Nat) (s : State) : State :=
  let s := { s with ttu := { s.ttu with
    runIdx := c, ran := [], done := [], ahead := [], phase := 0, opened := true, stats := [], copied := [] } }
  goOn (goFuel s) s

/-! ### Closing a crossing -/

/-- The new scale-history line and bytes 64 to 127 of a slot, for a write in a crossing (R202).
(DEDUCED, assumption log 113) -/
def updateHistory (sl : ImgSlot) (i : Image) (x : CrossingEnt) (index t : Nat) (s : State) : State :=
  match i.tensors[t]? with
  | none => s
  | some te =>
    let a := statsAddr sl t
    let f := tensorFmt te
    let old := peek s (a + 64) 64
    let len := max 1 (fld old 4 1)
    let next := fld old 6 1
    let full := fullWrite i x t
    let newS := if full && fmtIsScaled f then scaleBits (derivedScale f (historyOf s sl t)) else fld old 0 4
    let changes := if newS = fld old 0 4 then fld old 16 4 else min (fld old 16 4 + 1) 0xFFFFFFFF
    let line := 128 + 4 * next / 64 * 64
    let amax := patch (peek s (a + line) 64) (4 * next % 64) (toLE 4 (look {} s.ttu.stats t).amax)
    let s := writeMem whoEngine (a + line) amax s
    writeMem whoEngine (a + 64) (toLE 4 newS ++ toLE 1 (fld old 4 1) ++ toLE 1 (min (fld old 5 1 + 1) len)
      ++ toLE 1 ((next + 1) % len) ++ toLE 1 (b2n full) ++ toLE 8 index ++ toLE 4 changes ++ slice old 20 44) s

/-- The tick that closes an index updates the slots of the tensors it wrote (R154, R202), each in order: the line of the new AMAX entry,
bytes 64 to 127, and the statistics record. (DEDUCED, assumption log 113) -/
def closeIndex (s : State) : State :=
  let sl := actSlot s
  match sl.image with
  | none => s
  | some i =>
    let x := openCrossing s i
    (crossingWrites i x).foldl (fun s t =>
      let s := settleCopies t s
      writeStats sl i x s.ttu.runIdx t (updateHistory sl i x s.ttu.runIdx t s)) s

/-- The tensor count of a slot's image. -/
def tensorCount (sl : ImgSlot) : Nat := sl.image.elim 0 (·.tensors.length)

/-- A run of memory copied by an internal engine. -/
def copyMem (src dst n : Nat) (s : State) : State :=
  let (s, bs, _) := readMem whoEngine src n s
  writeMem whoEngine dst bs s

/-- The STATS slots copied into the anchor copy (R384). -/
def takeCopy (sl : ImgSlot) (s : State) : State :=
  let n := 512 * tensorCount sl
  if s.ttu.noRecovery then s else copyMem (statsAddr sl 0) (statsAddr sl 0 + n) n s

/-- The STATS slots taken back from the anchor copy (R387). -/
def restoreCopy (sl : ImgSlot) (s : State) : State :=
  let n := 512 * tensorCount sl
  copyMem (statsAddr sl 0 + n) (statsAddr sl 0) n s

/-- The cursor that a step binds (R208): the greatest tag at or below it. -/
def boundCursor (sl : ImgSlot) (step : Nat) : Option Cursor :=
  (sl.cursors.filter fun c => decide (c.tag ≤ step)).foldl (fun best c =>
    match best with
    | none => some c
    | some b => if b.tag < c.tag then some c else some b) none

/-- The position record (Table 7.3). -/
def positionRecord (sl : ImgSlot) (index : Nat) : List Byte :=
  let step := stepCounter sl index
  let (tag, data) := match boundCursor sl step with
    | some c => (c.tag, padTo 64 c.data)
    | none => (0xFFFFFFFFFFFFFFFF, zeros 64)
  let body := toLE 8 index ++ toLE 8 step ++ toLE 8 sl.seed ++ toLE 8 tag ++ data ++ zeros 28
  body ++ toLE 4 (crc32c body)

/-- The position record formed at an anchor's commit, the cursors below the bound one dropped (R208). -/
def takePosition (index n : Nat) (s : State) : State :=
  let sl := actSlot s
  let b := boundCursor sl (stepCounter sl index)
  let keep := match b with
    | some c => sl.cursors.filter fun x => decide (c.tag ≤ x.tag)
    | none => sl.cursors
  let s := setSlot s.ttu.active { sl with position := positionRecord sl index, cursors := keep, ranIndex := some index, ranTick := n } s
  if b.isNone && !sl.cursors.isEmpty then raise 0x020D noSubject [] s else s

/-- Captured snapshots are released for shipment (R212). -/
def releaseShips (s : State) : State :=
  { s with ttu := { s.ttu with released := s.ttu.released ++ s.ttu.captured, captured := [] } }

/-! ### Completion records of the window queues (R340, R386) -/

/-- Slots of a window queue (Table 12.4). -/
def winEntries (q : Nat) : Nat := if q = 0 then 64 else 128

/-- A completion record (Table 12.7). -/
def completionRecord (c : WinCmd) (status : Nat) : List Byte :=
  let h := toLE 4 c.seq ++ toLE 1 status ++ zeros 3 ++ toLE 4 c.tag ++ zeros 4 ++ toLE 8 c.bytes ++ zeros 4
  h ++ toLE 4 (crc32c h)

/-- The command of a SEQ that has not ended, changed; a record of the same SEQ that still waits, STALE, stays as it is (R337). -/
def changeCmd (seq : Nat) (f : WinCmd → WinCmd) : List WinCmd → List WinCmd
  | [] => []
  | c :: r => if c.seq = seq ∧ c.status = none then f c :: r else c :: changeCmd seq f r

/-- The first record not written counts as written. -/
def firstWritten : List WinCmd → List WinCmd
  | [] => []
  | c :: r => if c.written then c :: firstWritten r else { c with written := true } :: r

/-- A queue's command changed, by its SEQ. -/
def setWinCmd (p q seq : Nat) (f : WinCmd → WinCmd) (s : State) : State :=
  let w := winQ s p q
  setWinQ p q { w with cmds := changeCmd seq f w.cmds } s

/-- Where the record of a SEQ goes (R340, R358). -/
def recordSlot (s : State) (p q seq : Nat) : Nat :=
  (winQ s p q).ring + (if q = 0 then 2048 else 32) * (seq % winEntries q)

/-- The record of a position may be written now: it is the first of its queue not written, and not held. -/
def recordDue (s : State) (e : Nat × Nat × Nat) : Option WinCmd :=
  match (winQ s e.1 e.2.1).cmds.find? fun c => !c.written with
  | some c => if c.seq = e.2.2 ∧ c.held = false then some c else none
  | none => none

/-- One pass over the records that have arisen, in the order in which they arose. -/
def recordPass (s : State) : State :=
  s.zng.arose.foldl (fun s e =>
    match recordDue s e with
    | some c =>
      let s := { s with zng := { s.zng with arose := dropFirst e s.zng.arose } }
      let w := winQ s e.1 e.2.1
      let s := setWinQ e.1 e.2.1 { w with cmds := firstWritten w.cmds } s
      hostWrite (recordSlot s e.1 e.2.1 c.seq) (completionRecord c (c.status.getD 0))
        (.completion e.1 e.2.1 e.2.2) s
    | none => s) s

/-- Every record that may be written is written (R340, R386). -/
def writeRecords (s : State) : State := iter recordPass s.zng.arose.length s

/-- A command of a window queue has ended: its record arises, held where the queue is one of 1 to 7 and its context is that of a
timetable whose unit is not STOPPED (R386). -/
def recordArises (p q seq status : Nat) (s : State) : State :=
  let hold := q != 0 && s.ttu.func != .stopped && (winQ s p q).context == (actSlot s).context
  let s := setWinCmd p q seq (fun c => { c with status := some status, held := hold }) s
  writeRecords { s with zng := { s.zng with arose := s.zng.arose ++ [(p, q, seq)] } }

/-- Completion records held by the anchor rule are released (R386). -/
def releaseHeld (s : State) : State :=
  let ports := s.zng.ports.map fun p =>
    (p.1, { p.2 with queues := p.2.queues.map fun q =>
      (q.1, { q.2 with cmds := q.2.cmds.map fun c => { c with held := false } }) })
  writeRecords { s with zng := { s.zng with ports := ports } }

/-- An anchor commits at tick n (R73, R208, R212, R384 to R386, R392). -/
def commitAnchor (index n : Nat) (s : State) : State :=
  let s := takeCopy (actSlot s) s
  let s := takePosition index n s
  let s := { s with
    ttu := { s.ttu with exLog := [], exNext := 0, logFull := false }
    hlt := { s.hlt with anchorTick := n, anchored := true } }
  bindAnchor index n (releaseHeld (releaseShips s))

/-! ### Stopping -/

/-- A pending switch is cancelled (R217). -/
def cancelSwitch (s : State) : State :=
  match s.ttu.pending with
  | some r => raise 0x020E noSubject [] { s with
      ttu := { s.ttu with pending := none, lastMode := r.resume }
      xng := { s.xng with switchReq := none, switchAt := none } }
  | none => s

/-- The unit enters STOPPING (R30, R41, R68, R194, R372, R388): no further index opens. -/
def enterStopping (s : State) : State :=
  match s.ttu.func with
  | .running => cancelSwitch { s with ttu := { s.ttu with func := .stopping, stopNext := false } }
  | .starting =>
    finishAll .restore stState <| finishAll (.start 0) stState
      (cancelSwitch { s with ttu := { s.ttu with func := .stopping, stopNext := false, locksWait := false, switching := none } })
  | _ => { s with ttu := { s.ttu with stopNext := false } }

/-- The unit is STOPPED (R30, R212, R269, R386): its locks clear, what the anchor rule holds is released, and a snapshot not
released never ships. -/
def becomeStopped (s : State) : State :=
  let s := unlockPages (slotPages (actSlot s)) s
  let s := { s with
    ttu := { s.ttu with func := .stopped, opened := false, replay := false, replayDue := false, switchWait := false, stopNext := false
                        ran := [], done := [], ahead := [], locksWait := false, switching := none, captured := [] }
    xng := { s.xng with ttRunning := false, switchAt := none, switchReq := none } }
  let s := releaseHeld s
  settleMode (finishAll (.stop 0) stOk s)

/-- The unit stops by itself or after STOPPING: event 0x0204 (Table 2.18). -/
def timetableEnds (s : State) : State := raise 0x0204 noSubject [] (becomeStopped s)

/-- The steps in flight have completed, and their completions are registered. -/
def flightOver (s : State) : Bool := s.lnc.steps.isEmpty && s.ttu.ran.all fun k => s.ttu.done.contains k

/-- The open index's last phase has completed and no tick will close it: its statistics records are written (R154). -/
def lastRecords (s : State) : State :=
  let sl := actSlot s
  match sl.image with
  | none => s
  | some i =>
    let x := openCrossing s i
    if s.ttu.opened && (stepsOf x).all fun k => s.ttu.done.contains k then writeAllStats sl i x s.ttu.runIdx s else s

/-- In STOPPING, once the steps in flight have completed, the unit stops (R30). -/
def stopTimetable (s : State) : State :=
  if s.ttu.func = .stopping ∧ flightOver s = true then timetableEnds (lastRecords s) else s

/-- TIMETABLE_STOPPED (R30). (DEDUCED, assumption log 12) -/
def execTimetableStopped (s : State) : Host.Outcome State Fault Refusal := .next (stopTimetable s)

/-! ### Failing (R407) -/

/-- A function other than the timetable unit enters STOPPING where it runs or starts (R372); a start that is abandoned completes with STATE. -/
def stopFunction (f : Nat) (s : State) : State :=
  match funcOf s f with
  | .running => setFunc f .stopping s
  | .starting => finishAll (.start f) stState (setFunc f .stopping s)
  | _ => s

/-- A port enters STOPPING (R372): training is abandoned; an ACTIVE port's R350 runs as its STOPPING work, which FUNCTION_STOPPED ends.
(DEDUCED, assumption log 34) -/
def stopPort (p : Nat) (s : State) : State :=
  let s := if funcOf s (8 + p) = .starting then setPort p { portOf s p with phase := .down } s else s
  stopFunction (8 + p) s

/-- Every function enters STOPPING (R373, R407, Table 13.8). -/
def stopFunctions (s : State) : State :=
  (List.range 8).foldl (fun s p => stopPort p s) ([1, 2, 3].foldl (fun s f => stopFunction f s) (enterStopping s))

/-- The module enters FAILED (R407): `cause` is the place of its cause in assumption log 33. A member sends no further
votes, and no securing runs. (DESIGN CHOICE, assumption log 33) -/
def failModule (cause : Nat) (s : State) : State :=
  if s.mode = .failed then s
  else
    let s := raise 0x0B11 noSubject [(1, Config.causeCode 0x0B11 cause)] (setMode .failed s)
    stopFunctions (abandonSecuring s)

/-! ### Starting -/

/-- The length of a tensor's scale history: an entry of 0 stands for 16 (R77, Table 2.6). -/
def histLen (te : TensorEnt) : Nat := if te.hist = 0 then 16 else te.hist

/-- A STATS slot's first bytes (R201). -/
def freshSlot (te : TensorEnt) : List Byte :=
  zeros 64 ++ toLE 4 0x3F800000 ++ toLE 1 (histLen te) ++ zeros 3 ++ toLE 8 0xFFFFFFFFFFFFFFFF ++ zeros (512 - 80)

/-- Every STATS slot initialised, and the anchor copy with it (R201, R384). -/
def initStats (sl : ImgSlot) (i : Image) (s : State) : State :=
  let bs := i.tensors.flatMap freshSlot
  let s := writeMem whoEngine (statsAddr sl 0) bs s
  if s.ttu.noRecovery then s else writeMem whoEngine (statsAddr sl 0 + bs.length) bs s

/-- The image's STATS region has no room for an anchor copy (R384). -/
def lacksCopy (sl : ImgSlot) : Bool := decide ((boundKind sl 2).elim 0 (·.2) < 1024 * tensorCount sl)

/-- The latest index at or below A that runs a position. -/
def latestIndex (i : Image) (A p : Nat) : Option Nat :=
  let C := i.crossings.length
  if p < i.loopFrom || !i.loop then (if p ≤ A then some p else none)
  else
    let body := C - i.loopFrom
    if A < p then none
    else if body = 0 then none
    else some (p + (A - p) / body * body)

/-- The live bytes of one POLICY step written back from its staging copy (R73); one that holds poison is not reloaded at all (R388). -/
def reloadPolicy (sl : ImgSlot) (i : Image) (o : SnapOp) (s : State) : State :=
  let rs := (rangesAt i o.rangeFirst o.rangeCount).getD []
  let base := regionBase sl o.staging
  let (s, outs, poison) := (policyGroups i o rs 0 4096 []).foldl
    (fun (acc : State × List (PolicyGroup × List Byte) × Bool) g =>
      let (s, bs, p) := readMem whoSnap (base + g.stage) (groupBytes i o g) acc.1
      (s, acc.2.1 ++ [(g, bs)], acc.2.2 || p)) (s, [], false)
  if poison then poisonStop s else outs.foldl (fun s g => writeStore g.1.lislet g.1.addr g.2 s) s

/-- The live POLICY bytes of the indices through A reloaded, oldest first (R219, R387). -/
def reloadPolicies (A : Nat) (s : State) : State :=
  let sl := actSlot s
  match sl.image with
  | none => s
  | some i =>
    let steps := i.crossings.zipIdx.flatMap fun c => (stepsOf c.1).filterMap fun k => match i.steps[k]? with
      | some st => match st.op with
        | .snap o => if o.mode = 1 then (latestIndex i A c.2).map fun x => (x, o) else none
        | _ => none
      | none => none
    (steps.mergeSort fun a b => decide (a.1 ≤ b.1)).foldl (fun s p => reloadPolicy sl i p.2 s) s

/-- The tick that opens a start's first index (R84, R201, R219, R384, R402). Every start zeroes XNG_SLACK.TOTAL and XNG_TT_TIME but a
RESUME switch, which continues a run (DEDUCED, assumption log 52). -/
def openStart (s : State) : State :=
  let sl := actSlot s
  match sl.image with
  | none => s
  | some i =>
    let switched := s.ttu.switching.isSome
    let at_ := s.ttu.restart.getD 0
    let s := { s with
      ttu := { s.ttu with func := .running, switching := none, restart := none, noRecovery := lacksCopy sl, exLog := []
                          exNext := 0, logFull := false, replay := false, replayDue := false, stopNext := false }
      xng := { s.xng with index := BitVec.ofNat 48 at_, ttRunning := true, slackRun := 0, overrunRaised := false }
      hlt := { s.hlt with lastBind := s.xng.tick.toNat, expired := false, anchored := at_ != 0, anchorTick := sl.ranTick } }
    let s := if at_ = 0 ∨ switched = false then { s with xng := { s.xng with slackTotal := 0, ttTime := 0 } } else s
    let s := if s.ttu.noRecovery then raise 0x0B0D noSubject [] s else s
    let s := residentStart i.lislets s
    let s := if at_ = 0 then initStats sl i s else reloadPolicies (at_ - 1) s
    let s := if switched then s else raise 0x0203 noSubject [] s
    beginIndex at_ (finishAll .restore stOk (finishAll (.start 0) stOk s))

/-- The unit leaves STOPPED for STARTING (R84, R268): the pages are to be locked. -/
def beginStart (restart : Option Nat) (s : State) : State :=
  settleMode { s with ttu := { s.ttu with func := .starting, locksWait := true, restart := restart, groupDue := restart.isSome } }

/-! ### Replay (R387) -/

/-- The first index after the last committed anchor, or the first of the run. -/
def replayFrom (s : State) : Nat := match (actSlot s).ranIndex with
  | some a => a + 1
  | none => 0

/-- Replayed indices close and the next opens (R387); at XNG_INDEX the replay ends when its steps are done. By fuel. -/
def advanceReplay : Nat → State → State
  | 0, s => s
  | n + 1, s =>
    if s.ttu.replay && !s.ttu.replayDue && stepsDone s && s.isl.faulted.isEmpty then
      if s.ttu.runIdx < s.xng.index.toNat then
        let s := closeIndex s
        advanceReplay n (beginIndex (s.ttu.runIdx + 1) s)
      else raise 0x0B06 noSubject [] { s with ttu := { s.ttu with replay := false } }
    else s

/-- Indices that a replay may pass without a step of their own. -/
def replayFuel (s : State) : Nat := s.xng.index.toNat - s.ttu.runIdx + 1

/-- A replay goes on (R387): once the steps in flight have completed, the STATS slots and the stores are rewritten and index A + 1 runs
again; then each index follows the one before. -/
def settleReplay (s : State) : State :=
  if s.ttu.replay && s.ttu.replayDue && flightOver s && s.isl.faulted.isEmpty then
    let sl := actSlot s
    let A := replayFrom s
    let s := restoreCopy sl { s with ttu := { s.ttu with replayDue := false } }
    let s := residentStart (sl.image.elim 0 (·.lislets)) s
    let s := if A = 0 then s else reloadPolicies (A - 1) s
    let s := beginIndex A s
    advanceReplay (replayFuel s) s
  else advanceReplay (replayFuel s) s

/-- The tick after an islet fault: a replay is due, or the unit stops where it cannot run (R387). -/
def startReplay (s : State) : State :=
  if s.ttu.noRecovery || (grouped s && s.ttu.logFull) then
    let s := enterStopping { s with ttu := { s.ttu with replay := false, replayDue := false } }
    { s with xng := { s.xng with silent := grouped s } }
  else
    let s := raise 0x0B05 noSubject [] s
    settleReplay { s with ttu := { s.ttu with replay := true, replayDue := true } }

/-! ### STEP_COMPLETION -/

/-- The cycle of the next tick (R18). -/
def nextTickCycle (s : State) : Nat := ((s.xng.tickCycle.toNat + s.xng.current.toNat : Nat) + s.xng.slew).toNat

/-- A step that has taken its effect registers its completion, dated `at_`, and what waited for it goes on (R20, R58, R87, R387). -/
def takeCompletion (step at_ : Nat) (s : State) : State :=
  let s := passCycle at_ s
  let wait := s.lnc.steps.any fun k => k.2.step == step
  let s := if s.ttu.ran.contains step && !s.ttu.done.contains step && !wait && s.isl.faulted.isEmpty
    then registerDone step s else s
  if s.ttu.func = .running then settleReplay (goOn (goFuel s) s) else s

/-- STEP_COMPLETION (R19, R20): `cycles` after the tick that opened the crossing. One dated at the next tick or later belongs to a
crossing not yet open, and waits for its tick. -/
def execStepCompletion (step cycles : Nat) (s : State) : Host.Outcome State Fault Refusal :=
  let at_ := s.xng.tickCycle.toNat + cycles
  .next (if s.xng.running && decide (nextTickCycle s ≤ at_) then
    (if s.ttu.ran.contains step && !s.ttu.done.contains step then
      { s with ttu := { s.ttu with ahead := s.ttu.ahead ++ [(step, at_)] } } else s)
  else takeCompletion step at_ s)

/-! ### Switches (R217 to R220) -/

/-- A pending switch may apply at this tick: in a group from its index on (R220). (DEDUCED, assumption log 58) -/
def switchDue (index : Nat) (s : State) : Bool :=
  match s.ttu.pending with
  | some r => !grouped s || (r.atIndex != 0 && decide (r.atIndex ≤ index))
  | none => false

/-- Pages that the outgoing image has locked and the incoming image binds too (R269). -/
def sharedLocks (s : State) : List Nat :=
  let incoming := slotPages (shadowSlot s)
  (slotPages (actSlot s)).filter fun p => (tag s p).lock && incoming.contains p

/-- The outgoing image of a switch stops; a page bound by both images stays locked throughout (R269). -/
def stopForSwitch (s : State) : State :=
  let keep := sharedLocks s
  let s := setTags (fun t => { t with lock := true }) keep (becomeStopped s)
  { s with rgn := { s.rgn with locked := !keep.isEmpty } }

/-- A switch applies (R218, R219): the slots change places, and the incoming image starts. `atAnchor` says that the outgoing
image stopped at the commit of an anchor. (DEDUCED, assumption log 52, 58) -/
def applySwitch (atAnchor : Bool) (s : State) : State :=
  match s.ttu.pending with
  | none => s
  | some r =>
    let s := stopForSwitch { s with ttu := { s.ttu with pending := none, lastMode := r.resume } }
    let incoming := shadowSlot s
    let incoming := if r.resume then incoming
      else { incoming with seed := r.seed, stepBase := r.stepBase, cursors := [], position := [], ranIndex := none }
    let restart := if r.resume then some ((incoming.ranIndex.getD 0) + 1) else none
    let s := setSlot (!s.ttu.active) incoming s
    let s := beginStart restart (raise 0x020C noSubject [] s)
    { s with ttu := { s.ttu with
      active := !s.ttu.active, resumable := atAnchor, switching := some r, groupDue := true } }

/-! ### Shipments (R212) -/

/-- The target of a staging region of a slot. (DEDUCED, assumption log 54) -/
def shipTarget (s : State) (b : Bool) (r : Nat) : Option ShipTarget := s.ttu.targets.find? fun t => t.slot == b && t.region == r

/-- The writes of a shipment that has ended concern it no longer: those that wait are gone, and the end of the others is nobody's. -/
def dropShip (s : State) : State :=
  let ship (r : HostReq) : Bool := match r.use with
    | .ship _ => true
    | _ => false
  { s with zng := { s.zng with
      queued := s.zng.queued.filter fun r => !ship r
      issued := s.zng.issued.map fun r => if ship r then { r with use := .dropped } else r } }

/-- A shipment ends without its manifest (R212). (DEDUCED, assumption log 54) -/
def shipFails (s : State) : State :=
  raise 0x020B noSubject [] (dropShip { s with ttu := { s.ttu with shipping := none, shipErr := true } })

/-- The manifest is written once every data write is acknowledged; then the shipment is reported (R212). -/
def advanceShip (s : State) : State :=
  match s.ttu.shipping with
  | none => s
  | some sh =>
    match sh.target with
    | none => shipFails s
    | some (base, _) =>
      if openUses s (.ship sh.manifest) then s
      else if sh.manifest then
        let s := raise 0x020A noSubject [] { s with ttu := { s.ttu with
          shipping := none, shipSeq := BitVec.ofNat 32 sh.snap.seq } }
        eventIrq 0x020A (sh.snap.region + sh.snap.seq * 2 ^ 8) s
      else
        let (s, bs, _) := readMem whoSnap sh.snap.stage sh.snap.manifest s
        hostWrite base bs (.ship true) { s with ttu := { s.ttu with shipping := some { sh with manifest := true } } }

/-- SHIPMENT_START: the next released snapshot starts shipping (R212): the data in ascending offset. -/
def execShipmentStart (s : State) : Host.Outcome State Fault Refusal :=
  match s.ttu.shipping, s.ttu.released with
  | none, c :: rest =>
    let s := { s with ttu := { s.ttu with released := rest, shipRegion := BitVec.ofNat 8 c.region } }
    match shipTarget s c.slot c.region with
    | some t =>
      if t.bytes < c.total then .next (shipFails s)
      else
        let (s, bs, _) := readMem whoSnap (c.stage + c.dataOff) (c.total - c.dataOff) s
        let s := { s with ttu := { s.ttu with shipping := some { snap := c, target := some (t.base, t.bytes), manifest := false } } }
        .next (advanceShip (hostWrite (t.base + c.dataOff) bs (.ship false) s))
    | none => .next (shipFails s)
  | _, _ => .next s

end Sys2Proof.Machine
end

