-- ==== Sys2Proof/Machine/Crossing.lean ====
section
/-! DEFINITION. The crossing clock and the crossing group (R17 to R50, R349): TICK, the period, the window, votes, decisions,
markers, probes, joins and leaves. -/

namespace Sys2Proof.Machine

/-! ### The period and the window -/

/-- SIZE_M1 from a set's tick on (Table 12.9). -/
def sizeAfter (n : Nat) (cs : List MemberChange) : Nat :=
  n + (cs.filter (·.join)).length - (cs.filter fun c => !c.join).length

/-- The members from a tick on, with the changes announced for that tick and before it (R45). -/
def sizeAt (t : Nat) (s : State) : Nat := sizeAfter (groupSize s) (s.xng.joins.filter fun c => decide (s.xng.tick.toNat < c.tick ∧ c.tick ≤ t))

/-- The period in force from a tick on (R21, R22). -/
def periodAt (t : Nat) (s : State) : Nat :=
  match s.xng.armed with
  | some (p, at_) => if at_ ≤ t then p else s.xng.current.toNat
  | none => s.xng.current.toNat

/-- The rules of the window itself (R37): against the latency, and half or a quarter of the period. -/
def windowFits (w rtt period size : Nat) : Bool :=
  decide (rtt + 800 ≤ w) && decide ((if size ≤ 64 then 2 else 4) * w ≤ period)

/-- The window rules (R37), with the least period of a group of more than 64 modules. -/
def windowOk (w rtt period size : Nat) : Bool :=
  windowFits w rtt period size && (decide (size ≤ 64) || decide (200000 ≤ period))

/-- A period change judged (R21, R22, R45): 0 accepted, 1 BAD_PERIOD, 2 BAD_WINDOW, with the members of its effective tick. A module
that is neither solo nor the lead is refused like a member, a JOINING one too. (DESIGN CHOICE, assumption log 124) -/
def judgePeriod (s : State) (p at_ : Nat) : Nat :=
  let ahead := if s.xng.role = .lead then 8 else 2
  if s.xng.role ≠ .solo ∧ s.xng.role ≠ .lead then 1
  else if p < 8000 ∨ 40000000 < p ∨ at_ < s.xng.tick.toNat + ahead then 1
  else if s.xng.role = .lead && !windowOk s.xng.window.toNat s.xng.rttMax.toNat p (sizeAt at_ s) then 2
  else 0

/-- A period change armed or refused (R21, R22). -/
def armPeriod (p at_ : Nat) (s : State) : State :=
  match judgePeriod s p at_ with
  | 0 => { s with xng := { s.xng with armed := some (p, at_), period := if s.xng.role = .lead then some (p, at_) else none } }
  | 1 => { s with xng := { s.xng with badPeriod := true } }
  | _ => { s with xng := { s.xng with badWindow := true } }

/-- PERIOD_APPLY (R21, R22). -/
def execPeriodApply (s : State) : Host.Outcome State Fault Refusal := .next (armPeriod s.xng.next.toNat s.xng.applyAt.toNat s)

/-- XNG_PERIOD (R365): judged at once; an accepted change writes both registers and arms. -/
def execXngPeriod (m : Nat) (s : State) : Host.Outcome State Fault Refusal :=
  .next (mbCommand 0x25 m (fun x s =>
    let p := mbArg x 0
    let t := mbArg x 1
    if s.xng.role ≠ .solo ∧ s.xng.role ≠ .lead then finish m stState s
    else if judgePeriod s p t = 0 then
      finish m stOk (armPeriod p t { s with xng := { s.xng with next := BitVec.ofNat 26 p, applyAt := BitVec.ofNat 64 t } })
    else finish m stBadArg (armPeriod p t s)) s)

/-- PERIOD_CHANGED: the change that the last tick brought into force is recorded (R21, R50). -/
def execPeriodChanged (s : State) : Host.Outcome State Fault Refusal :=
  match s.xng.changed with
  | some _ => .next (raise 0x0109 noSubject [] { s with xng := { s.xng with changed := none } })
  | none => .next s

/-- A run of bytes lies within one pinned MODULE region (R48). -/
def inPinned (s : State) (a n : Nat) : Bool :=
  s.rgn.lists.any fun l => l.2.any fun r => r.kind == 0 && r.flags.testBit 0 && within a n r.base r.bytes

/-- Bytes of the elapsed ring (Table 1.19). -/
def ringBytes (s : State) : Nat := 16 * 2 ^ (s.xng.ringSize.toNat + 8)

/-- RING_EN (R48). -/
def execRingEn (v : Bool) (s : State) : Host.Outcome State Fault Refusal :=
  if v && !inPinned s (s.xng.ringBase.toNat * 4096) (ringBytes s) then .next { s with xng := { s.xng with badRing := true } }
  else .next { s with xng := { s.xng with ringEn := v } }

/-- The window written by the lead (R37). -/
def setWindow (w : Nat) (s : State) : State × Bool :=
  if windowOk w s.xng.rttMax.toNat s.xng.current.toNat (groupSize s) then
    ({ s with xng := { s.xng with window := BitVec.ofNat 26 w } }, true)
  else ({ s with xng := { s.xng with badWindow := true } }, false)

/-- WINDOW_WRITE: by the lead only (R37, Table 1.10). -/
def execWindowWrite (w : BitVec 26) (s : State) : Host.Outcome State Fault Refusal :=
  if s.xng.role = .lead then .next (setWindow w.toNat s).1 else .next s

/-! ### Crossing traffic (R349) -/

/-- The port that carries crossing traffic (R43). -/
def crossPort (s : State) : Nat := if s.xng.useAlt then s.xng.altPort.toNat else s.xng.votePort.toNat

/-- A membership entry (Table 12.9). -/
def memberEntry (c : MemberChange) : List Byte :=
  toLE 4 c.peer ++ toLE 2 c.rank ++ toLE 1 (if c.join then 1 else 2) ++ zeros 1

/-- A DECISION's payload (Table 12.9); a set above 120 entries travels in parts, in rotation by tick. -/
def decisionBytes (d : Decision) : List Byte :=
  let parts := ceilDiv d.members.length 120
  let part := if parts = 0 then 0 else d.tick % parts
  let ents := (d.members.drop (120 * part)).take 120
  let at_ := match d.dissolve with
    | some t => t
    | none => (d.members.head?).elim 0 (·.tick)
  let kind := match d.verdict with
    | .advance => 0
    | .slack => 1
    | .fault => 2
  let flags := b2n d.period.isSome + 2 * b2n d.switch.isSome + 4 * b2n (!d.members.isEmpty) + 8 * b2n d.dissolve.isSome
    + 16 * b2n d.stop
  toLE 8 d.tick ++ toLE 6 d.index ++ toLE 1 kind ++ toLE 1 flags ++ toLE 4 ((d.period.map (·.1)).getD 0)
    ++ toLE 8 ((d.period.map (·.2)).getD 0) ++ toLE 6 (d.switch.getD 0) ++ toLE 1 part ++ toLE 1 parts
    ++ toLE 2 ents.length ++ toLE 2 d.sizeM1 ++ toLE 8 at_ ++ toLE 4 d.slackRun ++ zeros 12 ++ ents.flatMap memberEntry

/-- Crossing traffic leaves on the crossing port; where that port does not carry, it goes missing (R43). -/
def sendCross (bytes : List Byte) (s : State) : State := if portCarries s (crossPort s) then sendTxn (crossPort s) 2 bytes s else s

/-- A decision leaves on the crossing port. -/
def emitDecision (d : Decision) (s : State) : State :=
  let pay := decisionBytes d
  sendCross (txnHead 0x10 0 pay.length 16 [(4, 2, d.group)] ++ pay) s

/-- A PROBE leaves on the crossing port (R349): the sender's tick and its cycles since that tick. -/
def emitProbe (echo : Bool) (rank latency : Nat) (s : State) : State :=
  sendCross (txnHead 0x11 (2 * b2n echo) 16 16 [(4, 2, s.xng.groupId.toNat), (6, 2, rank)]
    ++ toLE 8 s.xng.tick.toNat ++ toLE 4 (s.xng.cycle.toNat - s.xng.tickCycle.toNat) ++ toLE 4 latency) s

/-- The module leaves its group (R41, R45, R368). What is left of an alignment is still slewed, a cycle a tick.
(DESIGN CHOICE, assumption log 150) -/
def becomeSolo (s : State) : State :=
  { s with xng := { s.xng with
    role := .solo, window := 0, outOfStep := false, missed := 0, decided := none, decision := none, joins := [], members := []
    votes := [], stopping := false, formTick := none, dissolveAt := none, switchAt := none, period := none, switchReq := none
    silent := false, holdover := false, latencies := [], missing := [], groupWas := none, sizeNext := none } }

/-- The effect of a group fault (R41), by the event that it records. -/
def groupFaultWith (code : Nat) (s : State) : State :=
  let s := raise code noSubject [] { enterStopping s with xng := { (enterStopping s).xng with groupFault := true } }
  becomeSolo (eventIrq code 0 s)

/-! ### Votes and decisions -/

/-- The module sends no further vote: after an islet fault that it cannot replay, in an emergency, or in FAILED (R387, R397, R407). -/
def muted (s : State) : Bool := s.xng.silent || s.mode == .failed

/-- The ranks whose votes the lead must have: its members', and its own where it sends none, which then is missing (R35, R39). -/
def owedVotes (s : State) : List Nat := s.xng.members ++ (if muted s then [s.xng.rank.toNat] else [])

/-- Every vote that counts has reached the lead (R35). -/
def allVotes (s : State) : Bool := (owedVotes s).all fun r => s.xng.votes.contains r

/-- The membership set that decisions carry (R349): the announced changes of the earliest tick. (DEDUCED, assumption log 56) -/
def changeSet (s : State) : List MemberChange :=
  let first := s.xng.joins.foldl (fun t c => min t c.tick) ((s.xng.joins.head?).elim 0 (·.tick))
  s.xng.joins.filter fun c => c.tick == first

/-- The decision that the lead forms (R30, R35, R349); one that dissolves the group carries no entries (R368). -/
def formDecision (s : State) : Decision :=
  let set := if s.xng.dissolveAt.isSome then [] else changeSet s
  let adv := allVotes s && s.xng.votesReady && s.xng.ready
  let opening := s.ttu.func == .starting && !s.ttu.locksWait
  let index := if opening then s.ttu.restart.getD 0
    else s.xng.index.toNat + b2n (adv && s.ttu.func == .running)
  let run := if adv then 0 else s.xng.slackRun.toNat + 1
  { group := s.xng.groupId.toNat, tick := s.xng.tick.toNat + 1, verdict := if adv then .advance else .slack, index := index
    slackRun := run, stop := s.xng.ovrStop && (s.xng.stopping || run == 65) && s.ttu.func != .stopped
    period := s.xng.period, members := set, switch := s.xng.switchReq, dissolve := s.xng.dissolveAt
    sizeM1 := sizeAfter s.xng.sizeM1.toNat set }

/-- MEMBER_AT and SIZE_M1 of a decision's set, which every member takes from any decision of it (R349). -/
def setSize (d : Decision) (was : Option (Nat × Nat)) : Option (Nat × Nat) :=
  match d.members with
  | [] => was
  | c :: _ => some (c.tick, d.sizeM1)

/-- The lead sends a decision for the next tick (R35). -/
def sendDecision (d : Decision) (s : State) : State :=
  emitDecision d { s with xng := { s.xng with
    decided := some d, stopping := s.xng.stopping || d.stop, sizeNext := setSize d s.xng.sizeNext } }

/-- The lead's decision leaves as soon as every vote and its own are in (R35). -/
def decideIfAll (s : State) : State :=
  if s.xng.role = .lead ∧ s.xng.decided = none ∧ s.xng.voted = true ∧ allVotes s = true then sendDecision (formDecision s) s else s

/-- What the crossing needs has completed by a cycle: no completion registered in it, and no maintenance work of it that ended, lies at
that cycle or later (R34). -/
def doneBefore (c : Nat) (s : State) : Bool :=
  s.ttu.func != .running
    || ((!s.ttu.anyDone || decide (s.ttu.lastDone < c)) && (!s.mem.maint || decide (s.mem.maintAt < c)))

/-- CUTOFF (R34): readiness is sampled W cycles before the tick from the completions through the cycle before, and the vote leaves; the
lead whose members' votes are all in decides (R35). -/
def execCutoff (s : State) : Host.Outcome State Fault Refusal :=
  if s.xng.running && grouped s && !s.xng.voted then
    let at_ := nextTickCycle s - s.xng.window.toNat
    let s := passCycle at_ s
    let ready := readyNow s && doneBefore at_ s && !s.xng.outOfStep
    let s := { s with xng := { s.xng with voted := true, ready := ready } }
    if muted s then .next s
    else .next (decideIfAll (sendCross (txnHead 0x0E (b2n ready) 0 16
      [(4, 2, s.xng.groupId.toNat), (6, 2, s.xng.rank.toNat), (8, 2, (s.xng.tick.toNat + 1) % 65536),
       (10, 2, s.xng.index.toNat % 65536)]) s))
  else .next s

/-- VOTE_SUM (R35, R349): presence bitmaps are ORed and READY bits ANDed; the decision leaves once every vote is in.
A vote in time resets its rank's count of missing ones (R39). -/
def execVoteSum (group tick : Nat) (ready : Bool) (present : BitVec 1024) (s : State) : Host.Outcome State Fault Refusal :=
  let due := nextTickCycle s - s.xng.window.toNat / 2
  if s.xng.role = .lead ∧ group = s.xng.groupId.toNat ∧ tick = (s.xng.tick.toNat + 1) % 65536 ∧ s.xng.decided = none
      ∧ s.xng.cycle.toNat < due then
    let new := (List.range 1024).filter fun r => present.getLsbD r && !s.xng.votes.contains r
    .next (decideIfAll { s with xng := { s.xng with
      votes := s.xng.votes ++ new, votesReady := s.xng.votesReady && ready
      missing := s.xng.missing.filter fun p => !present.getLsbD p.1 } })
  else .next s

/-- A rank's count of consecutive missing votes (R39). -/
def missCount (s : State) (r : Nat) : Nat := look 0 s.xng.missing r

/-- The votes absent at the deadline are missing (R35, R39). Of several ranks MISS_RANK shows the one that stands last in the lead's
list of members. (DESIGN CHOICE, assumption log 125) -/
def countMissing (s : State) : State :=
  (owedVotes s).foldl (fun s r =>
    if s.xng.votes.contains r then { s with xng := { s.xng with missing := put 0 r 0 s.xng.missing } }
    else raise 0x0102 noSubject [] { s with xng := { s.xng with
      missing := put 0 r (missCount s r + 1) s.xng.missing, missRank := BitVec.ofNat 10 r } }) s

/-- The lead of a formation that has named its tick. -/
def formingLead (s : State) : Bool :=
  s.xng.role == .joining && !s.xng.members.isEmpty && s.xng.formTick.any fun t => decide (s.xng.tick.toNat < t)

/-- The decision that announces a formation (R349, R368): every other rank's entry. (DEDUCED, assumption log 56) -/
def formationDecision (s : State) : Decision :=
  { formDecision s with
    members := s.xng.members.map fun r =>
      { join := true, rank := r, tick := s.xng.formTick.getD 0, peer := Config.memberPeer s.xng.groupId.toNat r % 2 ^ 32 }
    sizeM1 := s.xng.sizeM1.toNat }

/-- VOTE_DEADLINE (R35): W/2 before the tick the lead decides, SLACK where a vote is missing; a third missing vote of a rank
leaves the decision to GROUP_FAULT (R39). The lead of a formation announces it in every decision up to its tick (R349). -/
def execVoteDeadline (s : State) : Host.Outcome State Fault Refusal :=
  if s.xng.running && formingLead s then
    let s := passCycle (nextTickCycle s - s.xng.window.toNat / 2) s
    .next (emitDecision (formationDecision s) s)
  else if s.xng.running && s.xng.role = .lead && s.xng.decided = none then
    let s := countMissing (passCycle (nextTickCycle s - s.xng.window.toNat / 2) s)
    if (owedVotes s).any fun r => decide (3 ≤ missCount s r) then .next s
    else .next (sendDecision (formDecision s) s)
  else .next s

/-- GROUP_FAULT (R39): the lead issues FAULT. -/
def execGroupFault (s : State) : Host.Outcome State Fault Refusal :=
  if s.xng.role = .lead && s.xng.decided = none && (owedVotes s).any fun r => decide (3 ≤ missCount s r) then
    .next (sendDecision { formDecision s with verdict := .fault } s)
  else .next s

/-- The changes of a decision as this module counts its ticks: a module outside the group takes its own entry alone, the one with its
peer ID (R349). -/
def localChanges (s : State) (d : Decision) : List MemberChange :=
  let next := s.xng.tick.toNat + 1
  if grouped s then d.members
  else (d.members.filter fun c => c.peer == s.zng.peerId.toNat).map fun c =>
    { c with tick := next + (c.tick - d.tick), gtick := c.tick, sizeM1 := d.sizeM1 }

/-- DECISION (R36, R349): it is kept for the tick that it names, with the changes that it announces. -/
def execDecision (d : Decision) (s : State) : Host.Outcome State Fault Refusal :=
  if s.xng.role = .solo ∨ s.xng.role = .lead ∨ d.group ≠ s.xng.groupId.toNat then .next s
  else if nextTickCycle s ≤ s.xng.cycle.toNat then .next s
  else if grouped s && d.tick != s.xng.tick.toNat + 1 then .next s
  else
    let forming := !(waiters s .form).isEmpty
    let own := localChanges s d
    let x := s.xng
    let x := { x with decision := some d }
    let x := if grouped s then
        { x with
          armed := d.period.or x.armed
          switchAt := d.switch.or x.switchAt
          dissolveAt := d.dissolve.or x.dissolveAt
          sizeNext := setSize d x.sizeNext }
      else x
    let x := if forming then
        { x with formTick := (own.head?.map fun c => c.tick).or x.formTick }
      else { x with joins := x.joins ++ own.filter fun c => !(x.joins.any fun e => e.rank == c.rank && e.join == c.join && e.tick == c.tick) }
    let pend := s.ttu.pending.map fun r => match d.switch with
      | some i => { r with atIndex := i }
      | none => r
    .next { s with xng := x, ttu := { s.ttu with pending := if grouped s then pend else s.ttu.pending } }

/-- LEAD_LOST (R40, R41): two consecutive decisions missed. -/
def execLeadLost (s : State) : Host.Outcome State Fault Refusal :=
  if grouped s ∧ 2 ≤ s.xng.missed then
    .next (groupFaultWith 0x0103 (raise 0x0105 noSubject [] { s with xng := { s.xng with leadLost := true } }))
  else .next s

/-- OVERRUN (R29, R30): the 65th slack crossing of a run; in a group only at a decision that this module applied. -/
def execOverrun (s : State) : Host.Outcome State Fault Refusal :=
  if 65 ≤ s.xng.slackRun.toNat ∧ s.xng.overrunRaised = false ∧ (grouped s = true → s.xng.missed = 0) then
    let s := raise 0x0101 noSubject [] { s with xng := { s.xng with overrunRaised := true, overrun := true } }
    let s := eventIrq 0x0101 0 s
    .next (if s.xng.role = .solo ∧ s.xng.ovrStop = true then enterStopping s else s)
  else .next s

/-! ### Alignment (R42, R43) -/

/-- A crossing-marker ordered set is valid (R349): its code, its zeros, its CRC, this module's group, and a DELAY in range; in a group
it marks the next tick. (DEDUCED, assumption log 146) -/
def markerOk (bs : List Byte) (s : State) : Bool :=
  fld bs 0 2 == 0xC35A && fld bs 2 2 == s.xng.groupId.toNat && zeroAt bs 16 12 && fld bs 28 4 == crc32c (bs.take 28)
    && decide (256 ≤ fld bs 12 4) && decide (fld bs 12 4 ≤ s.xng.current.toNat)
    && (!grouped s || fld bs 4 8 == s.xng.tick.toNat + 1)

/-- CROSSING_MARKER (R42, R349): the next tick moves by at most one cycle toward the marked position, DELAY and the fixed receive
latency from now. -/
def execCrossingMarker (bytes : List Byte) (s : State) : Host.Outcome State Fault Refusal :=
  if s.xng.role = .solo ∨ markerOk bytes s = false then .next s
  else
    let due := s.xng.tickCycle.toNat + s.xng.current.toNat
    let off : Int := (due : Int) - (s.xng.cycle.toNat + fld bytes 12 4 + Config.markerLatency : Nat)
    .next { s with xng := { s.xng with
      offset := off, unmarked := 0, holdover := false
      slew := if off = 0 then 0 else if 0 < off then -1 else 1 } }

/-- HOLDOVER (R42, R349): four ticks without a valid marker. -/
def execHoldover (s : State) : Host.Outcome State Fault Refusal :=
  if s.xng.role ≠ .solo ∧ 4 ≤ s.xng.unmarked ∧ s.xng.holdover = false then
    .next (raise 0x010B noSubject [] { s with xng := { s.xng with holdover := true } })
  else .next s

/-- ALIGN_LOST (R43): an offset above 64 cycles for 16 consecutive ticks; one that lasts is recorded again after 16 more.
(DESIGN CHOICE, assumption log 128) -/
def execAlignLost (s : State) : Host.Outcome State Fault Refusal :=
  if 16 ≤ s.xng.offTicks then
    .next (raise 0x0106 noSubject [] { s with xng := { s.xng with alignErr := true, offTicks := 0 } })
  else .next s

/-! ### Formation, joins and leaves (R33, R44, R45, R368) -/

/-- The tick that the lead names for something it announces now: eight ticks ahead (R44, R45, R368). -/
def announceTick (s : State) : Nat := s.xng.tick.toNat + 8

/-- The tick of one more membership change (R44, R45, R349): with the changes announced last where that is still eight ticks
ahead and their set has room, else eight ticks after them. (DEDUCED, assumption log 56) -/
def changeTick (s : State) : Nat :=
  match s.xng.joins.getLast? with
  | none => announceTick s
  | some c =>
    if announceTick s ≤ c.tick ∧ (s.xng.joins.filter fun e => e.tick == c.tick).length < 120 then c.tick
    else max s.xng.tick.toNat c.tick + 8

/-- The formation tick: eight ticks ahead, and two more for every part of a set above 120 entries (R349, R368). -/
def formationTick (n : Nat) (s : State) : Nat := announceTick s + (if n ≤ 120 then 0 else 2 * ceilDiv n 120)

/-- The formation fails, or a group command is abandoned (R363, R368): the module is SOLO as it was before. -/
def abandonForm (s : State) : State :=
  match s.xng.groupWas with
  | some (g, v, a, n, r, t) =>
    { becomeSolo s with xng := { (becomeSolo s).xng with
      groupId := g, votePort := v, altPort := a, sizeM1 := n, rank := r, rttMax := t } }
  | none => becomeSolo s

/-- RTT_MAX: twice the longest one-way latency of the measurement (R37). -/
def takeRtt (s : State) : State :=
  { s with xng := { s.xng with rttMax := BitVec.ofNat 26 (2 * s.xng.latencies.foldl (fun a p => max a (p.2 - 1)) 0) } }

/-- Every rank of a list has answered the measurement in progress. -/
def measured (ranks : List Nat) (s : State) : Bool := ranks.all fun r => s.xng.latencies.any fun p => p.1 == r

/-- Every rank has answered the lead's probes (R368): the window is judged, and the formation tick named.
(DEDUCED, assumption log 56) -/
def nameFormation (m : Nat) (s : State) : State :=
  let ranks := (List.range (groupSize s)).filter (· != s.xng.rank.toNat)
  if measured ranks s then
    let s := takeRtt s
    if windowOk s.xng.window.toNat s.xng.rttMax.toNat s.xng.current.toNat (groupSize s) then
      let s := { s with xng := { s.xng with formTick := some (formationTick ranks.length s), members := ranks } }
      emitDecision (formationDecision s) s
    else finish m stBadArg { abandonForm s with xng := { (abandonForm s).xng with badWindow := true } }
  else s

/-- The joins that wait for the lead's measurement: mailbox, rank and peer ID (R44). -/
def admissions (s : State) : List (Nat × Nat × Nat) :=
  (List.range 16).filterMap fun m => match (mbOf s m).wait with
    | .admitting r peer => some (m, r, peer)
    | _ => none

/-- The ranks that a measurement of the lead covers (R37, R44): every other member, and every joiner that waits. -/
def probedRanks (s : State) : List Nat := (s.xng.members ++ (admissions s).map (·.2.1)).eraseDups

/-- The lead measures the tree anew, at a membership change (R37, R44). -/
def remeasure (s : State) : State :=
  (probedRanks s).foldl (fun s r => emitProbe false r 0 s) { s with xng := { s.xng with latencies := [] } }

/-- The lead's refusals of a join (R44, R45): none, or the status, with the members and the period of its effective tick.
(DEDUCED, assumption log 56) -/
def joinRefusal (s : State) : Option Nat :=
  let t := changeTick s
  let size := sizeAt t s + 1
  if 1024 < size then some stNoResource
  else if 64 < size ∧ periodAt t s < 200000 then some stNoResource
  else if s.xng.window.toNat < s.xng.rttMax.toNat + 800 then some stBadArg
  else none

/-- The joiner has been measured (R44): it is refused, or its effective tick is named. RTT_MAX keeps a refused joiner's latency no
longer. (DESIGN CHOICE, assumption log 126) (DEDUCED, assumption log 56) -/
def nameJoin (m rank peer : Nat) (s : State) : State :=
  match joinRefusal s with
  | some st => finish m st (takeRtt { s with xng := { s.xng with latencies := s.xng.latencies.filter fun p => p.1 != rank } })
  | none =>
    let t := changeTick s
    complete m stOk [t] [] { s with xng := { s.xng with joins := s.xng.joins ++ [{ join := true, rank := rank, tick := t, peer := peer }] } }

/-- The cycles that a probe has been on its way (R37): ticks are aligned (R42), so both ends count from them; the tick number of a module
outside the group is not the group's, and there the way is taken within one period. (DEDUCED, assumption log 56) -/
def probeWay (outside : Bool) (tick cycles : Nat) (s : State) : Nat :=
  let here : Int := (s.xng.cycle.toNat - s.xng.tickCycle.toNat : Nat) - cycles
  if outside then (here % s.xng.current.toNat).toNat
  else (here + ((s.xng.tick.toNat : Int) - tick) * s.xng.current.toNat).toNat

/-- The lead's measurement is complete: RTT_MAX, and the joins that wait for it (R37, R44). -/
def settleMeasure (s : State) : State :=
  if measured (probedRanks s) s then
    (admissions s).foldl (fun s a => nameJoin a.1 a.2.1 a.2.2 s) (takeRtt s)
  else s

/-- PROBE (R37, R349): a probe is echoed with the latency of its way; an echo gives the lead that rank's latency, the longer of the way
to it and the way from it. -/
def execProbe (echo : Bool) (group rank tick cycles latency : Nat) (s : State) : Host.Outcome State Fault Refusal :=
  if group ≠ s.xng.groupId.toNat ∨ s.xng.role = .solo then .next s
  else if echo = false then
    if rank = s.xng.rank.toNat then .next (emitProbe true rank (probeWay (s.xng.role == .joining) tick cycles s) s) else .next s
  else
    let way := max latency (probeWay (!s.xng.members.contains rank) tick cycles s)
    let s := { s with xng := { s.xng with latencies := put 0 rank (way + 1) s.xng.latencies } }
    match waiters s .form with
    | m :: _ => .next (nameFormation m s)
    | [] => .next (if s.xng.role = .lead then settleMeasure s else s)

/-- GROUP_FORMED (R33): at the formation tick XNG_TICK is 0 and the module takes its role. A period change that the module armed while
solo keeps its tick number. (DESIGN CHOICE, assumption log 129) -/
def execGroupFormed (s : State) : Host.Outcome State Fault Refusal :=
  match s.xng.formTick with
  | some t =>
    if t ≤ s.xng.tick.toNat then
      let lead := !s.xng.members.isEmpty
      let ms := waiters s .form
      let s := { s with xng := { s.xng with tick := 0, formTick := none, role := if lead then .lead else .member, voted := false
                                            decided := none, decision := none, missed := 0, groupWas := none } }
      .next (ms.foldl (fun s m => complete m stOk [t] [] s) s)
    else .next s
  | none => .next s

/-- The announced change of a rank that has come due. -/
def dueChange (s : State) (join : Bool) (rank : Nat) : Option MemberChange :=
  s.xng.joins.find? fun c => c.join == join && c.rank == rank && decide (c.tick ≤ s.xng.tick.toNat)

/-- MEMBER_JOINED (R44): a joiner that has held alignment for 256 ticks loads the group's tick and index; the lead counts its votes. The
size itself changes at the effective tick (R349). (DEDUCED, assumption log 56) -/
def execMemberJoined (rank : Nat) (s : State) : Host.Outcome State Fault Refusal :=
  match dueChange s true rank with
  | none => .next s
  | some c =>
    let x := { s.xng with joins := dropFirst c s.xng.joins }
    if s.xng.role = .joining then
      if rank = s.xng.rank.toNat ∧ 256 ≤ s.xng.onTicks then
        let s := { s with xng := { x with role := .member, tick := BitVec.ofNat 64 c.gtick, voted := false, missed := 0
                                          sizeM1 := BitVec.ofNat 10 c.sizeM1, groupWas := none
                                          index := BitVec.ofNat 48 ((x.decision.map (·.index)).getD x.index.toNat) } }
        let s := raise 0x0107 noSubject [] s
        .next ((waiters s .join).foldl (fun s m => complete m stOk [c.gtick] [] s) s)
      else .next s
    else
      .next (raise 0x0107 noSubject [] { s with xng := { x with
        members := if x.role = .lead then x.members ++ [rank] else x.members } })

/-- MEMBER_LEFT (R45); the lead measures the tree of those that stay (R37). One whose last other member has left stays the LEAD of a
group of one, with RTT_MAX as it was. (DESIGN CHOICE, assumption log 149) -/
def execMemberLeft (rank : Nat) (s : State) : Host.Outcome State Fault Refusal :=
  match dueChange s false rank with
  | none => .next s
  | some c =>
    let s := { s with xng := { s.xng with joins := dropFirst c s.xng.joins } }
    let s := raise 0x0108 noSubject [] s
    if rank = s.xng.rank.toNat then
      let ms := waiters s .leave
      .next (ms.foldl (fun s m => complete m stOk [c.tick] [] s) (becomeSolo s))
    else if s.xng.role = .lead then .next (remeasure { s with xng := { s.xng with members := s.xng.members.filter (· != rank) } })
    else .next s

/-- DISSOLVE (R349, R368): at MEMBER_AT every member is SOLO; one whose unit is not STOPPED takes the group fault. -/
def execDissolve (group : Nat) (s : State) : Host.Outcome State Fault Refusal :=
  match s.xng.dissolveAt with
  | some t =>
    if group = s.xng.groupId.toNat ∧ t ≤ s.xng.tick.toNat then
      let ms := waiters s .leave
      let s := if s.ttu.func = .stopped then becomeSolo s else groupFaultWith 0x0103 s
      .next (ms.foldl (fun s m => complete m stOk [t] [] s) s)
    else .next s
  | none => .next s

/-- LEAVE_REQUEST_RECEIVED (R45, R368): the lead names an effective tick at least eight ahead. -/
def leaveNamed (rank peer : Nat) (s : State) : State :=
  if s.xng.role = .lead ∧ s.xng.members.contains rank = true ∧ (s.xng.joins.all fun c => c.join || c.rank != rank) = true then
    { s with xng := { s.xng with joins := s.xng.joins ++ [{ join := false, rank := rank, tick := changeTick s, peer := peer }] } }
  else s

/-- LEAVE_REQUEST_RECEIVED (R368). -/
def execLeaveRequestReceived (group rank : Nat) (s : State) : Host.Outcome State Fault Refusal :=
  .next (if group = s.xng.groupId.toNat then leaveNamed rank (Config.memberPeer group rank % 2 ^ 32) s else s)

/-! ### The group commands (R368) -/

/-- XNG_GROUP's fields taken from a group command. (DEDUCED, assumption log 53) -/
def takeGroup (a0 a1 sizeM1 : Nat) (s : State) : State :=
  { s with xng := { s.xng with
    groupId := BitVec.ofNat 16 a0, sizeM1 := BitVec.ofNat 10 sizeM1, rank := BitVec.ofNat 10 (bits a0 41 32)
    votePort := BitVec.ofNat 3 (bits a1 2 0), altPort := BitVec.ofNat 3 (bits a1 6 4), role := .joining, useAlt := false
    latencies := [], joins := [], missing := []
    groupWas := some (s.xng.groupId, s.xng.votePort, s.xng.altPort, s.xng.sizeM1, s.xng.rank, s.xng.rttMax) } }

/-- GROUP_FORM (R37, R368): the lead probes every rank; the others wait for the formation tick. Every member takes the window from
the command (R37), whose rules are judged on the lead (DEDUCED, assumption log 53). -/
def execGroupForm (m : Nat) (s : State) : Host.Outcome State Fault Refusal :=
  .next (mbCommand 0x30 m (fun x s =>
    let a0 := mbArg x 0
    let size := bits a0 25 16 + 1
    let rank := bits a0 41 32
    let w := mbArg x 2
    let lead := rank == bits a0 57 48
    if s.xng.role ≠ .solo then finish m stState s
    else if size ≤ rank then finish m stBadArg s
    else if lead && !windowFits w 0 s.xng.current.toNat size then finish m stBadArg { s with xng := { s.xng with badWindow := true } }
    else if 64 < size ∧ s.xng.current.toNat < 200000 then finish m stNoResource s
    else
      let s := await m .form (takeGroup a0 (mbArg x 1) (size - 1) s)
      let s := { s with xng := { s.xng with window := BitVec.ofNat 26 w } }
      if lead then ((List.range size).filter (· != rank)).foldl (fun s r => emitProbe false r 0 s) s else s) s)

/-- GROUP_JOIN (R37, R44, R368): the joiner takes the group's window, which no field of the command carries: a free value.
(DESIGN CHOICE, assumption log 148) -/
def execGroupJoin (m : Nat) (s : State) : Host.Outcome State Fault Refusal :=
  .next (mbCommand 0x31 m (fun x s =>
    if s.xng.role ≠ .solo then finish m stState s
    else
      let u := takeGroup (mbArg x 0) (mbArg x 1) s.xng.sizeM1.toNat s
      let (u, w) := draw u
      await m .join { u with xng := { u.xng with onTicks := 0, window := BitVec.ofNat 26 w } }) s)

/-- GROUP_ADMIT (R44, R368): the lead measures the tree with the joiner, and then admits or refuses it. -/
def execGroupAdmit (m : Nat) (s : State) : Host.Outcome State Fault Refusal :=
  .next (mbCommand 0x32 m (fun x s =>
    if s.xng.role ≠ .lead then finish m stState s
    else remeasure (await m (.admitting (mbArg x 0) (mbArg x 1)) s)) s)

/-- GROUP_LEAVE (R45, R368): a member's request, or the lead's dissolution. -/
def execGroupLeave (m : Nat) (s : State) : Host.Outcome State Fault Refusal :=
  .next (mbCommand 0x33 m (fun _ s =>
    if s.xng.role = .lead then
      if s.ttu.func ≠ .stopped then finish m stState s
      else await m .leave { s with xng := { s.xng with dissolveAt := some (announceTick s), joins := [], sizeNext := none } }
    else if s.xng.role = .member then
      if s.ttu.func ≠ .stopped then finish m stState s
      else
        let s := await m .leave { s with xng := { s.xng with role := .leaving } }
        emitDecision { formDecision s with members := [{ join := false, rank := s.xng.rank.toNat, tick := 0, peer := s.zng.peerId.toNat }]
                                           period := none, switch := none, dissolve := none, stop := false
                                           sizeM1 := s.xng.sizeM1.toNat } s
    else finish m stState s) s)

/-- GROUP_WINDOW (R37, R368). -/
def execGroupWindow (m : Nat) (s : State) : Host.Outcome State Fault Refusal :=
  .next (mbCommand 0x34 m (fun x s =>
    if s.xng.role ≠ .lead then finish m stState s
    else match setWindow (mbArg x 0) s with
      | (s, ok) => finish m (if ok then stOk else stBadArg) s) s)

end Sys2Proof.Machine
end

