-- ==== Sys2Proof/Machine/Tick.lean ====
section
/-! DEFINITION. TICK (R18 to R32, R35, R36, R40, R41, R46 to R48, R63, R218): what the crossing clock's tick does. -/

namespace Sys2Proof.Machine

/-! ### The outcome of a tick -/

/-- The decision that applies at the coming tick (R36). (DEDUCED, assumption log 55) -/
def dueDecision (s : State) : Option Decision :=
  let d := if s.xng.role = .lead then s.xng.decided else s.xng.decision
  d.filter fun d => d.tick == s.xng.tick.toNat + 1

/-- A member applies a decision (R29, R30, R40, R41). -/
def applyDecision (d : Decision) (s : State) : State × Verdict :=
  let own := s.xng.index.toNat
  let s := { s with xng := { s.xng with
    missed := 0, slackRun := BitVec.ofNat 32 d.slackRun, overrunRaised := s.xng.overrunRaised && decide (65 ≤ d.slackRun) } }
  if d.verdict = .fault then (groupFaultWith (if s.xng.role = .lead then 0x0103 else 0x010A) s, .slack)
  else
    let s := if d.stop then enterStopping s else s
    let inStep (s : State) : State := { s with xng := { s.xng with outOfStep := false } }
    if s.ttu.func ≠ .running then (inStep s, .slack)
    else if d.index = own then (inStep s, .slack)
    else if d.index = own + 1 ∧ readyNow s = true then (inStep s, .advance)
    else (groupFaultWith 0x0103 s, .slack)

/-- A member has missed a decision (R29, R40). (DEDUCED, assumption log 55) -/
def missDecision (s : State) : State :=
  raise 0x0104 noSubject [] { s with xng := { s.xng with
    outOfStep := true, missed := s.xng.missed + 1
    slackRun := if s.ttu.func = .running then s.xng.slackRun + 1 else s.xng.slackRun } }

/-- What the tick decides (R25, R35, R36): to advance, or not. -/
def tickVerdict (s : State) : State × Verdict :=
  if grouped s then
    match dueDecision s with
    | some d => applyDecision d s
    | none => (missDecision s, .slack)
  else if s.ttu.func = .running ∧ readyNow s = true then (s, .advance)
  else if s.ttu.func = .running then ({ s with xng := { s.xng with slackRun := s.xng.slackRun + 1 } }, .slack)
  else ({ s with xng := { s.xng with slackRun := 0, overrunRaised := false } }, .slack)

/-! ### The record of the crossing that closes -/

/-- XNG_ELAPSED at the tick (R47). -/
def elapsedNow (s : State) (carried : Bool) : BitVec 32 :=
  if carried then 0xFFFFFFFF
  else if s.ttu.anyDone then BitVec.ofNat 32 (s.ttu.lastDone - s.xng.tickCycle.toNat)
  else 0

/-- How a closing crossing stood as its tick came (Table 1.3): this module was not ready in time, or it was ready and the group
decided SLACK. -/
structure Closing where
  late  : Bool
  group : Bool
  deriving DecidableEq, Repr

/-- LATE and GROUP of the closing crossing, judged before the tick changes the unit: readiness is the vote's at the cutoff, that of a
module whose unit does not run included (R27, R34), and on a solo module that of the tick. -/
def closingOf (s : State) : Closing :=
  let ready := if grouped s && s.xng.voted then s.xng.ready else readyNow s
  { late := !ready, group := grouped s && ready && (dueDecision s).elim false fun d => d.verdict == .slack }

/-- The elapsed record of the closing crossing (Table 1.3). -/
def elapsedRecord (s : State) (late group : Bool) : List Byte :=
  toLE 8 s.xng.tick.toNat ++ toLE 4 s.xng.elapsed.toNat ++ toLE 2 s.xng.index.toNat
    ++ toLE 1 (b2n s.xng.slack + 2 * b2n late + 4 * b2n s.xng.maint + 8 * b2n s.xng.idle + 16 * b2n group) ++ zeros 1

/-- The crossing closes (R46 to R48): XNG_ELAPSED, and the ring's record where RING_EN is 1. -/
def closeRecord (v : Verdict) (x : Closing) (s : State) : State :=
  let carried := s.ttu.func == .running && v == .slack && !readyNow s
  let s := { s with
    xng := { s.xng with elapsed := elapsedNow s carried }
    ttu := { s.ttu with anyDone := false } }
  if s.xng.ringEn then
    let n := 2 ^ (s.xng.ringSize.toNat + 8)
    let a := s.xng.ringBase.toNat * 4096 + 16 * (s.xng.ringWp.toNat % n)
    let s := writeMem whoEngine a (elapsedRecord s x.late x.group) s
    { s with xng := { s.xng with ringWp := s.xng.ringWp + 1 } }
  else s

/-! ### Advancing -/

/-- The group's switch applies and this member has none pending: its unit stops, and the GROUP check fails (R220). -/
def switchFails (s : State) : State := raise 0x0208 noSubject [] (timetableEnds s)

/-- The index after a closed one opens, or the image ends (R63). -/
def openNext (index : Nat) (s : State) : State :=
  let sl := actSlot s
  match sl.image with
  | none => s
  | some i =>
    if pastEnd i sl.stepBase (index + 1) then
      let s := releaseShips s
      if s.ttu.pending.isSome then applySwitch false s
      else if s.xng.switchAt.isSome then switchFails s
      else timetableEnds s
    else beginIndex (index + 1) { s with xng := { s.xng with index := BitVec.ofNat 48 (index + 1) } }

/-- The active image reaches its end with index c (R63). -/
def lastIndex (c : Nat) (s : State) : Bool :=
  (actSlot s).image.any fun i => pastEnd i (actSlot s).stepBase (c + 1)

/-- The tick advances (R25, R73, R202, R218, R220): the index closes, an anchor commits at tick n, and a due switch applies, or waits
for the reads of the securing that the anchor has started (R392). An image that ends with that anchor is not RESUMABLE (R219).
In a group XNG_SLACK.RUN is the decision's (R29). (DEDUCED, assumption log 58) -/
def advanceTick (n : Nat) (s : State) : State :=
  let c := s.xng.index.toNat
  let anchor := (actSlot s).image.elim false fun i => isAnchor (crossingAt i c)
  let s := if grouped s then s else { s with xng := { s.xng with slackRun := 0, overrunRaised := false } }
  let switch (s : State) : State :=
    applySwitch (!lastIndex c s) { s with xng := { s.xng with switchAt := none, switchReq := none } }
  if s.ttu.switchWait then switch s
  else
  let s := closeIndex s
  let s := if anchor then commitAnchor c n s else s
  if anchor && switchDue c s then
    if securingReads s then { s with ttu := { s.ttu with opened := false, switchWait := true } } else switch s
  else if anchor && (s.xng.switchAt.elim false fun a => decide (a ≤ c)) then
    switchFails s
  else openNext c s

/-! ### Maintenance -/

/-- The channels that calibrate in a maintenance crossing (R240): every fitted one that is not out of service. -/
def calChans (s : State) : List Nat :=
  ((List.range 5).flatMap fun h => (List.range (homeChans s.cfg h + homeSpares s.cfg h)).map (h * 256 + ·)).filter fun k =>
    let st := (chan s k).state
    st == .active || st == .spare || st == .retirePending

/-- The lane that the spare of a strait lane's group of 32 has replaced (R244; assumption log 40).
(DEDUCED, assumption log 40) -/
def spareUser (s : State) (target : Nat) : Option Nat := s.mem.straitSpared.find? fun t => t / 32 == target / 32

/-- The link's spare lane carries traffic already, so a scan outside TRAIN is refused (R242). -/
def spareTaken (s : State) (kind target : Nat) : Bool :=
  (kind == 2 && (spareUser s target).isSome) || (kind == 3 && (portOf s (target / 256)).spare)

/-- The oldest scan that waits starts: the traffic of a strait or Zuong lane moves to the spare of its link for the duration; one whose spare
has come into service since is refused with NO_RESOURCE outside TRAIN (R242). -/
def takeFrom : List MarginScan → State → State
  | [], s => { s with mem := { s.mem with scans := [] } }
  | x :: r, s =>
    if s.mode ≠ .train ∧ spareTaken s x.kind x.target = true then
      takeFrom r (if x.mailbox < 16 then finish x.mailbox stNoResource s else s)
    else { s with mem := { s.mem with
      scanning := some x, scans := r, scanMoved := if x.kind = 1 then none else some (x.kind, x.target) } }

/-- A scan that waits starts where none runs (R242). -/
def takeScan (s : State) : State := if s.mem.scanning.isNone then takeFrom s.mem.scans s else s

/-- A maintenance crossing opens (R31, R240, R242): every channel calibrates, and the oldest scan that waits is taken. -/
def startMaint (s : State) : State :=
  takeScan ((calChans s).foldl (fun s k => setChan k { chan s k with busy := true } s) { s with mem := { s.mem with maint := true } })

/-- The idle crossing opened at cycle T is the module's own maintenance crossing (R32). -/
def idleMaint (s : State) : Bool :=
  decide (2 ^ 16 ≤ s.xng.idleCount + 1) || decide (s.xng.idleSince + 400000000 < s.xng.tickCycle.toNat + s.xng.current.toNat)

/-! ### The new crossing -/

/-- The registers of the clock at tick n, cycle T (R18, R21, R22, R42, R43, R349); ISL_CTRL.NF_TRAP takes effect (Table 5.9). Crossing
traffic goes back to VOTE_PORT at the first tick at which that port is ACTIVE again. (DESIGN CHOICE, assumption log 131) -/
def clockTick (n T : Nat) (s : State) : State :=
  let x := s.xng
  let (cur, armed, changed) := match x.armed with
    | some (p, t) => if t ≤ n then (BitVec.ofNat 26 p, none, some (p, t)) else (x.current, x.armed, x.changed)
    | none => (x.current, none, x.changed)
  let far := x.role != .solo && decide (64 < x.offset.natAbs)
  let off := x.offset + x.slew
  { s with isl := { s.isl with nfInForce := s.isl.nfTrap }, xng := { x with
    tick := BitVec.ofNat 64 n, tickCycle := BitVec.ofNat 64 T, current := cur, armed := armed, changed := changed
    period := x.period.filter fun p => decide (n < p.2)
    offset := off, slew := if off = 0 then 0 else x.slew
    offTicks := if far then x.offTicks + 1 else 0
    onTicks := if x.role = .joining ∧ far = false ∧ x.unmarked < 4 then x.onTicks + 1 else 0
    unmarked := if x.role = .solo then 0 else x.unmarked + 1
    sizeM1 := match x.sizeNext with
      | some (t, m) => if t ≤ n then BitVec.ofNat 10 m else x.sizeM1
      | none => x.sizeM1
    sizeNext := x.sizeNext.filter fun p => decide (n < p.1)
    voted := false, ready := false, votes := [], votesReady := true, decided := none
    decision := if x.role = .joining then x.decision else none
    useAlt := x.role != .solo && !portCarries s x.votePort.toNat } }

/-- The crossing that tick n opens is classed (R26, R27, R29, R31, R32). -/
def openCrossingKind (slack : Bool) (s : State) : State :=
  let idle := s.ttu.func != .running
  let own := !idle && !slack && ((actSlot s).image.elim false fun i => isMaint (crossingAt i s.xng.index.toNat))
  let s := if s.mem.maint && maintDone s then { s with mem := { s.mem with maint := false } } else s
  let mine := idle && !s.mem.maint && idleMaint s
  let s := { s with xng := { s.xng with
    slack := !idle && slack, idle := idle, maint := own || mine
    slackTotal := if !idle && slack then s.xng.slackTotal + 1 else s.xng.slackTotal
    idleCount := if mine || own then 0 else if idle then s.xng.idleCount + 1 else s.xng.idleCount
    idleSince := if mine || own then s.xng.tickCycle.toNat else s.xng.idleSince } }
  if own || mine then startMaint s else s

/-- The tick's verdict where the open index may not close. -/
def heldVerdict (s : State) : State × Verdict :=
  let was := s.ttu.replay
  let (s, v) := tickVerdict { s with ttu := { s.ttu with replay := true } }
  ({ s with ttu := { s.ttu with replay := was && s.ttu.replay } }, v)

/-- The tick after an islet fault opens a slack crossing (R387). A member whose decision is to advance falls behind by it
(DEDUCED, assumption log 31). -/
def hitVerdict (s : State) : State × Verdict :=
  match (if grouped s then dueDecision s else none) with
  | some d =>
    if d.verdict = .advance ∧ d.stop = false ∧ d.index = s.xng.index.toNat + 1 then
      ({ s with xng := { s.xng with outOfStep := true, missed := 0, slackRun := s.xng.slackRun + 1 } }, .slack)
    else heldVerdict s
  | none => heldVerdict s

/-- The timetable unit at the tick: an islet fault's replay, the stop of a failed check, and the decision (R30, R35, R68, R387).
The verdict advances only a unit that runs. -/
def unitTick (s : State) : State × Verdict :=
  let faulted := !s.isl.faulted.isEmpty
  let s := if faulted then (replaceFaulted s).1 else s
  let stop := s.ttu.stopNext
  let hit := faulted && s.ttu.func == .running && s.ttu.opened
  let s := if stop then enterStopping s else s
  let (s, v) := if hit then hitVerdict s else tickVerdict s
  (if hit && s.ttu.func == .running then startReplay s else s, v)

/-- The tick's advance, its starts and its switches. (DEDUCED, assumption log 31, 59) -/
def openTick (n : Nat) (v : Verdict) (s : State) : State :=
  if s.ttu.func = .running then (if v = .advance then advanceTick n s else s)
  else if s.ttu.func = .starting ∧ s.ttu.locksWait = false then openStart s
  else if s.ttu.func = .stopped ∧ s.ttu.pending.isSome = true then applySwitch false s
  else s

/-- What follows the unit at every tick (R162, R196, R265, R272): contexts leave PARKED before free-running work is placed.
(DEDUCED, assumption log 11, 31, 59) -/
def settleTick (s : State) : State :=
  settleMode (settleContexts (advanceRegion (placeFree (serveFaults (unparkAll s)))))

/-- The completions that are dated before the next tick are registered in the crossing that this tick opens (R19, R20). -/
def takeAhead (s : State) : State :=
  let (due, later) := s.ttu.ahead.partition fun e => decide (e.2 < nextTickCycle s)
  due.foldl (fun s e => takeCompletion e.1 e.2 s) { s with ttu := { s.ttu with ahead := later } }

/-- TICK (R18): the next tick of the crossing clock. -/
def execTick (s : State) : Host.Outcome State Fault Refusal :=
  if s.xng.running then
    let T := nextTickCycle s
    let n := s.xng.tick.toNat + 1
    let s := passCycle T s
    let x := closingOf s
    let (s, v) := unitTick s
    let s := closeRecord v x s
    let ran := s.ttu.func == .running
    let s := openTick n v (clockTick n T s)
    let s := openCrossingKind (ran && v != .advance) s
    let s := if s.ttu.func = .stopped then { s with xng := { s.xng with stopping := false } } else s
    .next (settleTick (takeAhead s))
  else .next s

end Sys2Proof.Machine
end

