-- ==== Sys2Proof/Machine/TtCommands.lean ====
section
/-! DEFINITION. The timetable commands (R82 to R84, R207, R212, R217, R220, R365): TT_LOAD, TT_START, TT_SWITCH, TT_CURSOR and
TT_SHIP_TARGET, and the cursor register TTU_CURSOR_POST. -/

namespace Sys2Proof.Machine

/-! ### Loading (R82, R83) -/

/-- Kernel code bytes of a slot's image (check 0x11). -/
def slotCode (sl : ImgSlot) : Nat := sl.image.elim 0 codeBytes

/-- The entries of a binding list, as the bases that they name. -/
def bindingBases (pay : List Byte) : List Nat := (chunks 4 pay).map fun e => leNat e * 2 ^ 21

/-- TTU_REJECT and event 0x0202 for a rejected load (R83). -/
def rejectLoad (b : Bool) (code entry : Nat) (s : State) : State :=
  let s := setSlot b { state := .rejected } s
  let s := { s with ttu := { s.ttu with rejCode := code, rejEntry := entry, rejSlot := b } }
  raise 0x0202 noSubject [(1, code), (4, entry)] s

/-- The image is admitted into its slot (R82, R83, R207, R268). -/
def admitLoad (b : Bool) (c addr n : Nat) (bases : List Nat) (i : Image) (s : State) : State :=
  let holder := (holderOf s c addr n).elim (0, 0) fun r => (r.base, r.bytes)
  let s := setSlot b { state := .admitted, image := some i, base := addr, holder := holder, context := c
                       binding := boundRegions s c bases } s
  let s := raise 0x0201 noSubject [] s
  if i.crossings.any isMaint then s else raise 0x0209 noSubject [] s

/-- TT_LOAD (R82, R83). -/
def execTtLoad (m : Nat) (s : State) : Host.Outcome State Fault Refusal :=
  .next (mbCommand 0x20 m (fun x s =>
    let shadow := mbArg x 0 == 1
    let b := s.ttu.active != shadow
    let c := mbArg x 3
    let bases := bindingBases (mbPayload x)
    if !shadow && s.ttu.func != .stopped then finish m stState s
    else if shadow && s.ttu.pending.isSome then finish m stState s
    else
      let s := { s with ttu := { s.ttu with resumable := s.ttu.resumable && !shadow } }
      let other := slotCode (if b then s.ttu.slotA else s.ttu.slotB)
      match admitImage c (mbArg x 1) (mbArg x 2) bases other s with
      | (s, .error (code, entry)) =>
        complete m (rejectStatus code) [code + entry * 2 ^ 32] [] (rejectLoad b code entry s)
      | (s, .ok i) => complete m stOk [0] [] (admitLoad b c (mbArg x 1) (mbArg x 2) bases i s)) s)

/-! ### Starting (R84) -/

/-- A step base whose last bounded iteration would reach 2^40 (R84). -/
def stepBaseBad (i : Image) (base : Nat) : Bool :=
  decide (2 ^ 40 ≤ base + (if i.loop ∧ i.iterCount ≠ 0 then i.iterCount - 1 else 0))

/-- A start of the active slot's image at index 0: its run begins afresh (R84, R207). -/
def freshRun (seed base : Nat) (sl : ImgSlot) : ImgSlot :=
  { sl with seed := seed, stepBase := base, cursors := [], position := [], ranIndex := none }

/-- TT_START (R84, R365, R403). `agree` is the vote tree's answer on the members' IMAGE_DIGEST; where it fails the image stays ADMITTED.
(DESIGN CHOICE, assumption log 144) -/
def execTtStart (m : Nat) (agree : Bool) (s : State) : Host.Outcome State Fault Refusal :=
  .next (mbCommand 0x21 m (fun x s =>
    let sl := actSlot s
    let failed (st : Nat) (s : State) : State := finish m st (raise 0x0208 noSubject [] s)
    if s.ttu.func = .starting ∨ s.ttu.func = .stopping then finish m stBusy s
    else if s.ttu.func = .running ∨ s.hlt.standby.isSome then finish m stState s
    else match sl.state, sl.image with
      | .admitted, some i =>
        if stepBaseBad i (mbArg x 1) then finish m stBadArg s
        else if i.ranks ≠ rankCount s then failed stState s
        else if 1 < i.ranks ∧ s.hbr.exchange ≠ .running then finish m stState s
        else if grouped s && !agree then failed stIntegrity s
        else await m (.start 0) (beginStart none (setSlot s.ttu.active (freshRun (mbArg x 0) (mbArg x 1) sl) s))
      | _, _ => finish m stState s) s)

/-! ### Switching (R217, R220) -/

/-- TT_SWITCH (R217): the switch is pending; in a group it applies from the index that the lead carries (R220).
(DEDUCED, assumption log 58) -/
def execTtSwitch (m : Nat) (s : State) : Host.Outcome State Fault Refusal :=
  .next (mbCommand 0x22 m (fun x s =>
    let resume := mbArg x 0 == 1
    let sh := shadowSlot s
    match sh.state, sh.image with
    | .admitted, some i =>
      if resume && !s.ttu.resumable then finish m stState s
      else if s.ttu.pending.isSome then finish m stBusy s
      else if !resume && stepBaseBad i (mbArg x 2) then finish m stBadArg s
      else
        let lead := s.xng.role == .lead
        let at_ := if lead then s.xng.index.toNat + 8 else s.xng.switchAt.getD 0
        let s := { s with
          ttu := { s.ttu with pending := some ⟨resume, mbArg x 1, mbArg x 2, at_⟩ }
          xng := if lead then { s.xng with switchReq := some at_, switchAt := some at_ } else s.xng }
        finish m stOk s
    | _, _ => finish m stState s) s)

/-! ### Cursors (R207) -/

/-- A cursor posted to the active slot: its STATUS (Table 7.10). (DEDUCED, assumption log 46) -/
def postCursor (tag : Nat) (data : List Byte) (s : State) : State × Nat :=
  let sl := actSlot s
  let st := if s.ttu.func ≠ .running then 3
    else if 2 ^ 40 ≤ tag ∨ (sl.cursors.any fun c => decide (tag ≤ c.tag)) = true then 1
    else if 16 ≤ sl.cursors.length then 2
    else 0
  let s := { s with ttu := { s.ttu with postStatus := BitVec.ofNat 2 st } }
  (if st = 0 then setSlot s.ttu.active { sl with cursors := sl.cursors ++ [⟨tag, data⟩] } s else s, st)

/-- TTU_CURSOR_POST (R207): the cursor is TTU_CURSOR_DATA. -/
def execTtuCursorPost (tag : BitVec 40) (s : State) : Host.Outcome State Fault Refusal :=
  .next (postCursor tag.toNat (s.ttu.cursorData.flatMap fun w => toLE 8 w.toNat) s).1

/-- TT_CURSOR (R207). (DEDUCED, assumption log 46) -/
def execTtCursor (m : Nat) (s : State) : Host.Outcome State Fault Refusal :=
  .next (mbCommand 0x23 m (fun x s =>
    match postCursor (mbArg x 0) (mbPayload x) s with
    | (s, st) => complete m stOk [st] [] s) s)

/-! ### Ship targets (R212) -/

/-- A range of a host region that a context holds. -/
def hostHeld (s : State) (c off n : Nat) : Bool :=
  (heldRegions s c).any fun r => r.kind == 1 && within (hostBase + off) n r.base r.bytes

/-- TT_SHIP_TARGET (R212): the target of a STAGING region of the active image. (DEDUCED, assumption log 54) -/
def execTtShipTarget (m : Nat) (s : State) : Host.Outcome State Fault Refusal :=
  .next (mbCommand 0x24 m (fun x s =>
    let r := mbArg x 0
    let sl := actSlot s
    match sl.image.bind fun i => i.regions[r]? with
    | some e =>
      if e.kind ≠ 3 then finish m stBadArg s
      else if !hostHeld s sl.context (mbArg x 1) (mbArg x 2) then finish m stDenied s
      else finish m stOk { s with ttu := { s.ttu with
        targets := s.ttu.targets.filter (fun t => t.slot != s.ttu.active || t.region != r)
          ++ [⟨s.ttu.active, r, mbArg x 1, mbArg x 2⟩] } }
    | none => finish m stBadArg s) s)

end Sys2Proof.Machine
end

