-- ==== Sys2Proof/Machine/Ferry.lean ====
section
/-! DEFINITION. The free-running ferry queues (R158 to R160, R254, R260, R268, R271 to R273): FERRY_DESCRIPTOR, COPY, CONVERT, FILL,
FERRY_COMPLETION, the queue registers, and LOCK_PAGES, which waits for them. -/

namespace Sys2Proof.Machine

/-! ### What a descriptor moves -/

/-- The destination bytes that poisoned source bytes of a converted row reach: unit by unit of whole blocks or byte pairs. -/
def convertBad (sf df : Fmt) (blk n : Nat) (bad : List (Nat × Nat)) : List (Nat × Nat) :=
  let u := max 2 (blockElems blk)
  (List.range (ceilDiv n u)).filterMap fun j =>
    let lo := j * u
    let hi := min n (lo + u)
    let sl := rowBytesOf sf blk lo
    let dl := rowBytesOf df blk lo
    if bad.any fun b => overlaps b.1 b.2 sl (rowBytesOf sf blk hi - sl) then some (dl, rowBytesOf df blk hi - dl) else none

/-- One row converted (R158): its bytes, and where poison reaches. -/
def convertRow (d : List Byte) (row : Nat) (src : List Byte) (bad : List (Nat × Nat)) : List Byte × List (Nat × Nat) :=
  let sf := (fmtOfCode (fld d 2 1)).getD .raw
  let df := (fmtOfCode (fld d 3 1)).getD .raw
  let blk := fld d 43 1
  let xs := decodeRow sf blk 0 src
  let modes := (List.range xs.length).map fun e =>
    if (fld d 1 1).testBit 2 then srOf (fld d 50 5) (fld d 40 3) (fld d 44 6 + row * xs.length + e) (fld d 4 2) 0 else .rne
  ((encodeRow df blk 0 modes xs fun _ => true).1, convertBad sf df blk xs.length bad)

/-- The pattern of a FILL over a row (R158). -/
def fillRow (d : List Byte) : List Byte := (List.range (dRowBytes d)).map fun i => (slice d 8 8).getD (i % 8) 0

/-- The rows of a descriptor as they are written: every source row is read first (DEDUCED, assumption log 32). -/
def rowsOut (use : HostUse) (who : Nat) (d : List Byte) (s : State) : State × List (List Byte × List (Nat × Nat)) :=
  let op := fld d 0 1
  if op = 3 then (s, List.replicate (dRows d) (fillRow d, []))
  else (srcRuns d).zipIdx.foldl (fun acc r =>
    let (s, rows) := acc
    let (s, bs, bad) := readRun use who r.1 s
    (s, rows ++ [if op = 2 then convertRow d r.2 bs bad else (bs, bad)])) (s, [])

/-- The whole movement of a descriptor: the state after, whether poison was met, and the bytes written.
(DEDUCED, assumption log 32) -/
def moveAll (use : HostUse) (c who : Nat) (d : List Byte) (s : State) : State × Bool × Nat :=
  let (s, rows) := rowsOut use who d s
  let s := (rows.zip (dstRuns d)).foldl (fun s r => poisonRun r.2.1 r.1.2 (writeRun use c who r.2.1 r.1.1 s)) s
  (setBuf use none s, rows.any fun r => !r.2.isEmpty, dRows d * dDstRow d)

/-- Every source line of a descriptor can be read, no read of it is outstanding, and no channel of it makes its requests wait (R240). -/
def sourcesReady (s : State) (use : HostUse) (d : List Byte) : Bool :=
  !openUses s use && ((srcRuns d).all fun r => (linePieces r.1 r.2).all (pieceReady s use))
    && (srcRuns d ++ dstRuns d).all fun r => !memWaits s r.1 r.2

/-! ### The queues -/

/-- A descriptor's work has ended; its record waits its turn. -/
def finishFerry (q pos islet status bytes : Nat) (irq : Bool) (s : State) : State :=
  let x := fryQ s q
  let s := checkedAgain x.context.toNat (workFerry q) s
  setFryQ q { x with
    inProgress := x.inProgress.filter fun d => d.1 != pos
    moved := x.moved ++ (x.inProgress.filter fun d => d.1 == pos).map fun d => (d.1, d.2.2)
    finished := x.finished ++ [(pos, islet, ferryRecord pos status bytes, irq)] } s

/-- A queue stops after one of its records that waits. -/
def stopsAfter (x : Queue) : Bool := x.finished.any fun f => fld f.2.2.1 2 1 == 4 || (fld f.2.2.1 2 1 != 0 && x.stopOnErr)

/-- The position that a queue starts next. -/
def nextPos (x : Queue) : Nat := (x.head + BitVec.ofNat 32 (x.inProgress.length + x.finished.length)).toNat

/-- A MOVE of the timetable is ready on an islet's ferry, which serves it first (R155). -/
def moveReady (s : State) (islet : Nat) : Bool :=
  match (actSlot s).image with
  | none => false
  | some i => (stepsOf (openCrossing s i)).any fun k => match stepReady k s with
    | some (_, _, st) => engineOf st.op == 0 && physOf s st.lislet == islet
    | none => false

/-- A queue may start a descriptor on an islet's ferry. -/
def ferryMay (s : State) (q islet : Nat) : Bool :=
  let x := fryQ s q
  decide (q < 256) && s.fry.func == .running && freeWork s && x.enable && !x.stopped && !stopsAfter x
    && nextPos x != x.tail.toNat && mayCheck s x.context.toNat (workFerry q) && (isletOf s islet).state == .active
    && !moveReady s islet

/-- A descriptor that has been read is checked, and starts on an islet's ferry (R159). -/
def startFerry (q pos islet : Nat) (d : List Byte) (s : State) : State :=
  let x := fryQ s q
  let c := x.context.toNat
  let irq := (fld d 1 1).testBit 0
  if fld d 6 2 ≠ pos % 65536 then finishFerry q pos islet 4 0 irq s
  else if !ferryOk d then finishFerry q pos islet 3 0 irq s
  else if (fld d 1 1).testBit 1 && !(x.inProgress.isEmpty && x.finished.isEmpty) then s
  else match rangesVerdict s c (ferryRanges d) with
    | .ok =>
      let s := checkedAgain c (workFerry q) (setFryQ q { x with inProgress := x.inProgress ++ [(pos, islet, d)] } s)
      (srcRuns d).foldl (fun s r => fetchRun (.ferry q pos) r s) s
    | .bound => finishFerry q pos islet 1 0 irq s
    | .denied p lock => finishFerry q pos islet 2 0 irq (refusePage c (p * 2 ^ 21) lock s)
    | .fault p => workFault (workFerry q) c p s
    | .wait => s

/-- A record is written and, once it is visible, HEAD advances; the event, the stop and the interrupt follow (R159, R160). -/
def completeFerry (q pos islet : Nat) (rec : List Byte) (irq : Bool) (s : State) : State :=
  let status := fld rec 2 1
  let x := fryQ s q
  let r := queueRecord (.ferry q pos) x (whoFerry islet) pos rec s
  if r.2 then
    let s := setFryQ q (pastRecord pos status x) r.1
    let s := if status = 0 ∨ status = 6 then s else raise 0x0407 islet [] s
    if irq && x.irqEn then emit (.aplic (16 + q)) s else s
  else setFryQ q { x with
    recOut := true, finished := x.finished.filter (fun f => f.1 != pos) ++ [(pos, islet, rec, irq)] } r.1

/-- A disabled queue with nothing in progress completes the rest up to TAIL as ABORTED (R160).
(DEDUCED, assumption log 48) -/
def fryDrain (q : Nat) (s : State) : State :=
  let x := fryQ s q
  if x.drain && x.inProgress.isEmpty && x.finished.isEmpty then
    let s := (List.range (x.tail - x.head).toNat).foldl (fun s i =>
      let pos := (x.head.toNat + i) % 2 ^ 32
      if (fryQ s q).finished.isEmpty && (fryQ s q).head.toNat == pos then
        match abortFlag (.ferry q pos) x (whoFerry 0) pos s with
        | (s, some irq) => completeFerry q pos 0 (ferryRecord pos 6 0) irq s
        | (s, none) => s
      else s) s
    let x := fryQ s q
    if x.finished.isEmpty && x.head == x.tail then setFryQ q { x with drain := false, stopped := false } s else s
  else s

/-- FERRY_DESCRIPTOR (R159): the next descriptor of queue q is read and checked, and starts on an islet's ferry; of a
disabled queue it completes as ABORTED. (DEDUCED, assumption log 48, 134) -/
def execFerryDescriptor (q islet : Nat) (s : State) : Host.Outcome State Fault Refusal :=
  if ferryMay s q islet then
    let x := fryQ s q
    let pos := nextPos x
    let c := x.context.toNat
    match ownRead (.ferry q pos) c (whoFerry islet) (descAddr x pos) 64 s with
    | (s, .data d _) => .next (startFerry q pos islet d (setBuf (.ferry q pos) none s))
    | (s, .bound) => .next (finishFerry q pos islet 1 0 false s)
    | (s, .denied p lock) => .next (finishFerry q pos islet 2 0 false (refusePage c (max (descAddr x pos) (p * 2 ^ 21)) lock s))
    | (s, .fault p) => .next (workFault (workFerry q) c p s)
    | (s, .wait) => .next s
  else .next (fryDrain q s)

/-- A started descriptor of an opcode moves its data, once every source line can be read. -/
def ferryMove (op q pos : Nat) (s : State) : State :=
  let x := fryQ s q
  match x.inProgress.find? fun d => d.1 == pos with
  | some (_, islet, d) =>
    if fld d 0 1 = op ∧ sourcesReady s (.ferry q pos) d = true then
      let (s, bad, n) := moveAll (.ferry q pos) x.context.toNat (whoFerry islet) d s
      finishFerry q pos islet (if bad then 5 else 0) n ((fld d 1 1).testBit 0) s
    else s
  | none => s

/-- COPY (R158). -/
def execCopy (q pos : Nat) (s : State) : Host.Outcome State Fault Refusal := .next (ferryMove 1 q pos s)
/-- CONVERT (R158). -/
def execConvert (q pos : Nat) (s : State) : Host.Outcome State Fault Refusal := .next (ferryMove 2 q pos s)
/-- FILL (R158). -/
def execFill (q pos : Nat) (s : State) : Host.Outcome State Fault Refusal := .next (ferryMove 3 q pos s)

/-- Writes of a context's ferry work are held at a page on the move. -/
def ferryHeld (s : State) (c : Nat) : Bool := s.mem.held.any fun h => h.ctx == c && h.who / 4096 == 1 && h.write.isSome

/-- FERRY_COMPLETION (R159): the record of the queue's oldest descriptor, once its writes are visible. -/
def execFerryCompletion (q : Nat) (s : State) : Host.Outcome State Fault Refusal :=
  let x := fryQ s q
  match x.finished.find? fun f => f.1 == x.head.toNat with
  | some (pos, islet, rec, irq) =>
    if (openUses s (.ferry q pos) || ferryHeld s x.context.toNat) && !x.recOut then .next s
    else .next (advanceRegion (fryDrain q (completeFerry q pos islet rec irq s)))
  | none => .next s

/-- Descriptors of the queue are in progress (Table 5.17). -/
def fryBusy (x : Queue) : Bool := !x.inProgress.isEmpty || !x.finished.isEmpty || x.drain

/-- FRY_QTAIL (R160). -/
def execFryQtail (q : Nat) (v : Word32) (s : State) : Host.Outcome State Fault Refusal :=
  .next (if q < 256 then setFryQ q (ringTail (fryQ s q) v) s else s)

/-- FRY_QCFG with ENABLE 1 (R160). -/
def execFryQcfgEnable (q : Nat) (v : Word64) (s : State) : Host.Outcome State Fault Refusal :=
  .next (if q < 256 then setFryQ q (enableQueue (fryQ s q) (fryBusy (fryQ s q)) v) s else s)

/-- FRY_QCFG with ENABLE 0 (R160). -/
def execFryQcfgDisable (q : Nat) (v : Word64) (s : State) : Host.Outcome State Fault Refusal :=
  .next (if q < 256 then fryDrain q (setFryQ q (disableQueue (fryQ s q) v) s) else s)

/-! ### LOCK_PAGES (R268) -/

/-- The GROUP check of R84 on the active image: the status that it fails with. `agree` is the vote tree's answer on IMAGE_DIGEST. -/
def groupCheck (agree : Bool) (s : State) : Option Nat :=
  if (actSlot s).image.any fun i => i.ranks != rankCount s then some stState
  else if grouped s && !agree then some stIntegrity
  else none

/-- A failed GROUP check leaves the unit STOPPED (R84, R220, R402). -/
def groupCheckFails (status : Nat) (s : State) : State :=
  let ms := waiters s (.start 0) ++ waiters s .restore
  ms.foldl (fun s m => finish m status s)
    (timetableEnds (raise 0x0208 noSubject [] { s with ttu := { s.ttu with groupDue := false } }))

/-- LOCK_PAGES (R268, R287): in STARTING, once no descriptor of another context covers a page of the image and no ring transaction is under
way on one, their lines are flushed and the locks are set. `agree` is
the vote tree's answer where a GROUP check is due. -/
def execLockPages (agree : Bool) (s : State) : Host.Outcome State Fault Refusal :=
  let sl := actSlot s
  let ps := slotPages sl
  if s.ttu.func = .starting ∧ s.ttu.locksWait = true
      ∧ (((pagesInUse s (· != sl.context)).all fun p => !ps.contains p) && ps.all fun p => !ringBusy s p) = true then
    match (if s.ttu.groupDue then groupCheck agree s else none) with
    | some st => .next (groupCheckFails st s)
    | none =>
      let s := lockPages ps sl.context (ps.foldl (fun s p => flushPage p s) s)
      .next { s with ttu := { s.ttu with locksWait := false, groupDue := false } }
  else .next s

end Sys2Proof.Machine
end

