-- ==== Sys2Proof/Machine/MemoryCmds.lean ====
section
/-! DEFINITION. Requests of lines at a home (R224, R230 to R236, R254, R260, R271, R273), the write-combining buffers, scrubbing,
refresh and calibration (R232, R239 to R241), margin scans (R242 to R244) and channels that fail (R245 to R248). -/

namespace Sys2Proof.Machine

/-! ### Line requests -/

/-- The runs of bytes that a mask selects of a line: offset and bytes. -/
def maskRuns (data : List Byte) (mask : Nat) : List (Nat × List Byte) :=
  (data.zipIdx.foldl (fun (acc : List (Nat × List Byte) × Bool) p =>
    if mask.testBit p.2 then
      match acc.2, acc.1 with
      | true, r :: rs => ((r.1, r.2 ++ [p.1]) :: rs, true)
      | _, rs => ((p.2, [p.1]) :: rs, true)
    else (acc.1, false)) ([], false)).1.reverse

/-- A write of a block whose parity fails is recorded, and counts as an uncorrectable error of the block (R230, R231). -/
def parityEvent (b : Nat) (s : State) : State :=
  let k := chanOf s (256 * b)
  raise 0x060D k [(8, 256 * b)] (eccLast 3 false 0 (256 * b) (countUe k s))

/-- A write accepted by its controller (R231, R234, R235): into a write-combining entry, or, where a byte's parity fails, as a
poisoned write of its block that counts as an uncorrectable error. (DEDUCED, assumption log 115) -/
def acceptWrite (who addr : Nat) (data : List Byte) (mask : Nat) (parityBad : Bool) (s : State) : State :=
  if !backed s.cfg addr then unbacked who addr s
  else if (chan s (chanOf s addr)).state = .lost then s
  else
    let s := wcWrite addr data mask (wcMakeRoom addr s)
    if parityBad then parityEvent (blockOf addr) (poisonBlock (blockOf addr) s) else s

/-- A read or write of a line that passes its checks is served by its controller; a write that carries poison poisons its block, and one
with good parity records nothing (R231). -/
def serveLine (h : HeldReq) (s : State) : State :=
  match h.write with
  | some (data, mask) =>
    let s := acceptWrite h.who h.addr data mask h.bad s
    if h.poison && !h.bad && backed s.cfg h.addr && (chan s (chanOf s h.addr)).state != .lost then poisonBlock (blockOf h.addr) s else s
  | none =>
    let (s, _, p) := readMem h.who (h.addr / 64 * 64) 64 s
    emit (.line h.who h.addr (lineData s (h.addr / 64 * 64)) p) s

/-- A request is of timetabled traffic (R238): of the exchange unit or the snapshot engine, or of a ferry or lane core with the context of
the running image. (DEDUCED, assumption log 135) -/
def timedReq (s : State) (h : HeldReq) : Bool :=
  let kind := h.who / 4096
  kind == 3 || kind == 4
    || ((kind == 1 || kind == 2) && s.ttu.func != .stopped && h.ctx == (actSlot s).context)

/-- A request arrives at its controller (R9, R238, R240, R242): it is served, or waits at a channel that makes its requests wait, with a
tracker, or without one at the home's entry. -/
def arriveLine (h : HeldReq) (s : State) : State :=
  let k := chanOf s h.addr
  if backed s.cfg h.addr && chanWaits s k then
    let timed := timedReq s h
    match freeTracker s k timed with
    | some shared => { s with mem := { s.mem with tracked := s.mem.tracked ++ [⟨h, timed, shared⟩] } }
    | none => { s with mem := { s.mem with untracked := s.mem.untracked ++ [h] } }
  else serveLine h s

/-- The blocks that requests served together have read, with their poison (R233). -/
abbrev Arrived := List (Nat × Bool)

/-- A request that has waited is served; a read of a block that has just arrived is served from the same read (R233). A line forwarded whole
from its entry reads no block, and the next line of the block that needs it does (R236). -/
def serveNext (sa : State × Arrived) (h : HeldReq) : State × Arrived :=
  let b := blockOf h.addr
  match h.write with
  | some _ => (serveLine h sa.1, sa.2.filter fun x => x.1 != b)
  | none => match assoc b sa.2 with
    | some p =>
      let whole := (wcEntry sa.1 b).any fun e => lineValid e (h.addr % 256 / 64 * 64)
      (emit (.line h.who h.addr (lineData sa.1 (h.addr / 64 * 64)) (p && !whole)) sa.1, sa.2)
    | none =>
      let whole := (wcEntry sa.1 b).any fun e => lineValid e (h.addr % 256 / 64 * 64)
      let (s, _, p) := readMem h.who (h.addr / 64 * 64) 64 sa.1
      (emit (.line h.who h.addr (lineData s (h.addr / 64 * 64)) p) s, if whole then sa.2 else (b, p) :: sa.2)

/-- Channels serve again: the requests that hold their trackers, in arrival order, and then those that waited for one (R238, R240, R242). -/
def releaseTracked (s : State) : State :=
  let go := s.mem.tracked.filter fun t => !chanWaits s (chanOf s t.req.addr)
  let stay := s.mem.tracked.filter fun t => chanWaits s (chanOf s t.req.addr)
  let late := s.mem.untracked
  let s := { s with mem := { s.mem with tracked := stay, untracked := [] } }
  late.foldl (fun s h => arriveLine h s) (go.foldl (fun sa t => serveNext sa t.req) (s, [])).1

/-- A request served remotely at its page's backing address (R273, R274). A write that carries poison or whose parity fails leaves nothing:
its poison has no place there (DESIGN CHOICE, assumption log 133). -/
def serveRemote (h : HeldReq) (s : State) : State :=
  let off := pieceOff s (h.addr / 64 * 64)
  let s := match h.write with
    | some (data, mask) =>
      if h.bad then parityEvent (blockOf h.addr) s
      else if h.poison then s
      else (maskRuns data mask).foldl (fun s r => hostWrite (off + r.1) r.2 (.line h.who h.addr) s) s
    | none =>
      if allLost s then emit (.line h.who h.addr (zeros 64) true) (hostLost off s) else hostRead off 64 (.line h.who h.addr) s
  remoteTouch (pageOf h.addr) s

/-- A request decided at its home (R254, R260). An internal engine's carries no context and passes (R252), but for a write of the tables of
the reserved area, which change through the region unit alone (R255, R256). A hart's store was permitted before it retired, and is not refused
again (R286). -/
def decideLine (h : HeldReq) (s : State) : State :=
  if h.who / 4096 = 6 then if h.write.isSome && inTables h.addr then refusePage 0 h.addr false s else arriveLine h s
  else if !backed s.cfg h.addr then
    match h.write with
    | some _ => unbacked h.who h.addr s
    | none => emit (.line h.who h.addr (zeros 64) true) (unbacked h.who h.addr s)
  else
    let p := pageOf h.addr
    match pageCheck s h.ctx p h.write.isSome with
    | .served => arriveLine h s
    | .held => holdLine h s
    | .absent => if counterMode s then serveRemote h s else holdLine h (joinEntry h.ctx p s)
    | v =>
      if h.ring then arriveLine h s
      else
      let s := refusePage h.ctx h.addr (v == .locked) s
      if h.write.isSome then s else emit (.line h.who h.addr (zeros 64) true) s

/-- The held requests are decided again (R260). -/
def retryHeld (s : State) : State :=
  s.mem.held.foldl (fun s h => decideLine h s) { s with mem := { s.mem with held := [] } }

/-- LINE_READ (R233, R260). (DEDUCED, assumption log 105) -/
def execLineRead (ctx who addr : Nat) (s : State) : Host.Outcome State Fault Refusal :=
  .next (if s.pwr.good then decideLine { ctx := ctx, who := who, addr := addr, write := none } s else s)

/-- LINE_WRITE (R231, R234, R260): the line's bytes under a mask. -/
def execLineWrite (ctx who addr : Nat) (data : List Byte) (mask : BitVec 64) (parityBad : Bool) (s : State) :
    Host.Outcome State Fault Refusal :=
  .next (if s.pwr.good then decideLine { ctx := ctx, who := who, addr := addr / 64 * 64
                                         write := some (padTo 64 data, mask.toNat), bad := parityBad } s else s)

/-- WC_EVICTION (R234): a fully valid entry at once, another one 512 cycles after its last write.
(DEDUCED, assumption log 115) -/
def execWcEviction (chan block : Nat) (s : State) : Host.Outcome State Fault Refusal :=
  match (look [] s.mem.wc chan).find? fun e => e.block == block with
  | some e => .next (evictEntry e (if e.bytes.length = 256 then s else passNow (e.last + 512) s))
  | none => .next s

/-! ### Scrubbing, refresh and calibration -/

/-- PATROL_SCRUB (R232): one block read and handled under R230. (DEDUCED, assumption log 116) -/
def execPatrolScrub (block : Nat) (s : State) : Host.Outcome State Fault Refusal :=
  if s.mem.scrubEn && backed s.cfg (256 * block) && (chan s (chanOf s (256 * block))).state != .lost then
    .next (readBlock block s).1
  else .next s

/-- REFRESH (R239): it costs time and changes no state. -/
def execRefresh (_chan : Nat) (s : State) : Host.Outcome State Fault Refusal := .next s

/-- The channels in fall-back calibration. -/
def fallbackCount (s : State) : Nat := (s.mem.chans.filter fun c => c.2.fallback).length

/-- The next primary calibration ends fall-back for every channel (R241). -/
def endFallback (s : State) : State :=
  let n := fallbackCount s
  if n = 0 then s
  else
    let s := (s.mem.chans.map (·.1)).foldl (fun s k => setChan k { chan s k with fallback := false } s) s
    raise 0x0606 noSubject [(2, n)] s

/-- The channels that have gone 100 ms without a primary calibration (R241). -/
def overdueChans (s : State) : List Nat := (calChans s).filter fun k =>
  !(chan s k).fallback && decide ((chan s k).calAt + 400000000 ≤ s.now)

/-- CAL_FALLBACK (R241): a channel enters fall-back; the first entry is recorded with the lowest channel of its cycle. -/
def execCalFallback (chan : Nat) (s : State) : Host.Outcome State Fault Refusal :=
  let ch := Sys2Proof.Machine.chan s chan
  if (calChans s).contains chan && !ch.fallback && !ch.busy then
    let s := passNow (ch.calAt + 400000000) s
    let first := fallbackCount s = 0
    let low := ((overdueChans s).head?).getD chan
    let s := setChan chan { ch with fallback := true } s
    .next (if first then raise 0x0605 low [] s else s)
  else .next s

/-! ### Channels that fail (R245 to R248) -/

/-- The lowest SPARE channel of a home. -/
def spareChan (s : State) (h : Nat) : Option Nat :=
  (List.range 128).find? fun p => (chan s (h * 256 + p)).state == .spare

/-- A channel retired in TRAIN (R246): its slot goes to the home's lowest spare; without one the home fails (R247). -/
def retireChan (k : Nat) (s : State) : State :=
  let ch := chan s k
  let h := k / 256
  if ch.state = .retired ∨ ch.state = .absent then s
  else if ch.state = .spare then raise 0x0604 k [] (setChan k { ch with state := .retired } s)
  else match spareChan s h with
    | some p =>
      let s := setChan k { ch with state := .retired, slot := 0x7F } s
      let s := setChan (h * 256 + p) { chan s (h * 256 + p) with state := .active, slot := ch.slot } s
      raise 0x0604 k [] s
    | none =>
      let s := { s with mem := { s.mem with homeFail := s.mem.homeFail ||| BitVec.ofNat 5 (2 ^ h) } }
      failModule 0 (raise 0x0609 (h * 256 + 0xFF) [] s)

/-- Corrected errors of a channel within the last 24 hours (R248). -/
def ceCountDay (s : State) (k : Nat) : Nat := ((chan s k).ceTimes.filter fun t => decide (s.now < t + day)).length

/-- CE_LIMIT_REACHED (R248). -/
def execCeLimitReached (chan : Nat) (s : State) : Host.Outcome State Fault Refusal :=
  let ch := Sys2Proof.Machine.chan s chan
  if s.mem.ceLimit ≠ 0 ∧ s.mem.ceLimit.toNat ≤ ceCountDay s chan ∧ ch.state = .active then
    .next (raise 0x0607 chan [] (setChan chan { ch with state := .retirePending } s))
  else .next s

/-! ### Margin scans (R242 to R244) -/

/-- The verdict of a scan (R244, R323). The spec states no minimum for a strait lane: a free value. -/
def marginVerdict (kind tl tr vl vh : Nat) (s : State) : State × Bool :=
  if kind = 1 then (s, decide (tl < 10) || decide (tr < 10) || decide (vl < 6) || decide (vh < 6))
  else if kind = 3 then (s, decide (tl < 8) || decide (tr < 8) || decide (vl < 3) || decide (vh < 3))
  else
    let (s, v) := draw s
    (s, v.testBit 0)

/-- The record of a scan (Table 8.4). -/
def marginRecord (x : MarginScan) (tl tr vl vh : Nat) (low : Bool) (cycle : Nat) : List Byte :=
  let h := toLE 1 x.kind ++ toLE 1 x.dir ++ toLE 2 x.target ++ toLE 2 tl ++ toLE 2 tr ++ toLE 2 vl ++ toLE 2 vh ++ toLE 1 (b2n low)
    ++ zeros 3 ++ toLE 8 cycle
  h ++ toLE 4 (crc32c h) ++ zeros 4

/-- A strait lane is replaced by its spare (R244, R405). (DEDUCED, assumption log 40) -/
def spareStraitLane (target : Nat) (s : State) : State :=
  if (spareUser s target).isSome then s
  else raise 0x060B target [] { s with mem := { s.mem with straitSpared := s.mem.straitSpared ++ [target] } }

/-- What a verdict of 1 brings (R244): in TRAIN the target is replaced, elsewhere an event is recorded.
(DEDUCED, assumption log 98) -/
def marginLow (x : MarginScan) (s : State) : State :=
  if s.mode = .train then
    (if x.kind = 1 then retireChan x.target s else if x.kind = 2 then spareStraitLane x.target s else s)
  else raise 0x060A x.target [] s

/-- In TRAIN the next scan that waits starts at once (R242). -/
def nextScan (s : State) : State :=
  if s.mode = .train then
    takeScan s
  else s

end Sys2Proof.Machine
end

