-- ==== Sys2Proof/Machine/Ring.lean ====
section
/-! DEFINITION. The Sound ring (R292 to R314) with the L1 and L2 of a hart as one caching agent (R281): accesses, requests, snoops,
grants, data, victims, and protocol errors. A message's command is its arrival. -/

namespace Sys2Proof.Machine

/-! ### Messages on the ring (R294, R297) -/

/-- A message is sent. -/
def sendR (m : RMsg) (s : State) : State := { s with snd := { s.snd with flight := s.snd.flight ++ [m] } }

/-- A message as it was sent: its parities held. -/
def asSent (m : RMsg) : RMsg := { m with parity := true, dataOk := true }

/-- A message has arrived, or is lost with a header that fails its parity (R313). -/
def takeR (m : RMsg) (s : State) : State := { s with snd := { s.snd with flight := dropFirst (asSent m) s.snd.flight } }

/-- The class of a message (Table 11.3): 0 REQ, 1 SNP, 2 RSP, 3 DAT. -/
def classOf : RKind → Nat
  | .rds | .rdx | .upg | .cbo | .vic | .chk => 0
  | .snps | .snpx | .snpw | .snpv => 1
  | .srsp | .gnt | .nack | .cack | .wcan => 2
  | .data | .wdata | .udata => 3

/-- The stops between which a message travels (Table 11.3): from, and to. -/
def endsOf (c : Cfg) (m : RMsg) : Nat × Nat :=
  let home := homeStop c m.line
  match m.kind with
  | .snps | .snpx | .snpw | .snpv => (home, m.stop)
  | .srsp => (m.stop, home)
  | .gnt | .nack => (home, stopOf m.agent)
  | .data => (m.stop, stopOf m.agent)
  | _ => (stopOf m.agent, home)

/-- The way of a message: its class, the stops, and its direction, the shorter one (R294). -/
def wayOf (c : Cfg) (m : RMsg) : Nat × Nat × Nat × Bool :=
  let e := endsOf c m
  (classOf m.kind, e.1, e.2, goesClockwise c e.1 e.2)

/-- No message that was sent before it on its way is still to arrive: those of one class between one pair of stops arrive in the order in
which they were sent (R294). -/
def firstOnWay (s : State) (m : RMsg) : Bool :=
  !s.snd.flight.contains (asSent m)
    || !(s.snd.flight.takeWhile (· != asSent m)).any fun f => wayOf s.cfg f == wayOf s.cfg m

/-- The open transaction of a line. -/
def openTxn (s : State) (line : Nat) : Option HTxn := s.snd.txns.find? fun t => t.req.line == line

/-- An open transaction replaced. -/
def setTxn (t : HTxn) (s : State) : State :=
  { s with snd := { s.snd with txns := s.snd.txns.map fun u => if u.num = t.num then t else u } }

/-! ### Faults of a hart (R288) -/

/-- What the module holds of a hart. -/
def hartOf (s : State) (h : Nat) : Hart := look {} s.harts h

/-- What the module holds of a hart set. -/
def setHart (h : Nat) (x : Hart) (s : State) : State := { s with harts := put {} h x s.harts }

/-- The access fault of an access (R282, R286): of a fetch, of a load, or of a store or AMO. -/
def faultOf (acc : CAccess) : AccessFault :=
  if acc.kind = .fetch then .fetch else if acc.write.isSome || acc.cbo.isSome then .store else .load

/-- An access fault reported to a hart (R288, Table 10.5), with its virtual address in xtval; KIND 0 is one that leaves skfault alone.
(DEDUCED, assumption log 70) -/
def hartFault (acc : CAccess) (kind : Nat) (s : State) : State :=
  let x := { hartOf s acc.hart with tval := acc.va }
  let x := if kind = 0 then x else { x with faultCtx := BitVec.ofNat 16 acc.ctx, faultKind := BitVec.ofNat 3 kind }
  emit (.fault acc.hart (faultOf acc) acc.addr kind) (setHart acc.hart x s)

/-! ### Accesses (R285, R286, R289, R310) -/

/-- What an AMO writes, from the bytes it finds and its operand. (PRESUMED, assumption log 145) -/
def amoResult (op : AmoOp) (old new : List Byte) : List Byte :=
  let n := old.length
  let a := leNat old
  let b := leNat new
  let signed (x : Nat) : Nat := (x + 2 ^ (8 * n - 1)) % 2 ^ (8 * n)
  toLE n (match op with
    | .swap => b
    | .add => a + b
    | .xor => a ^^^ b
    | .and => a &&& b
    | .or => a ||| b
    | .min => if signed a ≤ signed b then a else b
    | .max => if signed a ≤ signed b then b else a
    | .minu => min a b
    | .maxu => max a b)

/-- A load-reserved reserves its line for its hart. (PRESUMED, assumption log 145) -/
def reserve (acc : CAccess) (s : State) : State :=
  if acc.kind = .lr then setHart acc.hart { hartOf s acc.hart with resv := some (acc.addr / 64) } s else s

/-- A load's data reach its hart, and a load-reserved reserves the line. -/
def loadDone (acc : CAccess) (bs : List Byte) (s : State) : State := reserve acc (emit (.loaded acc.hart acc.addr bs) s)

/-- The bytes that a store, a store-conditional or an AMO writes over those it finds, with what it gives its hart; nothing where a
store-conditional has lost its reservation. (PRESUMED, assumption log 145) -/
def storeBytes (acc : CAccess) (old bs : List Byte) (s : State) : State × Option (List Byte) :=
  match acc.kind with
  | .amo op => (emit (.loaded acc.hart acc.addr old) s, some (amoResult op old bs))
  | .sc =>
    let x := hartOf s acc.hart
    let s := setHart acc.hart { x with resv := none } s
    if x.resv = some (acc.addr / 64) then (emit (.loaded acc.hart acc.addr (toLE bs.length 0)) s, some bs)
    else (emit (.loaded acc.hart acc.addr (toLE bs.length 1)) s, none)
  | _ => (s, some bs)

/-- The access is an AMO, which consumes the data that it finds. -/
def isAmo (acc : CAccess) : Bool := match acc.kind with
  | .amo _ => true
  | _ => false

/-- The reservations of a stop's harts on a line end as another agent takes it. (PRESUMED, assumption log 145) -/
def loseReserved (stop agent line : Nat) (s : State) : State :=
  { s with harts := s.harts.map fun h =>
      if h.1 ≠ agent ∧ stopOf h.1 = stop ∧ h.2.resv = some line then (h.1, { h.2 with resv := none }) else h }

/-- A load or store carried out on a line that permits it. -/
def performHit (acc : CAccess) (x : CLine) (s : State) : State :=
  let agent := acc.hart
  let line := acc.addr / 64
  let off := acc.addr % 64
  match acc.write with
  | none =>
    if x.poison then hartFault acc 3 s else loadDone acc (slice x.bytes off acc.size) s
  | some bs =>
    if x.poison && isAmo acc then hartFault acc 3 s
    else match storeBytes acc (slice x.bytes off bs.length) bs s with
    | (s, none) => s
    | (s, some bs) =>
    let written := x.written ||| ((2 ^ bs.length - 1) * 2 ^ off)
    let full := written = 2 ^ 64 - 1
    setCline agent line { x with
      st := if x.st = .smu ∨ x.st = .omu then x.st else .m
      bytes := patch x.bytes off bs, written := written, poison := x.poison && !full } s

/-- The access is a prefetch (R275). -/
def isPrefetch (acc : CAccess) : Bool := match acc.kind with
  | .prefetch _ => true
  | _ => false

/-- A request sent for an access, which waits (R297, R307). -/
def sendReq (kind : RKind) (st : CState) (acc : CAccess) (x : CLine) (s : State) : State :=
  let agent := acc.hart
  let line := acc.addr / 64
  let m : RMsg := { kind := kind, line := line, agent := agent, ctx := acc.ctx, stamp := s.xng.cycle.toNat % 2 ^ 32
                    pre := isPrefetch acc }
  sendR m (setCline agent line { x with st := st, req := some m, tries := 0, holds := false, gnt := none, data := none
                                        waiting := if isPrefetch acc then x.waiting else x.waiting ++ [acc]
                                        starter := if isPrefetch acc then none else some acc } s)

/-- A CHK sent for an access that meets a line of another context (R285). -/
def sendChk (acc : CAccess) (x : CLine) (s : State) : State :=
  let line := acc.addr / 64
  let m : RMsg := { kind := .chk, line := line, agent := acc.hart, ctx := acc.ctx, wr := acc.write.isSome
                    stamp := s.xng.cycle.toNat % 2 ^ 32 }
  sendR m (setCline acc.hart line { x with chk := true, req := some m, tries := 0, waiting := x.waiting ++ [acc], starter := some acc } s)

/-- A CBO issued from a stable state; the line keeps its state until the CBO's own snoop (R304). -/
def sendCbo (acc : CAccess) (x : CLine) (s : State) : State :=
  let line := acc.addr / 64
  let m : RMsg := { kind := .cbo, line := line, agent := acc.hart, ctx := acc.ctx, cboOp := acc.cbo.getD .flush
                    stamp := s.xng.cycle.toNat % 2 ^ 32 }
  sendR m (setCline acc.hart line { x with cbo := acc.cbo, cboVa := acc.va, req := some m, tries := 0 } s)

/-! ### Limits (R281, R309) -/

/-- The requests that an agent may have outstanding (R309). -/
def reqLimit (agent : Nat) : Nat := if agent < 128 then 48 else if agent < 192 then 64 else 128

/-- An agent may send one more request (R309). -/
def reqRoom (s : State) (agent : Nat) : Bool :=
  decide ((s.snd.lines.filter fun p => p.1 / 2 ^ 42 == agent && p.2.req.isSome).length < reqLimit agent)

/-- The set of a line in an L2 of 1 MiB and 16 ways (R281). (DESIGN CHOICE, assumption log 65) -/
def l2Set (line : Nat) : Nat := line % 1024

/-- The lines that take a way of a line's set in an L2; one that is on its way out takes none. -/
def l2Ways (s : State) (agent line : Nat) : List (Nat × CLine) :=
  s.snd.lines.filter fun p => p.1 / 2 ^ 42 == agent && l2Set (p.1 % 2 ^ 42) == l2Set line && p.1 != clKey agent line
    && p.2.st != .i && p.2.st != .wb && p.2.st != .wbn

/-- A line replaced by its cache (Table 11.5, Replace); one in a transient state never is, and one that is owned needs room for its VIC
(R309). -/
def replaceLine (agent line : Nat) (s : State) : State :=
  let x := cline s agent line
  if x.chk || x.cbo.isSome || !x.waiting.isEmpty then s
  else match x.st with
    | .s | .e => setCline agent line {} s
    | .o | .m =>
      if reqRoom s agent then
        let m : RMsg := { kind := .vic, line := line, agent := agent, ctx := x.ctx, stamp := s.xng.cycle.toNat % 2 ^ 32 }
        sendR m (setCline agent line { x with st := .wb, wbM := x.st == .m, req := some m, tries := 0 } s)
      else s
    | _ => s

/-- A line may be replaced now. -/
def replaceable (s : State) (agent : Nat) (x : CLine) : Bool :=
  !x.chk && x.cbo.isNone && x.waiting.isEmpty
    && (x.st == .s || x.st == .e || ((x.st == .o || x.st == .m) && reqRoom s agent))

/-- A way for a line: free, or that of a line which the L2 replaces, which one is a free value; none where no line can be replaced.
(DESIGN CHOICE, assumption log 65) -/
def takeWay (agent line : Nat) (s : State) : Option State :=
  let ways := l2Ways s agent line
  if ways.length < 16 then some s
  else (pickFree s ((ways.filter fun p => replaceable s agent p.2).map fun p => p.1 % 2 ^ 42)).map fun v =>
    replaceLine agent v (drawn s)

/-- An access waits at its line; a prefetch is dropped (R275). -/
def parkAccess (acc : CAccess) (x : CLine) (s : State) : State :=
  if isPrefetch acc then s else setCline acc.hart (acc.addr / 64) { x with waiting := x.waiting ++ [acc] } s

/-- A request goes out for an access, which waits where its agent has no request to spare or no way (R281, R309). -/
def askLine (kind : RKind) (st : CState) (acc : CAccess) (x : CLine) (s : State) : State :=
  match (if x.st = .i then takeWay acc.hart (acc.addr / 64) s else some s) with
  | some s => if reqRoom s acc.hart then sendReq kind st acc x s else parkAccess acc x s
  | none => parkAccess acc x s

/-- A page that a prefetch may reach: RESIDENT, cached on the ring, and serving its context (R275). -/
def prefetchPage (s : State) (c a : Nat) : Bool :=
  backed s.cfg a && (tag s (pageOf a)).res == .resident && !(tag s (pageOf a)).lock && pageCheck s c (pageOf a) false == .served

/-- A prefetch goes out: to the page of the demand access that triggered it, where that serves it; every other one is dropped (R275). -/
def mayPrefetch (acc : CAccess) (s : State) : Bool :=
  prefetchPage s acc.ctx acc.addr && match acc.kind with
    | .prefetch trigger => pageOf trigger == pageOf acc.addr
    | _ => false

/-- An access meets its line (Table 11.5, Load and Store; R304). -/
def lineAccess (acc : CAccess) (s : State) : State :=
  let agent := acc.hart
  let line := acc.addr / 64
  let x := cline s agent line
  let write := acc.write.isSome
  let wait := parkAccess acc x s
  if x.chk || x.cbo.isSome then wait
  else if isPrefetch acc then
    if x.st = .i ∧ x.waiting = [] ∧ mayPrefetch acc s = true then askLine .rds .isu acc x s else s
  else if acc.cbo.isSome then
    match x.st with
    | .i | .s | .e | .o | .m => if reqRoom s agent then sendCbo acc x s else wait
    | _ => wait
  else match x.st with
    | .i => if write then askLine .rdx .imu acc x s else askLine .rds .isu acc x s
    | .s | .e | .o | .m =>
      if x.ctx ≠ acc.ctx then (if reqRoom s agent then sendChk acc x s else wait)
      else if !write then performHit acc x s
      else match x.st with
        | .s => askLine .upg .smu acc x s
        | .o => askLine .upg .omu acc x s
        | _ => performHit acc x s
    | .smu | .omu => if write then wait else if x.ctx ≠ acc.ctx then wait else performHit acc x s
    | _ => wait

/-- The accesses that wait for a line meet it again, in order. -/
def performWaiting (agent line : Nat) (s : State) : State :=
  let x := cline s agent line
  x.waiting.foldl (fun s a => lineAccess a s) (setCline agent line { x with waiting := [] } s)

/-- The accesses of an agent that wait for no request of their own meet their lines again (R281, R309). -/
def restart (agent : Nat) (s : State) : State :=
  (s.snd.lines.filter fun p => p.1 / 2 ^ 42 == agent && p.2.req.isNone && !p.2.waiting.isEmpty).foldl
    (fun s p => performWaiting agent (p.1 % 2 ^ 42) s) s

/-! ### The snoop filter and the home caches (R296, R311, R312) -/

/-- A sector has an open transaction on one of its lines. -/
def sectorPinned (s : State) (sector : Nat) : Bool := s.snd.txns.any fun t => sectorOf t.req.line == sector

/-- A line leaves a home cache: an owned one is written to the channel. -/
def dropHome (agent line : Nat) (s : State) : State :=
  let x := cline s agent line
  let s := leaveFilter agent line (setCline agent line {} s)
  if x.st = .m ∨ x.st = .o then
    let s := writeMem whoEngine (line * 64) x.bytes s
    if x.poison then poisonMem (line * 64) 64 s else s
  else s

/-- Room in the filter for a line: none where every way of its set is pinned (R312). -/
def filterRoom (s : State) (line : Nat) : Bool :=
  homeOf (line * 64) == 0 ||
    let es := look [] s.snd.filters (filterKey s.cfg line)
    (es.any fun e => e.sector == sectorOf line) || es.length < 8 || es.any fun e => !sectorPinned s e.sector

/-- A harbour cache takes a filter way for a line: its sector's, a free one, or the least recently used that is not pinned. -/
def takeFilter (line : Nat) (s : State) : State :=
  if homeOf (line * 64) = 0 then s
  else
    let k := filterKey s.cfg line
    let es := look [] s.snd.filters k
    let bit := presenceBit line
    match es.find? fun e => e.sector == sectorOf line with
    | some e => setFilter k (dropFirst e es ++ [{ e with bits := e.bits ||| bit }]) s
    | none =>
      if es.length < 8 then setFilter k (es ++ [⟨sectorOf line, bit⟩]) s
      else match es.find? fun e => !sectorPinned s e.sector with
        | some v =>
          let s := (List.range 4).foldl (fun s i => dropHome (homeCache s.cfg line) (v.sector * 4 + i) s) s
          setFilter k (dropFirst v es ++ [⟨sectorOf line, bit⟩]) s
        | none => s

/-- FILTER_SET_PINNED is recorded (R312). -/
def filterPinned (line : Nat) (s : State) : State :=
  raise 0x0804 (homeStop s.cfg line * 256 + homeCache s.cfg line) [(8, line * 64)] s

/-- A home cache makes room by replacing a line of its own, one without an open transaction (R296). -/
def replaceHome (line : Nat) (victim : Option Nat) (s : State) : State :=
  match victim with
  | some v =>
    if homeCache s.cfg v = homeCache s.cfg line ∧ v ≠ line ∧ (openTxn s v).isNone = true then dropHome (homeCache s.cfg line) v s else s
  | none => s

/-- The set of a line in a mainland slice of 3 MiB and 12 ways (R281). (DESIGN CHOICE, assumption log 65) -/
def sliceSet (line : Nat) : Nat := line / 32 % 4096

/-- The lines that take a way of a line's set in its mainland slice. -/
def sliceWays (s : State) (line : Nat) : List Nat :=
  (s.snd.lines.filter fun p => p.1 / 2 ^ 42 == homeCache s.cfg line && sliceSet (p.1 % 2 ^ 42) == sliceSet line
    && p.1 % 2 ^ 42 != line && p.2.st != .i).map fun p => p.1 % 2 ^ 42

/-- A way for a line in its mainland slice: free, or that of a line without an open transaction, which one is a free value; none where every
way's line has one (R296). An island's ways are its filter's. (DESIGN CHOICE, assumption log 65) -/
def takeSliceWay (line : Nat) (s : State) : Option State :=
  let ways := sliceWays s line
  if homeOf (line * 64) ≠ 0 ∨ ways.length < 12 then some s
  else (pickFree s (ways.filter fun v => (openTxn s v).isNone)).map fun v => dropHome (homeCache s.cfg line) v (drawn s)

/-- The home cache allocates a line in a state, or does not where its set or the filter has no room (R296, R312). -/
def allocHome (line : Nat) (st : CState) (bs : List Byte) (poison : Bool) (c : Nat) (s : State) : State × Bool :=
  if filterRoom s line then
    match takeSliceWay line s with
    | some s =>
      let s := takeFilter line s
      (setCline (homeCache s.cfg line) line { st := st, bytes := bs, poison := poison, ctx := c } s, true)
    | none => (s, false)
  else (filterPinned line s, false)

/-! ### Requests at the home agent (R300, R303, R305 to R308) -/

/-- A grant to a requester. -/
def grantMsg (t : RMsg) (num : Nat) (g : Grant) (src : Nat) : RMsg :=
  { kind := .gnt, line := t.line, agent := t.agent, txn := num, grant := g, src := src }

/-- A page that is never cached on the ring (R303). -/
def uncached (s : State) (line : Nat) : Bool :=
  let t := tag s (pageOf (line * 64))
  t.lock || t.res == .absent || t.res == .migrating || t.res == .evicting

/-- A request writes, for the page check (R286). -/
def reqWrites (m : RMsg) : Bool := m.kind == .rdx || m.kind == .upg || m.wr

/-- The page check of a request (R260, R300): refused with a reason, or not. A victim's data was accepted with its permission
(R286, R302). -/
def reqDenied (m : RMsg) (s : State) : State × Option Nat :=
  let a := m.line * 64
  if m.kind = .vic then (s, none)
  else if !backed s.cfg a then (unbacked m.agent a s, some 4)
  else match pageCheck s m.ctx (pageOf a) (reqWrites m) with
    | .denied => (refusePage m.ctx a false s, some 1)
    | .locked => (refusePage m.ctx a true s, some 2)
    | _ => (s, none)

/-- The snoop that a request sends (Table 11.4). -/
def snoopOf (m : RMsg) : RKind × SnpDst :=
  match m.kind, m.cboOp with
  | .rds, _ => (.snps, .req)
  | .rdx, _ | .upg, _ => (.snpx, .req)
  | .vic, _ => (.snpv, .req)
  | _, .clean => (.snpw, .home)
  | _, .flush => (.snpx, .home)
  | _, .inval => (.snpx, .drop)

/-- A transaction opens: its snoop goes to every present stop, SNPV to the victim's alone. -/
def openReq (m : RMsg) (s : State) : State :=
  let num := s.snd.nextTxn
  let stops := if m.kind = .vic then [stopOf m.agent] else ringStops s.cfg
  let t : HTxn := { num := num, req := m, left := if m.kind = .vic then [] else stops, waitData := m.kind == .vic, start := s.now
                    single := m.kind != .vic && m.kind != .cbo && uncached s m.line }
  let (k, dst) := snoopOf m
  let s := { s with snd := { s.snd with nextTxn := (num + 1) % 65536, txns := s.snd.txns ++ [t] } }
  stops.foldl (fun s p => sendR { kind := k, line := m.line, agent := m.agent, stop := p, txn := num, dst := dst, ctx := m.ctx
                                  cboOp := m.cboOp, wr := m.kind == .cbo } s) s

/-- A request that nothing holds back is taken (R300); a prefetch whose page no longer serves it is dropped without a trace (R275). True unless
it stays where it is (R312). -/
def takeReq (m : RMsg) (s : State) : State × Bool :=
  if m.kind = .vic ∧ filterRoom s m.line = false then
    let s := filterPinned m.line s
    if s.snd.mode then (s, false) else (sendR { m with kind := .nack } s, true)
  else if m.pre && !prefetchPage s m.ctx (m.line * 64) then (sendR (grantMsg m 0 (.deny 1) 0) s, true)
  else match reqDenied m s with
    | (s, some r) => (sendR (grantMsg m 0 (.deny r) 0) s, true)
    | (s, none) => if m.kind = .chk then (sendR (grantMsg m 0 .s 0) s, true) else (openReq m s, true)

/-- Stamps compared modulo 2^32: the first is older (R307). -/
def older (a b : Nat) : Bool := decide ((b + 2 ^ 32 - a) % 2 ^ 32 < 2 ^ 31) && a != b

/-- An open transaction meets an aged request and remembers the oldest (R307). -/
def noteAged (t : HTxn) (m : RMsg) : HTxn :=
  if !m.aged then t
  else match t.aged with
    | some (_, st) => if older m.stamp st then { t with aged := some (m.agent, m.stamp) } else t
    | none => { t with aged := some (m.agent, m.stamp) }

/-- A line is reserved for another agent's aged request. -/
def reservedFor (s : State) (line agent : Nat) : Bool :=
  s.snd.reserved.any fun r => r.line == line && r.agent != agent && decide (s.now < r.until_)

/-- The conflict queue of a line's home agent, of 1,024 entries, is full: its REQ channel waits (R308). (DEDUCED, assumption log 120) -/
def conflictFull (s : State) (line : Nat) : Bool :=
  decide (1024 ≤ (s.snd.conflict.filter fun c => homeStop s.cfg c.line == homeStop s.cfg line).length)

/-- A REQ waits in its home agent's conflict queue (R308). (DEDUCED, assumption log 120) -/
def queueReq (m : RMsg) (s : State) : State := { s with snd := { s.snd with conflict := s.snd.conflict ++ [m] } }

/-- A REQ arrives at its home agent (R300, R306, R307, R308). (DEDUCED, assumption log 120) -/
def reqArrives (m : RMsg) (s : State) : State :=
  match openTxn s m.line with
  | some t =>
    if s.snd.mode then
      queueReq m s
    else sendR { m with kind := .nack } (setTxn (noteAged t m) s)
  | none =>
    if s.snd.mode then
      if s.snd.conflict.any fun c => c.line == m.line then queueReq m s
      else match takeReq m s with
      | (s, true) => s
      | (s, false) => queueReq { m with noted := true } s
    else if reservedFor s m.line m.agent then sendR { m with kind := .nack } s
    else (takeReq m { s with snd := { s.snd with reserved := s.snd.reserved.filter fun r => !(r.line == m.line && r.agent == m.agent) } }).1

/-- Table mode: the waiting requests whose line has become free are taken in arrival order (R308); a VIC that then finds its filter set
pinned waits on, recorded once (R312). (DEDUCED, assumption log 120) -/
def drainConflict (s : State) : State :=
  s.snd.conflict.foldl (fun s m =>
    if (openTxn s m.line).isSome || ((s.snd.conflict.takeWhile (· != m)).any fun c => c.line == m.line) then s
    else if m.kind == .vic && !filterRoom s m.line then
      if m.noted then s
      else filterPinned m.line { s with snd := { s.snd with
        conflict := s.snd.conflict.map fun c => if c = m then { m with noted := true } else c } }
    else match takeReq m s with
      | (s, true) => { s with snd := { s.snd with conflict := dropFirst m s.snd.conflict } }
      | (s, false) => s) s

/-- A transaction closes (R306 to R308); an EVICT may wait for it (R276). -/
def closeTxn (t : HTxn) (s : State) : State :=
  let s := { s with snd := { s.snd with txns := s.snd.txns.filter fun u => u.num != t.num } }
  advanceRegion (if s.snd.mode then drainConflict s
    else match t.aged with
    | some (a, _) => { s with snd := { s.snd with reserved := s.snd.reserved ++ [⟨t.req.line, a, s.now + 4096⟩] } }
    | none => s)

/-- A granted transaction closes once nothing of it is awaited. -/
def settleTxn (num : Nat) (s : State) : State :=
  match s.snd.txns.find? fun t => t.num == num with
  | some t => if t.granted && !t.waitData && !t.waitCack then closeTxn t s else s
  | none => s

/-! ### Snoops (Table 11.5, R301, R302, R309) -/

/-- What a cache sends and reports on a snoop. -/
abbrev SnoopDo := State × Bool × Bool

/-- A supply of a snooped line: DATA to the requester, or WDATA to the home. -/
def supply (agent : Nat) (x : CLine) (m : RMsg) (dst : SnpDst) (s : State) : State :=
  match dst with
  | .req => sendR { kind := .data, line := m.line, agent := m.agent, stop := stopOf agent, txn := m.txn, bytes := x.bytes, poison := x.poison } s
  | .home => sendR { kind := .wdata, line := m.line, agent := agent, txn := m.txn, bytes := x.bytes, poison := x.poison
                     dirty := if x.st = .m ∨ (x.st = .wb ∧ x.wbM = true) then .m else .o } s
  | .drop => s

/-- A foreign snoop of a line (Table 11.5): the state after, and the bits OWNER and SHARED. ISo and IMo are not met here. -/
def snoopLine (agent : Nat) (x : CLine) (m : RMsg) (s : State) : SnoopDo :=
  let set (st : CState) (s : State) : State :=
    let y := { x with st := st }
    let s := if st = .i then leaveFilter agent m.line s else s
    setCline agent m.line (if st = .i ∧ x.cbo = none ∧ x.chk = false ∧ x.waiting = [] then {} else y) s
  match m.kind, x.st with
  | .snps, .s | .snps, .smu => (s, false, true)
  | .snps, .e => (set .s (supply agent x m .req s), true, true)
  | .snps, .m => (set .o (supply agent x m .req s), true, true)
  | .snps, .o | .snps, .omu => (supply agent x m .req s, true, true)
  | .snps, .wb => (setCline agent m.line { x with wbM := false } (supply agent x m .req s), true, true)
  | .snpx, .s => (set .i s, false, false)
  | .snpx, .e => (set .i (if m.dst = .home then s else supply agent x m m.dst s), true, false)
  | .snpx, .o | .snpx, .m => (set .i (supply agent x m m.dst s), true, false)
  | .snpx, .smu => (set .imu s, false, false)
  | .snpx, .omu => (set .imu (supply agent x m m.dst s), true, false)
  | .snpx, .wb => (set .wbn (supply agent x m m.dst s), true, false)
  | .snpw, .s | .snpw, .e | .snpw, .smu => (s, false, true)
  | .snpw, .o => (set .s (supply agent x m .home s), false, true)
  | .snpw, .m => (set .e (supply agent x m .home s), false, true)
  | .snpw, .omu => (set .smu (supply agent x m .home s), false, true)
  | .snpw, .wb => (set .wbn (supply agent x m .home s), false, false)
  | _, _ => (s, false, false)

/-- The answer of a stop. -/
def sendSrsp (m : RMsg) (ow sh ho : Bool) (keep : CState) (s : State) : State :=
  sendR { kind := .srsp, line := m.line, agent := m.agent, stop := m.stop, txn := m.txn, owner := ow, shared := sh, holds := ho
          keep := keep } s

/-- The agents of a stop that have the line at hand and that a snoop of it reaches: a harbour cache by its presence bit (R311). -/
def agentsAt (s : State) (stop line : Nat) : List Nat :=
  (s.snd.lines.filter fun p => p.1 % 2 ^ 42 == line && stopOf (p.1 / 2 ^ 42) == stop
    && (decide (p.1 / 2 ^ 42 < 192) || present s line)).map fun p => p.1 / 2 ^ 42

/-- The messages of a transaction that travel between its home and its requester, and from its snoops, are dropped. -/
def dropOf (num agent line : Nat) (s : State) : State :=
  { s with snd := { s.snd with flight := s.snd.flight.filter fun m =>
      !(m.line == line && m.txn == num && m.agent == agent
        && !([RKind.rds, .rdx, .upg, .cbo, .vic, .chk, .nack].contains m.kind)) } }

/-- A deferred snoop is handled once its line is stable (R309); one whose transaction was completed poisoned meanwhile changes its line and
answers nobody (R314; assumption log 66). (DEDUCED, assumption log 66) -/
def runDeferred (agent line : Nat) (s : State) : State :=
  let x := cline s agent line
  match x.defer with
  | none => s
  | some m =>
    if x.st = .iso ∨ x.st = .imo then s
    else
      let (s, ow, sh) := snoopLine agent { x with defer := none } m (setCline agent line { x with defer := none } s)
      if s.snd.txns.any fun t => t.num == m.txn && t.req.line == line then
        sendSrsp m (m.owner || ow) (m.shared || sh) m.holds .i s
      else dropOf m.txn m.agent line s

/-! ### Protocol errors (R313, R314) -/

/-- The code of a message (Table 11.3). -/
def msgCode : RKind → Nat
  | .rds => 0 | .rdx => 1 | .upg => 2 | .cbo => 3 | .vic => 4 | .chk => 5 | .snps => 6 | .snpx => 7 | .snpw => 8 | .snpv => 9
  | .srsp => 10 | .gnt => 11 | .nack => 12 | .cack => 13 | .wcan => 14 | .data => 15 | .wdata => 16 | .udata => 17

/-- The code of a line state (Table 11.8). -/
def stateCode : CState → Nat
  | .i => 0 | .s => 1 | .e => 2 | .o => 3 | .m => 4 | .isu => 5 | .iso => 6 | .imu => 7 | .smu => 8 | .omu => 9 | .imo => 10
  | .wb => 11 | .wbn => 12

/-- The line is marked poisoned in every cache that holds it (R314). (DEDUCED, assumption log 66) -/
def poisonLine (line : Nat) (s : State) : State :=
  { s with snd := { s.snd with lines := s.snd.lines.map fun p =>
      if p.1 % 2 ^ 42 = line ∧ p.2.st ≠ .i then (p.1, { p.2 with poison := true }) else p } }

/-- The accesses that wait but for the one that sent the request. -/
def withoutStarter (x : CLine) : List CAccess := x.starter.elim x.waiting fun a => dropFirst a x.waiting

/-- A request completed with poisoned data (R314): where its requester still waits for it, its line takes its grant poisoned; a line that is
used once stays I, and the load that asked for it faults (R303). (DEDUCED, assumption log 66) -/
def endPoisoned (r : RMsg) (s : State) : State :=
  let x := cline s r.agent r.line
  if x.req ≠ some (asSent r) then s
  else
    let rest : CLine := { x with req := none, starter := none, gnt := none, data := none, chk := false, cbo := none, backoff := none }
    let dirty : CLine := { rest with bytes := padTo 64 x.bytes, poison := true, ctx := r.ctx, written := 0 }
    let s :=
      if (r.kind = .rds ∨ r.kind = .rdx ∨ r.kind = .upg) ∧ uncached s r.line = true then
        let s := setCline r.agent r.line { waiting := withoutStarter x, defer := x.defer } s
        match x.starter with
        | some a => if a.write.isSome && !isAmo a then s else hartFault a 3 s
        | none => s
      else setCline r.agent r.line (match r.kind with
        | .rds => { dirty with st := .s }
        | .rdx | .upg => { dirty with st := .m }
        | .vic => { waiting := x.waiting }
        | _ => rest) s
    runDeferred r.agent r.line (performWaiting r.agent r.line s)

/-- The snoops of a transaction that have not been answered act on the other agents' copies, so that its requester is the only owner; one that
waits for its own grant meets its snoop when it is stable (R295, R314). (DEDUCED, assumption log 66) -/
def snoopRest (t : HTxn) (s : State) : State :=
  let (k, dst) := snoopOf t.req
  t.left.foldl (fun s stop =>
    (((agentsAt s stop t.req.line).filter (· != t.req.agent)).foldl (fun s a =>
      let x := cline s a t.req.line
      let m : RMsg := { kind := k, line := t.req.line, agent := t.req.agent, stop := stop, txn := t.num, dst := dst, ctx := t.req.ctx }
      if x.st = .iso ∨ x.st = .imo then setCline a t.req.line { x with defer := some m } s
      else (snoopLine a x m s).1) s)) s

/-- An open transaction completed with poisoned data: its snoops act, and what travels of it is dropped (R314). -/
def completePoisoned (t : HTxn) (s : State) : State :=
  let s := if t.req.kind = .vic then s else snoopRest t s
  endPoisoned t.req (closeTxn t (dropOf t.num t.req.agent t.req.line s))

/-- SND_ERR_LAST takes an error (R314). -/
def sndError (kind stop agent : Nat) (m : RMsg) (st : CState) (s : State) : State :=
  { s with snd := { s.snd with
    errValid := true, errKind := BitVec.ofNat 4 kind, errStop := BitVec.ofNat 3 stop, errAgent := BitVec.ofNat 8 agent
    errMsg := BitVec.ofNat 5 (msgCode m.kind), errState := BitVec.ofNat 4 (stateCode st), errTxn := BitVec.ofNat 16 m.txn
    errLine := BitVec.ofNat 42 m.line } }

/-- A line's block is poisoned in memory, where memory backs it (R312). -/
def poisonBacked (line : Nat) (s : State) : State :=
  if backed s.cfg (line * 64) then poisonMem (line * 64) 64 s else s

/-- A line's transaction, if any, completes poisoned (R312). (DEDUCED, assumption log 66) -/
def poisonTxn (line : Nat) (s : State) : State :=
  match openTxn s line with
  | some t => completePoisoned t s
  | none => s

/-- A message lost that its requester waits on, a request or an answer to it: the request completes poisoned as well, and what else answers it is
dropped (R314). (DEDUCED, assumption log 66) -/
def poisonReq (m : RMsg) (s : State) : State :=
  match (cline s m.agent m.line).req with
  | some r =>
    if !m.parity && m.agent < 128 && ([RKind.rds, .rdx, .upg, .cbo, .vic, .chk, .nack, .gnt, .data].contains m.kind) then
      endPoisoned r (dropOf m.txn m.agent m.line s)
    else s
  | none => s

/-- A hart meets the resumable non-maskable interrupt of a coherence error (R290, Smrnmi): it takes it, with the pc `pc` and the mode that
the free bits `v` give, or it has not returned from the one before, and this one waits. Whether it has is a free bit, since no row of the
table is a hart's return. (DESIGN CHOICE, assumption log 155) -/
def takeNmi (pc v : Nat) (x : Hart) : Hart :=
  if x.nmie || v % 2 == 1 then
    { x with mncause := 0x8000000000000100, mnepc := BitVec.ofNat 64 pc, mnpp := if v / 2 % 3 = 2 then 3 else BitVec.ofNat 2 (v / 2 % 3)
             mnpv := v / 2 % 3 != 2 && v / 6 % 2 == 1, nmie := false, nmiWait := false }
  else { x with nmiWait := true }

/-- Every hart meets the non-maskable interrupt (R290). -/
def nmiAll (s : State) : State :=
  let harts := (List.range 128).foldl (fun hs h =>
    put {} h (takeNmi (Config.freeValue (s.freeCtr + 2 * h)) (Config.freeValue (s.freeCtr + 2 * h + 1)) (look {} hs h)) hs) s.harts
  emit .nmi { s with harts := harts, freeCtr := s.freeCtr + 256 }

/-- A protocol error (R313, R314). (DEDUCED, assumption log 66) -/
def protocolError (event kind stop agent : Nat) (m : RMsg) (st : CState) (s : State) : State :=
  let s := sndError kind stop agent m st (raise event (stop * 256 + agent) [(8, m.line * 64)] s)
  nmiAll (poisonReq m (poisonTxn m.line (poisonBacked m.line (poisonLine m.line s))))

/-- A message not allowed in its line's state. -/
def stateError (agent : Nat) (m : RMsg) (st : CState) (s : State) : State := protocolError 0x0801 1 (stopOf agent) agent m st s

/-- A message that the home agent cannot match. -/
def unmatched (m : RMsg) (s : State) : State := protocolError 0x0801 5 (homeStop s.cfg m.line) 0xFF m .i s

/-- A message arrives in its turn (R294, R308): its header's parity is judged first (R313). The stop of a snoop is the one that detects
(R314). (DEDUCED, assumption log 66) -/
def arrive (m : RMsg) (atHome : Bool) (act : State → State) (s : State) : State :=
  if !firstOnWay s m || (classOf m.kind == 0 && s.snd.mode && conflictFull s m.line) then s
  else
    let s := takeR m s
    if m.parity then act s
    else if atHome then protocolError 0x0803 4 (homeStop s.cfg m.line) 0xFF m .i s
    else
      let stop := (endsOf s.cfg m).2
      protocolError 0x0803 4 stop m.agent m (if stopOf m.agent = stop then (cline s m.agent m.line).st else .i) s

/-! ### Grants (Table 11.4) -/

/-- The grant leaves, with the home's data where it supplies it. -/
def sendGrant (t : HTxn) (g : Grant) (src : Nat) (data : Option (List Byte × Bool)) (s : State) : State :=
  let udata := g == .u && t.req.kind != .rds
  let s := setTxn { t with granted := true, waitData := udata, waitCack := !s.snd.mode } s
  let s := match data with
    | some (bs, p) =>
      sendR { kind := .data, line := t.req.line, agent := t.req.agent, stop := homeStop s.cfg t.req.line, txn := t.num, bytes := bs, poison := p } s
    | none => s
  settleTxn t.num (sendR (grantMsg t.req t.num g src) s)

/-- The home supplies a line: from its home cache, whose line takes the context (R285), or from the channel, once it takes
requests (R240); a fill granted S is allocated (R295, R296). -/
def homeSupply (t : HTxn) (g : Grant) (victim : Option Nat) (s : State) : State :=
  let line := t.req.line
  let x := cline s (homeCache s.cfg line) line
  if x.st = .s ∨ x.st = .e ∨ x.st = .o ∨ x.st = .m then
    sendGrant t g 1 (some (x.bytes, x.poison)) (setCline (homeCache s.cfg line) line { x with ctx := t.req.ctx } s)
  else if memWaits s (line * 64) 64 then setTxn { t with busy := true, victim := victim } s
  else
    let (s, bs, p) := readMem t.req.agent (line * 64) 64 s
    let s := if g = .s then (allocHome line .s bs p t.req.ctx (replaceHome line victim s)).1 else s
    sendGrant t g 1 (some (bs, p)) s

/-- The grant of a line of a page that is never cached (R300, R303): the data come from an owner, or from the home, as the page's residency has
them; an UPG of a line still held needs none. -/
def grantUncached (t : HTxn) (s : State) : State :=
  let a := t.req.line * 64
  let p := pageOf a
  if t.owner then sendGrant t .u 2 none s
  else if t.req.kind = .upg ∧ t.holds = true then sendGrant t .u 0 none s
  else match (tag s p).res with
    | .absent =>
      if !counterMode s then joinEntry t.req.ctx p s
      else if allLost s then sendGrant t .u 1 (some (zeros 64, true)) (remoteTouch p (hostLost (pieceOff s a) s))
      else remoteTouch p (hostRead (pieceOff s a) 64 (.ring t.req.agent t.req.line) (setTxn { t with waitData := true } s))
    | .migrating | .evicting => s
    | _ =>
      if memWaits s a 64 then s
      else
        let (s, bs, bad) := readMem t.req.agent a 64 s
        sendGrant t .u 1 (some (bs, bad)) s

/-- Write-back data of a transaction is on its way. -/
def dataComing (s : State) (num : Nat) : Bool := s.snd.flight.any fun m => m.kind == .wdata && m.txn == num

/-- A transaction whose snoop responses are all in is granted (Table 11.4, R300, R303, R304). -/
def tryGrant (num : Nat) (victim : Option Nat) (s : State) : State :=
  match s.snd.txns.find? fun t => t.num == num with
  | none => s
  | some t =>
    if !t.left.isEmpty || t.granted || t.waitData || t.req.kind == .vic then s
    else if t.single then grantUncached t s
    else match t.req.kind with
      | .cbo => if dataComing s num then s else sendGrant t .s (if t.owner then 2 else 0) none s
      | .rds =>
        let g : Grant := if !t.owner && !t.shared && !t.holds then .e
          else if t.holds then (if t.keep = .m then .m else if t.keep = .o then .o else if t.keep = .e then .e else .s) else .s
        if t.owner then sendGrant t g 2 none s else homeSupply t g victim s
      | .rdx => if t.owner then sendGrant t .m 2 none s else homeSupply t .m victim s
      | _ =>
        if t.owner then sendGrant t .m 2 none s
        else if t.holds then sendGrant t .m 0 none s
        else homeSupply t .m victim s

/-- The single store of a transaction is held at the home's entry (R260, R303). -/
def storeHeld (s : State) (line : Nat) : Bool := s.mem.held.any fun h => h.ring && h.addr == line * 64

/-- A request that waits for a page's residency is decided again from R260's first step: one that is refused by then is granted once, with the
reason of its refusal, and its access faults. (DEDUCED, assumption log 138) -/
def regrant (t : HTxn) (s : State) : State :=
  match reqDenied t.req s with
  | (s, some r) =>
    settleTxn t.num (sendR { grantMsg t.req t.num .u 0 with denied := some r }
      (setTxn { t with granted := true, waitData := false, waitCack := !s.snd.mode } s))
  | (s, none) => tryGrant t.num none s

/-- Requests that wait for a page's residency, or for a channel, are looked at again (R240, R260, R303): those not yet granted, and those
whose store was held. -/
def retryRing (s : State) : State :=
  s.snd.txns.foldl (fun s t =>
    if t.stored && !storeHeld s t.req.line then settleTxn t.num (setTxn { t with stored := false, waitData := false } s)
    else if t.busy then tryGrant t.num t.victim (setTxn { t with busy := false } s)
    else if t.single && t.left.isEmpty && !t.granted && !t.waitData then regrant t s
    else s) s

/-! ### Snoops at a stop (R300, R301, R309, R311) -/

/-- A request's own snoop (Table 11.5): the new state, and HOLDS; none where it is an error. -/
def ownSnoop (st : CState) : Option (CState × Bool) :=
  match st with
  | .isu => some (.iso, false)
  | .imu => some (.imo, false)
  | .smu | .omu => some (.imo, true)
  | _ => none

/-- What a snoop touches beside the lines: the home's filter entry is the most recently used (R311), and SNPX ends reservations. -/
def snoopTouch (m : RMsg) (s : State) : State :=
  let touched := look [] s.snd.filters (filterKey s.cfg m.line)
  let s := match (if homeStop s.cfg m.line = m.stop then touched.find? fun e => e.sector == sectorOf m.line else none) with
    | some e => setFilter (filterKey s.cfg m.line) (dropFirst e touched ++ [e]) s
    | none => s
  if m.kind = .snpx then loseReserved m.stop m.agent m.line s else s

/-- A snoop arrives at a stop (R300, R301, R304, R309, R311): each of its caches acts, and the stop answers. -/
def snoopArrives (m : RMsg) (s : State) : State :=
  let own := stopOf m.agent = m.stop ∧ m.wr = false
  let others := (agentsAt s m.stop m.line).filter fun a => !(decide own && a == m.agent)
  let s := snoopTouch m s
  let x := cline s m.agent m.line
  match (if own then (ownSnoop x.st).map some else some none) with
  | none => stateError m.agent m x.st s
  | some mine =>
    let (s, ho) := match mine with
      | some (st, h) => (setCline m.agent m.line { x with st := st, holds := h } s, h)
      | none => (s, false)
    let busy := others.find? fun a => let st := (cline s a m.line).st; st == .iso || st == .imo
    match busy with
    | some a =>
      if !s.snd.mode then stateError a m (cline s a m.line).st s
      else
        let (s, ow, sh) := (others.filter (· != a)).foldl (fun (acc : SnoopDo) b =>
          let (s, o, h) := snoopLine b (cline acc.1 b m.line) m acc.1
          (s, acc.2.1 || o, acc.2.2 || h)) (s, false, false)
        setCline a m.line { cline s a m.line with defer := some { m with owner := ow, shared := sh, holds := ho } } s
    | none =>
      let (s, ow, sh) := others.foldl (fun (acc : SnoopDo) b =>
        let (s, o, h) := snoopLine b (cline acc.1 b m.line) m acc.1
        (s, acc.2.1 || o, acc.2.2 || h)) (s, false, false)
      sendSrsp m ow sh ho x.st s

/-! ### Grants and data at the requester (R303, R309, R310) -/

/-- A single use of a line (R303): the access that started the request takes its data, or sends its bytes; where the request was refused
on its second decision it faults (R260, R288). A prefetch has no use for it (R275). -/
def useOnce (agent line : Nat) (x : CLine) (g : RMsg) (data : List Byte × Bool) (s : State) : State :=
  match x.starter, g.denied with
  | none, _ => s
  | some a, some r => hartFault a r s
  | some a, none => match a.write with
    | none =>
      if data.2 then hartFault a 3 s else loadDone a (slice data.1 (a.addr % 64) a.size) s
    | some bs =>
      let send (bs : List Byte) (s : State) : State :=
        sendR { kind := .udata, line := line, agent := agent, txn := g.txn, ctx := a.ctx, bytes := padTo 64 (zeros (a.addr % 64) ++ bs)
                mask := (2 ^ bs.length - 1) * 2 ^ (a.addr % 64) } s
      if data.2 && isAmo a then send [] (hartFault a 3 s)
      else match storeBytes a (slice data.1 (a.addr % 64) bs.length) bs s with
        | (s, some bs) => send bs s
        | (s, none) => send [] s

/-- A line is installed once its grant, and its data where it needs them, are there (R310). -/
def install (agent line : Nat) (s : State) : State :=
  let x := cline s agent line
  match x.gnt with
  | none => s
  | some g =>
    if g.src ≠ 0 ∧ x.data = none then s
    else
      let data := match x.data with
        | some d => d
        | none => (padTo 64 x.bytes, x.poison)
      let base : CLine := { x with req := none, starter := none, gnt := none, data := none, tries := 0, backoff := none, written := 0, holds := false }
      let s := match g.grant with
        | .u => setCline agent line { waiting := withoutStarter x, defer := x.defer } (useOnce agent line x g data s)
        | gr =>
          let st : CState := match gr with
            | .s => .s
            | .e => .e
            | .o => .o
            | _ => .m
          setCline agent line { base with st := st, bytes := data.1, poison := data.2, ctx := (x.req.map (·.ctx)).getD x.ctx } s
      let s := if s.snd.mode then s else sendR { kind := .cack, line := line, agent := agent, txn := g.txn } s
      advanceRegion (runDeferred agent line (restart agent (performWaiting agent line s)))

/-- A refused request (Table 11.5): the access that started it faults, a prefetch does not (R275), and the line is as it was. -/
def denyReq (agent line reason : Nat) (back : CState) (s : State) : State :=
  let x := cline s agent line
  let s := setCline agent line { x with
    st := back, waiting := withoutStarter x, starter := none, req := none, chk := false, tries := 0, backoff := none } s
  let s := x.starter.elim s fun a => hartFault a reason s
  restart agent (performWaiting agent line s)

/-- A GNT arrives (Table 11.5, R285, R304). -/
def gntArrives (m : RMsg) (s : State) : State :=
  let x := cline s m.agent m.line
  if x.cbo.isSome then
    let s := setCline m.agent m.line { x with cbo := none, req := none, tries := 0 } s
    match m.grant with
    | .deny r =>
      let acc : CAccess := { hart := m.agent, ctx := (x.req.map (·.ctx)).getD 0, addr := m.line * 64, write := none, size := 0
                             cbo := x.cbo, va := x.cboVa }
      restart m.agent (performWaiting m.agent m.line (hartFault acc r s))
    | _ =>
      let s := if s.snd.mode then s else sendR { kind := .cack, line := m.line, agent := m.agent, txn := m.txn } s
      advanceRegion (restart m.agent (performWaiting m.agent m.line s))
  else if x.chk then
    match m.grant with
    | .deny r => denyReq m.agent m.line r x.st s
    | _ => restart m.agent (performWaiting m.agent m.line
        (setCline m.agent m.line { x with chk := false, ctx := (x.req.map (·.ctx)).getD x.ctx, req := none, starter := none, tries := 0 } s))
  else match x.st, m.grant with
    | .isu, .deny r | .imu, .deny r => denyReq m.agent m.line r .i s
    | .smu, .deny r => denyReq m.agent m.line r .s s
    | .omu, .deny r => denyReq m.agent m.line r .o s
    | .iso, .deny _ | .imo, .deny _ => stateError m.agent m x.st s
    | .iso, _ | .imo, _ => install m.agent m.line (setCline m.agent m.line { x with gnt := some m } s)
    | _, _ => stateError m.agent m x.st s

/-- DATA arrives at the requester (Table 11.5). -/
def dataArrives (m : RMsg) (s : State) : State :=
  let x := cline s m.agent m.line
  let kept := setCline m.agent m.line { x with data := some (m.bytes, m.poison || !m.dataOk) } s
  match x.st with
  | .isu | .imu | .smu | .omu => kept
  | .iso | .imo => install m.agent m.line kept
  | _ => stateError m.agent m x.st s

/-- A NACK arrives (R307, Table 11.5): the request is sent again after its backoff; a victim that no longer owns is done. -/
def nackArrives (m : RMsg) (s : State) : State :=
  let x := cline s m.agent m.line
  let n := x.tries + 1
  let again := setCline m.agent m.line
    { x with tries := n, backoff := some (s.now + 32 * 2 ^ min (n - 1) 3 + 4 * (m.agent % 8)) } s
  if x.chk || x.cbo.isSome then again
  else match x.st with
    | .isu | .imu | .smu | .omu | .wb => again
    | .wbn => restart m.agent (performWaiting m.agent m.line (setCline m.agent m.line { waiting := x.waiting } s))
    | st => stateError m.agent m st s

/-! ### Messages back at the home agent -/

/-- An SRSP arrives (R300): two owners are a protocol error; the last one brings the grant. -/
def srspArrives (m : RMsg) (victim : Option Nat) (s : State) : State :=
  match s.snd.txns.find? fun t => t.num == m.txn && t.req.line == m.line with
  | none => unmatched m s
  | some t =>
    if !t.left.contains m.stop then unmatched m s
    else if t.owner && m.owner then protocolError 0x0801 2 (homeStop s.cfg m.line) 0xFF m .i s
    else
      let t := { t with left := t.left.filter (· != m.stop), owner := t.owner || m.owner, shared := t.shared || m.shared
                        holds := t.holds || m.holds, keep := if m.holds then m.keep else t.keep }
      tryGrant t.num victim (setTxn t s)

/-- WDATA arrives (R296, R302, R304): a victim's line goes to the home cache in its state, or to the channel; a cbo's to the channel, where
it waits as every request does (R240). -/
def wdataArrives (m : RMsg) (victim : Option Nat) (s : State) : State :=
  match s.snd.txns.find? fun t => t.num == m.txn && t.req.line == m.line with
  | none => unmatched m s
  | some t =>
    let toChannel (s : State) : State :=
      arriveLine { ctx := t.req.ctx, who := m.agent, addr := m.line * 64, write := some (padTo 64 m.bytes, 2 ^ 64 - 1)
                   bad := !m.dataOk, poison := m.poison } s
    if t.req.kind = .vic then
      let s := match allocHome m.line m.dirty m.bytes (m.poison || !m.dataOk) t.req.ctx (replaceHome m.line victim s) with
        | (s, true) => s
        | (s, false) => toChannel s
      closeTxn t s
    else tryGrant t.num victim (toChannel s)

/-- UDATA arrives (R303): the bytes go to the home uncached, under R271 and R273; while they are held the transaction stays open. -/
def udataArrives (m : RMsg) (s : State) : State :=
  match s.snd.txns.find? fun t => t.num == m.txn && t.req.line == m.line && t.waitData with
  | none => unmatched m s
  | some t =>
    let s := decideLine { ctx := m.ctx, who := m.agent, addr := m.line * 64, write := some (padTo 64 m.bytes, m.mask)
                          bad := !m.dataOk, poison := m.poison, ring := true } s
    if storeHeld s m.line then setTxn { t with stored := true } s else settleTxn t.num (setTxn { t with waitData := false } s)

/-- WCAN arrives (R302). -/
def wcanArrives (m : RMsg) (s : State) : State :=
  match s.snd.txns.find? fun t => t.num == m.txn && t.req.line == m.line && t.req.kind == .vic with
  | none => unmatched m s
  | some t => closeTxn t s

/-- CACK arrives (R306). -/
def cackArrives (m : RMsg) (s : State) : State :=
  match s.snd.txns.find? fun t => t.num == m.txn && t.req.line == m.line && t.waitCack with
  | none => unmatched m s
  | some t => settleTxn t.num (setTxn { t with waitCack := false } s)

/-- SNPV arrives (R302): the victim hands over its line, or cancels. -/
def snpvArrives (m : RMsg) (s : State) : State :=
  let x := cline s m.agent m.line
  match x.st with
  | .wb =>
    restart m.agent (performWaiting m.agent m.line (setCline m.agent m.line { waiting := x.waiting } (supply m.agent x m .home s)))
  | .wbn =>
    restart m.agent (performWaiting m.agent m.line (setCline m.agent m.line { waiting := x.waiting }
      (sendR { kind := .wcan, line := m.line, agent := m.agent, txn := m.txn } s)))
  | st => stateError m.agent m st s

/-! ### The commands -/

/-- RDS at the home agent (R300). -/
def execRds (x : RMsg) (s : State) : Host.Outcome State Fault Refusal := .next (arrive { x with kind := .rds } true (reqArrives { x with kind := .rds }) s)
/-- RDX at the home agent (R300). -/
def execRdx (x : RMsg) (s : State) : Host.Outcome State Fault Refusal := .next (arrive { x with kind := .rdx } true (reqArrives { x with kind := .rdx }) s)
/-- UPG at the home agent (R300). -/
def execUpg (x : RMsg) (s : State) : Host.Outcome State Fault Refusal := .next (arrive { x with kind := .upg } true (reqArrives { x with kind := .upg }) s)
/-- CBO at the home agent (R300, R304). -/
def execCbo (x : RMsg) (s : State) : Host.Outcome State Fault Refusal := .next (arrive { x with kind := .cbo } true (reqArrives { x with kind := .cbo }) s)
/-- VIC at the home agent (R302, R312). -/
def execVic (x : RMsg) (s : State) : Host.Outcome State Fault Refusal := .next (arrive { x with kind := .vic } true (reqArrives { x with kind := .vic }) s)
/-- CHK at the home agent (R285, R300). -/
def execChk (x : RMsg) (s : State) : Host.Outcome State Fault Refusal := .next (arrive { x with kind := .chk } true (reqArrives { x with kind := .chk }) s)
/-- SNPS at a stop (R301, R310). -/
def execSnps (x : RMsg) (s : State) : Host.Outcome State Fault Refusal := .next (arrive { x with kind := .snps } false (snoopArrives { x with kind := .snps }) s)
/-- SNPX at a stop (R301, R310). -/
def execSnpx (x : RMsg) (s : State) : Host.Outcome State Fault Refusal := .next (arrive { x with kind := .snpx } false (snoopArrives { x with kind := .snpx }) s)
/-- SNPW at a stop (R304, R310). -/
def execSnpw (x : RMsg) (s : State) : Host.Outcome State Fault Refusal := .next (arrive { x with kind := .snpw } false (snoopArrives { x with kind := .snpw }) s)
/-- SNPV at the victim's stop (R302). -/
def execSnpv (x : RMsg) (s : State) : Host.Outcome State Fault Refusal := .next (arrive { x with kind := .snpv } false (snpvArrives { x with kind := .snpv }) s)
/-- SRSP at the home agent (R300); `victim` is the line that the home cache replaces for a fill, if any (R296). -/
def execSrsp (x : RMsg) (victim : Option Nat) (s : State) : Host.Outcome State Fault Refusal :=
  .next (arrive { x with kind := .srsp } true (srspArrives { x with kind := .srsp } victim) s)
/-- GNT at the requester (R310). -/
def execGnt (x : RMsg) (s : State) : Host.Outcome State Fault Refusal := .next (arrive { x with kind := .gnt } false (gntArrives { x with kind := .gnt }) s)
/-- NACK at the requester (R306, R307). -/
def execNack (x : RMsg) (s : State) : Host.Outcome State Fault Refusal := .next (arrive { x with kind := .nack } false (nackArrives { x with kind := .nack }) s)
/-- CACK at the home agent (R306). -/
def execCack (x : RMsg) (s : State) : Host.Outcome State Fault Refusal := .next (arrive { x with kind := .cack } true (cackArrives { x with kind := .cack }) s)
/-- WCAN at the home agent (R302). -/
def execWcan (x : RMsg) (s : State) : Host.Outcome State Fault Refusal := .next (arrive { x with kind := .wcan } true (wcanArrives { x with kind := .wcan }) s)
/-- DATA at the requester (R301, R310). -/
def execData (x : RMsg) (s : State) : Host.Outcome State Fault Refusal := .next (arrive { x with kind := .data } false (dataArrives { x with kind := .data }) s)
/-- WDATA at the home agent (R296, R302); `victim` is the line that the home cache replaces, if any. -/
def execWdata (x : RMsg) (victim : Option Nat) (s : State) : Host.Outcome State Fault Refusal :=
  .next (arrive { x with kind := .wdata } true (wdataArrives { x with kind := .wdata } victim) s)
/-- UDATA at the home agent (R303). -/
def execUdata (x : RMsg) (s : State) : Host.Outcome State Fault Refusal := .next (arrive { x with kind := .udata } true (udataArrives { x with kind := .udata }) s)

/-- REQUEST_RESEND (R307): after its backoff a request goes again, aged from the eighth retry on, an UPG that lost its copy as RDX. -/
def execRequestResend (agent line : Nat) (s : State) : Host.Outcome State Fault Refusal :=
  let x := cline s agent line
  match x.backoff, x.req with
  | some t, some m =>
    let s := passNow t s
    let m := { m with kind := if m.kind = .upg ∧ x.st = .imu then .rdx else m.kind, aged := m.aged || decide (8 ≤ x.tries) }
    .next (sendR m (setCline agent line { x with backoff := none, req := some m } s))
  | _, _ => .next s

/-- RESERVATION_EXPIRY (R307). -/
def execReservationExpiry (line : Nat) (s : State) : Host.Outcome State Fault Refusal :=
  match s.snd.reserved.find? fun r => r.line == line with
  | some r =>
    let s := passNow r.until_ s
    .next { s with snd := { s.snd with reserved := dropFirst r s.snd.reserved } }
  | none => .next s

/-- TRANSACTION_TIMEOUT (R313): a transaction outlives SND_CTRL.TIMEOUT; 0 is taken as 1. -/
def execTransactionTimeout (num : Nat) (s : State) : Host.Outcome State Fault Refusal :=
  match s.snd.txns.find? fun t => t.num == num with
  | some t =>
    let s := passNow (t.start + 4096 * max 1 s.snd.timeout.toNat) s
    .next (protocolError 0x0802 3 (homeStop s.cfg t.req.line) 0xFF { t.req with txn := num } .i s)
  | none => .next s

end Sys2Proof.Machine
end

