-- ==== Sys2Proof/Machine/Regions.lean ====
section
/-! DEFINITION. The region commands (R256, R257, R261 to R263, Table 9.5), page migration and the decay of counts (R270, R274). -/

namespace Sys2Proof.Machine

/-! ### The two paths of a region command (R261) -/

/-- What a region command does: its arguments ARG0 and ARG1, and for ADD_REGION its descriptor's bytes; it completes, or starts a
job. -/
abbrev RegionAct := Via → Nat → Nat → State → State

/-- A region command taken (R261): through its mailbox, or from RGN_ARG and RGN_CMD. -/
def regionCommand (op : Nat) (via : Via) (act : RegionAct) (s : State) : State :=
  match via with
  | .mailbox m => mbCommand (op + 0x3F) m (fun x s =>
      if s.rgn.job.isSome then finish m stBusy s else act via (mbArg x 0) (mbArg x 1) s) s
  | .register =>
    if s.rgn.job.isSome then { s with rgn := { s.rgn with refused := true } }
    else if !ownerOk s.rgn.arg0.toNat && decide (3 ≤ op) && decide (op ≤ 7) then finishRgn via stBadArg 0 s
    else act via s.rgn.arg0.toNat s.rgn.arg1.toNat s

/-! ### Holders, descriptors and busy regions -/

/-- The contexts that hold the regions of an owner: itself, or every context with the group. -/
def holders (s : State) (owner : Nat) : List Nat :=
  if owner < 65536 then [owner]
  else (s.rgn.ctxs.map (·.1)).filter fun c => (groupsOf s c).contains (owner - 65536)

/-- A region descriptor's 32 bytes (Table 9.2). -/
def parseRegionD (bs : List Byte) : RegionD :=
  ⟨fld bs 0 8, fld bs 8 8, fld bs 16 1, fld bs 17 1, fld bs 18 1, fld bs 20 2, fld bs 24 8⟩

/-- The host regions: those registered, and the boot area of every port whose queue 0 is configured (R358, R369).
(DEDUCED, assumption log 94) -/
def hostRegions (s : State) : List (Nat × Nat) :=
  s.zng.hosts.filterMap (·.2)
    ++ ((List.range 8).filter fun p => (winQ s p 0).configured).map fun p => (p * 2 ^ 21, 2 ^ 21)

/-- The span lies within a host region (R257, R369). (DEDUCED, assumption log 94) -/
def inHostRegion (s : State) (a n : Nat) : Bool := (hostRegions s).any fun h => within a n (hostBase + h.1) h.2

/-- The descriptor keeps its layout and its place (R256, R257). -/
def descriptorOk (s : State) (owner : Nat) (bs : List Byte) : Bool :=
  let r := parseRegionD bs
  let group := decide (65536 ≤ owner)
  r.base % 2 ^ 21 == 0 && decide (r.base < 2 ^ 48) && r.bytes % 2 ^ 21 == 0 && r.bytes != 0 && decide (r.kind ≤ 2)
    && decide (r.access < 4) && decide (r.flags < 8) && zeroAt bs 19 1 && zeroAt bs 22 2
    && (r.flags.testBit 1 == group) && r.group == (if group then owner - 65536 else 0)
    && (if r.kind = 2 then r.backing % 2 ^ 21 == 0 else r.backing == 0)
    && (!r.flags.testBit 2 || (r.flags.testBit 0 && r.kind != 2)) && !(r.kind == 1 && r.flags.testBit 0)
    && (if r.kind = 1 then inHostRegion s r.base r.bytes
        else homeOf r.base == homeOf (r.base + r.bytes - 1) && backed s.cfg (r.base + r.bytes - 1)
          && !overlaps r.base r.bytes reservedStart (reservedEnd - reservedStart))
    && (r.kind != 2 || (regionList s owner).any fun h => h.kind == 1 && within r.backing r.bytes h.base h.bytes)

/-- The region overlaps one that a context holding it would hold already (R257). -/
def regionClash (s : State) (owner : Nat) (r : RegionD) : Bool :=
  let hits (x : RegionD) : Bool := overlaps r.base r.bytes x.base x.bytes
  (regionList s owner).any hits || (holders s owner).any fun c => (heldRegions s c).any hits

/-- A page may be claimed by an owner (R262). -/
def claimable (s : State) (owner p : Nat) : Bool :=
  let t := tag s p
  t.res == .free || (decide (65536 ≤ owner) && t.shared && t.owner.toNat == owner - 65536 && t.res != .reserved)

/-- A region list with a descriptor in its place by BASE (R256). -/
def insertRegion (r : RegionD) : List RegionD → List RegionD
  | [] => [r]
  | x :: xs => if r.base < x.base then r :: x :: xs else x :: insertRegion r xs

/-- The pages of a region are claimed (R262). -/
def claimPages (owner : Nat) (r : RegionD) (s : State) : State :=
  if r.kind = 1 then s
  else setTags (fun _ => { count := 0, lock := false, pinned := r.kind == 0 && r.flags.testBit 0, shared := decide (65536 ≤ owner)
                           res := if r.kind = 2 then .absent else .resident, owner := BitVec.ofNat 16 owner }) (pagesOf r.base r.bytes) s

/-- The pages of a region are released (R262). -/
def releasePages (r : RegionD) (s : State) : State :=
  if r.kind = 1 then s else setTags (fun _ => {}) (pagesOf r.base r.bytes) s

/-- A queue of a context is ENABLE. (DEDUCED, assumption log 62) -/
def queueOn (s : State) (c : Nat) : Bool :=
  (s.fry.queues.any fun q => q.2.enable && q.2.context.toNat == c) || s.lnc.queues.any fun q => q.2.enable && q.2.context.toNat == c

/-- An image slot uses a region (R263). (DEDUCED, assumption log 62) -/
def slotUses (sl : ImgSlot) (r : RegionD) : Bool :=
  (sl.state == .admitted || sl.state == .loading) && ((sl.binding.any fun b => b.1 == r.base) || sl.holder.1 == r.base)

/-- A region is busy (R263). -/
def regionBusy (s : State) (owner : Nat) (r : RegionD) : Bool :=
  slotUses s.ttu.slotA r || slotUses s.ttu.slotB r
    || (s.xng.ringEn && within (s.xng.ringBase.toNat * 4096) (ringBytes s) r.base r.bytes)
    || ((holders s owner).any fun c =>
        let st := (ctx s c).state
        st == .running || st == .parked || st == .swapped || queueOn s c)
    || (r.kind != 1 && (pagesOf r.base r.bytes).any fun p => (tag s p).res == .migrating || (tag s p).res == .evicting)

/-! ### The commands (Table 9.5) -/

/-- ALLOC_CTX. (DESIGN CHOICE, assumption log 61) -/
def allocCtx : RegionAct := fun via a _ s =>
  let give (c : Nat) : State := finishRgn via stOk c (setCtx c { state := .ready } s)
  if a = 0xFFFFFFFF then
    match pickFree s ((List.range 65536).filter fun c => (ctx s c).state == .free) with
    | some c => finishRgn via stOk c (setCtx c { state := .ready } (drawn s))
    | none => finishRgn via stNoResource 0 s
  else if a = 0 then finishRgn via stDenied 0 s
  else if 65536 ≤ a then finishRgn via stBadArg 0 s
  else if (ctx s a).state ≠ .free then finishRgn via stState 0 s
  else give a

/-- An image slot that a context loaded is not EMPTY or REJECTED. (DEDUCED, assumption log 62) -/
def slotHolds (sl : ImgSlot) (c : Nat) : Bool := (sl.state == .loading || sl.state == .admitted) && sl.context == c

/-- A region of an owner removed (R262), recorded with a subject and op 4. -/
def dropRegion (owner : Nat) (r : RegionD) (s : State) : State :=
  regionChanged owner 4 r.base (releasePages r (setList owner ((regionList s owner).filter fun x => x.base != r.base) s))

/-- FREE_CTX. (DEDUCED, assumption log 62) -/
def freeCtx : RegionAct := fun via a _ s =>
  if a = 0 then finishRgn via stDenied 0 s
  else if (ctx s a).state ≠ .ready ∨ queueOn s a = true ∨ slotHolds s.ttu.slotA a = true ∨ slotHolds s.ttu.slotB a = true then
    finishRgn via stState 0 s
  else
    let s := (regionList s a).foldl (fun s r => dropRegion a r s) s
    finishRgn via stOk 0 (setCtx a (ctxDefault a) s)

/-- A descriptor's region added (R257, R262); a BACKED one with PINNED set is then pinned. -/
def addRegionD (via : Via) (owner : Nat) (bs : List Byte) (bad : Bool) (s : State) : State :=
  let r := parseRegionD bs
  let pages := if r.kind = 1 then [] else pagesOf r.base r.bytes
  if owner < 65536 ∧ (ctx s owner).state = .free then finishRgn via stState 0 s
  else if bad || !descriptorOk s owner bs || regionClash s owner r then finishRgn via stBadArg 0 s
  else if !(pages.all (claimable s owner)) then finishRgn via stDenied 0 s
  else if 256 ≤ (regionList s owner).length then finishRgn via stNoResource 0 s
  else
    let pin := r.kind == 2 && r.flags.testBit 0
    let r := if pin then { r with flags := r.flags - 1 } else r
    let s := claimPages owner r (setList owner (insertRegion r (regionList s owner)) s)
    let s := regionChanged owner 3 r.base s
    if pin then advanceRegion { s with rgn := { s.rgn with job := some ⟨via, 5, owner, r.base, s.now⟩ } }
    else finishRgn via stOk 0 s

/-- ADD_REGION: a mailbox carries the descriptor in ARG1 to ARG4, RGN_ARG its address. -/
def addRegion : RegionAct := fun via owner a1 s =>
  match via with
  | .mailbox m => addRegionD via owner (getBytes (mbOf s m).bytes 16 32) false s
  | .register =>
    let (s, bs, p) := readMem whoEngine a1 32 s
    addRegionD via owner bs p s

/-- REMOVE_REGION. -/
def removeRegion : RegionAct := fun via owner base s =>
  match regionAt s owner base with
  | none => finishRgn via stBadArg 0 s
  | some r => if regionBusy s owner r then finishRgn via stState 0 s else finishRgn via stOk 0 (dropRegion owner r s)

/-- PIN. -/
def pinRegion : RegionAct := fun via owner base s =>
  match regionAt s owner base with
  | none => finishRgn via stBadArg 0 s
  | some r =>
    if r.kind = 1 then finishRgn via stBadArg 0 s
    else advanceRegion { s with rgn := { s.rgn with job := some ⟨via, 5, owner, base, s.now⟩ } }

/-- UNPIN. -/
def unpinRegion : RegionAct := fun via owner base s =>
  match regionAt s owner base with
  | none => finishRgn via stBadArg 0 s
  | some r =>
    if regionBusy s owner r || r.flags.testBit 2 then finishRgn via stState 0 s
    else finishRgn via stOk 0 (regionChanged owner 6 base (setPinned owner r false s))

/-- EVICT. -/
def evictPage : RegionAct := fun via owner a s =>
  match (regionList s owner).find? fun r => r.kind == 2 && !r.flags.testBit 0 && within a 1 r.base r.bytes with
  | none => finishRgn via stBadArg 0 s
  | some _ =>
    if (tag s (pageOf a)).lock then finishRgn via stState 0 s
    else advanceRegion { s with rgn := { s.rgn with job := some ⟨via, 7, owner, a, s.now⟩ } }

/-- JOIN_GROUP. -/
def joinGroup : RegionAct := fun via c g s =>
  if 65536 ≤ c ∨ 1024 ≤ g then finishRgn via stBadArg 0 s
  else if (ctx s c).state = .free then finishRgn via stState 0 s
  else if (groupsOf s c).contains g then finishRgn via stOk 0 s
  else match findIdx? (· == 0xFFFF) (ctx s c).groups 0 with
    | none => finishRgn via stNoResource 0 s
    | some i =>
      if (regionList s (65536 + g)).any fun r => (heldRegions s c).any fun x => overlaps r.base r.bytes x.base x.bytes then
        finishRgn via stBadArg 0 s
      else finishRgn via stOk 0 (setCtx c { ctx s c with groups := (ctx s c).groups.set i (BitVec.ofNat 16 g) } s)

/-- LEAVE_GROUP. (DEDUCED, assumption log 64) -/
def leaveGroup : RegionAct := fun via c g s =>
  if 65536 ≤ c ∨ 1024 ≤ g then finishRgn via stBadArg 0 s
  else if (regionList s (65536 + g)).any (regionBusy s (65536 + g)) then finishRgn via stState 0 s
  else finishRgn via stOk 0 (setCtx c { ctx s c with
    groups := (ctx s c).groups.map fun x => if x.toNat = g then 0xFFFF else x } s)

/-- ALLOC_CTX (R261, Table 9.5). -/
def execAllocCtx (via : Via) (s : State) : Host.Outcome State Fault Refusal := .next (regionCommand 1 via allocCtx s)
/-- FREE_CTX (R261, Table 9.5). -/
def execFreeCtx (via : Via) (s : State) : Host.Outcome State Fault Refusal := .next (regionCommand 2 via freeCtx s)
/-- ADD_REGION (R257, R261, R262). (DEDUCED, assumption log 63) -/
def execAddRegion (via : Via) (s : State) : Host.Outcome State Fault Refusal := .next (regionCommand 3 via addRegion s)
/-- REMOVE_REGION (R261 to R263). -/
def execRemoveRegion (via : Via) (s : State) : Host.Outcome State Fault Refusal := .next (regionCommand 4 via removeRegion s)
/-- PIN (R261, R267). -/
def execPin (via : Via) (s : State) : Host.Outcome State Fault Refusal := .next (regionCommand 5 via pinRegion s)
/-- UNPIN (R261, R263). -/
def execUnpin (via : Via) (s : State) : Host.Outcome State Fault Refusal := .next (regionCommand 6 via unpinRegion s)
/-- EVICT (R261, R276). -/
def execEvict (via : Via) (s : State) : Host.Outcome State Fault Refusal := .next (regionCommand 7 via evictPage s)
/-- JOIN_GROUP (R261, Table 9.5). -/
def execJoinGroup (via : Via) (s : State) : Host.Outcome State Fault Refusal := .next (regionCommand 8 via joinGroup s)
/-- LEAVE_GROUP (R261, Table 9.5). -/
def execLeaveGroup (via : Via) (s : State) : Host.Outcome State Fault Refusal := .next (regionCommand 9 via leaveGroup s)

/-! ### Migration and counts -/

/-- What follows when a page's residency has changed (R260, R267, R272, R276): faults that waited for an entry, the region command in
progress, and then the requests held. -/
def afterPage (s : State) : State := retryRing (retryHeld (serveFaults (advanceRegion (serveFaults s))))

/-- The page of an entry becomes RESIDENT (R270). -/
def endMigration (e : Nat) (c : CoEntry) (s : State) : State :=
  let t := tag s c.page
  let s := if t.res = .migrating then setTag c.page { t with res := .resident, count := 0 } s else s
  let s := setEntry e none { s with rgn := { s.rgn with wake := s.rgn.wake ++ parkedOn s e } }
  let s := raise 0x0704 (tagSubject t) [(8, c.page * 2 ^ 21)] s
  if c.failed then
    raise 0x0705 (tagSubject t) [(8, c.page * 2 ^ 21)] { s with rgn := { s.rgn with
      faultValid := true, faultKind := 4, faultCtx := t.owner, faultPage := BitVec.ofNat 27 c.page } }
  else s

/-- PAGE_MIGRATED (R270): every byte of an entry's page has come. (DESIGN CHOICE, assumption log 111) -/
def execPageMigrated (entry : Nat) (s : State) : Host.Outcome State Fault Refusal :=
  match coEntry s entry with
  | some c =>
    if c.evict = false ∧ c.begun = true ∧ 2 ^ 21 ≤ c.moved then .next (afterPage (endMigration entry c s)) else .next s
  | none => .next s

/-- COUNT_DECAY (R274): every 2^(DECAY+20) cycles the counts of absent pages are halved. -/
def execCountDecay (s : State) : Host.Outcome State Fault Refusal :=
  if s.rgn.decay = 0 then .next s
  else
    let s := passNow (s.rgn.lastDecay + 2 ^ (s.rgn.decay.toNat + 20)) s
    let ps := ((s.rgn.tags.map (·.1)).eraseDups).filter fun p => (tag s p).res == .absent
    .next (setTags (fun t => { t with count := t.count / 2 }) ps { s with rgn := { s.rgn with lastDecay := s.now } })

end Sys2Proof.Machine
end

