-- ==== Sys2Proof/Machine/Recorder.lean ====
section
/-! DEFINITION. The event recorder (R410 to R422): its writer, its counts, its reader and REC_READ. -/

namespace Sys2Proof.Machine

/-! ### The slots -/

/-- A slot's 64 bytes; one never written reads as zero (R412). -/
def recSlot (s : State) (k : Nat) : List Byte := padTo 64 (look [] s.log.mram k)

/-- A slot holds a record: its CRC matches (R411, R412). -/
def slotValid (bs : List Byte) : Bool := bs.length == 64 && fld bs 60 4 == crc32c (bs.take 60)

/-- The lowest free slot of the permanent area (R416). -/
def freePermanent (g : Recorder) : Option Nat := (List.range 1024).find? fun k => !slotValid (look [] g.mram k)

/-- The slot after the newest record of the circular area (R416). -/
def nextCircular (g : Recorder) : Nat := if g.circ = 65535 then 1024 else g.circ + 1

/-- The valid records, in SEQ order. -/
def validRecords (g : Recorder) : List (List Byte) :=
  ((g.mram.map (·.2)).filter slotValid).mergeSort fun a b => decide (fld a 16 8 ≤ fld b 16 8)

/-! ### The reader (R421) -/

/-- A record copied into the ring: ring slot SEQ mod 2^(SIZE+8). -/
def copyRecord (bs : List Byte) (s : State) : State :=
  let seq := fld bs 16 8
  let g := s.log
  let a := g.ringBase.toNat * 4096 + 64 * (seq % 2 ^ (g.ringSize.toNat + 8))
  let s := writeMem whoEngine a bs s
  { s with log := { s.log with ringWp := BitVec.ofNat 64 (max s.log.ringWp.toNat (seq + 1)) } }

/-- The reader starts: every valid record from REC_FROM on is copied, in SEQ order, with what has been folded into it. -/
def startReader (s : State) : State :=
  ((validRecords s.log).filter fun r => decide (s.log.fromSeq.toNat ≤ fld r 16 8)).foldl (fun s r => copyRecord r s)
    { s with log := { s.log with refold := false } }

/-- The newest record's ring slot, where it has one, is rewritten after a fold (R421). -/
def copyFold (s : State) : State :=
  if s.log.refold then
    let s := { s with log := { s.log with refold := false } }
    let r := recSlot s s.log.newestSlot
    if s.hbr.reader = .running ∧ fld r 16 8 < s.log.ringWp.toNat then copyRecord r s else s
  else s

/-! ### The writer (R414 to R416) -/

/-- A record goes to its slot: the permanent area for the first of its code, else the circular area.
(DEDUCED, assumption log 107) -/
def placeRecord (r : Record) (g : Recorder) : Recorder × Nat :=
  let first := !g.seen.contains r.ev.code
  match (if first then freePermanent g else none) with
  | some k =>
    let g := { g with seen := r.ev.code :: g.seen, mram := put [] k (recordBytes true false r) g.mram }
    ({ g with permFull := g.permFull || (freePermanent g).isNone }, k)
  | none =>
    let k := nextCircular g
    ({ g with seen := if first then r.ev.code :: g.seen else g.seen, circ := k
              permFull := g.permFull || first
              mram := put [] k (recordBytes false false r) g.mram }, k)

/-- Space has freed after drops (R414): event 0x0A08 carries their number. -/
def reportDrops (s : State) : State :=
  if s.log.sinceDrop = 0 then s
  else raise 0x0A08 noSubject [(4, s.log.sinceDrop)] { s with log := { s.log with sinceDrop := 0 } }

/-- The writer writes the oldest queued record (R414, R416): event 0x0A08 takes the place that it frees after drops, then come the
interrupt edge of its class (R291) and the copy (R421). -/
def writeRecord (s : State) : State :=
  match s.log.queue with
  | [] => s
  | r :: rest =>
    let full := s.log.permFull
    let (g, k) := placeRecord r s.log
    let s := reportDrops { s with log := { g with queue := rest, newestSlot := k, written := rest.isEmpty } }
    let s := emit (.aplic (r.ev.code / 256)) s
    let s := if s.hbr.reader = .running then copyRecord (recSlot s k) s else s
    if s.log.permFull && !full then raise 0x0A07 noSubject [] s else s

/-- RECORD_WRITE (R414 to R416, R418, R421). -/
def execRecordWrite (s : State) : Host.Outcome State Fault Refusal :=
  .next (if s.log.held then s else writeRecord (copyFold s))

/-! ### Counts (R417) -/

/-- One more minute of powered time; the configuration flash takes the count every hour (R417). -/
def countMinute (s : State) : State :=
  let n := s.log.minutes + 1
  { s with log := { s.log with minutes := n, minuteAt := s.now }
           flash := { s.flash with minutes := if n.toNat % 60 = 0 then n else s.flash.minutes } }

/-- MINUTE_COUNT (R417): a whole minute of good input power has passed. -/
def execMinuteCount (s : State) : Host.Outcome State Fault Refusal :=
  if s.pwr.good then .next (countMinute (passNow (s.log.minuteAt + 60 * second) s)) else .next s

/-! ### REC_READ (R420) -/

/-- REC_READ (R420): the slots asked for, each read once. -/
def execRecRead (m : Nat) (s : State) : Host.Outcome State Fault Refusal :=
  .next (mbCommand 0x70 m (fun x s =>
    complete m stOk [] ((List.range (mbArg x 1)).flatMap fun i => recSlot s (mbArg x 0 + i)) s) s)

end Sys2Proof.Machine
end

