-- ==== Sys2Proof/Machine/Survival.lean ====
section
/-! DEFINITION. Health and survival (R380 to R407): the decay of E, the interval mode, emergency securing, partners, restores and hot
spares. -/

namespace Sys2Proof.Machine

/-! ### The risk estimate (R380, R381) -/

/-- E_HALVING (R381): E halves every 2^HALF cycles. -/
def execEHalving (s : State) : Host.Outcome State Fault Refusal :=
  let n := 2 ^ s.hlt.half.toNat
  let s := passNow ((s.now / n + 1) * n) s
  .next (requestCheck (risk s) { s with hlt := { s.hlt with e64 := s.hlt.e64 / 2 } })

/-! ### The interval mode (R394) -/

/-- INTERVAL_EXPIRY (R394): I ticks have passed since the previous securing's anchor, or since the start. -/
def execIntervalExpiry (s : State) : Host.Outcome State Fault Refusal := .next (expireInterval s.xng.tick.toNat s)

/-- HEALTH_CONFIG (R365, R383). -/
def execHealthConfig (m : Nat) (s : State) : Host.Outcome State Fault Refusal :=
  .next (mbCommand 0x64 m (fun x s => finish m stOk { s with hlt := { s.hlt with
    secureAt := BitVec.ofNat 8 (mbArg x 0), mode := mbArg x 1 == 1, windowH := BitVec.ofNat 10 (mbArg x 2) } }) s)

/-! ### SECURE (R395) -/

/-- SECURE (R395): the destinations are selected and a securing is bound. -/
def execSecure (m : Nat) (s : State) : Host.Outcome State Fault Refusal :=
  .next (mbCommand 0x62 m (fun x s =>
    let d := mbArg x 0
    if (d.testBit 0 && s.flash.pairing.isNone) || s.ttu.func != .running then finish m stState s
    else if s.ttu.noRecovery then finish m stNoResource s
    else
      let s := { s with hlt := { s.hlt with
        dest := BitVec.ofNat 2 d, hostOff := if d.testBit 1 then mbArg x 1 else s.hlt.hostOff, secureEver := true } }
      armSecuring (await m .secure s)) s)

/-! ### The power warning (R382, R397, R447) -/

/-- The module secures in emergency (R397), its write combining drained (R237); bring-up is stopped (R447). Nothing changes in HALTED or FAILED.
(DEDUCED, assumption log 51, 85) -/
def startEmergency (s : State) : State :=
  if s.mode = .halted then { s with hlt := { s.hlt with warning := true } }
  else
  let before := risk s
  let s := requestCheck before { s with hlt := { s.hlt with warning := true } }
  if s.mode = .failed ∨ s.hlt.emergency = true then s
  else if s.mode = .boot ∨ s.mode = .train then setMode .halted s
  else
    let bound := s.ttu.func == .running && s.hlt.anchored && !s.ttu.noRecovery
    let s := drainAll (setMode .securing (abandonSecuring { s with hlt := { s.hlt with emergency := true } }))
    let s := enterStopping s
    let s := { s with xng := { s.xng with silent := grouped s } }
    if bound && !(secureDests s).isEmpty then startSecuring ((actSlot s).ranIndex.getD 0) s.hlt.anchorTick true s else s

/-! ### HALTED (R373, R397) -/

/-- Every function is STOPPED (R373). -/
def allStopped (s : State) : Bool := functionIds.all fun f => funcOf s f == .stopped

/-- The module enters HALTED: write combining is drained (R237, R397). -/
def enterHalted (s : State) : State := finishAll .halt stOk (setMode .halted (drainAll s))

/-- MODULE_HALTED (R373, R397): SHUTDOWN has stopped every function, or an emergency securing has ended.
(DEDUCED, assumption log 85) -/
def execModuleHalted (s : State) : Host.Outcome State Fault Refusal :=
  if s.mode = .halted then .next s
  else if s.hbr.pwrStop = true ∧ allStopped s = true then
    .next (enterHalted { s with hbr := { s.hbr with pwrStop := false }, flash := { s.flash with minutes := s.log.minutes } })
  else if s.mode = .securing ∧ s.hlt.emergency = true ∧ s.hlt.securing = none ∧ s.ttu.func = .stopped then .next (enterHalted s)
  else .next s

/-! ### Partners (R398, R399) -/

/-- A region registered for placement under a handle. -/
def placed (s : State) (h : Nat) : Option PlaceH := look none s.zng.handles h

/-- The guest area from handle g on is registered and large enough (R399). -/
def guestOk (s : State) (g : Nat) : Bool :=
  (List.range 4).all fun i => (placed s (g + i)).any fun h => decide ((if i = 0 then 2 ^ 21 else 2 ^ s.hlt.slotLog2.toNat) ≤ h.bytes)

/-- A securing is writing to the partner. -/
def securingPartner (s : State) : Bool := s.hlt.securing.any fun j => j.dests.any fun d => d.dest == 0 && !d.ended

/-- A transaction for a peer sent on the port of its key (R342); without a port it is not sent. -/
def sendKeyed (peer cls : Nat) (bytes : List Byte) (s : State) : State :=
  match portOfKey s { write := true, peer := some (peer, 0), off := 0, len := 0, use := .dropped } with
  | some p => sendTxn p cls bytes s
  | none => s

/-- A FEED (Table 12.3): FLAGS bit 1 is ANSWER. -/
def feedBytes (answer : Bool) (dest src feed : Nat) : List Byte :=
  txnHead 0x0D (if answer then 2 else 0) 0 16 [(4, 4, dest), (8, 4, src), (12, 2, feed)]

/-- PAIR (R398, R399): the partner's FEED is asked for. (DEDUCED, assumption log 83) -/
def execPair (m : Nat) (s : State) : Host.Outcome State Fault Refusal :=
  .next (mbCommand 0x60 m (fun x s =>
    if securingPartner s then finish m stState s
    else if !guestOk s (mbArg x 3) then finish m stNoResource s
    else
      let s := await m (.pair (mbArg x 0) (mbArg x 1) (mbArg x 2) (mbArg x 3)) s
      sendKeyed (mbArg x 0) 0 (feedBytes false (mbArg x 0) s.zng.peerId.toNat s.zng.feed.toNat) s) s)

/-- A pairing is recorded (R398). (DEDUCED, assumption log 83) -/
def recordPairing (m peer cofed theirs mine feed : Nat) (s : State) : State :=
  let own := s.zng.feed.toNat
  let same := feed == own || feed == 0 || own == 0
  if same && cofed == 0 then finish m stSameFeed (raise 0x0B08 noSubject [] s)
  else
    let co := same && cofed == 1
    let before := risk s
    let s := { s with
      flash := { s.flash with
        pairing := some { peer := peer, feed := feed, theirs := theirs, mine := mine, cofed := co, own := own }
        cofed := s.flash.cofed || co }
      hlt := { s.hlt with cofed := s.hlt.cofed || co } }
    let s := requestCheck before (raise 0x0B07 noSubject [(1, cofed)] s)
    complete m stOk [feed] [] s

/-- A pairing that waits for a peer's answer goes on. -/
def answerPairing (src feed : Nat) (s : State) : State :=
  (List.range 16).foldl (fun s m =>
    match (mbOf s m).state, (mbOf s m).wait with
    | .running, .pair peer cofed theirs mine => if peer = src then recordPairing m peer cofed theirs mine feed s else s
    | _, _ => s) s

/-- FEED (R348, R398): answered from READY onward, or the answer that a pairing waits for. -/
def execFeed (answer : Bool) (_dest src feed : Nat) (s : State) : Host.Outcome State Fault Refusal :=
  if answer then .next (answerPairing src feed s)
  else if 3 ≤ modeCode s.mode then .next (sendKeyed src 0 (feedBytes true src s.zng.peerId.toNat s.zng.feed.toNat) s)
  else .next s

/-- UNPAIR (R398). -/
def execUnpair (m : Nat) (s : State) : Host.Outcome State Fault Refusal :=
  .next (mbCommand 0x61 m (fun _ s =>
    if securingPartner s then finish m stState s
    else finish m stOk { s with flash := { s.flash with pairing := none } }) s)

/-! ### A slot of secured state as it is read back (R391, R401) -/

/-- Where bytes of a slot are read: X and what has been fetched (host), or a region of the module. -/
def slotRead (s : State) (r : Option Restoring) (base off n : Nat) : State × List Byte × Bool :=
  match r with
  | some j =>
    let a := base + off
    (s, getBytes j.bytes a n, j.bad.any fun b => overlaps a n b.1 b.2)
  | none => readMem whoEngine (base + off) n s

/-- MAGIC and VERSION of a header, and sizes that its slot can hold (Table 14.2). -/
def headerSane (h : List Byte) : Bool :=
  fld h 0 4 == securedMagic && fld h 4 2 == 1 && decide (fld h 32 4 ≤ 65535) && decide (fld h 36 4 ≤ 65535)

/-- A slot's header, entries and anchor copy, where MAGIC, VERSION and MANIFEST_DIGEST are valid (R401). -/
def slotManifest (s : State) (r : Option Restoring) (base : Nat) : State × Option (List Byte × List Byte × List Byte) :=
  let (s, h, b0) := slotRead s r base 0 512
  if !headerSane h || b0 then (s, none)
  else
    let (s, ents, b1) := slotRead s r base 512 (128 * fld h 32 4)
    let (s, copy, b2) := slotRead s r base anchorOff (512 * fld h 36 4)
    if !b1 && !b2 && sha3 (patch h 256 (zeros 64) ++ ents ++ copy) == slice h 256 64 then (s, some (h, ents, copy)) else (s, none)

/-- STEP of a header's position record. -/
def headStep (h : List Byte) : Nat := fld h 136 8
/-- GEN of a header. -/
def headGen (h : List Byte) : Nat := fld h 8 8

/-- The choice among valid slots (R400, R401): the newest whose POSITION.STEP equals the step, or else the newest. -/
def chooseSlot {α : Type} (step : Nat) (head : α → List Byte) (xs : List α) : Option α :=
  let newest (ys : List α) : Option α := ys.foldl (fun best y => match best with
    | none => some y
    | some b => if headGen (head b) < headGen (head y) then some y else some b) none
  match newest (xs.filter fun x => headStep (head x) == step) with
  | some x => some x
  | none => newest xs

/-! ### Serving a partner (R400) -/

/-- The module's own guest handle. -/
def ownGuest (s : State) : Option Nat := s.flash.pairing.map (·.mine)

/-- A request in the module's request page is served (R400): the chosen slot's bytes go to the landing area, the header last.
(DEDUCED, assumption log 84) -/
def serveRequest (s : State) : State :=
  match s.flash.pairing with
  | none => s
  | some pr =>
    match placed s pr.mine with
    | none => s
    | some reg =>
      let (s, q, bad) := readMem whoEngine reg.base 64 s
      if s.hlt.serving || bad || fld q 0 4 != 0x51545352 || fld q 4 4 != pr.peer || fld q 16 1 != s.hlt.slotLog2.toNat
          || fld q 60 4 != crc32c (q.take 60) then s
      else
        let (s, found) := [1, 2].foldl (fun (acc : State × List (Nat × List Byte)) i =>
          match placed acc.1 (pr.mine + i) with
          | none => acc
          | some sl => match slotManifest acc.1 none sl.base with
            | (s, some (h, _, _)) => (s, acc.2 ++ [(sl.base, h)])
            | (s, none) => (s, acc.2)) (s, [])
        match chooseSlot (fld q 8 8) (·.2) found with
        | none => s
        | some (base, h) =>
          let (s, body, _) := readMem whoEngine (base + 512) (fld h 40 8 - 512) s
          let s := { s with hlt := { s.hlt with serving := true } }
          let s := peerWrite pr.peer (fld q 18 2) 512 body (.serve false) s
          peerWrite pr.peer (fld q 18 2) 0 h (.serve true) s

/-- A served restore has been written (R400). (DEDUCED, assumption log 84) -/
def advanceServe (s : State) : State :=
  if s.hlt.serving && !openUses s (.serve false) && !openUses s (.serve true) then
    raise 0x0B10 noSubject [] { s with hlt := { s.hlt with serving := false } }
  else s

/-! ### Restoring (R401, R402) -/

/-- A restore is refused (R401). -/
def refuseRestore (j : Restoring) (st : Nat) (s : State) : State :=
  finish j.mb st (raise 0x0B0B noSubject [] { s with hlt := { s.hlt with restoring := none } })

/-- Where a restore's chosen slot begins: an offset from X, or a module address. -/
def restoreBase (s : State) (j : Restoring) (slot : Bool) : Nat :=
  if j.host then b2n slot * 2 ^ s.hlt.slotLog2.toNat
  else ((ownGuest s).bind fun g => placed s (g + 3)).elim 0 (·.base)

/-- The restore as `slotRead` takes it. -/
def restoreSrc (j : Restoring) : Option Restoring := if j.host then some j else none

/-- Checks 2 to 6 of Table 14.5 on the chosen slot's header: the status of the first that fails. -/
def restoreFail (s : State) (j : Restoring) (h : Option (List Byte)) : Option Nat :=
  let sl := actSlot s
  match sl.state, sl.image with
  | .admitted, some i =>
    if s.ttu.func ≠ .stopped then some stState
    else match h with
      | none => some stIntegrity
      | some h =>
        let pos := slice h 128 128
        if (fld h 7 1).testBit 1 then some stIntegrity
        else if slice h 64 64 ≠ i.digest then some stIntegrity
        else if fld h 52 2 ≠ (if s.xng.role = .solo then 0xFFFF else s.xng.rank.toNat) ∨ fld h 48 4 ≠ s.zng.peerId.toNat then some stState
        else if fld pos 124 4 ≠ crc32c (pos.take 124) then some stIntegrity
        else if j.step ≠ fld pos 8 8 ∨ j.cursor ≠ slice pos 32 64 ∨ fld pos 8 8 < (posIter i (fld pos 0 8)).2 then some stSkew
        else none
  | _, _ => some stState

/-- Each tensor is copied to its place; whether every DIGEST matched (check 7). -/
def copyTensors (j : Restoring) (slot : Bool) (ents : List Byte) (s : State) : State × Bool :=
  let sl := actSlot s
  (chunks 128 ents).foldl (fun (acc : State × Bool) e =>
    if !acc.2 then acc
    else match (sl.image.bind fun i => i.tensors[fld e 4 2]?) with
      | none => (acc.1, false)
      | some te =>
        let (s, bs, bad) := slotRead acc.1 (restoreSrc j) (restoreBase acc.1 j slot) (fld e 16 8) (fld e 8 8)
        let s := writeMem whoEngine (tensorBase sl te) bs s
        (s, !bad && sha3 bs == slice e 64 64)) (s, true)

/-- A restore that has passed its checks (R402). (DEDUCED, assumption log 84) -/
def applyRestore (j : Restoring) (slot : Bool) (h ents copy : List Byte) (s : State) : State :=
  match copyTensors j slot ents s with
  | (s, false) => refuseRestore j stIntegrity s
  | (s, true) =>
    let sl := actSlot s
    let pos := slice h 128 128
    let index := fld pos 0 8
    let s := writeMem whoEngine (statsAddr sl 0) copy s
    let s := if lacksCopy sl then s else writeMem whoEngine (statsAddr sl 0 + 512 * tensorCount sl) copy s
    let bound := if fld pos 24 8 = 0xFFFFFFFFFFFFFFFF then [] else [⟨fld pos 24 8, slice pos 32 64⟩]
    let base := fld pos 8 8 - sl.image.elim 0 fun i => (posIter i index).2
    let s := setSlot s.ttu.active { sl with
      position := pos, cursors := bound, ranIndex := some index, ranTick := fld h 24 8, seed := fld pos 16 8, stepBase := base } s
    let s := { s with
      ttu := { s.ttu with exLog := [], exNext := 0, logFull := false }
      hlt := { s.hlt with restoring := none, anchored := true, anchorTick := fld h 24 8 } }
    beginStart (some (index + 1)) (raise 0x0B0A noSubject [] (await j.mb .restore s))

/-- The source has been read: the slot is chosen and checked (R401). (DEDUCED, assumption log 84) -/
def decideRestore (j : Restoring) (s : State) : State :=
  let slots := if j.host then [false, true] else [false]
  let (s, found) := slots.foldl (fun (acc : State × List (Bool × List Byte × List Byte × List Byte)) b =>
    match slotManifest acc.1 (restoreSrc j) (restoreBase acc.1 j b) with
    | (s, some m) => (s, acc.2 ++ [(b, m)])
    | (s, none) => (s, acc.2)) (s, [])
  let pick := chooseSlot j.step (·.2.1) found
  match restoreFail s j (pick.map (·.2.1)), pick with
  | some st, _ => refuseRestore j st s
  | none, none => refuseRestore j stIntegrity s
  | none, some (b, h, ents, copy) =>
    if j.host && j.phase != 2 then
      let s := { s with hlt := { s.hlt with restoring := some { j with phase := 2, slot := b } } }
      (chunks 128 ents).foldl (fun s e =>
        hostRead (j.off + restoreBase s j b + fld e 16 8) (fld e 8 8) .restore s) s
    else applyRestore j b h ents copy s

/-- A restore from the host goes on once what it asked for has come. -/
def advanceRestore : Nat → State → State
  | 0, s => s
  | n + 1, s =>
    match s.hlt.restoring with
    | none => s
    | some j =>
      if !j.host || openUses s .restore then s
      else if j.phase = 0 then
        let s := { s with hlt := { s.hlt with restoring := some { j with phase := 1 } } }
        let s := [false, true].foldl (fun s b =>
          let base := restoreBase s j b
          let h := getBytes j.bytes base 512
          if headerSane h then
            hostRead (j.off + base + anchorOff) (512 * fld h 36 4) .restore
              (hostRead (j.off + base + 512) (128 * fld h 32 4) .restore s)
          else s) s
        advanceRestore n s
      else
        let s := decideRestore j s
        if j.phase = 1 then advanceRestore n s else s

/-- The header has come into the landing area, which the source writes last (R400): the restore is decided (R401). -/
def checkLanding (s : State) : State :=
  match s.hlt.restoring with
  | some j => if j.host then s else decideRestore j s
  | none => s

/-- A restore request (Table 14.4). -/
def restoreRequest (s : State) (step landing : Nat) : List Byte :=
  let h := toLE 4 0x51545352 ++ toLE 4 s.zng.peerId.toNat ++ toLE 8 step ++ toLE 1 s.hlt.slotLog2.toNat ++ zeros 1 ++ toLE 2 landing ++ zeros 40
  h ++ toLE 4 (crc32c h)

/-- RESTORE (R401): the source is read before any check of the state. -/
def execRestore (m : Nat) (s : State) : Host.Outcome State Fault Refusal :=
  .next (mbCommand 0x63 m (fun x s =>
    let host := mbArg x 0 == 1
    let j : Restoring := { mb := m, host := host, off := mbArg x 1, step := mbArg x 2, cursor := mbPayload x }
    let size := 2 ^ s.hlt.slotLog2.toNat
    let start (s : State) : State := await m .restore { s with hlt := { s.hlt with restoring := some j } }
    if host then
      if inHostRegion s (hostBase + j.off) (2 * size) then
        advanceRestore 3 (hostRead (j.off + size) 512 .restore (hostRead j.off 512 .restore (start s)))
      else refuseRestore j stNoResource s
    else match s.flash.pairing with
      | some pr =>
        if (placed s (pr.mine + 3)).isSome then
          peerWrite pr.peer pr.theirs 0 (restoreRequest s j.step (pr.mine + 3)) .restore (start s)
        else refuseRestore j stNoResource s
      | none => refuseRestore j stNoResource s) s)

/-! ### Hot spares (R403, R404) -/

/-- STANDBY (R403): in READY on a SOLO module whose unit is STOPPED. -/
def execStandby (m : Nat) (s : State) : Host.Outcome State Fault Refusal :=
  .next (mbCommand 0x65 m (fun x s =>
    if s.mode = .ready ∧ s.xng.role = .solo ∧ s.ttu.func = .stopped then
      finish m stOk { s with hlt := { s.hlt with standby := some (mbArg x 0) } }
    else finish m stState s) s)

/-- A TAKEOVER completes once every port has delivered the peer ID again (R404). -/
def endTakeover (s : State) : State :=
  if (List.range 8).any fun p => (portOf s p).keep then s
  else (List.range 16).foldl (fun s m =>
    match (mbOf s m).state, (mbOf s m).wait with
    | .running, .takeover _ peer =>
      finish m stOk (raise 0x0B0C noSubject [] { s with
        zng := { s.zng with peerId := BitVec.ofNat 32 peer, peerSet := true }, hlt := { s.hlt with standby := none } })
    | _, _ => s) s

/-- TAKEOVER (R404): LINKUP runs again on every ACTIVE port. -/
def execTakeover (m : Nat) (s : State) : Host.Outcome State Fault Refusal :=
  .next (mbCommand 0x66 m (fun x s =>
    if s.hlt.standby.isNone then finish m stState s
    else
      let s := (List.range 8).foldl (fun s p =>
        if portActive s p then setPort p { portOf s p with phase := .linkup, keep := true, fails := 0 } s else s) s
      endTakeover (await m (.takeover (mbArg x 0) (mbArg x 1)) s)) s)

end Sys2Proof.Machine
end

