-- ==== Sys2Proof/Machine/HostEnd.lean ====
section
/-! DEFINITION. The ends of host and peer accesses (R341, R346): RD_CPL, WR_ACK, and what each brings to the one that asked. -/

namespace Sys2Proof.Machine

/-! ### Window commands whose data have moved (R339, R340) -/

/-- A command of a window queue. -/
def winCmd (s : State) (p q seq : Nat) : Option WinCmd := (winQ s p q).cmds.find? fun c => c.seq == seq && c.status.isNone

/-- A PULL or PUSH that has moved its bytes ends once nothing of it is outstanding or held (R340). -/
def settleWin (p q seq : Nat) (s : State) : State :=
  match winCmd s p q seq with
  | some c =>
    if c.begun && c.status.isNone && c.bytes != 0 && !openUses s (.command p q seq) && !ferryHeld s (winQ s p q).context then
      advanceRegion (recordArises p q seq (if c.bad then stIntegrity else stOk) s)
    else s
  | none => s

/-! ### Reads -/

/-- Bytes of a read reach the one that asked; with an error they are poisoned (R341), of a migration with the blocks that they overlap, whichever
part of a block comes first (R270). `a` is their host-window offset.
(DEDUCED, assumption log 70) -/
def deliverRead (use : HostUse) (a : Nat) (bs : List Byte) (bad : Bool) (s : State) : State :=
  match use with
  | .migrate e =>
    match coEntry s e with
    | some c =>
      let at_ := c.page * 2 ^ 21 + a % 2 ^ 21
      let blocks := blocksOf at_ bs.length
      let poisoned := if bad then c.bad ++ blocks else c.bad
      let s := setEntry e (some { c with moved := c.moved + bs.length, failed := c.failed || bad, bad := poisoned }) s
      (blocks.filter (poisoned.contains ·)).foldl (fun s b => if backed s.cfg (256 * b) then poisonBlock b s else s)
        (writeMem whoEngine at_ bs s)
    | none => s
  | .line who addr => emit (.line who addr bs bad) s
  | .hart h ctx addr va =>
    if bad then hartFault { hart := h, ctx := ctx, addr := addr, write := none, size := bs.length, va := va } 3 s
    else emit (.loaded h addr bs) s
  | .ring _ line =>
    match openTxn s line with
    | some t => sendGrant { t with waitData := false } .u 1 (some (bs, bad)) s
    | none => s
  | .payload m =>
    let x := mbOf s m
    setMb m { x with bytes := setBytes x.bytes (64 + (a - mbPayOff x)) bs, bad := x.bad || bad } s
  | .ferry _ _ | .launch _ | .command _ _ _ =>
    let b := bufOf s use
    setBuf use (some { b with
      bytes := setBytes b.bytes a bs, runs := b.runs ++ [(a, bs.length)]
      bad := if bad then b.bad ++ [(a, bs.length)] else b.bad }) s
  | .restore =>
    match s.hlt.restoring with
    | some j => { s with hlt := { s.hlt with restoring := some { j with
        bytes := setBytes j.bytes (a - j.off) bs, bad := if bad then j.bad ++ [(a - j.off, bs.length)] else j.bad } } }
    | none => s
  | _ => s

/-- What follows once a read's last byte has come. (DEDUCED, assumption log 106) -/
def afterRead (use : HostUse) (s : State) : State :=
  match use with
  | .payload m => if openUses s use then s else await m .fetched s
  | .restore => advanceRestore 4 s
  | _ => s

/-- What follows every end of an access: others go out, and migrations whose page is quiet begin (R270, R341). -/
def afterAccess (s : State) : State := beginMigrations (pumpHost s)

/-- An outstanding access of a port, by its kind and tag. -/
def issuedAt (s : State) (p tag : Nat) (write : Bool) : Option HostReq :=
  s.zng.issued.find? fun r => r.port == p && r.tag == tag && r.write == write

/-- A read that one requester waits for, of a line or a hart: it is answered whole, once its last part has come. -/
def wholeRead (use : HostUse) : Bool :=
  match use with
  | .line _ _ | .hart _ _ _ _ | .ring _ _ => true
  | _ => false

/-- A part of a read arrives (R341). -/
def readPart (r : HostReq) (status off : Nat) (bs : List Byte) (s : State) : State :=
  let bad := status != 0
  let whole := wholeRead r.use
  let r' := { r with got := r.got + bs.length, bad := r.bad || bad, came := r.came ++ [(off, bs.length)], parts := if whole then setBytes r.parts off bs else [] }
  let done := decide (r.len ≤ r'.got)
  let rest := if done then dropFirst r s.zng.issued else s.zng.issued.map fun x => if x = r then r' else x
  let s := { s with zng := { s.zng with issued := rest } }
  let s := if bad then raise 0x0909 r.port [] s else s
  if !whole then afterRead r.use (deliverRead r.use (r.off + off) bs bad s)
  else if done then deliverRead r.use r.off (getBytes r'.parts 0 r.len) r'.bad s
  else s

/-- A part of a read of port p, with its offset in the request (R341). -/
def readAnswer (p tag status off : Nat) (data : List Byte) (s : State) : State :=
  match issuedAt s p tag false with
  | some r => if off + data.length ≤ r.len then afterAccess (readPart r status off data s) else s
  | none => s

/-! ### Writes -/

/-- An eviction's write failed. -/
def failEvict (e : Nat) (s : State) : State :=
  match coEntry s e with
  | some c => setEntry e (some { c with failed := true }) s
  | none => s

/-- A write is acknowledged, with or without an error; the one that asked learns of it by its own rules (R341).
(DEDUCED, assumption log 106) -/
def afterWrite (use : HostUse) (ok : Bool) (s : State) : State :=
  match use with
  | .evict e => afterPage (if ok then s else failEvict e s)
  | .response m false =>
    if openUses s use then s else hostWrite (responseSlot s m) (getBytes (mbOf s m).bytes 2048 64) (.response m true) s
  | .response m true =>
    let x := mbOf s m
    let s := ackBox m s
    if (mbField x 2 1).testBit 0 then
      match portOfHome s (m % 8) with
      | some p => hostIrqOn p 1 (mbSeq x) s
      | none => emit (.hostIrq 1 (mbSeq x)) s
    else s
  | .command p q seq =>
    settleWin p q seq (if ok then s else setWinCmd p q seq (fun c => { c with bad := true }) s)
  | .completion p q seq =>
    let w := winQ s p q
    match w.cmds.find? fun c => c.seq == seq && c.written with
    | some c =>
      let s := setWinQ p q { w with cmds := dropFirst c w.cmds } s
      if c.irq then
        match portOfHome s (p % 8) with
        | some k => hostIrqOn k (1 + q) 0 s
        | none => emit (.hostIrq (1 + q) 0) s
      else s
    | none => s
  | .ship _ => if ok then advanceShip s else shipFails s
  | .secure d _ => if ok then advanceSecuring s else failDest d s
  | .serve _ => advanceServe s
  | _ => s

/-- The acknowledgement of a write of port p (R341, R346); an error of a host write is recorded. -/
def writeAnswer (p tag status : Nat) (s : State) : State :=
  match issuedAt s p tag true with
  | some r =>
    let s := { s with zng := { s.zng with issued := dropFirst r s.zng.issued } }
    let s := if status = 0 ∨ r.peer.isSome = true then s else raise 0x0909 p [] s
    afterAccess (afterWrite r.use (status == 0) s)
  | none => s

end Sys2Proof.Machine
end

