-- ==== Sys2Proof/Machine/Link.lean ====
section
/-! DEFINITION. The Zuong link (R318 to R350): training and retraining, flits and replay, credits, the window and its queues, the
commands of Table 12.6, placement, and the loss of a port. -/

namespace Sys2Proof.Machine

/-! ### FLUSH (R345) -/

/-- A FLUSH completes for the one that issued it; where it does not complete in time, `port` is the one that has not answered. -/
def flushDone (j : FlushJob) (ok : Bool) (port : Nat) (s : State) : State :=
  let s := if ok then s else raise 0x090B port [] s
  match j.by_ with
  | .command p q seq => recordArises p q seq (if ok then stOk else stTimeout) s
  | .register => { s with zng := { s.zng with
      flBusy := false, flTimeout := s.zng.flTimeout || !ok, flDone := s.zng.flDone + 1 } }
  | .release m h =>
    if ok then finish m stOk { s with zng := { s.zng with handles := put none h none s.zng.handles } }
    else finish m stTimeout (timedOut 0x4C m s)

/-- A FLUSH in progress set, or ended when every port has answered. -/
def setFlush (j : FlushJob) (s : State) : State :=
  let rest := s.zng.flushes.filter fun k => k.num != j.num
  if j.left.isEmpty then flushDone j true 0 { s with zng := { s.zng with flushes := rest } }
  else { s with zng := { s.zng with flushes := rest ++ [j] } }

/-- A FLUSH is issued (R345 step 1): FLUSH_REQ on every ACTIVE port. -/
def startFlush (by_ : FlushBy) (s : State) : State :=
  let n := (s.zng.flushNo + 1) % 2 ^ 32
  let ps := (List.range 8).filter (portActive s)
  let s := ps.foldl (fun s p => sendTxn p 0 (txnHead 0x0A 0 0 16 [(4, 4, n)]) s) { s with zng := { s.zng with flushNo := n } }
  setFlush ⟨n, ps, by_, s.now⟩ s

/-- FLUSH_ACK (R345 step 3): port p has answered. -/
def execFlushAck (p num : Nat) (s : State) : Host.Outcome State Fault Refusal :=
  match s.zng.flushes.find? fun j => j.num == num with
  | some j => .next (setFlush { j with left := j.left.filter (· != p) } s)
  | none => .next s

/-- FLUSHes in progress end with TIMEOUT: those that `which` names, for a port. -/
def failFlushes (which : FlushJob → Bool) (port : FlushJob → Nat) (s : State) : State :=
  let js := s.zng.flushes.filter which
  js.foldl (fun s j => flushDone j false (port j) s) { s with zng := { s.zng with flushes := s.zng.flushes.filter fun j => !which j } }

/-- FLUSH_TIMEOUT (R345): 10 ms have passed. (DEDUCED, assumption log 81) -/
def execFlushTimeout (num : Nat) (s : State) : Host.Outcome State Fault Refusal :=
  match s.zng.flushes.find? fun j => j.num == num with
  | some j => .next (failFlushes (fun k => k.num == num) (fun k => k.left.headD 0) (passNow (j.start + second / 100) s))
  | none => .next s

/-- ZNG_FLUSH.START (R345, Table 12.14): ignored while BUSY. -/
def execZngFlushStart (s : State) : Host.Outcome State Fault Refusal :=
  .next (if s.zng.flBusy then s else startFlush .register { s with zng := { s.zng with flBusy := true } })

/-! ### The loss of a port (R350) -/

/-- What a lost port had outstanding goes back in front of the queue, in order; the parts that came are asked for again. -/
def requeue (p : Nat) (s : State) : State :=
  let mine := s.zng.issued.filter fun r => r.port == p
  let s := mine.foldl (fun s r => match r.use with
    | .migrate e => match coEntry s e with
      | some c => setEntry e (some { c with moved := c.moved - r.got }) s
      | none => s
    | _ => s) s
  { s with zng := { s.zng with
    issued := s.zng.issued.filter fun r => r.port != p
    queued := mine.map (fun r => { r with port := 0, tag := 0, got := 0, parts := [], bad := false }) ++ s.zng.queued } }

/-- The parts of a read that have not come; one that is answered whole has none that stands alone. -/
def missingParts (r : HostReq) : List (Nat × Nat) :=
  if wholeRead r.use then [(0, r.len)]
  else (spanGaps 0 r.len (r.came.foldl (fun sp x => spanAdd x.1 (x.1 + x.2) sp) [])).map fun g => (g.1, g.2 - g.1)

/-- A migration keeps the bytes of a read that had come before its port was lost. -/
def keepMoved (r : HostReq) (s : State) : State :=
  match r.use with
  | .migrate e => match coEntry s e with
    | some c => setEntry e (some { c with moved := c.moved + (r.came.map (·.2)).sum }) s
    | none => s
  | _ => s

/-- Reads that no port can carry, the last of which was p: what has not come of them is delivered poisoned (R341). -/
def poisonReads (p : Nat) (s : State) : State :=
  let rs := s.zng.queued.filter fun r => !r.write
  let s := { s with zng := { s.zng with queued := s.zng.queued.filter (·.write) } }
  rs.foldl (fun s r =>
    let s := keepMoved r (raise 0x0909 p [] s)
    afterRead r.use ((missingParts r).foldl (fun s g => deliverRead r.use (r.off + g.1) (zeros g.2) true s) s)) s

/-- Transactions of a lost port's keys that had not left and are no host access move to its substitute. -/
def moveWaiting (p : Nat) (ts : List Txn) (s : State) : State :=
  let keep := ts.filter fun t => let c := (t.bytes.headD 0).toNat; c == 0x0C || c == 0x0D
  match nextPort s p with
  | some q => pump q (setPort q { portOf s q with waiting := (portOf s q).waiting ++ keep } s)
  | none => s

/-- The keys that p carried move to the next carrying port (R342, R350). -/
def moveKeys (p : Nat) (s : State) : State :=
  if (nextPort s p).isNone then s else raise 0x090A p [] (setPort p { portOf s p with away := true } s)

/-- Window queues of a lost port (R350): halted, their descriptors that have not started dropped, those up to TAIL among them.
(DEDUCED, assumption log 81) -/
def haltQueues (x : Port) : Port :=
  { x with queues := x.queues.map fun q =>
      (q.1, { q.2 with halted := true, tries := 0, head := q.2.tail, cmds := q.2.cmds.filter fun c => c.begun || c.status.isSome }) }

/-- A request of queue 0 of a lost port that has not started is dropped (R350): its mailbox is IDLE. (DEDUCED, assumption log 81) -/
def dropPosted (p : Nat) (s : State) : State :=
  if (mbOf s p).state = .posted then setMb p { mbOf s p with state := .idle } s else s

/-- The function commands that wait for a port lost (R371, R372): a start fails, and a stop has its state.
(DEDUCED, assumption log 76) -/
def endStarts (p : Nat) (f : FuncState) (stopped : Bool) (s : State) : State :=
  let s := if f = .starting then finishAll (.start (8 + p)) stState s else s
  if stopped then s else finishAll (.stop (8 + p)) stOk s

/-- What a lost port still carried goes to its substitutes (R342, R350); its votes move at the next tick (R43). -/
def leavePort (p : Nat) (carried : Bool) (ts : List Txn) (s : State) : State :=
  let s := if carried then moveWaiting p ts (moveKeys p (requeue p s)) else s
  if (nextPort s 0).isNone then beginMigrations (poisonReads p s) else pumpHost s

/-- With all eight ports LOST the module fails (R350, R405, Table 14.6), unless SHUTDOWN stops it. (DEDUCED, assumption log 81) -/
def checkPorts (s : State) : State :=
  if (List.range 8).all (fun p => (portOf s p).phase == .lost) && (modeServes s || s.mode == .train) && !s.hbr.pwrStop then
    failModule 2 s
  else s

/-- A port is lost (R350), or stopped by command. (DEDUCED, assumption log 76) -/
def losePort (p : Nat) (stopped : Bool) (s : State) : State :=
  let x := portOf s p
  if x.phase = .lost then s
  else
    let x' := { haltQueues x with
      phase := .lost, waiting := [], tx := [], unacked := [], stream := [], naks := 0, nakAt := none, keep := false, swap := none
      attempts := 0, fails := 0, off := stopped, creditReq := 0, creditCtl := 0
      func := if stopped then .stopping else .stopped }
    let carried := portCarries s p
    let s := endStarts p x.func stopped (raise 0x0904 p [] (dropPosted p (setPort p x' s)))
    checkPorts (endTakeover (leavePort p carried x.waiting (failFlushes (fun _ => true) (fun _ => p) s)))

/-- LINK_DOWN (R350): the adapter signals that the link is down. -/
def execLinkDown (p : Nat) (s : State) : Host.Outcome State Fault Refusal :=
  .next (if p < 8 ∧ (portOf s p).phase ≠ .down then losePort p false s else s)

/-- A port is ACTIVE again, and the last of its keys has returned to it (R350): each does once its transactions on the substitute have
ended. -/
def keysReturn (p : Nat) (s : State) : State :=
  if p < 8 && portActive s p && (portOf s p).away && substOf s p == p then
    pumpHost (raise 0x090A p [] (setPort p { portOf s p with away := false } s))
  else s

/-! ### Training (R321 to R324) -/

/-- An attempt to train, or a retrain, fails (R321, R325): after three in a row the port is LOST.
(DEDUCED, assumption log 75) -/
def failAttempt (p : Nat) (s : State) : State :=
  let x := portOf s p
  if x.keep then
    if x.fails + 1 < 3 then setPort p { x with fails := x.fails + 1 } s else losePort p false s
  else if x.attempts + 1 < 3 then
    setPort p { x with attempts := x.attempts + 1, phase := if s.zng.portEn.getLsbD p then .detect else .down } s
  else losePort p false s

/-- DETECT (R321): the adapter is present on all five lanes, and its cable ties PRSNT_N low (R453).
(DEDUCED, assumption log 104) -/
def execDetect (p : Nat) (s : State) : Host.Outcome State Fault Refusal :=
  .next (if (portOf s p).phase = .detect then setPort p { portOf s p with phase := .equalise, present := some true } s else s)

/-- EQUALISE (R321). -/
def execEqualise (p : Nat) (s : State) : Host.Outcome State Fault Refusal :=
  .next (if (portOf s p).phase = .equalise then setPort p { portOf s p with phase := .align } s else s)

/-- The physical lane of a logical lane (Table 12.16). -/
def physLane (x : Port) (l : Nat) : Nat := bits x.map.toNat (3 * l + 2) (3 * l)

/-- The verdict of a lane's scan (R323): its worst eye's T_LEFT, T_RIGHT, V_LOW and V_HIGH. (DEDUCED, assumption log 77) -/
def laneVerdict (e : Nat × Nat × Nat × Nat) : Bool :=
  decide (e.1 < 8) || decide (e.2.1 < 8) || decide (e.2.2.1 < 3) || decide (e.2.2.2 < 3)

/-- Spare selection (R322): none where the attempt fails. `bad` names physical lanes. (DEDUCED, assumption log 77) -/
def selectSpare (bad : BitVec 5) (x : Port) : Option (Port × Bool) :=
  let hit := (List.range 4).filter fun l => bad.getLsbD (physLane x l)
  match hit with
  | [] => if !x.spare && bad.getLsbD 4 then none else some (x, false)
  | [l] =>
    if x.spare || bad.getLsbD 4 then none
    else
      let n := physLane x l
      some ({ x with spare := true, failed := x.failed ||| BitVec.ofNat 5 (2 ^ n)
                     map := BitVec.ofNat 12 (x.map.toNat - n * 8 ^ l + 4 * 8 ^ l) }, true)
  | _ => none

/-- Lanes whose scan fails, in TRAIN (R321, R323). -/
def scanBad (s : State) (scans : List (Nat × Nat × Nat × Nat)) : BitVec 5 :=
  if s.mode = .train then BitVec.ofNat 5 ((scans.take 5).zipIdx.foldl (fun a e => if laneVerdict e.1 then a + 2 ^ e.2 else a) 0) else 0

/-- ALIGN (R322): `bad` are the physical lanes that fail to lock or to deskew, `scans` the margin scan of each, made in TRAIN.
(DEDUCED, assumption log 77) -/
def execAlign (p : Nat) (bad : BitVec 5) (scans : List (Nat × Nat × Nat × Nat)) (s : State) : Host.Outcome State Fault Refusal :=
  let x := portOf s p
  if x.phase ≠ .align then .next s
  else match selectSpare (bad ||| scanBad s scans) x with
    | none => .next (failAttempt p s)
    | some (x, took) =>
      let s := setPort p { x with phase := .linkup } s
      .next (if took then raise 0x0903 p [] s else s)

/-- The peer ID that LINKUP must deliver (R324, R404). -/
def expectedPeer (s : State) : Option Nat :=
  match ((List.range 16).findSome? fun m => match (mbOf s m).state, (mbOf s m).wait with
    | .running, .takeover _ peer => some peer
    | _, _ => none) with
  | some p => some p
  | none => if s.zng.peerSet then some s.zng.peerId.toNat else none

/-- The lowest unfinished stage 2 ends once every strait has trained and every enabled port is ACTIVE or LOST (Table 13.10). -/
def portsTrained (s : State) : Bool :=
  (List.range 8).all fun p => !s.zng.portEn.getLsbD p || (portOf s p).phase == .active || (portOf s p).phase == .lost

/-- A port reaches ACTIVE (R321, R329, R342, R358, R371): with its link state new, it advertises 512 REQ and 64 CTL units; queue 0 is configured, and its function runs where a start asked for it. -/
def portUp (p : Nat) (latency : Nat) (credits : Option (Nat × Nat)) (s : State) : State :=
  let x := portOf s p
  let fresh := !x.keep
  let q0 := look {} x.queues 0
  let q0 := { q0 with configured := true, ring := if q0.configured then q0.ring else p * 2 ^ 21 }
  let x := { x with
    phase := .active, attempts := 0, fails := 0, off := false, keep := false, latency := BitVec.ofNat 16 (min latency 0xFFFF)
    queues := put {} 0 q0 x.queues
    func := if x.func = .starting then .running else x.func }
  let x := if fresh then { x with
      txSeq := 0, ack := 0, unacked := [], tx := [], stream := [], naks := 0, nakAt := none
      creditReq := credits.elim 0 (·.1), creditCtl := credits.elim 0 (·.2) } else x
  let s := raise 0x0901 p [] (setPort p x s)
  let s := if fresh then emit (.credits p 512 64) s else s
  let s := if x.func = .running then finishAll (.start (8 + p)) stOk s else s
  pumpHost (pump p s)

/-- LINKUP runs (R324, R329): the adapter advertises its credits and delivers the peer ID; `trip` is the round trip in cycles.
(DEDUCED, assumption log 75) -/
def linkUp (p peer req ctl trip : Nat) (s : State) : State :=
  let x := portOf s p
  if x.phase ≠ .linkup then s
  else if !x.keep && (decide (req < 64) || decide (ctl < 16)) then failAttempt p s
  else if (expectedPeer s).any (· != peer) then endTakeover (failAttempt p (raise 0x090C p [] s))
  else
    let s := if s.zng.peerSet then s else { s with zng := { s.zng with peerId := BitVec.ofNat 32 peer, peerSet := true } }
    endTakeover (portUp p (trip / 2) (some (req, ctl)) s)

/-- TRAINING_TIMEOUT (R321): a phase exceeds its limit. (DEDUCED, assumption log 75) -/
def execTrainingTimeout (p : Nat) (s : State) : Host.Outcome State Fault Refusal :=
  let ph := (portOf s p).phase
  .next (if ph = .detect ∨ ph = .equalise ∨ ph = .align ∨ ph = .linkup then failAttempt p s else s)

/-! ### Retraining (R325) -/

/-- A retrain begins; the record carries the cause, by its place in R325's list.
(DESIGN CHOICE, assumption log 33) (DEDUCED, assumption log 75) -/
def startRetrain (p cause : Nat) (lane : Option Nat) (s : State) : State :=
  let x := portOf s p
  if x.phase ≠ .active then s
  else
    let s := setPort p { x with
      phase := .retrain, cause := cause, swap := lane, naks := 0
      retrains := if x.retrains = 0xFF then x.retrains else x.retrains + 1 } s
    raise 0x0902 p [(1, Config.causeCode 0x0902 cause)] s

/-- CODEWORD_LOCK_LOST (R325). -/
def execCodewordLockLost (p : Nat) (s : State) : Host.Outcome State Fault Refusal := .next (startRetrain p 1 none s)

/-- RETRAIN_REQUEST (R325). -/
def execRetrainRequest (p : Nat) (s : State) : Host.Outcome State Fault Refusal := .next (startRetrain p 2 none s)

/-- Corrected symbols attributed to a physical lane within the last second (R325). -/
def laneSymbols (s : State) (p lane : Nat) : Nat :=
  ((portOf s p).laneCorr.filter fun e => e.2.1 == lane && decide (s.now < e.1 + second)).foldl (fun n e => n + e.2.2) 0

/-- LANE_CE_LIMIT (R325): a physical lane's corrected symbols of one second have reached the limit; 0 disables it. -/
def execLaneCeLimit (p lane : Nat) (s : State) : Host.Outcome State Fault Refusal :=
  .next (if s.zng.laneCe ≠ 0 ∧ s.zng.laneCe.toNat ≤ laneSymbols s p lane ∧ (portOf s p).spare = false ∧ lane < 5 then
      startRetrain p 3 (some lane) s
    else s)

/-- Every DATA flit from ACK + 1 on is sent again (R325, R327). -/
def resend (p : Nat) (s : State) : State :=
  (portOf s p).unacked.foldl (fun s f => emit (.flit p (flitBytes f.1 (portOf s p).ack 1 f.2)) s) s

/-- A retrain ends (R325): ALIGN and LINKUP have run again; `bad` and `peer` are as they gave them. A retrain that fails is tried
again, three times in a row. -/
def retrainEnds (p : Nat) (bad : BitVec 5) (peer trip : Nat) (s : State) : State :=
  let x := portOf s p
  if x.phase ≠ .retrain then s
  else
    let bad := bad ||| x.swap.elim 0 fun n => BitVec.ofNat 5 (2 ^ n)
    let again (s : State) : State :=
      if x.fails + 1 < 3 then startRetrain p x.cause x.swap (setPort p { x with phase := .active, fails := x.fails + 1 } s)
      else losePort p false s
    match selectSpare bad x with
    | none => again s
    | some (y, took) =>
      if (expectedPeer s).any (· != peer) then again (raise 0x090C p [] s)
      else
        let s := setPort p { y with phase := .active, fails := 0, swap := none, latency := BitVec.ofNat 16 (min (trip / 2) 0xFFFF) } s
        let s := raise 0x0901 p [] s
        let s := if took then raise 0x0903 p [] s else s
        pumpHost (pump p (resend p s))

/-! ### Flits (R326, R327) -/

/-- An IDLE or NAK flit leaves with the port's ACK; it carries no sequence number, so its SEQ is a free value. -/
def sendPlain (p typ : Nat) (s : State) : State :=
  let (s, v) := draw s
  emit (.flit p (flitBytes v (portOf s p).ack typ [])) s

/-- A NAK, unless one has been sent and the flit that it asks for has not come (R327). -/
def sendNak (p : Nat) (s : State) : State :=
  let x := portOf s p
  if x.nakAt.isSome then s else sendPlain p 2 (setPort p { x with nakAt := some s.now } s)

/-- Flits up to an acknowledged SEQ leave the replay buffer; whether any did. (DEDUCED, assumption log 72) -/
def dropAcked (a : Nat) (u : List (Nat × List Byte)) : List (Nat × List Byte) × Bool :=
  if u.any fun f => f.1 == a then ((u.dropWhile fun f => f.1 != a).drop 1, true) else (u, false)

/-- The ACK of a flit is taken (R327): what it acknowledges leaves the replay buffer. (DEDUCED, assumption log 72) -/
def dropAck (p a : Nat) (s : State) : State :=
  let x := portOf s p
  let (u, moved) := dropAcked a x.unacked
  setPort p { x with unacked := u, naks := if moved then 0 else x.naks } s

/-- The ACK of a flit is taken, and new flits leave (R327). -/
def takeAck (p a : Nat) (s : State) : State := pump p (dropAck p a s)

/-- The decoder's counts behind a flit: corrected symbols by physical lane, and uncorrectable codewords (R319, R325). -/
def countFec (p : Nat) (corr : List Nat) (uncorr : Nat) (s : State) : State :=
  let x := portOf s p
  let new := corr.zipIdx.filterMap fun e => if e.1 = 0 then none else some (s.now, e.2, e.1)
  setPort p { x with
    corr := BitVec.ofNat 48 (min (x.corr.toNat + corr.foldl (· + ·) 0) (2 ^ 48 - 1))
    laneCorr := (x.laneCorr.filter fun e => decide (s.now < e.1 + second)) ++ new
    uncorr := BitVec.ofNat 16 (min (x.uncorr.toNat + uncorr) 0xFFFF) } s

/-- A flit that is not taken: a bad CRC, or an uncorrectable codeword under it (R319, R327). -/
def badFlit (p : Nat) (s : State) : State :=
  let x := portOf s p
  sendNak p (setPort p { x with crcErr := BitVec.ofNat 32 (min (x.crcErr.toNat + 1) 0xFFFFFFFF) } s)

/-- A flit's CRC matches and no uncorrectable codeword overlaps it. -/
def flitGood (bytes : List Byte) (uncorr : Nat) : Bool :=
  bytes.length == 256 && uncorr == 0 && fld bytes 252 4 == crc32c (bytes.take 252)

/-- SEQ of a flit. (DEDUCED, assumption log 72) -/
def flitSeq (bytes : List Byte) : Nat := fld bytes 0 4 % 4096
/-- ACK of a flit. (DEDUCED, assumption log 72) -/
def flitAck (bytes : List Byte) : Nat := bits (fld bytes 0 4) 23 12
/-- TYPE of a flit. -/
def flitType (bytes : List Byte) : Nat := bits (fld bytes 0 4) 27 24

/-- IDLE_FLIT (R327): it carries the far side's latest ACK. -/
def execIdleFlit (p : Nat) (bytes : List Byte) (corr : List Nat) (uncorr : Nat) (s : State) : Host.Outcome State Fault Refusal :=
  if portActive s p then
    let s := countFec p corr uncorr s
    .next (if flitGood bytes uncorr then (if flitType bytes = 0 then takeAck p (flitAck bytes) s else s) else badFlit p s)
  else .next s

/-- NAK (R327): the transmitter resends from ACK + 1; the eighth without progress makes the port retrain (R325). -/
def execNak (p : Nat) (bytes : List Byte) (corr : List Nat) (uncorr : Nat) (s : State) : Host.Outcome State Fault Refusal :=
  if portActive s p then
    let s := countFec p corr uncorr s
    if !flitGood bytes uncorr then .next (badFlit p s)
    else if flitType bytes ≠ 2 then .next s
    else
      let s := dropAck p (flitAck bytes) s
      let x := portOf s p
      let s := setPort p { x with naks := x.naks + 1, replays := BitVec.ofNat 32 (min (x.replays.toNat + 1) 0xFFFFFFFF) } s
      .next (if 8 ≤ x.naks + 1 then startRetrain p 0 none s else pump p (resend p s))
  else .next s

/-- NAK_HOLDOFF_EXPIRY (R327): 2 µs after a NAK another may be sent. -/
def execNakHoldoffExpiry (p : Nat) (s : State) : Host.Outcome State Fault Refusal :=
  match (portOf s p).nakAt with
  | some t => .next (let s := passNow (t + 2 * micro) s; setPort p { portOf s p with nakAt := none } s)
  | none => .next s

/-- ACK_FLIT_INTERVAL (R327): a flit carries the ACK at least once every 64 flit times. -/
def execAckFlitInterval (p : Nat) (s : State) : Host.Outcome State Fault Refusal :=
  .next (if portActive s p then sendPlain p 0 s else s)

/-! ### Credits (R329) -/

/-- A malformed transaction: the far end has failed (R332). (DEDUCED, assumption log 73) -/
def malformed (p : Nat) (s : State) : State := losePort p false (raise 0x090D p [] s)

/-- CRD (R329): units of class 0 (REQ) or 2 (CTL) come back. -/
def execCrd (p cls units : Nat) (s : State) : Host.Outcome State Fault Refusal :=
  let x := portOf s p
  if !portCarries s p then .next s
  else if cls = 0 then .next (pump p (setPort p { x with creditReq := x.creditReq + units } s))
  else if cls = 2 then .next (pump p (setPort p { x with creditCtl := x.creditCtl + units } s))
  else .next (malformed p s)

/-- The credits of a transaction go back once its space is free (R329). (DEDUCED, assumption log 74) -/
def returnCredits (p : Nat) (cls : Option Nat) (size : Nat) (s : State) : State :=
  match cls with
  | some c => if portCarries s p then sendTxn p 3 (txnHead 0x01 0 0 16 [(4, 1, c), (6, 2, ceilDiv size 64)]) s else s
  | none => s

/-- The oldest transaction that waits for credits alone. -/
def starved (x : Port) : Option Txn :=
  x.waiting.find? fun t => (t.cls == 0 && decide (x.creditReq < unitsOf t)) || (t.cls == 2 && decide (x.creditCtl < unitsOf t))

/-- CREDIT_STALL (R329): a transaction has waited for credits longer than CREDIT_TO. -/
def execCreditStall (p : Nat) (s : State) : Host.Outcome State Fault Refusal :=
  if portActive s p then
    match starved (portOf s p) with
    | some t => .next (losePort p false (raise 0x0905 p [] (passNow (t.since + 4096 * max 1 s.zng.creditTo.toNat) s)))
    | none => .next s
  else .next s

/-! ### The window (R333 to R337) -/

/-- The area of Table 12.4 in which an offset lies: a doorbell, reserved, or a ring; none beyond the window.
(DEDUCED, assumption log 78) -/
def windowArea (off : Nat) : Option Nat :=
  if off < 0x40 then some (off / 8)
  else if off < 0x1000 then none
  else if off < 0x2000 then some 8
  else if off < 0x10000 then some (8 + off / 0x2000)
  else none

/-- A doorbell (R336). (DEDUCED, assumption log 78) -/
def windowBell (p q v : Nat) (s : State) : State :=
  let w := winQ s p q
  let d := (BitVec.ofNat 32 v - w.head).toNat
  let t := (w.tail - w.head).toNat
  if !w.configured || decide (winEntries q < d) then raise 0x0907 p [] s
  else setWinQ p q { w with tail := if t < d then BitVec.ofNat 32 v else w.tail, halted := false } s

/-- A window write lands as a whole, or is refused (R331, R334). -/
def winWrite (p off : Nat) (data : List Byte) (s : State) : State :=
  let n := data.length
  if !portCarries s p then s
  else if n = 0 ∨ 1024 < n ∨ n % 4 ≠ 0 ∨ off % 4 ≠ 0 then malformed p s
  else match windowArea off, windowArea (off + n - 1) with
    | some a, some b =>
      if a ≠ b ∨ (a < 8 ∧ n ≠ 8) then raise 0x0907 p [] s
      else if a < 8 then windowBell p a (leNat data) s
      else setPort p { portOf s p with window := setBytes (portOf s p).window off data } s
    | _, _ => raise 0x0907 p [] s

/-- WIN_WR (R329, R331, R334): its credits go back. -/
def execWinWr (p off : Nat) (data : List Byte) (s : State) : Host.Outcome State Fault Refusal :=
  .next (returnCredits p (some 0) (16 + ceilDiv data.length 8 * 8) (winWrite p off data s))

/-- WINDOW_DOORBELL (R329, R336): a doorbell of queue q carries v; its credits go back. -/
def execWindowDoorbell (p q : Nat) (v : Word64) (s : State) : Host.Outcome State Fault Refusal :=
  .next (if portCarries s p && decide (q < 8) then returnCredits p (some 0) 24 (windowBell p q v.toNat s) else s)

/-- The window offset of the slot at HEAD (Table 12.4). -/
def slotOff (q head : Nat) : Nat := (if q = 0 then 0x1000 else 0x2000 * q) + 64 * (head % winEntries q)

/-- A window descriptor's opcode and arguments pass their command's checks (Tables 12.5, 12.6): the status where they do not.
(DEDUCED, assumption log 78) -/
def descFail (d : List Byte) : Option Nat :=
  let op := fld d 0 1
  if op = 0 ∨ 4 < op then some stBadOpcode
  else if fld d 1 1 ≠ 0 ∨ fld d 3 1 ≠ 0 ∨ 4 ≤ fld d 2 1 then some stBadArg
  else if op ≤ 2 ∧ (fld d 24 8 = 0 ∨ 2 ^ 32 < fld d 24 8) then some stBadArg
  else none

/-- A descriptor as a command of its queue. -/
def cmdOf (d : List Byte) : WinCmd :=
  { seq := fld d 4 4, op := fld d 0 1, irq := (fld d 2 1).testBit 0, fence := (fld d 2 1).testBit 1, tag := fld d 56 4
    arg0 := fld d 8 8, arg1 := fld d 16 8, arg2 := fld d 24 8 }

/-- A valid slot is taken (R337, R358): queue 0's is the request of the port's mailbox and its doorbell. -/
def takeSlot (p q : Nat) (d : List Byte) (s : State) : State :=
  let w := winQ s p q
  let s := setWinQ p q { w with head := w.head + 1, tries := 0 } s
  if q = 0 then ringBell p (setMb p { mbOf s p with bytes := setBytes (mbOf s p).bytes 0 d } s)
  else
    let s := setWinQ p q { winQ s p q with cmds := (winQ s p q).cmds ++ [cmdOf d] } s
    match descFail d with
    | some st => recordArises p q (fld d 4 4) st s
    | none => s

/-- A slot that no read has found valid (R337): a record with STALE, and the queue is HALTED.
(DEDUCED, assumption log 80) -/
def staleSlot (p q : Nat) (d : List Byte) (s : State) : State :=
  let w := winQ s p q
  let c : WinCmd := { seq := w.head.toNat, op := 0, irq := false, fence := false, tag := fld d 56 4, arg0 := 0, arg1 := 0, arg2 := 0 }
  let s := setWinQ p q { w with halted := true, tries := 0, cmds := w.cmds ++ [c] } s
  recordArises p q c.seq stStale (raise 0x0906 p [] s)

/-- The slot at HEAD is read, all 64 bytes at once, and judged (R337). -/
def readSlot (p q : Nat) (s : State) : State :=
  let w := winQ s p q
  let d := getBytes (portOf s p).window (slotOff q w.head.toNat) 64
  if fld d 4 4 = w.head.toNat ∧ fld d 60 4 = crc32c (d.take 60) then takeSlot p q d s
  else if 9 ≤ w.tries + 1 then staleSlot p q d s
  else setWinQ p q { w with tries := w.tries + 1 } s

/-- The command processor reads queue q of port p: HEAD differs from TAIL, and queue 0's mailbox is free (R337, R358). -/
def mayRead (s : State) (p q : Nat) : Bool :=
  let w := winQ s p q
  portCarries s p && decide (q < 8) && w.configured && !w.halted && w.head != w.tail && (q != 0 || (mbOf s p).state == .idle)

/-- SLOT_READ (R337). -/
def execSlotRead (p q : Nat) (s : State) : Host.Outcome State Fault Refusal :=
  .next (if mayRead s p q && (winQ s p q).tries == 0 then readSlot p q s else s)

/-- SLOT_REREAD (R337): 250 ns after an invalid read. -/
def execSlotReread (p q : Nat) (s : State) : Host.Outcome State Fault Refusal :=
  .next (if mayRead s p q && (winQ s p q).tries != 0 then readSlot p q (pass 1000 s) else s)

/-! ### The commands of Table 12.6 (R338 to R340) -/

/-- A command may start: those before it have, and with FENCE their work has ended (R335, R338).
(DEDUCED, assumption log 79) -/
def mayBegin (w : WinQ) (c : WinCmd) : Bool :=
  let before := w.cmds.takeWhile fun x => x != c
  !c.begun && c.status.isNone && before.all fun x => (x.begun || x.status.isSome) && (!c.fence || x.status.isSome)

/-- The source and destination of a PULL or PUSH, as physical addresses. -/
def moveEnds (c : WinCmd) : Nat × Nat := if c.op = 1 then (hostBase + c.arg1, c.arg0) else (c.arg0, hostBase + c.arg1)

/-- A PULL or PUSH starts on an islet's ferry (R339): checked as a COPY of the queue's context, and its source is read.
(DEDUCED, assumption log 79) -/
def beginMove (p q islet : Nat) (c : WinCmd) (s : State) : State :=
  let x := (winQ s p q).context
  let (src, dst) := moveEnds c
  let fail (st : Nat) (s : State) : State := recordArises p q c.seq st (checkedAgain x (workWindow p q) s)
  match rangesVerdict s x [(src, c.arg2, true, false), (dst, c.arg2, false, true)] with
  | .ok =>
    fetchRun (.command p q c.seq) (src, c.arg2)
      (checkedAgain x (workWindow p q) (setWinCmd p q c.seq (fun c => { c with begun := true, islet := islet }) s))
  | .bound => fail stDenied s
  | .denied g lock => fail stDenied (refusePage x (g * 2 ^ 21) lock s)
  | .fault g => workFault (workWindow p q) x g s
  | .wait => s

/-- A PULL or PUSH moves its bytes as a COPY does, once its source can be read and no channel of it makes requests wait (R240, R339). -/
def moveBytes (p q : Nat) (c : WinCmd) (s : State) : State :=
  let use : HostUse := .command p q c.seq
  let (src, dst) := moveEnds c
  if openUses s use || !((linePieces src c.arg2).all (pieceReady s use)) || memWaits s src c.arg2 || memWaits s dst c.arg2 then s
  else
    let (s, bs, bad) := readRun use (whoFerry c.islet) (src, c.arg2) s
    let s := setWinCmd p q c.seq (fun c => { c with bytes := c.arg2, bad := !bad.isEmpty }) s
    let s := setBuf use none (poisonRun dst bad (writeRun use (winQ s p q).context (whoFerry c.islet) dst bs s))
    settleWin p q c.seq s

/-- The next stage of a PULL or PUSH of a queue: its start on an islet's ferry, its move, or its end. One whose islet was fenced ends with
STATE, its bytes not moved (R161). (DESIGN CHOICE, assumption log 151) -/
def moveCommand (op p q seq islet : Nat) (s : State) : State :=
  match winCmd s p q seq with
  | none => s
  | some c =>
    if c.op != op || c.status.isSome then s
    else if !c.begun then
      if mayBegin (winQ s p q) c && s.fry.func == .running && freeWork s
          && mayCheck s (winQ s p q).context (workWindow p q) && (isletOf s islet).state == .active && !moveReady s islet then
        beginMove p q islet c s
      else s
    else if c.aborted then recordArises p q seq stState (setBuf (.command p q seq) none s)
    else if c.bytes = 0 then moveBytes p q c s
    else settleWin p q seq s

/-- PULL (R339). -/
def execPull (p q : Nat) (m : MoveOn) (s : State) : Host.Outcome State Fault Refusal := .next (moveCommand 1 p q m.seq m.islet s)

/-- PUSH (R339). -/
def execPush (p q : Nat) (m : MoveOn) (s : State) : Host.Outcome State Fault Refusal := .next (moveCommand 2 p q m.seq m.islet s)

/-- FLUSH (R338, R345). -/
def execFlush (p q seq : Nat) (s : State) : Host.Outcome State Fault Refusal :=
  match winCmd s p q seq with
  | some c =>
    if c.op = 3 ∧ mayBegin (winQ s p q) c = true then
      .next (startFlush (.command p q seq) (setWinCmd p q seq (fun c => { c with begun := true }) s))
    else .next s
  | none => .next s

/-- NOP (R338). -/
def execNop (p q seq : Nat) (s : State) : Host.Outcome State Fault Refusal :=
  match winCmd s p q seq with
  | some c =>
    if c.op = 4 ∧ mayBegin (winQ s p q) c = true then
      .next (recordArises p q seq stOk (setWinCmd p q seq (fun c => { c with begun := true }) s))
    else .next s
  | none => .next s

/-! ### Placement (R343) -/

/-- The first page of a placement that the check of R260 refuses, with the registering context, or with a group as owner.
(DEDUCED, assumption log 82) -/
def placeRefused (s : State) (r : PlaceH) (off n : Nat) : Option Nat :=
  (pagesOf (r.base + off) n).find? fun pg =>
    if r.owner < 65536 then pageCheck s r.owner pg true != .served
    else
      let t := tag s pg
      !(t.res == .resident && t.shared && t.owner.toNat == r.owner - 65536 && !t.lock)

/-- A refused placement's page is recorded as R260 records it. (DEDUCED, assumption log 82) -/
def recordRefused (s : State) (h off n : Nat) : State :=
  match placed s h with
  | none => s
  | some r =>
    if r.bytes < off + n ∨ 65536 ≤ r.owner then s
    else match placeRefused s r off n with
      | some pg => refusePage r.owner (max (pg * 2 ^ 21) (r.base + off)) (pageCheck s r.owner pg true == .locked) s
      | none => s

/-- The decision of R343: the status. -/
def placeStatus (s : State) (h off n : Nat) : Nat :=
  match placed s h with
  | none => 1
  | some r =>
    if r.bytes < off + n then 2
    else if (placeRefused s r off n).isNone then 0
    else 3

/-- PLACE_RSP (Table 12.3). -/
def placeRsp (p h tag_ status : Nat) (s : State) : State :=
  sendTxn p 1 (txnHead 0x04 0 0 16 [(4, 2, h), (6, 2, tag_), (8, 1, status)]) s

/-- What follows a placement in the module's own guest area: a partner's request (R400), or the header of a restore (R401). -/
def afterPlace (h off n : Nat) (s : State) : State :=
  match ownGuest s with
  | some g => if off < 64 ∧ h = g then serveRequest s else if off < 512 ∧ 512 ≤ off + n ∧ h = g + 3 then checkLanding s else s
  | none => s

/-- A placed byte whose parity fails: its block is written poisoned (R231). -/
def badPlace (a : Nat) (s : State) : State :=
  if !backed s.cfg a || (chan s (chanOf s a)).state == .lost then s
  else parityEvent (blockOf a) (poisonBlock (blockOf a) s)

/-- A placement (R331, R343) is checked and written, or refused; one to a channel that makes its requests wait waits (R240, R242). `bad` is a
payload byte whose parity fails (R231). (DEDUCED, assumption log 82) -/
def placeNow (p h tag off : Nat) (ackReq : Bool) (bad : Option Nat) (data : List Byte) (s : State) : State :=
  let n := data.length
  match placeStatus s h off n, placed s h with
    | 0, some r =>
      if memWaits s (r.base + off) n then { s with zng := { s.zng with placing := s.zng.placing ++ [⟨p, h, tag, off, ackReq, bad, data⟩] } }
      else
      let s := writeMem (whoPlace p) (r.base + off) data s
      let s := match bad with
        | some i => badPlace (r.base + off + i) s
        | none => s
      afterPlace h off n (if ackReq then placeRsp p h tag 0 s else s)
    | st, _ => placeRsp p h tag st (raise 0x0908 p [] (recordRefused s h off n))

/-- A placement arrives (R331, R343). -/
def place (p h tag off : Nat) (ackReq : Bool) (bad : Option Nat) (data : List Byte) (s : State) : State :=
  let n := data.length
  if !portCarries s p then s
  else if n = 0 ∨ 1024 < n then malformed p s
  else placeNow p h tag off ackReq bad data s

/-- The placements that wait for their channels are looked at again, in arrival order (R240, R242). -/
def retryPlaces (s : State) : State :=
  s.zng.placing.foldl (fun s w => placeNow w.port w.handle w.tag w.off w.ack w.bad w.data s) { s with zng := { s.zng with placing := [] } }

/-- PLACE (R329, R331, R343): its credits go back. -/
def execPlace (p h tag off : Nat) (ackReq : Bool) (bad : Option Nat) (data : List Byte) (s : State) :
    Host.Outcome State Fault Refusal :=
  .next (returnCredits p (some 0) (16 + ceilDiv data.length 8 * 8) (place p h tag off ackReq bad data s))

end Sys2Proof.Machine
end

