-- ==== Sys2Proof/Machine/Channels.lean ====
section
/-! DEFINITION. Channels that take requests again: the end of a primary calibration (R240), of a margin scan (R242) and of a channel
(R248), and what then goes on. -/

namespace Sys2Proof.Machine

/-- Channels serve again: the requests at their controllers, the ring transactions and the placements that waited for them (R240, R242). -/
def channelsServe (s : State) : State := retryPlaces (retryRing (releaseTracked s))

/-- PRIMARY_CALIBRATION (R240): a channel's calibration of the maintenance crossing ends. -/
def execPrimaryCalibration (chan : Nat) (s : State) : Host.Outcome State Fault Refusal :=
  let ch := Sys2Proof.Machine.chan s chan
  if ch.busy then
    let s := setChan chan { ch with busy := false, calAt := s.now } s
    .next (channelsServe (endFallback { s with mem := { s.mem with calLast := s.xng.cycle, maintAt := s.xng.cycle.toNat } }))
  else .next s

/-- CHANNEL_LOST (R248, R405): a channel that stops answering, with what its buffer held; the module fails. -/
def execChannelLost (chan : Nat) (s : State) : Host.Outcome State Fault Refusal :=
  let ch := Sys2Proof.Machine.chan s chan
  if ch.state = .active ∨ ch.state = .retirePending then
    let s := setWc chan [] (setChan chan { ch with state := .lost, busy := false } s)
    .next (failModule 1 (raise 0x060C chan [] (channelsServe s)))
  else .next s

/-- MARGIN_SCAN_DONE (R242 to R244): the scan in progress ends with the steps that passed, after primary calibration.
(DEDUCED, assumption log 36, 98) -/
def execMarginScanDone (tLeft tRight vLow vHigh : Nat) (s : State) : Host.Outcome State Fault Refusal :=
  match s.mem.scanning with
  | some x =>
    if s.mode ≠ .train ∧ (s.mem.chans.any fun c => c.2.busy) = true then .next s
    else
      let (s, low) := marginVerdict x.kind tLeft tRight vLow vHigh s
      let s := { s with mem := { s.mem with scanning := none, scanMoved := none, maintAt := s.xng.cycle.toNat } }
      let rec_ := marginRecord x tLeft tRight vLow vHigh low s.xng.cycle.toNat
      let s := if low then marginLow x s else s
      let s := if x.mailbox < 16 then complete x.mailbox stOk [] rec_ s else s
      .next (channelsServe (nextScan s))
  | none => .next s

end Sys2Proof.Machine
end

