-- ==== Sys2Proof/Machine/Security.lean ====
section
/-! DEFINITION. Boot integrity, identity and attestation (R425 to R437). -/

namespace Sys2Proof.Machine

/-! ### Signed images (R425, R426) -/

/-- Most bytes of a bank. -/
def bankBytes : Nat := 33554432

/-- A firmware bank, by kind (1 or 2) and bank (false A, true B). -/
def bankOf (s : State) (kind : Nat) (b : Bool) : SMap Byte := look [] s.flash.banks (2 * kind + b2n b)

/-- BODY_BYTES of a header. -/
def imgBody (h : List Byte) : Nat := fld h 24 8

/-- The header condition of R426 for a kind. -/
def imgHeaderOk (kind : Nat) (h : List Byte) : Bool :=
  fld h 0 4 == 0x49574650 && fld h 4 2 == 1 && fld h 6 1 == kind && decide (1 ≤ imgBody h) && decide (imgBody h ≤ 33546240)
    && zeroAt h 10 6 && zeroAt h 48 16 && zeroAt h 7347 845

/-- LOAD and ENTRY of R426. -/
def imgLoadOk (kind : Nat) (h : List Byte) : Bool :=
  let load := fld h 32 8
  let n := imgBody h
  (if kind = 1 then decide (load + n ≤ Config.harbourSram) else homeOf load == 0 && decide (load + n ≤ reservedStart))
    && within (fld h 40 8) 1 load n

/-- The reason code of the first condition of R426 that fails. -/
def imageFail (s : State) (kind : Nat) (m : SMap Byte) : Option Nat :=
  let h := getBytes m 0 8192
  if !imgHeaderOk kind h then some 1
  else if fld h 7 1 > 3 || sha3 (slice h 128 2592) != look [] s.flash.keys (fld h 7 1) then some 2
  else if !Config.mldsaVerify (slice h 128 2592) (sha3 (h.take 2720)) (ascii "PRACOR-FW") (slice h 2720 4627) then some 3
  else if fld h 8 2 < look 0 s.flash.rollback kind then some 4
  else if sha3 (getBytes m 8192 (imgBody h)) != slice h 64 64 then some 5
  else if !imgLoadOk kind h then some 6
  else none

/-! ### The boot chain (R428) -/

/-- The banks of a kind in the order in which they are tried. (DEDUCED, assumption log 87) -/
def bankOrder (s : State) (kind : Nat) : List Bool :=
  match look none s.flash.prefer kind with
  | some b => [b, !b]
  | none => [false, true]

/-- A bank as it is to be checked (R428): kind 1 is copied into Harbour SRAM, kind 2 stays in flash. -/
def openBank (kind : Nat) (b : Bool) (s : State) : State :=
  if kind = 1 then { s with sec := { s.sec with sram := bankOf s 1 b } } else s

/-- The bytes that a check reads (R428): the copy in Harbour SRAM, or the bank. -/
def checkedBank (s : State) (kind : Nat) (b : Bool) : SMap Byte := if kind = 1 then s.sec.sram else bankOf s kind b

/-- The banks of a kind are checked until one passes. (DEDUCED, assumption log 87) -/
def tryBanks (kind : Nat) : List Bool → State → State
  | [], s => s
  | b :: rest, s =>
    let s := openBank kind b s
    match imageFail s kind (checkedBank s kind b) with
    | some r => tryBanks kind rest (raise 0x0D01 kind [(1, b2n b), (1, r)] s)
    | none =>
      let h := getBytes (checkedBank s kind b) 0 8192
      let s := { s with sec := { s.sec with
        bank := put none kind (some b) s.sec.bank, svn := put 0 kind (fld h 8 2) s.sec.svn
        version := put 0 kind (fld h 16 8) s.sec.version, meas := put [] kind (sha3 (h.take 2720)) s.sec.meas } }
      match look none s.flash.prefer kind with
      | some p => if p = b then s
        else raise 0x0D02 kind [] { s with sec := { s.sec with fallback := put false kind true s.sec.fallback } }
      | none => s

/-- The bank of a kind that passed. -/
def runningBank (s : State) (kind : Nat) : Option Bool := look none s.sec.bank kind

/-- The identity key goes into the signing engine, and the UDS fuses are locked (R435). -/
def deriveIdentity (s : State) : State :=
  { s with sec := { s.sec with engine := (sha3 (ascii "PRACOR-ID" ++ s.flash.uds)).take 32, udsLock := true } }

/-- The mask ROM's work (R428): both kinds are checked and measured, and the identity key is derived. -/
def bootCheck (s : State) : State :=
  let s := { s with sec := { s.sec with meas := put [] 0 Config.romDigest s.sec.meas } }
  let s := tryBanks 1 (bankOrder s 1) s
  deriveIdentity (tryBanks 2 (bankOrder s 2) s)

/-! ### Identity (R435, R436) -/

/-- The public key of the pair that the signing engine holds (R435). -/
def identityKey (s : State) : List Byte := Config.mldsaPublic s.sec.engine

/-- A number whose most significant byte comes first. -/
def beNat (bs : List Byte) : Nat := bs.foldl (fun n b => 256 * n + b.toNat) 0

/-- The first item of a DER text (R436): its tag, its contents, and what follows it. (PRESUMED, assumption log 152) -/
def derItem : List Byte → Option (Nat × List Byte × List Byte)
  | tag :: len :: rest =>
    let more := if len.toNat < 128 then 0 else len.toNat - 128
    let n := if len.toNat < 128 then len.toNat else beNat (rest.take more)
    let body := rest.drop more
    if len ≠ 128 ∧ more ≤ rest.length ∧ n ≤ body.length then some (tag.toNat, body.take n, body.drop n) else none
  | _ => none

/-- The contents of the first item, where it has a tag. (PRESUMED, assumption log 152) -/
def derBody (tag : Nat) (bs : List Byte) : Option (List Byte) := (derItem bs).bind fun x => if x.1 = tag then some x.2.1 else none

/-- What follows the first item, where it has a tag. (PRESUMED, assumption log 152) -/
def derSkip (tag : Nat) (bs : List Byte) : Option (List Byte) := (derItem bs).bind fun x => if x.1 = tag then some x.2.2 else none

/-- The public key of an X.509 v3 certificate's body (R436): after the version, the serial number, the algorithm, the issuer, the
validity and the subject comes the key's own algorithm, and then the key, a string of whole bytes. (PRESUMED, assumption log 152) -/
def tbsKey (tbs : List Byte) : Option (List Byte) :=
  let past := [0xA0, 0x02, 0x30, 0x30, 0x30, 0x30].foldl (fun r tag => r.bind (derSkip tag)) (some tbs)
  (((past.bind (derBody 0x30)).bind (derSkip 0x30)).bind (derBody 0x03)).bind fun k =>
    match k with
    | 0 :: key => some key
    | _ => none

/-- The public key in the device certificate, the first of the chain (R436); none where the chain cannot be read.
(PRESUMED, assumption log 152) -/
def certKey (chain : List Byte) : Option (List Byte) :=
  (((derSkip 0x30 chain).bind (derBody 0x30)).bind fun _ => (derBody 0x30 chain).bind (derBody 0x30)).bind tbsKey

/-- The device certificate is compared with the signing engine's key (R436). -/
def checkIdentity (s : State) : State :=
  if certKey s.flash.cert = some (identityKey s) then { s with sec := { s.sec with identity := true } }
  else raise 0x0D08 noSubject [] { s with sec := { s.sec with identity := false } }

/-- GET_CERT (R436): a slice of the chain, and its length. (DEDUCED, assumption log 88) -/
def execGetCert (m : Nat) (s : State) : Host.Outcome State Fault Refusal :=
  .next (mbCommand 0x79 m (fun x s => complete m stOk [s.flash.cert.length] (slice s.flash.cert (mbArg x 0) 1984) s) s)

/-! ### Attestation (R437) -/

/-- TTU_STATUS's code of an image slot (Table 2.16). -/
def slotStateCode : SlotState → Nat
  | .empty => 0 | .loading => 1 | .admitted => 2 | .rejected => 3

/-- IMAGE_DIGEST of a slot that is ADMITTED, else zero. -/
def slotDigest (sl : ImgSlot) : List Byte := if sl.state = .admitted then sl.image.elim (zeros 64) (·.digest) else zeros 64

/-- ISL and configuration ordering code (R366). -/
def codeOf (c : Cfg) : Nat := match c with
  | .sk3_4a => 0
  | .sk3_2a => 1

/-- A measurement (R428). -/
def measOf (s : State) (k : Nat) : List Byte := padTo 64 (look [] s.sec.meas k)

/-- SEC_ROLLBACK (Table 16.4). -/
def rollbackWord (s : State) : Nat :=
  look 0 s.flash.rollback 1 + 2 ^ 8 * look 0 s.flash.rollback 2 + 2 ^ 16 * (look 0 s.sec.svn 1 % 256)
    + 2 ^ 24 * (look 0 s.sec.svn 2 % 256)

/-- Report bytes 0 to 639 (Table 16.2). -/
def reportBody (s : State) (nonce : List Byte) : List Byte :=
  toLE 4 0x52545441 ++ toLE 2 1 ++ zeros 2 ++ toLE 8 s.flash.serial ++ toLE 4 s.zng.peerId.toNat ++ toLE 1 (codeOf s.cfg)
    ++ toLE 1 (modeCode s.mode) ++ toLE 1 (b2n (look false s.sec.fallback 1) + 2 * b2n (look false s.sec.fallback 2)) ++ zeros 1
    ++ toLE 8 s.xng.tick.toNat ++ toLE 4 s.log.minutes.toNat ++ toLE 4 s.log.powers.toNat ++ toLE 8 (rollbackWord s)
    ++ toLE 8 (look 0 s.sec.version 1) ++ toLE 8 (look 0 s.sec.version 2) ++ padTo 64 nonce
    ++ measOf s 0 ++ measOf s 1 ++ measOf s 2 ++ measOf s 3 ++ slotDigest (actSlot s) ++ slotDigest (shadowSlot s)
    ++ toLE 1 (slotStateCode (actSlot s).state) ++ toLE 1 (slotStateCode (shadowSlot s).state) ++ toLE 1 (funcCode s.ttu.func)
    ++ toLE 1 (b2n s.ttu.resumable) ++ toLE 2 (inService s) ++ zeros 10 ++ sha3 (identityKey s) ++ zeros 48

/-- ATTEST (R437): at offset 0 a new report is formed and signed; a slice of the mailbox's report is returned. -/
def execAttest (m : Nat) (s : State) : Host.Outcome State Fault Refusal :=
  .next (mbCommand 0x78 m (fun x s =>
    let off := mbArg x 0
    if !s.sec.identity then finish m stIntegrity s
    else
      let s := if off = 0 then
          let body := reportBody s (mbPayload x)
          let (s, v) := draw s
          let sig := padTo 4627 (Config.mldsaSign s.sec.engine (sha3 body) (ascii "PRACOR-ATT") v)
          { s with sec := { s.sec with reports := put [] m (body ++ sig) s.sec.reports } }
        else s
      let r := look [] s.sec.reports m
      if r.length ≤ off then finish m stBadArg s else complete m stOk [r.length] (slice r off 1984) s) s)

/-! ### Updating firmware (R434) -/

/-- FW_WRITE (R434). -/
def execFwWrite (m : Nat) (s : State) : Host.Outcome State Fault Refusal :=
  .next (mbCommand 0x7A m (fun x s =>
    if bankBytes < mbArg x 0 + mbPayLen x then finish m stBadArg s
    else finish m stOk { s with flash := { s.flash with staging := setBytes s.flash.staging (mbArg x 0) (mbPayload x) } }) s)

/-- The status of a failed check of the staged image (R434 step 1). -/
def commitStatus (reason : Nat) : Nat :=
  if reason = 1 ∨ reason = 6 then stBadArg else if reason = 4 then stDenied else stIntegrity

/-- The bank that a commit writes: the one of its kind that is not running, bank A where none runs (R429, R434).
(DEDUCED, assumption log 87) -/
def commitBank (s : State) (kind : Nat) : Bool := (runningBank s kind).elim false (!·)

/-- The bank that a commit of a kind writes takes its bytes. -/
def setBank (kind : Nat) (img : SMap Byte) (s : State) : State :=
  { s with flash := { s.flash with banks := put [] (2 * kind + b2n (commitBank s kind)) img s.flash.banks } }

/-- The body of the staged image, in the place that it has in a bank: a bank whose write has begun (R434 step 2).
(DEDUCED, assumption log 87) -/
def stagedBody (s : State) : SMap Byte := setBytes [] 8192 (getBytes s.flash.staging 8192 (imgBody (getBytes s.flash.staging 0 8192)))

/-- The staged image, header and body. -/
def stagedImage (s : State) : SMap Byte :=
  setBytes [] 0 (getBytes s.flash.staging 0 (8192 + imgBody (getBytes s.flash.staging 0 8192)))

/-- A commit fails for a reason (R434). -/
def commitFails (m kind status reason : Nat) (s : State) : State := finish m status (raise 0x0D06 kind [(1, reason)] s)

/-- Step 1 of a commit, and the body of step 2: its bank holds the body and no header yet (R434). -/
def beginCommit (m kind : Nat) (s : State) : State :=
  match imageFail s kind s.flash.staging with
  | some r => commitFails m kind (commitStatus r) r s
  | none => await m .commit (setBank kind (stagedBody s) s)

/-- The header of step 2, the read-back and the preference (R434). `flashBad` says that the write, or its read-back, fails.
(DEDUCED, assumption log 87) -/
def endCommit (m kind : Nat) (flashBad : Bool) (s : State) : State :=
  if flashBad then commitFails m kind stIntegrity 5 s
  else
    let b := commitBank s kind
    let s := setBank kind (stagedImage s) s
    finish m stOk (raise 0x0D05 kind [(1, b2n b)] { s with flash := { s.flash with prefer := put none kind (some b) s.flash.prefer } })

/-- FW_COMMIT (R434): the row's command comes twice, once as the request is taken and once as the write of the bank is over; between the
two COMMIT_BUSY reads 1, and a loss of power finds the bank without a header. (DEDUCED, assumption log 87) -/
def execFwCommit (m : Nat) (flashBad : Bool) (s : State) : Host.Outcome State Fault Refusal :=
  .next (mbCommand 0x7B m (fun x s =>
    if x.wait = .commit then endCommit m (mbArg x 0) flashBad s else beginCommit m (mbArg x 0) s) s)

/-- What a kind's counter is to reach: the SVN of the running image, as far as 255 fuses count (R433). -/
def fuseGoal (s : State) (kind : Nat) : Nat := min 255 (look 0 s.sec.svn kind)

/-- A counter is being raised: bring-up has reached READY or DEGRADED, and the running image's SVN exceeds it (R433). -/
def fusesDue (s : State) (kind : Nat) : Bool :=
  (kind == 1 || kind == 2) && s.hbr.stage == 8 && decide (look 0 s.flash.rollback kind < fuseGoal s kind)

/-- A kind's counter set (R433). -/
def setFuses (kind v : Nat) (s : State) : State := { s with flash := { s.flash with rollback := put 0 kind v s.flash.rollback } }

/-- ROLLBACK_RAISED (R433): the counter of a kind has risen to its running image's SVN. -/
def execRollbackRaised (kind : Nat) (s : State) : Host.Outcome State Fault Refusal :=
  .next (if fusesDue s kind then raise 0x0D04 kind [] (setFuses kind (fuseGoal s kind) s) else s)

/-- A loss of power while a counter is being raised leaves it anywhere from its old value to its goal (R433), a free value.
(DESIGN CHOICE, assumption log 5) -/
def cutFuses (kind : Nat) (s : State) : State :=
  if fusesDue s kind then
    let old := look 0 s.flash.rollback kind
    let (s, v) := draw s
    setFuses kind (old + v % (fuseGoal s kind - old + 1)) s
  else s

end Sys2Proof.Machine
end

