-- ==== Sys2Proof/Machine/ReadRegs.lean ====
section
/-! DEFINITION. Register space as it is read (R13, R14, R375): every register of every block. -/

namespace Sys2Proof.Machine

/-- Fields put at their lowest bits. -/
def pack (l : List (Nat × Nat)) : Nat := l.foldl (fun a f => a + f.2 * 2 ^ f.1) 0

/-- XNG_STATUS.ROLE (Table 1.7). -/
def roleCode : Role → Nat
  | .solo => 0 | .joining => 1 | .member => 2 | .lead => 3 | .leaving => 4

/-- The XNG_ registers (Tables 1.6 to 1.20). -/
def readXng (s : State) (o : Nat) : Nat :=
  let x := s.xng
  match o with
  | 0x00 => pack [(2, b2n x.ovrStop), (1, b2n x.ringEn)]
  | 0x08 => pack [(16, x.missRank.toNat), (11, b2n x.badRing), (10, b2n x.leadLost), (9, b2n x.groupFault), (8, b2n x.overrun)
                  , (7, b2n x.badWindow), (6, b2n x.badPeriod), (5, b2n x.alignErr), (4, b2n x.holdover), (3, b2n x.outOfStep)
                  , (0, roleCode x.role)]
  | 0x10 => pack [(32, x.next.toNat), (0, x.current.toNat)]
  | 0x18 => x.applyAt.toNat
  | 0x20 => pack [(32, x.rttMax.toNat), (0, x.window.toNat)]
  | 0x28 => pack [(32, x.groupId.toNat), (29, x.votePort.toNat), (26, x.altPort.toNat), (10, x.sizeM1.toNat), (0, x.rank.toNat)]
  | 0x30 => x.tick.toNat
  | 0x38 => x.tickCycle.toNat
  | 0x40 => x.cycle.toNat
  | 0x48 => x.index.toNat
  | 0x50 => x.elapsed.toNat
  | 0x58 => pack [(32, x.slackTotal.toNat), (0, x.slackRun.toNat)]
  | 0x60 => x.ttTime.toNat
  | 0x68 => pack [(12, x.ringBase.toNat), (0, x.ringSize.toNat)]
  | 0x70 => x.ringWp.toNat
  | _ => 0

/-- TTU_STATUS.PHASE (Table 2.16): the phase in progress; the last one while its crossing waits to close, and 0 while no index is open.
(DESIGN CHOICE, assumption log 132) -/
def phaseNow (s : State) : Nat :=
  match (actSlot s).image with
  | some i => if s.ttu.opened then min s.ttu.phase ((openCrossing s i).phases - 1) else 0
  | none => 0

/-- The TTU_ registers (Tables 2.16, 2.17, 7.9 to 7.13). -/
def readTtu (s : State) (o : Nat) : Nat :=
  let t := s.ttu
  let sl := actSlot s
  match o with
  | 0x00 => pack [(32, sl.image.elim 1 fun i => batches s i.lislets), (8, phaseNow s), (6, slotStateCode (shadowSlot s).state)
                  , (4, slotStateCode sl.state), (3, b2n t.active), (0, funcCode t.func)]
  | 0x08 => pack [(32, t.rejEntry), (16, b2n t.rejSlot), (0, t.rejCode)]
  | 0x10 => if t.opened then stepCounter sl t.runIdx else 0
  | 0x18 => pack [(62, t.postStatus.toNat), (40, sl.cursors.length)]
  | 0x60 => pack [(63, b2n t.pending.isSome), (62, b2n (t.pending.elim t.lastMode (·.resume))), (61, b2n t.resumable)
                  , (0, t.pending.elim 0 (·.atIndex))]
  | 0x68 => pack [(63, b2n t.shipping.isSome), (62, b2n t.shipErr), (32, t.shipRegion.toNat), (0, t.shipSeq.toNat)]
  | _ => if 0x20 ≤ o ∧ o < 0x60 ∧ o % 8 = 0 then (t.cursorData.getD ((o - 0x20) / 8) 0).toNat else 0

/-- STATE of an islet's code (Table 5.12). -/
def isletStateCode : IsletState → Nat
  | .active => 0 | .spare => 1 | .fenced => 2 | .absent => 3

/-- ISL_SPARES (Table 5.10). -/
def sparesWord (s : State) : Nat :=
  let n (i : Nat) : Nat := (isletsIn s i .spare).length
  pack [(48, b2n ([0, 1, 2, 3].all fun i => n i == 0)), (32, inService s), (24, n 3), (16, n 2), (8, n 1), (0, n 0)]

/-- ISL_STATE.SLOT (Table 5.12): 0xFFF when the islet is not ACTIVE, and before bring-up has dealt the slots. -/
def slotField (s : State) (n : Nat) : Nat :=
  if s.isl.dealt && (isletOf s n).state == .active then (findIdx? (· == n) s.isl.slots 0).getD 0xFFF else 0xFFF

/-- The ISL_ registers (Tables 5.9 to 5.12). -/
def readIsl (s : State) (o : Nat) : Nat :=
  match o with
  | 0x00 => pack [(1, b2n s.isl.scrubEn), (0, b2n s.isl.nfTrap)]
  | 0x08 => sparesWord s
  | 0x10 => let e := s.isl.eccLast
    pack [(48, e.islet.toNat), (31, b2n e.kind), (24, e.syndrome.toNat), (0, e.addr.toNat)]
  | _ =>
    if 0x1000 ≤ o ∧ o < 0x3000 ∧ o % 8 = 0 then
      let n := (o - 0x1000) / 8
      let x := isletOf s n
      pack [(32, x.ceCount.toNat), (12, slotField s n), (4, x.cause.toNat), (0, isletStateCode x.state)]
    else 0

/-- The four registers of a free-running queue (Tables 5.14 to 5.17, 6.12 to 6.15). -/
def readQueue (x : Queue) (busy : Bool) (r : Nat) : Nat :=
  match r with
  | 0x00 => pack [(12, x.base.toNat)]
  | 0x08 => pack [(32, x.context.toNat), (16, x.size.toNat), (2, b2n x.irqEn), (1, b2n x.stopOnErr), (0, b2n x.enable)]
  | 0x10 => x.tail.toNat
  | 0x18 => pack [(63, b2n x.err), (62, b2n busy), (0, x.head.toNat)]
  | _ => 0

/-- The FRY_ registers. -/
def readFry (s : State) (o : Nat) : Nat :=
  if o = 0 then funcCode s.fry.func
  else if 0x100 ≤ o ∧ o < 0x2100 then
    let q := (o - 0x100) / 0x20
    readQueue (fryQ s q) (fryBusy (fryQ s q)) ((o - 0x100) % 0x20)
  else 0

/-- The LNC_ registers (Tables 6.10 to 6.15). -/
def readLnc (s : State) (o : Nat) : Nat :=
  let l := s.lnc
  if o = 0 then pack [(63, b2n l.trapValid), (48, l.trapIslet.toNat), (40, l.trapQueue.toNat), (8, l.trapStep.toNat), (0, l.trapCause.toNat)]
  else if o = 8 then pack [(32, l.trapEi.toNat), (14, l.trapCode.toNat), (0, l.trapPc.toNat)]
  else if 0x100 ≤ o ∧ o < 0x900 then
    let q := (o - 0x100) / 0x20
    readQueue (lncQ s q) (lncBusy s q) ((o - 0x100) % 0x20)
  else 0

/-- STATE of a channel's code (Table 8.10). -/
def chanStateCode : ChanState → Nat
  | .active => 0 | .spare => 1 | .retired => 2 | .retirePending => 3 | .lost => 4 | .absent => 5

/-- MEM_HOME of a home (Table 8.9). -/
def homeWord (s : State) (h : Nat) : Nat :=
  let left := ((List.range 128).filter fun p => (chan s (h * 256 + p)).state == .spare).length
  let n := homeChans s.cfg h
  pack [(32, homeBytes s.cfg h / 2 ^ 20), (16, left), (8, n), (0, if n = 0 then 1 else if s.mem.homeFail.getLsbD h then 2 else 0)]

/-- The MEM_ registers (Tables 8.5 to 8.10). A channel shows its slot once stage 3 has made the slot maps (R377). -/
def readMemReg (s : State) (o : Nat) : Nat :=
  match o with
  | 0x00 => pack [(16, s.mem.ceLimit.toNat), (0, b2n s.mem.scrubEn)]
  | 0x08 => pack [(32, fallbackCount s), (8, s.mem.homeFail.toNat), (0, b2n s.mem.trained)]
  | 0x10 => let e := s.mem.eccLast
    pack [(63, b2n e.valid), (61, e.kind.toNat), (60, b2n e.half), (48, e.symbol.toNat), (8, e.addr.toNat)]
  | 0x18 => s.mem.calLast.toNat
  | _ =>
    if 0x100 ≤ o ∧ o < 0x128 ∧ o % 8 = 0 then homeWord s ((o - 0x100) / 8)
    else if 0x1000 ≤ o ∧ o < 0x2400 ∧ o % 8 = 0 then
      let c := chan s ((o - 0x1000) / 0x400 * 256 + (o - 0x1000) % 0x400 / 8)
      pack [(40, c.ceCount.toNat), (32, c.ueCount.toNat), (16, if s.mem.trained && serves c then c.slot.toNat else 0x7F), (8, b2n c.fallback)
            , (0, chanStateCode c.state)]
    else 0

/-- STATE of a context's code (Table 9.6). -/
def ctxStateCode : CtxState → Nat
  | .free => 0 | .ready => 1 | .running => 2 | .parked => 3 | .swapped => 4

/-- A context table entry's 64 bytes (Table 9.6). -/
def ctxBytes (s : State) (c : Nat) : List Byte :=
  let x := ctx s c
  let tt := slotHolds (actSlot s) c
  padTo 64 (toLE 1 (ctxStateCode x.state) ++ toLE 1 (b2n tt + 2 * b2n (c == 0)) ++ toLE 1 x.park.toNat ++ zeros 1
    ++ toLE 2 (regionList s c).length ++ toLE 2 x.parkEntry.toNat ++ (x.groups.flatMap fun g => toLE 2 g.toNat)
    ++ toLE 8 x.faultAddr.toNat)

/-- The RGN_ registers (Tables 9.7 to 9.14). -/
def readRgn (s : State) (o : Nat) : Nat :=
  let r := s.rgn
  match o with
  | 0x00 => pack [(24, r.threshold.toNat), (16, r.decay.toNat), (0, b2n r.migEn)]
  | 0x08 => pack [(48, r.ttContext.toNat), (47, b2n r.locked), (40, b2n (counterMode s)), (0, (r.entries.filter (·.2.isSome)).length)]
  | 0x10 => r.arg0.toNat
  | 0x18 => r.arg1.toNat
  | 0x20 => pack [(63, b2n r.job.isSome), (62, b2n r.refused), (8, r.status.toNat)]
  | 0x28 => r.result.toNat
  | 0x30 => pack [(63, b2n r.faultValid), (60, r.faultKind.toNat), (27, r.faultCtx.toNat), (0, r.faultPage.toNat)]
  | 0x38 => r.ctxSel.toNat
  | _ => if 0x40 ≤ o ∧ o < 0x80 ∧ o % 8 = 0 then fld (ctxBytes s r.ctxSel.toNat) (o - 0x40) 8 else 0

/-- The SND_ registers (Tables 11.6 to 11.9). -/
def readSnd (s : State) (o : Nat) : Nat :=
  let d := s.snd
  match o with
  | 0x00 => pack [(32, b2n d.lock), (16, b2n d.mode), (0, d.timeout.toNat)]
  | 0x08 => pack [(8, b2n d.lock), (7, b2n d.mode), (0, match s.cfg with
      | .sk3_4a => 0x3F
      | .sk3_2a => 0x1B)]
  | 0x10 => pack [(63, b2n d.errValid), (59, d.errKind.toNat), (56, d.errStop.toNat), (48, d.errAgent.toNat), (40, d.errMsg.toNat)
                  , (36, d.errState.toNat), (0, d.errTxn.toNat)]
  | 0x18 => pack [(6, d.errLine.toNat)]
  | _ => 0

/-- PHASE (Table 12.15). -/
def phaseCode : PortPhase → Nat
  | .down => 0 | .detect => 1 | .equalise => 2 | .align => 3 | .linkup => 4 | .active => 5 | .retrain => 6 | .lost => 7

/-- A port's bit of ZNG_STATUS.LOST: LOST, or stopped by command (Table 12.11). -/
def portDown (x : Port) : Bool := x.phase == .lost || x.off

/-- The registers of a port (Tables 12.15 to 12.20). -/
def readPort (subst : Nat) (x : Port) (r : Nat) : Nat :=
  match r with
  | 0x00 => pack [(56, x.retrains.toNat), (32, subst), (16, x.latency.toNat), (4, phaseCode x.phase), (0, funcCode x.func)]
  | 0x08 => pack [(23, b2n x.spare), (18, x.failed.toNat), (0, x.map.toNat)]
  | 0x10 => pack [(32, x.crcErr.toNat), (0, x.replays.toNat)]
  | 0x18 => pack [(48, x.uncorr.toNat), (0, x.corr.toNat)]
  | _ =>
    if 0x40 ≤ r ∧ r < 0xC0 then
      let w := look {} x.queues ((r - 0x40) / 0x10)
      if r % 0x10 = 0 then pack [(63, b2n w.halted), (62, b2n w.configured), (0, w.head.toNat)]
      else if r % 0x10 = 8 then w.tail.toNat
      else 0
    else 0

/-- The ZNG_ registers (Tables 12.10 to 12.20). -/
def readZng (s : State) (o : Nat) : Nat :=
  let z := s.zng
  let mask (f : Port → Bool) : Nat := pack ((List.range 8).map fun p => (p, b2n (f (portOf s p))))
  match o with
  | 0x00 => pack [(32, z.creditTo.toNat), (16, z.laneCe.toNat), (0, z.portEn.toNat)]
  | 0x08 => pack [(16, mask portDown), (0, mask fun x => x.phase == .active)]
  | 0x10 => z.peerId.toNat
  | 0x18 => z.feed.toNat
  | 0x20 => pack [(63, b2n z.flBusy), (62, b2n z.flTimeout), (0, z.flDone.toNat)]
  | _ => if 0x100 ≤ o ∧ o < 0x900 then readPort (substOf s (o / 0x100 - 1)) (portOf s (o / 0x100 - 1)) (o % 0x100) else 0

/-- The state of a mailbox as its path shows it (R359, Table 13.13). -/
def mbStateCode : MbState → Nat
  | .idle => 0 | .posted => 1 | .running => 2 | .done => 3

/-- The HBR_ registers (Tables 13.11 to 13.14). -/
def readHbr (s : State) (o : Nat) : Nat :=
  let h := s.hbr
  match o with
  | 0x00 => pack [(32, h.stage), (16, b2n h.window), (8, codeOf s.cfg), (0, modeCode s.mode)]
  | 0x08 => pack [(2, funcCode h.reader), (0, funcCode h.exchange)]
  | _ =>
    if 0x100 ≤ o ∧ o < 0x138 ∧ o % 8 = 0 then
      let x := mbOf s ((o - 0x100) / 8 + 9)
      pack [(63, b2n x.err), (8, b2n x.irqEn), (0, mbStateCode x.state)]
    else if 0x8000 ≤ o ∧ o < 0xF000 ∧ o % 8 = 0 then
      leNat (getBytes (mbOf s ((o - 0x8000) / 0x1000 + 9)).bytes (o % 0x1000) 8)
    else 0

/-- DEGR (R381). -/
def degr (s : State) : Nat := min 64 (8 * (fullP s.cfg - inService s))

/-- The HLT_ registers (Tables 14.7 to 14.12). (DEDUCED, assumption log 91) -/
def readHlt (s : State) (o : Nat) : Nat :=
  let h := s.hlt
  match o with
  | 0x00 => pack [(56, h.secureAt.toNat), (42, h.half.toNat), (32, h.grain.toNat), (26, h.slotLog2.toNat), (16, h.windowH.toNat), (0, b2n h.mode)]
  | 0x08 => pack [(32, h.e64 / 64), (24, if h.cofed then 32 else 0), (16, degr s), (8, h.temp), (0, risk s)]
  | 0x10 => pack [(63, b2n h.securing.isSome), (62, b2n h.secErr), (61, b2n h.emergency), (59, h.dest.toNat), (0, h.lastIndex.toNat)]
  | 0x18 => match s.flash.pairing with
    | some p => pack [(63, 1), (62, b2n p.cofed), (48, p.theirs), (32, p.feed), (0, p.peer)]
    | none => 0
  | 0x20 => pack [(32, if h.mode then intervalTicks s else 0), (0, h.cost.toNat)]
  | 0x28 => pack [(16, s.flash.pairing.elim 0 (·.mine)), (3, b2n s.ttu.noRecovery), (2, b2n s.ttu.logFull), (1, b2n (s.ttu.replay && s.ttu.func == .running))
                  , (0, b2n h.standby.isSome)]
  | _ => 0

/-- The REC_ registers (Tables 15.3 to 15.9). -/
def readRec (s : State) (o : Nat) : Nat :=
  let g := s.log
  match o with
  | 0x00 => pack [(32, g.dropped.toNat), (31, b2n g.permFull), (16, g.factory.toNat), (0, g.newestSlot)]
  | 0x08 => pack [(32, g.powers.toNat), (0, g.minutes.toNat)]
  | 0x10 => g.sel.toNat
  | 0x60 => pack [(12, g.ringBase.toNat), (0, g.ringSize.toNat)]
  | 0x68 => g.fromSeq.toNat
  | 0x70 => g.ringWp.toNat
  | _ => if 0x18 ≤ o ∧ o < 0x58 ∧ o % 8 = 0 then fld (recSlot s g.sel.toNat) (o - 0x18) 8 else 0

/-- The bank preferred at the next bring-up: A where neither is preferred (R428). -/
def nextBank (s : State) (kind : Nat) : Bool := (look none s.flash.prefer kind).getD false

/-- FW_COMMIT is in progress: a mailbox runs it (Table 16.3). -/
def commitBusy (s : State) : Bool := s.hbr.mbs.any fun m => m.2.state == .running && mbOp m.2 == 0x7B

/-- The SEC_ registers (Tables 16.3 to 16.5). -/
def readSec (s : State) (o : Nat) : Nat :=
  match o with
  | 0x00 => pack [(7, b2n s.sec.identity), (6, b2n (commitBusy s)), (5, b2n (nextBank s 2)), (4, b2n (nextBank s 1))
                  , (3, b2n (look false s.sec.fallback 2)), (2, b2n (look false s.sec.fallback 1))
                  , (1, b2n ((runningBank s 2).getD false)), (0, b2n ((runningBank s 1).getD false))]
  | 0x08 => rollbackWord s
  | _ => if 0x100 ≤ o ∧ o < 0x200 ∧ o % 8 = 0 then fld (measOf s ((o - 0x100) / 0x40)) (o % 0x40) 8 else 0

/-- The rails of a sequencing step (Table 17.4), as bits of PWR_RAILS. -/
def stepRails (k : Nat) : Nat :=
  match k with
  | 1 => 0x001 | 2 => 0x002 | 3 => 0x1FC | 4 => 0x600 | 5 => 0x800
  | _ => 0

/-- The rails that are fitted: SK3-2A has no E and W rails (R445). -/
def railsFitted (c : Cfg) : Nat := match c with
  | .sk3_4a => 0xFFF
  | .sk3_2a => 0xFFF - 0x10 - 0x40

/-- The rails of the steps that are up. -/
def railsUp (s : State) : Nat := ((List.range s.pwr.step).foldl (fun a k => a ||| stepRails k) 0) &&& railsFitted s.cfg

/-- A rail is within ±5 %: it is up, and it has not left the band or has come back since. (DESIGN CHOICE, assumption log 153) -/
def railGood (s : State) (r : Nat) : Bool :=
  (railsUp s).testBit r && match look 0 s.pwr.railOut r with
    | 0 => true
    | t + 1 => decide (t < s.now) && Config.railBack r s.now

/-- PWR_RAILS.GOOD (R445, R456). -/
def railsGood (s : State) : Nat := pack ((List.range 12).map fun r => (r, b2n (railGood s r)))

/-- PWR_PINS.PRSNT (R453, R456): PRSNT_N of a port is low after its filter, whatever the port's enable; before stage 1 no filter has
passed. (DESIGN CHOICE, assumption log 153) -/
def cableIn (s : State) (p : Nat) : Bool :=
  match (portOf s p).present with
  | some b => b
  | none => decide (1 ≤ s.hbr.stage) && Config.cable p

/-- The PWR_ registers (Tables 17.10 to 17.15). -/
def readPwr (s : State) (o : Nat) : Nat :=
  let p := s.pwr
  match o with
  | 0x00 => pack [(40, p.vin.toNat), (28, p.iin.toNat), (12, p.pin.toNat), (7, b2n (p.limI || p.limT)), (6, b2n (p.leak != 0))
                  , (5, b2n p.warnUv), (4, b2n p.warnPin)]
  | 0x08 => pack [(32, p.pLimit.toNat), (16, p.iLimit.toNat)]
  | 0x10 => pack [(48, p.coolOut.toNat), (32, p.coolIn.toNat), (16, p.hottest.toNat), (8, p.hotDie.toNat), (0, p.tstate.toNat)]
  | 0x18 => pack [(32, p.railWarn.toNat), (0, railsGood s)]
  | 0x20 => pack [(40, pack ((List.range 8).map fun k => (k, b2n (cableIn s k)))), (34, b2n (p.leak.getLsbD 1))
                  , (33, b2n p.warnPin), (32, b2n p.enable), (24, p.slotId.toNat), (0, p.feedId.toNat)]
  | 0x28 => p.lastOff.toNat
  | _ => 0

/-- A register of register space, by its offset; where no register lies it reads as zero (R375).
(DEDUCED, assumption log 68) -/
def readReg (s : State) (off : Nat) : Word64 :=
  let o := off % 0x10000
  BitVec.ofNat 64 (match off / 0x10000 with
    | 0 => readXng s o
    | 1 => readTtu s o
    | 2 => readIsl s o
    | 3 => readFry s o
    | 4 => readLnc s o
    | 5 => readMemReg s o
    | 6 => readRgn s o
    | 7 => readSnd s o
    | 8 => readZng s o
    | 9 => readHbr s o
    | 10 => readHlt s o
    | 11 => readRec s o
    | 12 => readSec s o
    | 13 => readPwr s o
    | _ => 0)

end Sys2Proof.Machine
end

