-- ==== Sys2Proof/Machine/Harbour.lean ====
section
/-! DEFINITION. The Harbour controller (R353 to R378): doorbells, the I3C target, time limits, the management commands, the functions
and bring-up. -/

namespace Sys2Proof.Machine

/-! ### Doorbells and the baseboard path (R357 to R360) -/

/-- A mailbox of the baseboard or the mainland path is open (Table 13.1); where stage 0 has failed, mailbox 8 is (R429). -/
def boxOpen (s : State) (m : Nat) : Bool :=
  s.pwr.good && ((m == 8 && (decide (1 ≤ s.hbr.stage) || s.mode == .failed)) || (decide (9 ≤ m) && decide (m < 16) && decide (7 ≤ s.hbr.stage)))

/-- MAILBOX_DOORBELL (R357): mailboxes 8 to 15; the slot of queue 0 is the doorbell of mailboxes 0 to 7 (R358). -/
def execMailboxDoorbell (m : Nat) (s : State) : Host.Outcome State Fault Refusal :=
  .next (if boxOpen s m then ringBell m s else s)

/-- MAILBOX_ACK (R357). -/
def execMailboxAck (m : Nat) (s : State) : Host.Outcome State Fault Refusal :=
  .next (if boxOpen s m then ackBox m s else s)

/-- One byte of a private write at its offset (R359). (DEDUCED, assumption log 92) -/
def i3cByte (off : Nat) (b : Byte) (s : State) : State :=
  if off < 4096 then writeBox 8 off [b] s
  else if off = 4096 then (if b = 1 then ringBell 8 s else if b = 2 then ackBox 8 s else s)
  else s

/-- I3C_PRIVATE_WRITE (R359): a 16-bit offset, then data bytes at ascending offsets. (DEDUCED, assumption log 92) -/
def execI3cPrivateWrite (bytes : List Byte) (s : State) : Host.Outcome State Fault Refusal :=
  .next (if !boxOpen s 8 then s
    else if bytes.length < 2 then raise 0x0A05 noSubject [] s
    else
      let off := fld bytes 0 2
      let s := { s with hbr := { s.hbr with i3cOff := off } }
      ((bytes.drop 2).zipIdx off).foldl (fun s b => i3cByte (b.2 % 65536) b.1 s) s)

/-- One byte that a private read returns (R359). -/
def i3cReadByte (s : State) (off : Nat) : Byte :=
  if off < 4096 then (getBytes (mbOf s 8).bytes off 1).headD 0
  else if off = 4096 then BitVec.ofNat 8 (mbStateCode (mbOf s 8).state)
  else 0

/-- A private read of n bytes: from the last offset written, ascending (R359). -/
def i3cRead (s : State) (n : Nat) : List Byte := (List.range n).map fun i => i3cReadByte s ((s.hbr.i3cOff + i) % 65536)

/-- ENTDAA (R359): a target that has no dynamic address takes the one assigned. -/
def execEntdaa (addr : Nat) (s : State) : Host.Outcome State Fault Refusal :=
  .next (if boxOpen s 8 && s.hbr.i3cAddr.isNone then { s with hbr := { s.hbr with i3cAddr := some addr } } else s)

/-- SETDASA (R359, R454): the target answers its static address 0x08 + SLOT_ID. -/
def execSetdasa (static_ addr : Nat) (s : State) : Host.Outcome State Fault Refusal :=
  .next (if boxOpen s 8 && s.hbr.i3cAddr.isNone && static_ == 8 + s.pwr.slotId.toNat then
      { s with hbr := { s.hbr with i3cAddr := some addr } }
    else s)

/-! ### Time limits (R363) -/

/-- The region command in progress ends with its time limit (R261, R276): a page being evicted is RESIDENT again. -/
def timeoutRegion (s : State) : State :=
  match s.rgn.job with
  | none => s
  | some j =>
    let p := pageOf j.base
    let s := match (if j.op = 7 then entryOf s p else none) with
      | some e =>
        if (coEntry s e).any (·.evict) then
          let drop (r : HostReq) : HostReq := if r.use = .evict e then { r with use := .dropped } else r
          let s := { s with zng := { s.zng with
            queued := s.zng.queued.filter fun r => r.use != .evict e, issued := s.zng.issued.map drop } }
          setEntry e none (setTag p { tag s p with res := .resident, count := 0 } s)
        else s
      | none => s
    afterPage (finishRgn j.via stTimeout 0 s)

/-- The margin scan of a mailbox gives no record (R363). -/
def dropScan (m : Nat) (s : State) : State :=
  { s with mem := { s.mem with
    scans := s.mem.scans.filter fun x => x.mailbox != m
    scanning := s.mem.scanning.map fun x => if x.mailbox = m then { x with mailbox := 16 } else x } }

/-- The ports of a TAKEOVER carry on as they were (R363): each reaches ACTIVE again (R352). -/
def abandonTakeover (s : State) : State :=
  (List.range 8).foldl (fun s p =>
    let x := portOf s p
    if x.keep && x.phase == .linkup then
      raise 0x0901 p [] (setPort p { x with keep := false, phase := .active, fails := 0 } s)
    else s) s

/-- The payload of a command that is over is fetched no further: a read still queued is taken back, and one that has gone out serves
nobody (R363). -/
def dropFetch (m : Nat) (s : State) : State :=
  { s with zng := { s.zng with
    queued := s.zng.queued.filter fun r => r.use != .payload m
    issued := s.zng.issued.map fun r => if r.use = .payload m then { r with use := .dropped } else r } }

/-- What a command that has run out of time leaves behind (R363). (DEDUCED, assumption log 93) -/
def abandon (m : Nat) (w : MbWait) (s : State) : State :=
  match w with
  | .form | .join => abandonForm s
  | .takeover _ _ => abandonTakeover s
  | .payload => dropFetch m s
  | .commit => raise 0x0D06 (mbArg (mbOf s m) 0) [(1, 5)] s
  | .margin => dropScan m s
  | .restore => if s.hlt.restoring.isSome then raise 0x0B0B noSubject [] { s with hlt := { s.hlt with restoring := none } } else s
  | .release h => { s with zng := { s.zng with flushes := s.zng.flushes.filter fun j => j.by_ != .release m h } }
  | _ => s

/-- A command of a mailbox, POSTED or RUNNING, meets its time limit. (DEDUCED, assumption log 93) -/
def timeoutBox (m : Nat) (s : State) : State :=
  let x := mbOf s m
  match (if x.state = .posted ∨ x.state = .running then timeLimit x else none) with
  | none => s
  | some d =>
    let s := timedOut (mbOp x) m (passNow (x.posted + d) s)
    match s.rgn.job with
    | some j => if j.via = .mailbox m then timeoutRegion s else finish m stTimeout (abandon m x.wait s)
    | none => finish m stTimeout (abandon m x.wait s)

/-- COMMAND_TIMEOUT (R261, R363). (DEDUCED, assumption log 93) -/
def execCommandTimeout (via : Via) (s : State) : Host.Outcome State Fault Refusal :=
  match via with
  | .mailbox m => .next (if m < 16 then timeoutBox m s else s)
  | .register => match s.rgn.job with
    | some j => .next (if j.via = .register then timeoutRegion (timedOut (j.op + 0x3F) 0xFF (passNow (j.start + 60 * second) s)) else s)
    | none => .next s

/-! ### Information and configuration (R366, R367) -/

/-- GET_INFO (R366). -/
def execGetInfo (m : Nat) (s : State) : Host.Outcome State Fault Refusal :=
  .next (mbCommand 0x01 m (fun x s =>
    let res := match mbArg x 0 with
      | 0 => [codeOf s.cfg, s.flash.serial, s.zng.peerId.toNat, s.zng.feed.toNat]
      | 1 => [look 0 s.sec.version 1, look 0 s.sec.version 2, rollbackWord s % 65536, 0x0100]
      | _ => [inService s, sparesWord s, leNat ((List.range 5).map fun h => BitVec.ofNat 8 (homeChans s.cfg h))]
    complete m stOk res [] s) s)

/-- GET_STATE (R366). -/
def execGetState (m : Nat) (s : State) : Host.Outcome State Fault Refusal :=
  .next (mbCommand 0x02 m (fun _ s =>
    let funcs := functionIds.foldl (fun a f => a + funcCode (funcOf s f) * 4 ^ f) 0
    complete m stOk [modeCode s.mode + 2 ^ 8 * s.hbr.stage, funcs, s.xng.tick.toNat, s.xng.index.toNat] [] s) s)

/-- A configuration key applied in this bring-up; the event of R367. (DEDUCED, assumption log 96) -/
def applyKey (key value : Nat) (s : State) : State :=
  raise 0x0A04 noSubject [] { s with hbr := { s.hbr with config := put 0 key (value + 1) s.hbr.config } }

/-- A key applied, or its reset value (Table 13.6). -/
def configValue (s : State) (key : Nat) : Nat :=
  match look 0 s.hbr.config key with
  | 0 => if key = 2 then 0x2626 else if key = 4 then 0xFF else 0
  | v + 1 => v

/-- CONFIG_SET (R367). PORT_EN acts at the next bring-up alone. (DEDUCED, assumption log 96) -/
def execConfigSet (m : Nat) (s : State) : Host.Outcome State Fault Refusal :=
  .next (mbCommand 0x03 m (fun x s =>
    let key := mbArg x 0
    let value := mbArg x 1
    let s := if mbArg x 2 = 1 then { s with flash := { s.flash with config := put 0 key (value + 1) s.flash.config } } else s
    finish m stOk (if s.hbr.window && key != 4 then applyKey key value s else raise 0x0A04 noSubject [] s)) s)

/-- The configuration window closes: stage 4 ends (Table 13.10). -/
def closeWindow (s : State) : State := { s with hbr := { s.hbr with window := false, stage := 5 } }

/-- CONFIG_DONE (R377). -/
def execConfigDone (m : Nat) (s : State) : Host.Outcome State Fault Refusal :=
  .next (mbCommand 0x04 m (fun _ s => finish m stOk (closeWindow s)) s)

/-! ### SHUTDOWN and RESET (R373) -/

/-- SHUTDOWN (R373): every function stops, and MODULE_HALTED completes the command. -/
def execShutdown (m : Nat) (s : State) : Host.Outcome State Fault Refusal :=
  .next (mbCommand 0x05 m (fun _ s =>
    let s := await m .halt s
    stopFunctions { s with hbr := { s.hbr with pwrStop := true } }) s)

/-- What a channel keeps through a reset (R246, R378): a lost one is retired at the next TRAIN (R248).
(DEDUCED, assumption log 97) -/
def keptChan (c : Channel) : Channel := { state := c.state, slot := c.slot }

/-- What the recorder keeps (R378): its records, its queue and its counts; its registers take their reset values.
(DEDUCED, assumption log 97) -/
def keptLog (g : Recorder) : Recorder :=
  { g with sel := 0, ringBase := 0, ringSize := 0, fromSeq := 0, ringWp := 0, refold := false, held := true }

/-- The power registers after a reset: the input pins, the rails, the straps and the latch stay as they stand; every other field takes its
reset value (R456). (DEDUCED, assumption log 97) -/
def keptPower (p : Power) : Power :=
  { p with pLimit := 0x16A8, iLimit := 0x708, railWarn := 0, lastOff := 0, feedId := 0, tstate := 0, downWait := false
           limT := false, limI := false, vin := 0, iin := 0, pin := 0, coolIn := 0, coolOut := 0, hottest := 0, hotDie := 0 }

/-- The module is back in BOOT (R373, R377, R378): nothing else survives. An islet fenced in service and not yet replaced is still to be
replaced (R162, R164). (DEDUCED, assumption log 97) -/
def reboot (s : State) : State :=
  let s := setMode .boot s
  let n : State := {
    cfg := s.cfg, now := s.now, out := s.out, freeCtr := s.freeCtr, pending := s.pending, flash := s.flash
    mode := .boot, log := keptLog s.log, pwr := keptPower s.pwr, hlt := { cofed := s.flash.cofed, warning := s.hlt.warning } }
  let n := s.mem.chans.foldl (fun n c => setChan c.1 (keptChan c.2) n) n
  let n := (List.range 8).foldl (fun n p => setPort p { present := (portOf s p).present } n) n
  { n with isl := { n.isl with slots := deal n, faulted := s.isl.faulted } }

/-- RESET (R373): the response is written, then the module returns to BOOT. -/
def execReset (m : Nat) (s : State) : Host.Outcome State Fault Refusal :=
  .next (mbCommand 0x06 m (fun _ s => reboot (finish m stOk s)) s)

/-! ### Functions (R370 to R372) -/

/-- A start of a function that is STOPPED (R371, Table 13.8): a port that may train trains. -/
def startFunction (f : Nat) (s : State) : State :=
  let s := setFunc f .starting s
  if f < 8 then s
  else
    let x := portOf s (f - 8)
    setPort (f - 8) { x with phase := if s.zng.portEn.getLsbD (f - 8) then .detect else .down, attempts := 0, fails := 0 } s

/-- FUNC_START (R371). -/
def execFuncStart (m : Nat) (s : State) : Host.Outcome State Fault Refusal :=
  .next (mbCommand 0x10 m (fun x s =>
    let f := mbArg x 0
    match funcOf s f with
    | .stopped => startFunction f (await m (.start f) s)
    | .running => finish m stState s
    | _ => finish m stBusy s) s)

/-- A stop request reaches its function (R372). -/
def stopRequest (f : Nat) (s : State) : State :=
  if f = 0 then enterStopping s
  else if f < 8 then stopFunction f s
  else match funcOf s f with
    | .running | .starting => losePort (f - 8) true s
    | _ => s

/-- FUNC_STOP (R371, R372). -/
def execFuncStop (m : Nat) (s : State) : Host.Outcome State Fault Refusal :=
  .next (mbCommand 0x11 m (fun x s =>
    let f := mbArg x 0
    if f = 2 ∧ s.ttu.func ≠ .stopped then finish m stState s
    else if funcOf s f = .stopped then finish m stOk s
    else stopRequest f (await m (.stop f) s)) s)

/-- FUNCTION_RUNNING (R371): the STARTING work of functions 1 to 3 ends. -/
def execFunctionRunning (f : Nat) (s : State) : Host.Outcome State Fault Refusal :=
  .next (if 1 ≤ f ∧ f ≤ 3 ∧ funcOf s f = .starting then
      let s := setFunc f .running s
      finishAll (.start f) stOk (if f = 3 then startReader s else s)
    else s)

/-- No descriptor is in progress at a ferry (Table 13.8). -/
def ferryQuiet (s : State) : Bool :=
  (s.fry.queues.all fun q => q.2.inProgress.isEmpty) && s.zng.ports.all fun p => p.2.queues.all fun w =>
    w.2.cmds.all fun c => !(c.begun && c.status.isNone && (c.op == 1 || c.op == 2))

/-- FUNCTION_STOPPED (R372): STOPPING work ends, which for a port that still carries traffic is that of R350, and every stop of the
function completes. (DEDUCED, assumption log 34) -/
def execFunctionStopped (f : Nat) (s : State) : Host.Outcome State Fault Refusal :=
  .next (if f = 0 then stopTimetable s
    else if functionIds.contains f && funcOf s f == .stopping && (f != 1 || ferryQuiet s) then
      let s := if 8 ≤ f ∧ portCarries s (f - 8) = true then losePort (f - 8) true s else s
      let s := setFunc f .stopped s
      let s := if 8 ≤ f then setPort (f - 8) { portOf s (f - 8) with phase := .down } s else s
      finishAll (.stop f) stOk s
    else s)

/-! ### Host and placement registration (R369) -/

/-- The lowest free number below n of a sparse table. -/
def lowestFree {α : Type} (n : Nat) (t : SMap (Option α)) : Option Nat := (List.range n).find? fun k => (look none t k).isNone

/-- HOST_REGISTER (R369). (DESIGN CHOICE, assumption log 61) -/
def execHostRegister (m : Nat) (s : State) : Host.Outcome State Fault Refusal :=
  .next (mbCommand 0x49 m (fun x s =>
    if (hostRegions s).any fun h => overlaps (mbArg x 0) (mbArg x 1) h.1 h.2 then finish m stBadArg s
    else match pickFree s ((List.range 64).filter fun k => (look none s.zng.hosts k).isNone) with
      | none => finish m stNoResource s
      | some k => complete m stOk [k] []
          { drawn s with zng := { s.zng with hosts := put none k (some (mbArg x 0, mbArg x 1)) s.zng.hosts } }) s)

/-- Bytes of the ring of a window queue: queue 0's response ring, or a completion ring (R358, R369). -/
def queueRing (q : Nat) : Nat := if q = 0 then 2 ^ 17 else 4096

/-- Something that R369 names lies in a host region. -/
def hostUsed (s : State) (off n : Nat) : Bool :=
  let hit (a k : Nat) : Bool := overlaps a k off n
  (s.rgn.lists.any fun l => l.2.any fun r =>
      (r.kind == 1 && hit (r.base - hostBase) r.bytes) || (r.kind == 2 && hit (r.backing - hostBase) r.bytes))
    || (s.ttu.targets.any fun t => hit t.base t.bytes)
    || s.zng.ports.any fun p => p.2.queues.any fun w => w.2.configured && hit w.2.ring (queueRing w.1)

/-- HOST_RELEASE (R369). (DEDUCED, assumption log 94) -/
def execHostRelease (m : Nat) (s : State) : Host.Outcome State Fault Refusal :=
  .next (mbCommand 0x4A m (fun x s =>
    match look none s.zng.hosts (mbArg x 0) with
    | none => finish m stBadArg s
    | some (off, n) =>
      if hostUsed s off n then finish m stState s
      else finish m stOk { s with zng := { s.zng with hosts := put none (mbArg x 0) none s.zng.hosts } }) s)

/-- PLACE_REGISTER (R369): the handle asked for, or the lowest that is free. (DEDUCED, assumption log 94, 95) -/
def execPlaceRegister (m : Nat) (s : State) : Host.Outcome State Fault Refusal :=
  .next (mbCommand 0x4B m (fun x s =>
    match regionAt s (mbArg x 0) (mbArg x 1) with
    | none => finish m stBadArg s
    | some r =>
      let want := mbArg x 2 % 4096
      let h := if (mbArg x 2).testBit 16 then (if (placed s want).isNone then some want else none) else lowestFree 4096 s.zng.handles
      if !r.flags.testBit 2 then finish m stBadArg s
      else match h with
        | none => finish m stNoResource s
        | some h => complete m stOk [h] []
            { s with zng := { s.zng with handles := put none h (some ⟨mbArg x 0, r.base, r.bytes⟩) s.zng.handles } }) s)

/-- PLACE_RELEASE (R369): a FLUSH completes, and then the handle is withdrawn. -/
def execPlaceRelease (m : Nat) (s : State) : Host.Outcome State Fault Refusal :=
  .next (mbCommand 0x4C m (fun x s =>
    let h := mbArg x 0
    if (placed s h).isNone then finish m stBadArg s
    else startFlush (.release m h) (await m (.release h) s)) s)

/-- QUEUE_CONFIG (R338, R358, R369). -/
def execQueueConfig (m : Nat) (s : State) : Host.Outcome State Fault Refusal :=
  .next (mbCommand 0x4D m (fun x s =>
    let p := bits (mbArg x 0) 2 0
    let q := bits (mbArg x 0) 10 8
    let w := winQ s p q
    if inHostRegion s (hostBase + mbArg x 2) (queueRing q) = false then finish m stBadArg s
    else if w.head ≠ w.tail then finish m stBusy s
    else if q = 0 then finish m stOk (setWinQ p q { w with ring := mbArg x 2 } s)
    else finish m stOk (setWinQ p q { w with configured := true, context := mbArg x 1, ring := mbArg x 2 } s)) s)

/-! ### MARGIN (R242, R365) -/

/-- MARGIN (R242): the scan waits its turn. -/
def execMargin (m : Nat) (s : State) : Host.Outcome State Fault Refusal :=
  .next (mbCommand 0x50 m (fun x s =>
    let k := mbArg x 0
    let t := mbArg x 1
    if s.mode ≠ .train ∧ spareTaken s k t = true then finish m stNoResource s
    else
      let s := await m .margin s
      nextScan { s with mem := { s.mem with scans := s.mem.scans ++ [⟨k, mbArg x 2, t, m⟩] } }) s)

/-! ### Undefined opcodes (R261, R361) -/

/-- UNDEFINED_OPCODE: a mailbox's opcode that Table 13.5 does not list, or an op of RGN_CMD that Table 9.5 does not. -/
def execUndefinedOpcode (via : Via) (s : State) : Host.Outcome State Fault Refusal :=
  match via with
  | .mailbox m =>
    let op := mbOp (mbOf s m)
    .next (if (cmdClass op).isNone then mbCommand op m (fun _ s => s) s else s)
  | .register =>
    .next (if s.rgn.job.isSome then { s with rgn := { s.rgn with refused := true } } else finishRgn .register stBadOpcode 0 s)

/-! ### Bring-up (R377, R428 to R432) -/

/-- A stage of bring-up may end: the module is in TRAIN, in that stage, and is not on its way to HALTED. -/
def inStage (s : State) (k : Nat) : Bool := s.mode == .train && s.hbr.stage == k && !s.hbr.pwrStop

/-- A stage of bring-up fails (R377): `cause` is the place of its cause in assumption log 33. (DESIGN CHOICE, assumption log 33) -/
def failStageWith (k cause : Nat) (s : State) : State := failModule cause (raise 0x0A02 noSubject [(1, k)] s)

/-- A stage fails for the causes that R377 itself gives. -/
def failStage (k : Nat) (s : State) : State := failStageWith k 3 s

/-- HARBOUR_FIRMWARE_START (R428, R429): stage 0 ends, or no Harbour image passes and the mask ROM serves. -/
def execHarbourFirmwareStart (s : State) : Host.Outcome State Fault Refusal :=
  .next (if s.mode = .boot ∧ s.hbr.stage = 0 ∧ s.pwr.good = true then
      let s := bootCheck s
      if (runningBank s 1).isNone then
        let s := failStageWith 0 5 (raise 0x0D03 1 [] s)
        { s with log := { s.log with held := false } }
      else { s with hbr := { s.hbr with stage := 1 } }
    else s)

/-- The keys stored in the configuration flash apply (R367). -/
def applyStored (s : State) : State :=
  s.flash.config.foldl (fun s k =>
    if k.2 = 0 then s
    else
      let s := applyKey k.1 (k.2 - 1) s
      if k.1 = 4 then { s with zng := { s.zng with portEn := BitVec.ofNat 8 (k.2 - 1) } } else s) s

/-- The ports that may train leave DOWN (R321). (DEDUCED, assumption log 76) -/
def startPorts (s : State) : State :=
  (List.range 8).foldl (fun s p => if s.zng.portEn.getLsbD p then setPort p { portOf s p with phase := .detect } s else s) s

/-- Each islet takes its recorded state, and the slots are dealt (R86, R164). -/
def takeIslets (s : State) : State :=
  let s := s.flash.islets.foldl (fun s i => setIslet i.1 { isletOf s i.1 with state := i.2 } s) s
  { s with isl := { s.isl with slots := deal s, dealt := true } }

/-- FLASH_READ (R164, R367, R377, R418, R436, R442, R454): stage 1 ends; `feed` and `slot` are the straps.
(DEDUCED, assumption log 89, 90) -/
def execFlashRead (feed : BitVec 12) (slot : BitVec 5) (s : State) : Host.Outcome State Fault Refusal :=
  .next (if s.mode = .boot ∧ s.hbr.stage = 1 ∧ s.pwr.good = true then
      let s := { s with pwr := { s.pwr with lastOff := s.pwr.latch } }
      let s := if s.pwr.latch = 0 then s else raise 0x0C08 s.pwr.latch.toNat [] s
      let s := takeIslets (checkIdentity (applyStored s))
      let s := { s with
        log := { s.log with held := false }
        hbr := { s.hbr with stage := 2 }
        zng := { s.zng with feed := feed.setWidth 16 }
        pwr := { s.pwr with feedId := feed, feedPins := feed, slotId := slot }
        hlt := { s.hlt with cofed := s.flash.cofed } }
      startPorts (setMode .train s)
    else s)

/-- Stage 4 begins: the configuration window opens. -/
def openWindow (s : State) : State := { s with hbr := { s.hbr with stage := 4, window := true, openAt := s.now } }

/-- A strait lane that fails to train takes its spare (R244); false where another lane has it.
(DEDUCED, assumption log 98) -/
def trainLane (t : Nat) (s : State) : State × Bool :=
  match spareUser s t with
  | some u => (s, u == t)
  | none => (spareStraitLane t s, true)

/-- STRAIT_TRAINING (R377, R430): stage 2 ends. `bad` are the strait lanes with a verdict of 1, strait × 256 + lane.
(DEDUCED, assumption log 89) -/
def execStraitTraining (bad : List Nat) (s : State) : Host.Outcome State Fault Refusal :=
  .next (if inStage s 2 && portsTrained s then
      let (s, ok) := bad.foldl (fun (acc : State × Bool) t => let (s, b) := trainLane t acc.1; (s, acc.2 && b)) (s, true)
      if !ok then failStage 2 s
      else
        let s := if s.hbr.lpddr then openWindow s else { s with hbr := { s.hbr with stage := 3 } }
        if (runningBank s 2).isNone then
          let s := { s with hbr := { s.hbr with window := false } }
          failStageWith 2 5 (raise 0x0D03 2 [] s)
        else s
    else s)

/-- The channels that TRAIN retires (R244, R246, R248). (DEDUCED, assumption log 98) -/
def retiresAt (s : State) (bad : List Nat) (scans : List (Nat × Nat × Nat × Nat × Nat)) : List Nat :=
  let all := (List.range 5).flatMap fun h => (List.range (homeChans s.cfg h + homeSpares s.cfg h)).map (h * 256 + ·)
  all.filter fun k =>
    let st := (chan s k).state
    st == .retirePending || st == .lost || bad.contains k
      || (configValue s 5 == 1 && scans.any fun e => e.1 == k && (marginVerdict 1 e.2.1 e.2.2.1 e.2.2.2.1 e.2.2.2.2 s).2)

/-- LPDDR_TRAINING (R246, R247): stage 3 ends. `bad` are the channels that fail training or their tests, `scans` the margin scans made
where TRAIN_MARGIN is 1. (DEDUCED, assumption log 89) -/
def execLpddrTraining (bad : List Nat) (scans : List (Nat × Nat × Nat × Nat × Nat)) (s : State) : Host.Outcome State Fault Refusal :=
  .next (if (inStage s 2 || inStage s 3) && !s.hbr.lpddr then
      let s := (retiresAt s bad scans).foldl (fun s k => if s.mode = .train then retireChan k s else s) s
      if s.mode ≠ .train then raise 0x0A02 noSubject [(1, 3)] s
      else
        let s := (calChans s).foldl (fun s k => setChan k { chan s k with calAt := s.now } s) s
        let s := { s with mem := { s.mem with trained := true }, hbr := { s.hbr with lpddr := true } }
        if s.hbr.stage = 3 then openWindow s else s
    else s)

/-- CONFIG_HOLD_EXPIRED (R367, R377): the window has been open for CONFIG_HOLD milliseconds. -/
def execConfigHoldExpired (s : State) : Host.Outcome State Fault Refusal :=
  .next (if inStage s 4 && s.hbr.window then closeWindow (passNow (s.hbr.openAt + configValue s 3 * (second / 1000)) s) else s)

/-- LOCK is set (R305): the race mode and the limit are fixed until reset, and home caches and snoop filters start empty.
The record names a stop, an agent and a line (R317), for which the spec gives no value here: free values (DESIGN CHOICE, assumption log 137). -/
def lockRing (s : State) : State :=
  if s.snd.lock then s
  else
    let (s, at_) := draw s
    let (s, line) := draw s
    raise 0x0805 (at_ % 2 ^ 16) [(8, line % 2 ^ 42 * 64), (1, b2n s.snd.mode)] { s with snd := { s.snd with
    lock := true, filters := [], lines := s.snd.lines.filter fun l => decide (l.1 / 2 ^ 42 < 128) } }

/-- Measurement 3 (R432): the configuration applied in this bring-up. -/
def configMeasure (s : State) : List Byte := sha3 ([1, 2, 3, 4, 5].flatMap fun k => toLE 8 k ++ toLE 8 (configValue s k))

/-- SND_LOCK (R305, R377, R432): stage 5 sets SND_CTRL and then LOCK. -/
def execSndLock (s : State) : Host.Outcome State Fault Refusal :=
  .next (if inStage s 5 then
      let s := { s with snd := { s.snd with mode := configValue s 1 == 1, timeout := BitVec.ofNat 16 (configValue s 2) } }
      let s := lockRing s
      { s with sec := { s.sec with meas := put [] 3 (configMeasure s) s.sec.meas }, hbr := { s.hbr with stage := 6 } }
    else lockRing s)

/-- The mainland body is copied to LOAD and checked there (R431). -/
def loadMainland (s : State) : State × Bool :=
  match runningBank s 2 with
  | none => (s, false)
  | some b =>
    let bank := bankOf s 2 b
    let h := getBytes bank 0 8192
    let s := writeMem whoEngine (fld h 32 8) (getBytes bank 8192 (imgBody h)) s
    let (s, copy, p) := readMem whoEngine (fld h 32 8) (imgBody h) s
    (s, !p && sha3 copy == slice h 64 64)

/-- An islet that fails its test of bring-up is fenced (R164). (DEDUCED, assumption log 99) -/
def failIslet (n : Nat) (s : State) : State :=
  let x := isletOf s n
  if x.state = .active ∨ x.state = .spare then
    let s := raise 0x0401 n [] (keepIslet n { x with state := .fenced, cause := 4 } s)
    if x.state = .active then { s with isl := { s.isl with faulted := s.isl.faulted ++ [n] } } else s
  else s

/-- ISLET_TEST (R162, R164, R431): stage 6 ends; `bad` are the islets that fail. (DEDUCED, assumption log 89, 99) -/
def execIsletTest (bad : List Nat) (s : State) : Host.Outcome State Fault Refusal :=
  .next (if inStage s 6 then
      let (s, ok) := loadMainland s
      if !ok then failStageWith 6 4 (raise 0x0D07 2 [] s)
      else
        let s := (replaceFaulted (bad.foldl (fun s n => failIslet n s) s)).1
        { s with hbr := { s.hbr with stage := 7 } }
    else s)

/-- CLOCK_START (R17, R377): stage 7 ends. (DEDUCED, assumption log 76) -/
def execClockStart (s : State) : Host.Outcome State Fault Refusal :=
  .next (if inStage s 7 then
      let s := { s with
        xng := { s.xng with running := true, cycle := 0, tick := 0, tickCycle := 0 }
        hbr := { s.hbr with stage := 8 } }
      let s := (List.range 8).foldl (fun s p => if portActive s p then setPort p { portOf s p with func := .running } s else s) s
      setMode (restMode s) s
    else s)

/-- A stage is unfinished and runs: stages 2 and 3 run in parallel. -/
def stageRuns (s : State) (k : Nat) : Bool :=
  decide (k < 8) && (s.hbr.stage == k || (k == 3 && s.hbr.stage == 2 && !s.hbr.lpddr))

/-- BRINGUP_FAILED (R377): a stage exceeds its limit; stage 4 has none. -/
def execBringupFailed (stage : Nat) (s : State) : Host.Outcome State Fault Refusal :=
  .next (if (s.mode = .boot ∨ s.mode = .train) ∧ s.pwr.good = true ∧ stageRuns s stage = true ∧ stage ≠ 4 then
      let s := failStage stage s
      if stage = 0 then { s with log := { s.log with held := false } } else s
    else s)

end Sys2Proof.Machine
end

