-- ==== Sys2Proof/Machine/Power.lean ====
section
/-! DEFINITION. Power (R440 to R457): the input switch, the rails, trips, limits, temperatures, the power warning and the other
input pins. Durations of pulses are operands in microseconds. -/

namespace Sys2Proof.Machine

/-! ### Power off and on (R441 to R446) -/

/-- The SEQ after the newest record in the MRAM (R418). (DEDUCED, assumption log 100) -/
def resumeSeq (g : Recorder) : Nat :=
  (g.mram.filter fun e => slotValid e.2).foldl (fun n e => max n (fld e.2 16 8 + 1)) 0

/-- The recorder after a loss of power (R418, R444): what was queued is lost, and numbering resumes after the newest record.
(DEDUCED, assumption log 100) -/
def darkLog (g : Recorder) : Recorder :=
  { g with queue := [], newest := none, written := false, nextSeq := resumeSeq g, dropped := 0, sinceDrop := 0 }

/-- Free bytes that are no record: their CRC fails. -/
def tornBytes (ctr : Nat) : List Byte :=
  let bs := (List.range 8).flatMap fun i => toLE 8 (Config.freeValue (ctr + i))
  if slotValid bs then [] else bs

/-- A loss of power while the writer has a record to write (R418): it may interrupt that write, which leaves the slot with free bytes
whose CRC fails. (DESIGN CHOICE, assumption log 154) -/
def tearRecord (s : State) : State :=
  match s.log.queue with
  | [] => s
  | r :: _ =>
    let (t, v) := draw s
    if s.log.held || v % 2 = 0 then t
    else { t with freeCtr := t.freeCtr + 8
                  log := { t.log with mram := put [] (placeRecord r t.log).2 (tornBytes t.freeCtr) t.log.mram } }

/-- The input switch opens with a cause (R442, R444): everything but what persists is lost. What power was writing is cut short (R418,
R433). (DEDUCED, assumption log 100) -/
def powerOff (cause : Nat) (s : State) : State :=
  let s := if s.pwr.good then tearRecord (cutFuses 2 (cutFuses 1 s)) else s
  let n := reboot { s with mode := .boot }
  { n with
    log := darkLog n.log
    hlt := { n.hlt with warning := false }
    pwr := { enable := s.pwr.enable, slotId := s.pwr.slotId, feedPins := s.pwr.feedPins, latch := BitVec.ofNat 3 cause
             closed := false, good := false, step := 0 } }

/-- The input switch closes (R441): the rails are to come up. -/
def closeSwitch (s : State) : State := { s with pwr := { s.pwr with closed := true, good := false, step := 0 } }

/-- A pulse shorter than its filter is ignored (R364); the recorder needs power. (DEDUCED, assumption log 102) -/
def glitch (s : State) : State := if s.pwr.good then raise 0x0A06 noSubject [] s else s

/-- PWR_EN_N_ASSERTED (R441): `above` says that the input is at or above the turn-on threshold. -/
def execPwrEnNAsserted (us : Nat) (above : Bool) (s : State) : Host.Outcome State Fault Refusal :=
  .next (if us < 1000 then glitch s
    else
      let s := { s with pwr := { s.pwr with enable := true } }
      if above && !s.pwr.closed then closeSwitch s else s)

/-- TURN_ON_THRESHOLD (R441): the input reaches the turn-on threshold. -/
def execTurnOnThreshold (s : State) : Host.Outcome State Fault Refusal :=
  .next (if s.pwr.enable && !s.pwr.closed then closeSwitch s else s)

/-- PWR_EN_N_DEASSERTED (R237, R442, R446): a power-down starts, with write combining drained, or waits for the end of an emergency securing.
(DEDUCED, assumption log 100) -/
def execPwrEnNDeasserted (us : Nat) (s : State) : Host.Outcome State Fault Refusal :=
  .next (if us < 1000 then glitch s
    else
      let p := { s.pwr with enable := false }
      if !p.closed || p.down || p.downWait then { s with pwr := p }
      else if s.mode = .securing ∧ s.hlt.emergency = true then
        { s with pwr := { p with downWait := true, downAt := s.now, downCause := 2 } }
      else
        let off := s.mode == .halted || s.mode == .failed || !p.good
        { (if p.good then drainAll s else s) with pwr := { p with down := true, downCause := if off then 1 else 2 } })

/-- POWER_DOWN (R446): the rails go down and the switch opens. One that waits for HALTED waits at most 2 s. -/
def execPowerDown (s : State) : Host.Outcome State Fault Refusal :=
  .next (if s.pwr.down then powerOff s.pwr.downCause.toNat s
    else if s.pwr.downWait then
      powerOff s.pwr.downCause.toNat (if s.mode = .halted then s else passNow (s.pwr.downAt + 2 * second) s)
    else s)

/-- Every rail is good (R417, R445): PWR_GOOD, and the counts of the power cycle. -/
def powerGood (s : State) : State :=
  { s with
    pwr := { s.pwr with good := true }
    log := { s.log with powers := s.log.powers + 1, minutes := s.flash.minutes, minuteAt := s.now } }

/-- RAIL_STEP (R445): the rails of a step are good, and the next step starts. -/
def execRailStep (s : State) : Host.Outcome State Fault Refusal :=
  .next (if s.pwr.closed && !s.pwr.good && decide (s.pwr.step < 6) then
      let s := { s with pwr := { s.pwr with step := s.pwr.step + 1 } }
      if s.pwr.step = 6 then powerGood s else s
    else s)

/-- RAIL_STEP_TIMEOUT (R445). -/
def execRailStepTimeout (s : State) : Host.Outcome State Fault Refusal :=
  .next (if s.pwr.closed && !s.pwr.good then powerOff 6 s else s)

/-- The filter of a trip's cause in microseconds (Table 17.2). -/
def tripFilter (cause : Nat) : Nat := if cause = 3 then 50 else if cause = 5 then 20 else if cause = 7 then 100 else 10

/-- HARD_TRIP (R442, R455): causes 3 to 7 of Table 17.2, whose condition has lasted for a time. -/
def execHardTrip (trip : Trip) (s : State) : Host.Outcome State Fault Refusal :=
  .next (if s.pwr.closed && decide (3 ≤ trip.cause) && decide (trip.cause ≤ 7) && decide (tripFilter trip.cause ≤ trip.us) then
    powerOff trip.cause s
  else s)

/-! ### Limits, rails and temperatures (R443, R445, R449, R450) -/

/-- A sample of the input (R443): PWR_STATUS follows it. -/
def inputSample (vin iin : BitVec 12) (watts : BitVec 16) (s : State) : State :=
  { s with pwr := { s.pwr with vin := vin, iin := iin, pin := watts } }

/-- POWER_LIMITING (R443): a sample that has reached a limit begins gating. (DEDUCED, assumption log 101) -/
def execPowerLimiting (vin iin : BitVec 12) (watts : BitVec 16) (s : State) : Host.Outcome State Fault Refusal :=
  .next (if !s.pwr.good then s
    else
      let s := inputSample vin iin watts s
      let amps := decide (s.pwr.iLimit ≤ iin)
      if amps || decide (s.pwr.pLimit ≤ watts) then
        let on := s.pwr.limI || s.pwr.limT
        let s := { s with pwr := { s.pwr with limI := true } }
        if on then s else raise 0x0C02 (if amps then 0 else 1) [] s
      else s)

/-- GATING_RELEASED (R443): a sample within both limits ends the gating that a limit began. -/
def execGatingReleased (vin iin : BitVec 12) (watts : BitVec 16) (s : State) : Host.Outcome State Fault Refusal :=
  .next (if !s.pwr.good then s
    else
      let s := inputSample vin iin watts s
      if iin < s.pwr.iLimit ∧ watts < s.pwr.pLimit then { s with pwr := { s.pwr with limI := false } } else s)

/-- REGULATOR_WARNING (R445): a fitted rail has left ±5 % for 10 µs. -/
def execRegulatorWarning (rail us : Nat) (s : State) : Host.Outcome State Fault Refusal :=
  .next (if s.pwr.good && (railsFitted s.cfg).testBit rail && decide (10 ≤ us) then
      raise 0x0C03 rail [] { s with pwr := { s.pwr with railWarn := s.pwr.railWarn ||| BitVec.ofNat 12 (2 ^ rail)
                                                        railOut := put 0 rail (s.now + 1) s.pwr.railOut } }
    else s)

/-- The hottest die and its temperature; among equals the lowest. (DEDUCED, assumption log 101) -/
def hottestDie (dies : List Int) : Nat × Int :=
  (dies.zipIdx.foldl (fun (b : Option (Nat × Int)) d => match b with
    | some x => if x.2 < d.1 then some (d.2, d.1) else b
    | none => some (d.2, d.1)) none).getD (0, 0)

/-- TEMP of the risk estimate (R381), from a temperature in units of 1/16 °C. (DEDUCED, assumption log 101) -/
def tempTerm (t : Int) : Nat := min 64 (max 0 ((t - 90 * 16) / 4)).toNat

/-- The dies that are fitted, with their temperatures. -/
def fittedDies (c : Cfg) (dies : List Int) : List Int :=
  match c with
  | .sk3_4a => dies.take 5
  | .sk3_2a => (dies.take 5).zipIdx.map fun d => if d.2 = 2 ∨ d.2 = 4 then -32768 else d.1

/-- TEMP_SAMPLE (R381, R449): the hottest sensor of each die (mainland, N, E, S, W) and the coolant, in units of 1/16 °C.
(DEDUCED, assumption log 101) -/
def execTempSample (dies : List Int) (coolIn coolOut : BitVec 16) (s : State) : Host.Outcome State Fault Refusal :=
  .next (if !s.pwr.good then s
    else
      let (d, t) := hottestDie (fittedDies s.cfg dies)
      let before := risk s
      let was := s.pwr.tstate
      let gate := decide (105 * 16 ≤ t) || (s.pwr.limT && decide (103 * 16 ≤ t))
      let st : BitVec 2 := if gate then 2 else if 100 * 16 ≤ t then 1 else 0
      let s := { s with
        pwr := { s.pwr with coolIn := coolIn, coolOut := coolOut, hottest := BitVec.ofInt 16 t, hotDie := BitVec.ofNat 3 d
                            tstate := st, limT := gate }
        hlt := { s.hlt with temp := tempTerm t } }
      let s := requestCheck before s
      let s := if was = 0 ∧ 100 * 16 ≤ t then raise 0x0C04 d [] s else s
      if was ≠ 2 ∧ st = 2 then raise 0x0C05 d [] s else s)

/-- COOLANT_WARNING (R450): a condition has lasted 10 s. -/
def execCoolantWarning (coolIn coolOut : BitVec 16) (s : State) : Host.Outcome State Fault Refusal :=
  .next (if s.pwr.good ∧ (45 * 16 < coolIn.toInt ∨ 20 * 16 < coolOut.toInt - coolIn.toInt) then
      raise 0x0C06 noSubject [] { s with pwr := { s.pwr with coolIn := coolIn, coolOut := coolOut } }
    else s)

/-! ### Input pins (R364, R447, R453 to R455) -/

/-- POWER_WARNING (R397, R447): PWR_WARN_N, or where `uv` says so the undervoltage monitor, after its filter.
(DEDUCED, assumption log 85, 102) -/
def execPowerWarning (uv : Bool) (us : Nat) (s : State) : Host.Outcome State Fault Refusal :=
  .next (if !s.pwr.good then s
    else if us < (if uv then 20 else 10) then (if uv then s else glitch s)
    else if (if uv then s.pwr.warnUv else s.pwr.warnPin) then s
    else
      let s := { s with pwr := if uv then { s.pwr with warnUv := true } else { s.pwr with warnPin := true } }
      startEmergency (raise 0x0C01 (b2n uv) [] s))

/-- LEAK_DETECTED (R447): the on-module sensor (0) or LEAK_IN_N (1), after its filter. (DEDUCED, assumption log 85, 102) -/
def execLeakDetected (src us : Nat) (s : State) : Host.Outcome State Fault Refusal :=
  .next (if !s.pwr.good || decide (2 ≤ src) then s
    else if us < 100000 then glitch s
    else if s.pwr.leak.getLsbD src then s
    else
      let s := { s with pwr := { s.pwr with leak := s.pwr.leak ||| BitVec.ofNat 2 (2 ^ src) } }
      startEmergency (raise 0x0C07 src [] s))

/-- LEAK_N is asserted (R447, R452). -/
def leakOut (s : State) : Bool := s.pwr.leak != 0

/-- FAULT_N is asserted (R452). -/
def faultOut (s : State) : Bool := s.mode == .failed || s.mode == .halted

/-- The filter of a warning source, in microseconds (Table 17.9, R447): the pin, undervoltage, or a leak source. -/
def warnFilter (src : Nat) : Nat := if src = 0 then 10 else if src = 1 then 20 else 100000

/-- WARNING_SOURCE_DEASSERTED (R364, R447): the pin (0), undervoltage (1), the leak sensor (2) or LEAK_IN_N (3), after its filter. RISK
falls with the last. (DEDUCED, assumption log 102) -/
def execWarningSourceDeasserted (src us : Nat) (s : State) : Host.Outcome State Fault Refusal :=
  if us < warnFilter src then .next (if src = 1 then s else glitch s) else
  let p := s.pwr
  let p := match src with
    | 0 => { p with warnPin := false }
    | 1 => { p with warnUv := false }
    | 2 => { p with leak := p.leak &&& 2 }
    | 3 => { p with leak := p.leak &&& 1 }
    | _ => p
  let any := p.warnPin || p.warnUv || p.leak != 0
  .next (requestCheck (risk s) { s with pwr := p, hlt := { s.hlt with warning := s.hlt.warning && any } })

/-- FEED_ID_CHANGED (R364, R454): the feed straps have read otherwise for a time, after stage 1. A pulse of theirs or of the slot straps
that is shorter than their filter is a glitch at any time. (DEDUCED, assumption log 102) -/
def execFeedIdChanged (feed : BitVec 12) (us : Nat) (s : State) : Host.Outcome State Fault Refusal :=
  .next (if us < 10000 then glitch s
    else if !s.pwr.good || decide (s.hbr.stage < 2) then s
    else if s.pwr.feedPins = feed then s
    else raise 0x0C09 noSubject [] { s with pwr := { s.pwr with feedPins := feed } })

/-- PRSNT_N_HIGH (R364, R453): on an ACTIVE port the link is down. Where the pin is high already, its short low pulse has ended.
(DEDUCED, assumption log 102) -/
def execPrsntNHigh (p us : Nat) (s : State) : Host.Outcome State Fault Refusal :=
  .next (if !s.pwr.good || decide (8 ≤ p) then s
    else if us < 1000 then glitch s
    else
      let up := portActive s p
      let s := setPort p { portOf s p with present := some false } s
      if up then losePort p false s else s)

/-- STRAIT_LANE_SPARED (R405): a strait lane (strait × 256 + lane) fails; where its spare is in service its group of 32 is dropped.
(DEDUCED, assumption log 36, 40) -/
def execStraitLaneSpared (target : Nat) (s : State) : Host.Outcome State Fault Refusal :=
  .next (if !modeServes s || !marginTargetOk s.cfg 2 target then s
    else match spareUser s target with
      | none => spareStraitLane target s
      | some u =>
        if u = target ∨ s.mem.straitDropped.contains (target / 32) = true then s
        else { s with mem := { s.mem with straitDropped := s.mem.straitDropped ++ [target / 32] } })

end Sys2Proof.Machine
end

