-- ==== Sys2Proof/Machine/Registers.lean ====
section
/-! DEFINITION. Register space as it is written (R13, R14, R375): every field by its type, with the commands that have rows of their
own. A register is named by its offset from 0xF000_0000_0000. -/

namespace Sys2Proof.Machine

/-- The state of an outcome, or the state before where there is none. -/
def after (s : State) (o : Host.Outcome State Fault Refusal) : State :=
  match o with
  | .next t => t
  | _ => s

/-- Bits of a register's value, from `lo` up, as a field of its width. -/
def regBits (v : Word64) (lo w : Nat) : BitVec w := v.extractLsb' lo w

/-- A W1C bit after a write. (DEDUCED, assumption log 103) -/
def w1c (v : Word64) (bit : Nat) (b : Bool) : Bool := b && !v.getLsbD bit

/-- The XNG_ registers (Tables 1.6 to 1.20). -/
def writeXng (o : Nat) (v : Word64) (s : State) : State :=
  let x := s.xng
  match o with
  | 0x00 =>
    let s := { s with xng := { x with ovrStop := v.getLsbD 2 } }
    let s := after s (execRingEn (v.getLsbD 1) s)
    if v.getLsbD 0 then after s (execPeriodApply s) else s
  | 0x08 => { s with xng := { x with
      badRing := w1c v 11 x.badRing, leadLost := w1c v 10 x.leadLost, groupFault := w1c v 9 x.groupFault, overrun := w1c v 8 x.overrun
      badWindow := w1c v 7 x.badWindow, badPeriod := w1c v 6 x.badPeriod, alignErr := w1c v 5 x.alignErr } }
  | 0x10 => { s with xng := { x with next := regBits v 32 26 } }
  | 0x18 => { s with xng := { x with applyAt := v } }
  | 0x20 => after s (execWindowWrite (regBits v 0 26) s)
  | 0x28 =>
    if x.role = .solo then { s with xng := { x with
      groupId := regBits v 32 16, votePort := regBits v 29 3, altPort := regBits v 26 3, sizeM1 := regBits v 10 10, rank := regBits v 0 10 } }
    else s
  | 0x68 => if x.ringEn then s else { s with xng := { x with ringBase := regBits v 12 36, ringSize := regBits v 0 4 } }
  | _ => s

/-- The TTU_ registers (Tables 7.10 to 7.13). -/
def writeTtu (o : Nat) (v : Word64) (s : State) : State :=
  match o with
  | 0x18 => after s (execTtuCursorPost (regBits v 0 40) s)
  | 0x68 => { s with ttu := { s.ttu with shipErr := w1c v 62 s.ttu.shipErr } }
  | _ =>
    if 0x20 ≤ o ∧ o < 0x60 ∧ o % 8 = 0 then { s with ttu := { s.ttu with cursorData := s.ttu.cursorData.set ((o - 0x20) / 8) v } } else s

/-- The ISL_ registers (Table 5.9). -/
def writeIsl (o : Nat) (v : Word64) (s : State) : State :=
  if o = 0 then { s with isl := { s.isl with scrubEn := v.getLsbD 1, nfTrap := v.getLsbD 0 } } else s

/-- QBASE of a free-running queue: locked while ENABLE is 1 (Tables 5.14, 6.12). -/
def writeBase (v : Word64) (q : Queue) : Queue := if q.enable then q else { q with base := regBits v 12 36 }

/-- The FRY_ registers (Tables 5.14 to 5.17). -/
def writeFry (o : Nat) (v : Word64) (s : State) : State :=
  let q := (o - 0x100) / 0x20
  if o < 0x100 ∨ 0x2100 ≤ o then s
  else match (o - 0x100) % 0x20 with
    | 0x00 => setFryQ q (writeBase v (fryQ s q)) s
    | 0x08 => after s (if v.getLsbD 0 then execFryQcfgEnable q v s else execFryQcfgDisable q v s)
    | 0x10 => after s (execFryQtail q (regBits v 0 32) s)
    | 0x18 => setFryQ q { fryQ s q with err := w1c v 63 (fryQ s q).err } s
    | _ => s

/-- The LNC_ registers (Tables 6.10 to 6.15). -/
def writeLnc (o : Nat) (v : Word64) (s : State) : State :=
  let q := (o - 0x100) / 0x20
  if o = 0 then { s with lnc := { s.lnc with trapValid := w1c v 63 s.lnc.trapValid } }
  else if o < 0x100 ∨ 0x900 ≤ o then s
  else match (o - 0x100) % 0x20 with
    | 0x00 => setLncQ q (writeBase v (lncQ s q)) s
    | 0x08 => after s (if v.getLsbD 0 then execLncQcfgEnable q v s else execLncQcfgDisable q v s)
    | 0x10 => after s (execLncQtail q (regBits v 0 32) s)
    | 0x18 => setLncQ q { lncQ s q with err := w1c v 63 (lncQ s q).err } s
    | _ => s

/-- The MEM_ registers (Tables 8.5, 8.7). -/
def writeMemReg (o : Nat) (v : Word64) (s : State) : State :=
  match o with
  | 0x00 => { s with mem := { s.mem with ceLimit := regBits v 16 16, scrubEn := v.getLsbD 0 } }
  | 0x10 => { s with mem := { s.mem with eccLast := { s.mem.eccLast with valid := w1c v 63 s.mem.eccLast.valid } } }
  | _ => s

/-- A write of RGN_CMD.OP (R261): 0 starts none, and an op that Table 9.5 does not list completes with BAD_OPCODE. -/
def writeRgnCmd (op : Nat) (s : State) : State :=
  match op with
  | 0 => s
  | 1 => after s (execAllocCtx .register s)
  | 2 => after s (execFreeCtx .register s)
  | 3 => after s (execAddRegion .register s)
  | 4 => after s (execRemoveRegion .register s)
  | 5 => after s (execPin .register s)
  | 6 => after s (execUnpin .register s)
  | 7 => after s (execEvict .register s)
  | 8 => after s (execJoinGroup .register s)
  | 9 => after s (execLeaveGroup .register s)
  | _ => after s (execUndefinedOpcode .register s)

/-- The RGN_ registers (Tables 9.7 to 9.14). -/
def writeRgn (o : Nat) (v : Word64) (s : State) : State :=
  let r := s.rgn
  match o with
  | 0x00 => { s with rgn := { r with threshold := regBits v 24 8, decay := regBits v 16 4, migEn := v.getLsbD 0 } }
  | 0x10 => { s with rgn := { r with arg0 := v } }
  | 0x18 => { s with rgn := { r with arg1 := v } }
  | 0x20 => writeRgnCmd (regBits v 0 8).toNat { s with rgn := { r with refused := w1c v 62 r.refused } }
  | 0x30 => { s with rgn := { r with faultValid := w1c v 63 r.faultValid } }
  | 0x38 => { s with rgn := { r with ctxSel := regBits v 0 16 } }
  | _ => s

/-- The SND_ registers (Tables 11.6, 11.8): LOCK is W1S, and MODE and TIMEOUT are fixed by it. -/
def writeSnd (o : Nat) (v : Word64) (s : State) : State :=
  match o with
  | 0x00 =>
    let s := if s.snd.lock then s else { s with snd := { s.snd with mode := v.getLsbD 16, timeout := regBits v 0 16 } }
    if v.getLsbD 32 then lockRing s else s
  | 0x10 => { s with snd := { s.snd with errValid := w1c v 63 s.snd.errValid } }
  | _ => s

/-- Ports whose function is STARTING and whose training PORT_EN held back begin to train (R321). -/
def trainHeld (s : State) : State :=
  (List.range 8).foldl (fun s p =>
    let x := portOf s p
    if s.zng.portEn.getLsbD p && x.func == .starting && x.phase == .down then setPort p { x with phase := .detect } s else s) s

/-- The ZNG_ registers (Tables 12.10, 12.14). (DEDUCED, assumption log 104) -/
def writeZng (o : Nat) (v : Word64) (s : State) : State :=
  match o with
  | 0x00 => trainHeld { s with zng := { s.zng with creditTo := regBits v 32 16, laneCe := regBits v 16 16, portEn := regBits v 0 8 } }
  | 0x20 =>
    let s := { s with zng := { s.zng with flTimeout := w1c v 62 s.zng.flTimeout } }
    if v.getLsbD 32 then after s (execZngFlushStart s) else s
  | _ => s

/-- HBR_MB_CTRL of mailbox m (Table 13.13): DOORBELL and ACK are each judged on the state that the write finds. -/
def writeMbCtrl (m : Nat) (v : Word64) (s : State) : State :=
  let x := mbOf s m
  let s := setMb m { x with err := w1c v 63 x.err, irqEn := v.getLsbD 8 } s
  let s := if v.getLsbD 4 then after s (execMailboxDoorbell m s) else s
  if v.getLsbD 5 && x.state == .done then after s (execMailboxAck m s) else s

/-- The HBR_ registers (Tables 13.13, 13.14). -/
def writeHbr (o : Nat) (v : Word64) (s : State) : State :=
  if 0x100 ≤ o ∧ o < 0x138 ∧ o % 8 = 0 then writeMbCtrl ((o - 0x100) / 8 + 9) v s
  else if 0x8000 ≤ o ∧ o < 0xF000 ∧ o % 8 = 0 then writeBox ((o - 0x8000) / 0x1000 + 9) (o % 0x1000) (toLE 8 v.toNat) s
  else s

/-- The HLT_ registers (Tables 14.7, 14.9). (DEDUCED, assumption log 103) -/
def writeHlt (o : Nat) (v : Word64) (s : State) : State :=
  match o with
  | 0x00 => { s with hlt := { s.hlt with
      secureAt := regBits v 56 8, half := regBits v 42 6, grain := regBits v 32 5, slotLog2 := regBits v 26 6
      windowH := regBits v 16 10, mode := v.getLsbD 0 } }
  | 0x10 => { s with hlt := { s.hlt with secErr := w1c v 62 s.hlt.secErr } }
  | _ => s

/-- The REC_ registers (Tables 15.5, 15.7, 15.8): the ring is locked while the reader is not STOPPED. -/
def writeRec (o : Nat) (v : Word64) (s : State) : State :=
  let g := s.log
  let idle := s.hbr.reader == .stopped
  match o with
  | 0x10 => { s with log := { g with sel := regBits v 0 16 } }
  | 0x60 => if idle then { s with log := { g with ringBase := regBits v 12 36, ringSize := regBits v 0 4 } } else s
  | 0x68 => if idle then { s with log := { g with fromSeq := v } } else s
  | _ => s

/-- A limit takes a value of its range; another is ignored (Table 17.11). (DEDUCED, assumption log 103) -/
def limitTo {w : Nat} (lo hi : Nat) (new old : BitVec w) : BitVec w := if lo ≤ new.toNat ∧ new.toNat ≤ hi then new else old

/-- The PWR_ registers (Tables 17.11, 17.13). (DEDUCED, assumption log 103) -/
def writePwr (o : Nat) (v : Word64) (s : State) : State :=
  let p := s.pwr
  match o with
  | 0x08 => { s with pwr := { p with
      pLimit := limitTo 2000 5800 (regBits v 32 16) p.pLimit, iLimit := limitTo 600 1800 (regBits v 16 12) p.iLimit } }
  | 0x18 => { s with pwr := { p with railWarn := p.railWarn &&& ~~~(regBits v 32 12) } }
  | _ => s

/-- A register written; where no register lies a write is ignored (R375). (DEDUCED, assumption log 68) -/
def writeReg (off : Nat) (v : Word64) (s : State) : State :=
  let o := off % 0x10000
  match off / 0x10000 with
  | 0 => writeXng o v s
  | 1 => writeTtu o v s
  | 2 => writeIsl o v s
  | 3 => writeFry o v s
  | 4 => writeLnc o v s
  | 5 => writeMemReg o v s
  | 6 => writeRgn o v s
  | 7 => writeSnd o v s
  | 8 => writeZng o v s
  | 9 => writeHbr o v s
  | 10 => writeHlt o v s
  | 11 => writeRec o v s
  | 13 => writePwr o v s
  | _ => s

/-- REGISTER_WRITE (R13, R14); without power no register is reached (R444). -/
def execRegisterWrite (off : Nat) (v : Word64) (s : State) : Host.Outcome State Fault Refusal :=
  .next (if s.pwr.good then writeReg off v s else s)

end Sys2Proof.Machine
end

