-- ==== Sys2Proof/Machine/Mainland.lean ====
section
/-! DEFINITION. The mainland's harts as the module meets them (R279 to R291): accesses by the map of Table 10.3, cache-block
operations, and CSR skctx. What is architectural state of RISC-V alone is not part of the module's state (assumption log 45). -/

namespace Sys2Proof.Machine

/-- The module has this hart, it has power, and bring-up stage 6, in which harts are released once the mainland body is checked, has ended
(R279, R377, R431, R444).
(DEDUCED, assumption log 105) -/
def hartRuns (s : State) (h : Nat) : Bool := s.pwr.good && decide (7 ≤ s.hbr.stage) && decide (h < 128)

/-- The context that a hart's requests carry (R284). -/
def hartCtx (s : State) (h : Nat) : Nat := (hartOf s h).ctx.toNat

/-- An address of the home windows (R223). -/
def isHome (a : Nat) : Bool := decide (a < 0xA0000000000)

/-- An address of register space (Table 10.3), up to the end of the 48-bit address space. (DEDUCED, assumption log 68) -/
def isRegSpace (a : Nat) : Bool := decide (0xF00000000000 ≤ a) && decide (a < 0x1000000000000)

/-- The parts of an access that crosses cache lines: address, offset in the access, and length. By fuel.
(DEDUCED, assumption log 67) -/
def lineParts : Nat → Nat → Nat → Nat → List (Nat × Nat × Nat)
  | 0, _, _, _ => []
  | n + 1, a, off, left =>
    if left = 0 then []
    else
      let k := min left (64 - a % 64)
      (a, off, k) :: lineParts n (a + k) (off + k) (left - k)

/-- One part of a cached access meets its line; a part past the home windows faults (Table 10.3). -/
def homePart (acc : CAccess) (r : Nat × Nat × Nat) (s : State) : State :=
  let part := { acc with addr := r.1, write := acc.write.map fun d => slice d r.2.1 r.2.2, size := r.2.2
                         va := acc.va + BitVec.ofNat 64 r.2.1 }
  if isHome r.1 then lineAccess part s else if isPrefetch acc then s else hartFault part 0 s

/-- A cached access of a hart (R281, R285, R286), for which its L2 first replaces another line, if any.
(DEDUCED, assumption log 67) -/
def homeAccess (acc : CAccess) (victim : Option Nat) (s : State) : State :=
  let s := match victim with
    | some v => if v = acc.addr / 64 then s else replaceLine acc.hart v s
    | none => s
  (lineParts (acc.size / 64 + 2) acc.addr 0 acc.size).foldl (fun s r => homePart acc r s) s

/-- An access that register space and the host window permit (Table 10.3): a plain load or store. -/
def plainAccess (acc : CAccess) : Bool := acc.kind == .load || acc.kind == .store

/-- An uncached access to register space: 8 bytes, naturally aligned (R282, R283). (DEDUCED, assumption log 68) -/
def regAccess (acc : CAccess) (s : State) : State :=
  if !plainAccess acc then hartFault acc 0 s
  else if acc.size ≠ 8 ∨ acc.addr % 8 ≠ 0 then hartFault acc 6 s
  else
    let off := acc.addr - 0xF00000000000
    match acc.write with
    | some bs => writeReg off (BitVec.ofNat 64 (leNat bs)) s
    | none => emit (.loaded acc.hart acc.addr (toLE 8 (readReg s off).toNat)) s

/-- An uncached access to the host window: 1, 2, 4 or 8 bytes, naturally aligned, under the region check (R254, R282, R283); a load that no
port can carry has poisoned data (R341). -/
def windowAccess (acc : CAccess) (s : State) : State :=
  let off := acc.addr - hostBase
  if !plainAccess acc || !([1, 2, 4, 8].contains acc.size) || acc.addr % acc.size != 0 then hartFault acc 0 s
  else if !regionOk s acc.ctx acc.addr acc.size acc.write.isSome then hartFault acc 5 s
  else match acc.write with
    | some bs => hostWrite off bs (.hart acc.hart acc.ctx acc.addr acc.va) s
    | none =>
      if allLost s then hartFault acc 3 (hostLost off s) else hostRead off acc.size (.hart acc.hart acc.ctx acc.addr acc.va) s

/-- An access of a hart to the host window has not been performed (R283): it waits for its port (R341, R342), or is a load without an answer. -/
def hartStalled (s : State) (h : Nat) : Bool :=
  (s.zng.queued ++ s.zng.issued.filter fun r => !r.write).any fun r => match r.use with
    | .hart g _ _ _ => g == h
    | _ => false

/-- An uncached access performed. -/
def ioPerform (acc : CAccess) (s : State) : State := if isHost acc.addr then windowAccess acc s else regAccess acc s

/-- The uncached accesses of a hart that wait are performed in order, as far as their targets accept them, by fuel. -/
def drainIo : Nat → Nat → State → State
  | 0, _, s => s
  | n + 1, h, s =>
    if hartStalled s h then s
    else match (hartOf s h).io with
      | [] => s
      | acc :: rest => drainIo n h (ioPerform acc (setHart h { hartOf s h with io := rest } s))

/-- An uncached access in program order (R283): behind one that has not been performed it waits. -/
def ioAccess (acc : CAccess) (s : State) : State :=
  let io := (hartOf s acc.hart).io
  if io.isEmpty && !hartStalled s acc.hart then ioPerform acc s
  else drainIo (io.length + 1) acc.hart (setHart acc.hart { hartOf s acc.hart with io := io ++ [acc] } s)

/-- The uncached accesses of every hart go on (R283). -/
def drainHarts (s : State) : State := s.harts.foldl (fun s h => drainIo h.2.io.length h.1 s) s

/-- An access of a hart, by the map of Table 10.3; a prefetch of anything but main memory is dropped (R275). -/
def coreAccess (acc : CAccess) (victim : Option Nat) (s : State) : State :=
  if hartRuns s acc.hart then
    let acc := { acc with ctx := hartCtx s acc.hart }
    if isHome acc.addr then homeAccess acc victim s
    else if isPrefetch acc then s
    else if isHost acc.addr || isRegSpace acc.addr then ioAccess acc s
    else hartFault acc 0 s
  else s

/-- LOAD (R275, R282, R310): a load, an instruction fetch, a load-reserved, or a prefetch. -/
def execLoad (hart addr size : Nat) (kind : AccKind) (va : Word64) (victim : Option Nat) (s : State) :
    Host.Outcome State Fault Refusal :=
  .next (coreAccess { hart := hart, ctx := 0, addr := addr, write := none, size := size, kind := kind, va := va } victim s)

/-- STORE (R282, R286, R310): a store, a store-conditional, or an AMO with its operand. -/
def execStore (hart addr : Nat) (data : List Byte) (kind : AccKind) (va : Word64) (victim : Option Nat) (s : State) :
    Host.Outcome State Fault Refusal :=
  .next (coreAccess { hart := hart, ctx := 0, addr := addr, write := some data, size := data.length, kind := kind, va := va } victim s)

/-- HOST_WINDOW_ACCESS (R283): a load of `size` bytes, or a store. (DEDUCED, assumption log 69) -/
def execHostWindowAccess (hart addr size : Nat) (va : Word64) (data : Option (List Byte)) (s : State) :
    Host.Outcome State Fault Refusal :=
  if isHost addr then
    .next (coreAccess { hart := hart, ctx := 0, addr := addr, write := data, size := (data.map (·.length)).getD size, va := va
                        kind := if data.isSome then .store else .load } none s)
  else .next s

/-- A cache-block operation of a hart on its line (R287, R304); where nothing is cached it has nothing to do.
(DEDUCED, assumption log 71) -/
def cboLine (h a : Nat) (op : CboOp) (va : Word64) (s : State) : State :=
  let acc : CAccess := { hart := h, ctx := hartCtx s h, addr := a / 64 * 64, write := none, size := 0, cbo := some op, va := va }
  if hartRuns s h && isHome a then lineAccess acc s
  else if hartRuns s h && !isHost a && !isRegSpace a then hartFault { acc with addr := a } 0 s
  else s

/-- CBO_CLEAN (R287). -/
def execCboClean (hart addr : Nat) (va : Word64) (s : State) : Host.Outcome State Fault Refusal := .next (cboLine hart addr .clean va s)

/-- CBO_FLUSH (R287). -/
def execCboFlush (hart addr : Nat) (va : Word64) (s : State) : Host.Outcome State Fault Refusal := .next (cboLine hart addr .flush va s)

/-- CBO_INVAL (R287, Table 11.4): a flush where the hart's envcfg does not permit it. (DEDUCED, assumption log 71) -/
def execCboInval (hart addr : Nat) (va : Word64) (permit : Bool) (s : State) : Host.Outcome State Fault Refusal :=
  .next (cboLine hart addr (if permit then .inval else .flush) va s)

/-- CBO_ZERO (R289): the whole line is written, which clears its poison. -/
def execCboZero (hart addr : Nat) (va : Word64) (victim : Option Nat) (s : State) : Host.Outcome State Fault Refusal :=
  .next (coreAccess { hart := hart, ctx := 0, addr := addr / 64 * 64, write := some (zeros 64), size := 64, kind := .store, va := va } victim s)

/-! ### CSRs (R280, R284, R288, R290) -/

/-- What a read of a CSR gives: its value, or the exception of the mode (R284). -/
inductive CsrRead where
  | value (v : Word64) | illegal | virtual
  deriving DecidableEq, Repr

/-- skctx may be accessed in M-mode and S-mode (R284). -/
def skctxAccess (priv : Priv) (v : Word64) : CsrRead :=
  match priv with
  | .m | .s => .value v
  | .u => .illegal
  | .vs | .vu => .virtual

/-- mtime: one every 40 cycles of the arithmetic clock (Table 10.1). -/
def mtime (s : State) : Word64 := BitVec.ofNat 64 (s.now / 40)

/-- instret: the instructions that a hart has retired, cycle by cycle a free value. (DESIGN CHOICE, assumption log 139) -/
def instret (h now : Nat) : Word64 := BitVec.ofNat 64 ((List.range now).foldl (fun n t => n + Config.retired h t) 0)

/-- What hart h reads from a CSR that the spec gives a value (R279, R280, R284, R288, R290): skctx, skfault, cycle at 3.2 GHz, time, instret, the
counters and selectors that read as zero, and mnepc, mncause and mnstatus of Smrnmi. (DEDUCED, assumption log 147) -/
def hartCsr (s : State) (h : Nat) (priv : Priv) (csr : Nat) : Option CsrRead :=
  let x := hartOf s h
  if csr = 0x5C0 then some (skctxAccess priv (x.ctx.setWidth 64))
  else if csr = 0xDC0 then some (.value (BitVec.ofNat 64 (x.faultKind.toNat + x.faultCtx.toNat * 2 ^ 16)))
  else if csr = 0xC00 ∨ csr = 0xB00 then some (.value (BitVec.ofNat 64 (s.now * 4 / 5)))
  else if csr = 0xC01 then some (.value (mtime s))
  else if csr = 0xC02 ∨ csr = 0xB02 then some (.value (instret h s.now))
  else if (0xC03 ≤ csr ∧ csr ≤ 0xC1F) ∨ (0xB03 ≤ csr ∧ csr ≤ 0xB1F) ∨ (0x323 ≤ csr ∧ csr ≤ 0x33F) then some (.value 0)
  else if csr = 0x741 then some (.value x.mnepc)
  else if csr = 0x742 then some (.value x.mncause)
  else if csr = 0x744 then some (.value (BitVec.ofNat 64 (x.mnpp.toNat * 2 ^ 11 + b2n x.mnpv * 2 ^ 7 + b2n x.nmie * 2 ^ 3)))
  else none

/-- SKCTX_WRITE (R284): in M-mode and S-mode; elsewhere the exception of the mode. -/
def execSkctxWrite (hart : Nat) (priv : Priv) (v : Word64) (s : State) : Host.Outcome State Fault Refusal :=
  if hartRuns s hart then
    match priv with
    | .m | .s => .next (setHart hart { hartOf s hart with ctx := v.truncate 16 } s)
    | .u => .next (emit (.trap hart false) s)
    | .vs | .vu => .next (emit (.trap hart true) s)
  else .next s

end Sys2Proof.Machine
end

