-- ==== Sys2Proof/Machine/Inbound.lean ====
section
/-! DEFINITION. DATA flits received (R326 to R332): the byte stream of their bodies, its transactions, and the credits that go
back. Each transaction is the command of its row. -/

namespace Sys2Proof.Machine

/-- A transaction of the stream: its effect, its class where its credits go back, and whether it is well formed (R331, R332). -/
structure Inbound where
  act  : State → Host.Outcome State Fault Refusal
  cls  : Option Nat
  fine : Bool

/-- A header equals the one that its named fields give: every field not named is zero (R331, R332). -/
def headIs (h : List Byte) (code flags len : Nat) (fields : List (Nat × Nat)) : Bool :=
  h == txnHead code flags len 16 (fields.map fun f => (f.1, f.2, fld h f.1 f.2))

/-- The verdict that a KIND of Table 12.9 names. -/
def verdictOf (k : Nat) : Verdict := if k = 0 then .advance else if k = 1 then .slack else .fault

/-- An entry of a DECISION (Table 12.9). -/
def entryOfBytes (at_ : Nat) (e : List Byte) : MemberChange :=
  { join := fld e 6 1 == 1, rank := fld e 4 2, tick := at_, peer := fld e 0 4 }

/-- The entries of a DECISION. -/
def changesOf (pay : List Byte) : List MemberChange :=
  (List.range (fld pay 36 2)).map fun i => entryOfBytes (fld pay 40 8) (slice pay (64 + 8 * i) 8)

/-- A DECISION's payload read (Table 12.9). -/
def decisionOf (group : Nat) (pay : List Byte) : Decision :=
  let flags := fld pay 15 1
  { group := group, tick := fld pay 0 8, verdict := verdictOf (fld pay 14 1), index := fld pay 8 6, slackRun := fld pay 48 4
    stop := flags.testBit 4
    period := if flags.testBit 0 then some (fld pay 16 4, fld pay 20 8) else none
    members := if flags.testBit 2 then changesOf pay else []
    switch := if flags.testBit 1 then some (fld pay 28 6) else none
    dissolve := if flags.testBit 3 then some (fld pay 40 8) else none
    sizeM1 := fld pay 38 2 }

/-- A DECISION's payload is within Table 12.9: its kinds, counts and length, and zeros where it names nothing.
(DEDUCED, assumption log 73) -/
def decisionFine (pay : List Byte) : Bool :=
  let n := fld pay 36 2
  decide (fld pay 14 1 ≤ 2) && decide (fld pay 15 1 < 32) && decide (n ≤ 120) && pay.length == 64 + 8 * n && fld pay 52 12 == 0
    && (List.range n).all fun i =>
      let e := slice pay (64 + 8 * i) 8
      (fld e 6 1 == 1 || fld e 6 1 == 2) && fld e 7 1 == 0

/-- A DECISION from the link: on the lead it is a member's request, whose leave entries it names (R368). -/
def takeDecision (d : Decision) (s : State) : Host.Outcome State Fault Refusal :=
  if s.xng.role = .lead then
    .next (if d.group = s.xng.groupId.toNat then (d.members.filter fun c => !c.join).foldl (fun s c => leaveNamed c.rank c.peer s) s else s)
  else execDecision d s

/-- The transaction of a header and payload, from an adapter (Table 12.3); none for an unknown code or a wrong direction.
(DEDUCED, assumption log 73) -/
def inboundOf (p : Nat) (h pay : List Byte) : Option Inbound :=
  let flags := fld h 1 1
  let len := fld h 2 2
  let d := pay
  match fld h 0 1 with
  | 0x01 => some ⟨execCrd p (fld h 4 1) (fld h 6 2), none, headIs h 0x01 0 0 [(4, 1), (6, 2)]⟩
  | 0x02 => some ⟨fun s => .next (winWrite p (fld h 4 4) d s), some 0, headIs h 0x02 0 len [(4, 4)]⟩
  | 0x03 => some ⟨fun s => .next (place p (fld h 4 2) (fld h 6 2) (fld h 8 6) (flags.testBit 0) none d s), some 0,
      headIs h 0x03 (flags % 2) len [(4, 2), (6, 2), (8, 6)] && decide (1 ≤ len) && decide (len ≤ 1024)⟩
  | 0x08 => some ⟨fun s => .next (readAnswer p (fld h 4 2) (fld h 6 1) (fld h 8 4) d s), none,
      headIs h 0x08 0 len [(4, 2), (6, 1), (8, 4)] && decide (fld h 6 1 ≤ 1) && decide (1 ≤ len) && decide (len ≤ 1024)⟩
  | 0x09 => some ⟨fun s => .next (writeAnswer p (fld h 4 2) (fld h 6 1) s), none,
      headIs h 0x09 0 0 [(4, 2), (6, 1)] && decide (fld h 6 1 ≤ 3)⟩
  | 0x0B => some ⟨execFlushAck p (fld h 4 4), none, headIs h 0x0B 0 0 [(4, 4)]⟩
  | 0x0D => some ⟨execFeed (flags.testBit 1) (fld h 4 4) (fld h 8 4) (fld h 12 2), some 0,
      headIs h 0x0D (2 * (flags / 2 % 2)) 0 [(4, 4), (8, 4), (12, 2)]⟩
  | 0x0F => some ⟨execVoteSum (fld h 4 2) (fld h 8 2) (flags.testBit 0) (BitVec.ofNat 1024 (leNat d)), some 2,
      headIs h 0x0F (flags % 2) 128 [(4, 2), (8, 2)]⟩
  | 0x10 => some ⟨takeDecision (decisionOf (fld h 4 2) d), some 2, headIs h 0x10 0 len [(4, 2)] && decisionFine d⟩
  | 0x11 => some ⟨execProbe (flags.testBit 1) (fld h 4 2) (fld h 6 2) (fld d 0 8) (fld d 8 4) (fld d 12 4), some 2,
      headIs h 0x11 (2 * (flags / 2 % 2)) 16 [(4, 2), (6, 2)]⟩
  | _ => none

/-- The transactions of a port's stream, by fuel: the state after, and the bytes of one that is not yet whole (R328, R332).
(DEDUCED, assumption log 30) -/
def parseStream : Nat → Nat → List Byte → State → State × List Byte
  | 0, _, bs, s => (s, bs)
  | n + 1, p, bs, s =>
    if !portCarries s p || fld bs 0 1 == 0 then (s, [])
    else if bs.length < 16 then (s, bs)
    else
      let len := fld bs 2 2
      let size := 16 + ceilDiv len 8 * 8
      let h := bs.take 16
      if (inboundOf p h []).isNone || 1024 < len then (malformed p s, [])
      else if bs.length < size then (s, bs)
      else match inboundOf p h (slice bs 16 len) with
        | some t =>
          if t.fine then parseStream n p (bs.drop size) (returnCredits p t.cls size (after s (t.act s)))
          else (malformed p s, [])
        | none => (malformed p s, [])

/-- The body of an accepted flit joins the port's stream (R328). -/
def takeBody (p : Nat) (body : List Byte) (s : State) : State :=
  let bs := (portOf s p).stream ++ body
  let (s, rest) := parseStream (bs.length / 8 + 1) p bs (setPort p { portOf s p with stream := [] } s)
  if rest.isEmpty then s else setPort p { portOf s p with stream := rest } s

/-! ### Commands after which a hart's uncached accesses go on (R283) -/

/-- RD_CPL (R341): a part of a read of port p. -/
def execRdCpl (p tag status off : Nat) (data : List Byte) (s : State) : Host.Outcome State Fault Refusal :=
  .next (drainHarts (readAnswer p tag status off data s))

/-- WR_ACK (R341, R346): the acknowledgement of a write of port p. -/
def execWrAck (p tag status : Nat) (s : State) : Host.Outcome State Fault Refusal :=
  .next (drainHarts (writeAnswer p tag status s))

/-- LINKUP (R324, R329). (DEDUCED, assumption log 75) -/
def execLinkup (p peer req ctl trip : Nat) (s : State) : Host.Outcome State Fault Refusal :=
  .next (drainHarts (linkUp p peer req ctl trip s))

/-- RETRAIN_DONE (R325). -/
def execRetrainDone (p : Nat) (bad : BitVec 5) (peer trip : Nat) (s : State) : Host.Outcome State Fault Refusal :=
  .next (drainHarts (retrainEnds p bad peer trip s))

/-- KEYS_RETURNED (R350). -/
def execKeysReturned (p : Nat) (s : State) : Host.Outcome State Fault Refusal := .next (drainHarts (keysReturn p s))

/-- DATA_FLIT (R319, R326, R327): accepted where its SEQ is the expected one, discarded where it is earlier, and answered by a NAK
where it is ahead, or bad. -/
def execDataFlit (p : Nat) (bytes : List Byte) (corr : List Nat) (uncorr : Nat) (s : State) : Host.Outcome State Fault Refusal :=
  if portActive s p then
    let s := countFec p corr uncorr s
    if !flitGood bytes uncorr then .next (badFlit p s)
    else if flitType bytes ≠ 1 then .next s
    else
      let s := takeAck p (flitAck bytes) s
      let ahead := (flitSeq bytes + 4096 - ((portOf s p).ack + 1) % 4096) % 4096
      if ahead = 0 then
        .next (drainHarts (takeBody p (slice bytes 4 248) (setPort p { portOf s p with ack := flitSeq bytes, nakAt := none } s)))
      else if ahead < 2048 then .next (sendNak p s)
      else .next s
  else .next s

end Sys2Proof.Machine
end

