-- ==== Sys2Proof/Machine/LaneAlu.lean ====
section
/-! DEFINITION. The lane instructions that touch only registers: ALU, PACK, FP, CVT, CMP, PLOG, SEL, immediates, branches
(R177 to R181, Tables 6.3 and 6.4). -/

namespace Sys2Proof.Machine

/-- ADD (R178, R179). -/
def execLaneAdd (w : LaneWho) (f : FR) (s : State) : Host.Outcome State Fault Refusal :=
  .next (laneAlu w (.laneAdd w f) f (fun _ a b => a + b) s)

/-- SUB (R179). -/
def execLaneSub (w : LaneWho) (f : FR) (s : State) : Host.Outcome State Fault Refusal :=
  .next (laneAlu w (.laneSub w f) f (fun _ a b => a - b) s)

/-- AND (R179). -/
def execLaneAnd (w : LaneWho) (f : FR) (s : State) : Host.Outcome State Fault Refusal :=
  .next (laneAlu w (.laneAnd w f) f (fun _ a b => a &&& b) s)

/-- OR (R179). -/
def execLaneOr (w : LaneWho) (f : FR) (s : State) : Host.Outcome State Fault Refusal :=
  .next (laneAlu w (.laneOr w f) f (fun _ a b => a ||| b) s)

/-- XOR (R179). -/
def execLaneXor (w : LaneWho) (f : FR) (s : State) : Host.Outcome State Fault Refusal :=
  .next (laneAlu w (.laneXor w f) f (fun _ a b => a ^^^ b) s)

/-- SLL: the shift amount is bits [4:0] (R179). -/
def execLaneSll (w : LaneWho) (f : FR) (s : State) : Host.Outcome State Fault Refusal :=
  .next (laneAlu w (.laneSll w f) f (fun _ a b => a <<< (b.toNat % 32)) s)

/-- SRL (R179). -/
def execLaneSrl (w : LaneWho) (f : FR) (s : State) : Host.Outcome State Fault Refusal :=
  .next (laneAlu w (.laneSrl w f) f (fun _ a b => a >>> (b.toNat % 32)) s)

/-- SRA (R179). -/
def execLaneSra (w : LaneWho) (f : FR) (s : State) : Host.Outcome State Fault Refusal :=
  .next (laneAlu w (.laneSra w f) f (fun _ a b => a.sshiftRight (b.toNat % 32)) s)

/-- MUL: the low 32 bits (R179). -/
def execLaneMul (w : LaneWho) (f : FR) (s : State) : Host.Outcome State Fault Refusal :=
  .next (laneAlu w (.laneMul w f) f (fun _ a b => a * b) s)

/-- MULHU: the high 32 bits, unsigned (R179). -/
def execLaneMulhu (w : LaneWho) (f : FR) (s : State) : Host.Outcome State Fault Refusal :=
  .next (laneAlu w (.laneMulhu w f) f (fun _ a b => BitVec.ofNat 32 (a.toNat * b.toNat / 2 ^ 32)) s)

/-- MULH: the high 32 bits, signed (R179). -/
def execLaneMulh (w : LaneWho) (f : FR) (s : State) : Host.Outcome State Fault Refusal :=
  .next (laneAlu w (.laneMulh w f) f (fun _ a b => BitVec.ofInt 32 (a.toInt * b.toInt / (2 ^ 32 : Nat))) s)

/-- MIN, signed (R178). -/
def execLaneMin (w : LaneWho) (f : FR) (s : State) : Host.Outcome State Fault Refusal :=
  .next (laneAlu w (.laneMin w f) f (fun _ a b => minS a b) s)

/-- MAX, signed (R178). -/
def execLaneMax (w : LaneWho) (f : FR) (s : State) : Host.Outcome State Fault Refusal :=
  .next (laneAlu w (.laneMax w f) f (fun _ a b => maxS a b) s)

/-- MINU (R178). -/
def execLaneMinu (w : LaneWho) (f : FR) (s : State) : Host.Outcome State Fault Refusal :=
  .next (laneAlu w (.laneMinu w f) f (fun _ a b => if a.toNat < b.toNat then a else b) s)

/-- MAXU (R178). -/
def execLaneMaxu (w : LaneWho) (f : FR) (s : State) : Host.Outcome State Fault Refusal :=
  .next (laneAlu w (.laneMaxu w f) f (fun _ a b => if a.toNat < b.toNat then b else a) s)

/-- DIVU: by zero, all ones (R179). -/
def execLaneDivu (w : LaneWho) (f : FR) (s : State) : Host.Outcome State Fault Refusal :=
  .next (laneAlu w (.laneDivu w f) f (fun _ a b => if b = 0 then 0xFFFFFFFF else a / b) s)

/-- REMU: by zero, the dividend (R179). -/
def execLaneRemu (w : LaneWho) (f : FR) (s : State) : Host.Outcome State Fault Refusal :=
  .next (laneAlu w (.laneRemu w f) f (fun _ a b => if b = 0 then a else a % b) s)

/-- ADD.B4 (R178). -/
def execLaneAddB4 (w : LaneWho) (f : FR) (s : State) : Host.Outcome State Fault Refusal :=
  .next (laneAlu w (.laneAddB4 w f) f (fun _ a b => packB4 (· + ·) a b) s)

/-- SUB.B4 (R178). -/
def execLaneSubB4 (w : LaneWho) (f : FR) (s : State) : Host.Outcome State Fault Refusal :=
  .next (laneAlu w (.laneSubB4 w f) f (fun _ a b => packB4 (· - ·) a b) s)

/-- ADDS.B4, signed and saturating (R178). -/
def execLaneAddsB4 (w : LaneWho) (f : FR) (s : State) : Host.Outcome State Fault Refusal :=
  .next (laneAlu w (.laneAddsB4 w f) f (fun _ a b => packB4 addSat a b) s)

/-- MIN.B4, signed (R178). -/
def execLaneMinB4 (w : LaneWho) (f : FR) (s : State) : Host.Outcome State Fault Refusal :=
  .next (laneAlu w (.laneMinB4 w f) f (fun _ a b => packB4 minS a b) s)

/-- MAX.B4, signed (R178). -/
def execLaneMaxB4 (w : LaneWho) (f : FR) (s : State) : Host.Outcome State Fault Refusal :=
  .next (laneAlu w (.laneMaxB4 w f) f (fun _ a b => packB4 maxS a b) s)

/-- DOT.B4: rd plus the four signed byte products (R178). -/
def execLaneDotB4 (w : LaneWho) (f : FR) (s : State) : Host.Outcome State Fault Refusal :=
  .next (laneAlu w (.laneDotB4 w f) f (fun d a b => d + BitVec.ofInt 32 (dotB4 a b)) s)

/-- ADD.H2 (R178). -/
def execLaneAddH2 (w : LaneWho) (f : FR) (s : State) : Host.Outcome State Fault Refusal :=
  .next (laneAlu w (.laneAddH2 w f) f (fun _ a b => packH2 (· + ·) a b) s)

/-- SUB.H2 (R178). -/
def execLaneSubH2 (w : LaneWho) (f : FR) (s : State) : Host.Outcome State Fault Refusal :=
  .next (laneAlu w (.laneSubH2 w f) f (fun _ a b => packH2 (· - ·) a b) s)

/-- ADDS.H2, signed and saturating (R178). -/
def execLaneAddsH2 (w : LaneWho) (f : FR) (s : State) : Host.Outcome State Fault Refusal :=
  .next (laneAlu w (.laneAddsH2 w f) f (fun _ a b => packH2 addSat a b) s)

/-- MIN.H2, signed (R178). -/
def execLaneMinH2 (w : LaneWho) (f : FR) (s : State) : Host.Outcome State Fault Refusal :=
  .next (laneAlu w (.laneMinH2 w f) f (fun _ a b => packH2 minS a b) s)

/-- MAX.H2, signed (R178). -/
def execLaneMaxH2 (w : LaneWho) (f : FR) (s : State) : Host.Outcome State Fault Refusal :=
  .next (laneAlu w (.laneMaxH2 w f) f (fun _ a b => packH2 maxS a b) s)

/-- MUL.H2: the low 16 bits of each product (R178). -/
def execLaneMulH2 (w : LaneWho) (f : FR) (s : State) : Host.Outcome State Fault Refusal :=
  .next (laneAlu w (.laneMulH2 w f) f (fun _ a b => packH2 (· * ·) a b) s)

/-- ADDI: the immediate is sign-extended (R178). -/
def execLaneAddi (w : LaneWho) (f : FI) (s : State) : Host.Outcome State Fault Refusal :=
  .next (laneImm w (.laneAddi w f) f (fun a b => a + b.signExtend 32) s)

/-- ANDI (R178). -/
def execLaneAndi (w : LaneWho) (f : FI) (s : State) : Host.Outcome State Fault Refusal :=
  .next (laneImm w (.laneAndi w f) f (fun a b => a &&& b.signExtend 32) s)

/-- ORI (R178). -/
def execLaneOri (w : LaneWho) (f : FI) (s : State) : Host.Outcome State Fault Refusal :=
  .next (laneImm w (.laneOri w f) f (fun a b => a ||| b.signExtend 32) s)

/-- XORI (R178). -/
def execLaneXori (w : LaneWho) (f : FI) (s : State) : Host.Outcome State Fault Refusal :=
  .next (laneImm w (.laneXori w f) f (fun a b => a ^^^ b.signExtend 32) s)

/-- SLLI by imm12[4:0] (R178). -/
def execLaneSlli (w : LaneWho) (f : FI) (s : State) : Host.Outcome State Fault Refusal :=
  .next (laneImm w (.laneSlli w f) f (fun a b => a <<< (b.toNat % 32)) s)

/-- SRLI (R178). -/
def execLaneSrli (w : LaneWho) (f : FI) (s : State) : Host.Outcome State Fault Refusal :=
  .next (laneImm w (.laneSrli w f) f (fun a b => a >>> (b.toNat % 32)) s)

/-- SRAI (R178). -/
def execLaneSrai (w : LaneWho) (f : FI) (s : State) : Host.Outcome State Fault Refusal :=
  .next (laneImm w (.laneSrai w f) f (fun a b => a.sshiftRight (b.toNat % 32)) s)

/-- LUI: rd takes imm17 × 2^15 (R178). -/
def execLaneLui (w : LaneWho) (f : FU) (s : State) : Host.Outcome State Fault Refusal :=
  .next (laneReg w (.laneLui w f) f.pg f.z f.rd.toNat (fun _ => f.imm.setWidth 32 <<< 15) s)

/-- LLI: rd[14:0] take imm17[14:0], rd[31:15] stay (R178). -/
def execLaneLli (w : LaneWho) (f : FU) (s : State) : Host.Outcome State Fault Refusal :=
  .next (laneReg w (.laneLli w f) f.pg f.z f.rd.toNat
    (fun th => (getG th f.rd.toNat).extractLsb' 15 17 ++ f.imm.extractLsb' 0 15) s)

/-- FADD: the exact sum rounded once (R180). -/
def execLaneFadd (w : LaneWho) (f : FR) (s : State) : Host.Outcome State Fault Refusal :=
  .next (laneAlu w (.laneFadd w f) f (fun _ a b => f32 (numAdd (num a) (num b))) s)

/-- FSUB (R180). -/
def execLaneFsub (w : LaneWho) (f : FR) (s : State) : Host.Outcome State Fault Refusal :=
  .next (laneAlu w (.laneFsub w f) f (fun _ a b => f32 (numAdd (num a) (numNeg (num b)))) s)

/-- FMUL (R180). -/
def execLaneFmul (w : LaneWho) (f : FR) (s : State) : Host.Outcome State Fault Refusal :=
  .next (laneAlu w (.laneFmul w f) f (fun _ a b => f32 (numMul (num a) (num b))) s)

/-- FDIV (R180). -/
def execLaneFdiv (w : LaneWho) (f : FR) (s : State) : Host.Outcome State Fault Refusal :=
  .next (laneAlu w (.laneFdiv w f) f (fun _ a b => f32 (numDiv (num a) (num b))) s)

/-- FMIN (R101). -/
def execLaneFmin (w : LaneWho) (f : FR) (s : State) : Host.Outcome State Fault Refusal :=
  .next (laneAlu w (.laneFmin w f) f (fun _ a b => f32 (numMin (num a) (num b))) s)

/-- FMAX (R101). -/
def execLaneFmax (w : LaneWho) (f : FR) (s : State) : Host.Outcome State Fault Refusal :=
  .next (laneAlu w (.laneFmax w f) f (fun _ a b => f32 (numMax (num a) (num b))) s)

/-- FSQRT of g[rs1] (R180). -/
def execLaneFsqrt (w : LaneWho) (f : FR) (s : State) : Host.Outcome State Fault Refusal :=
  .next (laneAlu w (.laneFsqrt w f) f (fun _ a _ => f32 (numSqrt (num a))) s)

/-- FEXP2 of g[rs1] (R180). -/
def execLaneFexp2 (w : LaneWho) (f : FR) (s : State) : Host.Outcome State Fault Refusal :=
  .next (laneAlu w (.laneFexp2 w f) f (fun _ a _ => f32 (numExp2 (num a))) s)

/-- FLOG2 of g[rs1] (R180). -/
def execLaneFlog2 (w : LaneWho) (f : FR) (s : State) : Host.Outcome State Fault Refusal :=
  .next (laneAlu w (.laneFlog2 w f) f (fun _ a _ => f32 (numLog2 (num a))) s)

/-- FNEG of g[rs1]; a NaN gives the canonical one (R180). -/
def execLaneFneg (w : LaneWho) (f : FR) (s : State) : Host.Outcome State Fault Refusal :=
  .next (laneAlu w (.laneFneg w f) f (fun _ a _ => f32 (numNeg (num a))) s)

/-- FABS of g[rs1]; a NaN gives the canonical one (R180). -/
def execLaneFabs (w : LaneWho) (f : FR) (s : State) : Host.Outcome State Fault Refusal :=
  .next (laneAlu w (.laneFabs w f) f (fun _ a _ => f32 (numAbs (num a))) s)

/-- FMAC: rd + g[rs1] × g[rs2] with one rounding (R178, R180). -/
def execLaneFmac (w : LaneWho) (f : FR) (s : State) : Host.Outcome State Fault Refusal :=
  .next (laneAlu w (.laneFmac w f) f (fun d a b => f32 (numAdd (num d) (numMul (num a) (num b)))) s)

/-- F2I: to nearest even, clamped; a NaN gives 0 (R181). -/
def execLaneF2i (w : LaneWho) (f : FR) (s : State) : Host.Outcome State Fault Refusal :=
  .next (laneAlu w (.laneF2i w f) f (fun _ a _ => BitVec.ofNat 32 (f2i (num a))) s)

/-- I2F (R181). -/
def execLaneI2f (w : LaneWho) (f : FR) (s : State) : Host.Outcome State Fault Refusal :=
  .next (laneAlu w (.laneI2f w f) f (fun _ a _ => f32 (i2f a.toNat)) s)

/-- F2F16: the narrow result, upper bits zero (R179, R181). -/
def execLaneF2f16 (w : LaneWho) (f : FR) (s : State) : Host.Outcome State Fault Refusal :=
  .next (laneAlu w (.laneF2f16 w f) f (fun _ a _ => narrow .f16 a) s)

/-- F2W16: the narrow result, upper bits zero (R179, R181). -/
def execLaneF2w16 (w : LaneWho) (f : FR) (s : State) : Host.Outcome State Fault Refusal :=
  .next (laneAlu w (.laneF2w16 w f) f (fun _ a _ => narrow .w16 a) s)

/-- F2E4M3: the narrow result, upper bits zero (R179, R181). -/
def execLaneF2e4m3 (w : LaneWho) (f : FR) (s : State) : Host.Outcome State Fault Refusal :=
  .next (laneAlu w (.laneF2e4m3 w f) f (fun _ a _ => narrow .e4m3 a) s)

/-- F2E5M2: the narrow result, upper bits zero (R179, R181). -/
def execLaneF2e5m2 (w : LaneWho) (f : FR) (s : State) : Host.Outcome State Fault Refusal :=
  .next (laneAlu w (.laneF2e5m2 w f) f (fun _ a _ => narrow .e5m2 a) s)

/-- F2I8: the narrow result, upper bits zero (R179, R181). -/
def execLaneF2i8 (w : LaneWho) (f : FR) (s : State) : Host.Outcome State Fault Refusal :=
  .next (laneAlu w (.laneF2i8 w f) f (fun _ a _ => narrow .int8 a) s)

/-- F162F (R181). -/
def execLaneF162f (w : LaneWho) (f : FR) (s : State) : Host.Outcome State Fault Refusal :=
  .next (laneAlu w (.laneF162f w f) f (fun _ a _ => widen .f16 a) s)

/-- W162F (R181). -/
def execLaneW162f (w : LaneWho) (f : FR) (s : State) : Host.Outcome State Fault Refusal :=
  .next (laneAlu w (.laneW162f w f) f (fun _ a _ => widen .w16 a) s)

/-- E4M32F (R181). -/
def execLaneE4m32f (w : LaneWho) (f : FR) (s : State) : Host.Outcome State Fault Refusal :=
  .next (laneAlu w (.laneE4m32f w f) f (fun _ a _ => widen .e4m3 a) s)

/-- E5M22F (R181). -/
def execLaneE5m22f (w : LaneWho) (f : FR) (s : State) : Host.Outcome State Fault Refusal :=
  .next (laneAlu w (.laneE5m22f w f) f (fun _ a _ => widen .e5m2 a) s)

/-- I82F (R181). -/
def execLaneI82f (w : LaneWho) (f : FR) (s : State) : Host.Outcome State Fault Refusal :=
  .next (laneAlu w (.laneI82f w f) f (fun _ a _ => widen .int8 a) s)

/-- FEQ: +0 and −0 are equal, a NaN is unordered (R180). -/
def execLaneFeq (w : LaneWho) (f : FR) (s : State) : Host.Outcome State Fault Refusal :=
  .next (laneCmp w (.laneFeq w f) f (fun a b => numEq (num a) (num b)) s)

/-- FLT (R180). -/
def execLaneFlt (w : LaneWho) (f : FR) (s : State) : Host.Outcome State Fault Refusal :=
  .next (laneCmp w (.laneFlt w f) f (fun a b => numLt (num a) (num b)) s)

/-- FLE (R180). -/
def execLaneFle (w : LaneWho) (f : FR) (s : State) : Host.Outcome State Fault Refusal :=
  .next (laneCmp w (.laneFle w f) f (fun a b => numLt (num a) (num b) || numEq (num a) (num b)) s)

/-- FUN: true when unordered (R178, R180). -/
def execLaneFun (w : LaneWho) (f : FR) (s : State) : Host.Outcome State Fault Refusal :=
  .next (laneCmp w (.laneFun w f) f (fun a b => numIsNan (num a) || numIsNan (num b)) s)

/-- EQ (R178). -/
def execLaneEq (w : LaneWho) (f : FR) (s : State) : Host.Outcome State Fault Refusal :=
  .next (laneCmp w (.laneEq w f) f (fun a b => a == b) s)

/-- NE (R178). -/
def execLaneNe (w : LaneWho) (f : FR) (s : State) : Host.Outcome State Fault Refusal :=
  .next (laneCmp w (.laneNe w f) f (fun a b => a != b) s)

/-- LT, signed (R178). -/
def execLaneLt (w : LaneWho) (f : FR) (s : State) : Host.Outcome State Fault Refusal :=
  .next (laneCmp w (.laneLt w f) f (fun a b => a.slt b) s)

/-- LTU (R178). -/
def execLaneLtu (w : LaneWho) (f : FR) (s : State) : Host.Outcome State Fault Refusal :=
  .next (laneCmp w (.laneLtu w f) f (fun a b => a.ult b) s)

/-- GE, signed (R178). -/
def execLaneGe (w : LaneWho) (f : FR) (s : State) : Host.Outcome State Fault Refusal :=
  .next (laneCmp w (.laneGe w f) f (fun a b => !a.slt b) s)

/-- GEU (R178). -/
def execLaneGeu (w : LaneWho) (f : FR) (s : State) : Host.Outcome State Fault Refusal :=
  .next (laneCmp w (.laneGeu w f) f (fun a b => !a.ult b) s)

/-- PLOG AND (R178). -/
def execLanePlogAnd (w : LaneWho) (f : FR) (s : State) : Host.Outcome State Fault Refusal :=
  .next (lanePlog w (.lanePlogAnd w f) f (fun a b => a && b) s)

/-- PLOG OR (R178). -/
def execLanePlogOr (w : LaneWho) (f : FR) (s : State) : Host.Outcome State Fault Refusal :=
  .next (lanePlog w (.lanePlogOr w f) f (fun a b => a || b) s)

/-- PLOG XOR (R178). -/
def execLanePlogXor (w : LaneWho) (f : FR) (s : State) : Host.Outcome State Fault Refusal :=
  .next (lanePlog w (.lanePlogXor w f) f (fun a b => a != b) s)

/-- PLOG ANDN: ps1 and not ps2 (R178). -/
def execLanePlogAndn (w : LaneWho) (f : FR) (s : State) : Host.Outcome State Fault Refusal :=
  .next (lanePlog w (.lanePlogAndn w f) f (fun a b => a && !b) s)

/-- SEL: pq ? g[rs1] : g[rs2] (R178). -/
def execLaneSel (w : LaneWho) (f : FR) (pq : BitVec 3) (s : State) : Host.Outcome State Fault Refusal :=
  .next (laneReg w (.laneSel w f pq) f.pg f.z f.rd.toNat
    (fun th => if getP th pq.toNat then getG th f.rs1.toNat else getG th f.rs2.toNat) s)

/-- BEQ (R178). -/
def execLaneBeq (w : LaneWho) (f : FB) (s : State) : Host.Outcome State Fault Refusal :=
  .next (laneBranch w (.laneBeq w f) f (fun a b => a == b) s)

/-- BNE (R178). -/
def execLaneBne (w : LaneWho) (f : FB) (s : State) : Host.Outcome State Fault Refusal :=
  .next (laneBranch w (.laneBne w f) f (fun a b => a != b) s)

/-- BLT, signed (R178). -/
def execLaneBlt (w : LaneWho) (f : FB) (s : State) : Host.Outcome State Fault Refusal :=
  .next (laneBranch w (.laneBlt w f) f (fun a b => a.slt b) s)

/-- BGE, signed (R178). -/
def execLaneBge (w : LaneWho) (f : FB) (s : State) : Host.Outcome State Fault Refusal :=
  .next (laneBranch w (.laneBge w f) f (fun a b => !a.slt b) s)

/-- BLTU (R178). -/
def execLaneBltu (w : LaneWho) (f : FB) (s : State) : Host.Outcome State Fault Refusal :=
  .next (laneBranch w (.laneBltu w f) f (fun a b => a.ult b) s)

/-- BGEU (R178). -/
def execLaneBgeu (w : LaneWho) (f : FB) (s : State) : Host.Outcome State Fault Refusal :=
  .next (laneBranch w (.laneBgeu w f) f (fun a b => !a.ult b) s)

/-- BP: branch if predicate rs1 is true (R178). -/
def execLaneBp (w : LaneWho) (f : FB) (s : State) : Host.Outcome State Fault Refusal :=
  .next (laneGo w (.laneBp w f) f.pg id
    (fun k th s => (s, k, if getP th f.rs1.toNat then jumpBy th f.imm.toInt else stepPc th)) s)

/-- J: jump (R178). -/
def execLaneJ (w : LaneWho) (f : FJ) (s : State) : Host.Outcome State Fault Refusal :=
  .next (laneGo w (.laneJ w f) f.pg id (fun k th s => (s, k, jumpBy th f.imm.toInt)) s)

/-- MFSR: VL or EI; EI reads as 0 in uniform code (R171, R178). -/
def execLaneMfsr (w : LaneWho) (f : FI) (s : State) : Host.Outcome State Fault Refusal :=
  .next (laneGo w (.laneMfsr w f) f.pg (zeroG f.z f.rd.toNat) (fun k th s =>
    (s, k, stepPc (setG th f.rd.toNat (if f.imm = 0 then BitVec.ofNat 32 k.vl else BitVec.ofNat 32 th.ei)))) s)

end Sys2Proof.Machine
end

