-- ==== Sys2Proof/Machine/LaneMem.lean ====
section
/-! DEFINITION. The lane instructions that touch memory, loops, reductions or the kernel itself (R170 to R175, R183 to
R190, R192), the return of a load (R168) and the commit of a pass (R173). -/

namespace Sys2Proof.Machine

/-- LDS.B (R183). -/
def execLaneLdsB (w : LaneWho) (f : FI) (s : State) : Host.Outcome State Fault Refusal :=
  .next (laneLds w (.laneLdsB w f) f 1 s)

/-- STS.B (R183). -/
def execLaneStsB (w : LaneWho) (f : FI) (s : State) : Host.Outcome State Fault Refusal :=
  .next (laneSts w (.laneStsB w f) f 1 s)

/-- LDM.B (R184). -/
def execLaneLdmB (w : LaneWho) (f : FR) (s : State) : Host.Outcome State Fault Refusal :=
  .next (laneLdm w (.laneLdmB w f) f 1 s)

/-- STM.B (R184). -/
def execLaneStmB (w : LaneWho) (f : FR) (s : State) : Host.Outcome State Fault Refusal :=
  .next (laneStm w (.laneStmB w f) f 1 s)

/-- LDS.H (R183). -/
def execLaneLdsH (w : LaneWho) (f : FI) (s : State) : Host.Outcome State Fault Refusal :=
  .next (laneLds w (.laneLdsH w f) f 2 s)

/-- STS.H (R183). -/
def execLaneStsH (w : LaneWho) (f : FI) (s : State) : Host.Outcome State Fault Refusal :=
  .next (laneSts w (.laneStsH w f) f 2 s)

/-- LDM.H (R184). -/
def execLaneLdmH (w : LaneWho) (f : FR) (s : State) : Host.Outcome State Fault Refusal :=
  .next (laneLdm w (.laneLdmH w f) f 2 s)

/-- STM.H (R184). -/
def execLaneStmH (w : LaneWho) (f : FR) (s : State) : Host.Outcome State Fault Refusal :=
  .next (laneStm w (.laneStmH w f) f 2 s)

/-- LDS.W (R183). -/
def execLaneLdsW (w : LaneWho) (f : FI) (s : State) : Host.Outcome State Fault Refusal :=
  .next (laneLds w (.laneLdsW w f) f 4 s)

/-- STS.W (R183). -/
def execLaneStsW (w : LaneWho) (f : FI) (s : State) : Host.Outcome State Fault Refusal :=
  .next (laneSts w (.laneStsW w f) f 4 s)

/-- LDM.W (R184). -/
def execLaneLdmW (w : LaneWho) (f : FR) (s : State) : Host.Outcome State Fault Refusal :=
  .next (laneLdm w (.laneLdmW w f) f 4 s)

/-- STM.W (R184). -/
def execLaneStmW (w : LaneWho) (f : FR) (s : State) : Host.Outcome State Fault Refusal :=
  .next (laneStm w (.laneStmW w f) f 4 s)

/-- LDE: element EI through OD[rs1] (R186, R187). -/
def execLaneLde (w : LaneWho) (f : FR) (s : State) : Host.Outcome State Fault Refusal :=
  .next (laneGo w (.laneLde w f) f.pg (zeroG f.z f.rd.toNat) (fun k th s =>
    match k.ods.getD (f.rs1.toNat % 8) none with
    | none => (s, k, trapWith th 5 0)
    | some d =>
      let off := odOffset d th.ei
      match rangeFault s k d.range off (odSize d) false (d.fmt == 0) with
      | some c => (s, k, trapWith th c 0)
      | none => match k.ranges[d.range]? with
        | none => (s, k, th)
        | some kr => laneLoad k th (rangeTarget s kr off) (odSize d)
            (fun a => .remoteReg f.rd.toNat (odSize d) a (if d.fmt = 0 then none else fmtOfCode d.fmt))
            (fun th bs => setG th f.rd.toNat (ldeWord d (loadScale s kr) bs)) s) s)

/-- STE: element EI through OD[rs1], which must be a TILE (R186, R187). -/
def execLaneSte (w : LaneWho) (f : FR) (s : State) : Host.Outcome State Fault Refusal :=
  .next (laneGo w (.laneSte w f) f.pg id (fun k th s =>
    match k.ods.getD (f.rs1.toNat % 8) none with
    | none => (s, k, trapWith th 5 0)
    | some d =>
      if d.mode != 0 then (s, k, trapWith th 5 0)
      else
        let off := odOffset d th.ei
        match rangeFault s k d.range off (odSize d) true (d.fmt == 0) with
        | some c => (s, k, trapWith th c 0)
        | none => match k.ranges[d.range]? with
          | none => (s, k, th)
          | some kr =>
            let v := getG th f.rd.toNat
            let t := rangeTarget s kr off
            if d.fmt = 0 then laneStore k th ⟨t, toLE (odSize d) v.toNat, th.pc, rangeTensor kr off, none⟩ s
            else
              let fmt := (fmtOfCode d.fmt).getD .raw
              let S := if fmtIsScaled fmt then storeScale s kr else 0
              let (code, sat) := encodeElem fmt (steRounding s k kr d off) (scaleNum (-S) (num v))
              laneStore k th ⟨t, toLE (odSize d) code, th.pc, rangeTensor kr off, some (num v, sat)⟩ s) s)

/-- LDOD: 16 bytes of a range into OD[rd], checked against Table 6.5 (R185). -/
def execLaneLdod (w : LaneWho) (f : FR) (s : State) : Host.Outcome State Fault Refusal :=
  .next (laneGo w (.laneLdod w f) f.pg id (fun k th s =>
    let r := (getG th f.rs1.toNat).toNat
    let off := (getG th f.rs2.toNat).toNat * 16
    match rangeFault s k r off 16 false true with
    | some c => (s, k, trapWith th c 0)
    | none => match k.ranges[r]? with
      | none => (s, k, th)
      | some kr => match laneGet k th (rangeTarget s kr off) 16 s with
        | (s, .data bs) => match parseOd bs with
          | none => (s, k, trapWith th 5 0)
          | some d =>
            let k := { k with ods := k.ods.set (f.rd.toNat % 8) (some d) }
            if leavesStore k (rangeTarget s kr off) then (s, k, { th with waiting := some .near }) else (s, k, stepPc th)
        | (s, .poison) => (s, k, trapWith th 9 0)
        | (s, .remote a) => (s, k, { th with waiting := some (.remoteOd (f.rd.toNat % 8) a) })
        | (s, .busy) => (s, k, th)
        | (s, .lost) => (s, k, th)) s)

/-- Writes of an islet's lane cores are not visible yet: they are not acknowledged by a host region or an absent page, or are held at a page
on the move. -/
def laneWrites (s : State) (islet : Nat) : Bool :=
  ((s.zng.queued ++ s.zng.issued).any fun r => r.write && r.use == .lane islet)
    || s.mem.held.any fun h => h.who == whoLane islet && h.write.isSome

/-- Stores of a free-running kernel are not visible yet: of the islet it runs on, or of one that it ran on before a suspension (R196). -/
def kernelWrites (s : State) (k : LaneKernel) : Bool := (k.islet :: k.past).any (laneWrites s)

/-- SETVL: VL takes g[rs1] and the element loop opens at pass 0, once every earlier uniform store is visible; with VL 0 it has no iteration
(R171, R174, R190). -/
def execLaneSetvl (w : LaneWho) (f : FI) (s : State) : Host.Outcome State Fault Refusal :=
  .next (laneGo w (.laneSetvl w f) f.pg id (fun k th s =>
    if k.queue && kernelWrites s k then (s, k, th)
    else
    let k := { k with vl := (getG th f.rs1.toNat).toNat, uni := th }
    let k := { k with slots := clearSlots k th.pc }
    if k.vl = 0 then (s, k, { th with pc := loopEnd k.code th.pc + 1 })
    else (s, { k with loop := some { start := th.pc, pass := 0, threads := assocDel w.t (passThreads k th.pc 0) } },
      { g := th.g, p := th.p, pc := th.pc + 1, ei := 0 })) s)

/-- ENDVL: the iteration has reached the end of the body (R171). -/
def execLaneEndvl (w : LaneWho) (f : FR) (s : State) : Host.Outcome State Fault Refusal :=
  .next (laneGo w (.laneEndvl w f) f.pg id (fun k th s => (s, k, { th with done := true })) s)

/-- RED FSUM: g[rs1] is contributed to slot rd[1:0] (R188, R189). -/
def execLaneRedFsum (w : LaneWho) (f : FR) (s : State) : Host.Outcome State Fault Refusal :=
  .next (laneRed w (.laneRedFsum w f) f s)

/-- RED FPROD: g[rs1] is contributed to slot rd[1:0] (R188, R189). -/
def execLaneRedFprod (w : LaneWho) (f : FR) (s : State) : Host.Outcome State Fault Refusal :=
  .next (laneRed w (.laneRedFprod w f) f s)

/-- RED FMAX: g[rs1] is contributed to slot rd[1:0] (R188, R189). -/
def execLaneRedFmax (w : LaneWho) (f : FR) (s : State) : Host.Outcome State Fault Refusal :=
  .next (laneRed w (.laneRedFmax w f) f s)

/-- RED FMIN: g[rs1] is contributed to slot rd[1:0] (R188, R189). -/
def execLaneRedFmin (w : LaneWho) (f : FR) (s : State) : Host.Outcome State Fault Refusal :=
  .next (laneRed w (.laneRedFmin w f) f s)

/-- RED FARGMAX: g[rs1] is contributed to slot rd[1:0] (R188, R189). -/
def execLaneRedFargmax (w : LaneWho) (f : FR) (s : State) : Host.Outcome State Fault Refusal :=
  .next (laneRed w (.laneRedFargmax w f) f s)

/-- RED FARGMIN: g[rs1] is contributed to slot rd[1:0] (R188, R189). -/
def execLaneRedFargmin (w : LaneWho) (f : FR) (s : State) : Host.Outcome State Fault Refusal :=
  .next (laneRed w (.laneRedFargmin w f) f s)

/-- RED ISUM: g[rs1] is contributed to slot rd[1:0] (R188, R189). -/
def execLaneRedIsum (w : LaneWho) (f : FR) (s : State) : Host.Outcome State Fault Refusal :=
  .next (laneRed w (.laneRedIsum w f) f s)

/-- RED IMAX: g[rs1] is contributed to slot rd[1:0] (R188, R189). -/
def execLaneRedImax (w : LaneWho) (f : FR) (s : State) : Host.Outcome State Fault Refusal :=
  .next (laneRed w (.laneRedImax w f) f s)

/-- RED IMIN: g[rs1] is contributed to slot rd[1:0] (R188, R189). -/
def execLaneRedImin (w : LaneWho) (f : FR) (s : State) : Host.Outcome State Fault Refusal :=
  .next (laneRed w (.laneRedImin w f) f s)

/-- GETRED: the result of slot rs1[1:0], and EMPTY in predicate rs2[2:0] (R190). -/
def execLaneGetred (w : LaneWho) (f : FR) (s : State) : Host.Outcome State Fault Refusal :=
  .next (laneGo w (.laneGetred w f) f.pg (fun th => zeroP f.z f.rs2.toNat (zeroG f.z f.rd.toNat th)) (fun k th s =>
    let r := redResult (k.slots.getD (f.rs1.toNat % 4) {})
    (s, k, stepPc (setP (setG th f.rd.toNat r.1) f.rs2.toNat r.2))) s)

/-- BRK: a trap with code imm17 (R178, R192). -/
def execLaneBrk (w : LaneWho) (f : FU) (s : State) : Host.Outcome State Fault Refusal :=
  .next (laneGo w (.laneBrk w f) f.pg id (fun k th s => (s, k, trapWith th 8 f.imm.toNat)) s)

/-- HALT: the kernel ends; a timetable step then has taken effect, a launch completes as DONE once all its stores are visible (R174,
R197). -/
def execLaneHalt (w : LaneWho) (f : FR) (s : State) : Host.Outcome State Fault Refusal :=
  .next (laneGo w (.laneHalt w f) f.pg id (fun k th s =>
    match w.run with
    | .step _ =>
      let s := dropKernel w.run s
      ({ s with ttu := { s.ttu with ran := s.ttu.ran ++ [k.step] } }, k, th)
    | .queue q =>
      if kernelWrites s k then (s, k, th)
      else (completeLaunch q k.pos k.islet (laneRecord k.pos 0 0 0 0 0) k.irq (dropKernel w.run s), k, th)) s)

/-- LANE_LOAD_RETURN: the data of a waiting thread arrives, and it is ready again (R168). For a remote access the data and its
poison come with the command (R273). -/
def execLaneLoadReturn (w : LaneWho) (data : List Byte) (poison : Bool) (s : State) : Host.Outcome State Fault Refusal :=
  match laneKernel s w.run with
  | none => .next s
  | some k =>
    match threadAt k w.t with
    | none => .next s
    | some th =>
      let th' := { th with waiting := none }
      match th.waiting with
      | none => .next s
      | some .near => .next (settle w k (stepPc th') s)
      | some (.remoteReg rd n a fmt) =>
        let bs := overStores th.stores (.phys a) (padTo n data)
        let v := match fmt with
          | none => wordOf bs
          | some f => f32 (decodeElem f (leNat bs))
        .next (settle w k (if poison then trapWith th' 9 0 else stepPc (setG th' rd v)) s)
      | some (.remoteOd od a) =>
        if poison then .next (settle w k (trapWith th' 9 0) s)
        else match parseOd (overStores th.stores (.phys a) (padTo 16 data)) with
          | none => .next (settle w k (trapWith th' 5 0) s)
          | some d => .next (settle w { k with ods := k.ods.set od (some d) } (stepPc th') s)

/-- PASS_COMMIT: the pass of a loop whose iterations have all ended commits (R173). -/
def execPassCommit (run : LaneRun) (s : State) : Host.Outcome State Fault Refusal := .next (passCommit run s)

end Sys2Proof.Machine
end

