-- ==== Sys2Proof/Machine/Dispatch.lean ====
section
/-! DEFINITION. The meaning of every command: one arm per constructor, one direct call of its meaning. -/

namespace Sys2Proof.Machine

/-- The effect of a command on everything but the queue of waiting commands. -/
def exec (i : Instr) (s : State) : Host.Outcome State Fault Refusal :=
  match i with
  | .tick => Sys2Proof.Machine.execTick s
  | .stepCompletion step cycles => Sys2Proof.Machine.execStepCompletion step cycles s
  | .timetableStopped => Sys2Proof.Machine.execTimetableStopped s
  | .periodApply => Sys2Proof.Machine.execPeriodApply s
  | .periodChanged => Sys2Proof.Machine.execPeriodChanged s
  | .ringEn v => Sys2Proof.Machine.execRingEn v s
  | .windowWrite w => Sys2Proof.Machine.execWindowWrite w s
  | .overrun => Sys2Proof.Machine.execOverrun s
  | .cutoff => Sys2Proof.Machine.execCutoff s
  | .voteSum group tick ready present => Sys2Proof.Machine.execVoteSum group tick ready present s
  | .voteDeadline => Sys2Proof.Machine.execVoteDeadline s
  | .groupFault => Sys2Proof.Machine.execGroupFault s
  | .decision d => Sys2Proof.Machine.execDecision d s
  | .leadLost => Sys2Proof.Machine.execLeadLost s
  | .crossingMarker bytes => Sys2Proof.Machine.execCrossingMarker bytes s
  | .holdover => Sys2Proof.Machine.execHoldover s
  | .alignLost => Sys2Proof.Machine.execAlignLost s
  | .probe echo group rank tick cycles latency => Sys2Proof.Machine.execProbe echo group rank tick cycles latency s
  | .groupFormed => Sys2Proof.Machine.execGroupFormed s
  | .memberJoined rank => Sys2Proof.Machine.execMemberJoined rank s
  | .memberLeft rank => Sys2Proof.Machine.execMemberLeft rank s
  | .dissolve group => Sys2Proof.Machine.execDissolve group s
  | .ttLoad m => Sys2Proof.Machine.execTtLoad m s
  | .ttStart m agree => Sys2Proof.Machine.execTtStart m agree s
  | .lockPages agree => Sys2Proof.Machine.execLockPages agree s
  | .ttSwitch m => Sys2Proof.Machine.execTtSwitch m s
  | .ttCursor m => Sys2Proof.Machine.execTtCursor m s
  | .ttuCursorPost tag => Sys2Proof.Machine.execTtuCursorPost tag s
  | .ttShipTarget m => Sys2Proof.Machine.execTtShipTarget m s
  | .xngPeriod m => Sys2Proof.Machine.execXngPeriod m s
  | .move step => Sys2Proof.Machine.execMove step s
  | .mmaFull step upset => Sys2Proof.Machine.execMmaFull step upset s
  | .mmaPartial step upset => Sys2Proof.Machine.execMmaPartial step upset s
  | .mmaCombine step => Sys2Proof.Machine.execMmaCombine step s
  | .mmaFinal step => Sys2Proof.Machine.execMmaFinal step s
  | .kernel step => Sys2Proof.Machine.execKernel step s
  | .allreduce step others => Sys2Proof.Machine.execAllreduce step others s
  | .reduceScatter step others => Sys2Proof.Machine.execReduceScatter step others s
  | .allgather step others => Sys2Proof.Machine.execAllgather step others s
  | .broadcast step others => Sys2Proof.Machine.execBroadcast step others s
  | .snapShip step => Sys2Proof.Machine.execSnapShip step s
  | .snapPolicy step => Sys2Proof.Machine.execSnapPolicy step s
  | .shipmentStart => Sys2Proof.Machine.execShipmentStart s
  | .storeScrub islet row => Sys2Proof.Machine.execStoreScrub islet row s
  | .isletParity islet => Sys2Proof.Machine.execIsletParity islet s
  | .ferryInternal islet => Sys2Proof.Machine.execFerryInternal islet s
  | .laneInternal islet => Sys2Proof.Machine.execLaneInternal islet s
  | .fryQtail q v => Sys2Proof.Machine.execFryQtail q v s
  | .fryQcfgEnable q v => Sys2Proof.Machine.execFryQcfgEnable q v s
  | .fryQcfgDisable q v => Sys2Proof.Machine.execFryQcfgDisable q v s
  | .ferryDescriptor q islet => Sys2Proof.Machine.execFerryDescriptor q islet s
  | .copy q pos => Sys2Proof.Machine.execCopy q pos s
  | .convert q pos => Sys2Proof.Machine.execConvert q pos s
  | .fill q pos => Sys2Proof.Machine.execFill q pos s
  | .ferryCompletion q => Sys2Proof.Machine.execFerryCompletion q s
  | .lncQtail q v => Sys2Proof.Machine.execLncQtail q v s
  | .lncQcfgEnable q v => Sys2Proof.Machine.execLncQcfgEnable q v s
  | .lncQcfgDisable q v => Sys2Proof.Machine.execLncQcfgDisable q v s
  | .laneLoadReturn w data poison => Sys2Proof.Machine.execLaneLoadReturn w data poison s
  | .passCommit run => Sys2Proof.Machine.execPassCommit run s
  | .laneAdd w f => Sys2Proof.Machine.execLaneAdd w f s
  | .laneSub w f => Sys2Proof.Machine.execLaneSub w f s
  | .laneAnd w f => Sys2Proof.Machine.execLaneAnd w f s
  | .laneOr w f => Sys2Proof.Machine.execLaneOr w f s
  | .laneXor w f => Sys2Proof.Machine.execLaneXor w f s
  | .laneSll w f => Sys2Proof.Machine.execLaneSll w f s
  | .laneSrl w f => Sys2Proof.Machine.execLaneSrl w f s
  | .laneSra w f => Sys2Proof.Machine.execLaneSra w f s
  | .laneMul w f => Sys2Proof.Machine.execLaneMul w f s
  | .laneMulhu w f => Sys2Proof.Machine.execLaneMulhu w f s
  | .laneMulh w f => Sys2Proof.Machine.execLaneMulh w f s
  | .laneMin w f => Sys2Proof.Machine.execLaneMin w f s
  | .laneMax w f => Sys2Proof.Machine.execLaneMax w f s
  | .laneMinu w f => Sys2Proof.Machine.execLaneMinu w f s
  | .laneMaxu w f => Sys2Proof.Machine.execLaneMaxu w f s
  | .laneDivu w f => Sys2Proof.Machine.execLaneDivu w f s
  | .laneRemu w f => Sys2Proof.Machine.execLaneRemu w f s
  | .laneAddB4 w f => Sys2Proof.Machine.execLaneAddB4 w f s
  | .laneSubB4 w f => Sys2Proof.Machine.execLaneSubB4 w f s
  | .laneAddsB4 w f => Sys2Proof.Machine.execLaneAddsB4 w f s
  | .laneMinB4 w f => Sys2Proof.Machine.execLaneMinB4 w f s
  | .laneMaxB4 w f => Sys2Proof.Machine.execLaneMaxB4 w f s
  | .laneDotB4 w f => Sys2Proof.Machine.execLaneDotB4 w f s
  | .laneAddH2 w f => Sys2Proof.Machine.execLaneAddH2 w f s
  | .laneSubH2 w f => Sys2Proof.Machine.execLaneSubH2 w f s
  | .laneAddsH2 w f => Sys2Proof.Machine.execLaneAddsH2 w f s
  | .laneMinH2 w f => Sys2Proof.Machine.execLaneMinH2 w f s
  | .laneMaxH2 w f => Sys2Proof.Machine.execLaneMaxH2 w f s
  | .laneMulH2 w f => Sys2Proof.Machine.execLaneMulH2 w f s
  | .laneAddi w f => Sys2Proof.Machine.execLaneAddi w f s
  | .laneAndi w f => Sys2Proof.Machine.execLaneAndi w f s
  | .laneOri w f => Sys2Proof.Machine.execLaneOri w f s
  | .laneXori w f => Sys2Proof.Machine.execLaneXori w f s
  | .laneSlli w f => Sys2Proof.Machine.execLaneSlli w f s
  | .laneSrli w f => Sys2Proof.Machine.execLaneSrli w f s
  | .laneSrai w f => Sys2Proof.Machine.execLaneSrai w f s
  | .laneLui w f => Sys2Proof.Machine.execLaneLui w f s
  | .laneLli w f => Sys2Proof.Machine.execLaneLli w f s
  | .laneFadd w f => Sys2Proof.Machine.execLaneFadd w f s
  | .laneFsub w f => Sys2Proof.Machine.execLaneFsub w f s
  | .laneFmul w f => Sys2Proof.Machine.execLaneFmul w f s
  | .laneFdiv w f => Sys2Proof.Machine.execLaneFdiv w f s
  | .laneFmin w f => Sys2Proof.Machine.execLaneFmin w f s
  | .laneFmax w f => Sys2Proof.Machine.execLaneFmax w f s
  | .laneFsqrt w f => Sys2Proof.Machine.execLaneFsqrt w f s
  | .laneFexp2 w f => Sys2Proof.Machine.execLaneFexp2 w f s
  | .laneFlog2 w f => Sys2Proof.Machine.execLaneFlog2 w f s
  | .laneFneg w f => Sys2Proof.Machine.execLaneFneg w f s
  | .laneFabs w f => Sys2Proof.Machine.execLaneFabs w f s
  | .laneFmac w f => Sys2Proof.Machine.execLaneFmac w f s
  | .laneF2i w f => Sys2Proof.Machine.execLaneF2i w f s
  | .laneI2f w f => Sys2Proof.Machine.execLaneI2f w f s
  | .laneF2f16 w f => Sys2Proof.Machine.execLaneF2f16 w f s
  | .laneF162f w f => Sys2Proof.Machine.execLaneF162f w f s
  | .laneF2w16 w f => Sys2Proof.Machine.execLaneF2w16 w f s
  | .laneW162f w f => Sys2Proof.Machine.execLaneW162f w f s
  | .laneF2e4m3 w f => Sys2Proof.Machine.execLaneF2e4m3 w f s
  | .laneE4m32f w f => Sys2Proof.Machine.execLaneE4m32f w f s
  | .laneF2e5m2 w f => Sys2Proof.Machine.execLaneF2e5m2 w f s
  | .laneE5m22f w f => Sys2Proof.Machine.execLaneE5m22f w f s
  | .laneF2i8 w f => Sys2Proof.Machine.execLaneF2i8 w f s
  | .laneI82f w f => Sys2Proof.Machine.execLaneI82f w f s
  | .laneFeq w f => Sys2Proof.Machine.execLaneFeq w f s
  | .laneFlt w f => Sys2Proof.Machine.execLaneFlt w f s
  | .laneFle w f => Sys2Proof.Machine.execLaneFle w f s
  | .laneFun w f => Sys2Proof.Machine.execLaneFun w f s
  | .laneEq w f => Sys2Proof.Machine.execLaneEq w f s
  | .laneNe w f => Sys2Proof.Machine.execLaneNe w f s
  | .laneLt w f => Sys2Proof.Machine.execLaneLt w f s
  | .laneLtu w f => Sys2Proof.Machine.execLaneLtu w f s
  | .laneGe w f => Sys2Proof.Machine.execLaneGe w f s
  | .laneGeu w f => Sys2Proof.Machine.execLaneGeu w f s
  | .lanePlogAnd w f => Sys2Proof.Machine.execLanePlogAnd w f s
  | .lanePlogOr w f => Sys2Proof.Machine.execLanePlogOr w f s
  | .lanePlogXor w f => Sys2Proof.Machine.execLanePlogXor w f s
  | .lanePlogAndn w f => Sys2Proof.Machine.execLanePlogAndn w f s
  | .laneSel w f pq => Sys2Proof.Machine.execLaneSel w f pq s
  | .laneLdsB w f => Sys2Proof.Machine.execLaneLdsB w f s
  | .laneLdsH w f => Sys2Proof.Machine.execLaneLdsH w f s
  | .laneLdsW w f => Sys2Proof.Machine.execLaneLdsW w f s
  | .laneStsB w f => Sys2Proof.Machine.execLaneStsB w f s
  | .laneStsH w f => Sys2Proof.Machine.execLaneStsH w f s
  | .laneStsW w f => Sys2Proof.Machine.execLaneStsW w f s
  | .laneLdmB w f => Sys2Proof.Machine.execLaneLdmB w f s
  | .laneLdmH w f => Sys2Proof.Machine.execLaneLdmH w f s
  | .laneLdmW w f => Sys2Proof.Machine.execLaneLdmW w f s
  | .laneStmB w f => Sys2Proof.Machine.execLaneStmB w f s
  | .laneStmH w f => Sys2Proof.Machine.execLaneStmH w f s
  | .laneStmW w f => Sys2Proof.Machine.execLaneStmW w f s
  | .laneLde w f => Sys2Proof.Machine.execLaneLde w f s
  | .laneSte w f => Sys2Proof.Machine.execLaneSte w f s
  | .laneLdod w f => Sys2Proof.Machine.execLaneLdod w f s
  | .laneBeq w f => Sys2Proof.Machine.execLaneBeq w f s
  | .laneBne w f => Sys2Proof.Machine.execLaneBne w f s
  | .laneBlt w f => Sys2Proof.Machine.execLaneBlt w f s
  | .laneBge w f => Sys2Proof.Machine.execLaneBge w f s
  | .laneBltu w f => Sys2Proof.Machine.execLaneBltu w f s
  | .laneBgeu w f => Sys2Proof.Machine.execLaneBgeu w f s
  | .laneBp w f => Sys2Proof.Machine.execLaneBp w f s
  | .laneJ w f => Sys2Proof.Machine.execLaneJ w f s
  | .laneSetvl w f => Sys2Proof.Machine.execLaneSetvl w f s
  | .laneEndvl w f => Sys2Proof.Machine.execLaneEndvl w f s
  | .laneRedFsum w f => Sys2Proof.Machine.execLaneRedFsum w f s
  | .laneRedFprod w f => Sys2Proof.Machine.execLaneRedFprod w f s
  | .laneRedFmax w f => Sys2Proof.Machine.execLaneRedFmax w f s
  | .laneRedFmin w f => Sys2Proof.Machine.execLaneRedFmin w f s
  | .laneRedFargmax w f => Sys2Proof.Machine.execLaneRedFargmax w f s
  | .laneRedFargmin w f => Sys2Proof.Machine.execLaneRedFargmin w f s
  | .laneRedIsum w f => Sys2Proof.Machine.execLaneRedIsum w f s
  | .laneRedImax w f => Sys2Proof.Machine.execLaneRedImax w f s
  | .laneRedImin w f => Sys2Proof.Machine.execLaneRedImin w f s
  | .laneGetred w f => Sys2Proof.Machine.execLaneGetred w f s
  | .laneMfsr w f => Sys2Proof.Machine.execLaneMfsr w f s
  | .laneBrk w f => Sys2Proof.Machine.execLaneBrk w f s
  | .laneHalt w f => Sys2Proof.Machine.execLaneHalt w f s
  | .lineRead ctx who addr => Sys2Proof.Machine.execLineRead ctx who addr s
  | .lineWrite ctx who addr data mask parityBad => Sys2Proof.Machine.execLineWrite ctx who addr data mask parityBad s
  | .wcEviction chan block => Sys2Proof.Machine.execWcEviction chan block s
  | .patrolScrub block => Sys2Proof.Machine.execPatrolScrub block s
  | .refresh chan => Sys2Proof.Machine.execRefresh chan s
  | .primaryCalibration chan => Sys2Proof.Machine.execPrimaryCalibration chan s
  | .calFallback chan => Sys2Proof.Machine.execCalFallback chan s
  | .marginScanDone tLeft tRight vLow vHigh => Sys2Proof.Machine.execMarginScanDone tLeft tRight vLow vHigh s
  | .ceLimitReached chan => Sys2Proof.Machine.execCeLimitReached chan s
  | .channelLost chan => Sys2Proof.Machine.execChannelLost chan s
  | .allocCtx via => Sys2Proof.Machine.execAllocCtx via s
  | .freeCtx via => Sys2Proof.Machine.execFreeCtx via s
  | .addRegion via => Sys2Proof.Machine.execAddRegion via s
  | .removeRegion via => Sys2Proof.Machine.execRemoveRegion via s
  | .pin via => Sys2Proof.Machine.execPin via s
  | .unpin via => Sys2Proof.Machine.execUnpin via s
  | .evict via => Sys2Proof.Machine.execEvict via s
  | .joinGroup via => Sys2Proof.Machine.execJoinGroup via s
  | .leaveGroup via => Sys2Proof.Machine.execLeaveGroup via s
  | .pageMigrated entry => Sys2Proof.Machine.execPageMigrated entry s
  | .countDecay => Sys2Proof.Machine.execCountDecay s
  | .skctxWrite hart priv v => Sys2Proof.Machine.execSkctxWrite hart priv v s
  | .load hart addr size kind va victim => Sys2Proof.Machine.execLoad hart addr size kind va victim s
  | .store hart addr data kind va victim => Sys2Proof.Machine.execStore hart addr data kind va victim s
  | .cboClean hart addr va => Sys2Proof.Machine.execCboClean hart addr va s
  | .cboFlush hart addr va => Sys2Proof.Machine.execCboFlush hart addr va s
  | .cboInval hart addr va permit => Sys2Proof.Machine.execCboInval hart addr va permit s
  | .cboZero hart addr va victim => Sys2Proof.Machine.execCboZero hart addr va victim s
  | .rds x => Sys2Proof.Machine.execRds x s
  | .rdx x => Sys2Proof.Machine.execRdx x s
  | .upg x => Sys2Proof.Machine.execUpg x s
  | .cbo x => Sys2Proof.Machine.execCbo x s
  | .vic x => Sys2Proof.Machine.execVic x s
  | .chk x => Sys2Proof.Machine.execChk x s
  | .snps x => Sys2Proof.Machine.execSnps x s
  | .snpx x => Sys2Proof.Machine.execSnpx x s
  | .snpw x => Sys2Proof.Machine.execSnpw x s
  | .snpv x => Sys2Proof.Machine.execSnpv x s
  | .srsp x victim => Sys2Proof.Machine.execSrsp x victim s
  | .gnt x => Sys2Proof.Machine.execGnt x s
  | .nack x => Sys2Proof.Machine.execNack x s
  | .cack x => Sys2Proof.Machine.execCack x s
  | .wcan x => Sys2Proof.Machine.execWcan x s
  | .data x => Sys2Proof.Machine.execData x s
  | .wdata x victim => Sys2Proof.Machine.execWdata x victim s
  | .udata x => Sys2Proof.Machine.execUdata x s
  | .requestResend agent line => Sys2Proof.Machine.execRequestResend agent line s
  | .reservationExpiry line => Sys2Proof.Machine.execReservationExpiry line s
  | .transactionTimeout num => Sys2Proof.Machine.execTransactionTimeout num s
  | .sndLock => Sys2Proof.Machine.execSndLock s
  | .detect p => Sys2Proof.Machine.execDetect p s
  | .equalise p => Sys2Proof.Machine.execEqualise p s
  | .align p bad scans => Sys2Proof.Machine.execAlign p bad scans s
  | .linkup p peer req ctl trip => Sys2Proof.Machine.execLinkup p peer req ctl trip s
  | .trainingTimeout p => Sys2Proof.Machine.execTrainingTimeout p s
  | .codewordLockLost p => Sys2Proof.Machine.execCodewordLockLost p s
  | .retrainRequest p => Sys2Proof.Machine.execRetrainRequest p s
  | .laneCeLimit p lane => Sys2Proof.Machine.execLaneCeLimit p lane s
  | .retrainDone p bad peer trip => Sys2Proof.Machine.execRetrainDone p bad peer trip s
  | .dataFlit p bytes corr uncorr => Sys2Proof.Machine.execDataFlit p bytes corr uncorr s
  | .idleFlit p bytes corr uncorr => Sys2Proof.Machine.execIdleFlit p bytes corr uncorr s
  | .nak p bytes corr uncorr => Sys2Proof.Machine.execNak p bytes corr uncorr s
  | .nakHoldoffExpiry p => Sys2Proof.Machine.execNakHoldoffExpiry p s
  | .ackFlitInterval p => Sys2Proof.Machine.execAckFlitInterval p s
  | .crd p cls units => Sys2Proof.Machine.execCrd p cls units s
  | .creditStall p => Sys2Proof.Machine.execCreditStall p s
  | .winWr p off data => Sys2Proof.Machine.execWinWr p off data s
  | .windowDoorbell p q v => Sys2Proof.Machine.execWindowDoorbell p q v s
  | .slotRead p q => Sys2Proof.Machine.execSlotRead p q s
  | .slotReread p q => Sys2Proof.Machine.execSlotReread p q s
  | .pull p q m => Sys2Proof.Machine.execPull p q m s
  | .push p q m => Sys2Proof.Machine.execPush p q m s
  | .flush p q seq => Sys2Proof.Machine.execFlush p q seq s
  | .nop p q seq => Sys2Proof.Machine.execNop p q seq s
  | .zngFlushStart => Sys2Proof.Machine.execZngFlushStart s
  | .flushAck p num => Sys2Proof.Machine.execFlushAck p num s
  | .flushTimeout num => Sys2Proof.Machine.execFlushTimeout num s
  | .place p h tag off ackReq bad data => Sys2Proof.Machine.execPlace p h tag off ackReq bad data s
  | .rdCpl p tag status off data => Sys2Proof.Machine.execRdCpl p tag status off data s
  | .wrAck p tag status => Sys2Proof.Machine.execWrAck p tag status s
  | .feed answer dest src feed => Sys2Proof.Machine.execFeed answer dest src feed s
  | .linkDown p => Sys2Proof.Machine.execLinkDown p s
  | .prsntNHigh p us => Sys2Proof.Machine.execPrsntNHigh p us s
  | .keysReturned p => Sys2Proof.Machine.execKeysReturned p s
  | .mailboxDoorbell m => Sys2Proof.Machine.execMailboxDoorbell m s
  | .mailboxAck m => Sys2Proof.Machine.execMailboxAck m s
  | .i3cPrivateWrite bytes => Sys2Proof.Machine.execI3cPrivateWrite bytes s
  | .entdaa addr => Sys2Proof.Machine.execEntdaa addr s
  | .setdasa static_ addr => Sys2Proof.Machine.execSetdasa static_ addr s
  | .commandTimeout via => Sys2Proof.Machine.execCommandTimeout via s
  | .getInfo m => Sys2Proof.Machine.execGetInfo m s
  | .getState m => Sys2Proof.Machine.execGetState m s
  | .configSet m => Sys2Proof.Machine.execConfigSet m s
  | .configDone m => Sys2Proof.Machine.execConfigDone m s
  | .shutdown m => Sys2Proof.Machine.execShutdown m s
  | .reset m => Sys2Proof.Machine.execReset m s
  | .funcStart m => Sys2Proof.Machine.execFuncStart m s
  | .funcStop m => Sys2Proof.Machine.execFuncStop m s
  | .functionRunning f => Sys2Proof.Machine.execFunctionRunning f s
  | .functionStopped f => Sys2Proof.Machine.execFunctionStopped f s
  | .groupForm m => Sys2Proof.Machine.execGroupForm m s
  | .groupJoin m => Sys2Proof.Machine.execGroupJoin m s
  | .groupAdmit m => Sys2Proof.Machine.execGroupAdmit m s
  | .groupLeave m => Sys2Proof.Machine.execGroupLeave m s
  | .groupWindow m => Sys2Proof.Machine.execGroupWindow m s
  | .hostRegister m => Sys2Proof.Machine.execHostRegister m s
  | .hostRelease m => Sys2Proof.Machine.execHostRelease m s
  | .placeRegister m => Sys2Proof.Machine.execPlaceRegister m s
  | .placeRelease m => Sys2Proof.Machine.execPlaceRelease m s
  | .queueConfig m => Sys2Proof.Machine.execQueueConfig m s
  | .margin m => Sys2Proof.Machine.execMargin m s
  | .pair m => Sys2Proof.Machine.execPair m s
  | .unpair m => Sys2Proof.Machine.execUnpair m s
  | .secure m => Sys2Proof.Machine.execSecure m s
  | .restore m => Sys2Proof.Machine.execRestore m s
  | .healthConfig m => Sys2Proof.Machine.execHealthConfig m s
  | .standby m => Sys2Proof.Machine.execStandby m s
  | .takeover m => Sys2Proof.Machine.execTakeover m s
  | .recRead m => Sys2Proof.Machine.execRecRead m s
  | .attest m => Sys2Proof.Machine.execAttest m s
  | .getCert m => Sys2Proof.Machine.execGetCert m s
  | .fwWrite m => Sys2Proof.Machine.execFwWrite m s
  | .fwCommit m flashBad => Sys2Proof.Machine.execFwCommit m flashBad s
  | .moduleHalted => Sys2Proof.Machine.execModuleHalted s
  | .eHalving => Sys2Proof.Machine.execEHalving s
  | .tempSample dies coolIn coolOut => Sys2Proof.Machine.execTempSample dies coolIn coolOut s
  | .intervalExpiry => Sys2Proof.Machine.execIntervalExpiry s
  | .powerWarning uv us => Sys2Proof.Machine.execPowerWarning uv us s
  | .leakDetected src us => Sys2Proof.Machine.execLeakDetected src us s
  | .recordWrite => Sys2Proof.Machine.execRecordWrite s
  | .minuteCount => Sys2Proof.Machine.execMinuteCount s
  | .pwrEnNAsserted us above => Sys2Proof.Machine.execPwrEnNAsserted us above s
  | .pwrEnNDeasserted us => Sys2Proof.Machine.execPwrEnNDeasserted us s
  | .powerDown => Sys2Proof.Machine.execPowerDown s
  | .railStep => Sys2Proof.Machine.execRailStep s
  | .railStepTimeout => Sys2Proof.Machine.execRailStepTimeout s
  | .hardTrip trip => Sys2Proof.Machine.execHardTrip trip s
  | .powerLimiting vin iin watts => Sys2Proof.Machine.execPowerLimiting vin iin watts s
  | .regulatorWarning rail us => Sys2Proof.Machine.execRegulatorWarning rail us s
  | .coolantWarning coolIn coolOut => Sys2Proof.Machine.execCoolantWarning coolIn coolOut s
  | .feedIdChanged feed us => Sys2Proof.Machine.execFeedIdChanged feed us s
  | .harbourFirmwareStart => Sys2Proof.Machine.execHarbourFirmwareStart s
  | .flashRead feed slot => Sys2Proof.Machine.execFlashRead feed slot s
  | .straitTraining bad => Sys2Proof.Machine.execStraitTraining bad s
  | .lpddrTraining bad scans => Sys2Proof.Machine.execLpddrTraining bad scans s
  | .configHoldExpired => Sys2Proof.Machine.execConfigHoldExpired s
  | .isletTest bad => Sys2Proof.Machine.execIsletTest bad s
  | .clockStart => Sys2Proof.Machine.execClockStart s
  | .rollbackRaised kind => Sys2Proof.Machine.execRollbackRaised kind s
  | .bringupFailed stage => Sys2Proof.Machine.execBringupFailed stage s
  | .registerWrite off v => Sys2Proof.Machine.execRegisterWrite off v s
  | .turnOnThreshold => Sys2Proof.Machine.execTurnOnThreshold s
  | .gatingReleased vin iin watts => Sys2Proof.Machine.execGatingReleased vin iin watts s
  | .warningSourceDeasserted src us => Sys2Proof.Machine.execWarningSourceDeasserted src us s
  | .straitLaneSpared target => Sys2Proof.Machine.execStraitLaneSpared target s
  | .leaveRequestReceived group rank => Sys2Proof.Machine.execLeaveRequestReceived group rank s
  | .hostWindowAccess hart addr size va data => Sys2Proof.Machine.execHostWindowAccess hart addr size va data s
  | .undefinedOpcode via => Sys2Proof.Machine.execUndefinedOpcode via s

end Sys2Proof.Machine
end

