-- ==== Sys2Proof/Safety.lean ====
section
/-! DEFINITION. The terms that statements about the block are made of: when a command finds what it needs, and what a state
must keep. -/

namespace Sys2Proof.Machine

/-! ### What a state must keep -/

/-- The byte memories that the spec gives the module, module memory and the islet stores, are in their canonical form. -/
def canonical (s : State) : Bool := Memory.wf s.mem.cells && Memory.wf s.isl.store

/-- What no command takes away: the ordering code (R1), the waiting commands, the fuses' secret and the serial number (R425), and
the anti-rollback counters, which never fall (R433); with the byte memories canonical. -/
def Kept (z s : State) : Prop :=
  s.cfg = z.cfg ∧ s.pending = z.pending ∧ s.flash.uds = z.flash.uds ∧ s.flash.serial = z.flash.serial
    ∧ (∀ k, look 0 z.flash.rollback k ≤ look 0 s.flash.rollback k)
    ∧ Memory.wf s.mem.cells = true ∧ Memory.wf s.isl.store = true

/-! ### The lane engine -/

/-- Hardware thread `w.t` of run `w.run` holds the instance `th` of kernel `k`, ready on an ACTIVE islet, and the instance's next
word is that of command `c` (R167, R168). -/
def laneNext (c : Instr) (w : LaneWho) (s : State) (k : LaneKernel) (th : LaneThread) : Prop :=
  laneKernel s w.run = some k ∧ threadAt k w.t = some th ∧ threadReady th = true
    ∧ (isletOf s k.islet).state = .active ∧ k.code[th.pc]? = laneWord c

/-- The same, with the guard of the instruction true (R182). -/
def laneRuns (c : Instr) (w : LaneWho) (pg : BitVec 3) (s : State) (k : LaneKernel) (th : LaneThread) : Prop :=
  laneNext c w s k th ∧ getP th pg.toNat = true

/-- An instance goes on at a word: in an element loop, or at a word that the code has (R192). -/
def goesOn (k : LaneKernel) (pc : Nat) : Prop := k.loop.isSome = true ∨ pc < k.code.length

/-- The state with one instance of a kernel replaced, and nothing else. -/
def movedTo (w : LaneWho) (k : LaneKernel) (th : LaneThread) (s : State) : State := setKernel w.run (setThread w.t th k) s

/-- The store that an STS of `n` bytes makes, where no check of R193 stops it (R183). -/
def stsStore (k : LaneKernel) (th : LaneThread) (f : FI) (n : Nat) : Option LaneStore :=
  let a := (getG th f.rs1.toNat + f.imm.signExtend 32).toNat
  if ldsFault k a n true = none then
    some { target := .store k.lislet a, bytes := toLE n (getG th f.rd.toNat).toNat, pc := th.pc }
  else none

/-- The store that an STM of `n` bytes makes, where no check of R193 stops it (R184). -/
def stmStore (s : State) (k : LaneKernel) (th : LaneThread) (f : FR) (n : Nat) : Option LaneStore :=
  let r := (getG th f.rs1.toNat).toNat
  let off := (getG th f.rs2.toNat).toNat * n
  match k.ranges[r]? with
  | some kr =>
    if rangeFault s k r off n true true = none then
      some { target := rangeTarget s kr off, bytes := toLE n (getG th f.rd.toNat).toNat, pc := th.pc
             tensor := rangeTensor kr off }
    else none
  | none => none

/-- The store that an STE makes, where no check of R193 stops it: the raw bytes, or the register's value over the scale encoded into
the descriptor's format (R186, R187). -/
def steStore (s : State) (k : LaneKernel) (th : LaneThread) (f : FR) : Option LaneStore :=
  match k.ods.getD (f.rs1.toNat % 8) none with
  | none => none
  | some d =>
    let off := odOffset d th.ei
    let v := getG th f.rd.toNat
    let fmt := (fmtOfCode d.fmt).getD .raw
    match k.ranges[d.range]? with
    | some kr =>
      let code := encodeElem fmt (steRounding s k kr d off)
        (scaleNum (-(if fmtIsScaled fmt then storeScale s kr else 0)) (num v))
      if d.mode = 0 ∧ rangeFault s k d.range off (odSize d) true (d.fmt == 0) = none then
        some (if d.fmt = 0 then
          { target := rangeTarget s kr off, bytes := toLE (odSize d) v.toNat, pc := th.pc, tensor := rangeTensor kr off }
        else
          { target := rangeTarget s kr off, bytes := toLE (odSize d) code.1, pc := th.pc, tensor := rangeTensor kr off
            value := some (num v, code.2) })
      else none
    | none => none

/-! ### The mailboxes -/

/-- A mailbox's request as it runs; whether its class is taken is seen as it arrives (R362). -/
def mbRunning (s : State) (m : Nat) : Mailbox :=
  { mbOf s m with state := .running, wait := .nothing, bad := false, busy := classBusy s (mbOp (mbOf s m)) m }

/-- The state in which the request of mailbox `m` has been taken. -/
def mbTaken (m : Nat) (s : State) : State :=
  { s with hbr := { s.hbr with last := m, mbs := put {} m (mbRunning s m) s.hbr.mbs } }

/-- Mailbox `m` may be taken now, its request `x` names opcode `op` and has passed every check of Table 13.4, and its own effect
begins in `s'`: taken at once, or after the payload that its ARG5 names has been read from the host (R356, R357, R361). -/
def Entered (op m : Nat) (s : State) (x : Mailbox) (s' : State) : Prop :=
  mbReady m s = true ∧ mbOp (mbOf s m) = op ∧ argsOk s.cfg op m (mbOf s m) = true
    ∧ ((mbOf s m).state = .posted ∧ firstChecks s m = none ∧ classBusy s op m = false ∧ (m < 8 → mbPayLen (mbOf s m) = 0)
        ∧ x = mbRunning s m ∧ s' = mbTaken m s
      ∨ (mbOf s m).state = .running ∧ (mbOf s m).bad = false ∧ (mbOf s m).busy = false ∧ x = mbOf s m ∧ s' = await m .nothing s)

/-- The opcode of a management command and its mailbox (Table 13.5). -/
def mbCmd : Instr → Option (Nat × Nat)
  | .getInfo m => some (0x01, m)
  | .getState m => some (0x02, m)
  | .configSet m => some (0x03, m)
  | .configDone m => some (0x04, m)
  | .shutdown m => some (0x05, m)
  | .reset m => some (0x06, m)
  | .funcStart m => some (0x10, m)
  | .funcStop m => some (0x11, m)
  | .ttLoad m => some (0x20, m)
  | .ttStart m _ => some (0x21, m)
  | .ttSwitch m => some (0x22, m)
  | .ttCursor m => some (0x23, m)
  | .ttShipTarget m => some (0x24, m)
  | .xngPeriod m => some (0x25, m)
  | .groupForm m => some (0x30, m)
  | .groupJoin m => some (0x31, m)
  | .groupAdmit m => some (0x32, m)
  | .groupLeave m => some (0x33, m)
  | .groupWindow m => some (0x34, m)
  | .allocCtx (.mailbox m) => some (0x40, m)
  | .freeCtx (.mailbox m) => some (0x41, m)
  | .addRegion (.mailbox m) => some (0x42, m)
  | .removeRegion (.mailbox m) => some (0x43, m)
  | .pin (.mailbox m) => some (0x44, m)
  | .unpin (.mailbox m) => some (0x45, m)
  | .evict (.mailbox m) => some (0x46, m)
  | .joinGroup (.mailbox m) => some (0x47, m)
  | .leaveGroup (.mailbox m) => some (0x48, m)
  | .hostRegister m => some (0x49, m)
  | .hostRelease m => some (0x4A, m)
  | .placeRegister m => some (0x4B, m)
  | .placeRelease m => some (0x4C, m)
  | .queueConfig m => some (0x4D, m)
  | .margin m => some (0x50, m)
  | .pair m => some (0x60, m)
  | .unpair m => some (0x61, m)
  | .secure m => some (0x62, m)
  | .restore m => some (0x63, m)
  | .healthConfig m => some (0x64, m)
  | .standby m => some (0x65, m)
  | .takeover m => some (0x66, m)
  | .recRead m => some (0x70, m)
  | .attest m => some (0x78, m)
  | .getCert m => some (0x79, m)
  | .fwWrite m => some (0x7A, m)
  | .fwCommit m _ => some (0x7B, m)
  | _ => none

/-! ### Region commands -/

/-- Region command `op` is taken by its path with its arguments, no other is in progress, and its own effect begins in `s'` (R261). -/
def RgnEntered (op : Nat) (via : Via) (s : State) (a0 a1 : Nat) (s' : State) : Prop :=
  s'.rgn.job = none ∧ match via with
    | .mailbox m => ∃ x, Entered (op + 0x3F) m s x s' ∧ a0 = mbArg x 0 ∧ a1 = mbArg x 1
    | .register => s' = s ∧ a0 = s.rgn.arg0.toNat ∧ a1 = s.rgn.arg1.toNat ∧ (3 ≤ op → op ≤ 7 → ownerOk a0 = true)

end Sys2Proof.Machine
end

