-- ==== Sys2Proof/WellFormed.lean ====
section
/-! DEFINITION. The commands as the spec's outside world can send them: every operand within the range that the spec gives it.
`exec` gives every command an answer, these or not; what a range rules out names no port, mailbox, queue, islet, hart, line or
step of the module. -/

namespace Sys2Proof

/-- The run of a logical islet's KERNEL step (R69), or of a launch queue, 0 to 63 (R196). -/
def LaneRun.wf : LaneRun → Bool
  | .step lislet => lislet < 65535
  | .queue q => q < 64

/-- Hardware thread t, 0 to 255 (R167). -/
def LaneWho.wf (w : LaneWho) : Bool := w.run.wf && w.t < 256

/-- A mailbox, 0 to 15 (R354), or RGN_CMD (R261). -/
def Via.wf : Via → Bool
  | .mailbox m => m < 16
  | .register => true

/-- An error of the matrix array lies in one of the 32 × 32 outputs (R67). -/
def Upset.wf (u : Upset) : Bool := u.m < 32 && u.n < 32

/-- A ring message's line, agent, transaction and context fit their fields (R292, R297); data is a line's 64 bytes. -/
def RMsg.wf (x : RMsg) : Bool :=
  x.line < 2 ^ 42 && x.agent < 196 && x.stop < 8 && x.txn < 65536 && x.ctx < 65536 && x.stamp < 2 ^ 32
    && (x.bytes.length == 0 || x.bytes.length == 64)

/-- A decision's fields fit theirs (R35, R349). -/
def Decision.wf (d : Decision) : Bool :=
  d.group < 65536 && d.tick < 2 ^ 64 && d.index < 2 ^ 48 && d.members.all fun c => c.rank < 1024

/-- An access that reads (LOAD), not one that writes (STORE). -/
def AccKind.isRead : AccKind → Bool
  | .load | .fetch | .lr | .prefetch _ => true
  | .store | .sc | .amo _ => false

/-- Every operand of a command lies in its range. -/
def Instr.wf : Instr → Bool
  | .tick => true
  | .stepCompletion k _ => k < 2 ^ 32
  | .timetableStopped | .periodApply | .periodChanged | .ringEn _ | .windowWrite _ | .overrun | .cutoff => true
  | .voteSum group _ _ _ => group < 65536
  | .voteDeadline | .groupFault => true
  | .decision d => d.wf
  | .leadLost => true
  | .crossingMarker bytes => bytes.length = 32
  | .holdover | .alignLost => true
  | .probe _ group rank _ _ _ => group < 65536 && rank < 1024
  | .groupFormed => true
  | .memberJoined rank | .memberLeft rank => rank < 1024
  | .dissolve group => group < 65536
  | .ttLoad m | .ttStart m _ => m < 16
  | .lockPages _ => true
  | .ttSwitch m | .ttCursor m => m < 16
  | .ttuCursorPost _ => true
  | .ttShipTarget m | .xngPeriod m => m < 16
  | .move k => k < 2 ^ 32
  | .mmaFull k upset | .mmaPartial k upset => k < 2 ^ 32 && upset.all Upset.wf
  | .mmaCombine k | .mmaFinal k | .kernel k => k < 2 ^ 32
  | .allreduce k others | .reduceScatter k others | .allgather k others | .broadcast k others =>
      k < 2 ^ 32 && (others.all fun x => x.1 < 1024)
  | .snapShip k | .snapPolicy k => k < 2 ^ 32
  | .shipmentStart => true
  | .storeScrub islet row => islet < 1024 && row < 2 ^ 17
  | .isletParity islet | .ferryInternal islet | .laneInternal islet => islet < 1024
  | .fryQtail q _ | .fryQcfgEnable q _ | .fryQcfgDisable q _ => q < 256
  | .ferryDescriptor q islet => q < 256 && islet < 1024
  | .copy q pos | .convert q pos | .fill q pos => q < 256 && pos < 2 ^ 32
  | .ferryCompletion q => q < 256
  | .lncQtail q _ | .lncQcfgEnable q _ | .lncQcfgDisable q _ => q < 64
  | .laneLoadReturn w _ _ => w.wf
  | .passCommit run => run.wf
  | .laneAdd w _ | .laneSub w _ | .laneAnd w _ | .laneOr w _ | .laneXor w _ | .laneSll w _ | .laneSrl w _
  | .laneSra w _ | .laneMul w _ | .laneMulhu w _ | .laneMulh w _ | .laneMin w _ | .laneMax w _ | .laneMinu w _
  | .laneMaxu w _ | .laneDivu w _ | .laneRemu w _ | .laneAddB4 w _ | .laneSubB4 w _ | .laneAddsB4 w _
  | .laneMinB4 w _ | .laneMaxB4 w _ | .laneDotB4 w _ | .laneAddH2 w _ | .laneSubH2 w _ | .laneAddsH2 w _
  | .laneMinH2 w _ | .laneMaxH2 w _ | .laneMulH2 w _ | .laneAddi w _ | .laneAndi w _ | .laneOri w _
  | .laneXori w _ | .laneSlli w _ | .laneSrli w _ | .laneSrai w _ | .laneLui w _ | .laneLli w _
  | .laneFadd w _ | .laneFsub w _ | .laneFmul w _ | .laneFdiv w _ | .laneFmin w _ | .laneFmax w _
  | .laneFsqrt w _ | .laneFexp2 w _ | .laneFlog2 w _ | .laneFneg w _ | .laneFabs w _ | .laneFmac w _
  | .laneF2i w _ | .laneI2f w _ | .laneF2f16 w _ | .laneF162f w _ | .laneF2w16 w _ | .laneW162f w _
  | .laneF2e4m3 w _ | .laneE4m32f w _ | .laneF2e5m2 w _ | .laneE5m22f w _ | .laneF2i8 w _ | .laneI82f w _
  | .laneFeq w _ | .laneFlt w _ | .laneFle w _ | .laneFun w _ | .laneEq w _ | .laneNe w _ | .laneLt w _
  | .laneLtu w _ | .laneGe w _ | .laneGeu w _ | .lanePlogAnd w _ | .lanePlogOr w _ | .lanePlogXor w _
  | .lanePlogAndn w _ | .laneSel w _ _ | .laneLdsB w _ | .laneLdsH w _ | .laneLdsW w _ | .laneStsB w _
  | .laneStsH w _ | .laneStsW w _ | .laneLdmB w _ | .laneLdmH w _ | .laneLdmW w _ | .laneStmB w _
  | .laneStmH w _ | .laneStmW w _ | .laneLde w _ | .laneSte w _ | .laneLdod w _ | .laneBeq w _ | .laneBne w _
  | .laneBlt w _ | .laneBge w _ | .laneBltu w _ | .laneBgeu w _ | .laneBp w _ | .laneJ w _ | .laneSetvl w _
  | .laneEndvl w _ | .laneRedFsum w _ | .laneRedFprod w _ | .laneRedFmax w _ | .laneRedFmin w _
  | .laneRedFargmax w _ | .laneRedFargmin w _ | .laneRedIsum w _ | .laneRedImax w _ | .laneRedImin w _
  | .laneGetred w _ | .laneMfsr w _ | .laneBrk w _ | .laneHalt w _ => w.wf
  | .lineRead ctx who addr => ctx < 65536 && who < 65536 && addr < 2 ^ 48
  | .lineWrite ctx who addr bs _ _ => ctx < 65536 && who < 65536 && addr < 2 ^ 48 && bs.length == 64
  | .wcEviction chan block => chan < 1280 && block < 2 ^ 40
  | .patrolScrub block => block < 2 ^ 40
  | .refresh chan | .primaryCalibration chan | .calFallback chan => chan < 1280
  | .marginScanDone _ _ _ _ => true
  | .ceLimitReached chan | .channelLost chan => chan < 1280
  | .allocCtx via | .freeCtx via | .addRegion via | .removeRegion via | .pin via | .unpin via | .evict via
  | .joinGroup via | .leaveGroup via => via.wf
  | .pageMigrated entry => entry < 256
  | .countDecay => true
  | .skctxWrite hart _ _ => hart < 128
  | .load hart addr size kind _ _ => hart < 128 && addr < 2 ^ 48 && [1, 2, 4, 8, 16].contains size && kind.isRead
      && (kind != .lr || addr % size == 0)
  | .store hart addr bs kind _ _ => hart < 128 && addr < 2 ^ 48 && [1, 2, 4, 8, 16].contains bs.length && !kind.isRead
      && (kind == .store || ([4, 8].contains bs.length && addr % bs.length == 0))
  | .cboClean hart addr _ | .cboFlush hart addr _ | .cboInval hart addr _ _ | .cboZero hart addr _ _ => hart < 128 && addr < 2 ^ 48
  | .rds x | .rdx x | .upg x | .cbo x | .vic x | .chk x | .snps x | .snpx x | .snpw x | .snpv x | .srsp x _
  | .gnt x | .nack x | .cack x | .wcan x | .data x | .wdata x _ | .udata x => x.wf
  | .requestResend agent line => agent < 196 && line < 2 ^ 42
  | .reservationExpiry line => line < 2 ^ 42
  | .transactionTimeout num => num < 65536
  | .sndLock => true
  | .detect p | .equalise p => p < 8
  | .align p _ scans => p < 8 && (scans.length == 0 || scans.length == 5)
  | .linkup p peer _ _ _ => p < 8 && peer < 2 ^ 32
  | .trainingTimeout p | .codewordLockLost p | .retrainRequest p => p < 8
  | .laneCeLimit p lane => p < 8 && lane < 5
  | .retrainDone p _ peer _ => p < 8 && peer < 2 ^ 32
  | .dataFlit p bytes corr _ | .idleFlit p bytes corr _ | .nak p bytes corr _ => p < 8 && bytes.length == 256 && corr.length ≤ 5
  | .nakHoldoffExpiry p | .ackFlitInterval p => p < 8
  | .crd p cls units => p < 8 && cls < 256 && units < 2 ^ 16
  | .creditStall p => p < 8
  | .winWr p off _ => p < 8 && off < 2 ^ 48
  | .windowDoorbell p q _ | .slotRead p q | .slotReread p q => p < 8 && q < 8
  | .pull p q m | .push p q m => p < 8 && q < 8 && m.seq < 2 ^ 32 && m.islet < 1024
  | .flush p q seq | .nop p q seq => p < 8 && q < 8 && seq < 2 ^ 32
  | .zngFlushStart => true
  | .flushAck p num => p < 8 && num < 2 ^ 32
  | .flushTimeout num => num < 2 ^ 32
  | .place p h tag off _ _ _ => p < 8 && h < 65536 && tag < 65536 && off < 2 ^ 48
  | .rdCpl p tag status off _ => p < 8 && tag < 65536 && status < 256 && off < 2 ^ 48
  | .wrAck p tag status => p < 8 && tag < 65536 && status < 256
  | .feed _ dest src fid => dest < 2 ^ 32 && src < 2 ^ 32 && fid < 65536
  | .linkDown p | .prsntNHigh p _ | .keysReturned p => p < 8
  | .mailboxDoorbell m | .mailboxAck m => m < 16
  | .i3cPrivateWrite _ => true
  | .entdaa addr => addr < 128
  | .setdasa static_ addr => static_ < 128 && addr < 128
  | .commandTimeout via => via.wf
  | .getInfo m | .getState m | .configSet m | .configDone m | .shutdown m | .reset m | .funcStart m
  | .funcStop m => m < 16
  | .functionRunning f | .functionStopped f => f < 4 || 8 ≤ f && f < 16
  | .groupForm m | .groupJoin m | .groupAdmit m | .groupLeave m | .groupWindow m | .hostRegister m
  | .hostRelease m | .placeRegister m | .placeRelease m | .queueConfig m | .margin m | .pair m | .unpair m
  | .secure m | .restore m | .healthConfig m | .standby m | .takeover m | .recRead m | .attest m | .getCert m
  | .fwWrite m | .fwCommit m _ => m < 16
  | .moduleHalted | .eHalving => true
  | .tempSample dies _ _ => dies.length == 5
  | .intervalExpiry | .powerWarning _ _ => true
  | .leakDetected src _ => src < 2
  | .recordWrite | .minuteCount | .pwrEnNAsserted _ _ | .pwrEnNDeasserted _ | .powerDown | .railStep
  | .railStepTimeout => true
  | .hardTrip trip => 3 ≤ trip.cause && trip.cause < 8
  | .powerLimiting _ _ _ => true
  | .regulatorWarning rail _ => rail < 12
  | .coolantWarning _ _ | .feedIdChanged _ _ | .harbourFirmwareStart | .flashRead _ _ => true
  | .straitTraining bad => bad.all (· < 2048)
  | .lpddrTraining _ _ | .configHoldExpired => true
  | .isletTest bad => bad.all (· < 1024)
  | .clockStart => true
  | .rollbackRaised kind => kind == 1 || kind == 2
  | .bringupFailed stage => stage < 9
  | .registerWrite off _ => off < 2 ^ 20 && off % 8 == 0
  | .turnOnThreshold | .gatingReleased _ _ _ => true
  | .warningSourceDeasserted src _ => src < 4
  | .straitLaneSpared target => target < 2048
  | .leaveRequestReceived group rank => group < 65536 && rank < 1024
  | .hostWindowAccess hart addr size _ bs => 
      hart < 128 && addr < 2 ^ 48 && [1, 2, 4, 8, 16].contains size && (bs.all fun d => d.length == size)
  | .undefinedOpcode via => via.wf

end Sys2Proof
end

