-- ==== Sys2Proof/Certificates/Slice0/Obligations.lean ====
section
/-! DEFINITION. The statements about the block: what each command does, what it leaves, where it stops short, and what every step
keeps. A statement about a command says which next state `exec` answers, under hypotheses on the state and the operands alone. -/

open Sys2Proof Sys2Proof.Machine

/-! ### The lane engine (R167 to R199) -/

/-- The integer instructions of the lane engine write their result and nothing else (R179, Table 6.4): register rd of the one
instance, g0 staying zero, and its word index one further. The immediate instructions: ADDI, ANDI, ORI and XORI extend imm12 by
its sign, the shifts take imm12[4:0], LUI puts imm17 in bits 31:15, and LLI replaces bits 14:0 (Table 6.3). -/
def Obligations.LaneIntegerResults : Prop :=
  (∀ (w : LaneWho) (f : FR) (s : State) (k : LaneKernel) (th : LaneThread) (c : Instr) (v : Word32),
     let a := getG th f.rs1.toNat
     let b := getG th f.rs2.toNat
     (c, v) ∈ [(Instr.laneAdd w f, a + b), (.laneSub w f, a - b), (.laneAnd w f, a &&& b), (.laneOr w f, a ||| b),
       (.laneXor w f, a ^^^ b), (.laneSll w f, a <<< (b.toNat % 32)), (.laneSrl w f, a >>> (b.toNat % 32)),
       (.laneSra w f, a.sshiftRight (b.toNat % 32)), (.laneMul w f, BitVec.ofNat 32 (a.toNat * b.toNat)),
       (.laneMulhu w f, BitVec.ofNat 32 (a.toNat * b.toNat / 2 ^ 32)),
       (.laneMulh w f, BitVec.ofInt 32 (a.toInt * b.toInt / 2 ^ 32)),
       (.laneMin w f, if a.toInt < b.toInt then a else b), (.laneMax w f, if a.toInt < b.toInt then b else a),
       (.laneMinu w f, if a.toNat < b.toNat then a else b), (.laneMaxu w f, if a.toNat < b.toNat then b else a),
       (.laneDivu w f, if b.toNat = 0 then BitVec.allOnes 32 else BitVec.ofNat 32 (a.toNat / b.toNat)),
       (.laneRemu w f, if b.toNat = 0 then a else BitVec.ofNat 32 (a.toNat % b.toNat))] →
     laneRuns c w f.pg s k th → goesOn k (th.pc + 1) →
     exec c s = .next (movedTo w k (stepPc (setG th f.rd.toNat v)) s))
  ∧ (∀ (w : LaneWho) (s : State) (k : LaneKernel) (th : LaneThread) (c : Instr) (v : Word32) (pg : BitVec 3) (rd : Nat)
         (f : FI) (u : FU),
       (c, v, pg, rd) ∈
         [(Instr.laneAddi w f, getG th f.rs1.toNat + f.imm.signExtend 32, f.pg, f.rd.toNat),
          (.laneAndi w f, getG th f.rs1.toNat &&& f.imm.signExtend 32, f.pg, f.rd.toNat),
          (.laneOri w f, getG th f.rs1.toNat ||| f.imm.signExtend 32, f.pg, f.rd.toNat),
          (.laneXori w f, getG th f.rs1.toNat ^^^ f.imm.signExtend 32, f.pg, f.rd.toNat),
          (.laneSlli w f, getG th f.rs1.toNat <<< (f.imm.toNat % 32), f.pg, f.rd.toNat),
          (.laneSrli w f, getG th f.rs1.toNat >>> (f.imm.toNat % 32), f.pg, f.rd.toNat),
          (.laneSrai w f, (getG th f.rs1.toNat).sshiftRight (f.imm.toNat % 32), f.pg, f.rd.toNat),
          (.laneLui w u, BitVec.ofNat 32 (u.imm.toNat * 2 ^ 15), u.pg, u.rd.toNat),
          (.laneLli w u, BitVec.ofNat 32 ((getG th u.rd.toNat).toNat / 2 ^ 15 * 2 ^ 15 + u.imm.toNat % 2 ^ 15), u.pg,
            u.rd.toNat)] →
       laneRuns c w pg s k th → goesOn k (th.pc + 1) →
       exec c s = .next (movedTo w k (stepPc (setG th rd v)) s))

/-- The packed instructions work on the four bytes or the two halves of a word, each on its own (Table 6.4), and change nothing
but register rd and the word index. The comparisons and the predicate operations write predicate rd (p0 staying true), comparisons of F32
values being those of R180, SEL chooses by predicate pq, and MFSR reads VL or EI, zero in uniform code (R178: Tables 6.3 and 6.4; R171).
-/
def Obligations.LanePackedAndPredicateResults : Prop :=
  (∀ (w : LaneWho) (f : FR) (s : State) (k : LaneKernel) (th : LaneThread) (c : Instr) (v : Word32),
     laneRuns c w f.pg s k th → goesOn k (th.pc + 1) →
     (let a := getG th f.rs1.toNat
      let b := getG th f.rs2.toNat
      let byte (x : Word32) (i : Nat) : BitVec 8 := x.extractLsb' (8 * i) 8
      let half (x : Word32) (i : Nat) : BitVec 16 := x.extractLsb' (16 * i) 16
      let sat8 (z : Int) : BitVec 8 := BitVec.ofInt 8 (max (-128) (min z 127))
      let sat16 (z : Int) : BitVec 16 := BitVec.ofInt 16 (max (-32768) (min z 32767))
      (∃ op : BitVec 8 → BitVec 8 → BitVec 8,
         (c = .laneAddB4 w f ∧ op = (fun x y => x + y) ∨ c = .laneSubB4 w f ∧ op = (fun x y => x - y)
           ∨ c = .laneAddsB4 w f ∧ op = (fun x y => sat8 (x.toInt + y.toInt))
           ∨ c = .laneMinB4 w f ∧ op = (fun x y => if x.toInt < y.toInt then x else y)
           ∨ c = .laneMaxB4 w f ∧ op = (fun x y => if x.toInt < y.toInt then y else x))
         ∧ ∀ i < 4, byte v i = op (byte a i) (byte b i))
      ∨ (∃ op : BitVec 16 → BitVec 16 → BitVec 16,
         (c = .laneAddH2 w f ∧ op = (fun x y => x + y) ∨ c = .laneSubH2 w f ∧ op = (fun x y => x - y)
           ∨ c = .laneAddsH2 w f ∧ op = (fun x y => sat16 (x.toInt + y.toInt))
           ∨ c = .laneMinH2 w f ∧ op = (fun x y => if x.toInt < y.toInt then x else y)
           ∨ c = .laneMaxH2 w f ∧ op = (fun x y => if x.toInt < y.toInt then y else x)
           ∨ c = .laneMulH2 w f ∧ op = (fun x y => x * y))
         ∧ ∀ i < 2, half v i = op (half a i) (half b i))
      ∨ (c = .laneDotB4 w f ∧ v = getG th f.rd.toNat + BitVec.ofInt 32 ((byte a 0).toInt * (byte b 0).toInt
         + (byte a 1).toInt * (byte b 1).toInt + (byte a 2).toInt * (byte b 2).toInt
         + (byte a 3).toInt * (byte b 3).toInt))) →
     exec c s = .next (movedTo w k (stepPc (setG th f.rd.toNat v)) s))
  ∧ (∀ (w : LaneWho) (f : FR) (g : FI) (pq : BitVec 3) (s : State) (k : LaneKernel) (th : LaneThread),
       (∀ (c : Instr) (v : Bool),
         let x := getG th f.rs1.toNat
         let y := getG th f.rs2.toNat
         (c, v) ∈ [(Instr.laneFeq w f, numEq (num x) (num y)), (.laneFlt w f, numLt (num x) (num y)),
           (.laneFle w f, numLt (num x) (num y) || numEq (num x) (num y)),
           (.laneFun w f, numIsNan (num x) || numIsNan (num y)), (.laneEq w f, decide (x = y)), (.laneNe w f, decide (x ≠ y)),
           (.laneLt w f, decide (x.toInt < y.toInt)), (.laneLtu w f, decide (x.toNat < y.toNat)),
           (.laneGe w f, decide (y.toInt ≤ x.toInt)), (.laneGeu w f, decide (y.toNat ≤ x.toNat)),
           (.lanePlogAnd w f, getP th f.rs1.toNat && getP th f.rs2.toNat),
           (.lanePlogOr w f, getP th f.rs1.toNat || getP th f.rs2.toNat),
           (.lanePlogXor w f, getP th f.rs1.toNat != getP th f.rs2.toNat),
           (.lanePlogAndn w f, getP th f.rs1.toNat && !getP th f.rs2.toNat)] →
         laneRuns c w f.pg s k th → goesOn k (th.pc + 1) →
         exec c s = .next (movedTo w k (stepPc (setP th f.rd.toNat v)) s))
       ∧ (laneRuns (.laneSel w f pq) w f.pg s k th → goesOn k (th.pc + 1) →
         exec (.laneSel w f pq) s = .next (movedTo w k (stepPc (setG th f.rd.toNat
           (if getP th pq.toNat then getG th f.rs1.toNat else getG th f.rs2.toNat))) s))
       ∧ (laneRuns (.laneMfsr w g) w g.pg s k th → goesOn k (th.pc + 1) →
         exec (.laneMfsr w g) s = .next (movedTo w k (stepPc (setG th g.rd.toNat
           (BitVec.ofNat 32 (if g.imm.toNat = 0 then k.vl else th.ei)))) s)))

/-- The F32 arithmetic of the lane engine forms the exact result of the register values and rounds it once (R180); the conversions
go between F32 and the narrow formats by R181, a narrow result leaving the upper bits zero. -/
def Obligations.LaneFloatResults : Prop :=
  ∀ (w : LaneWho) (f : FR) (s : State) (k : LaneKernel) (th : LaneThread) (c : Instr) (v : Word32),
    let a := num (getG th f.rs1.toNat)
    let b := num (getG th f.rs2.toNat)
    let d := num (getG th f.rd.toNat)
    let code (fm : Fmt) : Word32 := BitVec.ofNat 32 (encodeElem fm .rne a).1
    let value (fm : Fmt) : Word32 := f32 (decodeElem fm ((getG th f.rs1.toNat).toNat % 2 ^ fmtBits fm))
    (c, v) ∈ [(Instr.laneFadd w f, f32 (numAdd a b)), (.laneFsub w f, f32 (numAdd a (numNeg b))),
      (.laneFmul w f, f32 (numMul a b)), (.laneFdiv w f, f32 (numDiv a b)), (.laneFmin w f, f32 (numMin a b)),
      (.laneFmax w f, f32 (numMax a b)), (.laneFsqrt w f, f32 (numSqrt a)), (.laneFexp2 w f, f32 (numExp2 a)),
      (.laneFlog2 w f, f32 (numLog2 a)), (.laneFneg w f, f32 (numNeg a)), (.laneFabs w f, f32 (numAbs a)),
      (.laneFmac w f, f32 (numAdd d (numMul a b))), (.laneF2i w f, BitVec.ofNat 32 (f2i a)),
      (.laneI2f w f, f32 (i2f (getG th f.rs1.toNat).toNat)), (.laneF2f16 w f, code .f16), (.laneF162f w f, value .f16),
      (.laneF2w16 w f, code .w16), (.laneW162f w f, value .w16), (.laneF2e4m3 w f, code .e4m3),
      (.laneE4m32f w f, value .e4m3), (.laneF2e5m2 w f, code .e5m2), (.laneE5m22f w f, value .e5m2),
      (.laneF2i8 w f, code .int8), (.laneI82f w f, value .int8)] →
    laneRuns c w f.pg s k th → goesOn k (th.pc + 1) →
    exec c s = .next (movedTo w k (stepPc (setG th f.rd.toNat v)) s)

/-- A branch or jump goes to the word that is its signed offset from its own when its condition holds, and to the next word when
it does not; it changes nothing else (Table 6.3, R177). Every lane instruction whose guard is false does not execute: with z one that has
a destination clears it, and otherwise it changes nothing but the word index; a store, a branch, a jump, RED and BRK do so whatever z is
(R182). -/
def Obligations.LaneBranchesAndGuards : Prop :=
  (∀ (w : LaneWho) (f : FB) (j : FJ) (s : State) (k : LaneKernel) (th : LaneThread) (c : Instr) (taken : Bool)
       (pg : BitVec 3) (off : Int),
     let x := getG th f.rs1.toNat
     let y := getG th f.rs2.toNat
     (c, taken, pg, off) ∈
       [(Instr.laneBeq w f, decide (x = y), f.pg, f.imm.toInt), (.laneBne w f, decide (x ≠ y), f.pg, f.imm.toInt),
        (.laneBlt w f, decide (x.toInt < y.toInt), f.pg, f.imm.toInt),
        (.laneBge w f, decide (y.toInt ≤ x.toInt), f.pg, f.imm.toInt),
        (.laneBltu w f, decide (x.toNat < y.toNat), f.pg, f.imm.toInt),
        (.laneBgeu w f, decide (y.toNat ≤ x.toNat), f.pg, f.imm.toInt),
        (.laneBp w f, getP th f.rs1.toNat, f.pg, f.imm.toInt), (.laneJ w j, true, j.pg, j.imm.toInt)] →
     laneRuns c w pg s k th →
     (let pc : Nat := if taken then ((th.pc : Int) + off).toNat else th.pc + 1
      goesOn k pc → exec c s = .next (movedTo w k { th with pc := pc } s)))
  ∧ (∀ (w : LaneWho) (f : FR) (g : FI) (u : FU) (b : FB) (j : FJ) (pq : BitVec 3) (s : State) (k : LaneKernel) (th : LaneThread)
         (c : Instr) (pg : BitVec 3) (th' : LaneThread),
       (c, pg, th') ∈
         [(Instr.laneSel w f pq, f.pg, if f.z then setG th f.rd.toNat 0 else th),
          (.laneGetred w f, f.pg, if f.z then setP (setG th f.rd.toNat 0) f.rs2.toNat false else th),
          (.laneBrk w u, u.pg, th), (.laneJ w j, j.pg, th)]
         ++ ([Instr.laneAdd, .laneSub, .laneAnd, .laneOr, .laneXor, .laneSll, .laneSrl, .laneSra, .laneMul, .laneMulhu, .laneMulh,
              .laneMin, .laneMax, .laneMinu, .laneMaxu, .laneDivu, .laneRemu, .laneAddB4, .laneSubB4, .laneAddsB4,
              .laneMinB4, .laneMaxB4, .laneDotB4, .laneAddH2, .laneSubH2, .laneAddsH2, .laneMinH2, .laneMaxH2, .laneMulH2,
              .laneFadd, .laneFsub, .laneFmul, .laneFdiv, .laneFmin, .laneFmax, .laneFsqrt, .laneFexp2, .laneFlog2,
              .laneFneg, .laneFabs, .laneFmac, .laneF2i, .laneI2f, .laneF2f16, .laneF162f, .laneF2w16, .laneW162f,
              .laneF2e4m3, .laneE4m32f, .laneF2e5m2, .laneE5m22f, .laneF2i8, .laneI82f, .laneLdmB, .laneLdmH, .laneLdmW,
              .laneLde].map fun i =>
              (i w f, f.pg, if f.z then setG th f.rd.toNat 0 else th))
         ++ ([Instr.laneAddi, .laneAndi, .laneOri, .laneXori, .laneSlli, .laneSrli, .laneSrai, .laneLdsB, .laneLdsH, .laneLdsW,
              .laneMfsr].map fun i =>
              (i w g, g.pg, if g.z then setG th g.rd.toNat 0 else th))
         ++ ([Instr.laneLui, .laneLli].map fun i => (i w u, u.pg, if u.z then setG th u.rd.toNat 0 else th))
         ++ ([Instr.laneFeq, .laneFlt, .laneFle, .laneFun, .laneEq, .laneNe, .laneLt, .laneLtu, .laneGe, .laneGeu, .lanePlogAnd,
              .lanePlogOr, .lanePlogXor, .lanePlogAndn].map fun i =>
              (i w f, f.pg, if f.z then setP th f.rd.toNat false else th))
         ++ ([Instr.laneStmB, .laneStmH, .laneStmW, .laneSte, .laneLdod, .laneRedFsum, .laneRedFprod, .laneRedFmax, .laneRedFmin,
              .laneRedFargmax, .laneRedFargmin, .laneRedIsum, .laneRedImax, .laneRedImin, .laneEndvl, .laneHalt].map fun i =>
              (i w f, f.pg, th))
         ++ ([Instr.laneStsB, .laneStsH, .laneStsW, .laneSetvl].map fun i => (i w g, g.pg, th))
         ++ ([Instr.laneBeq, .laneBne, .laneBlt, .laneBge, .laneBltu, .laneBgeu, .laneBp].map fun i =>
              (i w b, b.pg, th)) →
       laneNext c w s k th → getP th pg.toNat = false → goesOn k (th.pc + 1) →
       exec c s = .next (movedTo w k (stepPc th') s))

/-- The loads: LDS reads the instance's own store, LDM a range, LDE an element through an operand descriptor, and LDOD the 16
bytes of a descriptor. The bytes come with the instance's own earlier stores over them; a load that leaves the own store waits for
LANE_LOAD_RETURN with its value decided (R168, R173, R183 to R187). A form that a check of R193 stops records its trap. -/
def Obligations.LaneLoads : Prop :=
  ∀ (w : LaneWho) (g : FI) (f : FR) (s t : State) (k : LaneKernel) (th : LaneThread) (bs : List Byte),
    (laneKernel t w.run).isSome = true → goesOn k (th.pc + 1) →
    (∀ (c : Instr) (n : Nat), (c, n) ∈ [(Instr.laneLdsB w g, 1), (.laneLdsH w g, 2), (.laneLdsW w g, 4)] →
      laneRuns c w g.pg s k th →
      ldsFault k (getG th g.rs1.toNat + g.imm.signExtend 32).toNat n false = none →
      laneGet k th (.store k.lislet (getG th g.rs1.toNat + g.imm.signExtend 32).toNat) n s = (t, .data bs) →
      exec c s = .next (movedTo w k (stepPc (setG th g.rd.toNat (wordOf bs))) t))
    ∧ (∀ (c : Instr) (n : Nat) (kr : KRange), (c, n) ∈ [(Instr.laneLdmB w f, 1), (.laneLdmH w f, 2), (.laneLdmW w f, 4)] →
      laneRuns c w f.pg s k th → k.ranges[(getG th f.rs1.toNat).toNat]? = some kr →
      rangeFault s k (getG th f.rs1.toNat).toNat ((getG th f.rs2.toNat).toNat * n) n false true = none →
      laneGet k th (rangeTarget s kr ((getG th f.rs2.toNat).toNat * n)) n s = (t, .data bs) →
      exec c s = .next (movedTo w k
        (if leavesStore k kr.base
          then { setG th f.rd.toNat (wordOf bs) with waiting := some .near }
          else stepPc (setG th f.rd.toNat (wordOf bs))) t))
    ∧ (∀ (d : OpDesc) (kr : KRange), laneRuns (.laneLde w f) w f.pg s k th → k.ods[f.rs1.toNat % 8]? = some (some d) →
      k.ranges[d.range]? = some kr → rangeFault s k d.range (odOffset d th.ei) (odSize d) false (d.fmt == 0) = none →
      laneGet k th (rangeTarget s kr (odOffset d th.ei)) (odSize d) s = (t, .data bs) →
      exec (.laneLde w f) s = .next (movedTo w k
        (if leavesStore k kr.base
          then { setG th f.rd.toNat (ldeWord d (loadScale s kr) bs) with waiting := some .near }
          else stepPc (setG th f.rd.toNat (ldeWord d (loadScale s kr) bs))) t))
    ∧ (∀ (d : OpDesc) (kr : KRange), laneRuns (.laneLdod w f) w f.pg s k th →
      k.ranges[(getG th f.rs1.toNat).toNat]? = some kr →
      rangeFault s k (getG th f.rs1.toNat).toNat ((getG th f.rs2.toNat).toNat * 16) 16 false true = none →
      laneGet k th (rangeTarget s kr ((getG th f.rs2.toNat).toNat * 16)) 16 s = (t, .data bs) → parseOd bs = some d →
      exec (.laneLdod w f) s = .next (movedTo w { k with ods := k.ods.set (f.rd.toNat % 8) (some d) }
        (if leavesStore k kr.base then { th with waiting := some .near }
          else stepPc th) t))
    ∧ (∀ (c : Instr) (n cause : Nat), (c, n) ∈ [(Instr.laneLdsB w g, 1), (.laneLdsH w g, 2), (.laneLdsW w g, 4)] →
      k.loop.isSome = true → laneRuns c w g.pg s k th →
      ldsFault k (getG th g.rs1.toNat + g.imm.signExtend 32).toNat n false = some cause →
      exec c s = .next (movedTo w k { th with trap := some ⟨cause, th.pc, 0⟩ } s))

/-- The stores, STS, STM and STE. In the body of an element loop a store joins the instance's stores, at most 32 of them, and
takes effect when the pass commits (R173, R175); in uniform code it takes effect at once (R174). A 33rd store traps with cause 3.
-/
def Obligations.LaneStores : Prop :=
  ∀ (w : LaneWho) (g : FI) (f : FR) (s : State) (k : LaneKernel) (th : LaneThread) (c : Instr) (pg : BitVec 3)
      (st : LaneStore),
    (c, pg, some st) ∈
      [(Instr.laneStsB w g, g.pg, stsStore k th g 1), (.laneStsH w g, g.pg, stsStore k th g 2),
       (.laneStsW w g, g.pg, stsStore k th g 4), (.laneStmB w f, f.pg, stmStore s k th f 1),
       (.laneStmH w f, f.pg, stmStore s k th f 2), (.laneStmW w f, f.pg, stmStore s k th f 4),
       (.laneSte w f, f.pg, steStore s k th f)] →
    laneRuns c w pg s k th →
    (k.loop.isSome = true → th.stores.length < 32 →
      exec c s = .next (movedTo w k (stepPc { th with stores := th.stores ++ [st] }) s))
    ∧ (k.loop.isSome = true → 32 ≤ th.stores.length →
      exec c s = .next (movedTo w k { th with trap := some ⟨3, th.pc, 0⟩ } s))
    ∧ (k.loop = none → storeVerdict s k st = .served → (laneKernel (commitStore k s st) w.run).isSome = true →
      goesOn k (th.pc + 1) → exec c s = .next (movedTo w k (stepPc th) (commitStore k s st)))

/-- RED contributes g[rs1] to a slot once an iteration, a second time traps with cause 4; GETRED reads a slot's result into rd and
EMPTY into predicate rs2 (R188 to R190). BRK traps with cause 8 and its code, in a body for its iteration and in uniform code at
once; HALT ends the kernel, after which its step has taken effect, or its launch completes as DONE, once its stores are visible;
LANE_LOAD_RETURN lets a waiting instance go on, with the data of a remote access in its register (R168, R174, R192, R197, R273).
-/
def Obligations.LaneReductionsAndEnds : Prop :=
  (∀ (w : LaneWho) (f : FR) (s : State) (k : LaneKernel) (th : LaneThread),
     (∀ c ∈ [Instr.laneRedFsum w f, .laneRedFprod w f, .laneRedFmax w f, .laneRedFmin w f, .laneRedFargmax w f,
         .laneRedFargmin w f, .laneRedIsum w f, .laneRedImax w f, .laneRedImin w f],
       laneRuns c w f.pg s k th → k.loop.isSome = true →
       ((∀ v, (f.rd.toNat % 4, v) ∉ th.reds) →
         exec c s = .next (movedTo w k
           (stepPc { th with reds := th.reds ++ [(f.rd.toNat % 4, getG th f.rs1.toNat)] }) s))
       ∧ ((∃ v, (f.rd.toNat % 4, v) ∈ th.reds) →
         exec c s = .next (movedTo w k { th with trap := some ⟨4, th.pc, 0⟩ } s)))
     ∧ (laneRuns (.laneGetred w f) w f.pg s k th → goesOn k (th.pc + 1) →
       exec (.laneGetred w f) s = .next (movedTo w k (stepPc (setP (setG th f.rd.toNat
         (redResult (k.slots.getD (f.rs1.toNat % 4) {})).1) f.rs2.toNat
         (redResult (k.slots.getD (f.rs1.toNat % 4) {})).2)) s)))
  ∧ (∀ (w : LaneWho) (f : FU) (r : FR) (s : State) (k : LaneKernel) (th : LaneThread),
       (laneRuns (.laneBrk w f) w f.pg s k th →
         exec (.laneBrk w f) s = .next (if k.loop.isSome
           then movedTo w k { th with trap := some ⟨8, th.pc, f.imm.toNat⟩ } s
           else endTrap w.run k eiUniform ⟨8, th.pc, f.imm.toNat⟩ s))
       ∧ (∀ l, w.run = .step l → laneRuns (.laneHalt w r) w r.pg s k th →
         exec (.laneHalt w r) s = .next { s with
           lnc := { s.lnc with steps := assocDel l s.lnc.steps }, ttu := { s.ttu with ran := s.ttu.ran ++ [k.step] } })
       ∧ (∀ q, w.run = .queue q → laneRuns (.laneHalt w r) w r.pg s k th →
         (kernelWrites s k = true → exec (.laneHalt w r) s = .next (movedTo w k th s))
         ∧ (kernelWrites s k = false →
           exec (.laneHalt w r) s = .next (completeLaunch q k.pos k.islet (laneRecord k.pos 0 0 0 0 0) k.irq
             { s with lnc := { s.lnc with free := assocDel q s.lnc.free } })))
       ∧ (∀ (data : List Byte) (rd n a : Nat), laneKernel s w.run = some k → threadAt k w.t = some th → th.trap = none →
         goesOn k (th.pc + 1) →
         (th.waiting = some .near →
           exec (.laneLoadReturn w data false) s = .next (movedTo w k (stepPc { th with waiting := none }) s))
         ∧ (th.waiting = some (.remoteReg rd n a none) →
           exec (.laneLoadReturn w data false) s = .next (movedTo w k (stepPc (setG { th with waiting := none } rd
             (wordOf (overStores th.stores (.phys a) (padTo n data))))) s))))

/-- SETVL sets VL and opens pass 0 of its loop, whose iterations start with the registers of SETVL, or with VL 0 goes on after the
loop; a free-running kernel's SETVL waits until its earlier uniform stores are visible (R174). ENDVL ends an iteration; a pass
whose iterations have ended without a trap takes its stores to memory in element order and opens the next pass or closes the loop
(R170 to R173). -/
def Obligations.LaneLoops : Prop :=
  ∀ (w : LaneWho) (f : FI) (r : FR) (s : State) (k : LaneKernel) (th : LaneThread),
    (laneRuns (.laneSetvl w f) w f.pg s k th → k.queue = true → kernelWrites s k = true → goesOn k th.pc →
      exec (.laneSetvl w f) s = .next (movedTo w k th s))
    ∧ (laneRuns (.laneSetvl w f) w f.pg s k th → (k.queue = true → kernelWrites s k = false) → k.loop = none →
      getG th f.rs1.toNat ≠ 0 →
      ∃ k' lp, exec (.laneSetvl w f) s = .next (setKernel w.run k' s) ∧ k'.loop = some lp
        ∧ k'.vl = (getG th f.rs1.toNat).toNat ∧ k'.code = k.code ∧ k'.ranges = k.ranges ∧ k'.ods = k.ods
        ∧ lp.start = th.pc ∧ lp.pass = 0
        ∧ ∀ t, assoc t lp.threads = if t < min 256 k'.vl
            then some { g := th.g, p := th.p, pc := th.pc + 1, ei := t } else none)
    ∧ (laneRuns (.laneSetvl w f) w f.pg s k th → (k.queue = true → kernelWrites s k = false) → k.loop = none →
      getG th f.rs1.toNat = 0 → goesOn k (loopEnd k.code th.pc + 1) →
      ∃ k', exec (.laneSetvl w f) s = .next (setKernel w.run k' s) ∧ k'.loop = none ∧ k'.vl = 0
        ∧ k'.uni = { th with pc := loopEnd k.code th.pc + 1 })
    ∧ (laneRuns (.laneEndvl w r) w r.pg s k th → k.loop.isSome = true →
      exec (.laneEndvl w r) s = .next (movedTo w k { th with done := true } s))
    ∧ (∀ (lp : LaneLoop) (run : LaneRun), laneKernel s run = some k → k.loop = some lp →
      (isletOf s k.islet).state = .active →
      (let ths := (List.range 256).filterMap fun t => assoc t lp.threads
       let sts := ths.flatMap (·.stores)
       (∀ x ∈ ths, x.done = true ∧ x.trap = none) → (∀ st ∈ sts, storeVerdict s k st = .served) →
       (laneKernel (sts.foldl (commitStore k) s) run).isSome = true → goesOn (nextPass k lp) (nextPass k lp).uni.pc →
       exec (.passCommit run) s = .next (setKernel run (nextPass k lp) (sts.foldl (commitStore k) s))))

/-! ### The crossing clock and the group (R17 to R50, R349, R368) -/

/-- PERIOD_APPLY arms a change on a solo module two ticks ahead and on the lead eight, with the period in the range of R18 and the
window rules kept for the members of its effective tick; a member's is refused; every refusal sets BAD_PERIOD or BAD_WINDOW and
nothing else; PERIOD_CHANGED records 0x0109 (R18, R21, R22). -/
def Obligations.PeriodChanges : Prop :=
  ∀ s : State,
    let p := s.xng.next.toNat
    let a := s.xng.applyAt.toNat
    let n := s.xng.tick.toNat
    let bad := { s with xng := { s.xng with badPeriod := true } }
    (s.xng.role = .solo → 8000 ≤ p → p ≤ 40000000 → n + 2 ≤ a →
      exec .periodApply s = .next { s with xng := { s.xng with armed := some (p, a), period := none } })
    ∧ (s.xng.role = .solo → (p < 8000 ∨ 40000000 < p ∨ a < n + 2) → exec .periodApply s = .next bad)
    ∧ (s.xng.role = .lead → 8000 ≤ p → p ≤ 40000000 → n + 8 ≤ a →
      exec .periodApply s = .next (if windowOk s.xng.window.toNat s.xng.rttMax.toNat p (sizeAt a s)
        then { s with xng := { s.xng with armed := some (p, a), period := some (p, a) } }
        else { s with xng := { s.xng with badWindow := true } }))
    ∧ (s.xng.role = .lead → (p < 8000 ∨ 40000000 < p ∨ a < n + 8) → exec .periodApply s = .next bad)
    ∧ (s.xng.role = .member → exec .periodApply s = .next bad)
    ∧ (s.xng.changed.isSome = true →
      exec .periodChanged s = .next (raise 0x0109 noSubject [] { s with xng := { s.xng with changed := none } }))

/-- The window is written by the lead alone and only where the rules of R37 hold; RING_EN of 1 is ignored with BAD_RING where the
ring does not lie within one pinned MODULE region (R37, R48, Table 1.10). A probe is echoed with the latency of its way, counted
from the aligned ticks; an echo gives the lead its rank's latency, the longer of the two ways, and once every rank of the
measurement has answered, RTT_MAX is twice the longest, from which the formation or the admissions that wait go on (R37, R44,
R349, R368). That the way to or from a module outside the group is counted modulo one period, from cycles within the crossing, is the
model's choice (log entry 56). -/
def Obligations.WindowsAndProbes : Prop :=
  (∀ (s : State) (w : BitVec 26) (v : Bool),
     (s.xng.role = .lead →
       exec (.windowWrite w) s = .next (
         if s.xng.rttMax.toNat + 800 ≤ w.toNat
             ∧ (s.xng.sizeM1.toNat < 64 ∧ 2 * w.toNat ≤ s.xng.current.toNat
               ∨ 64 ≤ s.xng.sizeM1.toNat ∧ 4 * w.toNat ≤ s.xng.current.toNat ∧ 200000 ≤ s.xng.current.toNat)
         then { s with xng := { s.xng with window := w } }
         else { s with xng := { s.xng with badWindow := true } }))
     ∧ (s.xng.role ≠ .lead → exec (.windowWrite w) s = .next s)
     ∧ ((v = true → inPinned s (s.xng.ringBase.toNat * 4096) (16 * 2 ^ (s.xng.ringSize.toNat + 8)) = true) →
       exec (.ringEn v) s = .next { s with xng := { s.xng with ringEn := v } })
     ∧ (inPinned s (s.xng.ringBase.toNat * 4096) (16 * 2 ^ (s.xng.ringSize.toNat + 8)) = false →
       exec (.ringEn true) s = .next { s with xng := { s.xng with badRing := true } }))
  ∧ (∀ (s : State) (rank tick cycles latency : Nat), s.xng.role ≠ .solo →
       (let here : Int := (s.xng.cycle.toNat - s.xng.tickCycle.toNat : Nat) - cycles
        let inside := (here + ((s.xng.tick.toNat : Int) - tick) * s.xng.current.toNat).toNat
        let outside := (here % s.xng.current.toNat).toNat
        (rank = s.xng.rank.toNat → exec (.probe false s.xng.groupId.toNat rank tick cycles latency) s
          = .next (emitProbe true rank (if s.xng.role = .joining then outside else inside) s))
        ∧ (let lat := put 0 rank (max latency (if rank ∈ s.xng.members then inside else outside) + 1) s.xng.latencies
           let s' := { s with xng := { s.xng with latencies := lat } }
           let rtt := BitVec.ofNat 26 (2 * lat.foldl (fun a p => max a (p.2 - 1)) 0)
           let c := Instr.probe true s.xng.groupId.toNat rank tick cycles latency
           (∀ m rest, waiters s .form = m :: rest → exec c s = .next (nameFormation m s'))
           ∧ (waiters s .form = [] → s.xng.role = .lead → (∀ r ∈ probedRanks s, ∃ p ∈ lat, p.1 = r) →
             exec c s = .next ((admissions s).foldl (fun s a => nameJoin a.1 a.2.1 a.2.2 s)
               { s' with xng := { s'.xng with rttMax := rtt } }))
           ∧ (waiters s .form = [] → (s.xng.role ≠ .lead ∨ ∃ r ∈ probedRanks s, ∀ p ∈ lat, p.1 ≠ r) → exec c s = .next s'))))

/-- A member votes once at its cutoff, ready only if all that its index needs had completed before that cycle and it is in step
(R34, R40), on the port that carries its crossing traffic, and where that port is lost its vote goes missing (R43); the lead sums votes, sends its decision once all are in, and at the deadline counts the missing ones; a rank's third
leaves FAULT, and a vote in time resets the rank's count (R35, R39). A decision is for the next tick, ADVANCE where every vote
owed is in and READY and the lead is ready too, with the slack run, the period, the switch and the dissolution that it carries;
one that dissolves carries no entries (R30, R35, R368). The lead of a formation announces it in every decision up to its tick
(R349). A decision for the next tick, received before it, is kept for that tick with the period change and the switch it carries
(R22, R36, R220); two missed in a row are LEAD_LOST and a group fault (R40, R41). -/
def Obligations.VotesAndDecisions : Prop :=
  (∀ s : State, s.xng.running = true → grouped s = true → s.xng.voted = false →
     let at_ := nextTickCycle s - s.xng.window.toNat
     let u := passCycle at_ s
     let ready := readyNow u && !s.xng.outOfStep && (s.ttu.func != .running
       || (!s.ttu.anyDone || decide (s.ttu.lastDone < at_)) && (!s.mem.maint || decide (s.mem.maintAt < at_)))
     let v := { u with xng := { u.xng with voted := true, ready := ready } }
     let vote := txnHead 0x0E (if ready then 1 else 0) 0 16 [(4, 2, s.xng.groupId.toNat), (6, 2, s.xng.rank.toNat),
       (8, 2, (s.xng.tick.toNat + 1) % 65536), (10, 2, s.xng.index.toNat % 65536)]
     let sent := if portCarries s (crossPort s) then sendTxn (crossPort s) 2 vote v else v
     (s.xng.silent = true ∨ s.mode = .failed → exec .cutoff s = .next v)
     ∧ (s.xng.silent = false → s.mode ≠ .failed → s.xng.role ≠ .lead → exec .cutoff s = .next sent)
     ∧ (s.xng.silent = false → s.mode ≠ .failed → s.xng.role = .lead → s.xng.decided = none →
       let w := sent
       exec .cutoff s = .next (if ∀ r ∈ s.xng.members, r ∈ s.xng.votes then sendDecision (formDecision w) w else w)))
  ∧ (∀ s : State,
     let owed := s.xng.members ++ (if s.xng.silent = true ∨ s.mode = .failed then [s.xng.rank.toNat] else [])
     (∀ (tick : Nat) (ready : Bool) (present : BitVec 1024), s.xng.role = .lead →
       tick = (s.xng.tick.toNat + 1) % 65536 → s.xng.decided = none →
       s.xng.cycle.toNat < nextTickCycle s - s.xng.window.toNat / 2 →
       let s' := { s with xng := { s.xng with
         votes := s.xng.votes ++ (List.range 1024).filter fun r => present.getLsbD r && !s.xng.votes.contains r
         votesReady := s.xng.votesReady && ready
         missing := s.xng.missing.filter fun p => !present.getLsbD p.1 } }
       exec (.voteSum s.xng.groupId.toNat tick ready present) s = .next (
         if s.xng.voted = true ∧ ∀ r ∈ owed, r ∈ s'.xng.votes then sendDecision (formDecision s') s' else s'))
     ∧ (s.xng.running = true → s.xng.role = .lead → s.xng.decided = none →
       let s' := countMissing (passCycle (nextTickCycle s - s.xng.window.toNat / 2) s)
       exec .voteDeadline s = .next (
         if ∃ r ∈ owedVotes s', 3 ≤ look 0 s'.xng.missing r then s' else sendDecision (formDecision s') s'))
     ∧ (s.xng.running = true → formingLead s = true →
       let s' := passCycle (nextTickCycle s - s.xng.window.toNat / 2) s
       exec .voteDeadline s = .next (emitDecision (formationDecision s') s'))
     ∧ (s.xng.role = .lead → s.xng.decided = none → (∃ r ∈ owed, 3 ≤ look 0 s.xng.missing r) →
       exec .groupFault s = .next (sendDecision { formDecision s with verdict := .fault } s))
     ∧ (let d := formDecision s
        d.group = s.xng.groupId.toNat ∧ d.tick = s.xng.tick.toNat + 1
        ∧ d.verdict = (if (∀ r ∈ owed, r ∈ s.xng.votes) ∧ s.xng.votesReady = true ∧ s.xng.ready = true then .advance else .slack)
        ∧ (d.verdict = .slack → d.slackRun = s.xng.slackRun.toNat + 1) ∧ (d.verdict = .advance → d.slackRun = 0)
        ∧ (s.ttu.func = .running → d.index = s.xng.index.toNat + if d.verdict = .advance then 1 else 0)
        ∧ d.period = s.xng.period ∧ d.switch = s.xng.switchReq ∧ d.dissolve = s.xng.dissolveAt
        ∧ (s.xng.dissolveAt.isSome = true → d.members = []))
     ∧ (∀ d : Decision, ∃ out, sendDecision d s = { s with
         out := out, zng := (sendDecision d s).zng
         xng := { s.xng with
           decided := some d, stopping := s.xng.stopping || d.stop
           sizeNext := match d.members with
             | [] => s.xng.sizeNext
             | c :: _ => some (c.tick, d.sizeM1) } }))
  ∧ (∀ (s : State) (d : Decision),
       (s.xng.role = .member ∨ s.xng.role = .leaving → d.group = s.xng.groupId.toNat → d.tick = s.xng.tick.toNat + 1 →
         s.xng.cycle.toNat < nextTickCycle s →
         ∃ t, exec (.decision d) s = .next t ∧ t.xng.decision = some d ∧ t.xng.armed = d.period.or s.xng.armed
           ∧ t.xng.switchAt = d.switch.or s.xng.switchAt ∧ t.xng.dissolveAt = d.dissolve.or s.xng.dissolveAt
           ∧ t.xng.sizeNext = (match d.members with
             | [] => s.xng.sizeNext
             | c :: _ => some (c.tick, d.sizeM1))
           ∧ t.xng.tick = s.xng.tick ∧ t.xng.role = s.xng.role ∧ t.log = s.log ∧ t.mem = s.mem)
       ∧ (nextTickCycle s ≤ s.xng.cycle.toNat → exec (.decision d) s = .next s)
       ∧ (grouped s = true → 2 ≤ s.xng.missed →
         exec .leadLost s = .next (groupFaultWith 0x0103 (raise 0x0105 noSubject []
           { s with xng := { s.xng with leadLost := true } }))))

/-- A tick of the running clock (R17, R18, R21, R47, R48): the tick's number and cycle, the period then in force, and one record
more in the elapsed ring where RING_EN is 1; SIZE_M1 of a member takes the announced size at its tick (R349). The overrun fault is
raised once a run, at 65 slack crossings, and stops a solo unit under OVR_STOP (R29, R30); four ticks without a marker are
HOLDOVER, sixteen beyond 64 cycles ALIGN_ERR; a marker moves the next tick by at most one cycle, counted with the fixed latency of
its reception, a free value (R42, R43, log entry 130). A misalignment that lasts is recorded again after sixteen more ticks: the
model's choice (log entry 128). -/
def Obligations.TicksAndClockFaults : Prop :=
  (∀ s : State, s.xng.running = true → ∃ t, exec .tick s = .next t
     ∧ t.xng.tick = BitVec.ofNat 64 (s.xng.tick.toNat + 1)
     ∧ t.xng.tickCycle = BitVec.ofNat 64 ((s.xng.tickCycle.toNat + s.xng.current.toNat : Nat) + s.xng.slew).toNat
     ∧ (t.xng.current = match s.xng.armed with
       | some (p, a) => if a ≤ s.xng.tick.toNat + 1 then BitVec.ofNat 26 p else s.xng.current
       | none => s.xng.current)
     ∧ t.xng.ringWp = (if s.xng.ringEn then s.xng.ringWp + 1 else s.xng.ringWp)
     ∧ (grouped t = true → ∀ k m, s.xng.sizeNext = some (k, m) → k ≤ s.xng.tick.toNat + 1 → t.xng.sizeM1 = BitVec.ofNat 10 m))
  ∧ (∀ s : State,
       (65 ≤ s.xng.slackRun.toNat → s.xng.overrunRaised = false → (grouped s = true → s.xng.missed = 0) →
         let t := eventIrq 0x0101 0 (raise 0x0101 noSubject []
           { s with xng := { s.xng with overrunRaised := true, overrun := true } })
         exec .overrun s = .next (if s.xng.role = .solo ∧ s.xng.ovrStop = true then enterStopping t else t))
       ∧ (s.xng.role ≠ .solo → 4 ≤ s.xng.unmarked → s.xng.holdover = false →
         exec .holdover s = .next (raise 0x010B noSubject [] { s with xng := { s.xng with holdover := true } }))
       ∧ (16 ≤ s.xng.offTicks →
         exec .alignLost s = .next (raise 0x0106 noSubject []
           { s with xng := { s.xng with alignErr := true, offTicks := 0 } }))
       ∧ (∀ bs : List Byte, s.xng.role ≠ .solo → fld bs 0 2 = 0xC35A → fld bs 2 2 = s.xng.groupId.toNat → zeroAt bs 16 12 = true →
         fld bs 28 4 = crc32c (bs.take 28) → 256 ≤ fld bs 12 4 → fld bs 12 4 ≤ s.xng.current.toNat →
         (grouped s = true → fld bs 4 8 = s.xng.tick.toNat + 1) →
         let off : Int := (s.xng.tickCycle.toNat + s.xng.current.toNat : Int)
           - (s.xng.cycle.toNat + fld bs 12 4 + Config.markerLatency)
         ∃ v : Int, exec (.crossingMarker bs) s = .next { s with xng := { s.xng with
             offset := off, unmarked := 0, holdover := false, slew := v } }
           ∧ -1 ≤ v ∧ v ≤ 1 ∧ v * off ≤ 0 ∧ (off ≠ 0 → v ≠ 0)))

/-- Formation sets the tick to zero and the role; a join loads the group's tick and size into the joiner and counts it on the
lead; a leave makes the leaver SOLO and is no longer counted; SIZE_M1 itself changes at the effective tick. A dissolution makes
every member SOLO, with a group fault where the unit is not STOPPED (R33, R44, R45, R349, R368). PERIOD_APPLY of a JOINING or a LEAVING
module is refused with BAD_PERIOD: the model's choice (log entry 124). -/
def Obligations.GroupMembership : Prop :=
  ∀ s : State,
    (∀ k, s.xng.formTick = some k → k ≤ s.xng.tick.toNat →
      ∃ t, exec .groupFormed s = .next t ∧ t.xng.tick = 0 ∧ t.xng.formTick = none
        ∧ t.xng.role = (if s.xng.members = [] then .member else .lead))
    ∧ (∀ (c : MemberChange), dueChange s true c.rank = some c →
      (s.xng.role = .joining → c.rank = s.xng.rank.toNat → 256 ≤ s.xng.onTicks →
        ∃ t, exec (.memberJoined c.rank) s = .next t ∧ t.xng.role = .member ∧ t.xng.tick = BitVec.ofNat 64 c.gtick
          ∧ t.xng.sizeM1 = BitVec.ofNat 10 c.sizeM1)
      ∧ (s.xng.role ≠ .joining → exec (.memberJoined c.rank) s = .next (raise 0x0107 noSubject [] { s with xng := { s.xng with
        joins := dropFirst c s.xng.joins
        members := if s.xng.role = .lead then s.xng.members ++ [c.rank] else s.xng.members } })))
    ∧ (∀ (c : MemberChange), dueChange s false c.rank = some c →
      ∃ t, exec (.memberLeft c.rank) s = .next t ∧ t.xng.tick = s.xng.tick ∧ t.xng.sizeM1 = s.xng.sizeM1
        ∧ (c.rank = s.xng.rank.toNat → t.xng.role = .solo)
        ∧ (c.rank ≠ s.xng.rank.toNat → t.xng.role = s.xng.role
          ∧ t.xng.members = if s.xng.role = .lead then s.xng.members.filter (· != c.rank) else s.xng.members))
    ∧ (s.xng.role = .joining ∨ s.xng.role = .leaving →
      exec .periodApply s = .next { s with xng := { s.xng with badPeriod := true } })
    ∧ (∀ k, s.xng.dissolveAt = some k → k ≤ s.xng.tick.toNat →
      ∃ t, exec (.dissolve s.xng.groupId.toNat) s = .next t ∧ t.xng.role = .solo
        ∧ (s.ttu.func ≠ .stopped → t.xng.groupFault = true))
    ∧ (∀ rank, s.xng.role = .lead → rank ∈ s.xng.members → (∀ c ∈ s.xng.joins, c.join = true ∨ c.rank ≠ rank) →
      s.xng.tick.toNat + 8 ≤ changeTick s
        ∧ exec (.leaveRequestReceived s.xng.groupId.toNat rank) s = .next { s with xng := { s.xng with
          joins := s.xng.joins ++ [{ join := false, rank := rank, tick := changeTick s
                                     peer := Config.memberPeer s.xng.groupId.toNat rank % 2 ^ 32 }] } })

/-! ### The timetable unit and its steps (R58 to R92, R200 to R220) -/

/-- A MOVE that may execute reads its rows, and then writes them in turn: a raw row's bytes unchanged at the destination's row, and of a
converting one the encoded values of the row, an odd last element of four bits leaving the other nibble of its byte as it is; what a
tensor takes counts in its statistics. A row that met poison writes nothing and stops the unit; a row lost to a store error leaves the
step to its replay (R66, R157, R388). The MMA modes write the tile and its status (FULL, FINAL) or an accumulator block (PARTIAL, COMBINE) to the store and
nothing else, unless a residue mismatch fences the islet or a tag check fails and stops the unit (R67, R68, R127, R134); that a step whose
tag check fails counts as run is the model's choice (log entry 25). -/
def Obligations.StepMovesAndMatrixModes : Prop :=
  (∀ (k : Nat) (s s1 : State) (sl : ImgSlot) (i : Image) (st : StepEnt) (m : MoveOp) (got : Option (List (List Byte))) (poison : Bool),
     stepReady k s = some (sl, i, st) → st.op = .move m →
     readRows (fun off s => readPlace sl i st.lislet m.src off m.rowBytes s) m.rows m.srcStride s = (s1, got, poison) →
     (got = none → exec (.move k) s = .next s1)
     ∧ (got ≠ none → poison = true → exec (.move k) s = .next (poisonStop (ranStep k s1)))
     ∧ (∀ rows, got = some rows → poison = false → m.srcFmt = 0 → m.dst.space = 0 →
         exec (.move k) s = .next (ranStep k
           (rows.zipIdx.foldl (fun s p => writeStore st.lislet (m.dst.addr + p.2 * m.dstStride) p.1 s) s1)))
     ∧ (∀ rows, got = some rows → poison = false → s1.isl.flips = [] →
         ∃ t, exec (.move k) s = .next t ∧ t.ttu.ran = s.ttu.ran ++ [k] ∧ t.ttu.done = s.ttu.done
           ∧ t.xng = s.xng ∧ t.flash = s.flash)
     ∧ (∀ rows, got = some rows → poison = false →
         let srcS : Int := if m.src.space = 2 then (i.tensors[m.src.addr]?).elim 0 fun te => scaleNow s1 sl m.src.addr te else 0
         let dstS : Int := if m.dst.space = 2
           then (i.tensors[m.dst.addr]?).elim 0 fun te => writeScale s1 sl i (openCrossing s1 i) m.dst.addr te else 0
         exec (.move k) s = .next (ranStep k
           (rows.zipIdx.foldl (fun u p => moveRow sl i st.lislet s1.ttu.runIdx m srcS dstS p.2 p.1 u) s1))))
  ∧ (∀ (sl : ImgSlot) (i : Image) (l index r : Nat) (m : MoveOp) (srcS dstS : Int) (src : List Byte) (u : State),
     let off := r * m.dstStride
     let at_ := m.dst.offset + off
     let sf := (fmtOfCode m.srcFmt).getD .raw
     let df := (fmtOfCode m.dstFmt).getD .raw
     let db := moveBlock i m m.dst
     let xs := decodeRow sf (moveBlock i m m.src) srcS src
     let modes := (List.range xs.length).map fun e => moveRounding sl i l m df db off index e sl.seed
     let bs := (encodeRow df db dstS modes xs fun _ => true).1
     let half := fld bs (bs.length - 1) 1 % 16
     let row := moveRow sl i l index m srcS dstS r src u
     (m.srcFmt = 0 → m.dst.space ≠ 2 → row = writePlace sl i l m.dst off src u)
     ∧ (m.srcFmt = 0 → m.dst.space = 2 →
         row = noteCopy m.dst.addr at_ src.length (writePlace sl i l m.dst off src (overCopies m.dst.addr at_ src.length u)))
     ∧ (m.srcFmt ≠ 0 → (fmtBits df = 4 → fmtIsBlock df = true ∨ xs.length % 2 = 0) →
         (m.dst.space ≠ 2 → row = writePlace sl i l m.dst off bs u)
         ∧ (m.dst.space = 2 → ∃ stats, row = addTensorStats m.dst.addr stats
             (writePlace sl i l m.dst off bs (overCopies m.dst.addr at_ bs.length u))))
     ∧ (∀ (v : State) (old : List Byte) (q : Bool), m.srcFmt ≠ 0 → fmtBits df = 4 → fmtIsBlock df = false → xs.length % 2 = 1 →
         readPlace sl i l m.dst (off + bs.length - 1) 1 u = (v, some old, q) → m.dst.space ≠ 2 →
         row = writePlace sl i l m.dst off (patch bs (bs.length - 1) [BitVec.ofNat 8 (half + leNat old / 16 * 16)]) u))
  ∧ (∀ (k : Nat) (s : State) (sl : ImgSlot) (i : Image) (st : StepEnt) (m : MmaOp) (upset : Option Upset),
       stepReady k s = some (sl, i, st) → st.op = .mma m →
       (∀ (s1 : State) (p : Partial), readOperands st.lislet m upset s = (s1, some p) →
         (m.mode = 0 → exec (.mmaFull k upset) s = .next (
           if p.bad then fence (physOf s1 st.lislet) 1 0x0302 s1 else ranStep k (writeTile k sl st.lislet m p s1)))
         ∧ (m.mode = 1 → exec (.mmaPartial k upset) s = .next (
           if p.bad then fence (physOf s1 st.lislet) 1 0x0302 s1
           else ranStep k (writeStore st.lislet m.accAddr (accBlock m.chunkFirst m.chunkCount (mmaTotal m) p) s1))))
       ∧ (∀ (s1 s2 : State) (a b : List Byte) (q r : Bool) (f1 c1 t1 f2 c2 t2 : Nat) (p1 p2 : Partial), m.mode = 2 →
         readStore st.lislet m.accAddr accBytes s = (s1, some a, q) →
         readStore st.lislet m.acc2Addr accBytes s1 = (s2, some b, r) →
         parseAcc a = (f1, c1, t1, p1) → parseAcc b = (f2, c2, t2, p2) →
         exec (.mmaCombine k) s = .next (
           if combineOk f1 c1 t1 f2 c2 t2 then
             ranStep k (writeStore st.lislet m.cAddr (accBlock f1 (c1 + c2) t1 (combine p1 p2)) s2)
           else stopAtTick (raise 0x0206 noSubject [] (ranStep k s2))))
       ∧ (∀ (s1 : State) (a : List Byte) (q : Bool) (f c t : Nat) (p : Partial), m.mode = 3 →
         readStore st.lislet m.accAddr accBytes s = (s1, some a, q) → parseAcc a = (f, c, t, p) →
         exec (.mmaFinal k) s = .next (
           if f = 0 ∧ c = t then ranStep k (writeTile k sl st.lislet m p s1)
           else stopAtTick (raise 0x0206 noSubject [] (ranStep k s1)))))

/-- A KERNEL step puts its kernel on the lane engine of its logical islet, with the step's ranges, its registers zero but for g1
to g8, which hold the arguments, and nothing else changes (R69, R176). An exchange whose parts are all there takes effect on DST
and counts as run: ALLREDUCE and REDUCE_SCATTER give DST the encoded reduction of every rank's element, in rank order, ALLGATHER the
parts in rank order, BROADCAST the root's elements; one that meets poison writes nothing (R70, R388). SNAP SHIP captures a
snapshot of its staging region, numbered by the indices that have shipped into it, once the staging bytes hold no earlier snapshot
that is still to be read (the model's reading, log entry 118); SNAP POLICY writes each group of rows, encoded, to the staging region and to
the store of its logical islet, and then its report of 64 bytes; either counts as run, and one that meets poison stops the unit at the
next tick (R71, R210, R213 to R215, R388). -/
def Obligations.StepKernelsExchangesSnaps : Prop :=
  (∀ (k : Nat) (s : State) (sl : ImgSlot) (i : Image) (st : StepEnt) (o : KernelOp),
     stepReady k s = some (sl, i, st) → st.op = .kernel o → o.args.length = 8 →
     ∃ kl, exec (.kernel k) s = .next { s with lnc := { s.lnc with steps := s.lnc.steps ++ [(st.lislet, kl)] } }
       ∧ kl.code = (i.kernels[o.kernel]?).elim [] (·.code) ∧ kl.ranges = kernelRanges i st.lislet o ∧ kl.step = k
       ∧ kl.islet = physOf s st.lislet ∧ kl.loop = none ∧ kl.uni.pc = 0 ∧ kl.queue = false
       ∧ (∀ j < 8, getG kl.uni (j + 1) = BitVec.ofNat 32 (o.args.getD j 0))
       ∧ (∀ j, 9 ≤ j → j < 32 → getG kl.uni j = 0) ∧ (∀ j, 1 ≤ j → j < 8 → getP kl.uni j = false))
  ∧ (∀ (k : Nat) (s : State) (sl : ImgSlot) (i : Image) (st : StepEnt) (x : ExchOp) (ts td : TensorEnt)
         (others : List (Nat × Int × List Byte)),
       stepReady k s = some (sl, i, st) → st.op = .exch x → i.tensors[x.src]? = some ts → i.tensors[x.dst]? = some td →
       s.ttu.replay = false →
       let own := if i.ranks = 1 then 0 else s.xng.rank.toNat
       let sa := x.srcOffset + (if x.op = 1 then own * x.elems else 0)
       let first := readElems sl ts x.srcOffset (x.elems * (if x.op = 1 then i.ranks else 1)) s
       let second := readElems sl ts sa x.elems first.1
       let c := if x.op = 0 then Instr.allreduce k others else if x.op = 1 then .reduceScatter k others
         else if x.op = 2 then .allgather k others else .broadcast k others
       x.op ≤ 3 →
       (first.2.2 = true → exec c s = .next (ranPoisoned k first.1))
       ∧ (first.2.2 = false → x.op ≤ 2 → (∀ r < i.ranks, r ≠ own → (assoc r others).isSome = true) →
           ∃ t, exec c s = .next t ∧ t.ttu.ran = s.ttu.ran ++ [k] ∧ t.ttu.done = s.ttu.done ∧ t.flash = s.flash)
       ∧ (first.2.2 = false → (∀ r < i.ranks, r ≠ own → (assoc r others).isSome = true) →
           let u := second.1
           let parts : List (Int × List Byte) := (List.range i.ranks).map fun r =>
             if r = own then (scaleNow s sl x.src ts, second.2.1) else (assoc r others).getD (0, [])
           let whole (p : List Byte) : List Byte := padTo second.2.1.length p
           (x.op = 2 → exec c s = .next (finishExch k sl i x td (x.elems * i.ranks)
             (copiedElems sl ts td x sa (x.elems * i.ranks) (parts.map fun p => whole p.2) u)
             (fun v => elemStats sl td (scaleNow v sl x.dst td) x.dstOffset (x.elems * i.ranks) v) u))
           ∧ (x.op ≤ 1 →
             let f := tensorFmt td
             let vals := parts.map fun p => (codesOf ts sa x.elems (whole p.2)).map fun z => scaleNum p.1 (decodeElem f z)
             let outs := (List.range x.elems).map fun e => reduceRanks x.redop (vals.map fun v => v.getD e .nan)
             let dS := writeScale u sl i (openCrossing u i) x.dst td
             let enc := outs.map fun v => (v, encodeElem f .rne (scaleNum (-dS) v))
             exec c s = .next (finishExch k sl i x td x.elems
               (overCodes td x.dstOffset x.elems (peekElems sl td x.dstOffset x.elems u) (enc.map (·.2.1)))
               (fun _ => enc.foldl (fun st p => countElem st p.1 p.2.2) {}) u)))
       ∧ (first.2.2 = false → x.op = 3 → ∀ bs,
           (own = x.root ∧ bs = second.2.1 ∨ own ≠ x.root ∧ ∃ e, assoc x.root others = some (e, bs)) →
           exec c s = .next (finishExch k sl i x td x.elems
             (copiedElems sl ts td x sa x.elems [padTo second.2.1.length bs] second.1)
             (fun u => elemStats sl td (scaleNow u sl x.dst td) x.dstOffset x.elems u) second.1)))
  ∧ (∀ (k : Nat) (s : State) (sl : ImgSlot) (i : Image) (st : StepEnt) (o : SnapOp),
       stepReady k s = some (sl, i, st) → st.op = .snap o →
       let n := (snapOffsets (snapDataOff ((rangesAt i o.rangeFirst o.rangeCount).getD []).length)
         ((rangesAt i o.rangeFirst o.rangeCount).getD [])).2
       (o.mode = 0 → snapBusy (regionBase sl o.staging) n s = true → exec (.snapShip k) s = .next s)
       ∧ (o.mode = 0 → snapBusy (regionBase sl o.staging) n s = false →
         ∃ t, exec (.snapShip k) s = .next t ∧ t.ttu.ran = s.ttu.ran ++ [k] ∧ t.ttu.done = s.ttu.done
           ∧ (t.ttu.stopNext = false → ∃ snap ∈ t.ttu.captured, snap.slot = s.ttu.active ∧ snap.region = o.staging
             ∧ snap.stage = regionBase sl o.staging ∧ snap.index = s.ttu.runIdx
             ∧ snap.seq = countIndices i (shipsInto i o.staging) s.ttu.runIdx))
       ∧ (o.mode = 1 → s.isl.flips = [] → ∃ t, exec (.snapPolicy k) s = .next t ∧ t.ttu.ran = s.ttu.ran ++ [k] ∧ t.ttu.done = s.ttu.done)
       ∧ (∀ (s1 : State) (outs : List (PolicyGroup × List Byte × Nat × Nat × Nat)) (poison : Bool), o.mode = 1 →
         (policyGroups i o ((rangesAt i o.rangeFirst o.rangeCount).getD []) 0 4096 []).foldl
           (fun (acc : State × List (PolicyGroup × List Byte × Nat × Nat × Nat) × Bool) g =>
             let r := policyGroup sl i (blockElems o.block) g acc.1
             (r.1, acc.2.1 ++ [(g, r.2.1)], acc.2.2 || r.2.2)) (s, [], false) = (s1, outs, poison) →
         (poison = true → exec (.snapPolicy k) s = .next (ranPoisoned k s1))
         ∧ (poison = false → ∃ report : List Byte, report.length = 64 ∧ exec (.snapPolicy k) s = .next (ranStep k
             (writeMem whoSnap (regionBase sl o.staging) report (outs.foldl (fun u g => writeStore g.1.lislet g.1.addr g.2.1
               (writeMem whoSnap (regionBase sl o.staging + g.1.stage) g.2.1 u)) s1))))))

/-- A step that has run registers its completion in its cycle, unless its kernel still runs, an islet fault is outstanding or it
is registered already; in RUNNING what waited for it goes on. A completion dated at the next tick or later waits for the crossing
that the tick opens (R19, R20, R58). In STOPPING, once every step that ran has completed the unit is STOPPED (R30); that a step of the
open crossing may take its effect until then is the model's reading (log entry 12). -/
def Obligations.StepCompletions : Prop :=
  (∀ (k cycles : Nat) (s : State),
     let at_ := s.xng.tickCycle.toNat + cycles
     let u := passCycle at_ s
     let v := { u with ttu := { u.ttu with done := u.ttu.done ++ [k], anyDone := true, lastDone := u.xng.cycle.toNat } }
     ((s.xng.running = true → at_ < nextTickCycle s) →
       (k ∈ s.ttu.ran → k ∉ s.ttu.done → (∀ e ∈ s.lnc.steps, e.2.step ≠ k) → s.isl.faulted = [] →
         (s.ttu.func = .running → exec (.stepCompletion k cycles) s = .next (settleReplay (goOn (goFuel v) v)))
         ∧ (s.ttu.func ≠ .running → exec (.stepCompletion k cycles) s = .next v))
       ∧ ((k ∉ s.ttu.ran ∨ k ∈ s.ttu.done) → s.ttu.func ≠ .running → exec (.stepCompletion k cycles) s = .next u))
     ∧ (s.xng.running = true → nextTickCycle s ≤ at_ → k ∈ s.ttu.ran → k ∉ s.ttu.done →
       exec (.stepCompletion k cycles) s = .next { s with ttu := { s.ttu with ahead := s.ttu.ahead ++ [(k, at_)] } })
     ∧ u.ttu = s.ttu ∧ u.mem = s.mem ∧ u.isl = s.isl ∧ u.lnc = s.lnc)
  ∧ (∀ s : State,
     (s.ttu.func = .stopping → s.lnc.steps = [] → (∀ j ∈ s.ttu.ran, j ∈ s.ttu.done) →
       ∃ t, exec .timetableStopped s = .next (raise 0x0204 noSubject [] t) ∧ t = becomeStopped (lastRecords s)
         ∧ t.ttu.func = .stopped ∧ t.ttu.opened = false ∧ t.ttu.ran = [] ∧ t.xng.ttRunning = false ∧ t.xng.index = s.xng.index
         ∧ t.xng.tick = s.xng.tick)
     ∧ (s.ttu.func ≠ .stopping → exec .timetableStopped s = .next s))

/-- TT_LOAD admits its image with OK or rejects it with the code and entry of its first failed check; a load into the active slot
of a unit not STOPPED, or into the shadow slot of a pending switch, answers STATE (R82, R83). TT_START of an admitted image leaves
STOPPED for STARTING, once its checks hold in their order; TT_SWITCH of an admitted shadow image becomes pending, applied by a
lead's group from eight indices on (R84, R217, R220, R403). What a failed GROUP check leaves as it was, and the rank count of a module
outside a group, are the model's choices (log entries 144, 57 and 58). -/
def Obligations.TimetableLoadsStartsSwitches : Prop :=
  (∀ (m : Nat) (s s' : State) (x : Mailbox), Entered 0x20 m s x s' →
     let shadow := mbArg x 0 == 1
     let b := s'.ttu.active != shadow
     let s1 := { s' with ttu := { s'.ttu with resumable := s'.ttu.resumable && !shadow } }
     let res := admitImage (mbArg x 3) (mbArg x 1) (mbArg x 2) (bindingBases (mbPayload x))
       (slotCode (if b then s1.ttu.slotA else s1.ttu.slotB)) s1
     let refused := (shadow = false ∧ s'.ttu.func ≠ .stopped) ∨ (shadow = true ∧ s'.ttu.pending.isSome = true)
     (refused → exec (.ttLoad m) s = .next (finish m stState s'))
     ∧ (¬ refused → ∀ code entry, res.2 = .error (code, entry) →
       exec (.ttLoad m) s = .next (complete m (rejectStatus code) [code + entry * 2 ^ 32] [] (rejectLoad b code entry res.1)))
     ∧ (¬ refused → ∀ i, res.2 = .ok i →
       exec (.ttLoad m) s = .next (complete m stOk [0] []
         (admitLoad b (mbArg x 3) (mbArg x 1) (mbArg x 2) (bindingBases (mbPayload x)) i res.1))))
  ∧ (∀ (m : Nat) (s s' : State) (x : Mailbox) (agree : Bool) (i : Image),
       (Entered 0x21 m s x s' → (actSlot s').state = .admitted → (actSlot s').image = some i →
         s'.ttu.func = .stopped → s'.hlt.standby = none → stepBaseBad i (mbArg x 1) = false →
         (i.ranks ≠ rankCount s' →
           exec (.ttStart m agree) s = .next (finish m stState (raise 0x0208 noSubject [] s')))
         ∧ (i.ranks = rankCount s' → (1 < i.ranks → s'.hbr.exchange = .running) →
           (grouped s' = true → agree = true) →
           exec (.ttStart m agree) s = .next (await m (.start 0)
             (beginStart none (setSlot s'.ttu.active (freshRun (mbArg x 0) (mbArg x 1) (actSlot s')) s'))))
         ∧ (i.ranks = rankCount s' → (1 < i.ranks → s'.hbr.exchange = .running) → grouped s' = true → agree = false →
           exec (.ttStart m agree) s = .next (finish m stIntegrity (raise 0x0208 noSubject [] s'))))
       ∧ (Entered 0x22 m s x s' → (shadowSlot s').state = .admitted → (shadowSlot s').image = some i →
         s'.ttu.pending = none → (mbArg x 0 = 1 → s'.ttu.resumable = true) →
         (mbArg x 0 ≠ 1 → stepBaseBad i (mbArg x 2) = false) →
         exec (.ttSwitch m) s = .next (finish m stOk (if s'.xng.role = .lead then
             { s' with
               ttu := { s'.ttu with pending := some ⟨mbArg x 0 == 1, mbArg x 1, mbArg x 2, s'.xng.index.toNat + 8⟩ }
               xng := { s'.xng with switchReq := some (s'.xng.index.toNat + 8), switchAt := some (s'.xng.index.toNat + 8) } }
           else { s' with
             ttu := { s'.ttu with pending := some ⟨mbArg x 0 == 1, mbArg x 1, mbArg x 2, s'.xng.switchAt.getD 0⟩ } }))))

/-- A cursor is posted while the unit runs, with a tag above every tag in the table, which holds 16; its status says why not. Its
two paths, TTU_CURSOR_POST and TT_CURSOR, do the same (R207, Table 7.10). TT_SHIP_TARGET takes a range of a host region that the
image's context holds for a STAGING region of the active image, in place of its earlier target; a released snapshot then starts
shipping to its target, where its data goes first, at its own offset, and fails with 0x020B where it has no target or does not fit (R212).
-/
def Obligations.CursorsAndShipments : Prop :=
  (∀ (s : State),
     let sl := actSlot s
     let status (tag : Nat) : Nat :=
       if s.ttu.func ≠ .running then 3
       else if 2 ^ 40 ≤ tag ∨ (∃ c ∈ sl.cursors, tag ≤ c.tag) then 1
       else if 16 ≤ sl.cursors.length then 2 else 0
     let posted (tag : Nat) (data : List Byte) (u : State) : State :=
       let u1 := { u with ttu := { u.ttu with postStatus := BitVec.ofNat 2 (status tag) } }
       if status tag = 0 then setSlot s.ttu.active { sl with cursors := sl.cursors ++ [⟨tag, data⟩] } u1 else u1
     (∀ tag : BitVec 40, exec (.ttuCursorPost tag) s =
       .next (posted tag.toNat (s.ttu.cursorData.flatMap fun w => toLE 8 w.toNat) s))
     ∧ ∀ (m : Nat) (x : Mailbox) (s' : State), Entered 0x23 m s x s' →
       exec (.ttCursor m) s = .next (complete m stOk [status (mbArg x 0)] [] (posted (mbArg x 0) (mbPayload x) s')))
  ∧ (∀ (s : State),
       (∀ (m : Nat) (x : Mailbox) (s' : State) (i : Image) (e : RegionEnt), Entered 0x24 m s x s' →
         (actSlot s').image = some i → i.regions[mbArg x 0]? = some e →
         exec (.ttShipTarget m) s = .next (
           if e.kind ≠ 3 then finish m stBadArg s'
           else if hostHeld s' (actSlot s').context (mbArg x 1) (mbArg x 2) then
             finish m stOk { s' with ttu := { s'.ttu with
               targets := s'.ttu.targets.filter (fun t => t.slot != s'.ttu.active || t.region != mbArg x 0)
                 ++ [⟨s'.ttu.active, mbArg x 0, mbArg x 1, mbArg x 2⟩] } }
           else finish m stDenied s'))
       ∧ (∀ (c : Snapshot) (rest : List Snapshot), s.ttu.shipping = none → s.ttu.released = c :: rest →
         let u := { s with ttu := { s.ttu with released := rest, shipRegion := BitVec.ofNat 8 c.region } }
         (∀ t, shipTarget s c.slot c.region = some t → c.total ≤ t.bytes →
           (∃ v, exec .shipmentStart s = .next v ∧ v.ttu.released = rest ∧ v.ttu.shipRegion = BitVec.ofNat 8 c.region)
           ∧ ∀ (v : State) (data : List Byte) (q : Bool),
             readMem whoSnap (c.stage + c.dataOff) (c.total - c.dataOff) u = (v, data, q) →
             exec .shipmentStart s = .next (advanceShip (hostWrite (t.base + c.dataOff) data (.ship false)
               { v with ttu := { v.ttu with shipping := some { snap := c, target := some (t.base, t.bytes), manifest := false } } })))
         ∧ ((∀ t, shipTarget s c.slot c.region = some t → t.bytes < c.total) →
           exec .shipmentStart s = .next (raise 0x020B noSubject []
             (dropShip { u with ttu := { u.ttu with shipping := none, shipErr := true } })))))

/-! ### Islets and their free-running queues (R139 to R166, R195 to R197) -/

/-- A parity error, a ferry's or a lane core's internal error on an ACTIVE or SPARE islet fences it with its cause, leaves every
store and every other islet as it was, ends the steps that it had not completed, and is nothing on an islet that is fenced or
absent (R161, R194, Table 5.12). The scrubber reads a row of 32 bytes of a store: a word with one flipped bit is corrected,
counted in CE_COUNT and recorded as 0x0403; one with two is uncorrectable and fences the islet with 0x0404 and cause 2 (R144,
R146, R147). -/
def Obligations.IsletFaultsAndScrubbing : Prop :=
  (∀ (n : Nat) (s : State) (c : Instr) (cause : BitVec 4),
     (c, cause) ∈ [(Instr.isletParity n, 3#4), (.ferryInternal n, 5#4), (.laneInternal n, 5#4)] →
     ((isletOf s n).state = .active ∨ (isletOf s n).state = .spare →
       ∃ t, exec c s = .next t ∧ isletOf t n = { isletOf s n with state := .fenced, cause := cause }
         ∧ (∀ m, m ≠ n → isletOf t m = isletOf s m) ∧ t.isl.store = s.isl.store ∧ t.isl.slots = s.isl.slots
         ∧ t.isl.faulted = (if (isletOf s n).state = .active then s.isl.faulted ++ [n] else s.isl.faulted)
         ∧ t.mem = s.mem ∧ t.xng = s.xng
         ∧ t.ttu = { s.ttu with ran := s.ttu.ran.filter fun k => s.ttu.done.contains k || !stepOn s n k })
     ∧ ((isletOf s n).state ≠ .active → (isletOf s n).state ≠ .spare → exec c s = .next s))
  ∧ (∀ (n row : Nat) (s : State), s.isl.scrubEn = true → (isletOf s n).state = .active ∨ (isletOf s n).state = .spare →
       row < 2 ^ 17 →
       (s.isl.flips = [] → exec (.storeScrub n row) s = .next s)
       ∧ (∀ j < 8, ∀ i < 39, s.isl.flips = [(n * 2 ^ 20 + (8 * row + j), 2 ^ i)] →
         ∃ t u, exec (.storeScrub n row) s = .next t ∧ t = raise 0x0403 n [] u ∧ t.isl.flips = []
           ∧ (isletOf t n).state = (isletOf s n).state ∧ (isletOf t n).cause = (isletOf s n).cause
           ∧ (isletOf t n).ceCount.toNat = min 0xFFFFFFFF ((isletOf s n).ceCount.toNat + 1)
           ∧ t.isl.eccLast = ⟨BitVec.ofNat 10 n, false, BitVec.ofNat 7 (syndrome (2 ^ i)), BitVec.ofNat 22 (4 * (8 * row + j))⟩)
       ∧ (∀ j < 8, ∀ i < 39, ∀ i' < i, s.isl.flips = [(n * 2 ^ 20 + (8 * row + j), 2 ^ i + 2 ^ i')] →
         exec (.storeScrub n row) s = .next (fence n 2 0x0404
           (islEccLast n true (syndrome (2 ^ i + 2 ^ i')) (4 * (8 * row + j)) s))))

/-- A doorbell of a ferry or launch queue moves TAIL, or sets ERR where it would hold more than the ring's entries; QCFG starts
and stops a queue, CONTEXT and SIZE fixed while ENABLE is 1 (R160, R197, Tables 5.15 and 6.13). That a write of ENABLE 1 to a busy queue
takes IRQ_EN and STOP_ON_ERR and no more is the model's reading of its being ignored (log entry 48), and that one to a queue that an error
has stopped runs it again is the model's choice (log entry 162). -/
def Obligations.FreeQueueRegisters : Prop :=
  ∀ (s : State) (q : Nat) (v : Word32) (w : Word64),
    let f := fryQ s q
    let l := lncQ s q
    let rung (x : Queue) : Queue := if (v - x.head).toNat ≤ 2 ^ (x.size.toNat + 4) then { x with tail := v } else { x with err := true }
    let ctl (x : Queue) : Queue := { x with irqEn := w.getLsbD 2, stopOnErr := w.getLsbD 1 }
    let taken (x : Queue) : Queue :=
      { ctl x with context := w.extractLsb' 32 16, size := w.extractLsb' 16 4, enable := true, stopped := false, drain := false }
    (q < 256 → exec (.fryQtail q v) s = .next (setFryQ q (rung f) s))
    ∧ (q < 64 → exec (.lncQtail q v) s = .next (setLncQ q (rung l) s))
    ∧ (q < 256 → f.inProgress = [] → f.finished = [] → f.drain = false →
      exec (.fryQcfgEnable q w) s = .next (setFryQ q (if f.enable then { ctl f with stopped := false } else taken f) s))
    ∧ (q < 256 → (f.inProgress ≠ [] ∨ f.finished ≠ [] ∨ f.drain = true) →
      exec (.fryQcfgEnable q w) s = .next (setFryQ q (ctl f) s))
    ∧ (q < 64 → lncBusy s q = true → exec (.lncQcfgEnable q w) s = .next (setLncQ q (ctl l) s))
    ∧ (q < 64 → (assoc q s.lnc.free) = none → (assoc q s.lnc.suspended) = none → l.drain = false → l.finished = [] →
      exec (.lncQcfgEnable q w) s = .next (setLncQ q (if l.enable then { ctl l with stopped := false } else taken l) s))
    ∧ (q < 256 → f.enable = true → (f.inProgress ≠ [] ∨ f.finished ≠ []) →
      exec (.fryQcfgDisable q w) s = .next (setFryQ q { ctl f with enable := false, drain := true } s))
    ∧ (q < 256 → f.enable = true → f.inProgress = [] → f.finished = [] → f.tail = f.head →
      exec (.fryQcfgDisable q w) s = .next (setFryQ q { ctl f with enable := false, drain := false, stopped := false }
        (setFryQ q { ctl f with enable := false, drain := true } s)))
    ∧ (q < 64 → l.enable = true → l.finished = [] → (assoc q s.lnc.free).isSome = true →
      ∃ t, exec (.lncQcfgDisable q w) s = .next t ∧ lncQ t q = { ctl l with enable := false, drain := true }
        ∧ t.fry = s.fry ∧ t.mem = s.mem ∧ t.log = s.log)
    ∧ (q < 64 → l.enable = true → l.finished = [] → (assoc q s.lnc.free) = none → (assoc q s.lnc.suspended) = none →
      l.tail = l.head → exec (.lncQcfgDisable q w) s = .next (setLncQ q { ctl l with enable := false, drain := false, stopped := false }
        (setLncQ q { ctl l with enable := false, drain := true } s)))

/-- FERRY_DESCRIPTOR reads the next descriptor of a queue that may start one, with the queue's CONTEXT, and its checks are judged
in their order: SEQ, layout, ranges, pages; one that passes is in progress, one that fails is finished with its status, and one
that meets an absent page faults (R158, R159, R254, R271). A started COPY, CONVERT or FILL whose sources can be read moves its
bytes, and its record waits with status 0, or 5 where poison was met; the command of another opcode moves nothing (R158 to R160).
FERRY_COMPLETION writes the record of the queue's oldest descriptor and, once it is visible, advances HEAD by one, with an event,
a stop and an interrupt as the status and QCFG ask; LOCK_PAGES then sets a start's locks, or the GROUP check fails (R84, R159,
R160, R268). What a refused read of a descriptor ends in, and the order SEQ, fields, ranges, are the model's choices (log entries
134, 47). -/
def Obligations.FreeRunningFerries : Prop :=
  (∀ (q islet : Nat) (s s1 : State), ferryMay s q islet = true →
     let x := fryQ s q
     let c := x.context.toNat
     let pos := nextPos x
     let read := ownRead (.ferry q pos) c (whoFerry islet) (descAddr x pos) 64 s
     (read = (s1, .bound) → exec (.ferryDescriptor q islet) s = .next (finishFerry q pos islet 1 0 false s1))
     ∧ (∀ page lock, read = (s1, .denied page lock) → exec (.ferryDescriptor q islet) s =
         .next (finishFerry q pos islet 2 0 false (refusePage c (max (descAddr x pos) (page * 2 ^ 21)) lock s1)))
     ∧ (∀ page, read = (s1, .fault page) → exec (.ferryDescriptor q islet) s = .next (workFault (workFerry q) c page s1))
     ∧ (∀ d p, read = (s1, .data d p) →
       let s2 := setBuf (.ferry q pos) none s1
       let y := fryQ s2 q
       let irq := (fld d 1 1).testBit 0
       let v := rangesVerdict s2 y.context.toNat (ferryRanges d)
       (fld d 6 2 ≠ pos % 65536 → exec (.ferryDescriptor q islet) s = .next (finishFerry q pos islet 4 0 irq s2))
       ∧ (fld d 6 2 = pos % 65536 → ferryOk d = false →
         exec (.ferryDescriptor q islet) s = .next (finishFerry q pos islet 3 0 irq s2))
       ∧ (fld d 6 2 = pos % 65536 → ferryOk d = true →
         ((fld d 1 1).testBit 1 = true → y.inProgress = [] ∧ y.finished = []) →
         (v = .bound → exec (.ferryDescriptor q islet) s = .next (finishFerry q pos islet 1 0 irq s2))
         ∧ (∀ page lock, v = .denied page lock → exec (.ferryDescriptor q islet) s =
             .next (finishFerry q pos islet 2 0 irq (refusePage y.context.toNat (page * 2 ^ 21) lock s2)))
         ∧ (∀ page, v = .fault page → exec (.ferryDescriptor q islet) s =
             .next (workFault (workFerry q) y.context.toNat page s2))
         ∧ (v = .ok → exec (.ferryDescriptor q islet) s = .next ((srcRuns d).foldl (fun s r => fetchRun (.ferry q pos) r s)
             (checkedAgain y.context.toNat (workFerry q)
               (setFryQ q { y with inProgress := y.inProgress ++ [(pos, islet, d)] } s2)))))))
  ∧ (∀ (q pos islet : Nat) (d : List Byte) (s s1 : State) (bad : Bool) (n : Nat) (c : Instr) (op : Nat),
       (c, op) ∈ [(Instr.copy q pos, 1), (.convert q pos, 2), (.fill q pos, 3)] →
       ((fryQ s q).inProgress.find? fun e => e.1 == pos) = some (pos, islet, d) →
       (fld d 0 1 ≠ op → exec c s = .next s)
       ∧ (fld d 0 1 = op → sourcesReady s (.ferry q pos) d = true →
         moveAll (.ferry q pos) (fryQ s q).context.toNat (whoFerry islet) d s = (s1, bad, n) →
         exec c s = .next (finishFerry q pos islet (if bad then 5 else 0) n ((fld d 1 1).testBit 0) s1)
           ∧ n = dRows d * dDstRow d))
  ∧ (∀ (s : State),
       (∀ (q islet : Nat) (rec : List Byte) (irq : Bool),
         let x := fryQ s q
         let pos := x.head.toNat
         let status := fld rec 2 1
         let a := recordAddr x pos
         let w := if x.recOut then s else ownWrite (.ferry q pos) x.context.toNat (whoFerry islet) a rec s
         let s1 := setFryQ q { x with
           head := x.head + 1, recOut := false
           inProgress := x.inProgress.filter (fun f => f.1 != pos), finished := x.finished.filter (fun f => f.1 != pos)
           moved := x.moved.filter (fun f => f.1 != pos), err := x.err || status != 0
           stopped := x.stopped || status == 4 || (status != 0 && x.stopOnErr) } w
         let s2 := if status = 0 ∨ status = 6 then s1 else raise 0x0407 islet [] s1
         (x.finished.find? fun f => f.1 == pos) = some (pos, islet, rec, irq) → x.drain = false →
         (x.recOut = true ∨ openUses s (.ferry q pos) = false ∧ ferryHeld s x.context.toNat = false) →
         (ownSeen w (.ferry q pos) (whoFerry islet) a = true →
           exec (.ferryCompletion q) s = .next (advanceRegion (if irq && x.irqEn then emit (.aplic (16 + q)) s2 else s2)))
         ∧ (ownSeen w (.ferry q pos) (whoFerry islet) a = false →
           exec (.ferryCompletion q) s = .next (advanceRegion (setFryQ q { x with
             recOut := true, finished := x.finished.filter (fun f => f.1 != pos) ++ [(pos, islet, rec, irq)] } w))))
       ∧ (∀ agree : Bool, s.ttu.func = .starting → s.ttu.locksWait = true →
         (∀ p ∈ slotPages (actSlot s), p ∉ pagesInUse s (· != (actSlot s).context) ∧ ringBusy s p = false) →
         ((s.ttu.groupDue = true → groupCheck agree s = none) →
           ∃ t, exec (.lockPages agree) s = .next t ∧ t.ttu = { s.ttu with locksWait := false, groupDue := false }
             ∧ t.xng = s.xng ∧ t.hbr = s.hbr)
         ∧ (∀ status, s.ttu.groupDue = true → groupCheck agree s = some status →
           exec (.lockPages agree) s = .next (groupCheckFails status s)))
       ∧ (∀ agree : Bool, s.ttu.func ≠ .starting → exec (.lockPages agree) s = .next s))

/-! ### Module memory (R223 to R250) -/

/-- A line of a backed, clean block is read as its 64 bytes and nothing changes, or, in the reserved area, as the region tables
that it holds (R255). A request to a channel under calibration or scan takes a tracker of its class, else a shared one, or waits
for one (R9, R238, R240, R242). A read of an unbacked line, or one that the page check refuses, returns zero bytes with poison,
and a refused write is discarded (R224, R233, R260). -/
def Obligations.LineReads : Prop :=
  ∀ (c who a : Nat) (data : List Byte) (mask : BitVec 64) (s : State), s.pwr.good = true → canonical s = true →
    (backed s.cfg a = true → (who / 4096 = 6 ∨ pageCheck s c (pageOf a) false = .served) →
      (chan s (chanOf s a)).state ≠ .lost → wcEntry s (a / 256) = none →
      look [] s.mem.errs (a / 256) = [] → look false s.mem.poison (a / 256) = false → chanWaits s (chanOf s a) = false →
      exec (.lineRead c who a) s = .next (emit (.line who a
        (if inTables (a / 64 * 64) then tableLine s (a / 64 * 64) else getBytes s.mem.cells (a / 64 * 64) 64) false) s))
    ∧ (backed s.cfg a = true → (who / 4096 = 6 ∨ pageCheck s c (pageOf a) false = .served) → chanWaits s (chanOf s a) = true →
      let h : HeldReq := { ctx := c, who := who, addr := a, write := none }
      exec (.lineRead c who a) s = .next { s with mem := match freeTracker s (chanOf s a) (timedReq s h) with
        | some shared => { s.mem with tracked := s.mem.tracked ++ [⟨h, timedReq s h, shared⟩] }
        | none => { s.mem with untracked := s.mem.untracked ++ [h] } })
    ∧ (backed s.cfg a = false → who / 4096 ≠ 6 →
      exec (.lineRead c who a) s = .next (emit (.line who a (List.replicate 64 0) true)
        (raise 0x0608 (homeOf a * 256 + 0xFF) [(2, who), (8, a)] s)))
    ∧ (backed s.cfg a = true → who / 4096 ≠ 6 → pageCheck s c (pageOf a) false = .denied →
      exec (.lineRead c who a) s = .next (emit (.line who a (List.replicate 64 0) true) (refusePage c a false s)))
    ∧ (∀ v : Bool, backed s.cfg a = true → who / 4096 ≠ 6 → a % 64 = 0 →
      pageCheck s c (pageOf a) true = (if v then .locked else .denied) →
      exec (.lineWrite c who a data mask false) s = .next (refusePage c a v s))

/-- What is written to a line is what every later read of it returns: a write that its page permits is visible at once, whether or
not it has left the write-combining buffer, and changes no byte of the array (R231, R234 to R236). -/
def Obligations.LineReadAfterWrite : Prop :=
  ∀ (c who a : Nat) (data : List Byte) (s : State), s.pwr.good = true → backed s.cfg a = true → a % 64 = 0 →
    data.length = 64 → (chan s (chanOf s a)).state ≠ .lost → (look [] s.mem.wc (chanOf s a)).length < 32 →
    chanWaits s (chanOf s a) = false → inTables a = false → (who / 4096 = 6 ∨ (pageCheck s c (pageOf a) true = .served ∧ pageCheck s c (pageOf a) false = .served)) →
    ∃ t, exec (.lineWrite c who a data (BitVec.allOnes 64) false) s = .next t ∧ t.mem.cells = s.mem.cells
      ∧ t.isl = s.isl ∧ t.log = s.log ∧ t.rgn = s.rgn ∧ t.out = s.out
      ∧ (∀ b, b ≠ a / 256 → blockBytesOf t b = blockBytesOf s b)
      ∧ exec (.lineRead c who a) t = .next (emit (.line who a data false) t)

/-- A write-combining entry leaves whole without a read of its block and clears its poison; a part is merged into its clean block,
512 cycles after its last write (R229, R234). The patrol scrubber corrects any one wrong symbol of a block, data or check, counts
it on its channel and records 0x0601, and the array then holds what was written; a clean block is left as it is (R228 to R230,
R232). -/
def Obligations.EvictionAndPatrolScrub : Prop :=
  (∀ (b : Nat) (e : WcEntry) (s : State),
     let k := chanOf s (256 * b)
     let es := look [] s.mem.wc k
     (es.find? fun x => x.block == b) = some e → (chan s k).state ≠ .lost →
     (e.bytes.length = 256 → exec (.wcEviction k b) s =
       .next (writeBlock b (e.bytes.map (·.2)) false (setWc k (es.filter fun x => x.block != b) s)))
     ∧ (e.bytes.length ≠ 256 → look [] s.mem.errs b = [] → look false s.mem.poison b = false →
       exec (.wcEviction k b) s = .next (writeBlock b (overlay (some e) (getBytes s.mem.cells (256 * b) 256)) false
         (setWc k (es.filter fun x => x.block != b) (passNow (e.last + 512) s)))))
  ∧ (∀ (b i e : Nat) (half : Bool) (s : State), s.mem.scrubEn = true → canonical s = true → backed s.cfg (256 * b) = true →
       (chan s (chanOf s (256 * b))).state ≠ .lost → wcEntry s b = none → s.mem.poison = [] →
       (s.mem.errs = [] → exec (.patrolScrub b) s = .next s)
       ∧ (s.mem.errs = [(b, [⟨half, i, e⟩])] → i < 132 → 1 ≤ e → e < 256 →
         ∃ t u, exec (.patrolScrub b) s = .next t ∧ t = raise 0x0601 (chanOf s (256 * b)) [(8, 256 * b)] u
           ∧ t.mem.errs = [] ∧ t.mem.cells = s.mem.cells
           ∧ t.mem.eccLast = ⟨true, 0, half, BitVec.ofNat 8 i, BitVec.ofNat 40 b⟩
           ∧ (chan t (chanOf s (256 * b))).ceCount.toNat =
             min 0xFFFFFF ((chan s (chanOf s (256 * b))).ceCount.toNat + 1)))

/-- A refresh changes no state; the calibration of a channel in a maintenance crossing ends and is dated, and ends every
fall-back, and the requests that waited for the channel are served; a channel 100 ms without one falls back, recorded for the
first alone (R239 to R241). A channel whose corrected errors of 24 hours reach CE_LIMIT is to be retired at the next TRAIN,
0x0607; one that stops answering is LOST, 0x060C, and the module fails (R248, R405). A margin scan of a channel or a lane ends
with a verdict of 1 where fewer steps passed than its minimum, and its record answers the mailbox that asked; outside TRAIN the
verdict records 0x060A, and no scan ends before primary calibration (R242 to R244, R323). The verdict on a strait lane is a free
value (assumption log 5). -/
def Obligations.ChannelsAndMargins : Prop :=
  (∀ (k : Nat) (s : State),
     exec (.refresh k) s = .next s
     ∧ ((chan s k).busy = true →
       let u := setChan k { chan s k with busy := false, calAt := s.now } s
       let v := { u with mem := { u.mem with calLast := s.xng.cycle, maintAt := s.xng.cycle.toNat } }
       ((∀ c ∈ v.mem.chans, c.2.fallback = false) → exec (.primaryCalibration k) s = .next (channelsServe v))
       ∧ ((∃ c ∈ v.mem.chans, c.2.fallback = true) → exec (.primaryCalibration k) s = .next (channelsServe <|
           raise 0x0606 noSubject [(2, (v.mem.chans.filter fun c => c.2.fallback).length)]
             ((v.mem.chans.map (·.1)).foldl (fun s k => setChan k { chan s k with fallback := false } s) v))))
     ∧ (k ∈ calChans s → (chan s k).fallback = false → (chan s k).busy = false →
       let u := passNow ((chan s k).calAt + 400000000) s
       let v := setChan k { chan s k with fallback := true } u
       exec (.calFallback k) s = .next (if ∀ c ∈ u.mem.chans, c.2.fallback = false
         then raise 0x0605 ((overdueChans u).head?.getD k) [] v else v)))
  ∧ (∀ (k : Nat) (s : State),
       ((chan s k).state = .active → s.mem.ceLimit ≠ 0 → s.mem.ceLimit.toNat ≤ ceCountDay s k →
         exec (.ceLimitReached k) s = .next (raise 0x0607 k [] (setChan k { chan s k with state := .retirePending } s)))
       ∧ ((chan s k).state = .active ∨ (chan s k).state = .retirePending →
         exec (.channelLost k) s = .next (failModule 1
           (raise 0x060C k [] (channelsServe
             (setWc k [] (setChan k { chan s k with state := .lost, busy := false } s)))))))
  ∧ (∀ (x : MarginScan) (tl tr vl vh : Nat) (s : State), s.mem.scanning = some x → s.mode ≠ .train →
       let low := if x.kind = 1 then decide (tl < 10 ∨ tr < 10 ∨ vl < 6 ∨ vh < 6) else decide (tl < 8 ∨ tr < 8 ∨ vl < 3 ∨ vh < 3)
       let u := { s with mem := { s.mem with scanning := none, scanMoved := none, maintAt := s.xng.cycle.toNat } }
       let v := if low then raise 0x060A x.target [] u else u
       let rec_ := marginRecord x tl tr vl vh low s.xng.cycle.toNat
       ((∃ c ∈ s.mem.chans, c.2.busy = true) → exec (.marginScanDone tl tr vl vh) s = .next s)
       ∧ ((∀ c ∈ s.mem.chans, c.2.busy = false) → (x.kind = 1 ∨ x.kind = 3) → x.mailbox < 16 →
         exec (.marginScanDone tl tr vl vh) s = .next (channelsServe (complete x.mailbox stOk [] rec_ v)))
       ∧ ((∀ c ∈ s.mem.chans, c.2.busy = false) → x.kind = 2 →
         ∃ t, exec (.marginScanDone tl tr vl vh) s = .next t ∧ t.freeCtr = s.freeCtr + 1 ∧ t.mem.scanning = none))

/-! ### Regions, contexts and pages (R251 to R278) -/

/-- The context commands: ALLOC_CTX gives the FREE context it names, or some FREE one; FREE_CTX of a READY, unused one frees it;
JOIN_GROUP takes the first free group slot and LEAVE_GROUP clears it; each in both paths (R253, R261, R264, Table 9.5). LEAVE_GROUP
of a group that the context does not hold answers OK (the model's choice, log entry 64). -/
def Obligations.ContextCommands : Prop :=
  ∀ (via : Via) (s u : State) (a b : Nat),
    (RgnEntered 1 via s a b u →
      (a = 0 → exec (.allocCtx via) s = .next (finishRgn via stDenied 0 u))
      ∧ (1 ≤ a → a < 65536 → exec (.allocCtx via) s = .next (
        if (ctx u a).state = .free then finishRgn via stOk a (setCtx a { state := .ready } u) else finishRgn via stState 0 u))
      ∧ (a = 0xFFFFFFFF → (∃ c < 65536, (ctx u c).state = .free) → ∃ c < 65536, (ctx u c).state = .free
        ∧ exec (.allocCtx via) s = .next (finishRgn via stOk c (setCtx c { state := .ready } (drawn u))))
      ∧ (a = 0xFFFFFFFF → (∀ c < 65536, (ctx u c).state ≠ .free) → exec (.allocCtx via) s = .next (finishRgn via stNoResource 0 u)))
    ∧ (RgnEntered 2 via s a b u →
      (a = 0 → exec (.freeCtx via) s = .next (finishRgn via stDenied 0 u))
      ∧ (a ≠ 0 → (ctx u a).state ≠ .ready → exec (.freeCtx via) s = .next (finishRgn via stState 0 u))
      ∧ (a ≠ 0 → (ctx u a).state = .ready → queueOn u a = false → slotHolds u.ttu.slotA a = false →
        slotHolds u.ttu.slotB a = false → exec (.freeCtx via) s = .next (finishRgn via stOk 0 (setCtx a (ctxDefault a)
          ((regionList u a).foldl (fun s r => dropRegion a r s) u)))))
    ∧ (RgnEntered 8 via s a b u → a < 65536 → b < 1024 → (ctx u a).state ≠ .free →
      (b ∈ groupsOf u a → exec (.joinGroup via) s = .next (finishRgn via stOk 0 u))
      ∧ (b ∉ groupsOf u a → (0xFFFF#16 ∉ (ctx u a).groups) → exec (.joinGroup via) s = .next (finishRgn via stNoResource 0 u))
      ∧ (∀ pre post, b ∉ groupsOf u a → (ctx u a).groups = pre ++ 0xFFFF#16 :: post → 0xFFFF#16 ∉ pre →
        (∀ r ∈ regionList u (65536 + b), ∀ x ∈ heldRegions u a, overlaps r.base r.bytes x.base x.bytes = false) →
        exec (.joinGroup via) s = .next (finishRgn via stOk 0
          (setCtx a { ctx u a with groups := pre ++ BitVec.ofNat 16 b :: post } u))))
    ∧ (RgnEntered 9 via s a b u → a < 65536 → b < 1024 →
      (∀ r ∈ regionList u (65536 + b), regionBusy u (65536 + b) r = false) →
      exec (.leaveGroup via) s = .next (finishRgn via stOk 0 (setCtx a { ctx u a with
        groups := (ctx u a).groups.map fun x => if x.toNat = b then 0xFFFF#16 else x } u)))

/-- ADD_REGION takes a well-formed descriptor whose pages may be claimed, in its place by BASE, and claims the pages;
REMOVE_REGION gives a region up unless it is busy; UNPIN clears PINNED likewise (R256, R257, R261 to R263). -/
def Obligations.RegionCommands : Prop :=
  ∀ (via : Via) (s u : State) (a b : Nat),
    (∀ (v : State) (bs : List Byte), RgnEntered 3 via s a b u →
      ((∃ m, via = .mailbox m ∧ v = u ∧ bs = getBytes (mbOf u m).bytes 16 32)
        ∨ (via = .register ∧ readMem whoEngine b 32 u = (v, bs, false))) →
      let r := parseRegionD bs
      (a < 65536 → (ctx v a).state ≠ .free) → descriptorOk v a bs = true → regionClash v a r = false →
      (∀ p ∈ (if r.kind = 1 then [] else pagesOf r.base r.bytes), claimable v a p = true) →
      (256 ≤ (regionList v a).length → exec (.addRegion via) s = .next (finishRgn via stNoResource 0 v))
      ∧ ((regionList v a).length < 256 → (r.kind = 2 → r.flags.testBit 0 = false) →
        exec (.addRegion via) s = .next (finishRgn via stOk 0 (regionChanged a 3 r.base
          (claimPages a r (setList a (insertRegion r (regionList v a)) v))))))
    ∧ (RgnEntered 4 via s a b u →
      (regionAt u a b = none → exec (.removeRegion via) s = .next (finishRgn via stBadArg 0 u))
      ∧ (∀ r, regionAt u a b = some r → exec (.removeRegion via) s = .next (
        if regionBusy u a r then finishRgn via stState 0 u else finishRgn via stOk 0 (dropRegion a r u))))
    ∧ (RgnEntered 6 via s a b u → ∀ r, regionAt u a b = some r → exec (.unpin via) s = .next (
        if regionBusy u a r ∨ r.flags.testBit 2 = true then finishRgn via stState 0 u
        else finishRgn via stOk 0 (regionChanged a 6 b (setPinned a r false u))))

/-- PIN of a region whose pages are all RESIDENT ends at once with PINNED set; EVICT of an ABSENT page ends at once, of a locked
one with STATE, and of a resident one starts its write-back in a free entry (R261, R267, R269, R276). A page whose bytes have all
come is RESIDENT with a count of zero, recorded 0x0704, and 0x0705 where a part failed; COUNT_DECAY halves the counts of absent
pages at its interval, and DECAY 0 stops it (R270, R274). -/
def Obligations.PagesMove : Prop :=
  (∀ (via : Via) (s u : State) (a b : Nat) (r : RegionD),
     (RgnEntered 5 via s a b u → regionAt u a b = some r → r.kind ≠ 1 →
       (∀ p ∈ pagesOf r.base r.bytes, (tag u p).res = .resident) →
       let w := { u with rgn := { u.rgn with job := some ⟨via, 5, a, b, u.now⟩ } }
       exec (.pin via) s = .next (finishRgn via stOk 0 (regionChanged a 5 b (setPinned a r true w))))
     ∧ (RgnEntered 7 via s a b u →
       ((regionList u a).find? fun r => r.kind == 2 && !r.flags.testBit 0 && within b 1 r.base r.bytes) = some r →
       let w := { u with rgn := { u.rgn with job := some ⟨via, 7, a, b, u.now⟩ } }
       ((tag u (pageOf b)).lock = true → exec (.evict via) s = .next (finishRgn via stState 0 u))
       ∧ ((tag u (pageOf b)).lock = false → entryOf u (pageOf b) = none → (tag u (pageOf b)).res = .absent →
         exec (.evict via) s = .next (finishRgn via stOk 0 w))
       ∧ (∀ e, (tag u (pageOf b)).lock = false → entryOf u (pageOf b) = none → (tag u (pageOf b)).res = .resident →
         pageOf b ∉ (pagesInUse u fun _ => true) → ringBusy u (pageOf b) = false → freeEntry u = some e →
         exec (.evict via) s = .next (startEvict e (pageOf b) w))))
  ∧ (∀ (s : State),
       (∀ (e : Nat) (c : CoEntry), coEntry s e = some c → c.evict = false → c.begun = true → 2 ^ 21 ≤ c.moved →
         exec (.pageMigrated e) s = .next (afterPage (endMigration e c s)))
       ∧ (∀ (e : Nat) (c : CoEntry), coEntry s e = some c → (c.evict = true ∨ c.begun = false ∨ c.moved < 2 ^ 21) →
         exec (.pageMigrated e) s = .next s)
       ∧ (s.rgn.decay = 0 → exec .countDecay s = .next s)
       ∧ (s.rgn.decay ≠ 0 →
         ∃ t, exec .countDecay s = .next t ∧ t.rgn.lastDecay = max s.now (s.rgn.lastDecay + 2 ^ (s.rgn.decay.toNat + 20))
           ∧ (∀ p, tag t p = if (tag s p).res = .absent then { tag s p with count := (tag s p).count / 2 } else tag s p)
           ∧ t.mem = s.mem ∧ t.log = s.log))

/-! ### The mainland's harts and the Sound ring (R279 to R314) -/

/-- A released hart accesses by the map of Table 10.3: register space 8 bytes at a time, the host window under its region check,
and every other address outside the homes faults, with the virtual address in xtval and an exception of the access's kind; an
uncached access waits behind one that has not been performed; a prefetch there is dropped. skctx is written in M and S mode and
traps in the others (R275, R282 to R284, R288). That harts run from the end of stage 6 on, the KINDs of a host-window load that no
port carries and of a register access of another size, and what a cache-block operation does outside the homes are the model's
choices (log entries 105, 136, 70, 68, 71). -/
def Obligations.CoreAccesses : Prop :=
  ∀ (h a n : Nat) (bs : List Byte) (v : Option Nat) (va w : Word64) (s : State), s.pwr.good = true → 7 ≤ s.hbr.stage → h < 128 →
    let x := hartOf s h
    let c := x.ctx.toNat
    let deny (exc : AccessFault) (kind : Nat) (s : State) : State :=
      emit (.fault h exc a kind) { s with harts := put {} h (if kind = 0 then { hartOf s h with tval := va }
        else { hartOf s h with tval := va, faultCtx := BitVec.ofNat 16 c, faultKind := BitVec.ofNat 3 kind }) s.harts }
    let free : Prop := hartStalled s h = false ∧ x.io = []
    (0xF00000000000 ≤ a → a < 0x1000000000000 → free →
      (n = 8 → a % 8 = 0 → exec (.load h a n .load va v) s =
        .next (emit (.loaded h a (toLE 8 (readReg s (a - 0xF00000000000)).toNat)) s))
      ∧ (bs.length = 8 → a % 8 = 0 → exec (.store h a bs .store va v) s =
        .next (writeReg (a - 0xF00000000000) (BitVec.ofNat 64 (leNat bs)) s))
      ∧ ((n ≠ 8 ∨ a % 8 ≠ 0) → exec (.load h a n .load va v) s = .next (deny .load 6 s))
      ∧ exec (.load h a n .fetch va v) s = .next (deny .fetch 0 s)
      ∧ (∀ op, exec (.store h a bs (.amo op) va v) s = .next (deny .store 0 s)))
    ∧ (isHost a = true → n ∈ [1, 2, 4, 8] → a % n = 0 → free →
      (regionOk s c a n false = true → allLost s = false → exec (.hostWindowAccess h a n va none) s =
        .next (hostRead (a - 0x100000000000) n (.hart h c a va) s))
      ∧ (regionOk s c a n false = true → allLost s = true → exec (.hostWindowAccess h a n va none) s =
        .next (deny .load 3 (hostLost (a - 0x100000000000) s)))
      ∧ (regionOk s c a n false = false → exec (.hostWindowAccess h a n va none) s = .next (deny .load 5 s))
      ∧ (bs.length = n → regionOk s c a n true = true → exec (.hostWindowAccess h a n va (some bs)) s =
        .next (hostWrite (a - 0x100000000000) bs (.hart h c a va) s)))
    ∧ (isHost a = true → ¬ free →
      let acc : CAccess := { hart := h, ctx := c, addr := a, write := none, size := n, kind := .load, va := va }
      let u := { s with harts := put {} h { x with io := x.io ++ [acc] } s.harts }
      exec (.hostWindowAccess h a n va none) s = .next (drainIo (x.io.length + 1) h u)
      ∧ (hartStalled s h = true → exec (.hostWindowAccess h a n va none) s = .next u))
    ∧ (0xA0000000000 ≤ a → isHost a = false → a < 0xF00000000000 →
      exec (.load h a n .load va v) s = .next (deny .load 0 s) ∧ exec (.cboClean h a va) s = .next (deny .store 0 s))
    ∧ (0xA0000000000 ≤ a → ∀ trigger, exec (.load h a n (.prefetch trigger) va v) s = .next s)
    ∧ (∀ m ∈ [Priv.m, .s], exec (.skctxWrite h m w) s =
        .next { s with harts := put {} h { x with ctx := w.truncate 16 } s.harts })
    ∧ exec (.skctxWrite h .u w) s = .next (emit (.trap h false) s)
    ∧ (∀ m ∈ [Priv.vs, .vu], exec (.skctxWrite h m w) s = .next (emit (.trap h true) s))

/-- A load, fetch or store of bytes within one line of a home that the hart holds in its own context: a load of any stable state
returns the line's bytes, or faults with KIND 3 on poison; a store to E or M writes them, and one of a whole line clears poison
(R285, R286, R289, R310, Table 11.5). What a hart's miss sends and how its line waits: RDS with ISu for a load of a line it does
not hold, RDX with IMu for a store, UPG for a store to S or O, CHK for a line of another context, CBO for a cache-block operation,
each within the requests that the agent may have outstanding and the ways of its set, else it waits (R281, R285, R297, R304, R309,
R310). The set of a line is the model's choice (log entry 65). -/
def Obligations.CoreHitsAndMisses : Prop :=
  (∀ (h a n : Nat) (bs : List Byte) (va : Word64) (s : State), s.pwr.good = true → 7 ≤ s.hbr.stage → h < 128 → a < 0xA0000000000 →
     1 ≤ n → a % 64 + n ≤ 64 → bs.length = n →
     let x := cline s h (a / 64)
     let c := (hartOf s h).ctx
     x.chk = false → x.cbo = none → x.ctx = c.toNat →
     (∀ k ∈ [AccKind.load, .fetch], x.st ∈ [CState.s, .e, .o, .m] → x.poison = false →
       exec (.load h a n k va none) s = .next (emit (.loaded h a (slice x.bytes (a % 64) n)) s))
     ∧ (∀ k exc, (k, exc) ∈ [(AccKind.load, AccessFault.load), (.fetch, .fetch)] → x.st ∈ [CState.s, .e, .o, .m] → x.poison = true →
       let hart : Hart := { hartOf s h with tval := va, faultCtx := c, faultKind := 3 }
       exec (.load h a n k va none) s = .next (emit (.fault h exc a 3) { s with harts := put {} h hart s.harts }))
     ∧ (x.st ∈ [CState.e, .m] → x.poison = false →
       exec (.store h a bs .store va none) s = .next (setCline h (a / 64) { x with
         st := .m, bytes := patch x.bytes (a % 64) bs, written := x.written ||| ((2 ^ n - 1) * 2 ^ (a % 64)) } s))
     ∧ (x.st ∈ [CState.e, .m] → x.written < 2 ^ 64 →
       exec (.cboZero h a va none) s = .next (setCline h (a / 64) { x with
         st := .m, bytes := patch x.bytes 0 (zeros 64), written := 2 ^ 64 - 1, poison := false } s)))
  ∧ (∀ (h a n : Nat) (bs : List Byte) (va : Word64) (s : State), s.pwr.good = true → 7 ≤ s.hbr.stage → h < 128 → a < 0xA0000000000 →
       1 ≤ n → a % 64 + n ≤ 64 → bs.length = n →
       let x := cline s h (a / 64)
       let c := (hartOf s h).ctx.toNat
       let stamp := s.xng.cycle.toNat % 2 ^ 32
       x.chk = false → x.cbo = none →
       (∀ (k : RKind) (st st' : CState) (wr : Bool), (k, st, st', wr) ∈ [(RKind.rds, CState.i, CState.isu, false),
           (.rdx, .i, .imu, true), (.upg, .s, .smu, true), (.upg, .o, .omu, true)] → x.st = st → (st ≠ .i → x.ctx = c) →
         (st = .i → (l2Ways s h (a / 64)).length < 16) →
         (reqRoom s h = true → ∃ t, exec (if wr then .store h a bs .store va none else .load h a n .load va none) s = .next t
           ∧ t.snd.flight = s.snd.flight ++ [{ kind := k, line := a / 64, agent := h, ctx := c, stamp := stamp }]
           ∧ (cline t h (a / 64)).st = st' ∧ t.mem = s.mem ∧ t.out = s.out)
         ∧ (reqRoom s h = false → ∃ t, exec (if wr then .store h a bs .store va none else .load h a n .load va none) s = .next t
           ∧ t.snd.flight = s.snd.flight ∧ (cline t h (a / 64)).st = st
           ∧ (cline t h (a / 64)).waiting.length = x.waiting.length + 1 ∧ t.mem = s.mem ∧ t.out = s.out))
       ∧ (x.st ∈ [CState.s, .e, .o, .m] → x.ctx ≠ c → reqRoom s h = true →
         ∃ t, exec (.load h a n .load va none) s = .next t ∧ (cline t h (a / 64)).st = x.st ∧ (cline t h (a / 64)).chk = true
           ∧ t.snd.flight = s.snd.flight ++ [{ kind := .chk, line := a / 64, agent := h, ctx := c, stamp := stamp }])
       ∧ (∀ (i : Instr) (op : CboOp), (i, op) ∈ [(Instr.cboClean h a va, CboOp.clean), (.cboFlush h a va, .flush),
           (.cboInval h a va true, .inval), (.cboInval h a va false, .flush)] → x.st ∈ [CState.i, .s, .e, .o, .m] →
         reqRoom s h = true →
         ∃ t, exec i s = .next t ∧ (cline t h (a / 64)).st = x.st ∧ (cline t h (a / 64)).cbo = some op
           ∧ t.snd.flight = s.snd.flight ++ [{ kind := .cbo, line := a / 64, agent := h, ctx := c, cboOp := op, stamp := stamp }]))

/-- A request at its home agent: one of a line with an open transaction is NACKed in retry mode and waits in table mode; a page
check that refuses it answers GNT DENY; CHK is granted; every other request opens a transaction and sends its snoops; a prefetch
whose page does not serve it by then is dropped, with no record (R275). A message whose turn on its way has not come, and a request at a home whose conflict queue is full, does not arrive (R294, R300, R305 to
R308). -/
def Obligations.RingRequests : Prop :=
  ∀ (x m : RMsg) (c : Instr) (s : State),
    (c, m) ∈ [(Instr.rds x, { x with kind := .rds }), (.rdx x, { x with kind := .rdx }), (.upg x, { x with kind := .upg }),
      (.cbo x, { x with kind := .cbo }), (.vic x, { x with kind := .vic }), (.chk x, { x with kind := .chk })] →
    x.parity = true → x.line < 2 ^ 42 →
    (firstOnWay s m = false ∨ (s.snd.mode = true ∧ conflictFull s x.line = true) → exec c s = .next s)
    ∧ (firstOnWay s m = true → (s.snd.mode = true → conflictFull s x.line = false) →
    let u := takeR m s
    let v := { u with snd := { u.snd with reserved := u.snd.reserved.filter fun r => !(r.line == x.line && r.agent == x.agent) } }
    let pass : Prop := (x.pre = true → prefetchPage s x.ctx (x.line * 64) = true) ∧ (m.kind = .vic ∨
      (backed s.cfg (x.line * 64) = true ∧ pageCheck s x.ctx (pageOf (x.line * 64)) (reqWrites m) ≠ .denied
        ∧ pageCheck s x.ctx (pageOf (x.line * 64)) (reqWrites m) ≠ .locked))
    (∀ t, openTxn s x.line = some t → s.snd.mode = false →
      exec c s = .next (sendR { m with kind := .nack } (setTxn (noteAged t m) u)))
    ∧ (s.snd.mode = true → ((openTxn s x.line).isSome = true ∨ ∃ w ∈ s.snd.conflict, w.line = x.line) →
      exec c s = .next { u with snd := { u.snd with conflict := u.snd.conflict ++ [m] } })
    ∧ (openTxn s x.line = none → s.snd.mode = false → reservedFor s x.line x.agent = true →
      exec c s = .next (sendR { m with kind := .nack } u))
    ∧ (openTxn s x.line = none → reservedFor s x.line x.agent = false → pass → (∀ w ∈ s.snd.conflict, w.line ≠ x.line) →
      (m.kind = .vic → filterRoom s x.line = true) →
      exec c s = .next (let w := if s.snd.mode then u else v
        if m.kind = .chk then sendR (grantMsg m 0 .s 0) w else openReq m w))
    ∧ (openTxn s x.line = none → reservedFor s x.line x.agent = false → (∀ w ∈ s.snd.conflict, w.line ≠ x.line) →
      m.kind ≠ .vic →
      (x.pre = false → backed s.cfg (x.line * 64) = true → pageCheck s x.ctx (pageOf (x.line * 64)) (reqWrites m) = .denied →
        exec c s = .next (sendR (grantMsg m 0 (.deny 1) 0)
          (refusePage x.ctx (x.line * 64) false (if s.snd.mode then u else v))))
      ∧ (x.pre = true → prefetchPage s x.ctx (x.line * 64) = false →
        exec c s = .next (sendR (grantMsg m 0 (.deny 1) 0) (if s.snd.mode then u else v)))))

/-- A snoop at a stop whose one cache holds the line in a stable state: the line's new state, and the OWNER and SHARED bits of the
answer, are those of Table 11.5; a stop that holds nothing answers with neither (R300, R301, R304, R310). A backoff ends in a
resend, aged from the eighth retry, an UPG that lost its copy as RDX; a reservation expires; an open transaction past
SND_CTRL.TIMEOUT is a protocol error with 0x0802; LOCK fixes the mode once and empties the filters (R305, R307, R313). -/
def Obligations.RingSnoopsAndTimers : Prop :=
  (∀ (x m : RMsg) (c : Instr) (a : Nat) (s : State), x.parity = true → x.line < 2 ^ 42 → a < 2 ^ 8 →
     (c, m) ∈ [(Instr.snps x, { x with kind := .snps }), (.snpx x, { x with kind := .snpx }), (.snpw x, { x with kind := .snpw })] →
     stopOf x.agent ≠ x.stop → firstOnWay s m = true →
     let answer (ow sh : Bool) : RMsg := { kind := .srsp, line := x.line, agent := x.agent, stop := x.stop, txn := x.txn
                                           owner := ow, shared := sh, keep := (cline s x.agent x.line).st }
     (agentsAt s x.stop x.line = [] → ∃ t, exec c s = .next t ∧ t.snd.lines = s.snd.lines
       ∧ t.snd.flight = (takeR m s).snd.flight ++ [answer false false])
     ∧ (∀ (st st' : CState) (ow sh : Bool), agentsAt s x.stop x.line = [a] → (cline s a x.line).st = st →
       (m.kind, st, st', ow, sh) ∈ [(RKind.snps, CState.s, CState.s, false, true), (.snps, .e, .s, true, true),
         (.snps, .o, .o, true, true), (.snps, .m, .o, true, true), (.snpx, .s, .i, false, false), (.snpx, .e, .i, true, false),
         (.snpx, .o, .i, true, false), (.snpx, .m, .i, true, false), (.snpw, .s, .s, false, true), (.snpw, .e, .e, false, true),
         (.snpw, .o, .s, false, true), (.snpw, .m, .e, false, true)] →
       ∃ t pre, exec c s = .next t ∧ (cline t a x.line).st = st' ∧ t.snd.flight = pre ++ [answer ow sh] ∧ t.mem = s.mem))
  ∧ (∀ (agent line num : Nat) (s : State),
       (∀ t m, (cline s agent line).backoff = some t → (cline s agent line).req = some m →
         ∃ u, exec (.requestResend agent line) s = .next u ∧ u.now = max s.now t
           ∧ u.snd.flight = s.snd.flight ++ [{ m with
             kind := if m.kind = .upg ∧ (cline s agent line).st = .imu then .rdx else m.kind
             aged := m.aged || decide (8 ≤ (cline s agent line).tries) }])
       ∧ (∀ r, (s.snd.reserved.find? fun r => r.line == line) = some r →
         exec (.reservationExpiry line) s = .next { passNow r.until_ s with
           snd := { s.snd with reserved := dropFirst r s.snd.reserved } })
       ∧ (∀ t, (s.snd.txns.find? fun t => t.num == num) = some t →
         exec (.transactionTimeout num) s = .next (protocolError 0x0802 3 (homeStop s.cfg t.req.line) 0xFF { t.req with txn := num } .i
           (passNow (t.start + 4096 * max 1 s.snd.timeout.toNat) s)))
       ∧ (inStage s 5 = true → s.snd.lock = false →
         ∃ t, exec .sndLock s = .next t ∧ t.snd.lock = true ∧ t.snd.mode = (configValue s 1 == 1) ∧ t.snd.filters = []
           ∧ t.hbr.stage = 6 ∧ t.mem = s.mem)
       ∧ (inStage s 5 = false → s.snd.lock = true → exec .sndLock s = .next s))

/-- What reaches a requester: its line is installed by GNT and DATA in the granted state, a DENY faults the access and restores
the line; one that answers a CHK or a cache-block operation ends it; a NACK sets a backoff and ends a victim that owns no more,
and SNPV takes a victim's line or its cancellation; data whose parity fails are poisoned (R302, R303, R307, R310, R313). What
reaches the home agent of an open transaction: the last SRSP brings the grant, WDATA of a victim its line, WCAN its end, CACK and
UDATA, whose store is made or held, the close of a granted one (R296, R300, R302, R303, R306). -/
def Obligations.RingAnswers : Prop :=
  (∀ (x : RMsg) (s : State), x.parity = true →
     let y := cline s x.agent x.line
     (∀ (m : RMsg), m = { x with kind := .gnt } → firstOnWay s m = true → y.cbo = none → y.chk = false →
       (y.st = .iso ∨ y.st = .imo → (∀ r, x.grant ≠ .deny r) →
         exec (.gnt x) s = .next (install x.agent x.line (setCline x.agent x.line { y with gnt := some m } (takeR m s))))
       ∧ (∀ r st back, x.grant = .deny r → y.st = st → (st, back) ∈ [(CState.isu, CState.i), (.imu, .i), (.smu, .s), (.omu, .o)] →
         exec (.gnt x) s = .next (denyReq x.agent x.line r back (takeR m s))))
     ∧ (∀ (m : RMsg), m = { x with kind := .gnt } → firstOnWay s m = true →
       let goes (u : State) : State := restart x.agent (performWaiting x.agent x.line u)
       (y.cbo = none → y.chk = true → (∀ r, x.grant ≠ .deny r) →
         exec (.gnt x) s = .next (goes (setCline x.agent x.line { y with
           chk := false, ctx := (y.req.map (·.ctx)).getD y.ctx, req := none, starter := none, tries := 0 } (takeR m s))))
       ∧ (∀ r, y.cbo = none → y.chk = true → x.grant = .deny r →
         exec (.gnt x) s = .next (denyReq x.agent x.line r y.st (takeR m s)))
       ∧ (let u := setCline x.agent x.line { y with cbo := none, req := none, tries := 0 } (takeR m s)
          (∀ r, y.cbo.isSome = true → x.grant = .deny r → exec (.gnt x) s = .next (goes (hartFault
            { hart := x.agent, ctx := (y.req.map (·.ctx)).getD 0, addr := x.line * 64, write := none, size := 0
              cbo := y.cbo, va := y.cboVa } r u)))
          ∧ (y.cbo.isSome = true → (∀ r, x.grant ≠ .deny r) → exec (.gnt x) s = .next (advanceRegion (goes (
            if s.snd.mode then u else sendR { kind := .cack, line := x.line, agent := x.agent, txn := x.txn } u))))))
     ∧ (∀ m, m = { x with kind := .data } → firstOnWay s m = true → y.st ∈ [CState.isu, .imu, .smu, .omu] →
       exec (.data x) s = .next (setCline x.agent x.line { y with data := some (x.bytes, x.poison || !x.dataOk) } (takeR m s)))
     ∧ (∀ m, m = { x with kind := .nack } → firstOnWay s m = true →
       (y.cbo.isSome = true ∨ y.chk = true ∨ y.st ∈ [CState.isu, .imu, .smu, .omu, .wb] →
         exec (.nack x) s = .next (setCline x.agent x.line { y with
           tries := y.tries + 1, backoff := some (s.now + 32 * 2 ^ min y.tries 3 + 4 * (x.agent % 8)) } (takeR m s)))
       ∧ (y.cbo = none → y.chk = false → y.st = .wbn → exec (.nack x) s = .next (restart x.agent (performWaiting x.agent x.line
         (setCline x.agent x.line { waiting := y.waiting } (takeR m s))))))
     ∧ (∀ m, m = { x with kind := .snpv } → firstOnWay s m = true → (∀ p ∈ s.snd.lines, p.2.waiting = []) →
       (y.st = .wb → ∃ t, exec (.snpv x) s = .next t ∧ t.snd.flight = (takeR m s).snd.flight ++
         [{ kind := .wdata, line := x.line, agent := x.agent, txn := x.txn, bytes := y.bytes, poison := y.poison
            dirty := if y.wbM then .m else .o }])
       ∧ (y.st = .wbn → ∃ t, exec (.snpv x) s = .next t ∧ t.snd.flight = (takeR m s).snd.flight ++
         [{ kind := .wcan, line := x.line, agent := x.agent, txn := x.txn }])))
  ∧ (∀ (x : RMsg) (v : Option Nat) (t : HTxn) (s : State), x.parity = true → t.num = x.txn → t.req.line = x.line →
       (s.snd.txns.find? fun u => u.num == x.txn && u.req.line == x.line) = some t →
       (firstOnWay s { x with kind := .srsp } = true → x.stop ∈ t.left → (t.owner && x.owner) = false →
         exec (.srsp x v) s = .next (tryGrant t.num v (setTxn { t with
           left := t.left.filter (· != x.stop), owner := t.owner || x.owner, shared := t.shared || x.shared
           holds := t.holds || x.holds, keep := if x.holds then x.keep else t.keep } (takeR { x with kind := .srsp } s))))
       ∧ (t.req.kind = .vic →
         (firstOnWay s { x with kind := .wcan } = true →
           exec (.wcan x) s = .next (closeTxn t (takeR { x with kind := .wcan } s)))
         ∧ (firstOnWay s { x with kind := .wdata } = true → filterRoom s x.line = true →
           (homeOf (x.line * 64) ≠ 0 ∨ (sliceWays s x.line).length < 12) → v = none → exec (.wdata x v) s = .next (closeTxn t
             (allocHome x.line x.dirty x.bytes (x.poison || !x.dataOk) t.req.ctx (takeR { x with kind := .wdata } s)).1)))
       ∧ (t.waitCack = true → firstOnWay s { x with kind := .cack } = true →
         exec (.cack x) s = .next (settleTxn t.num (setTxn { t with waitCack := false } (takeR { x with kind := .cack } s))))
       ∧ (t.waitData = true → firstOnWay s { x with kind := .udata } = true →
         let u := takeR { x with kind := .udata } s
         let w := decideLine { ctx := x.ctx, who := x.agent, addr := x.line * 64, write := some (padTo 64 x.bytes, x.mask)
                               bad := !x.dataOk, poison := x.poison, ring := true } u
         exec (.udata x) s = .next (if storeHeld w x.line then setTxn { t with stored := true } w
           else settleTxn t.num (setTxn { t with waitData := false } w))))

/-! ### Mailboxes (R354 to R363) -/

/-- Whatever management command a mailbox holds, its checks come in the order of Table 13.4 and the first that fails is the
status: a bad CRC, an opcode not listed, a path that may not carry it, a state that does not accept it, its arguments, its class,
which is judged as the command arrives; a window-path payload is fetched between the fourth and the fifth, and comes poisoned where
no port can bring it (R341; the place of the fetch and its status are the model's choices, log entries 106, 136). A request
that is not next changes nothing (R356, R357, R361, R362). An opcode that no table lists completes with BAD_OPCODE and does
nothing else, after the CRC check of the paths that have one; on RGN_CMD it completes with STATUS, or sets REFUSED where a command
is in progress (R261, R361). -/
def Obligations.MailboxChecks : Prop :=
  (∀ (c : Instr) (op m : Nat) (s : State), mbCmd c = some (op, m) →
     let x := mbOf s m
     let fetches : Prop := m < 8 ∧ takesPayload op = true ∧ mbPayLen x ≠ 0
     (mbReady m s = false ∨ mbOp x ≠ op → exec c s = .next s)
     ∧ (mbReady m s = true → mbOp x = op → x.state = .posted →
       (∀ st, firstChecks s m = some st → exec c s = .next (finish m st (mbTaken m s)))
       ∧ (firstChecks s m = none → fetches → allLost s = false → exec c s =
         .next (hostRead (mbPayOff x) (min (mbPayLen x) 1984) (.payload m) (await m .payload (mbTaken m s))))
       ∧ (firstChecks s m = none → fetches → allLost s = true → exec c s =
         .next (finish m stIntegrity (setMb m { mbRunning s m with bad := true } (mbTaken m s))))
       ∧ (firstChecks s m = none → ¬ fetches → argsOk s.cfg op m x = false → exec c s = .next (finish m stBadArg (mbTaken m s)))
       ∧ (firstChecks s m = none → ¬ fetches → argsOk s.cfg op m x = true → classBusy s op m = true →
         exec c s = .next (finish m stBusy (mbTaken m s)))
       ∧ (mbRunning s m).busy = classBusy s op m)
     ∧ (mbReady m s = true → mbOp x = op → x.state = .running →
       (x.bad = true → exec c s = .next (finish m stIntegrity s))
       ∧ (x.bad = false → argsOk s.cfg op m x = false → exec c s = .next (finish m stBadArg s))
       ∧ (x.bad = false → argsOk s.cfg op m x = true → x.busy = true → exec c s = .next (finish m stBusy s))))
  ∧ (∀ (m : Nat) (s : State),
       (mbReady m s = true → (mbOf s m).state = .posted → cmdClass (mbOp (mbOf s m)) = none →
         exec (.undefinedOpcode (.mailbox m)) s = .next (finish m
           (if 8 ≤ m ∧ mbField (mbOf s m) 60 4 ≠ crc32c (getBytes (mbOf s m).bytes 0 60) then stIntegrity else stBadOpcode)
           (mbTaken m s)))
       ∧ (s.rgn.job = none → exec (.undefinedOpcode .register) s = .next (finishRgn .register stBadOpcode 0 s))
       ∧ (∀ j, s.rgn.job = some j →
         exec (.undefinedOpcode .register) s = .next { s with rgn := { s.rgn with refused := true } }))

/-- A doorbell makes an IDLE mailbox POSTED and is misuse in any other state (ERR and 0x0A05); an acknowledgement makes a DONE one
IDLE; over I3C the two are the register at offset 4096, request bytes land in IDLE and DONE alone, and a private read returns the
mailbox's bytes from the last offset on, or its state at 4096 (R357, R359). A POSTED or RUNNING command whose time limit passes
completes with TIMEOUT, recorded 0x0A03 with its opcode and mailbox, and what it was doing ends as R363 says; a command without a
limit has none. A region command on RGN_CMD has 60 s (R261, R363). Which mailboxes have a limit, what each leaves behind and where a
private read begins are the model's choices (log entries 93, 92). -/
def Obligations.MailboxDoorbellsAndTimeouts : Prop :=
  (∀ (m : Nat) (s : State),
     (boxOpen s m = true →
       ((mbOf s m).state = .idle → exec (.mailboxDoorbell m) s =
         .next (setMb m { mbOf s m with state := .posted, posted := s.now, wait := .nothing, bad := false } s))
       ∧ ((mbOf s m).state ≠ .idle → exec (.mailboxDoorbell m) s =
         .next (raise 0x0A05 noSubject [] (setMb m { mbOf s m with err := true } s)))
       ∧ ((mbOf s m).state = .done → exec (.mailboxAck m) s = .next (setMb m { mbOf s m with state := .idle } s))
       ∧ ((mbOf s m).state ≠ .done → exec (.mailboxAck m) s = .next s))
     ∧ (boxOpen s m = false → exec (.mailboxDoorbell m) s = .next s ∧ exec (.mailboxAck m) s = .next s)
     ∧ (boxOpen s 8 = true →
       let u := { s with hbr := { s.hbr with i3cOff := 4096 } }
       exec (.i3cPrivateWrite [0x00, 0x10, 0x01]) s = .next (ringBell 8 u)
       ∧ exec (.i3cPrivateWrite [0x00, 0x10, 0x02]) s = .next (ackBox 8 u)
       ∧ (∀ bs : List Byte, bs.length < 2 → exec (.i3cPrivateWrite bs) s = .next (raise 0x0A05 noSubject [] s))
       ∧ (∀ (lo hi b : Byte), lo.toNat + 256 * hi.toNat < 4096 → (mbOf s 8).state = .idle ∨ (mbOf s 8).state = .done →
         exec (.i3cPrivateWrite [lo, hi, b]) s = .next (setMb 8
           { mbOf s 8 with bytes := setBytes (mbOf s 8).bytes (lo.toNat + 256 * hi.toNat) [b] }
           { s with hbr := { s.hbr with i3cOff := lo.toNat + 256 * hi.toNat } }))
       ∧ (∀ (lo hi : Byte) (bs : List Byte), lo.toNat + 256 * hi.toNat + bs.length ≤ 4096 →
         (mbOf s 8).state = .posted ∨ (mbOf s 8).state = .running →
         exec (.i3cPrivateWrite (lo :: hi :: bs)) s =
           .next { s with hbr := { s.hbr with i3cOff := lo.toNat + 256 * hi.toNat } })
       ∧ (∀ off n, Memory.wf (mbOf s 8).bytes = true → off + n ≤ 4096 →
         i3cRead { s with hbr := { s.hbr with i3cOff := off } } n = getBytes (mbOf s 8).bytes off n)
       ∧ i3cRead { s with hbr := { s.hbr with i3cOff := 4096 } } 2 = [BitVec.ofNat 8 (mbStateCode (mbOf s 8).state), 0]
       ∧ (∀ a, s.hbr.i3cAddr = none →
         exec (.entdaa a) s = .next { s with hbr := { s.hbr with i3cAddr := some a } }
         ∧ exec (.setdasa (8 + s.pwr.slotId.toNat) a) s = .next { s with hbr := { s.hbr with i3cAddr := some a } }
         ∧ ∀ t, t ≠ 8 + s.pwr.slotId.toNat → exec (.setdasa t a) s = .next s)
       ∧ (∀ a b t, s.hbr.i3cAddr = some b → exec (.entdaa a) s = .next s ∧ exec (.setdasa t a) s = .next s)))
  ∧ (∀ (m : Nat) (s : State), m < 16 →
       (∀ d, (mbOf s m).state = .posted ∨ (mbOf s m).state = .running → timeLimit (mbOf s m) = some d → (∀ j, s.rgn.job = some j → j.via ≠ .mailbox m) →
         exec (.commandTimeout (.mailbox m)) s = .next (finish m stTimeout (abandon m (mbOf s m).wait
           (raise 0x0A03 noSubject [(1, mbOp (mbOf s m)), (1, m)] (passNow ((mbOf s m).posted + d) s)))))
       ∧ ((mbOf s m).state = .idle ∨ (mbOf s m).state = .done ∨ timeLimit (mbOf s m) = none →
         exec (.commandTimeout (.mailbox m)) s = .next s)
       ∧ (∀ j, s.rgn.job = some j → j.via = .register → j.op ≠ 7 →
         exec (.commandTimeout .register) s = .next (afterPage (finishRgn .register stTimeout 0
           (raise 0x0A03 noSubject [(1, j.op + 0x3F), (1, 0xFF)] (passNow (j.start + 60 * second) s))))))

/-! ### The Harbour controller's commands (R366 to R374) -/

/-- GET_INFO, GET_STATE, GET_CERT and REC_READ answer with what R366, R436 and R420 name, and change nothing but their mailbox;
HEALTH_CONFIG sets the fields of HLT_CTRL that R383 and R394 use. ATTEST without an identity fails with INTEGRITY; at offset 0 it
forms a report of 5267 bytes whose first 640 are Table 16.2's and keeps it, signed with a value that the spec leaves open; at
another offset it returns a slice of the last report (R437). GET_CERT at or after the chain's end returns no bytes (the model's
choice, log entry 88). -/
def Obligations.InformationAndAttestation : Prop :=
  (∀ (m : Nat) (x : Mailbox) (s u : State),
     (Entered 0x01 m s x u →
       (mbArg x 0 = 0 → exec (.getInfo m) s =
         .next (complete m stOk [codeOf u.cfg, u.flash.serial, u.zng.peerId.toNat, u.zng.feed.toNat] [] u))
       ∧ (mbArg x 0 = 1 → exec (.getInfo m) s =
         .next (complete m stOk [look 0 u.sec.version 1, look 0 u.sec.version 2, rollbackWord u % 65536, 0x0100] [] u))
       ∧ (mbArg x 0 = 2 → ∃ spares homes, exec (.getInfo m) s =
         .next (complete m stOk [u.isl.slots.length, spares, homes] [] u)))
     ∧ (Entered 0x02 m s x u → exec (.getState m) s = .next (complete m stOk
         [modeCode u.mode + 2 ^ 8 * u.hbr.stage,
          functionIds.foldl (fun a f => a + funcCode (funcOf u f) * 4 ^ f) 0,
          u.xng.tick.toNat, u.xng.index.toNat] [] u))
     ∧ (Entered 0x79 m s x u → exec (.getCert m) s =
         .next (complete m stOk [u.flash.cert.length] ((u.flash.cert.drop (mbArg x 0)).take 1984) u))
     ∧ (Entered 0x70 m s x u → exec (.recRead m) s =
         .next (complete m stOk [] ((List.range (mbArg x 1)).flatMap fun i => recSlot u (mbArg x 0 + i)) u))
     ∧ (Entered 0x64 m s x u → exec (.healthConfig m) s = .next (finish m stOk { u with hlt := { u.hlt with
         secureAt := BitVec.ofNat 8 (mbArg x 0), mode := mbArg x 1 == 1, windowH := BitVec.ofNat 10 (mbArg x 2) } })))
  ∧ (∀ (m : Nat) (x : Mailbox) (s u : State), Entered 0x78 m s x u →
       (u.sec.identity = false → exec (.attest m) s = .next (finish m stIntegrity u))
       ∧ (u.sec.identity = true → mbArg x 0 ≠ 0 →
         let r := look [] u.sec.reports m
         exec (.attest m) s = .next (
           if r.length ≤ mbArg x 0 then finish m stBadArg u
           else complete m stOk [r.length] ((r.drop (mbArg x 0)).take 1984) u))
       ∧ (u.sec.identity = true → mbArg x 0 = 0 → (∀ i, u.ttu.slotA.image = some i → i.digest.length = 64) →
         (∀ i, u.ttu.slotB.image = some i → i.digest.length = 64) →
         ∃ t r, exec (.attest m) s = .next (complete m stOk [5267] (r.take 1984) t)
           ∧ r.length = 5267 ∧ r.take 640 = reportBody u (mbPayload x) ∧ look [] t.sec.reports m = r
           ∧ t.hbr = u.hbr ∧ t.mem = u.mem ∧ t.log = u.log ∧ t.xng = u.xng ∧ t.flash = u.flash))

/-- CONFIG_SET stores a key where PERSIST asks for it and applies it while the window is open; CONFIG_DONE closes the window and
ends stage 4; FW_WRITE writes the staging area; FW_COMMIT checks a staged image by R426 and writes its body into the idle bank of
its kind, and at its second command, when the write is over, the header too, makes the bank preferred and answers, or fails where the
bank does not read back; ROLLBACK_RAISED raises a counter of 255 fuses to the running SVN (R367, R377, R433, R434). The cut of
FW_COMMIT in two commands is the model's choice (log entry 87). -/
def Obligations.ConfigurationAndFirmware : Prop :=
  ∀ (m : Nat) (x : Mailbox) (s u : State),
    (Entered 0x03 m s x u →
      let key := mbArg x 0
      let value := mbArg x 1
      let stored := if mbArg x 2 = 1 then { u with flash := { u.flash with config := put 0 key (value + 1) u.flash.config } } else u
      exec (.configSet m) s = .next (finish m stOk (raise 0x0A04 noSubject []
        (if u.hbr.window = true ∧ key ≠ 4 then
          { stored with hbr := { stored.hbr with config := put 0 key (value + 1) stored.hbr.config } } else stored))))
    ∧ (Entered 0x04 m s x u → exec (.configDone m) s =
        .next (finish m stOk { u with hbr := { u.hbr with window := false, stage := 5 } }))
    ∧ (Entered 0x7A m s x u → exec (.fwWrite m) s = .next (
        if 33554432 < mbArg x 0 + mbPayLen x then finish m stBadArg u
        else finish m stOk { u with flash := { u.flash with staging := setBytes u.flash.staging (mbArg x 0) (mbPayload x) } }))
    ∧ (∀ flashBad, Entered 0x7B m s x u →
        let kind := mbArg x 0
        let b := commitBank u kind
        let n := imgBody (getBytes u.flash.staging 0 8192)
        let bank (img : SMap Byte) (prefer : SMap (Option Bool)) : State :=
          { u with flash := { u.flash with banks := put [] (2 * kind + b2n b) img u.flash.banks, prefer := prefer } }
        (x.wait ≠ .commit →
          (∀ r, imageFail u kind u.flash.staging = some r → exec (.fwCommit m flashBad) s =
            .next (finish m (if r = 1 ∨ r = 6 then stBadArg else if r = 4 then stDenied else stIntegrity)
              (raise 0x0D06 kind [(1, r)] u)))
          ∧ (imageFail u kind u.flash.staging = none → exec (.fwCommit m flashBad) s =
            .next (await m .commit (bank (setBytes [] 8192 (getBytes u.flash.staging 8192 n)) u.flash.prefer))))
        ∧ (x.wait = .commit →
          exec (.fwCommit m true) s = .next (finish m stIntegrity (raise 0x0D06 kind [(1, 5)] u))
          ∧ exec (.fwCommit m false) s = .next (finish m stOk (raise 0x0D05 kind [(1, b2n b)]
            (bank (setBytes [] 0 (getBytes u.flash.staging 0 (8192 + n))) (put none kind (some b) u.flash.prefer))))))
    ∧ (∀ kind, kind = 1 ∨ kind = 2 → s.hbr.stage = 8 → exec (.rollbackRaised kind) s = .next (
        if look 0 s.flash.rollback kind < min 255 (look 0 s.sec.svn kind) then
          raise 0x0D04 kind [] { s with flash := { s.flash with
            rollback := put 0 kind (min 255 (look 0 s.sec.svn kind)) s.flash.rollback } }
        else s))

/-- SHUTDOWN stops every function and waits for HALTED; RESET answers and returns the module to BOOT; a start moves a STOPPED
function to STARTING, and is refused with STATE in RUNNING and BUSY between; a stop completes at once in STOPPED and otherwise
with the function, the timetable unit's (function 0) by entering STOPPING and the exchange unit's (function 2) only where the
timetable unit is STOPPED (R371, R372, R373). Functions 1 to 3 leave STARTING for RUNNING, which completes their starts; a function leaves
STOPPING for STOPPED, which completes every stop of it at that moment, a port that still carries traffic once it has given that
up; MODULE_HALTED drains memory and enters HALTED once SHUTDOWN has stopped every function, or an emergency securing has ended
(R350, R371, R372, R373, R397). That a port stops as R350 says, with FUNCTION_STOPPED, is the model's choice (log entry 34). -/
def Obligations.Functions : Prop :=
  (∀ (m : Nat) (x : Mailbox) (s u : State),
     (Entered 0x05 m s x u → exec (.shutdown m) s =
         .next (stopFunctions { await m .halt u with hbr := { (await m .halt u).hbr with pwrStop := true } }))
     ∧ (Entered 0x06 m s x u → exec (.reset m) s = .next (reboot (finish m stOk u)))
     ∧ (Entered 0x10 m s x u →
       let f := mbArg x 0
       (funcOf u f = .running → exec (.funcStart m) s = .next (finish m stState u))
       ∧ (funcOf u f = .starting ∨ funcOf u f = .stopping → exec (.funcStart m) s = .next (finish m stBusy u))
       ∧ (funcOf u f = .stopped → f < 8 → exec (.funcStart m) s = .next (setFunc f .starting (await m (.start f) u)))
       ∧ (funcOf u f = .stopped → 8 ≤ f →
         let v := setFunc f .starting (await m (.start f) u)
         exec (.funcStart m) s = .next (setPort (f - 8) { portOf v (f - 8) with
           phase := if u.zng.portEn.getLsbD (f - 8) then .detect else .down, attempts := 0, fails := 0 } v)))
     ∧ (Entered 0x11 m s x u →
       let f := mbArg x 0
       (f = 2 → u.ttu.func ≠ .stopped → exec (.funcStop m) s = .next (finish m stState u))
       ∧ ((f = 2 → u.ttu.func = .stopped) → funcOf u f = .stopped → exec (.funcStop m) s = .next (finish m stOk u))
       ∧ (f = 0 → u.ttu.func ≠ .stopped → exec (.funcStop m) s = .next (enterStopping (await m (.stop 0) u)))
       ∧ (f = 1 ∨ f = 2 ∨ f = 3 → (f = 2 → u.ttu.func = .stopped) → funcOf u f = .running → exec (.funcStop m) s =
         .next (setFunc f .stopping (await m (.stop f) u)))
       ∧ (f = 1 ∨ f = 2 ∨ f = 3 → (f = 2 → u.ttu.func = .stopped) → funcOf u f = .stopping → exec (.funcStop m) s =
         .next (await m (.stop f) u))
       ∧ (f = 1 ∨ f = 2 ∨ f = 3 → (f = 2 → u.ttu.func = .stopped) → funcOf u f = .starting → exec (.funcStop m) s =
         .next (finishAll (.start f) stState (setFunc f .stopping (await m (.stop f) u))))
       ∧ (8 ≤ f → funcOf u f = .running ∨ funcOf u f = .starting →
         exec (.funcStop m) s = .next (losePort (f - 8) true (await m (.stop f) u)))))
  ∧ (∀ (s : State),
       (∀ f, f = 1 ∨ f = 2 → funcOf s f = .starting →
         exec (.functionRunning f) s = .next (finishAll (.start f) stOk (setFunc f .running s)))
       ∧ (funcOf s 3 = .starting → exec (.functionRunning 3) s =
         .next (finishAll (.start 3) stOk (startReader (setFunc 3 .running s))))
       ∧ (∀ f, f = 0 ∨ 4 ≤ f ∨ funcOf s f ≠ .starting → exec (.functionRunning f) s = .next s)
       ∧ (∀ f, f = 2 ∨ f = 3 → funcOf s f = .stopping →
         exec (.functionStopped f) s = .next (finishAll (.stop f) stOk (setFunc f .stopped s)))
       ∧ (funcOf s 1 = .stopping → (∀ q ∈ s.fry.queues, q.2.inProgress = []) →
         (∀ p ∈ s.zng.ports, ∀ w ∈ p.2.queues, ∀ c ∈ w.2.cmds, c.op = 1 ∨ c.op = 2 → c.begun = true → c.status ≠ none) →
         exec (.functionStopped 1) s = .next (finishAll (.stop 1) stOk (setFunc 1 .stopped s)))
       ∧ (∀ p < 8, funcOf s (8 + p) = .stopping →
         let v := setFunc (8 + p) .stopped (if portCarries s p then losePort p true s else s)
         exec (.functionStopped (8 + p)) s = .next (finishAll (.stop (8 + p)) stOk
           (setPort p { portOf v p with phase := .down } v)))
       ∧ (s.mode = .halted → exec .moduleHalted s = .next s)
       ∧ (s.mode ≠ .halted → s.hbr.pwrStop = true → (∀ f ∈ functionIds, funcOf s f = .stopped) →
         let u := drainAll { s with hbr := { s.hbr with pwrStop := false }, flash := { s.flash with minutes := s.log.minutes } }
         exec .moduleHalted s = .next (finishAll .halt stOk (setMode .halted u)))
       ∧ (s.mode = .securing → s.hlt.emergency = true → s.hlt.securing = none → s.ttu.func = .stopped → s.hbr.pwrStop = false →
         exec .moduleHalted s = .next (finishAll .halt stOk (setMode .halted (drainAll s))))
       ∧ (s.mode ≠ .securing → s.hbr.pwrStop = false → exec .moduleHalted s = .next s))

/-- HOST_REGISTER takes a run of the host window that overlaps no other under a free index, and HOST_RELEASE gives up one that
nothing uses; PLACE_REGISTER gives a PLACE region a handle and PLACE_RELEASE starts the FLUSH that withdraws it; QUEUE_CONFIG
binds a window queue whose HEAD equals TAIL to a ring in a host region; MARGIN queues a scan (R242, R338, R358, R369). The BAD_ARG
of an index that is not registered or a region without PLACE, and the check of every queue's ring, are the model's choices (log
entry 94). -/
def Obligations.RegistrationCommands : Prop :=
  ∀ (m : Nat) (x : Mailbox) (s u : State),
    (Entered 0x49 m s x u →
      ((∃ h ∈ hostRegions u, overlaps (mbArg x 0) (mbArg x 1) h.1 h.2 = true) →
        exec (.hostRegister m) s = .next (finish m stBadArg u))
      ∧ ((∀ h ∈ hostRegions u, overlaps (mbArg x 0) (mbArg x 1) h.1 h.2 = false) →
        ((∃ k < 64, look none u.zng.hosts k = none) → ∃ k < 64, look none u.zng.hosts k = none
          ∧ exec (.hostRegister m) s = .next (complete m stOk [k] []
            { drawn u with zng := { u.zng with hosts := put none k (some (mbArg x 0, mbArg x 1)) u.zng.hosts } }))
        ∧ ((∀ k < 64, look none u.zng.hosts k ≠ none) → exec (.hostRegister m) s = .next (finish m stNoResource u))))
    ∧ (Entered 0x4A m s x u → ∀ r, look none u.zng.hosts (mbArg x 0) = some r →
      exec (.hostRelease m) s = .next (if hostUsed u r.1 r.2 then finish m stState u
        else finish m stOk { u with zng := { u.zng with hosts := put none (mbArg x 0) none u.zng.hosts } }))
    ∧ (Entered 0x4B m s x u → ∀ r, regionAt u (mbArg x 0) (mbArg x 1) = some r →
      let want := mbArg x 2 % 4096
      (r.flags.testBit 2 = false → exec (.placeRegister m) s = .next (finish m stBadArg u))
      ∧ (∀ h, r.flags.testBit 2 = true → look none u.zng.handles h = none → h < 4096 →
        ((mbArg x 2).testBit 16 = true ∧ h = want
          ∨ (mbArg x 2).testBit 16 = false ∧ ∀ j < h, look none u.zng.handles j ≠ none) →
        exec (.placeRegister m) s = .next (complete m stOk [h] []
          { u with zng := { u.zng with handles := put none h (some ⟨mbArg x 0, r.base, r.bytes⟩) u.zng.handles } }))
      ∧ (r.flags.testBit 2 = true → (mbArg x 2).testBit 16 = true → look none u.zng.handles want ≠ none →
        exec (.placeRegister m) s = .next (finish m stNoResource u)))
    ∧ (Entered 0x4C m s x u →
      (look none u.zng.handles (mbArg x 0) = none → exec (.placeRelease m) s = .next (finish m stBadArg u))
      ∧ (look none u.zng.handles (mbArg x 0) ≠ none → exec (.placeRelease m) s =
        .next (startFlush (.release m (mbArg x 0)) (await m (.release (mbArg x 0)) u))))
    ∧ (Entered 0x4D m s x u →
      let p := bits (mbArg x 0) 2 0
      let q := bits (mbArg x 0) 10 8
      let w := winQ u p q
      let registered := inHostRegion u (hostBase + mbArg x 2) (if q = 0 then 2 ^ 17 else 4096)
      (registered = false → exec (.queueConfig m) s = .next (finish m stBadArg u))
      ∧ (registered = true → w.head ≠ w.tail → exec (.queueConfig m) s = .next (finish m stBusy u))
      ∧ (q = 0 → registered = true → w.head = w.tail →
        exec (.queueConfig m) s = .next (finish m stOk (setWinQ p q { w with ring := mbArg x 2 } u)))
      ∧ (q ≠ 0 → registered = true → w.head = w.tail → exec (.queueConfig m) s = .next (finish m stOk
        (setWinQ p q { w with configured := true, context := mbArg x 1, ring := mbArg x 2 } u))))
    ∧ (Entered 0x50 m s x u →
      (u.mode ≠ .train → spareTaken u (mbArg x 0) (mbArg x 1) = true →
        exec (.margin m) s = .next (finish m stNoResource u))
      ∧ (u.mode = .train ∨ spareTaken u (mbArg x 0) (mbArg x 1) = false →
        let v := await m .margin u
        exec (.margin m) s = .next (nextScan { v with mem := { v.mem with
          scans := u.mem.scans ++ [⟨mbArg x 0, mbArg x 2, mbArg x 1, m⟩] } })))

/-- GROUP_FORM and GROUP_JOIN take the group's fields and make the module JOINING, and the lead of a formation probes every other
rank; GROUP_ADMIT measures the tree anew, the joiner with it; GROUP_LEAVE makes a member LEAVING or names the tick of the lead's
dissolution, which ends every change announced; GROUP_WINDOW and XNG_PERIOD are judged by R37 and R21, with the size of the tick
at which they take effect; each is refused in a role that may not issue it (R21, R37, R44, R45, R368). The window that a joiner
takes is a free value (log entry 148); that every member takes the window from GROUP_FORM and the lead alone judges it, and how a
lead measures and announces, are the model's choices (log entries 53, 56). -/
def Obligations.GroupCommands : Prop :=
  ∀ (m : Nat) (x : Mailbox) (s u : State),
    let a0 := mbArg x 0
    let a1 := mbArg x 1
    let size := bits a0 25 16 + 1
    let rank := bits a0 41 32
    let lead := bits a0 57 48
    (Entered 0x30 m s x u →
      (u.xng.role ≠ .solo → exec (.groupForm m) s = .next (finish m stState u))
      ∧ (u.xng.role = .solo → size ≤ rank → exec (.groupForm m) s = .next (finish m stBadArg u))
      ∧ (u.xng.role = .solo → rank < size → rank = lead → windowFits (mbArg x 2) 0 u.xng.current.toNat size = false →
        exec (.groupForm m) s = .next (finish m stBadArg { u with xng := { u.xng with badWindow := true } }))
      ∧ (u.xng.role = .solo → rank < size → 64 < size → u.xng.current.toNat < 200000 →
        (rank = lead → windowFits (mbArg x 2) 0 u.xng.current.toNat size = true) →
        exec (.groupForm m) s = .next (finish m stNoResource u))
      ∧ (u.xng.role = .solo → rank < size → (size ≤ 64 ∨ 200000 ≤ u.xng.current.toNat) → rank ≠ lead →
        let v := await m .form (takeGroup a0 a1 (size - 1) u)
        exec (.groupForm m) s = .next { v with xng := { v.xng with window := BitVec.ofNat 26 (mbArg x 2) } })
      ∧ (u.xng.role = .solo → rank < size → (size ≤ 64 ∨ 200000 ≤ u.xng.current.toNat) → rank = lead →
        windowFits (mbArg x 2) 0 u.xng.current.toNat size = true →
        let v := await m .form (takeGroup a0 a1 (size - 1) u)
        exec (.groupForm m) s = .next (((List.range size).filter (· != rank)).foldl (fun s r => emitProbe false r 0 s)
          { v with xng := { v.xng with window := BitVec.ofNat 26 (mbArg x 2) } })))
    ∧ (Entered 0x31 m s x u →
      (u.xng.role ≠ .solo → exec (.groupJoin m) s = .next (finish m stState u))
      ∧ (u.xng.role = .solo → let v := takeGroup a0 a1 u.xng.sizeM1.toNat u
        exec (.groupJoin m) s = .next (await m .join { drawn v with xng := { v.xng with
          onTicks := 0, window := BitVec.ofNat 26 (Config.freeValue v.freeCtr) } })))
    ∧ (Entered 0x32 m s x u →
      (u.xng.role ≠ .lead → exec (.groupAdmit m) s = .next (finish m stState u))
      ∧ (u.xng.role = .lead →
        let v := await m (.admitting a0 a1) u
        exec (.groupAdmit m) s = .next ((probedRanks v).foldl (fun s r => emitProbe false r 0 s)
          { v with xng := { v.xng with latencies := [] } })))
    ∧ (Entered 0x33 m s x u →
      (u.xng.role = .solo ∨ u.ttu.func ≠ .stopped → exec (.groupLeave m) s = .next (finish m stState u))
      ∧ (u.xng.role = .lead → u.ttu.func = .stopped → exec (.groupLeave m) s =
        .next (await m .leave { u with xng := { u.xng with
          dissolveAt := some (u.xng.tick.toNat + 8), joins := [], sizeNext := none } }))
      ∧ (u.xng.role = .member → u.ttu.func = .stopped → ∃ d : Decision, d.members =
          [{ join := false, rank := u.xng.rank.toNat, tick := 0, peer := u.zng.peerId.toNat }] ∧ d.dissolve = none ∧
        exec (.groupLeave m) s = .next (emitDecision d (await m .leave { u with xng := { u.xng with role := .leaving } }))))
    ∧ (Entered 0x34 m s x u →
      (u.xng.role ≠ .lead → exec (.groupWindow m) s = .next (finish m stState u))
      ∧ (u.xng.role = .lead → windowOk a0 u.xng.rttMax.toNat u.xng.current.toNat (u.xng.sizeM1.toNat + 1) = true →
        exec (.groupWindow m) s = .next (finish m stOk { u with xng := { u.xng with window := BitVec.ofNat 26 a0 } }))
      ∧ (u.xng.role = .lead → windowOk a0 u.xng.rttMax.toNat u.xng.current.toNat (u.xng.sizeM1.toNat + 1) = false →
        exec (.groupWindow m) s = .next (finish m stBadArg { u with xng := { u.xng with badWindow := true } })))
    ∧ (Entered 0x25 m s x u →
      (u.xng.role ≠ .solo → u.xng.role ≠ .lead → exec (.xngPeriod m) s = .next (finish m stState u))
      ∧ (u.xng.role = .solo → 8000 ≤ a0 → a0 ≤ 40000000 → u.xng.tick.toNat + 2 ≤ a1 →
        exec (.xngPeriod m) s = .next (finish m stOk { u with xng := { u.xng with
          next := BitVec.ofNat 26 a0, applyAt := BitVec.ofNat 64 a1, armed := some (a0, a1), period := none } }))
      ∧ (u.xng.role = .solo → (a0 < 8000 ∨ 40000000 < a0 ∨ a1 < u.xng.tick.toNat + 2) →
        exec (.xngPeriod m) s = .next (finish m stBadArg { u with xng := { u.xng with badPeriod := true } }))
      ∧ (u.xng.role = .lead → 8000 ≤ a0 → a0 ≤ 40000000 → u.xng.tick.toNat + 8 ≤ a1 →
        windowOk u.xng.window.toNat u.xng.rttMax.toNat a0 (sizeAt a1 u) = true →
        exec (.xngPeriod m) s = .next (finish m stOk { u with xng := { u.xng with
          next := BitVec.ofNat 26 a0, applyAt := BitVec.ofNat 64 a1, armed := some (a0, a1), period := some (a0, a1) } })))

/-! ### Bring-up and power (R377, R428 to R457) -/

/-- Stages 0 and 1: a Harbour image that passes ends stage 0, and none enters FAILED with the mask ROM serving; FLASH_READ loads
the straps, the latched cause and the co-fed mark, enters TRAIN, starts the enabled ports and opens the recorder's queue (R377,
R428, R429, R442). Stages 2 to 4: stage 2 ends once every strait lane has a lane and every enabled port is ACTIVE or LOST, fails where a
lane has no spare left, and needs a mainland image that passed; stage 3 retires channels, each of which gives its slot to the
lowest spare of its home, and sets TRAINED; the window closes when CONFIG_HOLD expires (R246, R367, R377, R430). Stages 6 to 8: an islet that fails its test is fenced and the mainland body is
checked in memory; CLOCK_START sets XNG_CYCLE and XNG_TICK to 0 and enters READY, or DEGRADED below the full P; a stage over its
limit enters FAILED with 0x0A02 (R17, R164, R377, R431). Where TRAIN is entered, that stage 3 runs beside stage 2, and the record of
a failed stage are the model's choices (log entry 89). -/
def Obligations.BringUpStages : Prop :=
  (∀ (s : State), s.mode = .boot → s.pwr.good = true →
     (s.hbr.stage = 0 → (∃ b, runningBank (bootCheck s) 1 = some b) →
       exec .harbourFirmwareStart s = .next { bootCheck s with hbr := { (bootCheck s).hbr with stage := 1 } })
     ∧ (s.hbr.stage = 0 → runningBank (bootCheck s) 1 = none → ∃ t, exec .harbourFirmwareStart s = .next t
       ∧ t.log.held = false ∧ t.hbr.stage = 0 ∧ t.mode = .failed ∧ romAnswers t = true
       ∧ ∀ m, harbourServes t m = (m == 8))
     ∧ (∀ (feed : BitVec 12) (slot : BitVec 5), s.hbr.stage = 1 → ∃ t, exec (.flashRead feed slot) s = .next t
       ∧ t.hbr.stage = 2 ∧ t.mode = .train ∧ t.log.held = false ∧ t.zng.feed = feed.setWidth 16 ∧ t.pwr.feedId = feed
       ∧ t.pwr.slotId = slot ∧ t.pwr.lastOff = s.pwr.latch ∧ t.hlt.cofed = s.flash.cofed ∧ t.flash = s.flash
       ∧ ∀ p < 8, (portOf t p).phase = if t.zng.portEn.getLsbD p then .detect else (portOf s p).phase))
  ∧ (∀ (s : State), s.mode = .train → s.hbr.pwrStop = false →
       (s.hbr.stage = 2 → portsTrained s = true → (∃ b, runningBank s 2 = some b) →
         exec (.straitTraining []) s = .next (if s.hbr.lpddr then openWindow s
           else { s with hbr := { s.hbr with stage := 3 } }))
       ∧ (∀ t, s.hbr.stage = 2 → portsTrained s = true → (∃ b, runningBank s 2 = some b) → spareUser s t = none →
         let u := raise 0x060B t [] { s with mem := { s.mem with straitSpared := s.mem.straitSpared ++ [t] } }
         exec (.straitTraining [t]) s = .next (if u.hbr.lpddr then openWindow u else { u with hbr := { u.hbr with stage := 3 } }))
       ∧ (s.hbr.stage = 2 → portsTrained s = true → runningBank s 2 = none →
         let u := if s.hbr.lpddr then openWindow s else { s with hbr := { s.hbr with stage := 3 } }
         exec (.straitTraining []) s = .next (failModule 5 (raise 0x0A02 noSubject [(1, 2)] (raise 0x0D03 2 []
           { u with hbr := { u.hbr with window := false } }))))
       ∧ (s.hbr.stage = 2 → portsTrained s = false → ∀ bad, exec (.straitTraining bad) s = .next s)
       ∧ (∀ t u, s.hbr.stage = 2 → portsTrained s = true → spareUser s t = some u → u ≠ t →
         exec (.straitTraining [t]) s = .next (failModule 3 (raise 0x0A02 noSubject [(1, 2)] s)))
       ∧ (∀ bad scans, s.hbr.stage = 2 ∨ s.hbr.stage = 3 → s.hbr.lpddr = false → retiresAt s bad scans = [] →
         ∃ t, exec (.lpddrTraining bad scans) s = .next t ∧ t.mem.trained = true ∧ t.hbr.lpddr = true
           ∧ t.hbr.stage = (if s.hbr.stage = 3 then 4 else 2) ∧ t.hbr.window = (s.hbr.stage == 3 || s.hbr.window)
           ∧ t.mem.cells = s.mem.cells ∧ t.log = s.log)
       ∧ (∀ bad scans, s.hbr.stage = 2 ∨ s.hbr.stage = 3 → s.hbr.lpddr = false →
         let u := (retiresAt s bad scans).foldl (fun s k => if s.mode = .train then retireChan k s else s) s
         (u.mode ≠ .train → exec (.lpddrTraining bad scans) s = .next (raise 0x0A02 noSubject [(1, 3)] u))
         ∧ (u.mode = .train → ∃ t, exec (.lpddrTraining bad scans) s = .next t ∧ t.mem.trained = true ∧ t.hbr.lpddr = true
           ∧ t.log = u.log ∧ t.mem.homeFail = u.mem.homeFail
           ∧ ∀ k, (chan t k).state = (chan u k).state ∧ (chan t k).slot = (chan u k).slot))
       ∧ (∀ k p, (chan s k).state = .active ∨ (chan s k).state = .retirePending ∨ (chan s k).state = .lost →
         spareChan s (k / 256) = some p →
         retireChan k s = raise 0x0604 k [] (setChan (k / 256 * 256 + p)
           { chan s (k / 256 * 256 + p) with state := .active, slot := (chan s k).slot }
           (setChan k { chan s k with state := .retired, slot := 0x7F } s)))
       ∧ (s.hbr.lpddr = true → ∀ bad scans, exec (.lpddrTraining bad scans) s = .next s)
       ∧ (s.hbr.stage = 4 → s.hbr.window = true → ∃ t, exec .configHoldExpired s = .next t
         ∧ t.hbr.window = false ∧ t.hbr.stage = 5 ∧ t.now = max s.now (s.hbr.openAt + configValue s 3 * (second / 1000))))
  ∧ (∀ (s : State), s.hbr.pwrStop = false →
       (s.mode = .train → s.hbr.stage = 6 → (loadMainland s).2 = true → ∀ bad,
         let u := (replaceFaulted (bad.foldl (fun s n => failIslet n s) (loadMainland s).1)).1
         exec (.isletTest bad) s = .next { u with hbr := { u.hbr with stage := 7 } })
       ∧ (s.mode = .train → s.hbr.stage = 6 → (loadMainland s).2 = false → ∀ bad,
         exec (.isletTest bad) s = .next (failModule 4 (raise 0x0A02 noSubject [(1, 6)] (raise 0x0D07 2 [] (loadMainland s).1))))
       ∧ (s.mode = .train → s.hbr.stage = 7 → ∃ t, exec .clockStart s = .next t
         ∧ t.xng.running = true ∧ t.xng.cycle = 0 ∧ t.xng.tick = 0 ∧ t.xng.tickCycle = 0 ∧ t.hbr.stage = 8
         ∧ t.mode = (if s.isl.slots.length < fullP s.cfg then .degraded
             else if s.ttu.func = .stopped then .ready else .run)
         ∧ t.mem = s.mem ∧ t.isl = s.isl ∧ t.flash = s.flash)
       ∧ (s.mode = .train → s.pwr.good = true → ∀ k, k < 8 → k ≠ 4 → k ≠ 0 → s.hbr.stage = k →
         exec (.bringupFailed k) s = .next (failModule 3 (raise 0x0A02 noSubject [(1, k)] s)))
       ∧ (s.mode ≠ .boot → s.mode ≠ .train → ∀ k, exec (.bringupFailed k) s = .next s))

/-- The input switch: closed by PWR_EN_N or at the turn-on threshold, opened with its cause latched by POWER_DOWN, a step over its
limit (6) or a trip (3 to 7); a controlled power-down drains write combining first; every rail good is PWR_GOOD and counts a power
cycle; opening it loses everything but what persists, and cuts short the record that is being written and the counter that is
being raised (R237, R378, R417, R418, R433, R441, R442, R444, R445, R446). How far a cut goes is a free value (log entries 5, 154),
and a trip shorter than its monitor's filter does nothing (Table 17.2; log entry 102). -/
def Obligations.InputSwitch : Prop :=
  ∀ (s : State),
    (∀ us, 1000 ≤ us →
      exec (.pwrEnNAsserted us true) s = .next { s with pwr := if s.pwr.closed then { s.pwr with enable := true }
        else { s.pwr with enable := true, closed := true, good := false, step := 0 } }
      ∧ exec (.pwrEnNAsserted us false) s = .next { s with pwr := { s.pwr with enable := true } })
    ∧ (∀ us above, us < 1000 → exec (.pwrEnNAsserted us above) s =
      .next (if s.pwr.good then raise 0x0A06 noSubject [] s else s))
    ∧ (exec .turnOnThreshold s = .next (if s.pwr.enable = true ∧ s.pwr.closed = false then
        { s with pwr := { s.pwr with closed := true, good := false, step := 0 } } else s))
    ∧ (∀ us, 1000 ≤ us → s.pwr.closed = true → s.pwr.down = false → s.pwr.downWait = false →
      exec (.pwrEnNDeasserted us) s = .next (
        if s.mode = .securing ∧ s.hlt.emergency = true then
          { s with pwr := { s.pwr with enable := false, downWait := true, downAt := s.now, downCause := 2 } }
        else { (if s.pwr.good then drainAll s else s) with pwr := { s.pwr with
          enable := false, down := true
          downCause := if s.mode = .halted ∨ s.mode = .failed ∨ s.pwr.good = false then 1 else 2 } }))
    ∧ (s.pwr.closed = true → s.pwr.good = false → s.pwr.step < 5 →
      exec .railStep s = .next { s with pwr := { s.pwr with step := s.pwr.step + 1 } })
    ∧ (s.pwr.closed = true → s.pwr.good = false → s.pwr.step = 5 → exec .railStep s = .next { s with
        pwr := { s.pwr with step := 6, good := true }
        log := { s.log with powers := s.log.powers + 1, minutes := s.flash.minutes, minuteAt := s.now } })
    ∧ (s.pwr.down = false → s.pwr.downWait = false → exec .powerDown s = .next s)
    ∧ (∀ c : Instr, ∀ cause < 8,
      (c = .powerDown ∧ s.pwr.down = true ∧ cause = s.pwr.downCause.toNat
        ∨ c = .powerDown ∧ s.pwr.down = false ∧ s.pwr.downWait = true ∧ cause = s.pwr.downCause.toNat
        ∨ c = .railStepTimeout ∧ s.pwr.closed = true ∧ s.pwr.good = false ∧ cause = 6
        ∨ (∃ us, c = .hardTrip ⟨cause, us⟩ ∧ tripFilter cause ≤ us) ∧ s.pwr.closed = true ∧ 3 ≤ cause) →
      ∃ t, exec c s = .next t ∧ t.pwr.closed = false ∧ t.pwr.good = false ∧ t.pwr.step = 0
        ∧ t.pwr.latch = BitVec.ofNat 3 cause ∧ t.pwr.down = false ∧ t.mode = .boot
        ∧ t.flash = { s.flash with rollback := t.flash.rollback }
        ∧ (∀ k, look 0 s.flash.rollback k ≤ look 0 t.flash.rollback k
          ∧ (s.pwr.good = false ∨ fusesDue s k = false → look 0 t.flash.rollback k = look 0 s.flash.rollback k)
          ∧ (fusesDue s k = true → look 0 t.flash.rollback k ≤ fuseGoal s k))
        ∧ (∀ k, look [] t.log.mram k = look [] s.log.mram k ∨ s.pwr.good = true ∧ s.log.held = false
          ∧ slotValid (look [] t.log.mram k) = false ∧ ∃ r rest, s.log.queue = r :: rest ∧ k = (placeRecord r s.log).2)
        ∧ t.mem.cells = [] ∧ t.isl.store = [] ∧ t.xng = {} ∧ t.ttu = {} ∧ t.harts = [] ∧ t.snd = {} ∧ t.log.queue = [])
    ∧ (∀ cause us, s.pwr.closed = false ∨ cause < 3 ∨ 7 < cause ∨ us < tripFilter cause → exec (.hardTrip ⟨cause, us⟩) s = .next s)
    ∧ tripFilter 3 = 50 ∧ tripFilter 4 = 10 ∧ tripFilter 5 = 20 ∧ tripFilter 6 = 10 ∧ tripFilter 7 = 100

/-- Samples and their responses: a current or power at its limit gates issue and 0x0C02 is recorded where no gating was, and a
sample within both ends it; a fitted rail that leaves ±5 % sets its warning bit; the coolant conditions and a changed feed strap
are recorded (R443, R445, R450, R454). TEMP_SAMPLE takes the hottest fitted die, sets HOT from 100 °C and gates from 105 °C until
it falls below 103 °C, and feeds TEMP of the risk estimate: (T − 90 °C) × 4 within 0 to 64 (R381, R449). That a limit is reached at
its value, which gating is recorded, the rounding of TEMP and the dies of an SK3-2A are the model's choices (log entry 101). -/
def Obligations.LimitsAndTemperatures : Prop :=
  (∀ (s : State), s.pwr.good = true →
     (∀ (vin iin : BitVec 12) (w : BitVec 16),
       let u := { s with pwr := { s.pwr with vin := vin, iin := iin, pin := w } }
       let on := { u with pwr := { u.pwr with limI := true } }
       (iin < s.pwr.iLimit → w < s.pwr.pLimit →
         exec (.powerLimiting vin iin w) s = .next u
         ∧ exec (.gatingReleased vin iin w) s = .next { u with pwr := { u.pwr with limI := false } })
       ∧ (s.pwr.iLimit ≤ iin ∨ s.pwr.pLimit ≤ w →
         exec (.gatingReleased vin iin w) s = .next u
         ∧ (s.pwr.limI = true ∨ s.pwr.limT = true → exec (.powerLimiting vin iin w) s = .next on)
         ∧ (s.pwr.limI = false → s.pwr.limT = false → exec (.powerLimiting vin iin w) s =
           .next (raise 0x0C02 (if s.pwr.iLimit ≤ iin then 0 else 1) [] on))))
     ∧ (∀ rail us, 10 ≤ us → (railsFitted s.cfg).testBit rail = true → exec (.regulatorWarning rail us) s =
         .next (raise 0x0C03 rail [] { s with pwr := { s.pwr with
           railWarn := s.pwr.railWarn ||| BitVec.ofNat 12 (2 ^ rail), railOut := put 0 rail (s.now + 1) s.pwr.railOut } }))
     ∧ (∀ rail us, us < 10 ∨ (railsFitted s.cfg).testBit rail = false → exec (.regulatorWarning rail us) s = .next s)
     ∧ (∀ (ci co : BitVec 16), exec (.coolantWarning ci co) s = .next (
         if 45 * 16 < ci.toInt ∨ 20 * 16 < co.toInt - ci.toInt then
           raise 0x0C06 noSubject [] { s with pwr := { s.pwr with coolIn := ci, coolOut := co } } else s))
     ∧ (∀ (feed : BitVec 12) (us : Nat), 2 ≤ s.hbr.stage →
       (us < 10000 → exec (.feedIdChanged feed us) s = .next (raise 0x0A06 noSubject [] s))
       ∧ (10000 ≤ us → s.pwr.feedPins ≠ feed → exec (.feedIdChanged feed us) s =
         .next (raise 0x0C09 noSubject [] { s with pwr := { s.pwr with feedPins := feed } }))
       ∧ (10000 ≤ us → s.pwr.feedPins = feed → exec (.feedIdChanged feed us) s = .next s)))
  ∧ (∀ (s : State) (n e so w z : Int) (ci co : BitVec 16), s.pwr.good = true →
       let dies := [z, n, e, so, w]
       let fitted (k : Nat) : Prop := s.cfg = .sk3_2a → k ≠ 2 ∧ k ≠ 4
       (∀ x ∈ dies, -32768 ≤ x) →
       ∃ t d T, exec (.tempSample dies ci co) s = .next t
         ∧ fitted d ∧ dies[d]? = some T ∧ (∀ k x, fitted k → dies[k]? = some x → x ≤ T ∧ (k < d → x < T))
         ∧ t.pwr.hottest = BitVec.ofInt 16 T ∧ t.pwr.hotDie = BitVec.ofNat 3 d ∧ t.pwr.coolIn = ci ∧ t.pwr.coolOut = co
         ∧ t.pwr.limT = (decide (1680 ≤ T) || (s.pwr.limT && decide (1648 ≤ T)))
         ∧ t.pwr.tstate = (if t.pwr.limT then 2 else if 1600 ≤ T then 1 else 0)
         ∧ t.hlt.temp = min 64 (max 0 ((T - 1440) / 4)).toNat
         ∧ t.mode = s.mode ∧ t.mem = s.mem ∧ t.xng = s.xng ∧ t.ttu = s.ttu)

/-- A power warning or a leak, past its filter, is recorded once per source and starts an emergency securing; a shorter pulse is
ignored with 0x0A06, undervoltage's without; the warning holds until its last source deasserts, past the same filter (R364, R382,
R397, R447). What an emergency does: in BOOT or TRAIN the module halts, in HALTED or FAILED nothing, and otherwise it enters
SECURING with emergency set, a securing in progress is abandoned, the unit leaves RUNNING, and it is silent in a group (R397,
R447). Which short pulses are recorded, and what a warning does in HALTED and FAILED, are the model's choices (log entries 102,
85). -/
def Obligations.PowerWarnings : Prop :=
  (∀ (s : State), s.pwr.good = true →
     (∀ us, us < 10 → exec (.powerWarning false us) s = .next (raise 0x0A06 noSubject [] s))
     ∧ (∀ us, us < 20 → exec (.powerWarning true us) s = .next s)
     ∧ (∀ us, 10 ≤ us → s.pwr.warnPin = false → exec (.powerWarning false us) s =
       .next (startEmergency (raise 0x0C01 0 [] { s with pwr := { s.pwr with warnPin := true } })))
     ∧ (∀ us, 20 ≤ us → s.pwr.warnUv = false → exec (.powerWarning true us) s =
       .next (startEmergency (raise 0x0C01 1 [] { s with pwr := { s.pwr with warnUv := true } })))
     ∧ (∀ src us, src < 2 → us < 100000 → exec (.leakDetected src us) s = .next (raise 0x0A06 noSubject [] s))
     ∧ (∀ src us, src < 2 → 100000 ≤ us → s.pwr.leak.getLsbD src = false → exec (.leakDetected src us) s =
       .next (startEmergency (raise 0x0C07 src [] { s with pwr := { s.pwr with leak := s.pwr.leak ||| BitVec.ofNat 2 (2 ^ src) } })))
     ∧ (∀ src us, src < 2 → 100000 ≤ us → s.pwr.leak.getLsbD src = true → exec (.leakDetected src us) s = .next s)
     ∧ (∀ us, us < 10 → exec (.warningSourceDeasserted 0 us) s = .next (raise 0x0A06 noSubject [] s))
     ∧ (∀ us, us < 20 → exec (.warningSourceDeasserted 1 us) s = .next s)
     ∧ (∀ us, us < 100000 → exec (.warningSourceDeasserted 2 us) s = .next (raise 0x0A06 noSubject [] s)
       ∧ exec (.warningSourceDeasserted 3 us) s = .next (raise 0x0A06 noSubject [] s))
     ∧ (∀ (src us : Nat) (p : Power), (src, p) ∈ [(0, { s.pwr with warnPin := false }), (1, { s.pwr with warnUv := false }),
         (2, { s.pwr with leak := s.pwr.leak &&& 2 }), (3, { s.pwr with leak := s.pwr.leak &&& 1 })] → 100000 ≤ us →
       ∃ t, exec (.warningSourceDeasserted src us) s = .next t ∧ t.pwr = p ∧ t.mode = s.mode
         ∧ t.hlt.warning = (s.hlt.warning && (p.warnPin || p.warnUv || p.leak != 0))))
  ∧ (∀ (s t : State) (us : Nat), s.pwr.good = true → 10 ≤ us → s.pwr.warnPin = false → s.hlt.emergency = false →
       exec (.powerWarning false us) s = .next t →
       t.hlt.warning = true ∧ t.pwr.warnPin = true
         ∧ (s.mode = .boot ∨ s.mode = .train → t.mode = .halted)
         ∧ (s.mode = .halted ∨ s.mode = .failed → t.mode = s.mode ∧ t.hlt.emergency = false)
         ∧ (s.mode = .ready ∨ s.mode = .run ∨ s.mode = .degraded ∨ s.mode = .securing →
           t.mode = .securing ∧ t.hlt.emergency = true ∧ t.ttu.func ≠ .running ∧ t.ttu.func ≠ .starting
             ∧ (s.xng.role = .member ∨ s.xng.role = .lead → t.xng.silent = true)))

/-! ### The recorder, register space and survival (R13, R380 to R421) -/

/-- The writer takes the oldest queued record: the first of its code goes to the lowest free slot of the permanent area and every
other to the circular area in turn, with the edge of its class's interrupt source; the reader's ring has it at SEQ mod its size
(R414, R416, R421). A held or empty queue writes nothing; a minute of good power counts one more, stored every sixtieth (R416,
R417). -/
def Obligations.RecordsWritten : Prop :=
  (∀ (s : State) (r : Record) (rest : List Record), s.log.held = false → s.log.refold = false → s.log.queue = r :: rest →
     (∀ n, s.log.newest = some n → n.ev.code ≠ 0x0A07 ∧ n.ev.code ≠ 0x0A08) →
     ∃ t, exec .recordWrite s = .next t
       ∧ (∀ k, s.log.seen.contains r.ev.code = false → freePermanent s.log = some k →
           look [] t.log.mram k = recordBytes true false r ∧ t.log.newestSlot = k ∧ t.log.circ = s.log.circ)
       ∧ (s.log.seen.contains r.ev.code = true ∨ freePermanent s.log = none →
           t.log.circ = (if s.log.circ = 65535 then 1024 else s.log.circ + 1)
             ∧ look [] t.log.mram t.log.circ = recordBytes false false r ∧ t.log.newestSlot = t.log.circ)
       ∧ (s.log.permFull = true → s.log.sinceDrop = 0 → t.log.queue = rest ∧ t.log.nextSeq = s.log.nextSeq)
       ∧ r.ev.code ∈ t.log.seen
       ∧ (s.hbr.reader ≠ .running → t.out = .aplic (r.ev.code / 256) :: s.out ∧ t.mem = s.mem ∧ t.log.ringWp = s.log.ringWp)
       ∧ (s.hbr.reader = .running →
           let a := s.log.ringBase.toNat * 4096 + 64 * (r.seq % 2 ^ 64 % 2 ^ (s.log.ringSize.toNat + 8))
           t.log.ringWp = BitVec.ofNat 64 (max s.log.ringWp.toNat (r.seq % 2 ^ 64 + 1))
             ∧ (backed s.cfg (256 * (a / 256)) = true → (chan s (chanOf s (256 * (a / 256)))).state ≠ .lost →
               (look [] s.mem.wc (chanOf s (256 * (a / 256)))).length < 32 → wcEntry s (a / 256) = none →
               t.out = .aplic (r.ev.code / 256) :: s.out ∧ peek t a 64 = recSlot t t.log.newestSlot)))
  ∧ (∀ (s : State),
       (s.log.held = true ∨ (s.log.queue = [] ∧ s.log.refold = false) → exec .recordWrite s = .next s)
       ∧ (s.pwr.good = true → ∃ t, exec .minuteCount s = .next t ∧ t.log.minutes = s.log.minutes + 1
           ∧ t.log.minuteAt = max s.now (s.log.minuteAt + 60 * second)
           ∧ t.flash.minutes = (if (s.log.minutes + 1).toNat % 60 = 0 then s.log.minutes + 1 else s.flash.minutes)
           ∧ t.log.mram = s.log.mram ∧ t.mem = s.mem ∧ t.mode = s.mode)
       ∧ (s.pwr.good = false → exec .minuteCount s = .next s))

/-- A register written takes its fields by their types: RW fields as written, W1C bits cleared where a 1 is written, W1S set,
locked fields kept while locked, limits within their ranges, and an offset without a register ignored; nothing without power (R13,
R14, R375). That the clear comes first where a field is cleared and set at once, and that HLT_CTRL takes values out of range, are the
model's choices (log entry 103). -/
def Obligations.RegistersWritten : Prop :=
  ∀ (s : State) (v : Word64),
    (s.pwr.good = false → ∀ off, exec (.registerWrite off v) s = .next s)
    ∧ (s.pwr.good = true →
      exec (.registerWrite 0x08 v) s = .next { s with xng := { s.xng with
        badRing := s.xng.badRing && !v.getLsbD 11, leadLost := s.xng.leadLost && !v.getLsbD 10
        groupFault := s.xng.groupFault && !v.getLsbD 9, overrun := s.xng.overrun && !v.getLsbD 8
        badWindow := s.xng.badWindow && !v.getLsbD 7, badPeriod := s.xng.badPeriod && !v.getLsbD 6
        alignErr := s.xng.alignErr && !v.getLsbD 5 } }
      ∧ exec (.registerWrite 0x18 v) s = .next { s with xng := { s.xng with applyAt := v } }
      ∧ exec (.registerWrite 0x28 v) s = .next (if s.xng.role = .solo then { s with xng := { s.xng with
          groupId := v.extractLsb' 32 16, votePort := v.extractLsb' 29 3, altPort := v.extractLsb' 26 3
          sizeM1 := v.extractLsb' 10 10, rank := v.extractLsb' 0 10 } } else s)
      ∧ (∀ off, off = 0x40 ∨ off = 0x48 ∨ off = 0x70 ∨ off = 0xC0000 ∨ off = 0xE0000 ∨ off = 0xFFFF8 →
        exec (.registerWrite off v) s = .next s)
      ∧ exec (.registerWrite 0x20000 v) s = .next { s with isl := { s.isl with scrubEn := v.getLsbD 1, nfTrap := v.getLsbD 0 } }
      ∧ exec (.registerWrite 0x50000 v) s = .next { s with mem := { s.mem with
          ceLimit := v.extractLsb' 16 16, scrubEn := v.getLsbD 0 } }
      ∧ exec (.registerWrite 0x60000 v) s = .next { s with rgn := { s.rgn with
          threshold := v.extractLsb' 24 8, decay := v.extractLsb' 16 4, migEn := v.getLsbD 0 } }
      ∧ (∀ q < 256, exec (.registerWrite (0x30100 + 32 * q) v) s = .next (setFryQ q
          (if (fryQ s q).enable then fryQ s q else { fryQ s q with base := v.extractLsb' 12 36 }) s))
      ∧ (∀ q < 64, exec (.registerWrite (0x40100 + 32 * q) v) s = .next (setLncQ q
          (if (lncQ s q).enable then lncQ s q else { lncQ s q with base := v.extractLsb' 12 36 }) s))
      ∧ (s.snd.lock = true → v.getLsbD 32 = false → exec (.registerWrite 0x70000 v) s = .next s)
      ∧ (s.snd.lock = false → v.getLsbD 32 = false → exec (.registerWrite 0x70000 v) s =
          .next { s with snd := { s.snd with mode := v.getLsbD 16, timeout := v.extractLsb' 0 16 } })
      ∧ exec (.registerWrite 0xA0000 v) s = .next { s with hlt := { s.hlt with
          secureAt := v.extractLsb' 56 8, half := v.extractLsb' 42 6, grain := v.extractLsb' 32 5
          slotLog2 := v.extractLsb' 26 6, windowH := v.extractLsb' 16 10, mode := v.getLsbD 0 } }
      ∧ exec (.registerWrite 0xB0068 v) s = .next (if s.hbr.reader = .stopped then
          { s with log := { s.log with fromSeq := v } } else s)
      ∧ exec (.registerWrite 0xD0008 v) s = .next { s with pwr := { s.pwr with
          pLimit := if 2000 ≤ (v.extractLsb' 32 16).toNat ∧ (v.extractLsb' 32 16).toNat ≤ 5800 then v.extractLsb' 32 16
            else s.pwr.pLimit
          iLimit := if 600 ≤ (v.extractLsb' 16 12).toNat ∧ (v.extractLsb' 16 12).toNat ≤ 1800 then v.extractLsb' 16 12
            else s.pwr.iLimit } })

/-- E halves every 2^HALF cycles; in interval mode a securing is requested I ticks after the previous one's anchor (R381, R394).
SECURE selects the destinations and arms a securing for the next anchor; it needs a running timetable, a pairing where it selects
the partner, and recovery. RESTORE reads its source before any check of the state, and is refused where there is none (R393, R395,
R401). -/
def Obligations.RiskSecuringRestoring : Prop :=
  (∀ (s : State),
     (∃ t, exec .eHalving s = .next t ∧ t.hlt.e64 = s.hlt.e64 / 2
       ∧ t.now = (s.now / 2 ^ s.hlt.half.toNat + 1) * 2 ^ s.hlt.half.toNat ∧ t.hlt.temp = s.hlt.temp
       ∧ t.mode = s.mode ∧ t.mem = s.mem ∧ t.ttu = s.ttu ∧ t.flash = s.flash)
     ∧ (s.hlt.mode = true → s.ttu.func = .running → s.hlt.expired = false →
       s.hlt.lastBind + intervalTicks s ≤ s.xng.tick.toNat →
       exec .intervalExpiry s = .next (requestSecuring (raise 0x0B01 noSubject [(1, 2)]
         { s with hlt := { s.hlt with expired := true } })))
     ∧ (s.hlt.mode = false ∨ s.ttu.func ≠ .running ∨ s.hlt.expired = true ∨ s.xng.tick.toNat < s.hlt.lastBind + intervalTicks s →
       exec .intervalExpiry s = .next s)
     ∧ min (4 * s.hlt.cost.toNat) (2 ^ 32 - 1) ≤ intervalTicks s ∧ intervalTicks s ≤ 2 ^ 32 - 1)
  ∧ (∀ (m : Nat) (x : Mailbox) (s u : State),
       (Entered 0x62 m s x u →
         (u.ttu.func ≠ .running ∨ ((mbArg x 0).testBit 0 = true ∧ u.flash.pairing = none) →
           exec (.secure m) s = .next (finish m stState u))
         ∧ (u.ttu.func = .running → ((mbArg x 0).testBit 0 = true → u.flash.pairing ≠ none) → u.ttu.noRecovery = true →
           exec (.secure m) s = .next (finish m stNoResource u))
         ∧ (u.ttu.func = .running → ((mbArg x 0).testBit 0 = true → u.flash.pairing ≠ none) → u.ttu.noRecovery = false →
           exec (.secure m) s = .next (armSecuring (await m .secure { u with hlt := { u.hlt with
             dest := BitVec.ofNat 2 (mbArg x 0)
             hostOff := if (mbArg x 0).testBit 1 then mbArg x 1 else u.hlt.hostOff, secureEver := true } }))))
       ∧ (Entered 0x63 m s x u →
         let j : Restoring := { mb := m, host := mbArg x 0 == 1, off := mbArg x 1, step := mbArg x 2, cursor := mbPayload x }
         let v := await m .restore { u with hlt := { u.hlt with restoring := some j } }
         let size := 2 ^ u.hlt.slotLog2.toNat
         (mbArg x 0 = 1 → inHostRegion u (hostBase + mbArg x 1) (2 * size) = true → exec (.restore m) s = .next
           (advanceRestore 3 (hostRead (mbArg x 1 + size) 512 .restore (hostRead (mbArg x 1) 512 .restore v))))
         ∧ (mbArg x 0 = 1 → inHostRegion u (hostBase + mbArg x 1) (2 * size) = false →
           exec (.restore m) s = .next (refuseRestore j stNoResource u))
         ∧ (mbArg x 0 = 0 → u.flash.pairing = none → exec (.restore m) s = .next (refuseRestore j stNoResource u))
         ∧ (∀ pr, mbArg x 0 = 0 → u.flash.pairing = some pr → (placed u (pr.mine + 3)).isSome = true →
           exec (.restore m) s = .next
             (peerWrite pr.peer pr.theirs 0 (restoreRequest u (mbArg x 2) (pr.mine + 3)) .restore v))))

/-- PAIR asks the partner for its FEED once the guest area is there, and a FEED that answers it records the pairing with both
feeds, refused with SAME_FEED where the feeds agree or one is unknown and co-feeding was not accepted, and marked co-fed where it
was; from READY on a FEED is answered; UNPAIR clears the pairing; neither runs while a securing writes to the partner (R348, R398,
R399). STANDBY marks a READY solo module whose unit is STOPPED as a hot spare, and TAKEOVER of a spare runs LINKUP again on its
ACTIVE ports, or completes at once where none is; a strait lane that fails takes its strait's spare, and one without drops its
group (R403, R404, R405). That STATE comes before NO_RESOURCE, and what counts as co-fed, are the model's choices (log entry 83). -/
def Obligations.PairingAndSpares : Prop :=
  (∀ (m : Nat) (x : Mailbox) (s u : State),
     (Entered 0x60 m s x u →
       (securingPartner u = true → exec (.pair m) s = .next (finish m stState u))
       ∧ (securingPartner u = false → guestOk u (mbArg x 3) = false → exec (.pair m) s = .next (finish m stNoResource u))
       ∧ (securingPartner u = false → guestOk u (mbArg x 3) = true → exec (.pair m) s = .next (sendKeyed (mbArg x 0) 0
           (feedBytes false (mbArg x 0) u.zng.peerId.toNat u.zng.feed.toNat)
           (await m (.pair (mbArg x 0) (mbArg x 1) (mbArg x 2) (mbArg x 3)) u))))
     ∧ (Entered 0x61 m s x u → exec (.unpair m) s = .next (
         if securingPartner u then finish m stState u
         else finish m stOk { u with flash := { u.flash with pairing := none } }))
     ∧ (∀ dest src feed, s.mode ≠ .boot → s.mode ≠ .train → exec (.feed false dest src feed) s = .next (sendKeyed src 0
         (feedBytes true src s.zng.peerId.toNat s.zng.feed.toNat) s))
     ∧ (∀ dest src feed, s.mode = .boot ∨ s.mode = .train → exec (.feed false dest src feed) s = .next s)
     ∧ (∀ dest src feed cofed theirs mine, m < 16 →
       (∀ k, k < 16 → k ≠ m → (mbOf s k).state ≠ .running ∨ ∀ a b c d, (mbOf s k).wait ≠ .pair a b c d) →
       (mbOf s m).state = .running → (mbOf s m).wait = .pair src cofed theirs mine →
       ((feed = s.zng.feed.toNat ∨ feed = 0 ∨ s.zng.feed.toNat = 0) → cofed = 0 →
         exec (.feed true dest src feed) s = .next (finish m stSameFeed (raise 0x0B08 noSubject [] s)))
       ∧ (feed ≠ s.zng.feed.toNat → feed ≠ 0 → s.zng.feed.toNat ≠ 0 →
         exec (.feed true dest src feed) s = .next (complete m stOk [feed] [] (requestCheck (risk s) (raise 0x0B07 noSubject
           [(1, cofed)] { s with flash := { s.flash with pairing := some { peer := src, feed := feed, theirs := theirs, mine := mine
                                                                           cofed := false, own := s.zng.feed.toNat } } }))))
       ∧ ((feed = s.zng.feed.toNat ∨ feed = 0 ∨ s.zng.feed.toNat = 0) → cofed = 1 →
         exec (.feed true dest src feed) s = .next (complete m stOk [feed] [] (requestCheck (risk s) (raise 0x0B07 noSubject
           [(1, 1)] { s with
             flash := { s.flash with cofed := true, pairing := some { peer := src, feed := feed, theirs := theirs, mine := mine
                                                                      cofed := true, own := s.zng.feed.toNat } }
             hlt := { s.hlt with cofed := true } }))))))
  ∧ (∀ (m : Nat) (x : Mailbox) (s u : State),
       (Entered 0x65 m s x u → exec (.standby m) s = .next (
           if u.mode = .ready ∧ u.xng.role = .solo ∧ u.ttu.func = .stopped then
             finish m stOk { u with hlt := { u.hlt with standby := some (mbArg x 0) } }
           else finish m stState u))
       ∧ (Entered 0x66 m s x u →
         (u.hlt.standby = none → exec (.takeover m) s = .next (finish m stState u))
         ∧ (∀ g, u.hlt.standby = some g → (∀ p < 8, portActive u p = false ∧ (portOf u p).keep = false) →
             (∀ k, k < 16 → k ≠ m → (mbOf u k).state ≠ .running ∨ ∀ a b, (mbOf u k).wait ≠ .takeover a b) →
             let v := await m (.takeover (mbArg x 0) (mbArg x 1)) u
             exec (.takeover m) s = .next (finish m stOk (raise 0x0B0C noSubject [] { v with
               zng := { v.zng with peerId := BitVec.ofNat 32 (mbArg x 1), peerSet := true }
               hlt := { v.hlt with standby := none } })))
         ∧ (∀ g, u.hlt.standby = some g → (∃ p < 8, portActive u p = true) → ∃ t, exec (.takeover m) s = .next t
             ∧ (mbOf t m).state = .running ∧ (mbOf t m).wait = .takeover (mbArg x 0) (mbArg x 1)
             ∧ (∀ p < 8, portActive u p = true → (portOf t p).phase = .linkup ∧ (portOf t p).keep = true)
             ∧ (∀ p < 8, portActive u p = false → portOf t p = portOf u p)
             ∧ t.hlt = u.hlt ∧ t.log = u.log))
       ∧ (∀ k, modeServes s = true → marginTargetOk s.cfg 2 k = true →
         (spareUser s k = none → exec (.straitLaneSpared k) s =
           .next (raise 0x060B k [] { s with mem := { s.mem with straitSpared := s.mem.straitSpared ++ [k] } }))
         ∧ (∀ r, spareUser s k = some r → r ≠ k → k / 32 ∉ s.mem.straitDropped → exec (.straitLaneSpared k) s =
           .next { s with mem := { s.mem with straitDropped := s.mem.straitDropped ++ [k / 32] } })))

/-! ### The Zuong ports and their windows (R318 to R346, R350) -/

/-- Training: DETECT, EQUALISE, ALIGN and LINKUP follow one another; ALIGN moves one bad data lane to the spare and fails with
more, or without a spare; LINKUP needs 64 REQ and 16 CTL credits and the expected peer; a failed attempt or a phase over its limit
goes back, and the third in a row loses the port (R321, R322, R324, R329). An ACTIVE port retrains when it loses codeword lock, is
asked to, or a lane's corrected symbols of one second reach LANE_CE_LIMIT while the spare is free; RETRAIN_DONE brings it back
with 0x0901 and resends what is not acknowledged, the third failure in a row loses it (R325, R327, R352). -/
def Obligations.PortTraining : Prop :=
  (∀ (p : Nat) (s : State),
     let x := portOf s p
     (x.phase = .detect → exec (.detect p) s = .next (setPort p { x with phase := .equalise, present := some true } s))
     ∧ (x.phase = .equalise → exec (.equalise p) s = .next (setPort p { x with phase := .align } s))
     ∧ (∀ bad scans, ∀ l < 4, ∀ k < 4, x.phase = .align → l ≠ k → bad.getLsbD (physLane x l) = true →
       bad.getLsbD (physLane x k) = true → exec (.align p bad scans) s = .next (failAttempt p s))
     ∧ (x.phase ≠ .detect → exec (.detect p) s = .next s) ∧ (x.phase ≠ .equalise → exec (.equalise p) s = .next s)
     ∧ (∀ scans : List (Nat × Nat × Nat × Nat), x.phase = .align →
       (s.mode = .train → ∀ e ∈ scans, 8 ≤ e.1 ∧ 8 ≤ e.2.1 ∧ 3 ≤ e.2.2.1 ∧ 3 ≤ e.2.2.2) →
       (exec (.align p 0 scans) s = .next (setPort p { x with phase := .linkup } s))
       ∧ (∀ l < 4, x.spare = false → (∀ k < 4, physLane x k = k) →
         exec (.align p (BitVec.ofNat 5 (2 ^ l)) scans) s = .next (raise 0x0903 p [] (setPort p { x with
           phase := .linkup, spare := true, failed := x.failed ||| BitVec.ofNat 5 (2 ^ l)
           map := BitVec.ofNat 12 (x.map.toNat - l * 8 ^ l + 4 * 8 ^ l) } s)))
       ∧ (∀ l < 4, x.spare = true → physLane x l < 5 → (∀ k < 4, k ≠ l → physLane x k ≠ physLane x l) →
         exec (.align p (BitVec.ofNat 5 (2 ^ physLane x l)) scans) s = .next (failAttempt p s)))
     ∧ (x.phase = .linkup → x.keep = false → ∀ peer req ctl trip, (req < 64 ∨ ctl < 16) →
       exec (.linkup p peer req ctl trip) s = .next (drainHarts (failAttempt p s)))
     ∧ (x.phase = .linkup → x.keep = false → ∀ peer req ctl trip, 64 ≤ req → 16 ≤ ctl → expectedPeer s = none →
       exec (.linkup p peer req ctl trip) s = .next (drainHarts (endTakeover (portUp p (trip / 2) (some (req, ctl))
         (if s.zng.peerSet then s else { s with zng := { s.zng with peerId := BitVec.ofNat 32 peer, peerSet := true } })))))
     ∧ (x.phase = .linkup → x.keep = false → ∀ peer other req ctl trip, 64 ≤ req → 16 ≤ ctl → expectedPeer s = some other →
       peer ≠ other → exec (.linkup p peer req ctl trip) s = .next (drainHarts (endTakeover (failAttempt p (raise 0x090C p [] s)))))
     ∧ (x.phase = .detect ∨ x.phase = .equalise ∨ x.phase = .align ∨ x.phase = .linkup →
       exec (.trainingTimeout p) s = .next (failAttempt p s))
     ∧ (x.keep = false → x.attempts < 2 → failAttempt p s = setPort p { x with
         attempts := x.attempts + 1, phase := if s.zng.portEn.getLsbD p then .detect else .down } s)
     ∧ (x.keep = false → 2 ≤ x.attempts → failAttempt p s = losePort p false s))
  ∧ (∀ (p : Nat) (s : State),
       let x := portOf s p
       let begins (cause : Nat) (lane : Option Nat) : State :=
         raise 0x0902 p [(1, Config.causeCode 0x0902 cause)] (setPort p { x with
           phase := .retrain, cause := cause, swap := lane, naks := 0
           retrains := if x.retrains = 0xFF then x.retrains else x.retrains + 1 } s)
       (x.phase = .active →
         exec (.codewordLockLost p) s = .next (begins 1 none) ∧ exec (.retrainRequest p) s = .next (begins 2 none)
         ∧ ∀ lane, exec (.laneCeLimit p lane) s = .next (
             if s.zng.laneCe ≠ 0 ∧ s.zng.laneCe.toNat ≤ laneSymbols s p lane ∧ x.spare = false ∧ lane < 5 then begins 3 (some lane) else s))
       ∧ (x.phase ≠ .active → exec (.codewordLockLost p) s = .next s ∧ exec (.retrainRequest p) s = .next s)
       ∧ (x.phase = .retrain → x.swap = none → ∀ peer trip, (∀ e, expectedPeer s = some e → e = peer) →
         exec (.retrainDone p 0 peer trip) s = .next (drainHarts (pumpHost (pump p (resend p (raise 0x0901 p [] (setPort p { x with
           phase := .active, fails := 0, swap := none, latency := BitVec.ofNat 16 (min (trip / 2) 0xFFFF) } s)))))))
       ∧ (x.phase = .retrain → ∀ bad peer trip, selectSpare (bad ||| x.swap.elim 0 fun n => BitVec.ofNat 5 (2 ^ n)) x = none →
         2 ≤ x.fails → exec (.retrainDone p bad peer trip) s = .next (drainHarts (losePort p false s)))
       ∧ (x.phase ≠ .retrain → ∀ bad peer trip, exec (.retrainDone p bad peer trip) s = .next (drainHarts s)))

/-- A DATA flit of the expected SEQ is accepted and its body joins the port's stream, an earlier one is discarded, and one ahead,
or a bad one, is answered by a NAK; a NAK makes the sender resend from ACK + 1 before anything new, the eighth without progress
retrain (R319, R326, R327). What the link side keeps moving: a second NAK 2 µs after the first at the earliest, an ACK every 64
flit times, credits that come back, and a transaction that waits for credits longer than CREDIT_TO, which loses the port (R327,
R329). From which flits ACK is taken and what counts as ahead are the model's choices (log entry 72). -/
def Obligations.FlitsAndCredits : Prop :=
  (∀ (p : Nat) (bytes : List Byte) (corr : List Nat) (uncorr : Nat) (s : State), (portOf s p).phase = .active →
     let c := countFec p corr uncorr s
     let t := takeAck p (flitAck bytes) c
     (flitGood bytes uncorr = false →
       exec (.dataFlit p bytes corr uncorr) s = .next (badFlit p c) ∧ exec (.idleFlit p bytes corr uncorr) s = .next (badFlit p c)
         ∧ exec (.nak p bytes corr uncorr) s = .next (badFlit p c))
     ∧ (flitGood bytes uncorr = true → flitType bytes = 1 →
       (flitSeq bytes = ((portOf t p).ack + 1) % 4096 → exec (.dataFlit p bytes corr uncorr) s =
         .next (drainHarts (takeBody p (slice bytes 4 248) (setPort p { portOf t p with ack := flitSeq bytes, nakAt := none } t))))
       ∧ (∀ d, 1 ≤ d → d < 2048 → flitSeq bytes = ((portOf t p).ack + 1 + d) % 4096 →
         exec (.dataFlit p bytes corr uncorr) s = .next (sendNak p t))
       ∧ (∀ d, 1 ≤ d → d ≤ 2048 → (flitSeq bytes + d) % 4096 = ((portOf t p).ack + 1) % 4096 →
         exec (.dataFlit p bytes corr uncorr) s = .next t))
     ∧ (flitGood bytes uncorr = true → flitType bytes = 0 → exec (.idleFlit p bytes corr uncorr) s = .next t)
     ∧ (flitGood bytes uncorr = true → flitType bytes = 2 →
       let t := dropAck p (flitAck bytes) c
       let n := (portOf t p).naks + 1
       let v := setPort p { portOf t p with naks := n
                                            replays := BitVec.ofNat 32 (min ((portOf t p).replays.toNat + 1) 0xFFFFFFFF) } t
       exec (.nak p bytes corr uncorr) s = .next (if 8 ≤ n then startRetrain p 0 none v else pump p (resend p v))))
  ∧ (∀ (p : Nat) (s : State),
       let x := portOf s p
       (∀ a, x.nakAt = some a → exec (.nakHoldoffExpiry p) s = .next (setPort p { x with nakAt := none } (passNow (a + 2 * micro) s)))
       ∧ (x.nakAt = none → exec (.nakHoldoffExpiry p) s = .next s)
       ∧ (x.phase = .active → exec (.ackFlitInterval p) s = .next { s with
           freeCtr := s.freeCtr + 1, out := .flit p (flitBytes (Config.freeValue s.freeCtr) x.ack 0 []) :: s.out })
       ∧ (x.phase ≠ .active → exec (.ackFlitInterval p) s = .next s ∧ exec (.creditStall p) s = .next s)
       ∧ (x.phase = .active ∨ x.phase = .retrain → ∀ n,
         exec (.crd p 0 n) s = .next (pump p (setPort p { x with creditReq := x.creditReq + n } s))
         ∧ exec (.crd p 2 n) s = .next (pump p (setPort p { x with creditCtl := x.creditCtl + n } s))
         ∧ ∀ k, k ≠ 0 → k ≠ 2 → exec (.crd p k n) s = .next (losePort p false (raise 0x090D p [] s)))
       ∧ (x.phase = .active → ∀ t, starved x = some t → exec (.creditStall p) s =
         .next (losePort p false (raise 0x0905 p [] (passNow (t.since + 4096 * max 1 s.zng.creditTo.toNat) s))))
       ∧ (starved x = none → exec (.creditStall p) s = .next s))

/-- The adapter's signal, or PRSNT_N high on an ACTIVE port, loses the port (R350, R453); its keys, which the next carrying port
takes, come back one by one as their accesses there end, and with the last of them 0x090A is recorded (R342, R350, Table 12.15).
-/
def Obligations.PortsLost : Prop :=
  ∀ (p : Nat) (s : State), p < 8 →
    ((portOf s p).phase ≠ .down → exec (.linkDown p) s = .next (losePort p false s))
    ∧ ((portOf s p).phase = .down ∨ (portOf s p).phase = .lost → exec (.linkDown p) s = .next s)
    ∧ (∀ us, s.pwr.good = true → 1000 ≤ us → ∃ t, exec (.prsntNHigh p us) s = .next t
      ∧ ((portOf s p).phase ≠ .active → t = setPort p { portOf s p with present := some false } s)
      ∧ ((portOf s p).phase = .active → t = losePort p false (setPort p { portOf s p with present := some false } s)))
    ∧ (∀ us, s.pwr.good = true → us < 1000 → exec (.prsntNHigh p us) s = .next (raise 0x0A06 noSubject [] s))
    ∧ ((portOf s p).phase = .active → (portOf s p).away = true → substOf s p = p → exec (.keysReturned p) s =
        .next (drainHarts (pumpHost (raise 0x090A p [] (setPort p { portOf s p with away := false } s)))))
    ∧ ((portOf s p).phase ≠ .active ∨ (portOf s p).away = false ∨ substOf s p ≠ p →
        exec (.keysReturned p) s = .next (drainHarts s))
    ∧ (portCarries s p = true → (∀ r ∈ s.zng.issued, keyOf r % 8 = p → r.port = p ∨ portCarries s r.port = false) → substOf s p = p)
    ∧ (portCarries s p = true → ∀ r ∈ s.zng.issued, keyOf r % 8 = p → r.port ≠ p → portCarries s r.port = true → substOf s p ≠ p)

/-- A window write lands as a whole within one ring area, rings a doorbell where it is the 8 bytes of one, is refused with 0x0907
across or outside the areas, is malformed with a wrong size, and its credits go back (R329); a doorbell moves TAIL forward within
the ring's size and resumes a HALTED queue (R331, R334, R336). The slot at HEAD is read while HEAD differs from TAIL: one whose
SEQ is HEAD and whose CRC matches is taken and HEAD advances, queue 0's as its mailbox's request and doorbell; another is read
again every 250 ns, and the ninth invalid read in all ends with STALE and HALTED (R335, R337, R358). The upper bits of a doorbell, a
write beyond the window and the reserved bytes of a slot are the model's choices (log entry 78). -/
def Obligations.WindowWritesAndSlots : Prop :=
  (∀ (p off : Nat) (data : List Byte) (s : State), portCarries s p = true →
     let n := data.length
     let back (t : State) : State := returnCredits p (some 0) (16 + ceilDiv n 8 * 8) t
     (n = 0 ∨ 1024 < n ∨ n % 4 ≠ 0 ∨ off % 4 ≠ 0 → exec (.winWr p off data) s = .next (back (malformed p s)))
     ∧ (1 ≤ n → n ≤ 1024 → n % 4 = 0 → off % 4 = 0 →
       (0x1000 ≤ off → off + n ≤ 0x2000 → exec (.winWr p off data) s = .next (back (setPort p { portOf s p with
         window := setBytes (portOf s p).window off data } s)))
       ∧ (∀ q, 1 ≤ q → q < 8 → 0x2000 * q ≤ off → off + n ≤ 0x2000 * (q + 1) → exec (.winWr p off data) s =
         .next (back (setPort p { portOf s p with window := setBytes (portOf s p).window off data } s)))
       ∧ (∀ q, q < 8 → off = 8 * q → n = 8 → exec (.winWr p off data) s = exec (.windowDoorbell p q (BitVec.ofNat 64 (leNat data))) s)
       ∧ (0x40 ≤ off → off < 0x1000 → exec (.winWr p off data) s = .next (back (raise 0x0907 p [] s)))
       ∧ (0x10000 ≤ off → exec (.winWr p off data) s = .next (back (raise 0x0907 p [] s)))
       ∧ (off < 0x1000 → 0x1000 < off + n → exec (.winWr p off data) s = .next (back (raise 0x0907 p [] s))))
     ∧ (∀ (q : Nat) (v : Word64), q < 8 →
       let w := winQ s p q
       let new := v.truncate 32
       (w.configured = false ∨ winEntries q < (new - w.head).toNat →
         exec (.windowDoorbell p q v) s = .next (returnCredits p (some 0) 24 (raise 0x0907 p [] s)))
       ∧ (w.configured = true → (new - w.head).toNat ≤ winEntries q → exec (.windowDoorbell p q v) s =
         .next (returnCredits p (some 0) 24 (setWinQ p q { w with
           tail := if (w.tail - w.head).toNat < (new - w.head).toNat then new else w.tail, halted := false } s)))))
  ∧ (∀ (p q : Nat) (s : State), mayRead s p q = true →
       let w := winQ s p q
       let d := getBytes (portOf s p).window (slotOff q w.head.toNat) 64
       let valid : Prop := fld d 4 4 = w.head.toNat ∧ fld d 60 4 = crc32c (d.take 60)
       (w.tries = 0 → (valid → exec (.slotRead p q) s = .next (takeSlot p q d s))
         ∧ (¬ valid → exec (.slotRead p q) s = .next (setWinQ p q { w with tries := 1 } s)))
       ∧ (w.tries ≠ 0 → (valid → exec (.slotReread p q) s = .next (takeSlot p q d (pass 1000 s)))
         ∧ (¬ valid → w.tries < 8 → exec (.slotReread p q) s = .next (setWinQ p q { w with tries := w.tries + 1 } (pass 1000 s)))
         ∧ (¬ valid → 8 ≤ w.tries → exec (.slotReread p q) s = .next (staleSlot p q d (pass 1000 s)))))

/-- PULL and PUSH start in order on an islet's ferry, checked as a COPY of the queue's context, move their bytes, poison with them, once
the source can be read and no channel of theirs makes requests wait, and end with their record once nothing is outstanding, with STATE
where their islet was fenced (the model's choice, log entry 151); NOP ends at once and FLUSH when every port has answered (R335, R338 to R340, R345). A FLUSH sends FLUSH_REQ on
every ACTIVE port, ends when each has answered, and with TIMEOUT after 10 ms; ZNG_FLUSH.START issues one unless one is BUSY
(R345). -/
def Obligations.WindowCommandsAndFlushes : Prop :=
  (∀ (p q seq : Nat) (s : State) (c : WinCmd), winCmd s p q seq = some c →
     let ctxId := (winQ s p q).context
     (c.op = 4 → mayBegin (winQ s p q) c = true → exec (.nop p q seq) s =
       .next (recordArises p q seq stOk (setWinCmd p q seq (fun c => { c with begun := true }) s)))
     ∧ (c.op = 3 → mayBegin (winQ s p q) c = true → exec (.flush p q seq) s =
       .next (startFlush (.command p q seq) (setWinCmd p q seq (fun c => { c with begun := true }) s)))
     ∧ (∀ (i : Instr) (op islet src dst : Nat),
       (i = .pull p q ⟨seq, islet⟩ ∧ op = 1 ∧ src = hostBase + c.arg1 ∧ dst = c.arg0
         ∨ i = .push p q ⟨seq, islet⟩ ∧ op = 2 ∧ src = c.arg0 ∧ dst = hostBase + c.arg1) → c.op = op → c.status = none →
       let use : HostUse := .command p q seq
       (c.begun = false → mayBegin (winQ s p q) c = true → s.fry.func = .running → freeWork s = true →
         mayCheck s ctxId (workWindow p q) = true → (isletOf s islet).state = .active → moveReady s islet = false →
         (rangesVerdict s ctxId [(src, c.arg2, true, false), (dst, c.arg2, false, true)] = .ok →
           exec i s = .next (fetchRun (.command p q seq) (src, c.arg2)
             (checkedAgain ctxId (workWindow p q) (setWinCmd p q seq (fun c => { c with begun := true, islet := islet }) s))))
         ∧ (rangesVerdict s ctxId [(src, c.arg2, true, false), (dst, c.arg2, false, true)] = .bound →
           exec i s = .next (recordArises p q seq stDenied (checkedAgain ctxId (workWindow p q) s)))
         ∧ (∀ g, rangesVerdict s ctxId [(src, c.arg2, true, false), (dst, c.arg2, false, true)] = .fault g →
           exec i s = .next (workFault (workWindow p q) ctxId g s)))
       ∧ (c.begun = true → c.aborted = true → exec i s = .next (recordArises p q seq stState (setBuf use none s)))
       ∧ (c.begun = true → c.aborted = false → c.bytes = 0 → openUses s use = true → exec i s = .next s)
       ∧ (c.begun = true → c.aborted = false → c.bytes = 0 → openUses s use = false →
         (∀ l ∈ linePieces src c.arg2, pieceReady s use l = true) → memWaits s src c.arg2 = false → memWaits s dst c.arg2 = false →
         let r := readRun use (whoFerry c.islet) (src, c.arg2) s
         let v := setWinCmd p q seq (fun c => { c with bytes := c.arg2, bad := !r.2.2.isEmpty }) r.1
         exec i s = .next (settleWin p q seq (setBuf use none
           (poisonRun dst r.2.2 (writeRun use (winQ v p q).context (whoFerry c.islet) dst r.2.1 v)))))
       ∧ (c.begun = true → c.bytes ≠ 0 → openUses s use = false → ferryHeld s ctxId = false →
         let ended := advanceRegion (recordArises p q seq (if c.bad then stIntegrity else stOk) s)
         settleWin p q seq s = ended ∧ (c.aborted = false → exec i s = .next ended))))
  ∧ (∀ (s : State),
       (s.zng.flBusy = true → exec .zngFlushStart s = .next s)
       ∧ (s.zng.flBusy = false → exec .zngFlushStart s =
         .next (startFlush .register { s with zng := { s.zng with flBusy := true } }))
       ∧ (∀ p num (j : FlushJob), (s.zng.flushes.find? fun k => k.num == num) = some j →
         let rest := s.zng.flushes.filter fun k => k.num != j.num
         let u (fs : List FlushJob) : State := { s with zng := { s.zng with flushes := fs } }
         (j.left = [p] → exec (.flushAck p num) s = .next (flushDone { j with left := [] } true 0 (u rest)))
         ∧ (∀ k ∈ j.left, k ≠ p → exec (.flushAck p num) s = .next (u (rest ++ [{ j with left := j.left.filter (· != p) }]))))
       ∧ (∀ num (j : FlushJob), s.zng.flushes = [j] → j.num = num → exec (.flushTimeout num) s =
         .next (flushDone j false (j.left.headD 0) { passNow (j.start + second / 100) s with zng := { s.zng with flushes := [] } }))
       ∧ (∀ (b : FlushBy),
         let n := (s.zng.flushNo + 1) % 2 ^ 32
         let ps := (List.range 8).filter (portActive s)
         let u := ps.foldl (fun s p => sendTxn p 0 (txnHead 0x0A 0 0 16 [(4, 4, n)]) s) { s with zng := { s.zng with flushNo := n } }
         let v (js : List FlushJob) : State := { u with zng := { u.zng with flushes := (u.zng.flushes.filter fun k => k.num != n) ++ js } }
         (ps ≠ [] → startFlush b s = v [⟨n, ps, b, u.now⟩]) ∧ (ps = [] → startFlush b s = flushDone ⟨n, ps, b, u.now⟩ true 0 (v [])))
       ∧ (∀ (j : FlushJob) (port : Nat), j.by_ = .register →
         flushDone j true port s = { s with zng := { s.zng with flBusy := false, flDone := s.zng.flDone + 1 } })
       ∧ (∀ (j : FlushJob) (port p q seq : Nat), j.by_ = .command p q seq →
         flushDone j true port s = recordArises p q seq stOk s
         ∧ flushDone j false port s = recordArises p q seq stTimeout (raise 0x090B port [] s)))

/-- A placement within a registered region whose pages the owner may write lands in memory, answered where it asks, and waits where a
channel of it makes requests wait (R240); one refused
changes no memory, is recorded 0x0908, with R260's record where a page refuses it, and is answered with its status; the credits of
either go back (R329, R331, R343). A read completion takes its part of the access of its port and tag, and a line or a hart is
answered with the last part, poisoned with 0x0909 on an error; a write acknowledgement ends its access, and 0x0909 records the
error of a host write; one that names no access outstanding ends nothing (R341, R346, R352). What waits of the harts goes on after
either (R283). What a refused placement writes, how a mailbox's response is acknowledged, and reads that no port carries are the
model's choices (log entries 82, 112, 136). -/
def Obligations.PlacementsAndAccessEnds : Prop :=
  (∀ (p h tag off : Nat) (ack : Bool) (data : List Byte) (s : State), portCarries s p = true →
     let back (t : State) : State := returnCredits p (some 0) (16 + ceilDiv data.length 8 * 8) t
     (data = [] ∨ 1024 < data.length → exec (.place p h tag off ack none data) s = .next (back (malformed p s)))
     ∧ (∀ r, data ≠ [] → data.length ≤ 1024 → look none s.zng.handles h = some r → off + data.length ≤ r.bytes →
       placeRefused s r off data.length = none →
       (∀ pr, s.flash.pairing = some pr → h ≠ pr.mine ∧ h ≠ pr.mine + 3) →
       (memWaits s (r.base + off) data.length = true → ∀ bad, exec (.place p h tag off ack bad data) s = .next (back { s with
         zng := { s.zng with placing := s.zng.placing ++ [⟨p, h, tag, off, ack, bad, data⟩] } }))
       ∧ (memWaits s (r.base + off) data.length = false →
       let u := writeMem (whoPlace p) (r.base + off) data s
       let spoilt (i : Nat) : State :=
         let a := r.base + off + i
         if backed u.cfg a = true ∧ (chan u (chanOf u a)).state ≠ .lost then parityEvent (blockOf a) (poisonBlock (blockOf a) u) else u
       exec (.place p h tag off true none data) s = .next (back (placeRsp p h tag 0 u))
       ∧ exec (.place p h tag off false none data) s = .next (back u)
       ∧ ∀ i, exec (.place p h tag off true (some i) data) s = .next (back (placeRsp p h tag 0 (spoilt i)))
         ∧ exec (.place p h tag off false (some i) data) s = .next (back (spoilt i))))
     ∧ (∀ r pg, data ≠ [] → data.length ≤ 1024 → look none s.zng.handles h = some r → off + data.length ≤ r.bytes →
       placeRefused s r off data.length = some pg → exec (.place p h tag off ack none data) s = .next (back (placeRsp p h tag 3
         (raise 0x0908 p [] (if r.owner < 65536 then
           refusePage r.owner (max (pg * 2 ^ 21) (r.base + off)) (pageCheck s r.owner pg true == .locked) s else s)))))
     ∧ (data ≠ [] → data.length ≤ 1024 → look none s.zng.handles h = none →
       exec (.place p h tag off ack none data) s = .next (back (placeRsp p h tag 1 (raise 0x0908 p [] s))))
     ∧ (∀ r, data ≠ [] → data.length ≤ 1024 → look none s.zng.handles h = some r → r.bytes < off + data.length →
       exec (.place p h tag off ack none data) s = .next (back (placeRsp p h tag 2 (raise 0x0908 p [] s)))))
  ∧ (∀ (p tag status : Nat) (s : State),
       (issuedAt s p tag false = none → ∀ off data, exec (.rdCpl p tag status off data) s = .next (drainHarts s))
       ∧ (issuedAt s p tag true = none → exec (.wrAck p tag status) s = .next (drainHarts s))
       ∧ (∀ (r : HostReq) (off : Nat) (bs : List Byte), issuedAt s p tag false = some r → wholeRead r.use = true →
         off + bs.length ≤ r.len → r.got + bs.length < r.len →
         let part := { r with got := r.got + bs.length, came := r.came ++ [(off, bs.length)], parts := setBytes r.parts off bs }
         exec (.rdCpl p tag 0 off bs) s = .next (drainHarts (afterAccess { s with zng := { s.zng with
           issued := s.zng.issued.map fun x => if x = r then part else x } })))
       ∧ (∀ (r : HostReq) (bs : List Byte), issuedAt s p tag false = some r → r.got = 0 → r.parts = [] → r.bad = false →
         bs.length = r.len → bs ≠ [] →
         let u := { s with zng := { s.zng with issued := dropFirst r s.zng.issued } }
         let ends (t : State) : Prop := exec (.rdCpl p tag status 0 bs) s = .next (drainHarts (afterAccess t))
         (status = 0 → ∀ who a, r.use = .line who a → ends (emit (.line who a bs false) u))
         ∧ (status ≠ 0 → ∀ who a, r.use = .line who a → ends (emit (.line who a bs true) (raise 0x0909 r.port [] u)))
         ∧ (status = 0 → ∀ h cx a va, r.use = .hart h cx a va → ends (emit (.loaded h a bs) u))
         ∧ (status ≠ 0 → ∀ h cx a va, r.use = .hart h cx a va →
           let acc : CAccess := { hart := h, ctx := cx, addr := a, write := none, size := bs.length, va := va }
           ends (hartFault acc 3 (raise 0x0909 r.port [] u))))
       ∧ (∀ (r : HostReq), issuedAt s p tag true = some r →
         let u := { s with zng := { s.zng with issued := dropFirst r s.zng.issued } }
         (status = 0 → exec (.wrAck p tag status) s = .next (drainHarts (afterAccess (afterWrite r.use true u))))
         ∧ (status ≠ 0 → r.peer = none →
           exec (.wrAck p tag status) s = .next (drainHarts (afterAccess (afterWrite r.use false (raise 0x0909 p [] u)))))
         ∧ (status ≠ 0 → r.peer ≠ none →
           exec (.wrAck p tag status) s = .next (drainHarts (afterAccess (afterWrite r.use false u)))))
       ∧ (∀ m, afterWrite (.response m true) true s = (if (mbField (mbOf s m) 2 1).testBit 0 then
           match portOfHome s (m % 8) with
           | some k => hostIrqOn k 1 (mbSeq (mbOf s m)) (ackBox m s)
           | none => emit (.hostIrq 1 (mbSeq (mbOf s m))) (ackBox m s)
         else ackBox m s)))

/-! ### The block, its queue and its invariant -/

/-- A step runs the command at the front of the queue with the queue's rest. -/
def Obligations.StepRunsFrontCommand : Prop :=
  ∀ (c : Instr) (rest : List Instr) (s : State),
    step { s with pending := c :: rest } = exec c { s with pending := rest }

/-- On an empty queue one arithmetic cycle passes and nothing else happens: XNG_CYCLE and, while it counts, XNG_TT_TIME advance by
one where the clock runs (R17, R47; that the idle block steps so is the model's choice, assumption log 6). -/
def Obligations.EmptyQueueIdles : Prop :=
  ∀ s : State, s.pending = [] →
    step s = .next { s with
      now := s.now + 1
      xng := { s.xng with
        cycle := if s.xng.running then s.xng.cycle + 1 else s.xng.cycle
        ttTime := if s.xng.running && s.xng.ttRunning then s.xng.ttTime + 1 else s.xng.ttTime } }

/-- No command is refused and none stops the block: every command, in every state, answers a next state. -/
def Obligations.EveryCommandAnswers : Prop :=
  ∀ (c : Instr) (s : State), ∃ t, exec c s = .next t

/-- What every step keeps, whatever the command and the state: the byte memories stay canonical, and the ordering code, the fuses'
secret, the serial number and the rest of the queue stay as they were, while no anti-rollback counter falls (R1, R425, R433). -/
def Obligations.StepKeepsInvariant : Prop :=
  ∀ s t : State, canonical s = true → step s = .next t →
    canonical t = true ∧ t.cfg = s.cfg ∧ t.pending = s.pending.tail ∧ t.flash.uds = s.flash.uds
      ∧ t.flash.serial = s.flash.serial ∧ ∀ k, look 0 s.flash.rollback k ≤ look 0 t.flash.rollback k

/-- Right after reset the module is in BOOT, its clock stands, every function is STOPPED, the invariant holds, and every register
here reads the reset value that its table gives it (Tables 1.6 to 1.15, 5.9, 8.5, 9.7, 11.6, 12.10, 14.7, 17.10); that the module
is an SK3-4A that is whole is the model's choice (assumption log 1). -/
def Obligations.ResetState : Prop :=
  canonical State.reset = true ∧ State.reset.pending = [] ∧ State.reset.mode = .boot ∧ State.reset.xng.running = false
    ∧ (∀ f ∈ functionIds, funcOf State.reset f = .stopped)
    ∧ ∀ off v : Nat, (off, v) ∈ [(0x00, 0), (0x08, 0), (0x10, 0x00009C4000009C40), (0x18, 0), (0x20, 0), (0x28, 0), (0x30, 0),
        (0x38, 0), (0x40, 0), (0x48, 0), (0x20000, 2), (0x50000, 0x01000001), (0x60000, 0x400C0001), (0x70000, 0x2626),
        (0x80000, 0x2626100000FF), (0xA0000, 0x8000A80CA0A80000), (0xD0008, 0x16A807080000)] →
      readReg State.reset off = BitVec.ofNat 64 v

/-- Every lane instruction is what its word spells, and a word spells an instruction only if it is that instruction's word: the
operands of every instruction survive encoding and decoding, and no bit of a word is dropped (R177, R178, Tables 6.2 and 6.3). -/
def Obligations.LaneWordsRoundTrip : Prop :=
  (∀ (i : Instr) (v : Nat), laneWord i = some v → laneUnused i = true → v < 2 ^ 32 ∧ ∃ w, laneOfWord w v = some i)
    ∧ ∀ (w : LaneWho) (v : Nat) (i : Instr), v < 2 ^ 32 → laneOfWord w v = some i →
        laneWord i = some v ∧ laneUnused i = true
end

