-- ==== Sys2Proof/Laws/State.lean ====
section
/-! SUPPORT. What the plain updates of State leave alone, field by field; and what a sparse array holds after an entry of it is
set. -/

namespace Sys2Proof.Machine

/-! ### Sparse arrays -/

/-- An entry taken away reads as the default, and every other as before. -/
theorem look_without {α : Type} (e : α) (k j : Nat) (m : SMap α) :
    look e (m.filter fun p => p.1 != k) j = if j = k then e else look e m j := by
  induction m with
  | nil => simp [look]
  | cons p r ih =>
    obtain ⟨i, x⟩ := p
    by_cases hi : i = k
    · subst hi
      simp only [List.filter_cons, bne_self_eq_false, Bool.false_eq_true, if_false, ih, look]
      split_ifs <;> first | rfl | omega
    · have h : (i != k) = true := by simpa using hi
      simp only [List.filter_cons, h, if_true, look, ih]
      split_ifs <;> first | rfl | omega

/-- Setting one entry leaves every other entry alone, whatever an unlisted one reads as. -/
theorem look_put_other {α : Type} [DecidableEq α] (e d v : α) (k j : Nat) (m : SMap α) (h : j ≠ k) :
    look e (put d k v m) j = look e m j := by
  induction m with
  | nil => unfold put; split_ifs <;> simp only [look] <;> split_ifs <;> first | rfl | omega
  | cons p r ih =>
    obtain ⟨i, x⟩ := p
    unfold put
    by_cases hi : i = k
    · rw [if_pos hi, ih, look, if_neg (by omega)]
    · rw [if_neg hi]
      split_ifs <;> simp only [look, look_without, ih] <;> split_ifs <;> first | rfl | omega

/-- The entry set is the one that is read. -/
theorem look_put_same {α : Type} [DecidableEq α] (d v : α) (k : Nat) (m : SMap α) : look d (put d k v m) k = v := by
  induction m with
  | nil => unfold put; split_ifs with h <;> simp [look, h]
  | cons p r ih =>
    obtain ⟨i, x⟩ := p
    unfold put
    by_cases hi : i = k
    · rw [if_pos hi, ih]
    · rw [if_neg hi]
      split_ifs with h1 h2 <;> simp only [look, look_without, ih, if_neg hi, if_true]
      exact h2.symm

/-- What a sparse array reads after an entry is set. -/
theorem look_put {α : Type} [DecidableEq α] (d v : α) (k j : Nat) (m : SMap α) :
    look d (put d k v m) j = if j = k then v else look d m j := by
  by_cases h : j = k
  · rw [if_pos h, h, look_put_same]
  · rw [if_neg h, look_put_other _ _ _ _ _ _ h]

/-- An entry set to what is not the default. -/
theorem look_put_ne {α : Type} [DecidableEq α] (d v : α) (_ : v ≠ d) (k j : Nat) (m : SMap α) :
    look d (put d k v m) j = if j = k then v else look d m j := look_put d v k j m

/-- An array without an entry of the key, in which it is set twice. -/
theorem put_without {α : Type} [DecidableEq α] (d v : α) (hv : v ≠ d) (k : Nat) (m : SMap α) (h : ∀ p ∈ m, p.1 ≠ k) :
    put d k v (put d k v m) = put d k v m := by
  induction m with
  | nil => simp [put, hv]
  | cons p r ih =>
    obtain ⟨i, x⟩ := p
    have hi : i ≠ k := h (i, x) (by simp)
    have hr : ∀ p ∈ r, p.1 ≠ k := fun p hp => h p (by simp [hp])
    have hf : r.filter (fun p => p.1 != k) = r := List.filter_eq_self.2 fun p hp => by simpa using hr p hp
    by_cases h1 : k < i
    · simp [put, hv, hi, h1, hf]
    · simp [put, hv, hi, h1, ih hr]

/-- Setting an entry twice to the same value is setting it once. -/
theorem put_put {α : Type} [DecidableEq α] (d v : α) (hv : v ≠ d) (k : Nat) (m : SMap α) :
    put d k v (put d k v m) = put d k v m := by
  have h : put d k v m = put d k v (m.filter fun p => p.1 != k) := by
    induction m with
    | nil => rfl
    | cons p r ih =>
      obtain ⟨i, x⟩ := p
      by_cases hi : i = k
      · simp [put, hi, ih]
      · have hb : (i != k) = true := by simpa using hi
        by_cases h1 : k < i
        · simp [put, hi, h1, List.filter_cons]
        · simp [put, hi, h1, List.filter_cons, ih]
  rw [h]
  exact put_without d v hv k _ fun p hp => by simpa using (List.mem_filter.1 hp).2

/-! ### emit -/
@[simp] theorem emit_cfg (o : Out) (s : State) : (emit o s).cfg = s.cfg := rfl
@[simp] theorem emit_now (o : Out) (s : State) : (emit o s).now = s.now := rfl
@[simp] theorem emit_xng (o : Out) (s : State) : (emit o s).xng = s.xng := rfl
@[simp] theorem emit_ttu (o : Out) (s : State) : (emit o s).ttu = s.ttu := rfl
@[simp] theorem emit_isl (o : Out) (s : State) : (emit o s).isl = s.isl := rfl
@[simp] theorem emit_fry (o : Out) (s : State) : (emit o s).fry = s.fry := rfl
@[simp] theorem emit_lnc (o : Out) (s : State) : (emit o s).lnc = s.lnc := rfl
@[simp] theorem emit_mem (o : Out) (s : State) : (emit o s).mem = s.mem := rfl
@[simp] theorem emit_rgn (o : Out) (s : State) : (emit o s).rgn = s.rgn := rfl
@[simp] theorem emit_log (o : Out) (s : State) : (emit o s).log = s.log := rfl
@[simp] theorem emit_harts (o : Out) (s : State) : (emit o s).harts = s.harts := rfl
@[simp] theorem emit_snd (o : Out) (s : State) : (emit o s).snd = s.snd := rfl
@[simp] theorem emit_zng (o : Out) (s : State) : (emit o s).zng = s.zng := rfl
@[simp] theorem emit_hbr (o : Out) (s : State) : (emit o s).hbr = s.hbr := rfl
@[simp] theorem emit_hlt (o : Out) (s : State) : (emit o s).hlt = s.hlt := rfl
@[simp] theorem emit_sec (o : Out) (s : State) : (emit o s).sec = s.sec := rfl
@[simp] theorem emit_pwr (o : Out) (s : State) : (emit o s).pwr = s.pwr := rfl
@[simp] theorem emit_flash (o : Out) (s : State) : (emit o s).flash = s.flash := rfl
@[simp] theorem emit_mode (o : Out) (s : State) : (emit o s).mode = s.mode := rfl
@[simp] theorem emit_freeCtr (o : Out) (s : State) : (emit o s).freeCtr = s.freeCtr := rfl
@[simp] theorem emit_pending (o : Out) (s : State) : (emit o s).pending = s.pending := rfl

/-! ### setPort -/
@[simp] theorem setPort_cfg (p : Nat) (x : Port) (s : State) : (setPort p x s).cfg = s.cfg := rfl
@[simp] theorem setPort_now (p : Nat) (x : Port) (s : State) : (setPort p x s).now = s.now := rfl
@[simp] theorem setPort_xng (p : Nat) (x : Port) (s : State) : (setPort p x s).xng = s.xng := rfl
@[simp] theorem setPort_ttu (p : Nat) (x : Port) (s : State) : (setPort p x s).ttu = s.ttu := rfl
@[simp] theorem setPort_isl (p : Nat) (x : Port) (s : State) : (setPort p x s).isl = s.isl := rfl
@[simp] theorem setPort_fry (p : Nat) (x : Port) (s : State) : (setPort p x s).fry = s.fry := rfl
@[simp] theorem setPort_lnc (p : Nat) (x : Port) (s : State) : (setPort p x s).lnc = s.lnc := rfl
@[simp] theorem setPort_mem (p : Nat) (x : Port) (s : State) : (setPort p x s).mem = s.mem := rfl
@[simp] theorem setPort_rgn (p : Nat) (x : Port) (s : State) : (setPort p x s).rgn = s.rgn := rfl
@[simp] theorem setPort_log (p : Nat) (x : Port) (s : State) : (setPort p x s).log = s.log := rfl
@[simp] theorem setPort_harts (p : Nat) (x : Port) (s : State) : (setPort p x s).harts = s.harts := rfl
@[simp] theorem setPort_snd (p : Nat) (x : Port) (s : State) : (setPort p x s).snd = s.snd := rfl
@[simp] theorem setPort_hbr (p : Nat) (x : Port) (s : State) : (setPort p x s).hbr = s.hbr := rfl
@[simp] theorem setPort_hlt (p : Nat) (x : Port) (s : State) : (setPort p x s).hlt = s.hlt := rfl
@[simp] theorem setPort_sec (p : Nat) (x : Port) (s : State) : (setPort p x s).sec = s.sec := rfl
@[simp] theorem setPort_pwr (p : Nat) (x : Port) (s : State) : (setPort p x s).pwr = s.pwr := rfl
@[simp] theorem setPort_flash (p : Nat) (x : Port) (s : State) : (setPort p x s).flash = s.flash := rfl
@[simp] theorem setPort_mode (p : Nat) (x : Port) (s : State) : (setPort p x s).mode = s.mode := rfl
@[simp] theorem setPort_out (p : Nat) (x : Port) (s : State) : (setPort p x s).out = s.out := rfl
@[simp] theorem setPort_freeCtr (p : Nat) (x : Port) (s : State) : (setPort p x s).freeCtr = s.freeCtr := rfl
@[simp] theorem setPort_pending (p : Nat) (x : Port) (s : State) : (setPort p x s).pending = s.pending := rfl

/-! ### setWinQ -/
@[simp] theorem setWinQ_cfg (p q : Nat) (w : WinQ) (s : State) : (setWinQ p q w s).cfg = s.cfg := rfl
@[simp] theorem setWinQ_now (p q : Nat) (w : WinQ) (s : State) : (setWinQ p q w s).now = s.now := rfl
@[simp] theorem setWinQ_xng (p q : Nat) (w : WinQ) (s : State) : (setWinQ p q w s).xng = s.xng := rfl
@[simp] theorem setWinQ_ttu (p q : Nat) (w : WinQ) (s : State) : (setWinQ p q w s).ttu = s.ttu := rfl
@[simp] theorem setWinQ_isl (p q : Nat) (w : WinQ) (s : State) : (setWinQ p q w s).isl = s.isl := rfl
@[simp] theorem setWinQ_fry (p q : Nat) (w : WinQ) (s : State) : (setWinQ p q w s).fry = s.fry := rfl
@[simp] theorem setWinQ_lnc (p q : Nat) (w : WinQ) (s : State) : (setWinQ p q w s).lnc = s.lnc := rfl
@[simp] theorem setWinQ_mem (p q : Nat) (w : WinQ) (s : State) : (setWinQ p q w s).mem = s.mem := rfl
@[simp] theorem setWinQ_rgn (p q : Nat) (w : WinQ) (s : State) : (setWinQ p q w s).rgn = s.rgn := rfl
@[simp] theorem setWinQ_log (p q : Nat) (w : WinQ) (s : State) : (setWinQ p q w s).log = s.log := rfl
@[simp] theorem setWinQ_harts (p q : Nat) (w : WinQ) (s : State) : (setWinQ p q w s).harts = s.harts := rfl
@[simp] theorem setWinQ_snd (p q : Nat) (w : WinQ) (s : State) : (setWinQ p q w s).snd = s.snd := rfl
@[simp] theorem setWinQ_hbr (p q : Nat) (w : WinQ) (s : State) : (setWinQ p q w s).hbr = s.hbr := rfl
@[simp] theorem setWinQ_hlt (p q : Nat) (w : WinQ) (s : State) : (setWinQ p q w s).hlt = s.hlt := rfl
@[simp] theorem setWinQ_sec (p q : Nat) (w : WinQ) (s : State) : (setWinQ p q w s).sec = s.sec := rfl
@[simp] theorem setWinQ_pwr (p q : Nat) (w : WinQ) (s : State) : (setWinQ p q w s).pwr = s.pwr := rfl
@[simp] theorem setWinQ_flash (p q : Nat) (w : WinQ) (s : State) : (setWinQ p q w s).flash = s.flash := rfl
@[simp] theorem setWinQ_mode (p q : Nat) (w : WinQ) (s : State) : (setWinQ p q w s).mode = s.mode := rfl
@[simp] theorem setWinQ_out (p q : Nat) (w : WinQ) (s : State) : (setWinQ p q w s).out = s.out := rfl
@[simp] theorem setWinQ_freeCtr (p q : Nat) (w : WinQ) (s : State) : (setWinQ p q w s).freeCtr = s.freeCtr := rfl
@[simp] theorem setWinQ_pending (p q : Nat) (w : WinQ) (s : State) : (setWinQ p q w s).pending = s.pending := rfl

/-! ### setBuf -/
@[simp] theorem setBuf_cfg (u : HostUse) (b : Option FetchBuf) (s : State) : (setBuf u b s).cfg = s.cfg := rfl
@[simp] theorem setBuf_now (u : HostUse) (b : Option FetchBuf) (s : State) : (setBuf u b s).now = s.now := rfl
@[simp] theorem setBuf_xng (u : HostUse) (b : Option FetchBuf) (s : State) : (setBuf u b s).xng = s.xng := rfl
@[simp] theorem setBuf_ttu (u : HostUse) (b : Option FetchBuf) (s : State) : (setBuf u b s).ttu = s.ttu := rfl
@[simp] theorem setBuf_isl (u : HostUse) (b : Option FetchBuf) (s : State) : (setBuf u b s).isl = s.isl := rfl
@[simp] theorem setBuf_fry (u : HostUse) (b : Option FetchBuf) (s : State) : (setBuf u b s).fry = s.fry := rfl
@[simp] theorem setBuf_lnc (u : HostUse) (b : Option FetchBuf) (s : State) : (setBuf u b s).lnc = s.lnc := rfl
@[simp] theorem setBuf_mem (u : HostUse) (b : Option FetchBuf) (s : State) : (setBuf u b s).mem = s.mem := rfl
@[simp] theorem setBuf_rgn (u : HostUse) (b : Option FetchBuf) (s : State) : (setBuf u b s).rgn = s.rgn := rfl
@[simp] theorem setBuf_log (u : HostUse) (b : Option FetchBuf) (s : State) : (setBuf u b s).log = s.log := rfl
@[simp] theorem setBuf_harts (u : HostUse) (b : Option FetchBuf) (s : State) : (setBuf u b s).harts = s.harts := rfl
@[simp] theorem setBuf_snd (u : HostUse) (b : Option FetchBuf) (s : State) : (setBuf u b s).snd = s.snd := rfl
@[simp] theorem setBuf_hbr (u : HostUse) (b : Option FetchBuf) (s : State) : (setBuf u b s).hbr = s.hbr := rfl
@[simp] theorem setBuf_hlt (u : HostUse) (b : Option FetchBuf) (s : State) : (setBuf u b s).hlt = s.hlt := rfl
@[simp] theorem setBuf_sec (u : HostUse) (b : Option FetchBuf) (s : State) : (setBuf u b s).sec = s.sec := rfl
@[simp] theorem setBuf_pwr (u : HostUse) (b : Option FetchBuf) (s : State) : (setBuf u b s).pwr = s.pwr := rfl
@[simp] theorem setBuf_flash (u : HostUse) (b : Option FetchBuf) (s : State) : (setBuf u b s).flash = s.flash := rfl
@[simp] theorem setBuf_mode (u : HostUse) (b : Option FetchBuf) (s : State) : (setBuf u b s).mode = s.mode := rfl
@[simp] theorem setBuf_out (u : HostUse) (b : Option FetchBuf) (s : State) : (setBuf u b s).out = s.out := rfl
@[simp] theorem setBuf_freeCtr (u : HostUse) (b : Option FetchBuf) (s : State) : (setBuf u b s).freeCtr = s.freeCtr := rfl
@[simp] theorem setBuf_pending (u : HostUse) (b : Option FetchBuf) (s : State) : (setBuf u b s).pending = s.pending := rfl

/-! ### setMb -/
@[simp] theorem setMb_cfg (m : Nat) (x : Mailbox) (s : State) : (setMb m x s).cfg = s.cfg := rfl
@[simp] theorem setMb_now (m : Nat) (x : Mailbox) (s : State) : (setMb m x s).now = s.now := rfl
@[simp] theorem setMb_xng (m : Nat) (x : Mailbox) (s : State) : (setMb m x s).xng = s.xng := rfl
@[simp] theorem setMb_ttu (m : Nat) (x : Mailbox) (s : State) : (setMb m x s).ttu = s.ttu := rfl
@[simp] theorem setMb_isl (m : Nat) (x : Mailbox) (s : State) : (setMb m x s).isl = s.isl := rfl
@[simp] theorem setMb_fry (m : Nat) (x : Mailbox) (s : State) : (setMb m x s).fry = s.fry := rfl
@[simp] theorem setMb_lnc (m : Nat) (x : Mailbox) (s : State) : (setMb m x s).lnc = s.lnc := rfl
@[simp] theorem setMb_mem (m : Nat) (x : Mailbox) (s : State) : (setMb m x s).mem = s.mem := rfl
@[simp] theorem setMb_rgn (m : Nat) (x : Mailbox) (s : State) : (setMb m x s).rgn = s.rgn := rfl
@[simp] theorem setMb_log (m : Nat) (x : Mailbox) (s : State) : (setMb m x s).log = s.log := rfl
@[simp] theorem setMb_harts (m : Nat) (x : Mailbox) (s : State) : (setMb m x s).harts = s.harts := rfl
@[simp] theorem setMb_snd (m : Nat) (x : Mailbox) (s : State) : (setMb m x s).snd = s.snd := rfl
@[simp] theorem setMb_zng (m : Nat) (x : Mailbox) (s : State) : (setMb m x s).zng = s.zng := rfl
@[simp] theorem setMb_hlt (m : Nat) (x : Mailbox) (s : State) : (setMb m x s).hlt = s.hlt := rfl
@[simp] theorem setMb_sec (m : Nat) (x : Mailbox) (s : State) : (setMb m x s).sec = s.sec := rfl
@[simp] theorem setMb_pwr (m : Nat) (x : Mailbox) (s : State) : (setMb m x s).pwr = s.pwr := rfl
@[simp] theorem setMb_flash (m : Nat) (x : Mailbox) (s : State) : (setMb m x s).flash = s.flash := rfl
@[simp] theorem setMb_mode (m : Nat) (x : Mailbox) (s : State) : (setMb m x s).mode = s.mode := rfl
@[simp] theorem setMb_out (m : Nat) (x : Mailbox) (s : State) : (setMb m x s).out = s.out := rfl
@[simp] theorem setMb_freeCtr (m : Nat) (x : Mailbox) (s : State) : (setMb m x s).freeCtr = s.freeCtr := rfl
@[simp] theorem setMb_pending (m : Nat) (x : Mailbox) (s : State) : (setMb m x s).pending = s.pending := rfl

/-! ### await -/
@[simp] theorem await_cfg (m : Nat) (w : MbWait) (s : State) : (await m w s).cfg = s.cfg := rfl
@[simp] theorem await_now (m : Nat) (w : MbWait) (s : State) : (await m w s).now = s.now := rfl
@[simp] theorem await_xng (m : Nat) (w : MbWait) (s : State) : (await m w s).xng = s.xng := rfl
@[simp] theorem await_ttu (m : Nat) (w : MbWait) (s : State) : (await m w s).ttu = s.ttu := rfl
@[simp] theorem await_isl (m : Nat) (w : MbWait) (s : State) : (await m w s).isl = s.isl := rfl
@[simp] theorem await_fry (m : Nat) (w : MbWait) (s : State) : (await m w s).fry = s.fry := rfl
@[simp] theorem await_lnc (m : Nat) (w : MbWait) (s : State) : (await m w s).lnc = s.lnc := rfl
@[simp] theorem await_mem (m : Nat) (w : MbWait) (s : State) : (await m w s).mem = s.mem := rfl
@[simp] theorem await_rgn (m : Nat) (w : MbWait) (s : State) : (await m w s).rgn = s.rgn := rfl
@[simp] theorem await_log (m : Nat) (w : MbWait) (s : State) : (await m w s).log = s.log := rfl
@[simp] theorem await_harts (m : Nat) (w : MbWait) (s : State) : (await m w s).harts = s.harts := rfl
@[simp] theorem await_snd (m : Nat) (w : MbWait) (s : State) : (await m w s).snd = s.snd := rfl
@[simp] theorem await_zng (m : Nat) (w : MbWait) (s : State) : (await m w s).zng = s.zng := rfl
@[simp] theorem await_hlt (m : Nat) (w : MbWait) (s : State) : (await m w s).hlt = s.hlt := rfl
@[simp] theorem await_sec (m : Nat) (w : MbWait) (s : State) : (await m w s).sec = s.sec := rfl
@[simp] theorem await_pwr (m : Nat) (w : MbWait) (s : State) : (await m w s).pwr = s.pwr := rfl
@[simp] theorem await_flash (m : Nat) (w : MbWait) (s : State) : (await m w s).flash = s.flash := rfl
@[simp] theorem await_mode (m : Nat) (w : MbWait) (s : State) : (await m w s).mode = s.mode := rfl
@[simp] theorem await_out (m : Nat) (w : MbWait) (s : State) : (await m w s).out = s.out := rfl
@[simp] theorem await_freeCtr (m : Nat) (w : MbWait) (s : State) : (await m w s).freeCtr = s.freeCtr := rfl
@[simp] theorem await_pending (m : Nat) (w : MbWait) (s : State) : (await m w s).pending = s.pending := rfl

/-! ### mbTaken -/
@[simp] theorem mbTaken_cfg (m : Nat) (s : State) : (mbTaken m s).cfg = s.cfg := rfl
@[simp] theorem mbTaken_now (m : Nat) (s : State) : (mbTaken m s).now = s.now := rfl
@[simp] theorem mbTaken_xng (m : Nat) (s : State) : (mbTaken m s).xng = s.xng := rfl
@[simp] theorem mbTaken_ttu (m : Nat) (s : State) : (mbTaken m s).ttu = s.ttu := rfl
@[simp] theorem mbTaken_isl (m : Nat) (s : State) : (mbTaken m s).isl = s.isl := rfl
@[simp] theorem mbTaken_fry (m : Nat) (s : State) : (mbTaken m s).fry = s.fry := rfl
@[simp] theorem mbTaken_lnc (m : Nat) (s : State) : (mbTaken m s).lnc = s.lnc := rfl
@[simp] theorem mbTaken_mem (m : Nat) (s : State) : (mbTaken m s).mem = s.mem := rfl
@[simp] theorem mbTaken_rgn (m : Nat) (s : State) : (mbTaken m s).rgn = s.rgn := rfl
@[simp] theorem mbTaken_log (m : Nat) (s : State) : (mbTaken m s).log = s.log := rfl
@[simp] theorem mbTaken_harts (m : Nat) (s : State) : (mbTaken m s).harts = s.harts := rfl
@[simp] theorem mbTaken_snd (m : Nat) (s : State) : (mbTaken m s).snd = s.snd := rfl
@[simp] theorem mbTaken_zng (m : Nat) (s : State) : (mbTaken m s).zng = s.zng := rfl
@[simp] theorem mbTaken_hlt (m : Nat) (s : State) : (mbTaken m s).hlt = s.hlt := rfl
@[simp] theorem mbTaken_sec (m : Nat) (s : State) : (mbTaken m s).sec = s.sec := rfl
@[simp] theorem mbTaken_pwr (m : Nat) (s : State) : (mbTaken m s).pwr = s.pwr := rfl
@[simp] theorem mbTaken_flash (m : Nat) (s : State) : (mbTaken m s).flash = s.flash := rfl
@[simp] theorem mbTaken_mode (m : Nat) (s : State) : (mbTaken m s).mode = s.mode := rfl
@[simp] theorem mbTaken_out (m : Nat) (s : State) : (mbTaken m s).out = s.out := rfl
@[simp] theorem mbTaken_freeCtr (m : Nat) (s : State) : (mbTaken m s).freeCtr = s.freeCtr := rfl
@[simp] theorem mbTaken_pending (m : Nat) (s : State) : (mbTaken m s).pending = s.pending := rfl

/-! ### setIslet -/
@[simp] theorem setIslet_cfg (n : Nat) (x : Islet) (s : State) : (setIslet n x s).cfg = s.cfg := rfl
@[simp] theorem setIslet_now (n : Nat) (x : Islet) (s : State) : (setIslet n x s).now = s.now := rfl
@[simp] theorem setIslet_xng (n : Nat) (x : Islet) (s : State) : (setIslet n x s).xng = s.xng := rfl
@[simp] theorem setIslet_ttu (n : Nat) (x : Islet) (s : State) : (setIslet n x s).ttu = s.ttu := rfl
@[simp] theorem setIslet_fry (n : Nat) (x : Islet) (s : State) : (setIslet n x s).fry = s.fry := rfl
@[simp] theorem setIslet_lnc (n : Nat) (x : Islet) (s : State) : (setIslet n x s).lnc = s.lnc := rfl
@[simp] theorem setIslet_mem (n : Nat) (x : Islet) (s : State) : (setIslet n x s).mem = s.mem := rfl
@[simp] theorem setIslet_rgn (n : Nat) (x : Islet) (s : State) : (setIslet n x s).rgn = s.rgn := rfl
@[simp] theorem setIslet_log (n : Nat) (x : Islet) (s : State) : (setIslet n x s).log = s.log := rfl
@[simp] theorem setIslet_harts (n : Nat) (x : Islet) (s : State) : (setIslet n x s).harts = s.harts := rfl
@[simp] theorem setIslet_snd (n : Nat) (x : Islet) (s : State) : (setIslet n x s).snd = s.snd := rfl
@[simp] theorem setIslet_zng (n : Nat) (x : Islet) (s : State) : (setIslet n x s).zng = s.zng := rfl
@[simp] theorem setIslet_hbr (n : Nat) (x : Islet) (s : State) : (setIslet n x s).hbr = s.hbr := rfl
@[simp] theorem setIslet_hlt (n : Nat) (x : Islet) (s : State) : (setIslet n x s).hlt = s.hlt := rfl
@[simp] theorem setIslet_sec (n : Nat) (x : Islet) (s : State) : (setIslet n x s).sec = s.sec := rfl
@[simp] theorem setIslet_pwr (n : Nat) (x : Islet) (s : State) : (setIslet n x s).pwr = s.pwr := rfl
@[simp] theorem setIslet_flash (n : Nat) (x : Islet) (s : State) : (setIslet n x s).flash = s.flash := rfl
@[simp] theorem setIslet_mode (n : Nat) (x : Islet) (s : State) : (setIslet n x s).mode = s.mode := rfl
@[simp] theorem setIslet_out (n : Nat) (x : Islet) (s : State) : (setIslet n x s).out = s.out := rfl
@[simp] theorem setIslet_freeCtr (n : Nat) (x : Islet) (s : State) : (setIslet n x s).freeCtr = s.freeCtr := rfl
@[simp] theorem setIslet_pending (n : Nat) (x : Islet) (s : State) : (setIslet n x s).pending = s.pending := rfl

/-! ### setFryQ -/
@[simp] theorem setFryQ_cfg (q : Nat) (x : Queue) (s : State) : (setFryQ q x s).cfg = s.cfg := rfl
@[simp] theorem setFryQ_now (q : Nat) (x : Queue) (s : State) : (setFryQ q x s).now = s.now := rfl
@[simp] theorem setFryQ_xng (q : Nat) (x : Queue) (s : State) : (setFryQ q x s).xng = s.xng := rfl
@[simp] theorem setFryQ_ttu (q : Nat) (x : Queue) (s : State) : (setFryQ q x s).ttu = s.ttu := rfl
@[simp] theorem setFryQ_isl (q : Nat) (x : Queue) (s : State) : (setFryQ q x s).isl = s.isl := rfl
@[simp] theorem setFryQ_lnc (q : Nat) (x : Queue) (s : State) : (setFryQ q x s).lnc = s.lnc := rfl
@[simp] theorem setFryQ_mem (q : Nat) (x : Queue) (s : State) : (setFryQ q x s).mem = s.mem := rfl
@[simp] theorem setFryQ_rgn (q : Nat) (x : Queue) (s : State) : (setFryQ q x s).rgn = s.rgn := rfl
@[simp] theorem setFryQ_log (q : Nat) (x : Queue) (s : State) : (setFryQ q x s).log = s.log := rfl
@[simp] theorem setFryQ_harts (q : Nat) (x : Queue) (s : State) : (setFryQ q x s).harts = s.harts := rfl
@[simp] theorem setFryQ_snd (q : Nat) (x : Queue) (s : State) : (setFryQ q x s).snd = s.snd := rfl
@[simp] theorem setFryQ_zng (q : Nat) (x : Queue) (s : State) : (setFryQ q x s).zng = s.zng := rfl
@[simp] theorem setFryQ_hbr (q : Nat) (x : Queue) (s : State) : (setFryQ q x s).hbr = s.hbr := rfl
@[simp] theorem setFryQ_hlt (q : Nat) (x : Queue) (s : State) : (setFryQ q x s).hlt = s.hlt := rfl
@[simp] theorem setFryQ_sec (q : Nat) (x : Queue) (s : State) : (setFryQ q x s).sec = s.sec := rfl
@[simp] theorem setFryQ_pwr (q : Nat) (x : Queue) (s : State) : (setFryQ q x s).pwr = s.pwr := rfl
@[simp] theorem setFryQ_flash (q : Nat) (x : Queue) (s : State) : (setFryQ q x s).flash = s.flash := rfl
@[simp] theorem setFryQ_mode (q : Nat) (x : Queue) (s : State) : (setFryQ q x s).mode = s.mode := rfl
@[simp] theorem setFryQ_out (q : Nat) (x : Queue) (s : State) : (setFryQ q x s).out = s.out := rfl
@[simp] theorem setFryQ_freeCtr (q : Nat) (x : Queue) (s : State) : (setFryQ q x s).freeCtr = s.freeCtr := rfl
@[simp] theorem setFryQ_pending (q : Nat) (x : Queue) (s : State) : (setFryQ q x s).pending = s.pending := rfl

/-! ### setLncQ -/
@[simp] theorem setLncQ_cfg (q : Nat) (x : Queue) (s : State) : (setLncQ q x s).cfg = s.cfg := rfl
@[simp] theorem setLncQ_now (q : Nat) (x : Queue) (s : State) : (setLncQ q x s).now = s.now := rfl
@[simp] theorem setLncQ_xng (q : Nat) (x : Queue) (s : State) : (setLncQ q x s).xng = s.xng := rfl
@[simp] theorem setLncQ_ttu (q : Nat) (x : Queue) (s : State) : (setLncQ q x s).ttu = s.ttu := rfl
@[simp] theorem setLncQ_isl (q : Nat) (x : Queue) (s : State) : (setLncQ q x s).isl = s.isl := rfl
@[simp] theorem setLncQ_fry (q : Nat) (x : Queue) (s : State) : (setLncQ q x s).fry = s.fry := rfl
@[simp] theorem setLncQ_mem (q : Nat) (x : Queue) (s : State) : (setLncQ q x s).mem = s.mem := rfl
@[simp] theorem setLncQ_rgn (q : Nat) (x : Queue) (s : State) : (setLncQ q x s).rgn = s.rgn := rfl
@[simp] theorem setLncQ_log (q : Nat) (x : Queue) (s : State) : (setLncQ q x s).log = s.log := rfl
@[simp] theorem setLncQ_harts (q : Nat) (x : Queue) (s : State) : (setLncQ q x s).harts = s.harts := rfl
@[simp] theorem setLncQ_snd (q : Nat) (x : Queue) (s : State) : (setLncQ q x s).snd = s.snd := rfl
@[simp] theorem setLncQ_zng (q : Nat) (x : Queue) (s : State) : (setLncQ q x s).zng = s.zng := rfl
@[simp] theorem setLncQ_hbr (q : Nat) (x : Queue) (s : State) : (setLncQ q x s).hbr = s.hbr := rfl
@[simp] theorem setLncQ_hlt (q : Nat) (x : Queue) (s : State) : (setLncQ q x s).hlt = s.hlt := rfl
@[simp] theorem setLncQ_sec (q : Nat) (x : Queue) (s : State) : (setLncQ q x s).sec = s.sec := rfl
@[simp] theorem setLncQ_pwr (q : Nat) (x : Queue) (s : State) : (setLncQ q x s).pwr = s.pwr := rfl
@[simp] theorem setLncQ_flash (q : Nat) (x : Queue) (s : State) : (setLncQ q x s).flash = s.flash := rfl
@[simp] theorem setLncQ_mode (q : Nat) (x : Queue) (s : State) : (setLncQ q x s).mode = s.mode := rfl
@[simp] theorem setLncQ_out (q : Nat) (x : Queue) (s : State) : (setLncQ q x s).out = s.out := rfl
@[simp] theorem setLncQ_freeCtr (q : Nat) (x : Queue) (s : State) : (setLncQ q x s).freeCtr = s.freeCtr := rfl
@[simp] theorem setLncQ_pending (q : Nat) (x : Queue) (s : State) : (setLncQ q x s).pending = s.pending := rfl

/-! ### setChan -/
@[simp] theorem setChan_cfg (k : Nat) (c : Channel) (s : State) : (setChan k c s).cfg = s.cfg := rfl
@[simp] theorem setChan_now (k : Nat) (c : Channel) (s : State) : (setChan k c s).now = s.now := rfl
@[simp] theorem setChan_xng (k : Nat) (c : Channel) (s : State) : (setChan k c s).xng = s.xng := rfl
@[simp] theorem setChan_ttu (k : Nat) (c : Channel) (s : State) : (setChan k c s).ttu = s.ttu := rfl
@[simp] theorem setChan_isl (k : Nat) (c : Channel) (s : State) : (setChan k c s).isl = s.isl := rfl
@[simp] theorem setChan_fry (k : Nat) (c : Channel) (s : State) : (setChan k c s).fry = s.fry := rfl
@[simp] theorem setChan_lnc (k : Nat) (c : Channel) (s : State) : (setChan k c s).lnc = s.lnc := rfl
@[simp] theorem setChan_rgn (k : Nat) (c : Channel) (s : State) : (setChan k c s).rgn = s.rgn := rfl
@[simp] theorem setChan_log (k : Nat) (c : Channel) (s : State) : (setChan k c s).log = s.log := rfl
@[simp] theorem setChan_harts (k : Nat) (c : Channel) (s : State) : (setChan k c s).harts = s.harts := rfl
@[simp] theorem setChan_snd (k : Nat) (c : Channel) (s : State) : (setChan k c s).snd = s.snd := rfl
@[simp] theorem setChan_zng (k : Nat) (c : Channel) (s : State) : (setChan k c s).zng = s.zng := rfl
@[simp] theorem setChan_hbr (k : Nat) (c : Channel) (s : State) : (setChan k c s).hbr = s.hbr := rfl
@[simp] theorem setChan_hlt (k : Nat) (c : Channel) (s : State) : (setChan k c s).hlt = s.hlt := rfl
@[simp] theorem setChan_sec (k : Nat) (c : Channel) (s : State) : (setChan k c s).sec = s.sec := rfl
@[simp] theorem setChan_pwr (k : Nat) (c : Channel) (s : State) : (setChan k c s).pwr = s.pwr := rfl
@[simp] theorem setChan_flash (k : Nat) (c : Channel) (s : State) : (setChan k c s).flash = s.flash := rfl
@[simp] theorem setChan_mode (k : Nat) (c : Channel) (s : State) : (setChan k c s).mode = s.mode := rfl
@[simp] theorem setChan_out (k : Nat) (c : Channel) (s : State) : (setChan k c s).out = s.out := rfl
@[simp] theorem setChan_freeCtr (k : Nat) (c : Channel) (s : State) : (setChan k c s).freeCtr = s.freeCtr := rfl
@[simp] theorem setChan_pending (k : Nat) (c : Channel) (s : State) : (setChan k c s).pending = s.pending := rfl

/-! ### setWc -/
@[simp] theorem setWc_cfg (k : Nat) (es : List WcEntry) (s : State) : (setWc k es s).cfg = s.cfg := rfl
@[simp] theorem setWc_now (k : Nat) (es : List WcEntry) (s : State) : (setWc k es s).now = s.now := rfl
@[simp] theorem setWc_xng (k : Nat) (es : List WcEntry) (s : State) : (setWc k es s).xng = s.xng := rfl
@[simp] theorem setWc_ttu (k : Nat) (es : List WcEntry) (s : State) : (setWc k es s).ttu = s.ttu := rfl
@[simp] theorem setWc_isl (k : Nat) (es : List WcEntry) (s : State) : (setWc k es s).isl = s.isl := rfl
@[simp] theorem setWc_fry (k : Nat) (es : List WcEntry) (s : State) : (setWc k es s).fry = s.fry := rfl
@[simp] theorem setWc_lnc (k : Nat) (es : List WcEntry) (s : State) : (setWc k es s).lnc = s.lnc := rfl
@[simp] theorem setWc_rgn (k : Nat) (es : List WcEntry) (s : State) : (setWc k es s).rgn = s.rgn := rfl
@[simp] theorem setWc_log (k : Nat) (es : List WcEntry) (s : State) : (setWc k es s).log = s.log := rfl
@[simp] theorem setWc_harts (k : Nat) (es : List WcEntry) (s : State) : (setWc k es s).harts = s.harts := rfl
@[simp] theorem setWc_snd (k : Nat) (es : List WcEntry) (s : State) : (setWc k es s).snd = s.snd := rfl
@[simp] theorem setWc_zng (k : Nat) (es : List WcEntry) (s : State) : (setWc k es s).zng = s.zng := rfl
@[simp] theorem setWc_hbr (k : Nat) (es : List WcEntry) (s : State) : (setWc k es s).hbr = s.hbr := rfl
@[simp] theorem setWc_hlt (k : Nat) (es : List WcEntry) (s : State) : (setWc k es s).hlt = s.hlt := rfl
@[simp] theorem setWc_sec (k : Nat) (es : List WcEntry) (s : State) : (setWc k es s).sec = s.sec := rfl
@[simp] theorem setWc_pwr (k : Nat) (es : List WcEntry) (s : State) : (setWc k es s).pwr = s.pwr := rfl
@[simp] theorem setWc_flash (k : Nat) (es : List WcEntry) (s : State) : (setWc k es s).flash = s.flash := rfl
@[simp] theorem setWc_mode (k : Nat) (es : List WcEntry) (s : State) : (setWc k es s).mode = s.mode := rfl
@[simp] theorem setWc_out (k : Nat) (es : List WcEntry) (s : State) : (setWc k es s).out = s.out := rfl
@[simp] theorem setWc_freeCtr (k : Nat) (es : List WcEntry) (s : State) : (setWc k es s).freeCtr = s.freeCtr := rfl
@[simp] theorem setWc_pending (k : Nat) (es : List WcEntry) (s : State) : (setWc k es s).pending = s.pending := rfl

/-! ### setTag -/
@[simp] theorem setTag_cfg (p : Nat) (t : Tag) (s : State) : (setTag p t s).cfg = s.cfg := rfl
@[simp] theorem setTag_now (p : Nat) (t : Tag) (s : State) : (setTag p t s).now = s.now := rfl
@[simp] theorem setTag_xng (p : Nat) (t : Tag) (s : State) : (setTag p t s).xng = s.xng := rfl
@[simp] theorem setTag_ttu (p : Nat) (t : Tag) (s : State) : (setTag p t s).ttu = s.ttu := rfl
@[simp] theorem setTag_isl (p : Nat) (t : Tag) (s : State) : (setTag p t s).isl = s.isl := rfl
@[simp] theorem setTag_fry (p : Nat) (t : Tag) (s : State) : (setTag p t s).fry = s.fry := rfl
@[simp] theorem setTag_lnc (p : Nat) (t : Tag) (s : State) : (setTag p t s).lnc = s.lnc := rfl
@[simp] theorem setTag_mem (p : Nat) (t : Tag) (s : State) : (setTag p t s).mem = s.mem := rfl
@[simp] theorem setTag_log (p : Nat) (t : Tag) (s : State) : (setTag p t s).log = s.log := rfl
@[simp] theorem setTag_harts (p : Nat) (t : Tag) (s : State) : (setTag p t s).harts = s.harts := rfl
@[simp] theorem setTag_snd (p : Nat) (t : Tag) (s : State) : (setTag p t s).snd = s.snd := rfl
@[simp] theorem setTag_zng (p : Nat) (t : Tag) (s : State) : (setTag p t s).zng = s.zng := rfl
@[simp] theorem setTag_hbr (p : Nat) (t : Tag) (s : State) : (setTag p t s).hbr = s.hbr := rfl
@[simp] theorem setTag_hlt (p : Nat) (t : Tag) (s : State) : (setTag p t s).hlt = s.hlt := rfl
@[simp] theorem setTag_sec (p : Nat) (t : Tag) (s : State) : (setTag p t s).sec = s.sec := rfl
@[simp] theorem setTag_pwr (p : Nat) (t : Tag) (s : State) : (setTag p t s).pwr = s.pwr := rfl
@[simp] theorem setTag_flash (p : Nat) (t : Tag) (s : State) : (setTag p t s).flash = s.flash := rfl
@[simp] theorem setTag_mode (p : Nat) (t : Tag) (s : State) : (setTag p t s).mode = s.mode := rfl
@[simp] theorem setTag_out (p : Nat) (t : Tag) (s : State) : (setTag p t s).out = s.out := rfl
@[simp] theorem setTag_freeCtr (p : Nat) (t : Tag) (s : State) : (setTag p t s).freeCtr = s.freeCtr := rfl
@[simp] theorem setTag_pending (p : Nat) (t : Tag) (s : State) : (setTag p t s).pending = s.pending := rfl

/-! ### setCtx -/
@[simp] theorem setCtx_cfg (c : Nat) (x : Ctx) (s : State) : (setCtx c x s).cfg = s.cfg := rfl
@[simp] theorem setCtx_now (c : Nat) (x : Ctx) (s : State) : (setCtx c x s).now = s.now := rfl
@[simp] theorem setCtx_xng (c : Nat) (x : Ctx) (s : State) : (setCtx c x s).xng = s.xng := rfl
@[simp] theorem setCtx_ttu (c : Nat) (x : Ctx) (s : State) : (setCtx c x s).ttu = s.ttu := rfl
@[simp] theorem setCtx_isl (c : Nat) (x : Ctx) (s : State) : (setCtx c x s).isl = s.isl := rfl
@[simp] theorem setCtx_fry (c : Nat) (x : Ctx) (s : State) : (setCtx c x s).fry = s.fry := rfl
@[simp] theorem setCtx_lnc (c : Nat) (x : Ctx) (s : State) : (setCtx c x s).lnc = s.lnc := rfl
@[simp] theorem setCtx_mem (c : Nat) (x : Ctx) (s : State) : (setCtx c x s).mem = s.mem := rfl
@[simp] theorem setCtx_log (c : Nat) (x : Ctx) (s : State) : (setCtx c x s).log = s.log := rfl
@[simp] theorem setCtx_harts (c : Nat) (x : Ctx) (s : State) : (setCtx c x s).harts = s.harts := rfl
@[simp] theorem setCtx_snd (c : Nat) (x : Ctx) (s : State) : (setCtx c x s).snd = s.snd := rfl
@[simp] theorem setCtx_zng (c : Nat) (x : Ctx) (s : State) : (setCtx c x s).zng = s.zng := rfl
@[simp] theorem setCtx_hbr (c : Nat) (x : Ctx) (s : State) : (setCtx c x s).hbr = s.hbr := rfl
@[simp] theorem setCtx_hlt (c : Nat) (x : Ctx) (s : State) : (setCtx c x s).hlt = s.hlt := rfl
@[simp] theorem setCtx_sec (c : Nat) (x : Ctx) (s : State) : (setCtx c x s).sec = s.sec := rfl
@[simp] theorem setCtx_pwr (c : Nat) (x : Ctx) (s : State) : (setCtx c x s).pwr = s.pwr := rfl
@[simp] theorem setCtx_flash (c : Nat) (x : Ctx) (s : State) : (setCtx c x s).flash = s.flash := rfl
@[simp] theorem setCtx_mode (c : Nat) (x : Ctx) (s : State) : (setCtx c x s).mode = s.mode := rfl
@[simp] theorem setCtx_out (c : Nat) (x : Ctx) (s : State) : (setCtx c x s).out = s.out := rfl
@[simp] theorem setCtx_freeCtr (c : Nat) (x : Ctx) (s : State) : (setCtx c x s).freeCtr = s.freeCtr := rfl
@[simp] theorem setCtx_pending (c : Nat) (x : Ctx) (s : State) : (setCtx c x s).pending = s.pending := rfl

/-! ### setList -/
@[simp] theorem setList_cfg (k : Nat) (l : List RegionD) (s : State) : (setList k l s).cfg = s.cfg := rfl
@[simp] theorem setList_now (k : Nat) (l : List RegionD) (s : State) : (setList k l s).now = s.now := rfl
@[simp] theorem setList_xng (k : Nat) (l : List RegionD) (s : State) : (setList k l s).xng = s.xng := rfl
@[simp] theorem setList_ttu (k : Nat) (l : List RegionD) (s : State) : (setList k l s).ttu = s.ttu := rfl
@[simp] theorem setList_isl (k : Nat) (l : List RegionD) (s : State) : (setList k l s).isl = s.isl := rfl
@[simp] theorem setList_fry (k : Nat) (l : List RegionD) (s : State) : (setList k l s).fry = s.fry := rfl
@[simp] theorem setList_lnc (k : Nat) (l : List RegionD) (s : State) : (setList k l s).lnc = s.lnc := rfl
@[simp] theorem setList_mem (k : Nat) (l : List RegionD) (s : State) : (setList k l s).mem = s.mem := rfl
@[simp] theorem setList_log (k : Nat) (l : List RegionD) (s : State) : (setList k l s).log = s.log := rfl
@[simp] theorem setList_harts (k : Nat) (l : List RegionD) (s : State) : (setList k l s).harts = s.harts := rfl
@[simp] theorem setList_snd (k : Nat) (l : List RegionD) (s : State) : (setList k l s).snd = s.snd := rfl
@[simp] theorem setList_zng (k : Nat) (l : List RegionD) (s : State) : (setList k l s).zng = s.zng := rfl
@[simp] theorem setList_hbr (k : Nat) (l : List RegionD) (s : State) : (setList k l s).hbr = s.hbr := rfl
@[simp] theorem setList_hlt (k : Nat) (l : List RegionD) (s : State) : (setList k l s).hlt = s.hlt := rfl
@[simp] theorem setList_sec (k : Nat) (l : List RegionD) (s : State) : (setList k l s).sec = s.sec := rfl
@[simp] theorem setList_pwr (k : Nat) (l : List RegionD) (s : State) : (setList k l s).pwr = s.pwr := rfl
@[simp] theorem setList_flash (k : Nat) (l : List RegionD) (s : State) : (setList k l s).flash = s.flash := rfl
@[simp] theorem setList_mode (k : Nat) (l : List RegionD) (s : State) : (setList k l s).mode = s.mode := rfl
@[simp] theorem setList_out (k : Nat) (l : List RegionD) (s : State) : (setList k l s).out = s.out := rfl
@[simp] theorem setList_freeCtr (k : Nat) (l : List RegionD) (s : State) : (setList k l s).freeCtr = s.freeCtr := rfl
@[simp] theorem setList_pending (k : Nat) (l : List RegionD) (s : State) : (setList k l s).pending = s.pending := rfl

/-! ### setEntry -/
@[simp] theorem setEntry_cfg (e : Nat) (x : Option CoEntry) (s : State) : (setEntry e x s).cfg = s.cfg := rfl
@[simp] theorem setEntry_now (e : Nat) (x : Option CoEntry) (s : State) : (setEntry e x s).now = s.now := rfl
@[simp] theorem setEntry_xng (e : Nat) (x : Option CoEntry) (s : State) : (setEntry e x s).xng = s.xng := rfl
@[simp] theorem setEntry_ttu (e : Nat) (x : Option CoEntry) (s : State) : (setEntry e x s).ttu = s.ttu := rfl
@[simp] theorem setEntry_isl (e : Nat) (x : Option CoEntry) (s : State) : (setEntry e x s).isl = s.isl := rfl
@[simp] theorem setEntry_fry (e : Nat) (x : Option CoEntry) (s : State) : (setEntry e x s).fry = s.fry := rfl
@[simp] theorem setEntry_lnc (e : Nat) (x : Option CoEntry) (s : State) : (setEntry e x s).lnc = s.lnc := rfl
@[simp] theorem setEntry_mem (e : Nat) (x : Option CoEntry) (s : State) : (setEntry e x s).mem = s.mem := rfl
@[simp] theorem setEntry_log (e : Nat) (x : Option CoEntry) (s : State) : (setEntry e x s).log = s.log := rfl
@[simp] theorem setEntry_harts (e : Nat) (x : Option CoEntry) (s : State) : (setEntry e x s).harts = s.harts := rfl
@[simp] theorem setEntry_snd (e : Nat) (x : Option CoEntry) (s : State) : (setEntry e x s).snd = s.snd := rfl
@[simp] theorem setEntry_zng (e : Nat) (x : Option CoEntry) (s : State) : (setEntry e x s).zng = s.zng := rfl
@[simp] theorem setEntry_hbr (e : Nat) (x : Option CoEntry) (s : State) : (setEntry e x s).hbr = s.hbr := rfl
@[simp] theorem setEntry_hlt (e : Nat) (x : Option CoEntry) (s : State) : (setEntry e x s).hlt = s.hlt := rfl
@[simp] theorem setEntry_sec (e : Nat) (x : Option CoEntry) (s : State) : (setEntry e x s).sec = s.sec := rfl
@[simp] theorem setEntry_pwr (e : Nat) (x : Option CoEntry) (s : State) : (setEntry e x s).pwr = s.pwr := rfl
@[simp] theorem setEntry_flash (e : Nat) (x : Option CoEntry) (s : State) : (setEntry e x s).flash = s.flash := rfl
@[simp] theorem setEntry_mode (e : Nat) (x : Option CoEntry) (s : State) : (setEntry e x s).mode = s.mode := rfl
@[simp] theorem setEntry_out (e : Nat) (x : Option CoEntry) (s : State) : (setEntry e x s).out = s.out := rfl
@[simp] theorem setEntry_freeCtr (e : Nat) (x : Option CoEntry) (s : State) : (setEntry e x s).freeCtr = s.freeCtr := rfl
@[simp] theorem setEntry_pending (e : Nat) (x : Option CoEntry) (s : State) : (setEntry e x s).pending = s.pending := rfl

/-! ### setCline -/
@[simp] theorem setCline_cfg (a l : Nat) (x : CLine) (s : State) : (setCline a l x s).cfg = s.cfg := rfl
@[simp] theorem setCline_now (a l : Nat) (x : CLine) (s : State) : (setCline a l x s).now = s.now := rfl
@[simp] theorem setCline_xng (a l : Nat) (x : CLine) (s : State) : (setCline a l x s).xng = s.xng := rfl
@[simp] theorem setCline_ttu (a l : Nat) (x : CLine) (s : State) : (setCline a l x s).ttu = s.ttu := rfl
@[simp] theorem setCline_isl (a l : Nat) (x : CLine) (s : State) : (setCline a l x s).isl = s.isl := rfl
@[simp] theorem setCline_fry (a l : Nat) (x : CLine) (s : State) : (setCline a l x s).fry = s.fry := rfl
@[simp] theorem setCline_lnc (a l : Nat) (x : CLine) (s : State) : (setCline a l x s).lnc = s.lnc := rfl
@[simp] theorem setCline_mem (a l : Nat) (x : CLine) (s : State) : (setCline a l x s).mem = s.mem := rfl
@[simp] theorem setCline_rgn (a l : Nat) (x : CLine) (s : State) : (setCline a l x s).rgn = s.rgn := rfl
@[simp] theorem setCline_log (a l : Nat) (x : CLine) (s : State) : (setCline a l x s).log = s.log := rfl
@[simp] theorem setCline_harts (a l : Nat) (x : CLine) (s : State) : (setCline a l x s).harts = s.harts := rfl
@[simp] theorem setCline_zng (a l : Nat) (x : CLine) (s : State) : (setCline a l x s).zng = s.zng := rfl
@[simp] theorem setCline_hbr (a l : Nat) (x : CLine) (s : State) : (setCline a l x s).hbr = s.hbr := rfl
@[simp] theorem setCline_hlt (a l : Nat) (x : CLine) (s : State) : (setCline a l x s).hlt = s.hlt := rfl
@[simp] theorem setCline_sec (a l : Nat) (x : CLine) (s : State) : (setCline a l x s).sec = s.sec := rfl
@[simp] theorem setCline_pwr (a l : Nat) (x : CLine) (s : State) : (setCline a l x s).pwr = s.pwr := rfl
@[simp] theorem setCline_flash (a l : Nat) (x : CLine) (s : State) : (setCline a l x s).flash = s.flash := rfl
@[simp] theorem setCline_mode (a l : Nat) (x : CLine) (s : State) : (setCline a l x s).mode = s.mode := rfl
@[simp] theorem setCline_out (a l : Nat) (x : CLine) (s : State) : (setCline a l x s).out = s.out := rfl
@[simp] theorem setCline_freeCtr (a l : Nat) (x : CLine) (s : State) : (setCline a l x s).freeCtr = s.freeCtr := rfl
@[simp] theorem setCline_pending (a l : Nat) (x : CLine) (s : State) : (setCline a l x s).pending = s.pending := rfl

/-! ### setFilter -/
@[simp] theorem setFilter_cfg (k : Nat) (es : List FEntry) (s : State) : (setFilter k es s).cfg = s.cfg := rfl
@[simp] theorem setFilter_now (k : Nat) (es : List FEntry) (s : State) : (setFilter k es s).now = s.now := rfl
@[simp] theorem setFilter_xng (k : Nat) (es : List FEntry) (s : State) : (setFilter k es s).xng = s.xng := rfl
@[simp] theorem setFilter_ttu (k : Nat) (es : List FEntry) (s : State) : (setFilter k es s).ttu = s.ttu := rfl
@[simp] theorem setFilter_isl (k : Nat) (es : List FEntry) (s : State) : (setFilter k es s).isl = s.isl := rfl
@[simp] theorem setFilter_fry (k : Nat) (es : List FEntry) (s : State) : (setFilter k es s).fry = s.fry := rfl
@[simp] theorem setFilter_lnc (k : Nat) (es : List FEntry) (s : State) : (setFilter k es s).lnc = s.lnc := rfl
@[simp] theorem setFilter_mem (k : Nat) (es : List FEntry) (s : State) : (setFilter k es s).mem = s.mem := rfl
@[simp] theorem setFilter_rgn (k : Nat) (es : List FEntry) (s : State) : (setFilter k es s).rgn = s.rgn := rfl
@[simp] theorem setFilter_log (k : Nat) (es : List FEntry) (s : State) : (setFilter k es s).log = s.log := rfl
@[simp] theorem setFilter_harts (k : Nat) (es : List FEntry) (s : State) : (setFilter k es s).harts = s.harts := rfl
@[simp] theorem setFilter_zng (k : Nat) (es : List FEntry) (s : State) : (setFilter k es s).zng = s.zng := rfl
@[simp] theorem setFilter_hbr (k : Nat) (es : List FEntry) (s : State) : (setFilter k es s).hbr = s.hbr := rfl
@[simp] theorem setFilter_hlt (k : Nat) (es : List FEntry) (s : State) : (setFilter k es s).hlt = s.hlt := rfl
@[simp] theorem setFilter_sec (k : Nat) (es : List FEntry) (s : State) : (setFilter k es s).sec = s.sec := rfl
@[simp] theorem setFilter_pwr (k : Nat) (es : List FEntry) (s : State) : (setFilter k es s).pwr = s.pwr := rfl
@[simp] theorem setFilter_flash (k : Nat) (es : List FEntry) (s : State) : (setFilter k es s).flash = s.flash := rfl
@[simp] theorem setFilter_mode (k : Nat) (es : List FEntry) (s : State) : (setFilter k es s).mode = s.mode := rfl
@[simp] theorem setFilter_out (k : Nat) (es : List FEntry) (s : State) : (setFilter k es s).out = s.out := rfl
@[simp] theorem setFilter_freeCtr (k : Nat) (es : List FEntry) (s : State) : (setFilter k es s).freeCtr = s.freeCtr := rfl
@[simp] theorem setFilter_pending (k : Nat) (es : List FEntry) (s : State) : (setFilter k es s).pending = s.pending := rfl

/-! ### setTxn -/
@[simp] theorem setTxn_cfg (t : HTxn) (s : State) : (setTxn t s).cfg = s.cfg := rfl
@[simp] theorem setTxn_now (t : HTxn) (s : State) : (setTxn t s).now = s.now := rfl
@[simp] theorem setTxn_xng (t : HTxn) (s : State) : (setTxn t s).xng = s.xng := rfl
@[simp] theorem setTxn_ttu (t : HTxn) (s : State) : (setTxn t s).ttu = s.ttu := rfl
@[simp] theorem setTxn_isl (t : HTxn) (s : State) : (setTxn t s).isl = s.isl := rfl
@[simp] theorem setTxn_fry (t : HTxn) (s : State) : (setTxn t s).fry = s.fry := rfl
@[simp] theorem setTxn_lnc (t : HTxn) (s : State) : (setTxn t s).lnc = s.lnc := rfl
@[simp] theorem setTxn_mem (t : HTxn) (s : State) : (setTxn t s).mem = s.mem := rfl
@[simp] theorem setTxn_rgn (t : HTxn) (s : State) : (setTxn t s).rgn = s.rgn := rfl
@[simp] theorem setTxn_log (t : HTxn) (s : State) : (setTxn t s).log = s.log := rfl
@[simp] theorem setTxn_harts (t : HTxn) (s : State) : (setTxn t s).harts = s.harts := rfl
@[simp] theorem setTxn_zng (t : HTxn) (s : State) : (setTxn t s).zng = s.zng := rfl
@[simp] theorem setTxn_hbr (t : HTxn) (s : State) : (setTxn t s).hbr = s.hbr := rfl
@[simp] theorem setTxn_hlt (t : HTxn) (s : State) : (setTxn t s).hlt = s.hlt := rfl
@[simp] theorem setTxn_sec (t : HTxn) (s : State) : (setTxn t s).sec = s.sec := rfl
@[simp] theorem setTxn_pwr (t : HTxn) (s : State) : (setTxn t s).pwr = s.pwr := rfl
@[simp] theorem setTxn_flash (t : HTxn) (s : State) : (setTxn t s).flash = s.flash := rfl
@[simp] theorem setTxn_mode (t : HTxn) (s : State) : (setTxn t s).mode = s.mode := rfl
@[simp] theorem setTxn_out (t : HTxn) (s : State) : (setTxn t s).out = s.out := rfl
@[simp] theorem setTxn_freeCtr (t : HTxn) (s : State) : (setTxn t s).freeCtr = s.freeCtr := rfl
@[simp] theorem setTxn_pending (t : HTxn) (s : State) : (setTxn t s).pending = s.pending := rfl

/-! ### setSlot -/
@[simp] theorem setSlot_cfg (b : Bool) (x : ImgSlot) (s : State) : (setSlot b x s).cfg = s.cfg := by cases b <;> rfl
@[simp] theorem setSlot_now (b : Bool) (x : ImgSlot) (s : State) : (setSlot b x s).now = s.now := by cases b <;> rfl
@[simp] theorem setSlot_xng (b : Bool) (x : ImgSlot) (s : State) : (setSlot b x s).xng = s.xng := by cases b <;> rfl
@[simp] theorem setSlot_isl (b : Bool) (x : ImgSlot) (s : State) : (setSlot b x s).isl = s.isl := by cases b <;> rfl
@[simp] theorem setSlot_fry (b : Bool) (x : ImgSlot) (s : State) : (setSlot b x s).fry = s.fry := by cases b <;> rfl
@[simp] theorem setSlot_lnc (b : Bool) (x : ImgSlot) (s : State) : (setSlot b x s).lnc = s.lnc := by cases b <;> rfl
@[simp] theorem setSlot_mem (b : Bool) (x : ImgSlot) (s : State) : (setSlot b x s).mem = s.mem := by cases b <;> rfl
@[simp] theorem setSlot_rgn (b : Bool) (x : ImgSlot) (s : State) : (setSlot b x s).rgn = s.rgn := by cases b <;> rfl
@[simp] theorem setSlot_log (b : Bool) (x : ImgSlot) (s : State) : (setSlot b x s).log = s.log := by cases b <;> rfl
@[simp] theorem setSlot_harts (b : Bool) (x : ImgSlot) (s : State) : (setSlot b x s).harts = s.harts := by cases b <;> rfl
@[simp] theorem setSlot_snd (b : Bool) (x : ImgSlot) (s : State) : (setSlot b x s).snd = s.snd := by cases b <;> rfl
@[simp] theorem setSlot_zng (b : Bool) (x : ImgSlot) (s : State) : (setSlot b x s).zng = s.zng := by cases b <;> rfl
@[simp] theorem setSlot_hbr (b : Bool) (x : ImgSlot) (s : State) : (setSlot b x s).hbr = s.hbr := by cases b <;> rfl
@[simp] theorem setSlot_hlt (b : Bool) (x : ImgSlot) (s : State) : (setSlot b x s).hlt = s.hlt := by cases b <;> rfl
@[simp] theorem setSlot_sec (b : Bool) (x : ImgSlot) (s : State) : (setSlot b x s).sec = s.sec := by cases b <;> rfl
@[simp] theorem setSlot_pwr (b : Bool) (x : ImgSlot) (s : State) : (setSlot b x s).pwr = s.pwr := by cases b <;> rfl
@[simp] theorem setSlot_flash (b : Bool) (x : ImgSlot) (s : State) : (setSlot b x s).flash = s.flash := by cases b <;> rfl
@[simp] theorem setSlot_mode (b : Bool) (x : ImgSlot) (s : State) : (setSlot b x s).mode = s.mode := by cases b <;> rfl
@[simp] theorem setSlot_out (b : Bool) (x : ImgSlot) (s : State) : (setSlot b x s).out = s.out := by cases b <;> rfl
@[simp] theorem setSlot_freeCtr (b : Bool) (x : ImgSlot) (s : State) : (setSlot b x s).freeCtr = s.freeCtr := by cases b <;> rfl
@[simp] theorem setSlot_pending (b : Bool) (x : ImgSlot) (s : State) : (setSlot b x s).pending = s.pending := by cases b <;> rfl

/-! ### setKernel -/
@[simp] theorem setKernel_cfg (r : LaneRun) (k : LaneKernel) (s : State) : (setKernel r k s).cfg = s.cfg := by cases r <;> rfl
@[simp] theorem setKernel_now (r : LaneRun) (k : LaneKernel) (s : State) : (setKernel r k s).now = s.now := by cases r <;> rfl
@[simp] theorem setKernel_xng (r : LaneRun) (k : LaneKernel) (s : State) : (setKernel r k s).xng = s.xng := by cases r <;> rfl
@[simp] theorem setKernel_ttu (r : LaneRun) (k : LaneKernel) (s : State) : (setKernel r k s).ttu = s.ttu := by cases r <;> rfl
@[simp] theorem setKernel_isl (r : LaneRun) (k : LaneKernel) (s : State) : (setKernel r k s).isl = s.isl := by cases r <;> rfl
@[simp] theorem setKernel_fry (r : LaneRun) (k : LaneKernel) (s : State) : (setKernel r k s).fry = s.fry := by cases r <;> rfl
@[simp] theorem setKernel_mem (r : LaneRun) (k : LaneKernel) (s : State) : (setKernel r k s).mem = s.mem := by cases r <;> rfl
@[simp] theorem setKernel_rgn (r : LaneRun) (k : LaneKernel) (s : State) : (setKernel r k s).rgn = s.rgn := by cases r <;> rfl
@[simp] theorem setKernel_log (r : LaneRun) (k : LaneKernel) (s : State) : (setKernel r k s).log = s.log := by cases r <;> rfl
@[simp] theorem setKernel_harts (r : LaneRun) (k : LaneKernel) (s : State) : (setKernel r k s).harts = s.harts := by cases r <;> rfl
@[simp] theorem setKernel_snd (r : LaneRun) (k : LaneKernel) (s : State) : (setKernel r k s).snd = s.snd := by cases r <;> rfl
@[simp] theorem setKernel_zng (r : LaneRun) (k : LaneKernel) (s : State) : (setKernel r k s).zng = s.zng := by cases r <;> rfl
@[simp] theorem setKernel_hbr (r : LaneRun) (k : LaneKernel) (s : State) : (setKernel r k s).hbr = s.hbr := by cases r <;> rfl
@[simp] theorem setKernel_hlt (r : LaneRun) (k : LaneKernel) (s : State) : (setKernel r k s).hlt = s.hlt := by cases r <;> rfl
@[simp] theorem setKernel_sec (r : LaneRun) (k : LaneKernel) (s : State) : (setKernel r k s).sec = s.sec := by cases r <;> rfl
@[simp] theorem setKernel_pwr (r : LaneRun) (k : LaneKernel) (s : State) : (setKernel r k s).pwr = s.pwr := by cases r <;> rfl
@[simp] theorem setKernel_flash (r : LaneRun) (k : LaneKernel) (s : State) : (setKernel r k s).flash = s.flash := by cases r <;> rfl
@[simp] theorem setKernel_mode (r : LaneRun) (k : LaneKernel) (s : State) : (setKernel r k s).mode = s.mode := by cases r <;> rfl
@[simp] theorem setKernel_out (r : LaneRun) (k : LaneKernel) (s : State) : (setKernel r k s).out = s.out := by cases r <;> rfl
@[simp] theorem setKernel_freeCtr (r : LaneRun) (k : LaneKernel) (s : State) : (setKernel r k s).freeCtr = s.freeCtr := by cases r <;> rfl
@[simp] theorem setKernel_pending (r : LaneRun) (k : LaneKernel) (s : State) : (setKernel r k s).pending = s.pending := by cases r <;> rfl

/-! ### setFuses -/
@[simp] theorem setFuses_cfg (kind : Nat) (v : Nat) (s : State) : (setFuses kind v s).cfg = s.cfg := rfl
@[simp] theorem setFuses_now (kind : Nat) (v : Nat) (s : State) : (setFuses kind v s).now = s.now := rfl
@[simp] theorem setFuses_xng (kind : Nat) (v : Nat) (s : State) : (setFuses kind v s).xng = s.xng := rfl
@[simp] theorem setFuses_ttu (kind : Nat) (v : Nat) (s : State) : (setFuses kind v s).ttu = s.ttu := rfl
@[simp] theorem setFuses_isl (kind : Nat) (v : Nat) (s : State) : (setFuses kind v s).isl = s.isl := rfl
@[simp] theorem setFuses_fry (kind : Nat) (v : Nat) (s : State) : (setFuses kind v s).fry = s.fry := rfl
@[simp] theorem setFuses_lnc (kind : Nat) (v : Nat) (s : State) : (setFuses kind v s).lnc = s.lnc := rfl
@[simp] theorem setFuses_mem (kind : Nat) (v : Nat) (s : State) : (setFuses kind v s).mem = s.mem := rfl
@[simp] theorem setFuses_rgn (kind : Nat) (v : Nat) (s : State) : (setFuses kind v s).rgn = s.rgn := rfl
@[simp] theorem setFuses_log (kind : Nat) (v : Nat) (s : State) : (setFuses kind v s).log = s.log := rfl
@[simp] theorem setFuses_harts (kind : Nat) (v : Nat) (s : State) : (setFuses kind v s).harts = s.harts := rfl
@[simp] theorem setFuses_snd (kind : Nat) (v : Nat) (s : State) : (setFuses kind v s).snd = s.snd := rfl
@[simp] theorem setFuses_zng (kind : Nat) (v : Nat) (s : State) : (setFuses kind v s).zng = s.zng := rfl
@[simp] theorem setFuses_hbr (kind : Nat) (v : Nat) (s : State) : (setFuses kind v s).hbr = s.hbr := rfl
@[simp] theorem setFuses_hlt (kind : Nat) (v : Nat) (s : State) : (setFuses kind v s).hlt = s.hlt := rfl
@[simp] theorem setFuses_sec (kind : Nat) (v : Nat) (s : State) : (setFuses kind v s).sec = s.sec := rfl
@[simp] theorem setFuses_pwr (kind : Nat) (v : Nat) (s : State) : (setFuses kind v s).pwr = s.pwr := rfl
@[simp] theorem setFuses_mode (kind : Nat) (v : Nat) (s : State) : (setFuses kind v s).mode = s.mode := rfl
@[simp] theorem setFuses_out (kind : Nat) (v : Nat) (s : State) : (setFuses kind v s).out = s.out := rfl
@[simp] theorem setFuses_freeCtr (kind : Nat) (v : Nat) (s : State) : (setFuses kind v s).freeCtr = s.freeCtr := rfl
@[simp] theorem setFuses_pending (kind : Nat) (v : Nat) (s : State) : (setFuses kind v s).pending = s.pending := rfl

/-! ### setBank -/
@[simp] theorem setBank_cfg (kind : Nat) (img : SMap Byte) (s : State) : (setBank kind img s).cfg = s.cfg := rfl
@[simp] theorem setBank_now (kind : Nat) (img : SMap Byte) (s : State) : (setBank kind img s).now = s.now := rfl
@[simp] theorem setBank_xng (kind : Nat) (img : SMap Byte) (s : State) : (setBank kind img s).xng = s.xng := rfl
@[simp] theorem setBank_ttu (kind : Nat) (img : SMap Byte) (s : State) : (setBank kind img s).ttu = s.ttu := rfl
@[simp] theorem setBank_isl (kind : Nat) (img : SMap Byte) (s : State) : (setBank kind img s).isl = s.isl := rfl
@[simp] theorem setBank_fry (kind : Nat) (img : SMap Byte) (s : State) : (setBank kind img s).fry = s.fry := rfl
@[simp] theorem setBank_lnc (kind : Nat) (img : SMap Byte) (s : State) : (setBank kind img s).lnc = s.lnc := rfl
@[simp] theorem setBank_mem (kind : Nat) (img : SMap Byte) (s : State) : (setBank kind img s).mem = s.mem := rfl
@[simp] theorem setBank_rgn (kind : Nat) (img : SMap Byte) (s : State) : (setBank kind img s).rgn = s.rgn := rfl
@[simp] theorem setBank_log (kind : Nat) (img : SMap Byte) (s : State) : (setBank kind img s).log = s.log := rfl
@[simp] theorem setBank_harts (kind : Nat) (img : SMap Byte) (s : State) : (setBank kind img s).harts = s.harts := rfl
@[simp] theorem setBank_snd (kind : Nat) (img : SMap Byte) (s : State) : (setBank kind img s).snd = s.snd := rfl
@[simp] theorem setBank_zng (kind : Nat) (img : SMap Byte) (s : State) : (setBank kind img s).zng = s.zng := rfl
@[simp] theorem setBank_hbr (kind : Nat) (img : SMap Byte) (s : State) : (setBank kind img s).hbr = s.hbr := rfl
@[simp] theorem setBank_hlt (kind : Nat) (img : SMap Byte) (s : State) : (setBank kind img s).hlt = s.hlt := rfl
@[simp] theorem setBank_sec (kind : Nat) (img : SMap Byte) (s : State) : (setBank kind img s).sec = s.sec := rfl
@[simp] theorem setBank_pwr (kind : Nat) (img : SMap Byte) (s : State) : (setBank kind img s).pwr = s.pwr := rfl
@[simp] theorem setBank_mode (kind : Nat) (img : SMap Byte) (s : State) : (setBank kind img s).mode = s.mode := rfl
@[simp] theorem setBank_out (kind : Nat) (img : SMap Byte) (s : State) : (setBank kind img s).out = s.out := rfl
@[simp] theorem setBank_freeCtr (kind : Nat) (img : SMap Byte) (s : State) : (setBank kind img s).freeCtr = s.freeCtr := rfl
@[simp] theorem setBank_pending (kind : Nat) (img : SMap Byte) (s : State) : (setBank kind img s).pending = s.pending := rfl

/-! ### dropFetch -/
@[simp] theorem dropFetch_cfg (m : Nat) (s : State) : (dropFetch m s).cfg = s.cfg := rfl
@[simp] theorem dropFetch_now (m : Nat) (s : State) : (dropFetch m s).now = s.now := rfl
@[simp] theorem dropFetch_xng (m : Nat) (s : State) : (dropFetch m s).xng = s.xng := rfl
@[simp] theorem dropFetch_ttu (m : Nat) (s : State) : (dropFetch m s).ttu = s.ttu := rfl
@[simp] theorem dropFetch_isl (m : Nat) (s : State) : (dropFetch m s).isl = s.isl := rfl
@[simp] theorem dropFetch_fry (m : Nat) (s : State) : (dropFetch m s).fry = s.fry := rfl
@[simp] theorem dropFetch_lnc (m : Nat) (s : State) : (dropFetch m s).lnc = s.lnc := rfl
@[simp] theorem dropFetch_mem (m : Nat) (s : State) : (dropFetch m s).mem = s.mem := rfl
@[simp] theorem dropFetch_rgn (m : Nat) (s : State) : (dropFetch m s).rgn = s.rgn := rfl
@[simp] theorem dropFetch_log (m : Nat) (s : State) : (dropFetch m s).log = s.log := rfl
@[simp] theorem dropFetch_harts (m : Nat) (s : State) : (dropFetch m s).harts = s.harts := rfl
@[simp] theorem dropFetch_snd (m : Nat) (s : State) : (dropFetch m s).snd = s.snd := rfl
@[simp] theorem dropFetch_hbr (m : Nat) (s : State) : (dropFetch m s).hbr = s.hbr := rfl
@[simp] theorem dropFetch_hlt (m : Nat) (s : State) : (dropFetch m s).hlt = s.hlt := rfl
@[simp] theorem dropFetch_sec (m : Nat) (s : State) : (dropFetch m s).sec = s.sec := rfl
@[simp] theorem dropFetch_pwr (m : Nat) (s : State) : (dropFetch m s).pwr = s.pwr := rfl
@[simp] theorem dropFetch_flash (m : Nat) (s : State) : (dropFetch m s).flash = s.flash := rfl
@[simp] theorem dropFetch_mode (m : Nat) (s : State) : (dropFetch m s).mode = s.mode := rfl
@[simp] theorem dropFetch_out (m : Nat) (s : State) : (dropFetch m s).out = s.out := rfl
@[simp] theorem dropFetch_freeCtr (m : Nat) (s : State) : (dropFetch m s).freeCtr = s.freeCtr := rfl
@[simp] theorem dropFetch_pending (m : Nat) (s : State) : (dropFetch m s).pending = s.pending := rfl

/-! ### logOnly -/
@[simp] theorem logOnly_cfg (c n : Nat) (fs : List (Nat × Nat)) (s : State) : (logOnly c n fs s).cfg = s.cfg := rfl
@[simp] theorem logOnly_now (c n : Nat) (fs : List (Nat × Nat)) (s : State) : (logOnly c n fs s).now = s.now := rfl
@[simp] theorem logOnly_xng (c n : Nat) (fs : List (Nat × Nat)) (s : State) : (logOnly c n fs s).xng = s.xng := rfl
@[simp] theorem logOnly_ttu (c n : Nat) (fs : List (Nat × Nat)) (s : State) : (logOnly c n fs s).ttu = s.ttu := rfl
@[simp] theorem logOnly_isl (c n : Nat) (fs : List (Nat × Nat)) (s : State) : (logOnly c n fs s).isl = s.isl := rfl
@[simp] theorem logOnly_fry (c n : Nat) (fs : List (Nat × Nat)) (s : State) : (logOnly c n fs s).fry = s.fry := rfl
@[simp] theorem logOnly_lnc (c n : Nat) (fs : List (Nat × Nat)) (s : State) : (logOnly c n fs s).lnc = s.lnc := rfl
@[simp] theorem logOnly_mem (c n : Nat) (fs : List (Nat × Nat)) (s : State) : (logOnly c n fs s).mem = s.mem := rfl
@[simp] theorem logOnly_rgn (c n : Nat) (fs : List (Nat × Nat)) (s : State) : (logOnly c n fs s).rgn = s.rgn := rfl
@[simp] theorem logOnly_harts (c n : Nat) (fs : List (Nat × Nat)) (s : State) : (logOnly c n fs s).harts = s.harts := rfl
@[simp] theorem logOnly_snd (c n : Nat) (fs : List (Nat × Nat)) (s : State) : (logOnly c n fs s).snd = s.snd := rfl
@[simp] theorem logOnly_zng (c n : Nat) (fs : List (Nat × Nat)) (s : State) : (logOnly c n fs s).zng = s.zng := rfl
@[simp] theorem logOnly_hbr (c n : Nat) (fs : List (Nat × Nat)) (s : State) : (logOnly c n fs s).hbr = s.hbr := rfl
@[simp] theorem logOnly_hlt (c n : Nat) (fs : List (Nat × Nat)) (s : State) : (logOnly c n fs s).hlt = s.hlt := rfl
@[simp] theorem logOnly_sec (c n : Nat) (fs : List (Nat × Nat)) (s : State) : (logOnly c n fs s).sec = s.sec := rfl
@[simp] theorem logOnly_pwr (c n : Nat) (fs : List (Nat × Nat)) (s : State) : (logOnly c n fs s).pwr = s.pwr := rfl
@[simp] theorem logOnly_flash (c n : Nat) (fs : List (Nat × Nat)) (s : State) : (logOnly c n fs s).flash = s.flash := rfl
@[simp] theorem logOnly_mode (c n : Nat) (fs : List (Nat × Nat)) (s : State) : (logOnly c n fs s).mode = s.mode := rfl
@[simp] theorem logOnly_out (c n : Nat) (fs : List (Nat × Nat)) (s : State) : (logOnly c n fs s).out = s.out := rfl
@[simp] theorem logOnly_freeCtr (c n : Nat) (fs : List (Nat × Nat)) (s : State) : (logOnly c n fs s).freeCtr = s.freeCtr := rfl
@[simp] theorem logOnly_pending (c n : Nat) (fs : List (Nat × Nat)) (s : State) : (logOnly c n fs s).pending = s.pending := rfl


/-! ### Time -/

@[simp] theorem pass_cfg (d : Nat) (s : State) : (pass d s).cfg = s.cfg := by unfold pass; split <;> rfl
@[simp] theorem pass_ttu (d : Nat) (s : State) : (pass d s).ttu = s.ttu := by unfold pass; split <;> rfl
@[simp] theorem pass_isl (d : Nat) (s : State) : (pass d s).isl = s.isl := by unfold pass; split <;> rfl
@[simp] theorem pass_fry (d : Nat) (s : State) : (pass d s).fry = s.fry := by unfold pass; split <;> rfl
@[simp] theorem pass_lnc (d : Nat) (s : State) : (pass d s).lnc = s.lnc := by unfold pass; split <;> rfl
@[simp] theorem pass_mem (d : Nat) (s : State) : (pass d s).mem = s.mem := by unfold pass; split <;> rfl
@[simp] theorem pass_rgn (d : Nat) (s : State) : (pass d s).rgn = s.rgn := by unfold pass; split <;> rfl
@[simp] theorem pass_log (d : Nat) (s : State) : (pass d s).log = s.log := by unfold pass; split <;> rfl
@[simp] theorem pass_harts (d : Nat) (s : State) : (pass d s).harts = s.harts := by unfold pass; split <;> rfl
@[simp] theorem pass_snd (d : Nat) (s : State) : (pass d s).snd = s.snd := by unfold pass; split <;> rfl
@[simp] theorem pass_zng (d : Nat) (s : State) : (pass d s).zng = s.zng := by unfold pass; split <;> rfl
@[simp] theorem pass_hbr (d : Nat) (s : State) : (pass d s).hbr = s.hbr := by unfold pass; split <;> rfl
@[simp] theorem pass_hlt (d : Nat) (s : State) : (pass d s).hlt = s.hlt := by unfold pass; split <;> rfl
@[simp] theorem pass_sec (d : Nat) (s : State) : (pass d s).sec = s.sec := by unfold pass; split <;> rfl
@[simp] theorem pass_pwr (d : Nat) (s : State) : (pass d s).pwr = s.pwr := by unfold pass; split <;> rfl
@[simp] theorem pass_flash (d : Nat) (s : State) : (pass d s).flash = s.flash := by unfold pass; split <;> rfl
@[simp] theorem pass_mode (d : Nat) (s : State) : (pass d s).mode = s.mode := by unfold pass; split <;> rfl
@[simp] theorem pass_out (d : Nat) (s : State) : (pass d s).out = s.out := by unfold pass; split <;> rfl
@[simp] theorem pass_freeCtr (d : Nat) (s : State) : (pass d s).freeCtr = s.freeCtr := by unfold pass; split <;> rfl
@[simp] theorem pass_pending (d : Nat) (s : State) : (pass d s).pending = s.pending := by unfold pass; split <;> rfl
@[simp] theorem pass_now (d : Nat) (s : State) : (pass d s).now = s.now + d := by
  unfold pass
  split
  · rename_i h; rw [h]; rfl
  · rfl
@[simp] theorem passNow_now (n : Nat) (s : State) : (passNow n s).now = max s.now n := by
  unfold passNow
  rw [pass_now]
  omega
@[simp] theorem passNow_cfg (n : Nat) (s : State) : (passNow n s).cfg = s.cfg := pass_cfg _ _
@[simp] theorem passNow_ttu (n : Nat) (s : State) : (passNow n s).ttu = s.ttu := pass_ttu _ _
@[simp] theorem passNow_isl (n : Nat) (s : State) : (passNow n s).isl = s.isl := pass_isl _ _
@[simp] theorem passNow_fry (n : Nat) (s : State) : (passNow n s).fry = s.fry := pass_fry _ _
@[simp] theorem passNow_lnc (n : Nat) (s : State) : (passNow n s).lnc = s.lnc := pass_lnc _ _
@[simp] theorem passNow_mem (n : Nat) (s : State) : (passNow n s).mem = s.mem := pass_mem _ _
@[simp] theorem passNow_rgn (n : Nat) (s : State) : (passNow n s).rgn = s.rgn := pass_rgn _ _
@[simp] theorem passNow_log (n : Nat) (s : State) : (passNow n s).log = s.log := pass_log _ _
@[simp] theorem passNow_harts (n : Nat) (s : State) : (passNow n s).harts = s.harts := pass_harts _ _
@[simp] theorem passNow_snd (n : Nat) (s : State) : (passNow n s).snd = s.snd := pass_snd _ _
@[simp] theorem passNow_zng (n : Nat) (s : State) : (passNow n s).zng = s.zng := pass_zng _ _
@[simp] theorem passNow_hbr (n : Nat) (s : State) : (passNow n s).hbr = s.hbr := pass_hbr _ _
@[simp] theorem passNow_hlt (n : Nat) (s : State) : (passNow n s).hlt = s.hlt := pass_hlt _ _
@[simp] theorem passNow_sec (n : Nat) (s : State) : (passNow n s).sec = s.sec := pass_sec _ _
@[simp] theorem passNow_pwr (n : Nat) (s : State) : (passNow n s).pwr = s.pwr := pass_pwr _ _
@[simp] theorem passNow_flash (n : Nat) (s : State) : (passNow n s).flash = s.flash := pass_flash _ _
@[simp] theorem passNow_mode (n : Nat) (s : State) : (passNow n s).mode = s.mode := pass_mode _ _
@[simp] theorem passNow_out (n : Nat) (s : State) : (passNow n s).out = s.out := pass_out _ _
@[simp] theorem passNow_freeCtr (n : Nat) (s : State) : (passNow n s).freeCtr = s.freeCtr := pass_freeCtr _ _
@[simp] theorem passNow_pending (n : Nat) (s : State) : (passNow n s).pending = s.pending := pass_pending _ _
@[simp] theorem passCycle_cfg (n : Nat) (s : State) : (passCycle n s).cfg = s.cfg := pass_cfg _ _
@[simp] theorem passCycle_ttu (n : Nat) (s : State) : (passCycle n s).ttu = s.ttu := pass_ttu _ _
@[simp] theorem passCycle_isl (n : Nat) (s : State) : (passCycle n s).isl = s.isl := pass_isl _ _
@[simp] theorem passCycle_fry (n : Nat) (s : State) : (passCycle n s).fry = s.fry := pass_fry _ _
@[simp] theorem passCycle_lnc (n : Nat) (s : State) : (passCycle n s).lnc = s.lnc := pass_lnc _ _
@[simp] theorem passCycle_mem (n : Nat) (s : State) : (passCycle n s).mem = s.mem := pass_mem _ _
@[simp] theorem passCycle_rgn (n : Nat) (s : State) : (passCycle n s).rgn = s.rgn := pass_rgn _ _
@[simp] theorem passCycle_log (n : Nat) (s : State) : (passCycle n s).log = s.log := pass_log _ _
@[simp] theorem passCycle_harts (n : Nat) (s : State) : (passCycle n s).harts = s.harts := pass_harts _ _
@[simp] theorem passCycle_snd (n : Nat) (s : State) : (passCycle n s).snd = s.snd := pass_snd _ _
@[simp] theorem passCycle_zng (n : Nat) (s : State) : (passCycle n s).zng = s.zng := pass_zng _ _
@[simp] theorem passCycle_hbr (n : Nat) (s : State) : (passCycle n s).hbr = s.hbr := pass_hbr _ _
@[simp] theorem passCycle_hlt (n : Nat) (s : State) : (passCycle n s).hlt = s.hlt := pass_hlt _ _
@[simp] theorem passCycle_sec (n : Nat) (s : State) : (passCycle n s).sec = s.sec := pass_sec _ _
@[simp] theorem passCycle_pwr (n : Nat) (s : State) : (passCycle n s).pwr = s.pwr := pass_pwr _ _
@[simp] theorem passCycle_flash (n : Nat) (s : State) : (passCycle n s).flash = s.flash := pass_flash _ _
@[simp] theorem passCycle_mode (n : Nat) (s : State) : (passCycle n s).mode = s.mode := pass_mode _ _
@[simp] theorem passCycle_out (n : Nat) (s : State) : (passCycle n s).out = s.out := pass_out _ _
@[simp] theorem passCycle_freeCtr (n : Nat) (s : State) : (passCycle n s).freeCtr = s.freeCtr := pass_freeCtr _ _
@[simp] theorem passCycle_pending (n : Nat) (s : State) : (passCycle n s).pending = s.pending := pass_pending _ _

/-! ### Events -/

/-- An event of no weight is recorded, and nothing else happens (R380). -/
theorem raise_light (c n : Nat) (fs : List (Nat × Nat)) (s : State) (h : weight64 c = 0) : raise c n fs s = logOnly c n fs s :=
  if_pos h

/-! ### Page tags -/

/-- One tag set: every other page keeps its own. -/
theorem tag_setTag (p q : Nat) (t : Tag) (s : State) : tag (setTag p t s) q = if q = p then t else tag s q := by
  by_cases hq : q = p
  · subst hq
    rw [if_pos rfl]
    exact look_put_same _ _ _ _
  · rw [if_neg hq]
    exact look_put_other _ _ _ _ _ _ hq

/-- Tags of a list of pages changed once each: the pages of the list change and the others keep theirs. -/
theorem tag_setTags (f : Tag → Tag) (ps : List Nat) (s : State) (hn : ps.Nodup) (q : Nat) :
    tag (setTags f ps s) q = if q ∈ ps then f (tag s q) else tag s q := by
  unfold setTags
  induction ps generalizing s with
  | nil => rfl
  | cons p r ih =>
    obtain ⟨h1, h2⟩ := List.nodup_cons.1 hn
    rw [List.foldl_cons, ih _ h2, tag_setTag]
    by_cases hq : q = p
    · subst hq; simp [h1]
    · simp [hq]

/-- Tags changed leave everything but the tags alone. -/
theorem setTags_only (f : Tag → Tag) (ps : List Nat) (s : State) :
    setTags f ps s = { s with rgn := { s.rgn with tags := (setTags f ps s).rgn.tags } } := by
  unfold setTags
  induction ps generalizing s with
  | nil => rfl
  | cons p r ih => rw [List.foldl_cons, ih]; rfl

end Sys2Proof.Machine
end

