-- ==== Sys2Proof/Laws/Bytes.lean ====
section
/-! SUPPORT. Lengths of byte strings: numbers, padding, digests and attestation reports. -/

namespace Sys2Proof.Machine

/-- A number laid out in n bytes is n bytes long. -/
theorem toLE_len (n v) : (toLE n v).length = n := by induction n generalizing v <;> simp [toLE, *]

/-- Bytes padded to n are n bytes long. -/
theorem padTo_len (n : Nat) (bs : List Byte) : (padTo n bs).length = n := by simp [padTo, zeros]; omega

/-- Planes given lane by lane hold 25 lanes. -/
theorem planesOf_len (f) : (planesOf f).flatten.length = 25 := by
  simp only [planesOf, List.length_flatten, List.map_map, Function.comp_def, List.length_map, List.length_range]
  rfl

/-- Keccak-f answers planes given lane by lane. -/
theorem keccakF_planes (a) : ∃ f, keccakF a = planesOf f := by
  have e : List.range 24 = List.range 23 ++ [23] := List.range_succ
  unfold keccakF
  rw [e, List.foldl_append]
  exact ⟨_, List.foldl_cons ..⟩

/-- Absorbing blocks keeps planes given lane by lane. -/
theorem absorb_planes (l : List (List Byte)) (a : Planes) (h : ∃ f, a = planesOf f) :
    ∃ f, l.foldl absorb a = planesOf f := by
  induction l generalizing a with
  | nil => exact h
  | cons x r ih => exact ih _ (keccakF_planes _)

/-- A SHA3-512 digest is 64 bytes long. -/
theorem sha3_len (bs : List Byte) : (sha3 bs).length = 64 := by
  obtain ⟨f, h⟩ := absorb_planes (chunks 72 (sha3Pad bs)) _ ⟨fun _ _ => 0, rfl⟩
  unfold sha3
  rw [h]
  have hl : ((planesOf f).flatten.take 8).length = 8 := by rw [List.length_take, planesOf_len]; rfl
  simp only [List.length_flatMap, toLE_len, List.map_const', List.sum_replicate, hl]
  rfl

/-- The body of an attestation report is 640 bytes long (Table 16.2). -/
theorem reportBody_len (u nonce) (hA : ∀ i, u.ttu.slotA.image = some i → i.digest.length = 64)
    (hB : ∀ i, u.ttu.slotB.image = some i → i.digest.length = 64) : (reportBody u nonce).length = 640 := by
  have hd : ∀ sl : ImgSlot, (∀ i, sl.image = some i → i.digest.length = 64) → (slotDigest sl).length = 64 := by
    intro sl h; unfold slotDigest; split
    · cases hi : sl.image with
      | none => simp [zeros]
      | some i => simpa using h i hi
    · simp [zeros]
  have h1 : (slotDigest (actSlot u)).length = 64 := by apply hd; unfold actSlot; split <;> assumption
  have h2 : (slotDigest (shadowSlot u)).length = 64 := by apply hd; unfold shadowSlot; split <;> assumption
  unfold reportBody
  simp only [List.length_append, toLE_len, padTo_len, measOf, h1, h2, sha3_len, zeros, List.length_replicate]

/-- The first index of a range that fits is the least. -/
theorem find_least (P : Nat → Bool) (n k : Nat) (hk : k < n) (h1 : P k = true) (h2 : ∀ j < k, P j = false) :
    (List.range n).find? P = some k := by
  rw [List.find?_range_eq_some]
  refine ⟨h1, by simpa using hk, ?_⟩
  intro j hj; simpa using h2 j hj

end Sys2Proof.Machine
end

