-- ==== Sys2Proof/Laws/Memory.lean ====
section
/-! SUPPORT. Byte memories: every operation keeps the canonical form, and what is read after a write. -/

namespace Sys2Proof.Machine

/-- The canonical form, said of all pairs: no listed zero, and addresses strictly rising. -/
theorem memWf_iff (m : SMap Byte) :
    Memory.wf m = true ↔ (∀ p ∈ m, p.2 ≠ 0) ∧ m.Pairwise (fun p q => p.1 < q.1) := by
  induction m with
  | nil => simp [Memory.wf]
  | cons p r ih =>
    cases r with
    | nil => simp [Memory.wf]
    | cons q t =>
      have hs : Memory.wf (p :: q :: t) = true ↔ p.2 ≠ 0 ∧ p.1 < q.1 ∧ Memory.wf (q :: t) = true := by
        simp [Memory.wf, and_assoc]
      rw [hs, ih]
      constructor
      · rintro ⟨h1, h2, h3, h4⟩
        refine ⟨fun x hx => ?_, List.pairwise_cons.2 ⟨fun x hx => ?_, h4⟩⟩
        · rcases List.mem_cons.1 hx with rfl | hx
          · exact h1
          · exact h3 x hx
        · rcases List.mem_cons.1 hx with rfl | hx
          · exact h2
          · exact lt_trans h2 ((List.pairwise_cons.1 h4).1 x hx)
      · rintro ⟨h1, h2⟩
        obtain ⟨h3, h4⟩ := List.pairwise_cons.1 h2
        exact ⟨h1 p (by simp), h3 q (by simp), fun x hx => h1 x (List.mem_cons_of_mem _ hx), h4⟩

/-- A part of a canonical memory is canonical. -/
theorem memWf_filter (m : SMap Byte) (f : Nat × Byte → Bool) (h : Memory.wf m = true) : Memory.wf (m.filter f) = true := by
  rw [memWf_iff] at h ⊢
  exact ⟨fun p hp => h.1 p (List.mem_of_mem_filter hp), h.2.filter f⟩

/-- Two canonical memories, one wholly below the other, join to a canonical one. -/
theorem memWf_append (m n : SMap Byte) (hm : Memory.wf m = true) (hn : Memory.wf n = true)
    (hmn : ∀ p ∈ m, ∀ q ∈ n, p.1 < q.1) : Memory.wf (m ++ n) = true := by
  rw [memWf_iff] at hm hn ⊢
  refine ⟨fun p hp => ?_, List.pairwise_append.2 ⟨hm.2, hn.2, hmn⟩⟩
  rcases List.mem_append.1 hp with hp | hp
  · exact hm.1 p hp
  · exact hn.1 p hp

/-- The entries of a run of bytes are canonical, and lie in the run. -/
theorem memWf_entriesOf (bs : List Byte) : ∀ a,
    Memory.wf (entriesOf a bs) = true ∧ ∀ p ∈ entriesOf a bs, a ≤ p.1 ∧ p.1 < a + bs.length := by
  induction bs with
  | nil => intro a; simp [entriesOf, Memory.wf]
  | cons b r ih =>
    intro a
    obtain ⟨h1, h2⟩ := ih (a + 1)
    unfold entriesOf
    split
    · refine ⟨h1, fun p hp => ?_⟩
      have := h2 p hp
      simp only [List.length_cons]; omega
    · rename_i hb
      constructor
      · have := memWf_append [(a, b)] (entriesOf (a + 1) r) (by simpa [Memory.wf] using hb) h1 (by
          intro p hp q hq
          have := h2 q hq
          simp only [List.mem_singleton] at hp
          subst hp
          simp only
          omega)
        simpa using this
      · intro p hp
        simp only [List.length_cons]
        rcases List.mem_cons.1 hp with rfl | hp
        · simp only; omega
        · have := h2 p hp; omega

/-- Writing bytes keeps the canonical form. -/
theorem memWf_setBytes (m : SMap Byte) (a : Nat) (bs : List Byte) (h : Memory.wf m = true) :
    Memory.wf (setBytes m a bs) = true := by
  obtain ⟨h1, h2⟩ := memWf_entriesOf bs a
  unfold setBytes
  refine memWf_append _ _ (memWf_append _ _ (memWf_filter _ _ h) h1 ?_) (memWf_filter _ _ h) ?_
  · intro p hp q hq
    have hp := List.of_mem_filter hp
    have := h2 q hq
    simp only [decide_eq_true_eq] at hp
    omega
  · intro p hp q hq
    have hq := List.of_mem_filter hq
    simp only [decide_eq_true_eq] at hq
    rcases List.mem_append.1 hp with hp | hp
    · have hp := List.of_mem_filter hp
      simp only [decide_eq_true_eq] at hp
      omega
    · have := h2 p hp
      omega

/-- Copying bytes from another canonical memory keeps the canonical form. -/
theorem memWf_copyBytes (m from_ : SMap Byte) (dst src n : Nat) (h : Memory.wf m = true) (hf : Memory.wf from_ = true) :
    Memory.wf (copyBytes m dst from_ src n) = true := by
  have hmid : ∀ q ∈ ((from_.filter fun p => decide (src ≤ p.1) && decide (p.1 < src + n)).map
      fun p => (p.1 - src + dst, p.2)), dst ≤ q.1 ∧ q.1 < dst + n := by
    intro q hq
    obtain ⟨p, hp, rfl⟩ := List.mem_map.1 hq
    have := List.of_mem_filter hp
    simp only [Bool.and_eq_true, decide_eq_true_eq] at this
    simp only
    omega
  have hw : Memory.wf ((from_.filter fun p => decide (src ≤ p.1) && decide (p.1 < src + n)).map
      fun p => (p.1 - src + dst, p.2)) = true := by
    have hp := memWf_filter from_ (fun p => decide (src ≤ p.1) && decide (p.1 < src + n)) hf
    rw [memWf_iff] at hp ⊢
    refine ⟨fun q hq => ?_, ?_⟩
    · obtain ⟨p, hp', rfl⟩ := List.mem_map.1 hq
      exact hp.1 p hp'
    · rw [List.pairwise_map]
      refine List.Pairwise.imp_of_mem ?_ hp.2
      intro a b ha hb hab
      have ha := List.of_mem_filter ha
      have hb := List.of_mem_filter hb
      simp only [Bool.and_eq_true, decide_eq_true_eq] at ha hb
      simp only
      omega
  unfold copyBytes
  refine memWf_append _ _ (memWf_append _ _ (memWf_filter _ _ h) hw ?_) (memWf_filter _ _ h) ?_
  · intro p hp q hq
    have hp := List.of_mem_filter hp
    have := hmid q hq
    simp only [decide_eq_true_eq] at hp
    omega
  · intro p hp q hq
    have hq := List.of_mem_filter hq
    simp only [decide_eq_true_eq] at hq
    rcases List.mem_append.1 hp with hp | hp
    · have hp := List.of_mem_filter hp
      simp only [decide_eq_true_eq] at hp
      omega
    · have := hmid p hp
      omega

end Sys2Proof.Machine
end

