-- ==== Sys2Proof/Laws/Kept.lean ====
section
/-! SUPPORT. How `Kept` passes through record updates, folds, pairs and outcomes. The files beside this one say it of each
operation of the model, in the order of the model's files. -/

namespace Sys2Proof.Machine

/-- A record update that touches none of the parts that `Kept` speaks of. -/
theorem kept_mk {z t : State} {now xng ttu isl fry lnc mem rgn log harts snd zng hbr hlt sec pwr flash mode out freeCtr}
    (hi : isl.store = t.isl.store) (hm : mem.cells = t.mem.cells) (hu : flash.uds = t.flash.uds)
    (hs : flash.serial = t.flash.serial) (hr : flash.rollback = t.flash.rollback) :
    Kept z ⟨t.cfg, now, xng, ttu, isl, fry, lnc, mem, rgn, log, harts, snd, zng, hbr, hlt, sec, pwr, flash, mode, out,
      freeCtr, t.pending⟩ = Kept z t := by
  simp only [Kept, hi, hm, hu, hs, hr]

/-- Bytes of an islet store written. -/
theorem kept_store {z t u : State} {a bs} (h : Kept z t) (h1 : u.cfg = t.cfg) (h2 : u.pending = t.pending)
    (h3 : u.mem.cells = t.mem.cells) (h4 : u.flash = t.flash) (h5 : u.isl.store = setBytes t.isl.store a bs) :
    Kept z u := by
  obtain ⟨g1, g2, g3, g4, g5, g6, g7⟩ := h
  refine ⟨h1.trans g1, h2.trans g2, h4 ▸ g3, h4 ▸ g4, h4 ▸ g5, h3 ▸ g6, ?_⟩
  rw [h5]
  exact memWf_setBytes _ _ _ g7

/-- The state of a pair that an equation names. -/
theorem kept_fst {z : State} {α : Type} {p : State × α} {a : State} {b : α} (h : p = (a, b)) (k : Kept z p.1) :
    Kept z a := by
  rw [h] at k
  exact k

/-- A pair formed from another pair. -/
theorem kept_pair {z : State} {β γ : Type} {r : State × β} (f : State × β → γ) (h : Kept z r.1) :
    Kept z (r.1, f r).1 := h

/-- A fold over states. -/
theorem kept_foldl {z : State} {α : Type} {F : State → α → State} {l : List α} {s : State} (h : Kept z s)
    (hF : ∀ s x, Kept z s → Kept z (F s x)) : Kept z (l.foldl F s) := by
  induction l generalizing s with
  | nil => exact h
  | cons x r ih => exact ih (hF _ _ h)

/-- A fold over a state and something beside it. -/
theorem kept_foldl_fst {z : State} {α β : Type} {F : State × β → α → State × β} {l : List α} {s : State × β}
    (h : Kept z s.1) (hF : ∀ s b x, Kept z s → Kept z (F (s, b) x).1) : Kept z (l.foldl F s).1 := by
  induction l generalizing s with
  | nil => exact h
  | cons x r ih => exact ih (hF s.1 s.2 _ h)

/-- A repeated operation. -/
theorem kept_iter {z : State} {F : State → State} (hF : ∀ s, Kept z s → Kept z (F s)) :
    ∀ n s, Kept z s → Kept z (iter F n s)
  | 0, _, h => h
  | n + 1, _, h => kept_iter hF n _ (hF _ h)

/-- A command's outcome keeps what its next state keeps. -/
def KeptNext (z : State) (o : Host.Outcome State Fault Refusal) : Prop := ∀ t, o = .next t → Kept z t

/-- The outcome that answers a state. -/
theorem keptNext_next {z s : State} (h : Kept z s) : KeptNext z (.next s) := by
  intro t ht
  cases ht
  exact h

end Sys2Proof.Machine
end

