-- ==== Sys2Proof/Laws/KeptData.lean ====
section
/-! SUPPORT. `Kept` of each operation and command of Machine/Data.lean. -/

set_option maxRecDepth 8000

namespace Sys2Proof.Machine

theorem kept_drawn {z : State} {s : State} (h : Kept z s) :
    Kept z (drawn s) := by
  unfold drawn
  try dsimp only
  repeat' (first
    | with_reducible assumption | simp only [kept_mk])

theorem kept_draw {z : State} {s : State} (h : Kept z s) :
    Kept z (draw s).1 := by
  unfold draw
  try dsimp only
  repeat' (first
    | with_reducible assumption | simp only [kept_mk])

end Sys2Proof.Machine
end

