-- ==== Sys2Proof/Laws/KeptSend.lean ====
section
/-! SUPPORT. `Kept` of each operation and command of Machine/Send.lean. -/

set_option maxRecDepth 8000

namespace Sys2Proof.Machine

theorem kept_emit {z : State} {x0 : Out} {s : State} (h : Kept z s) :
    Kept z (emit x0 s) := by
  unfold emit
  try dsimp only
  repeat' (first
    | with_reducible assumption | simp only [kept_mk])

theorem kept_setPort {z : State} {x0 : Nat} {x1 : Port} {s : State} (h : Kept z s) :
    Kept z (setPort x0 x1 s) := by
  unfold setPort
  try dsimp only
  repeat' (first
    | with_reducible assumption | simp only [kept_mk])

theorem kept_sendFlit {z : State} {x0 : Nat} {x1 : Port} {s : State} (h : Kept z s) :
    Kept z (sendFlit x0 x1 s) := by
  unfold sendFlit
  try dsimp only
  repeat' (first
    | with_reducible assumption | with_reducible apply kept_emit | with_reducible apply kept_setPort)

theorem kept_pumpAux {z : State} {x0 : Nat} {x1 : Nat} {s : State} (h : Kept z s) :
    Kept z (pumpAux x0 x1 s) := by
  induction x0 generalizing x1 s with
  | zero =>
    unfold pumpAux
    try dsimp only
    repeat' (with_reducible assumption)
  | succ n ih =>
    unfold pumpAux
    try dsimp only
    repeat' (first
      | with_reducible assumption | with_reducible apply ih | with_reducible apply kept_sendFlit
      | simp only [kept_mk] | split)

theorem kept_pump {z : State} {x0 : Nat} {s : State} (h : Kept z s) :
    Kept z (pump x0 s) := by
  unfold pump
  try dsimp only
  repeat' (first
    | with_reducible assumption | with_reducible apply kept_pumpAux)

theorem kept_sendTxn {z : State} {x0 : Nat} {x1 : Nat} {x2 : List Byte} {s : State} (h : Kept z s) :
    Kept z (sendTxn x0 x1 x2 s) := by
  unfold sendTxn
  try dsimp only
  repeat' (first
    | with_reducible assumption | with_reducible apply kept_pump | with_reducible apply kept_setPort)

theorem kept_hostIrqOn {z : State} {x0 : Nat} {x1 : Nat} {x2 : Nat} {s : State} (h : Kept z s) :
    Kept z (hostIrqOn x0 x1 x2 s) := by
  unfold hostIrqOn
  try dsimp only
  repeat' (first
    | with_reducible assumption | with_reducible apply kept_sendTxn)

theorem kept_eventIrq {z : State} {x0 : Nat} {x1 : Nat} {s : State} (h : Kept z s) :
    Kept z (eventIrq x0 x1 s) := by
  unfold eventIrq
  try dsimp only
  repeat' (first
    | with_reducible assumption | with_reducible apply kept_hostIrqOn | with_reducible apply kept_emit
    | simp only [kept_mk] | split)

theorem kept_issueOn {z : State} {x0 : Nat} {x1 : HostReq} {s : State} (h : Kept z s) :
    Kept z (issueOn x0 x1 s) := by
  unfold issueOn
  try dsimp only
  repeat' (first
    | with_reducible assumption | with_reducible apply kept_sendTxn | with_reducible apply kept_drawn
    | simp only [kept_mk])

theorem kept_issueAux {z : State} {x0 : Nat} {x1 : HostReq} {s : State} (h : Kept z s) :
    Kept z (issueAux x0 x1 s).1 := by
  induction x0 generalizing x1 s with
  | zero =>
    unfold issueAux
    try dsimp only
    repeat' (with_reducible assumption)
  | succ n ih =>
    unfold issueAux
    try dsimp only
    repeat' (first
      | with_reducible assumption | with_reducible apply ih | with_reducible apply kept_issueOn
      | simp only [kept_mk] | split)

theorem kept_pumpHost {z : State} {s : State} (h : Kept z s) :
    Kept z (pumpHost s) := by
  unfold pumpHost
  try dsimp only
  repeat' (first
    | with_reducible assumption | with_reducible apply kept_issueAux | simp only [kept_mk] | split
    | with_reducible refine kept_fst (by assumption) ?_ | with_reducible refine kept_foldl ?_ (fun _ _ _ => ?_)
    | with_reducible refine kept_foldl_fst ?_ (fun _ _ _ _ => ?_))

theorem kept_request {z : State} {x0 : HostReq} {s : State} (h : Kept z s) :
    Kept z (request x0 s) := by
  unfold request
  try dsimp only
  repeat' (first
    | with_reducible assumption | with_reducible apply kept_pumpHost | simp only [kept_mk])

theorem kept_hostRead {z : State} {x0 : Nat} {x1 : Nat} {x2 : HostUse} {s : State} (h : Kept z s) :
    Kept z (hostRead x0 x1 x2 s) := by
  unfold hostRead
  try dsimp only
  repeat' (first
    | with_reducible assumption | with_reducible apply kept_request)

theorem kept_hostWrite {z : State} {x0 : Nat} {x1 : List Byte} {x2 : HostUse} {s : State} (h : Kept z s) :
    Kept z (hostWrite x0 x1 x2 s) := by
  unfold hostWrite
  try dsimp only
  repeat' (first
    | with_reducible assumption | with_reducible apply kept_request)

theorem kept_peerWrite {z : State} {x0 : Nat} {x1 : Nat} {x2 : Nat} {x3 : List Byte} {x4 : HostUse} {s :
    State} (h : Kept z s) :
    Kept z (peerWrite x0 x1 x2 x3 x4 s) := by
  unfold peerWrite
  try dsimp only
  repeat' (first
    | with_reducible assumption | with_reducible apply kept_request)

end Sys2Proof.Machine
end

