-- ==== Sys2Proof/Laws/KeptOps.lean ====
section
/-! SUPPORT. `Kept` of each operation and command of Machine/Ops.lean. -/

set_option maxRecDepth 8000

namespace Sys2Proof.Machine

theorem kept_logOnly {z : State} {x0 : Nat} {x1 : Nat} {x2 : List (Nat × Nat)} {s : State} (h : Kept z s) :
    Kept z (logOnly x0 x1 x2 s) := by
  unfold logOnly
  try dsimp only
  repeat' (first
    | with_reducible assumption | simp only [kept_mk])

theorem kept_secureRefused {z : State} {s : State} (h : Kept z s) :
    Kept z (secureRefused s) := by
  unfold secureRefused
  try dsimp only
  repeat' (first
    | with_reducible assumption | with_reducible apply kept_logOnly)

theorem kept_secureFailed {z : State} {s : State} (h : Kept z s) :
    Kept z (secureFailed s) := by
  unfold secureFailed
  try dsimp only
  repeat' (first
    | with_reducible assumption | with_reducible apply kept_secureRefused | simp only [kept_mk])

theorem kept_armSecuring {z : State} {s : State} (h : Kept z s) :
    Kept z (armSecuring s) := by
  unfold armSecuring
  try dsimp only
  repeat' (first
    | with_reducible assumption | simp only [kept_mk] | split)

theorem kept_requestSecuring {z : State} {s : State} (h : Kept z s) :
    Kept z (requestSecuring s) := by
  unfold requestSecuring
  try dsimp only
  repeat' (first
    | with_reducible assumption | with_reducible apply kept_secureRefused
    | with_reducible apply kept_armSecuring | simp only [kept_mk] | split)

theorem kept_requestCheck {z : State} {x0 : Nat} {s : State} (h : Kept z s) :
    Kept z (requestCheck x0 s) := by
  unfold requestCheck
  try dsimp only
  repeat' (first
    | with_reducible assumption | with_reducible apply kept_requestSecuring | with_reducible apply kept_eventIrq
    | with_reducible apply kept_logOnly | simp only [kept_mk] | split)

theorem kept_raise {z : State} {x0 : Nat} {x1 : Nat} {x2 : List (Nat × Nat)} {s : State} (h : Kept z s) :
    Kept z (raise x0 x1 x2 s) := by
  unfold raise
  try dsimp only
  repeat' (first
    | with_reducible assumption | with_reducible apply kept_logOnly | with_reducible apply kept_requestCheck
    | simp only [kept_mk] | split)

end Sys2Proof.Machine
end

