-- ==== Sys2Proof/Laws/KeptMemory.lean ====
section
/-! SUPPORT. `Kept` of each operation and command of Machine/Memory.lean. -/

set_option maxRecDepth 8000

namespace Sys2Proof.Machine

theorem kept_setChan {z : State} {x0 : Nat} {x1 : Channel} {s : State} (h : Kept z s) :
    Kept z (setChan x0 x1 s) := by
  unfold setChan
  try dsimp only
  repeat' (first
    | with_reducible assumption | simp only [kept_mk])

theorem kept_setWc {z : State} {x0 : Nat} {x1 : List WcEntry} {s : State} (h : Kept z s) :
    Kept z (setWc x0 x1 s) := by
  unfold setWc
  try dsimp only
  repeat' (first
    | with_reducible assumption | simp only [kept_mk])

theorem kept_writeBlock {z : State} {x0 : Nat} {x1 : List Byte} {x2 : Bool} {s : State} (h : Kept z s) :
    Kept z (writeBlock x0 x1 x2 s) := by
  obtain ⟨h1, h2, h3, h4, h5, h6, h7⟩ := h
  exact ⟨h1, h2, h3, h4, h5, memWf_setBytes _ _ _ h6, h7⟩

theorem kept_eccLast {z : State} {x0 : Nat} {x1 : Bool} {x2 : Nat} {x3 : Nat} {s : State} (h : Kept z s) :
    Kept z (eccLast x0 x1 x2 x3 s) := by
  unfold eccLast
  try dsimp only
  repeat' (first
    | with_reducible assumption | simp only [kept_mk])

theorem kept_countCe {z : State} {x0 : Nat} {s : State} (h : Kept z s) :
    Kept z (countCe x0 s) := by
  unfold countCe
  try dsimp only
  repeat' (first
    | with_reducible assumption | with_reducible apply kept_setChan)

theorem kept_countUe {z : State} {x0 : Nat} {s : State} (h : Kept z s) :
    Kept z (countUe x0 s) := by
  unfold countUe
  try dsimp only
  repeat' (first
    | with_reducible assumption | with_reducible apply kept_setChan)

theorem kept_uncorrectable {z : State} {x0 : Nat} {s : State} (h : Kept z s) :
    Kept z (uncorrectable x0 s) := by
  unfold uncorrectable
  try dsimp only
  repeat' (first
    | with_reducible assumption | with_reducible apply kept_writeBlock | with_reducible apply kept_raise
    | with_reducible apply kept_eccLast | with_reducible apply kept_countUe | simp only [kept_mk] | split)

theorem kept_readBlock {z : State} {x0 : Nat} {s : State} (h : Kept z s) :
    Kept z (readBlock x0 s).1 := by
  unfold readBlock
  try dsimp only
  repeat' (first
    | with_reducible assumption | with_reducible apply kept_uncorrectable | with_reducible apply kept_raise
    | with_reducible apply kept_eccLast | with_reducible apply kept_writeBlock
    | with_reducible apply kept_countCe | simp only [kept_mk] | split)

theorem kept_unbacked {z : State} {x0 : Nat} {x1 : Nat} {s : State} (h : Kept z s) :
    Kept z (unbacked x0 x1 s) := by
  unfold unbacked
  try dsimp only
  repeat' (first
    | with_reducible assumption | with_reducible apply kept_raise)

theorem kept_readNext {z : State} {x0 x1 x2 : Nat} {x3 : State × Bool} {x4 : Nat} (h : Kept z x3.1) :
    Kept z (readNext x0 x1 x2 x3 x4).1 := by
  unfold readNext
  extract_lets lo ls
  clear_value lo
  clear_value ls
  split
  · split
    · exact h
    · exact kept_pair (fun r => x3.2 || r.2) (kept_readBlock h)
  · exact kept_foldl h fun _ _ g => kept_unbacked g

theorem kept_readMem {z : State} {x0 x1 x2 : Nat} {s : State} (h : Kept z s) : Kept z (readMem x0 x1 x2 s).1 := by
  have hk := kept_foldl_fst (F := readNext x0 x1 x2) (l := blocksOf x1 x2) (s := (s, false)) h
    fun s b x h => kept_readNext (x0 := x0) (x1 := x1) (x2 := x2) (x3 := (s, b)) (x4 := x) h
  unfold readMem
  exact kept_pair (fun r => (peek r.1 x1 x2, r.2)) hk

theorem kept_dropWc {z : State} {x0 : Nat} {s : State} (h : Kept z s) :
    Kept z (dropWc x0 s) := by
  unfold dropWc
  try dsimp only
  repeat' (first
    | with_reducible assumption | with_reducible apply kept_setWc)

theorem kept_putWc {z : State} {x0 : Nat} {x1 : SMap Byte} {s : State} (h : Kept z s) :
    Kept z (putWc x0 x1 s) := by
  unfold putWc
  try dsimp only
  repeat' (first
    | with_reducible assumption | with_reducible apply kept_setWc)

theorem kept_evictEntry {z : State} {x0 : WcEntry} {s : State} (h : Kept z s) :
    Kept z (evictEntry x0 s) := by
  unfold evictEntry
  try dsimp only
  repeat' (first
    | with_reducible assumption | with_reducible apply kept_dropWc | with_reducible apply kept_writeBlock
    | with_reducible apply kept_readBlock | simp only [kept_mk] | split)

theorem kept_wcMakeRoom {z : State} {x0 : Nat} {s : State} (h : Kept z s) :
    Kept z (wcMakeRoom x0 s) := by
  unfold wcMakeRoom
  try dsimp only
  repeat' (first
    | with_reducible assumption | with_reducible apply kept_evictEntry | simp only [kept_mk] | split)

theorem kept_wcWrite {z : State} {x0 : Nat} {x1 : List Byte} {x2 : Nat} {s : State} (h : Kept z s) :
    Kept z (wcWrite x0 x1 x2 s) := by
  unfold wcWrite
  try dsimp only
  repeat' (first
    | with_reducible assumption | with_reducible apply kept_putWc)

theorem kept_writePart {z : State} {x0 : Nat} {x1 : Nat} {x2 : List Byte} {s : State} (h : Kept z s) :
    Kept z (writePart x0 x1 x2 s) := by
  unfold writePart
  try dsimp only
  repeat' (first
    | with_reducible assumption | with_reducible apply kept_writeBlock | with_reducible apply kept_dropWc
    | with_reducible apply kept_wcMakeRoom | with_reducible apply kept_putWc | simp only [kept_mk] | split)

theorem kept_writeMem {z : State} {x0 : Nat} {x1 : Nat} {x2 : List Byte} {s : State} (h : Kept z s) :
    Kept z (writeMem x0 x1 x2 s) := by
  unfold writeMem
  try dsimp only
  repeat' (first
    | with_reducible assumption | with_reducible apply kept_writePart | with_reducible apply kept_unbacked
    | simp only [kept_mk] | split | with_reducible refine kept_fst (by assumption) ?_
    | with_reducible refine kept_foldl ?_ (fun _ _ _ => ?_))

theorem kept_poisonBlock {z : State} {x0 : Nat} {s : State} (h : Kept z s) :
    Kept z (poisonBlock x0 s) := by
  unfold poisonBlock
  try dsimp only
  repeat' (first
    | with_reducible assumption | with_reducible apply kept_writeBlock | with_reducible apply kept_dropWc)

theorem kept_poisonMem {z : State} {x0 : Nat} {x1 : Nat} {s : State} (h : Kept z s) :
    Kept z (poisonMem x0 x1 s) := by
  unfold poisonMem
  try dsimp only
  repeat' (first
    | with_reducible assumption | with_reducible apply kept_poisonBlock | simp only [kept_mk] | split
    | with_reducible refine kept_fst (by assumption) ?_ | with_reducible refine kept_foldl ?_ (fun _ _ _ => ?_))

theorem kept_drainAll {z : State} {s : State} (h : Kept z s) :
    Kept z (drainAll s) := by
  unfold drainAll
  try dsimp only
  repeat' (first
    | with_reducible assumption | with_reducible apply kept_evictEntry | simp only [kept_mk] | split
    | with_reducible refine kept_fst (by assumption) ?_ | with_reducible refine kept_foldl ?_ (fun _ _ _ => ?_))

end Sys2Proof.Machine
end

