-- ==== Sys2Proof/Laws/KeptPages.lean ====
section
/-! SUPPORT. `Kept` of each operation and command of Machine/Pages.lean. -/

set_option maxRecDepth 8000

namespace Sys2Proof.Machine

theorem kept_setTag {z : State} {x0 : Nat} {x1 : Tag} {s : State} (h : Kept z s) :
    Kept z (setTag x0 x1 s) := by
  unfold setTag
  try dsimp only
  repeat' (first
    | with_reducible assumption | simp only [kept_mk])

theorem kept_setTags {z : State} {x0 : Tag → Tag} {x1 : List Nat} {s : State} (h : Kept z s) :
    Kept z (setTags x0 x1 s) := by
  unfold setTags
  try dsimp only
  repeat' (first
    | with_reducible assumption | with_reducible apply kept_setTag | simp only [kept_mk] | split
    | with_reducible refine kept_fst (by assumption) ?_ | with_reducible refine kept_foldl ?_ (fun _ _ _ => ?_))

theorem kept_setCtx {z : State} {x0 : Nat} {x1 : Ctx} {s : State} (h : Kept z s) :
    Kept z (setCtx x0 x1 s) := by
  unfold setCtx
  try dsimp only
  repeat' (first
    | with_reducible assumption | simp only [kept_mk])

theorem kept_setList {z : State} {x0 : Nat} {x1 : List RegionD} {s : State} (h : Kept z s) :
    Kept z (setList x0 x1 s) := by
  unfold setList
  try dsimp only
  repeat' (first
    | with_reducible assumption | simp only [kept_mk])

theorem kept_refusePage {z : State} {x0 : Nat} {x1 : Nat} {x2 : Bool} {s : State} (h : Kept z s) :
    Kept z (refusePage x0 x1 x2 s) := by
  unfold refusePage
  try dsimp only
  repeat' (first
    | with_reducible assumption | with_reducible apply kept_setCtx | with_reducible apply kept_raise
    | simp only [kept_mk])

theorem kept_lockPages {z : State} {x0 : List Nat} {x1 : Nat} {s : State} (h : Kept z s) :
    Kept z (lockPages x0 x1 s) := by
  unfold lockPages
  try dsimp only
  repeat' (first
    | with_reducible assumption | with_reducible apply kept_setTags | simp only [kept_mk])

theorem kept_unlockPages {z : State} {x0 : List Nat} {s : State} (h : Kept z s) :
    Kept z (unlockPages x0 s) := by
  unfold unlockPages
  try dsimp only
  repeat' (first
    | with_reducible assumption | with_reducible apply kept_setTags | simp only [kept_mk])

theorem kept_setEntry {z : State} {x0 : Nat} {x1 : Option CoEntry} {s : State} (h : Kept z s) :
    Kept z (setEntry x0 x1 s) := by
  unfold setEntry
  try dsimp only
  repeat' (first
    | with_reducible assumption | simp only [kept_mk])

theorem kept_hostLost {z : State} {x0 : Nat} {s : State} (h : Kept z s) :
    Kept z (hostLost x0 s) := by
  unfold hostLost
  try dsimp only
  repeat' (first
    | with_reducible assumption | with_reducible apply kept_raise)

theorem kept_beginMigrations {z : State} {s : State} (h : Kept z s) :
    Kept z (beginMigrations s) := by
  unfold beginMigrations
  try dsimp only
  repeat' (first
    | with_reducible assumption | with_reducible apply kept_poisonMem | with_reducible apply kept_setEntry
    | with_reducible apply kept_hostLost | with_reducible apply kept_hostRead | simp only [kept_mk] | split
    | with_reducible refine kept_fst (by assumption) ?_ | with_reducible refine kept_foldl ?_ (fun _ _ _ => ?_))

theorem kept_startMigration {z : State} {x0 : Nat} {x1 : Nat} {s : State} (h : Kept z s) :
    Kept z (startMigration x0 x1 s) := by
  unfold startMigration
  try dsimp only
  repeat' (first
    | with_reducible assumption | with_reducible apply kept_setEntry | with_reducible apply kept_drawn
    | with_reducible apply kept_beginMigrations | with_reducible apply kept_setTag)

theorem kept_remoteTouch {z : State} {x0 : Nat} {s : State} (h : Kept z s) :
    Kept z (remoteTouch x0 s) := by
  unfold remoteTouch
  try dsimp only
  repeat' (first
    | with_reducible assumption | with_reducible apply kept_setTag | with_reducible apply kept_startMigration
    | simp only [kept_mk] | split)

end Sys2Proof.Machine
end

