-- ==== Sys2Proof/Laws/KeptLines.lean ====
section
/-! SUPPORT. `Kept` of each operation and command of Machine/Lines.lean. -/

set_option maxRecDepth 8000

namespace Sys2Proof.Machine

theorem kept_holdLine {z : State} {x0 : HeldReq} {s : State} (h : Kept z s) :
    Kept z (holdLine x0 s) := by
  unfold holdLine
  try dsimp only
  repeat' (first
    | with_reducible assumption | simp only [kept_mk])

theorem kept_joinEntry {z : State} {x0 : Nat} {x1 : Nat} {s : State} (h : Kept z s) :
    Kept z (joinEntry x0 x1 s) := by
  unfold joinEntry
  try dsimp only
  repeat' (first
    | with_reducible assumption | with_reducible apply kept_raise | with_reducible apply kept_startMigration
    | simp only [kept_mk] | split)

theorem kept_checkedAgain {z : State} {x0 : Nat} {x1 : Nat} {s : State} (h : Kept z s) :
    Kept z (checkedAgain x0 x1 s) := by
  unfold checkedAgain
  try dsimp only
  repeat' (first
    | with_reducible assumption | simp only [kept_mk])

theorem kept_pageFault {z : State} {x0 : Nat} {x1 : Nat} {s : State} (h : Kept z s) :
    Kept z (pageFault x0 x1 s) := by
  unfold pageFault
  try dsimp only
  repeat' (first
    | with_reducible assumption | with_reducible apply kept_setCtx | with_reducible apply kept_raise
    | with_reducible apply kept_startMigration | simp only [kept_mk] | split)

theorem kept_workFault {z : State} {x0 : Nat} {x1 : Nat} {x2 : Nat} {s : State} (h : Kept z s) :
    Kept z (workFault x0 x1 x2 s) := by
  unfold workFault
  try dsimp only
  repeat' (first
    | with_reducible assumption | with_reducible apply kept_pageFault | simp only [kept_mk])

theorem kept_setBuf {z : State} {x0 : HostUse} {x1 : Option FetchBuf} {s : State} (h : Kept z s) :
    Kept z (setBuf x0 x1 s) := by
  unfold setBuf
  try dsimp only
  repeat' (first
    | with_reducible assumption | simp only [kept_mk])

theorem kept_askHost {z : State} {x0 : Nat} {x1 : Nat} {x2 : HostUse} {s : State} (h : Kept z s) :
    Kept z (askHost x0 x1 x2 s) := by
  unfold askHost
  try dsimp only
  repeat' (first
    | with_reducible assumption | with_reducible apply kept_setBuf | with_reducible apply kept_hostLost
    | with_reducible apply kept_hostRead | simp only [kept_mk] | split)

theorem kept_fetchRun {z : State} {x0 : HostUse} {x1 : Nat × Nat} {s : State} (h : Kept z s) :
    Kept z (fetchRun x0 x1 s) := by
  unfold fetchRun
  try dsimp only
  repeat' (first
    | with_reducible assumption | with_reducible apply kept_askHost | with_reducible apply kept_remoteTouch
    | simp only [kept_mk] | split | with_reducible refine kept_fst (by assumption) ?_
    | with_reducible refine kept_foldl ?_ (fun _ _ _ => ?_))

theorem kept_readPiece {z : State} {x0 : HostUse} {x1 : Nat} {x2 : Nat × Nat} {s : State} (h : Kept z s) :
    Kept z (readPiece x0 x1 x2 s).1 := by
  unfold readPiece
  try dsimp only
  repeat' (first
    | with_reducible assumption | with_reducible apply kept_readMem | simp only [kept_mk] | split)

theorem kept_readRun {z : State} {x0 : HostUse} {x1 : Nat} {x2 : Nat × Nat} {s : State} (h : Kept z s) :
    Kept z (readRun x0 x1 x2 s).1 := by
  unfold readRun
  try dsimp only
  repeat' (first
    | with_reducible assumption | with_reducible apply kept_readPiece | simp only [kept_mk] | split
    | with_reducible refine kept_fst (by assumption) ?_ | with_reducible refine kept_foldl ?_ (fun _ _ _ => ?_)
    | with_reducible refine kept_foldl_fst ?_ (fun _ _ _ _ => ?_))

theorem kept_writeRun {z : State} {x0 : HostUse} {x1 : Nat} {x2 : Nat} {x3 : Nat} {x4 : List Byte} {s : State}
    (h : Kept z s) :
    Kept z (writeRun x0 x1 x2 x3 x4 s) := by
  unfold writeRun
  try dsimp only
  repeat' (first
    | with_reducible assumption | with_reducible apply kept_hostWrite | with_reducible apply kept_holdLine
    | with_reducible apply kept_remoteTouch | with_reducible apply kept_joinEntry
    | with_reducible apply kept_writeMem | simp only [kept_mk] | split
    | with_reducible refine kept_fst (by assumption) ?_ | with_reducible refine kept_foldl ?_ (fun _ _ _ => ?_))

theorem kept_poisonRun {z : State} {x0 : Nat} {x1 : List (Nat × Nat)} {s : State} (h : Kept z s) :
    Kept z (poisonRun x0 x1 s) := by
  unfold poisonRun
  try dsimp only
  repeat' (first
    | with_reducible assumption | with_reducible apply kept_poisonMem | simp only [kept_mk] | split
    | with_reducible refine kept_fst (by assumption) ?_ | with_reducible refine kept_foldl ?_ (fun _ _ _ => ?_))

theorem kept_ownRead {z : State} {x0 : HostUse} {x1 : Nat} {x2 : Nat} {x3 : Nat} {x4 : Nat} {s : State} (h :
    Kept z s) :
    Kept z (ownRead x0 x1 x2 x3 x4 s).1 := by
  unfold ownRead
  try dsimp only
  repeat' (first
    | with_reducible assumption | with_reducible apply kept_readRun | with_reducible apply kept_fetchRun
    | simp only [kept_mk] | split)

theorem kept_ownWrite {z : State} {x0 : HostUse} {x1 : Nat} {x2 : Nat} {x3 : Nat} {x4 : List Byte} {s : State}
    (h : Kept z s) :
    Kept z (ownWrite x0 x1 x2 x3 x4 s) := by
  unfold ownWrite
  try dsimp only
  repeat' (first
    | with_reducible assumption | with_reducible apply kept_refusePage | with_reducible apply kept_writeRun
    | simp only [kept_mk] | split)

end Sys2Proof.Machine
end

