-- ==== Sys2Proof/Laws/KeptIslets.lean ====
section
/-! SUPPORT. `Kept` of each operation and command of Machine/Islets.lean. -/

set_option maxRecDepth 8000

namespace Sys2Proof.Machine

theorem kept_setIslet {z : State} {x0 : Nat} {x1 : Islet} {s : State} (h : Kept z s) :
    Kept z (setIslet x0 x1 s) := by
  unfold setIslet
  try dsimp only
  repeat' (first
    | with_reducible assumption | simp only [kept_mk])

theorem kept_setFryQ {z : State} {x0 : Nat} {x1 : Queue} {s : State} (h : Kept z s) :
    Kept z (setFryQ x0 x1 s) := by
  unfold setFryQ
  try dsimp only
  repeat' (first
    | with_reducible assumption | simp only [kept_mk])

theorem kept_setLncQ {z : State} {x0 : Nat} {x1 : Queue} {s : State} (h : Kept z s) :
    Kept z (setLncQ x0 x1 s) := by
  unfold setLncQ
  try dsimp only
  repeat' (first
    | with_reducible assumption | simp only [kept_mk])

theorem kept_abortFree {z : State} {x0 : Nat} {s : State} (h : Kept z s) :
    Kept z (abortFree x0 s) := by
  unfold abortFree
  try dsimp only
  repeat' (first
    | with_reducible assumption | with_reducible apply kept_setLncQ | simp only [kept_mk] | split
    | with_reducible refine kept_fst (by assumption) ?_ | with_reducible refine kept_foldl ?_ (fun _ _ _ => ?_))

theorem kept_dropSteps {z : State} {x0 : Nat} {s : State} (h : Kept z s) :
    Kept z (dropSteps x0 s) := by
  unfold dropSteps
  try dsimp only
  repeat' (first
    | with_reducible assumption | simp only [kept_mk])

theorem kept_keepIslet {z : State} {x0 : Nat} {x1 : Islet} {s : State} (h : Kept z s) :
    Kept z (keepIslet x0 x1 s) := by
  unfold keepIslet
  rw [kept_mk]
  exact kept_setIslet h
  all_goals rfl

theorem kept_fence {z : State} {x0 : Nat} {x1 : Nat} {x2 : Nat} {s : State} (h : Kept z s) :
    Kept z (fence x0 x1 x2 s) := by
  unfold fence
  try dsimp only
  repeat' (first
    | with_reducible assumption | with_reducible apply kept_raise | with_reducible apply kept_keepIslet
    | with_reducible apply kept_abortFree | with_reducible apply kept_dropSteps | simp only [kept_mk] | split)

theorem kept_islEccLast {z : State} {x0 : Nat} {x1 : Bool} {x2 : Nat} {x3 : Nat} {s : State} (h : Kept z s) :
    Kept z (islEccLast x0 x1 x2 x3 s) := by
  unfold islEccLast
  try dsimp only
  repeat' (first
    | with_reducible assumption | simp only [kept_mk])

theorem kept_touchWord {z : State} {x0 x1 : Nat} {s : State} (h : Kept z s) : Kept z (touchWord x0 x1 s).1 := by
  unfold touchWord
  dsimp only
  split
  · exact h
  · split
    · split
      · exact h
      · apply kept_raise
        apply kept_islEccLast
        apply kept_setIslet
        exact kept_store h rfl rfl rfl rfl rfl
    · apply kept_fence
      apply kept_islEccLast
      exact h

theorem kept_touchWords {z : State} {x0 : Nat} {x1 : List Nat} {s : State} (h : Kept z s) :
    Kept z (touchWords x0 x1 s).1 := by
  unfold touchWords
  try dsimp only
  repeat' (first
    | with_reducible assumption | with_reducible apply kept_touchWord | simp only [kept_mk] | split
    | with_reducible refine kept_fst (by assumption) ?_ | with_reducible refine kept_foldl ?_ (fun _ _ _ => ?_)
    | with_reducible refine kept_foldl_fst ?_ (fun _ _ _ _ => ?_))

theorem kept_readPhys {z : State} {x0 : Nat} {x1 : Nat} {x2 : Nat} {s : State} (h : Kept z s) :
    Kept z (readPhys x0 x1 x2 s).1 := by
  unfold readPhys
  try dsimp only
  repeat' (first
    | with_reducible assumption | with_reducible apply kept_touchWords | simp only [kept_mk] | split)

theorem kept_settleWord {z : State} {x0 x1 : Nat} {s : State} (h : Kept z s) : Kept z (settleWord x0 x1 s) :=
  kept_store h rfl rfl rfl rfl rfl

theorem kept_writePhys {z : State} {x0 x1 : Nat} {x2 : List Byte} {s : State} (h : Kept z s) :
    Kept z (writePhys x0 x1 x2 s) := by
  unfold writePhys
  dsimp only
  split
  · exact h
  · split
    · exact h
    · split
      · exact kept_store (kept_foldl (kept_touchWords h) fun _ _ k => kept_settleWord k) rfl rfl rfl rfl rfl
      · exact kept_touchWords h

theorem kept_setSlot {z : State} {x0 : Bool} {x1 : ImgSlot} {s : State} (h : Kept z s) :
    Kept z (setSlot x0 x1 s) := by
  unfold setSlot
  try dsimp only
  repeat' (first
    | with_reducible assumption | simp only [kept_mk] | split)

theorem kept_readStore {z : State} {x0 : Nat} {x1 : Nat} {x2 : Nat} {s : State} (h : Kept z s) :
    Kept z (readStore x0 x1 x2 s).1 := by
  unfold readStore
  try dsimp only
  repeat' (first
    | with_reducible assumption | with_reducible apply kept_readPhys | with_reducible apply kept_readMem
    | simp only [kept_mk] | split)

theorem kept_writeStore {z : State} {x0 : Nat} {x1 : Nat} {x2 : List Byte} {s : State} (h : Kept z s) :
    Kept z (writeStore x0 x1 x2 s) := by
  unfold writeStore
  try dsimp only
  repeat' (first
    | with_reducible assumption | with_reducible apply kept_writePhys | with_reducible apply kept_writeMem
    | simp only [kept_mk] | split)

theorem kept_spillStore {z : State} {x0 : Nat} {x1 : Nat} {s : State} (h : Kept z s) :
    Kept z (spillStore x0 x1 s) := by
  unfold spillStore
  try dsimp only
  repeat' (first
    | with_reducible assumption | with_reducible apply kept_readPhys | with_reducible apply kept_writeMem
    | simp only [kept_mk] | split | with_reducible refine kept_fst (by assumption) ?_)

theorem kept_takeStore {z : State} {x0 : Nat} {x1 : State × List Byte × Bool} (h : Kept z x1.1) :
    Kept z (takeStore x0 x1) := by
  unfold takeStore
  split
  · simp only [kept_mk]
    exact h
  · exact kept_writePhys h

theorem kept_fillStore {z : State} {x0 x1 : Nat} {s : State} (h : Kept z s) : Kept z (fillStore x0 x1 s) := by
  unfold fillStore
  exact kept_takeStore (kept_readMem h)

theorem kept_resident {z t : State} {m : SMap Nat} (h : Kept z t) :
    Kept z { t with isl := { t.isl with resident := m } } := by
  simp only [kept_mk]
  exact h

theorem kept_swapSlot {z : State} {x0 : Nat} {x1 : Nat} {s : State} (h : Kept z s) :
    Kept z (swapSlot x0 x1 s) := by
  unfold swapSlot
  simp only
  split
  · exact h
  · exact kept_resident (kept_fillStore (kept_spillStore h))

theorem kept_changeBatch {z : State} {x0 : Nat} {x1 : Nat} {s : State} (h : Kept z s) :
    Kept z (changeBatch x0 x1 s) := by
  unfold changeBatch
  try dsimp only
  repeat' (first
    | with_reducible assumption | with_reducible apply kept_swapSlot | simp only [kept_mk] | split
    | with_reducible refine kept_fst (by assumption) ?_ | with_reducible refine kept_foldl ?_ (fun _ _ _ => ?_))

theorem kept_residentStart {z : State} {x0 : Nat} {s : State} (h : Kept z s) :
    Kept z (residentStart x0 s) := by
  unfold residentStart
  try dsimp only
  repeat' (first
    | with_reducible assumption | simp only [kept_mk])

theorem kept_replaceIslet {z : State} {x0 : Nat} {s : State} (h : Kept z s) :
    Kept z (replaceIslet x0 s).1 := by
  unfold replaceIslet
  try dsimp only
  repeat' (first
    | with_reducible assumption | with_reducible apply kept_raise | with_reducible apply kept_keepIslet
    | simp only [kept_mk] | split)

theorem kept_replaceFaulted {z : State} {s : State} (h : Kept z s) :
    Kept z (replaceFaulted s).1 := by
  unfold replaceFaulted
  try dsimp only
  repeat' (first
    | with_reducible assumption | with_reducible apply kept_replaceIslet
    | with_reducible apply kept_requestCheck | with_reducible apply kept_raise | simp only [kept_mk] | split
    | with_reducible refine kept_fst (by assumption) ?_ | with_reducible refine kept_foldl ?_ (fun _ _ _ => ?_)
    | with_reducible refine kept_foldl_fst ?_ (fun _ _ _ _ => ?_))

theorem kept_execStoreScrub {z : State} {x0 : Nat} {x1 : Nat} {s : State} (h : Kept z s) :
    KeptNext z (execStoreScrub x0 x1 s) := by
  unfold execStoreScrub
  try dsimp only
  repeat' (first
    | with_reducible assumption | with_reducible apply keptNext_next | with_reducible apply kept_touchWords
    | simp only [kept_mk] | split)

theorem kept_execIsletParity {z : State} {x0 : Nat} {s : State} (h : Kept z s) :
    KeptNext z (execIsletParity x0 s) := by
  unfold execIsletParity
  try dsimp only
  repeat' (first
    | with_reducible assumption | with_reducible apply keptNext_next | with_reducible apply kept_fence)

theorem kept_execFerryInternal {z : State} {x0 : Nat} {s : State} (h : Kept z s) :
    KeptNext z (execFerryInternal x0 s) := by
  unfold execFerryInternal
  try dsimp only
  repeat' (first
    | with_reducible assumption | with_reducible apply keptNext_next | with_reducible apply kept_fence)

theorem kept_execLaneInternal {z : State} {x0 : Nat} {s : State} (h : Kept z s) :
    KeptNext z (execLaneInternal x0 s) := by
  unfold execLaneInternal
  try dsimp only
  repeat' (first
    | with_reducible assumption | with_reducible apply keptNext_next | with_reducible apply kept_fence)

end Sys2Proof.Machine
end

