-- ==== Sys2Proof/Laws/KeptLane.lean ====
section
/-! SUPPORT. `Kept` of each operation and command of Machine/Lane.lean. -/

set_option maxRecDepth 8000

namespace Sys2Proof.Machine

theorem kept_setKernel {z : State} {x0 : LaneRun} {x1 : LaneKernel} {s : State} (h : Kept z s) :
    Kept z (setKernel x0 x1 s) := by
  unfold setKernel
  try dsimp only
  repeat' (first
    | with_reducible assumption | simp only [kept_mk] | split)

theorem kept_dropKernel {z : State} {x0 : LaneRun} {s : State} (h : Kept z s) :
    Kept z (dropKernel x0 s) := by
  unfold dropKernel
  try dsimp only
  repeat' (first
    | with_reducible assumption | simp only [kept_mk] | split)

theorem kept_registerDone {z : State} {x0 : Nat} {s : State} (h : Kept z s) :
    Kept z (registerDone x0 s) := by
  unfold registerDone
  try dsimp only
  repeat' (first
    | with_reducible assumption | simp only [kept_mk])

theorem kept_stopAtTick {z : State} {s : State} (h : Kept z s) :
    Kept z (stopAtTick s) := by
  unfold stopAtTick
  try dsimp only
  repeat' (first
    | with_reducible assumption | simp only [kept_mk])

theorem kept_poisonStop {z : State} {s : State} (h : Kept z s) :
    Kept z (poisonStop s) := by
  unfold poisonStop
  try dsimp only
  repeat' (first
    | with_reducible assumption | with_reducible apply kept_raise | with_reducible apply kept_stopAtTick)

theorem kept_queueRecord {z : State} {x0 : HostUse} {x1 : Queue} {x2 : Nat} {x3 : Nat} {x4 : List Byte} {s :
    State} (h : Kept z s) :
    Kept z (queueRecord x0 x1 x2 x3 x4 s).1 := by
  unfold queueRecord
  try dsimp only
  repeat' (first
    | with_reducible assumption | with_reducible apply kept_ownWrite | simp only [kept_mk] | split)

theorem kept_completeLaunch {z : State} {x0 : Nat} {x1 : Nat} {x2 : Nat} {x3 : List Byte} {x4 : Bool} {s :
    State} (h : Kept z s) :
    Kept z (completeLaunch x0 x1 x2 x3 x4 s) := by
  unfold completeLaunch
  try dsimp only
  repeat' (first
    | with_reducible assumption | with_reducible apply kept_queueRecord | with_reducible apply kept_setLncQ
    | with_reducible apply kept_raise | with_reducible apply kept_emit | simp only [kept_mk] | split)

theorem kept_trapRegs {z : State} {x0 : Nat} {x1 : Nat} {x2 : Nat} {x3 : Nat} {x4 : LaneTrap} {s : State} (h :
    Kept z s) :
    Kept z (trapRegs x0 x1 x2 x3 x4 s) := by
  unfold trapRegs
  try dsimp only
  repeat' (first
    | with_reducible assumption | simp only [kept_mk])

theorem kept_endTrap {z : State} {x0 : LaneRun} {x1 : LaneKernel} {x2 : Nat} {x3 : LaneTrap} {s : State} (h :
    Kept z s) :
    Kept z (endTrap x0 x1 x2 x3 s) := by
  unfold endTrap
  try dsimp only
  repeat' (first
    | with_reducible assumption | with_reducible apply kept_dropKernel | with_reducible apply kept_trapRegs
    | with_reducible apply kept_raise | with_reducible apply kept_poisonStop
    | with_reducible apply kept_stopAtTick | with_reducible apply kept_registerDone
    | with_reducible apply kept_completeLaunch | simp only [kept_mk] | split)

theorem kept_settle {z : State} {x0 : LaneWho} {x1 : LaneKernel} {x2 : LaneThread} {s : State} (h : Kept z s) :
    Kept z (settle x0 x1 x2 s) := by
  unfold settle
  try dsimp only
  repeat' (first
    | with_reducible assumption | with_reducible apply kept_setKernel | with_reducible apply kept_endTrap
    | simp only [kept_mk] | split)

theorem kept_laneGo {z : State} {x0 : LaneWho} {x1 : Instr} {x2 : BitVec 3} {x3 : LaneThread → LaneThread} {x4
    : LaneKernel → LaneThread → State → State × LaneKernel × LaneThread} {s : State} (h4 : ∀ y0 y1 s, Kept z s
    → Kept z (x4 y0 y1 s).1) (h : Kept z s) :
    Kept z (laneGo x0 x1 x2 x3 x4 s) := by
  unfold laneGo
  try dsimp only
  repeat' (first
    | with_reducible assumption | with_reducible apply kept_settle | with_reducible apply h4
    | simp only [kept_mk] | split)

theorem kept_laneReg {z : State} {x0 : LaneWho} {x1 : Instr} {x2 : BitVec 3} {x3 : Bool} {x4 : Nat} {x5 :
    LaneThread → Word32} {s : State} (h : Kept z s) :
    Kept z (laneReg x0 x1 x2 x3 x4 x5 s) := by
  unfold laneReg
  try dsimp only
  repeat' (first
    | with_reducible assumption | with_reducible refine kept_laneGo (fun _ _ _ _ => ?_) ?_)

theorem kept_laneAlu {z : State} {x0 : LaneWho} {x1 : Instr} {x2 : FR} {x3 : Word32 → Word32 → Word32 →
    Word32} {s : State} (h : Kept z s) :
    Kept z (laneAlu x0 x1 x2 x3 s) := by
  unfold laneAlu
  try dsimp only
  repeat' (first
    | with_reducible assumption | with_reducible apply kept_laneReg)

theorem kept_laneImm {z : State} {x0 : LaneWho} {x1 : Instr} {x2 : FI} {x3 : Word32 → BitVec 12 → Word32} {s :
    State} (h : Kept z s) :
    Kept z (laneImm x0 x1 x2 x3 s) := by
  unfold laneImm
  try dsimp only
  repeat' (first
    | with_reducible assumption | with_reducible apply kept_laneReg)

theorem kept_laneCmp {z : State} {x0 : LaneWho} {x1 : Instr} {x2 : FR} {x3 : Word32 → Word32 → Bool} {s :
    State} (h : Kept z s) :
    Kept z (laneCmp x0 x1 x2 x3 s) := by
  unfold laneCmp
  try dsimp only
  repeat' (first
    | with_reducible assumption | with_reducible refine kept_laneGo (fun _ _ _ _ => ?_) ?_)

theorem kept_lanePlog {z : State} {x0 : LaneWho} {x1 : Instr} {x2 : FR} {x3 : Bool → Bool → Bool} {s : State}
    (h : Kept z s) :
    Kept z (lanePlog x0 x1 x2 x3 s) := by
  unfold lanePlog
  try dsimp only
  repeat' (first
    | with_reducible assumption | with_reducible refine kept_laneGo (fun _ _ _ _ => ?_) ?_)

theorem kept_laneBranch {z : State} {x0 : LaneWho} {x1 : Instr} {x2 : FB} {x3 : Word32 → Word32 → Bool} {s :
    State} (h : Kept z s) :
    Kept z (laneBranch x0 x1 x2 x3 s) := by
  unfold laneBranch
  try dsimp only
  repeat' (first
    | with_reducible assumption | with_reducible refine kept_laneGo (fun _ _ _ _ => ?_) ?_)

theorem kept_faultOnce {z : State} {x0 : Nat} {x1 : Nat} {s : State} (h : Kept z s) :
    Kept z (faultOnce x0 x1 s) := by
  unfold faultOnce
  try dsimp only
  repeat' (first
    | with_reducible assumption | with_reducible apply kept_pageFault | simp only [kept_mk] | split)

theorem kept_laneGet {z : State} {x0 : LaneKernel} {x1 : LaneThread} {x2 : RangeBase} {x3 : Nat} {s : State}
    (h : Kept z s) :
    Kept z (laneGet x0 x1 x2 x3 s).1 := by
  unfold laneGet
  try dsimp only
  repeat' (first
    | with_reducible assumption | with_reducible apply kept_readStore | with_reducible apply kept_readMem
    | with_reducible apply kept_hostLost | with_reducible apply kept_hostRead
    | with_reducible apply kept_remoteTouch | with_reducible apply kept_faultOnce
    | with_reducible apply kept_refusePage | simp only [kept_mk] | split
    | with_reducible refine kept_fst (by assumption) ?_)

theorem kept_laneLoad {z : State} {x0 : LaneKernel} {x1 : LaneThread} {x2 : RangeBase} {x3 : Nat} {x4 : Nat →
    LaneWait} {x5 : LaneThread → List Byte → LaneThread} {s : State} (h : Kept z s) :
    Kept z (laneLoad x0 x1 x2 x3 x4 x5 s).1 := by
  unfold laneLoad
  try dsimp only
  repeat' (first
    | with_reducible assumption | with_reducible apply kept_laneGet | simp only [kept_mk] | split
    | with_reducible refine kept_fst (by assumption) ?_)

theorem kept_addTensorStats {z : State} {x0 : Nat} {x1 : Stats} {s : State} (h : Kept z s) :
    Kept z (addTensorStats x0 x1 s) := by
  unfold addTensorStats
  try dsimp only
  repeat' (first
    | with_reducible assumption | simp only [kept_mk])

theorem kept_settleCopies {z : State} {x0 : Nat} {s : State} (h : Kept z s) :
    Kept z (settleCopies x0 s) := by
  unfold settleCopies
  try dsimp only
  repeat' (first
    | with_reducible assumption | with_reducible apply kept_addTensorStats | simp only [kept_mk] | split)

theorem kept_overCopies {z : State} {x0 : Nat} {x1 : Nat} {x2 : Nat} {s : State} (h : Kept z s) :
    Kept z (overCopies x0 x1 x2 s) := by
  unfold overCopies
  try dsimp only
  repeat' (first
    | with_reducible assumption | with_reducible apply kept_settleCopies | simp only [kept_mk] | split)

theorem kept_noteCopy {z : State} {x0 : Nat} {x1 : Nat} {x2 : Nat} {s : State} (h : Kept z s) :
    Kept z (noteCopy x0 x1 x2 s) := by
  unfold noteCopy
  try dsimp only
  repeat' (first
    | with_reducible assumption | simp only [kept_mk])

theorem kept_storeStats {z : State} {x0 : LaneStore} {s : State} (h : Kept z s) :
    Kept z (storeStats x0 s) := by
  unfold storeStats
  try dsimp only
  repeat' (first
    | with_reducible assumption | with_reducible apply kept_addTensorStats | simp only [kept_mk] | split)

theorem kept_commitStore {z : State} {x0 : LaneKernel} {s : State} {x2 : LaneStore} (h : Kept z s) :
    Kept z (commitStore x0 s x2) := by
  unfold commitStore
  split
  · exact kept_writeStore h
  · exact h
  · split
    · exact kept_writeRun h
    · refine kept_storeStats (kept_writeMem ?_)
      cases x2.tensor with
      | none => exact h
      | some p => exact kept_overCopies h

theorem kept_laneStore {z : State} {x0 : LaneKernel} {x1 : LaneThread} {x2 : LaneStore} {s : State} (h : Kept
    z s) :
    Kept z (laneStore x0 x1 x2 s).1 := by
  unfold laneStore
  try dsimp only
  repeat' (first
    | with_reducible assumption | with_reducible apply kept_commitStore | with_reducible apply kept_faultOnce
    | with_reducible apply kept_refusePage | simp only [kept_mk] | split)

theorem kept_laneLds {z : State} {x0 : LaneWho} {x1 : Instr} {x2 : FI} {x3 : Nat} {s : State} (h : Kept z s) :
    Kept z (laneLds x0 x1 x2 x3 s) := by
  unfold laneLds
  try dsimp only
  repeat' (first
    | with_reducible assumption | with_reducible refine kept_laneGo (fun _ _ _ _ => ?_) ?_
    | with_reducible apply kept_laneLoad | simp only [kept_mk] | split)

theorem kept_laneSts {z : State} {x0 : LaneWho} {x1 : Instr} {x2 : FI} {x3 : Nat} {s : State} (h : Kept z s) :
    Kept z (laneSts x0 x1 x2 x3 s) := by
  unfold laneSts
  try dsimp only
  repeat' (first
    | with_reducible assumption | with_reducible refine kept_laneGo (fun _ _ _ _ => ?_) ?_
    | with_reducible apply kept_laneStore | simp only [kept_mk] | split)

theorem kept_laneLdm {z : State} {x0 : LaneWho} {x1 : Instr} {x2 : FR} {x3 : Nat} {s : State} (h : Kept z s) :
    Kept z (laneLdm x0 x1 x2 x3 s) := by
  unfold laneLdm
  try dsimp only
  repeat' (first
    | with_reducible assumption | with_reducible refine kept_laneGo (fun _ _ _ _ => ?_) ?_
    | with_reducible apply kept_laneLoad | simp only [kept_mk] | split)

theorem kept_laneStm {z : State} {x0 : LaneWho} {x1 : Instr} {x2 : FR} {x3 : Nat} {s : State} (h : Kept z s) :
    Kept z (laneStm x0 x1 x2 x3 s) := by
  unfold laneStm
  try dsimp only
  repeat' (first
    | with_reducible assumption | with_reducible refine kept_laneGo (fun _ _ _ _ => ?_) ?_
    | with_reducible apply kept_laneStore | simp only [kept_mk] | split)

theorem kept_laneRed {z : State} {x0 : LaneWho} {x1 : Instr} {x2 : FR} {s : State} (h : Kept z s) :
    Kept z (laneRed x0 x1 x2 s) := by
  unfold laneRed
  try dsimp only
  repeat' (first
    | with_reducible assumption | with_reducible refine kept_laneGo (fun _ _ _ _ => ?_) ?_ | simp only [kept_mk]
    | split)

theorem kept_passCommit {z : State} {x0 : LaneRun} {s : State} (h : Kept z s) :
    Kept z (passCommit x0 s) := by
  unfold passCommit
  try dsimp only
  repeat' (first
    | with_reducible assumption | with_reducible apply kept_endTrap | with_reducible apply kept_refusePage
    | with_reducible apply kept_faultOnce | with_reducible apply kept_commitStore
    | with_reducible apply kept_setKernel | simp only [kept_mk] | split
    | with_reducible refine kept_fst (by assumption) ?_ | with_reducible refine kept_foldl ?_ (fun _ _ _ => ?_))

end Sys2Proof.Machine
end

