-- ==== Sys2Proof/Laws/KeptSteps.lean ====
section
/-! SUPPORT. `Kept` of each operation and command of Machine/Steps.lean. -/

set_option maxRecDepth 8000

namespace Sys2Proof.Machine

theorem kept_ranStep {z : State} {x0 : Nat} {s : State} (h : Kept z s) :
    Kept z (ranStep x0 s) := by
  unfold ranStep
  try dsimp only
  repeat' (first
    | with_reducible assumption | simp only [kept_mk])

theorem kept_ranPoisoned {z : State} {x0 : Nat} {s : State} (h : Kept z s) :
    Kept z (ranPoisoned x0 s) := by
  unfold ranPoisoned
  try dsimp only
  repeat' (first
    | with_reducible assumption | with_reducible apply kept_poisonStop | with_reducible apply kept_ranStep)

theorem kept_readPlace {z : State} {x0 : ImgSlot} {x1 : Image} {x2 : Nat} {x3 : Place} {x4 : Nat} {x5 : Nat}
    {s : State} (h : Kept z s) :
    Kept z (readPlace x0 x1 x2 x3 x4 x5 s).1 := by
  unfold readPlace
  try dsimp only
  repeat' (first
    | with_reducible assumption | with_reducible apply kept_readStore | with_reducible apply kept_readMem
    | simp only [kept_mk] | split)

theorem kept_writePlace {z : State} {x0 : ImgSlot} {x1 : Image} {x2 : Nat} {x3 : Place} {x4 : Nat} {x5 : List
    Byte} {s : State} (h : Kept z s) :
    Kept z (writePlace x0 x1 x2 x3 x4 x5 s) := by
  unfold writePlace
  try dsimp only
  repeat' (first
    | with_reducible assumption | with_reducible apply kept_writeStore | with_reducible apply kept_writeMem
    | simp only [kept_mk] | split)

theorem kept_readRows {z : State} {x0 : Nat → State → State × Option (List Byte) × Bool} {x1 : Nat} {x2 : Nat}
    {s : State} (h0 : ∀ y0 s, Kept z s → Kept z (x0 y0 s).1) (h : Kept z s) :
    Kept z (readRows x0 x1 x2 s).1 := by
  unfold readRows
  try dsimp only
  repeat' (first
    | with_reducible assumption | with_reducible apply h0 | simp only [kept_mk] | split
    | with_reducible refine kept_fst (by assumption) ?_ | with_reducible refine kept_foldl ?_ (fun _ _ _ => ?_)
    | with_reducible refine kept_foldl_fst ?_ (fun _ _ _ _ => ?_))

theorem kept_moveRow {z : State} {x0 : ImgSlot} {x1 : Image} {x2 : Nat} {x3 : Nat} {x4 : MoveOp} {x5 : Int}
    {x6 : Int} {x7 : Nat} {x8 : List Byte} {s : State} (h : Kept z s) :
    Kept z (moveRow x0 x1 x2 x3 x4 x5 x6 x7 x8 s) := by
  unfold moveRow
  try dsimp only
  repeat' (first
    | with_reducible assumption | with_reducible apply kept_noteCopy | with_reducible apply kept_writePlace
    | with_reducible apply kept_overCopies | with_reducible apply kept_readPlace
    | with_reducible apply kept_addTensorStats | simp only [kept_mk] | split)

theorem kept_doMove {z : State} {x0 : Nat} {x1 : ImgSlot} {x2 : Image} {x3 : StepEnt} {x4 : MoveOp} {s :
    State} (h : Kept z s) :
    Kept z (doMove x0 x1 x2 x3 x4 s) := by
  unfold doMove
  try dsimp only
  repeat' (first
    | with_reducible assumption | with_reducible refine kept_readRows (fun _ _ _ => ?_) ?_
    | with_reducible apply kept_readPlace | with_reducible apply kept_ranPoisoned
    | with_reducible apply kept_ranStep | with_reducible apply kept_moveRow | simp only [kept_mk] | split
    | with_reducible refine kept_fst (by assumption) ?_ | with_reducible refine kept_foldl ?_ (fun _ _ _ => ?_))

theorem kept_execMove {z : State} {x0 : Nat} {s : State} (h : Kept z s) :
    KeptNext z (execMove x0 s) := by
  unfold execMove
  try dsimp only
  repeat' (first
    | with_reducible assumption | with_reducible apply keptNext_next | with_reducible apply kept_doMove
    | simp only [kept_mk] | split)

theorem kept_writeTile {z : State} {x0 : Nat} {x1 : ImgSlot} {x2 : Nat} {x3 : MmaOp} {x4 : Partial} {s :
    State} (h : Kept z s) :
    Kept z (writeTile x0 x1 x2 x3 x4 s) := by
  unfold writeTile
  try dsimp only
  repeat' (first
    | with_reducible assumption | with_reducible apply kept_writeStore | with_reducible apply kept_raise
    | simp only [kept_mk] | split)

theorem kept_readOperands {z : State} {x0 : Nat} {x1 : MmaOp} {x2 : Option Upset} {s : State} (h : Kept z s) :
    Kept z (readOperands x0 x1 x2 s).1 := by
  unfold readOperands
  try dsimp only
  repeat' (first
    | with_reducible assumption | with_reducible apply kept_readStore | simp only [kept_mk] | split
    | with_reducible refine kept_fst (by assumption) ?_)

theorem kept_residueFault {z : State} {x0 : Nat} {s : State} (h : Kept z s) :
    Kept z (residueFault x0 s) := by
  unfold residueFault
  try dsimp only
  repeat' (first
    | with_reducible assumption | with_reducible apply kept_fence)

theorem kept_treeMismatch {z : State} {x0 : Nat} {s : State} (h : Kept z s) :
    Kept z (treeMismatch x0 s) := by
  unfold treeMismatch
  try dsimp only
  repeat' (first
    | with_reducible assumption | with_reducible apply kept_stopAtTick | with_reducible apply kept_raise
    | with_reducible apply kept_ranStep)

theorem kept_execMmaFull {z : State} {x0 : Nat} {x1 : Option Upset} {s : State} (h : Kept z s) :
    KeptNext z (execMmaFull x0 x1 s) := by
  unfold execMmaFull
  try dsimp only
  repeat' (first
    | with_reducible assumption | with_reducible apply keptNext_next | with_reducible apply kept_readOperands
    | with_reducible apply kept_residueFault | with_reducible apply kept_ranStep
    | with_reducible apply kept_writeTile | simp only [kept_mk] | split
    | with_reducible refine kept_fst (by assumption) ?_)

theorem kept_execMmaPartial {z : State} {x0 : Nat} {x1 : Option Upset} {s : State} (h : Kept z s) :
    KeptNext z (execMmaPartial x0 x1 s) := by
  unfold execMmaPartial
  try dsimp only
  repeat' (first
    | with_reducible assumption | with_reducible apply keptNext_next | with_reducible apply kept_readOperands
    | with_reducible apply kept_residueFault | with_reducible apply kept_ranStep
    | with_reducible apply kept_writeStore | simp only [kept_mk] | split
    | with_reducible refine kept_fst (by assumption) ?_)

theorem kept_execMmaCombine {z : State} {x0 : Nat} {s : State} (h : Kept z s) :
    KeptNext z (execMmaCombine x0 s) := by
  unfold execMmaCombine
  try dsimp only
  repeat' (first
    | with_reducible assumption | with_reducible apply keptNext_next | with_reducible apply kept_readStore
    | with_reducible apply kept_ranStep | with_reducible apply kept_writeStore
    | with_reducible apply kept_treeMismatch | simp only [kept_mk] | split
    | with_reducible refine kept_fst (by assumption) ?_)

theorem kept_execMmaFinal {z : State} {x0 : Nat} {s : State} (h : Kept z s) :
    KeptNext z (execMmaFinal x0 s) := by
  unfold execMmaFinal
  try dsimp only
  repeat' (first
    | with_reducible assumption | with_reducible apply keptNext_next | with_reducible apply kept_readStore
    | with_reducible apply kept_ranStep | with_reducible apply kept_writeTile
    | with_reducible apply kept_treeMismatch | simp only [kept_mk] | split
    | with_reducible refine kept_fst (by assumption) ?_)

theorem kept_execKernel {z : State} {x0 : Nat} {s : State} (h : Kept z s) :
    KeptNext z (execKernel x0 s) := by
  unfold execKernel
  try dsimp only
  repeat' (first
    | with_reducible assumption | with_reducible apply keptNext_next | simp only [kept_mk] | split)

theorem kept_readElems {z : State} {x0 : ImgSlot} {x1 : TensorEnt} {x2 : Nat} {x3 : Nat} {s : State} (h : Kept
    z s) :
    Kept z (readElems x0 x1 x2 x3 s).1 := by
  unfold readElems
  try dsimp only
  repeat' (first
    | with_reducible assumption | with_reducible apply kept_readMem | simp only [kept_mk] | split
    | with_reducible refine kept_fst (by assumption) ?_ | with_reducible refine kept_foldl ?_ (fun _ _ _ => ?_)
    | with_reducible refine kept_foldl_fst ?_ (fun _ _ _ _ => ?_))

theorem kept_overElems {z : State} {x0 : Nat} {x1 : TensorEnt} {x2 : Nat} {x3 : Nat} {s : State} (h : Kept z
    s) :
    Kept z (overElems x0 x1 x2 x3 s) := by
  unfold overElems
  try dsimp only
  repeat' (first
    | with_reducible assumption | with_reducible apply kept_overCopies | simp only [kept_mk] | split
    | with_reducible refine kept_fst (by assumption) ?_ | with_reducible refine kept_foldl ?_ (fun _ _ _ => ?_))

theorem kept_writeElems {z : State} {x0 : ImgSlot} {x1 : TensorEnt} {x2 : Nat} {x3 : Nat} {x4 : List Byte} {s
    : State} (h : Kept z s) :
    Kept z (writeElems x0 x1 x2 x3 x4 s) := by
  unfold writeElems
  try dsimp only
  repeat' (first
    | with_reducible assumption | with_reducible apply kept_writeMem | simp only [kept_mk] | split
    | with_reducible refine kept_fst (by assumption) ?_ | with_reducible refine kept_foldl ?_ (fun _ _ _ => ?_)
    | with_reducible refine kept_foldl_fst ?_ (fun _ _ _ _ => ?_))

theorem kept_logExch {z : State} {x0 : ImgSlot} {x1 : Image} {x2 : Nat} {x3 : List Byte} {x4 : Stats} {s :
    State} (h : Kept z s) :
    Kept z (logExch x0 x1 x2 x3 x4 s) := by
  unfold logExch
  try dsimp only
  repeat' (first
    | with_reducible assumption | with_reducible apply kept_writeMem | with_reducible apply kept_raise
    | simp only [kept_mk] | split)

theorem kept_finishExch {z : State} {x0 : Nat} {x1 : ImgSlot} {x2 : Image} {x3 : ExchOp} {x4 : TensorEnt} {x5
    : Nat} {x6 : List Byte} {x7 : State → Stats} {s : State} (h : Kept z s) :
    Kept z (finishExch x0 x1 x2 x3 x4 x5 x6 x7 s) := by
  unfold finishExch
  try dsimp only
  repeat' (first
    | with_reducible assumption | with_reducible apply kept_writeElems | with_reducible apply kept_overElems
    | with_reducible apply kept_ranStep | with_reducible apply kept_logExch
    | with_reducible apply kept_addTensorStats)

theorem kept_doExch {z : State} {x0 : Nat} {x1 : ImgSlot} {x2 : Image} {x3 : ExchOp} {x4 : List (Nat × Int ×
    List Byte)} {s : State} (h : Kept z s) :
    Kept z (doExch x0 x1 x2 x3 x4 s) := by
  unfold doExch
  try dsimp only
  repeat' (first
    | with_reducible assumption | with_reducible apply kept_readMem | with_reducible apply kept_ranPoisoned
    | with_reducible apply kept_ranStep | with_reducible apply kept_addTensorStats
    | with_reducible apply kept_writeElems | with_reducible apply kept_overElems
    | with_reducible apply kept_readElems | with_reducible apply kept_finishExch | simp only [kept_mk] | split
    | with_reducible refine kept_fst (by assumption) ?_)

theorem kept_exchStep {z : State} {x0 : Nat} {x1 : Nat} {x2 : List (Nat × Int × List Byte)} {s : State} (h :
    Kept z s) :
    Kept z (exchStep x0 x1 x2 s) := by
  unfold exchStep
  try dsimp only
  repeat' (first
    | with_reducible assumption | with_reducible apply kept_doExch | simp only [kept_mk] | split)

theorem kept_execAllreduce {z : State} {x0 : Nat} {x1 : List (Nat × Int × List Byte)} {s : State} (h : Kept z
    s) :
    KeptNext z (execAllreduce x0 x1 s) := by
  unfold execAllreduce
  try dsimp only
  repeat' (first
    | with_reducible assumption | with_reducible apply keptNext_next | with_reducible apply kept_exchStep)

theorem kept_execReduceScatter {z : State} {x0 : Nat} {x1 : List (Nat × Int × List Byte)} {s : State} (h :
    Kept z s) :
    KeptNext z (execReduceScatter x0 x1 s) := by
  unfold execReduceScatter
  try dsimp only
  repeat' (first
    | with_reducible assumption | with_reducible apply keptNext_next | with_reducible apply kept_exchStep)

theorem kept_execAllgather {z : State} {x0 : Nat} {x1 : List (Nat × Int × List Byte)} {s : State} (h : Kept z
    s) :
    KeptNext z (execAllgather x0 x1 s) := by
  unfold execAllgather
  try dsimp only
  repeat' (first
    | with_reducible assumption | with_reducible apply keptNext_next | with_reducible apply kept_exchStep)

theorem kept_execBroadcast {z : State} {x0 : Nat} {x1 : List (Nat × Int × List Byte)} {s : State} (h : Kept z
    s) :
    KeptNext z (execBroadcast x0 x1 s) := by
  unfold execBroadcast
  try dsimp only
  repeat' (first
    | with_reducible assumption | with_reducible apply keptNext_next | with_reducible apply kept_exchStep)

theorem kept_doShip {z : State} {x0 : Nat} {x1 : ImgSlot} {x2 : Image} {x3 : SnapOp} {s : State} (h : Kept z
    s) :
    Kept z (doShip x0 x1 x2 x3 s) := by
  unfold doShip
  try dsimp only
  repeat' (first
    | with_reducible assumption | with_reducible apply kept_readMem | with_reducible apply kept_ranPoisoned
    | with_reducible apply kept_writeMem | with_reducible apply kept_ranStep | simp only [kept_mk] | split
    | with_reducible refine kept_fst (by assumption) ?_ | with_reducible refine kept_foldl ?_ (fun _ _ _ => ?_)
    | with_reducible refine kept_foldl_fst ?_ (fun _ _ _ _ => ?_))

theorem kept_policyGroup {z : State} {x0 : ImgSlot} {x1 : Image} {x2 : Nat} {x3 : PolicyGroup} {s : State}
    (h : Kept z s) :
    Kept z (policyGroup x0 x1 x2 x3 s).1 := by
  unfold policyGroup
  try dsimp only
  repeat' (first
    | with_reducible assumption | with_reducible apply kept_readMem | simp only [kept_mk] | split
    | with_reducible refine kept_fst (by assumption) ?_ | with_reducible refine kept_foldl ?_ (fun _ _ _ => ?_)
    | with_reducible refine kept_foldl_fst ?_ (fun _ _ _ _ => ?_))

theorem kept_doPolicy {z : State} {x0 : Nat} {x1 : ImgSlot} {x2 : Image} {x3 : SnapOp} {s : State} (h : Kept z
    s) :
    Kept z (doPolicy x0 x1 x2 x3 s) := by
  unfold doPolicy
  try dsimp only
  repeat' (first
    | with_reducible assumption | with_reducible apply kept_policyGroup | with_reducible apply kept_ranPoisoned
    | with_reducible apply kept_writeStore | with_reducible apply kept_writeMem
    | with_reducible apply kept_ranStep | simp only [kept_mk] | split
    | with_reducible refine kept_fst (by assumption) ?_ | with_reducible refine kept_foldl ?_ (fun _ _ _ => ?_)
    | with_reducible refine kept_foldl_fst ?_ (fun _ _ _ _ => ?_))

theorem kept_execSnapShip {z : State} {x0 : Nat} {s : State} (h : Kept z s) :
    KeptNext z (execSnapShip x0 s) := by
  unfold execSnapShip
  try dsimp only
  repeat' (first
    | with_reducible assumption | with_reducible apply keptNext_next | with_reducible apply kept_doShip
    | simp only [kept_mk] | split)

theorem kept_execSnapPolicy {z : State} {x0 : Nat} {s : State} (h : Kept z s) :
    KeptNext z (execSnapPolicy x0 s) := by
  unfold execSnapPolicy
  try dsimp only
  repeat' (first
    | with_reducible assumption | with_reducible apply keptNext_next | with_reducible apply kept_doPolicy
    | simp only [kept_mk] | split)

end Sys2Proof.Machine
end

