-- ==== Sys2Proof/Laws/KeptMailbox.lean ====
section
/-! SUPPORT. `Kept` of each operation and command of Machine/Mailbox.lean. -/

set_option maxRecDepth 8000

namespace Sys2Proof.Machine

theorem kept_pass {z : State} {x0 : Nat} {s : State} (h : Kept z s) :
    Kept z (pass x0 s) := by
  unfold pass
  try dsimp only
  repeat' (first
    | with_reducible assumption | simp only [kept_mk] | split)

theorem kept_idle {z : State} {s : State} (h : Kept z s) :
    Kept z (idle s) := by
  unfold idle
  try dsimp only
  repeat' (first
    | with_reducible assumption | with_reducible apply kept_pass)

theorem kept_passNow {z : State} {x0 : Nat} {s : State} (h : Kept z s) :
    Kept z (passNow x0 s) := by
  unfold passNow
  try dsimp only
  repeat' (first
    | with_reducible assumption | with_reducible apply kept_pass)

theorem kept_passCycle {z : State} {x0 : Nat} {s : State} (h : Kept z s) :
    Kept z (passCycle x0 s) := by
  unfold passCycle
  try dsimp only
  repeat' (first
    | with_reducible assumption | with_reducible apply kept_pass)

theorem kept_setMode {z : State} {x0 : ModState} {s : State} (h : Kept z s) :
    Kept z (setMode x0 s) := by
  unfold setMode
  try dsimp only
  repeat' (first
    | with_reducible assumption | with_reducible apply kept_raise | simp only [kept_mk] | split)

theorem kept_settleMode {z : State} {s : State} (h : Kept z s) :
    Kept z (settleMode s) := by
  unfold settleMode
  try dsimp only
  repeat' (first
    | with_reducible assumption | with_reducible apply kept_setMode | simp only [kept_mk] | split)

theorem kept_setMb {z : State} {x0 : Nat} {x1 : Mailbox} {s : State} (h : Kept z s) :
    Kept z (setMb x0 x1 s) := by
  unfold setMb
  try dsimp only
  repeat' (first
    | with_reducible assumption | simp only [kept_mk])

theorem kept_setWinQ {z : State} {x0 : Nat} {x1 : Nat} {x2 : WinQ} {s : State} (h : Kept z s) :
    Kept z (setWinQ x0 x1 x2 s) := by
  unfold setWinQ
  try dsimp only
  repeat' (first
    | with_reducible assumption | with_reducible apply kept_setPort)

theorem kept_deliver {z : State} {x0 : Nat} {x1 : Nat} {x2 : Nat} {s : State} (h : Kept z s) :
    Kept z (deliver x0 x1 x2 s) := by
  unfold deliver
  try dsimp only
  repeat' (first
    | with_reducible assumption | with_reducible apply kept_hostWrite | with_reducible apply kept_emit
    | simp only [kept_mk] | split)

theorem kept_complete {z : State} {x0 : Nat} {x1 : Nat} {x2 : List Nat} {x3 : List Byte} {s : State} (h : Kept
    z s) :
    Kept z (complete x0 x1 x2 x3 s) := by
  unfold complete
  try dsimp only
  repeat' (first
    | with_reducible assumption | with_reducible apply kept_deliver | with_reducible apply kept_setMb)

theorem kept_finish {z : State} {x0 : Nat} {x1 : Nat} {s : State} (h : Kept z s) :
    Kept z (finish x0 x1 s) := by
  unfold finish
  try dsimp only
  repeat' (first
    | with_reducible assumption | with_reducible apply kept_complete)

theorem kept_await {z : State} {x0 : Nat} {x1 : MbWait} {s : State} (h : Kept z s) :
    Kept z (await x0 x1 s) := by
  unfold await
  try dsimp only
  repeat' (first
    | with_reducible assumption | with_reducible apply kept_setMb)

theorem kept_finishAll {z : State} {x0 : MbWait} {x1 : Nat} {s : State} (h : Kept z s) :
    Kept z (finishAll x0 x1 s) := by
  unfold finishAll
  try dsimp only
  repeat' (first
    | with_reducible assumption | with_reducible apply kept_finish | simp only [kept_mk] | split
    | with_reducible refine kept_fst (by assumption) ?_ | with_reducible refine kept_foldl ?_ (fun _ _ _ => ?_))

theorem kept_laterChecks {z : State} {x0 : Nat} {x1 : Mailbox → State → State} {s : State} (h1 : ∀ y0 s, Kept
    z s → Kept z (x1 y0 s)) (h : Kept z s) :
    Kept z (laterChecks x0 x1 s) := by
  unfold laterChecks
  try dsimp only
  repeat' (first
    | with_reducible assumption | with_reducible apply kept_finish | with_reducible apply kept_await
    | with_reducible apply h1 | simp only [kept_mk] | split)

theorem kept_fetchPayload {z : State} {x0 : Nat} {x1 : Mailbox → State → State} {s : State} (h1 : ∀ y0 s, Kept
    z s → Kept z (x1 y0 s)) (h : Kept z s) :
    Kept z (fetchPayload x0 x1 s) := by
  unfold fetchPayload
  try dsimp only
  repeat' (first
    | with_reducible assumption | with_reducible refine kept_laterChecks (fun _ _ _ => ?_) ?_
    | with_reducible apply kept_setMb | with_reducible apply kept_hostRead | with_reducible apply kept_await
    | with_reducible apply h1 | simp only [kept_mk] | split)

theorem kept_mbCommand {z : State} {x0 : Nat} {x1 : Nat} {x2 : Mailbox → State → State} {s : State} (h2 : ∀ y0
    s, Kept z s → Kept z (x2 y0 s)) (h : Kept z s) :
    Kept z (mbCommand x0 x1 x2 s) := by
  unfold mbCommand
  try dsimp only
  repeat' (first
    | with_reducible assumption | with_reducible refine kept_laterChecks (fun _ _ _ => ?_) ?_
    | with_reducible apply kept_finish | with_reducible refine kept_fetchPayload (fun _ _ _ => ?_) ?_
    | with_reducible apply h2 | simp only [kept_mk] | split)

theorem kept_timedOut {z : State} {x0 : Nat} {x1 : Nat} {s : State} (h : Kept z s) :
    Kept z (timedOut x0 x1 s) := by
  unfold timedOut
  try dsimp only
  repeat' (first
    | with_reducible assumption | with_reducible apply kept_raise)

theorem kept_ringBell {z : State} {x0 : Nat} {s : State} (h : Kept z s) :
    Kept z (ringBell x0 s) := by
  unfold ringBell
  try dsimp only
  repeat' (first
    | with_reducible assumption | with_reducible apply kept_setMb | with_reducible apply kept_raise
    | simp only [kept_mk] | split)

theorem kept_ackBox {z : State} {x0 : Nat} {s : State} (h : Kept z s) :
    Kept z (ackBox x0 s) := by
  unfold ackBox
  try dsimp only
  repeat' (first
    | with_reducible assumption | with_reducible apply kept_setMb | simp only [kept_mk] | split)

theorem kept_writeBox {z : State} {x0 : Nat} {x1 : Nat} {x2 : List Byte} {s : State} (h : Kept z s) :
    Kept z (writeBox x0 x1 x2 s) := by
  unfold writeBox
  try dsimp only
  repeat' (first
    | with_reducible assumption | with_reducible apply kept_setMb | simp only [kept_mk] | split)

theorem kept_setFunc {z : State} {x0 : Nat} {x1 : FuncState} {s : State} (h : Kept z s) :
    Kept z (setFunc x0 x1 s) := by
  unfold setFunc
  try dsimp only
  repeat' (first
    | with_reducible assumption | with_reducible apply kept_setPort | simp only [kept_mk] | split)

end Sys2Proof.Machine
end

