-- ==== Sys2Proof/Laws/KeptLaunch.lean ====
section
/-! SUPPORT. `Kept` of each operation and command of Machine/Launch.lean. -/

set_option maxRecDepth 8000

namespace Sys2Proof.Machine

theorem kept_serveFaults {z : State} {s : State} (h : Kept z s) :
    Kept z (serveFaults s) := by
  unfold serveFaults
  try dsimp only
  repeat' (first
    | with_reducible assumption | with_reducible apply kept_pageFault | simp only [kept_mk] | split
    | with_reducible refine kept_fst (by assumption) ?_ | with_reducible refine kept_foldl ?_ (fun _ _ _ => ?_))

theorem kept_unparkAll {z : State} {s : State} (h : Kept z s) :
    Kept z (unparkAll s) := by
  unfold unparkAll
  try dsimp only
  repeat' (first
    | with_reducible assumption | with_reducible apply kept_setCtx | simp only [kept_mk] | split
    | with_reducible refine kept_fst (by assumption) ?_ | with_reducible refine kept_foldl ?_ (fun _ _ _ => ?_))

theorem kept_settleContexts {z : State} {s : State} (h : Kept z s) :
    Kept z (settleContexts s) := by
  unfold settleContexts
  try dsimp only
  repeat' (first
    | with_reducible assumption | with_reducible apply kept_setCtx | simp only [kept_mk] | split
    | with_reducible refine kept_fst (by assumption) ?_ | with_reducible refine kept_foldl ?_ (fun _ _ _ => ?_))

theorem kept_abortFlag {z : State} {x0 : HostUse} {x1 : Queue} {x2 : Nat} {x3 : Nat} {s : State} (h : Kept z
    s) :
    Kept z (abortFlag x0 x1 x2 x3 s).1 := by
  unfold abortFlag
  try dsimp only
  repeat' (first
    | with_reducible assumption | with_reducible apply kept_ownRead | with_reducible apply kept_setBuf
    | simp only [kept_mk] | split | with_reducible refine kept_fst (by assumption) ?_)

theorem kept_lncDrain {z : State} {x0 : Nat} {s : State} (h : Kept z s) :
    Kept z (lncDrain x0 s) := by
  unfold lncDrain
  try dsimp only
  repeat' (first
    | with_reducible assumption | with_reducible apply kept_completeLaunch | with_reducible apply kept_abortFlag
    | with_reducible apply kept_setLncQ | simp only [kept_mk] | split
    | with_reducible refine kept_fst (by assumption) ?_ | with_reducible refine kept_foldl ?_ (fun _ _ _ => ?_))

theorem kept_execLncQtail {z : State} {x0 : Nat} {x1 : Word32} {s : State} (h : Kept z s) :
    KeptNext z (execLncQtail x0 x1 s) := by
  unfold execLncQtail
  try dsimp only
  repeat' (first
    | with_reducible assumption | with_reducible apply keptNext_next | with_reducible apply kept_setLncQ
    | simp only [kept_mk] | split)

theorem kept_execLncQcfgEnable {z : State} {x0 : Nat} {x1 : Word64} {s : State} (h : Kept z s) :
    KeptNext z (execLncQcfgEnable x0 x1 s) := by
  unfold execLncQcfgEnable
  try dsimp only
  repeat' (first
    | with_reducible assumption | with_reducible apply keptNext_next | with_reducible apply kept_setLncQ
    | simp only [kept_mk] | split)

theorem kept_execLncQcfgDisable {z : State} {x0 : Nat} {x1 : Word64} {s : State} (h : Kept z s) :
    KeptNext z (execLncQcfgDisable x0 x1 s) := by
  unfold execLncQcfgDisable
  try dsimp only
  repeat' (first
    | with_reducible assumption | with_reducible apply keptNext_next | with_reducible apply kept_lncDrain
    | with_reducible apply kept_setLncQ | simp only [kept_mk] | split)

theorem kept_launchRead {z : State} {x0 : Nat} {x1 : Nat} {x2 : Nat} {x3 : Nat} {x4 : Bool} {x5 : List Byte →
    State → State × LaunchRead} {s : State} (h5 : ∀ y0 s, Kept z s → Kept z (x5 y0 s).1) (h : Kept z s) :
    Kept z (launchRead x0 x1 x2 x3 x4 x5 s).1 := by
  unfold launchRead
  try dsimp only
  repeat' (first
    | with_reducible assumption | with_reducible apply kept_ownRead | with_reducible apply kept_refusePage
    | with_reducible apply h5 | simp only [kept_mk] | split | with_reducible refine kept_fst (by assumption) ?_)

theorem kept_readLaunch {z : State} {x0 : Nat} {x1 : Nat} {x2 : Nat} {s : State} (h : Kept z s) :
    Kept z (readLaunch x0 x1 x2 s).1 := by
  unfold readLaunch
  try dsimp only
  repeat' (first
    | with_reducible assumption | with_reducible refine kept_launchRead (fun _ _ _ => ?_) ?_
    | simp only [kept_mk] | split)

theorem kept_failLaunch {z : State} {x0 : Nat} {x1 : Nat} {x2 : Nat} {x3 : Nat} {x4 : Bool} {s : State} (h :
    Kept z s) :
    Kept z (failLaunch x0 x1 x2 x3 x4 s) := by
  unfold failLaunch
  try dsimp only
  repeat' (first
    | with_reducible assumption | with_reducible apply kept_completeLaunch
    | with_reducible apply kept_checkedAgain)

theorem kept_placeKernel {z : State} {x0 : Nat} {x1 : LaneKernel} {x2 : CheckVerdict} {s : State} (h : Kept z
    s) :
    Kept z (placeKernel x0 x1 x2 s).1 := by
  unfold placeKernel
  try dsimp only
  repeat' (first
    | with_reducible assumption | with_reducible apply kept_checkedAgain | with_reducible apply kept_setLncQ
    | with_reducible apply kept_failLaunch | with_reducible apply kept_refusePage
    | with_reducible apply kept_workFault | simp only [kept_mk] | split)

theorem kept_offerIslet {z : State} {x0 : Nat} {x1 : Nat} {s : State} (h : Kept z s) :
    Kept z (offerIslet x0 x1 s).1 := by
  unfold offerIslet
  try dsimp only
  repeat' (first
    | with_reducible assumption | with_reducible apply kept_placeKernel | with_reducible apply kept_readLaunch
    | with_reducible apply kept_failLaunch | with_reducible apply kept_setBuf
    | with_reducible apply kept_workFault | simp only [kept_mk] | split
    | with_reducible refine kept_fst (by assumption) ?_)

theorem kept_suspendKernel {z : State} {x0 : Nat} {x1 : LaneKernel} {s : State} (h : Kept z s) :
    Kept z (suspendKernel x0 x1 s) := by
  unfold suspendKernel
  try dsimp only
  repeat' (first
    | with_reducible assumption | with_reducible apply kept_ownWrite | simp only [kept_mk])

theorem kept_placeFree {z : State} {s : State} (h : Kept z s) :
    Kept z (placeFree s) := by
  unfold placeFree
  try dsimp only
  repeat' (first
    | with_reducible assumption | with_reducible apply kept_lncDrain | with_reducible apply kept_suspendKernel
    | with_reducible apply kept_offerIslet | simp only [kept_mk] | split
    | with_reducible refine kept_fst (by assumption) ?_ | with_reducible refine kept_foldl ?_ (fun _ _ _ => ?_)
    | with_reducible refine kept_foldl_fst ?_ (fun _ _ _ _ => ?_))

end Sys2Proof.Machine
end

