-- ==== Sys2Proof/Laws/KeptCaches.lean ====
section
/-! SUPPORT. `Kept` of each operation and command of Machine/Caches.lean. -/

set_option maxRecDepth 8000

namespace Sys2Proof.Machine

theorem kept_setCline {z : State} {x0 : Nat} {x1 : Nat} {x2 : CLine} {s : State} (h : Kept z s) :
    Kept z (setCline x0 x1 x2 s) := by
  unfold setCline
  try dsimp only
  repeat' (first
    | with_reducible assumption | simp only [kept_mk])

theorem kept_setFilter {z : State} {x0 : Nat} {x1 : List FEntry} {s : State} (h : Kept z s) :
    Kept z (setFilter x0 x1 s) := by
  unfold setFilter
  try dsimp only
  repeat' (first
    | with_reducible assumption | simp only [kept_mk])

theorem kept_leaveFilter {z : State} {x0 : Nat} {x1 : Nat} {s : State} (h : Kept z s) :
    Kept z (leaveFilter x0 x1 s) := by
  unfold leaveFilter
  try dsimp only
  repeat' (first
    | with_reducible assumption | with_reducible apply kept_setFilter | simp only [kept_mk] | split)

end Sys2Proof.Machine
end

