-- ==== Sys2Proof/Laws/KeptJobs.lean ====
section
/-! SUPPORT. `Kept` of each operation and command of Machine/Jobs.lean. -/

set_option maxRecDepth 8000

namespace Sys2Proof.Machine

theorem kept_flushBack {z : State} {x0 : Nat} {x1 : CLine} {s : State} (h : Kept z s) :
    Kept z (flushBack x0 x1 s) := by
  unfold flushBack
  try dsimp only
  repeat' (first
    | with_reducible assumption | with_reducible apply kept_writeMem | with_reducible apply kept_poisonMem
    | simp only [kept_mk] | split)

theorem kept_putLine {z : State} {x0 : Nat} {x1 : CLine} {s : State} (h : Kept z s) :
    Kept z (putLine x0 x1 s) := by
  unfold putLine
  try dsimp only
  repeat' (first
    | with_reducible assumption | simp only [kept_mk])

theorem kept_setFlushed {z : State} {x0 : Nat} {x1 : CLine} {s : State} (h : Kept z s) :
    Kept z (setFlushed x0 x1 s) := by
  unfold setFlushed
  try dsimp only
  repeat' (first
    | with_reducible assumption | with_reducible apply kept_leaveFilter | with_reducible apply kept_putLine
    | simp only [kept_mk] | split)

theorem kept_flushLine {z : State} {x0 : Nat} {x1 : CLine} {s : State} (h : Kept z s) :
    Kept z (flushLine x0 x1 s) := by
  unfold flushLine
  try dsimp only
  repeat' (first
    | with_reducible assumption | with_reducible apply kept_setFlushed | with_reducible apply kept_flushBack
    | simp only [kept_mk] | split)

theorem kept_flushPage {z : State} {x0 : Nat} {s : State} (h : Kept z s) :
    Kept z (flushPage x0 s) := by
  unfold flushPage
  try dsimp only
  repeat' (first
    | with_reducible assumption | with_reducible apply kept_flushLine | simp only [kept_mk] | split
    | with_reducible refine kept_fst (by assumption) ?_ | with_reducible refine kept_foldl ?_ (fun _ _ _ => ?_))

theorem kept_finishRgn {z : State} {x0 : Via} {x1 : Nat} {x2 : Nat} {s : State} (h : Kept z s) :
    Kept z (finishRgn x0 x1 x2 s) := by
  unfold finishRgn
  try dsimp only
  repeat' (first
    | with_reducible assumption | with_reducible apply kept_complete | with_reducible apply kept_emit
    | simp only [kept_mk] | split)

theorem kept_setRegion {z : State} {x0 : Nat} {x1 : RegionD} {s : State} (h : Kept z s) :
    Kept z (setRegion x0 x1 s) := by
  unfold setRegion
  try dsimp only
  repeat' (first
    | with_reducible assumption | with_reducible apply kept_setList)

theorem kept_regionChanged {z : State} {x0 : Nat} {x1 : Nat} {x2 : Nat} {s : State} (h : Kept z s) :
    Kept z (regionChanged x0 x1 x2 s) := by
  unfold regionChanged
  try dsimp only
  repeat' (first
    | with_reducible assumption | with_reducible apply kept_raise)

theorem kept_setPinned {z : State} {x0 : Nat} {x1 : RegionD} {x2 : Bool} {s : State} (h : Kept z s) :
    Kept z (setPinned x0 x1 x2 s) := by
  unfold setPinned
  try dsimp only
  repeat' (first
    | with_reducible assumption | with_reducible apply kept_setRegion | with_reducible apply kept_setTags)

theorem kept_pinPages {z : State} {x0 : RegionD} {s : State} (h : Kept z s) :
    Kept z (pinPages x0 s) := by
  unfold pinPages
  try dsimp only
  repeat' (first
    | with_reducible assumption | with_reducible apply kept_startMigration | simp only [kept_mk] | split
    | with_reducible refine kept_fst (by assumption) ?_ | with_reducible refine kept_foldl ?_ (fun _ _ _ => ?_))

theorem kept_pinStep {z : State} {x0 : RgnJob} {s : State} (h : Kept z s) :
    Kept z (pinStep x0 s) := by
  unfold pinStep
  try dsimp only
  repeat' (first
    | with_reducible assumption | with_reducible apply kept_finishRgn | with_reducible apply kept_pinPages
    | with_reducible apply kept_regionChanged | with_reducible apply kept_setPinned | simp only [kept_mk]
    | split)

theorem kept_startEvict {z : State} {x0 x1 : Nat} {s : State} (h : Kept z s) : Kept z (startEvict x0 x1 s) := by
  unfold startEvict
  exact kept_hostWrite (kept_readMem (kept_flushPage (kept_setTag (kept_setEntry (kept_drawn h)))))

theorem kept_evictStep {z : State} {x0 : RgnJob} {s : State} (h : Kept z s) :
    Kept z (evictStep x0 s) := by
  unfold evictStep
  try dsimp only
  repeat' (first
    | with_reducible assumption | with_reducible apply kept_setEntry | with_reducible apply kept_finishRgn
    | with_reducible apply kept_setTag | with_reducible apply kept_raise | with_reducible apply kept_startEvict
    | simp only [kept_mk] | split)

theorem kept_advanceRegion {z : State} {s : State} (h : Kept z s) :
    Kept z (advanceRegion s) := by
  unfold advanceRegion
  try dsimp only
  repeat' (first
    | with_reducible assumption | with_reducible apply kept_evictStep | with_reducible apply kept_pinStep
    | simp only [kept_mk] | split)

end Sys2Proof.Machine
end

