-- ==== Sys2Proof/Laws/KeptSecure.lean ====
section
/-! SUPPORT. `Kept` of each operation and command of Machine/Secure.lean. -/

set_option maxRecDepth 8000

namespace Sys2Proof.Machine

theorem kept_readSecured {z : State} {x0 : ImgSlot} {x1 : Image} {x2 : Nat} {x3 : Nat} {x4 : Bool} {s : State}
    (h : Kept z s) :
    Kept z (readSecured x0 x1 x2 x3 x4 s).1 := by
  unfold readSecured
  try dsimp only
  repeat' (first
    | with_reducible assumption | with_reducible apply kept_readMem | simp only [kept_mk] | split
    | with_reducible refine kept_fst (by assumption) ?_ | with_reducible refine kept_foldl ?_ (fun _ _ _ => ?_)
    | with_reducible refine kept_foldl_fst ?_ (fun _ _ _ _ => ?_))

theorem kept_secureWrite {z : State} {x0 : Securing} {x1 : SecDest} {x2 : Nat} {x3 : List Byte} {s : State}
    (h : Kept z s) :
    Kept z (secureWrite x0 x1 x2 x3 s) := by
  unfold secureWrite
  try dsimp only
  repeat' (first
    | with_reducible assumption | with_reducible apply kept_peerWrite | with_reducible apply kept_hostWrite
    | simp only [kept_mk] | split)

theorem kept_startStage {z : State} {x0 : Securing} {x1 : SecDest} {s : State} (h : Kept z s) :
    Kept z (startStage x0 x1 s) := by
  unfold startStage
  try dsimp only
  repeat' (first
    | with_reducible assumption | with_reducible apply kept_secureWrite | simp only [kept_mk] | split
    | with_reducible refine kept_fst (by assumption) ?_ | with_reducible refine kept_foldl ?_ (fun _ _ _ => ?_))

theorem kept_setDest {z : State} {x0 : SecDest} {s : State} (h : Kept z s) :
    Kept z (setDest x0 s) := by
  unfold setDest
  try dsimp only
  repeat' (first
    | with_reducible assumption | simp only [kept_mk] | split)

theorem kept_destDone {z : State} {x0 : Securing} {x1 : SecDest} {s : State} (h : Kept z s) :
    Kept z (destDone x0 x1 s) := by
  unfold destDone
  try dsimp only
  repeat' (first
    | with_reducible assumption | with_reducible apply kept_setDest | simp only [kept_mk] | split)

theorem kept_advanceDest {z : State} {x0 : Nat} {x1 : Nat} {s : State} (h : Kept z s) :
    Kept z (advanceDest x0 x1 s) := by
  induction x1 generalizing x0 s with
  | zero =>
    unfold advanceDest
    try dsimp only
    repeat' (with_reducible assumption)
  | succ n ih =>
    unfold advanceDest
    try dsimp only
    repeat' (first
      | with_reducible assumption | with_reducible apply ih | with_reducible apply kept_destDone
      | with_reducible apply kept_startStage | with_reducible apply kept_setDest | simp only [kept_mk] | split)

theorem kept_endSecuring {z : State} {s : State} (h : Kept z s) :
    Kept z (endSecuring s) := by
  unfold endSecuring
  try dsimp only
  repeat' (first
    | with_reducible assumption | with_reducible apply kept_raise | with_reducible apply kept_complete
    | with_reducible apply kept_finish | with_reducible apply kept_setMode | simp only [kept_mk] | split
    | with_reducible refine kept_fst (by assumption) ?_ | with_reducible refine kept_foldl ?_ (fun _ _ _ => ?_))

theorem kept_advanceSecuring {z : State} {s : State} (h : Kept z s) :
    Kept z (advanceSecuring s) := by
  unfold advanceSecuring
  try dsimp only
  repeat' (first
    | with_reducible assumption | with_reducible apply kept_endSecuring | with_reducible apply kept_advanceDest)

theorem kept_failDest {z : State} {x0 : Nat} {s : State} (h : Kept z s) :
    Kept z (failDest x0 s) := by
  unfold failDest
  try dsimp only
  repeat' (first
    | with_reducible assumption | with_reducible apply kept_endSecuring | with_reducible apply kept_secureFailed
    | with_reducible apply kept_setDest | simp only [kept_mk] | split)

theorem kept_startSecuring {z : State} {x0 : Nat} {x1 : Nat} {x2 : Bool} {s : State} (h : Kept z s) :
    Kept z (startSecuring x0 x1 x2 s) := by
  unfold startSecuring
  try dsimp only
  repeat' (first
    | with_reducible assumption | with_reducible apply kept_secureRefused | with_reducible apply kept_finishAll
    | with_reducible apply kept_readSecured | with_reducible apply kept_drainAll
    | with_reducible apply kept_raise | with_reducible apply kept_await | with_reducible apply kept_setMode
    | with_reducible apply kept_advanceSecuring | with_reducible apply kept_startStage | simp only [kept_mk]
    | split | with_reducible refine kept_fst (by assumption) ?_
    | with_reducible refine kept_foldl ?_ (fun _ _ _ => ?_))

theorem kept_abandonSecuring {z : State} {s : State} (h : Kept z s) :
    Kept z (abandonSecuring s) := by
  unfold abandonSecuring
  try dsimp only
  repeat' (first
    | with_reducible assumption | with_reducible apply kept_finishAll | simp only [kept_mk])

theorem kept_expireInterval {z : State} {x0 : Nat} {s : State} (h : Kept z s) :
    Kept z (expireInterval x0 s) := by
  unfold expireInterval
  try dsimp only
  repeat' (first
    | with_reducible assumption | with_reducible apply kept_requestSecuring | with_reducible apply kept_raise
    | simp only [kept_mk] | split)

theorem kept_bindAnchor {z : State} {x0 : Nat} {x1 : Nat} {s : State} (h : Kept z s) :
    Kept z (bindAnchor x0 x1 s) := by
  unfold bindAnchor
  try dsimp only
  repeat' (first
    | with_reducible assumption | with_reducible apply kept_expireInterval
    | with_reducible apply kept_startSecuring | simp only [kept_mk] | split)

end Sys2Proof.Machine
end

