-- ==== Sys2Proof/Laws/KeptAdmission.lean ====
section
/-! SUPPORT. `Kept` of each operation and command of Machine/Admission.lean. -/

set_option maxRecDepth 8000

namespace Sys2Proof.Machine

theorem kept_admitImage {z : State} {x0 : Nat} {x1 : Nat} {x2 : Nat} {x3 : List Nat} {x4 : Nat} {s : State}
    (h : Kept z s) :
    Kept z (admitImage x0 x1 x2 x3 x4 s).1 := by
  unfold admitImage
  try dsimp only
  repeat' (first
    | with_reducible assumption | with_reducible apply kept_readMem | simp only [kept_mk] | split)

end Sys2Proof.Machine
end

