-- ==== Sys2Proof/Laws/KeptTimetable.lean ====
section
/-! SUPPORT. `Kept` of each operation and command of Machine/Timetable.lean. -/

set_option maxRecDepth 8000

namespace Sys2Proof.Machine

theorem kept_writeStats {z : State} {x0 : ImgSlot} {x1 : Image} {x2 : CrossingEnt} {x3 : Nat} {x4 : Nat} {s :
    State} (h : Kept z s) :
    Kept z (writeStats x0 x1 x2 x3 x4 s) := by
  unfold writeStats
  try dsimp only
  repeat' (first
    | with_reducible assumption | with_reducible apply kept_writeMem)

theorem kept_writeAllStats {z : State} {x0 : ImgSlot} {x1 : Image} {x2 : CrossingEnt} {x3 : Nat} {s : State}
    (h : Kept z s) :
    Kept z (writeAllStats x0 x1 x2 x3 s) := by
  unfold writeAllStats
  try dsimp only
  repeat' (first
    | with_reducible assumption | with_reducible apply kept_writeStats | with_reducible apply kept_settleCopies
    | simp only [kept_mk] | split | with_reducible refine kept_fst (by assumption) ?_
    | with_reducible refine kept_foldl ?_ (fun _ _ _ => ?_))

theorem kept_goOn {z : State} {x0 : Nat} {s : State} (h : Kept z s) :
    Kept z (goOn x0 s) := by
  induction x0 generalizing s with
  | zero =>
    unfold goOn
    try dsimp only
    repeat' (with_reducible assumption)
  | succ n ih =>
    unfold goOn
    try dsimp only
    repeat' (first
      | with_reducible assumption | with_reducible apply ih | with_reducible apply kept_changeBatch
      | simp only [kept_mk] | split)

theorem kept_beginIndex {z : State} {x0 : Nat} {s : State} (h : Kept z s) :
    Kept z (beginIndex x0 s) := by
  unfold beginIndex
  try dsimp only
  repeat' (first
    | with_reducible assumption | with_reducible apply kept_goOn | simp only [kept_mk])

theorem kept_updateHistory {z : State} {x0 : ImgSlot} {x1 : Image} {x2 : CrossingEnt} {x3 : Nat} {x4 : Nat} {s
    : State} (h : Kept z s) :
    Kept z (updateHistory x0 x1 x2 x3 x4 s) := by
  unfold updateHistory
  try dsimp only
  repeat' (first
    | with_reducible assumption | with_reducible apply kept_writeMem | simp only [kept_mk] | split)

theorem kept_closeIndex {z : State} {s : State} (h : Kept z s) :
    Kept z (closeIndex s) := by
  unfold closeIndex
  try dsimp only
  repeat' (first
    | with_reducible assumption | with_reducible apply kept_settleCopies | with_reducible apply kept_writeStats
    | with_reducible apply kept_updateHistory | simp only [kept_mk] | split
    | with_reducible refine kept_fst (by assumption) ?_ | with_reducible refine kept_foldl ?_ (fun _ _ _ => ?_))

theorem kept_copyMem {z : State} {x0 : Nat} {x1 : Nat} {x2 : Nat} {s : State} (h : Kept z s) :
    Kept z (copyMem x0 x1 x2 s) := by
  unfold copyMem
  try dsimp only
  repeat' (first
    | with_reducible assumption | with_reducible apply kept_readMem | with_reducible apply kept_writeMem)

theorem kept_takeCopy {z : State} {x0 : ImgSlot} {s : State} (h : Kept z s) :
    Kept z (takeCopy x0 s) := by
  unfold takeCopy
  try dsimp only
  repeat' (first
    | with_reducible assumption | with_reducible apply kept_copyMem | simp only [kept_mk] | split)

theorem kept_restoreCopy {z : State} {x0 : ImgSlot} {s : State} (h : Kept z s) :
    Kept z (restoreCopy x0 s) := by
  unfold restoreCopy
  try dsimp only
  repeat' (first
    | with_reducible assumption | with_reducible apply kept_copyMem)

theorem kept_takePosition {z : State} {x0 : Nat} {x1 : Nat} {s : State} (h : Kept z s) :
    Kept z (takePosition x0 x1 s) := by
  unfold takePosition
  try dsimp only
  repeat' (first
    | with_reducible assumption | with_reducible apply kept_setSlot | with_reducible apply kept_raise
    | simp only [kept_mk] | split)

theorem kept_releaseShips {z : State} {s : State} (h : Kept z s) :
    Kept z (releaseShips s) := by
  unfold releaseShips
  try dsimp only
  repeat' (first
    | with_reducible assumption | simp only [kept_mk])

theorem kept_setWinCmd {z : State} {x0 : Nat} {x1 : Nat} {x2 : Nat} {x3 : WinCmd → WinCmd} {s : State} (h :
    Kept z s) :
    Kept z (setWinCmd x0 x1 x2 x3 s) := by
  unfold setWinCmd
  try dsimp only
  repeat' (first
    | with_reducible assumption | with_reducible apply kept_setWinQ)

theorem kept_recordPass {z : State} {s : State} (h : Kept z s) :
    Kept z (recordPass s) := by
  unfold recordPass
  try dsimp only
  repeat' (first
    | with_reducible assumption | with_reducible apply kept_setWinQ | with_reducible apply kept_hostWrite
    | simp only [kept_mk] | split | with_reducible refine kept_fst (by assumption) ?_
    | with_reducible refine kept_foldl ?_ (fun _ _ _ => ?_))

theorem kept_writeRecords {z : State} {s : State} (h : Kept z s) :
    Kept z (writeRecords s) := by
  unfold writeRecords
  try dsimp only
  repeat' (first
    | with_reducible assumption | with_reducible apply kept_recordPass | simp only [kept_mk] | split
    | with_reducible refine kept_fst (by assumption) ?_ | with_reducible refine kept_iter (fun _ _ => ?_) _ _ ?_)

theorem kept_recordArises {z : State} {x0 : Nat} {x1 : Nat} {x2 : Nat} {x3 : Nat} {s : State} (h : Kept z s) :
    Kept z (recordArises x0 x1 x2 x3 s) := by
  unfold recordArises
  try dsimp only
  repeat' (first
    | with_reducible assumption | with_reducible apply kept_setWinCmd | with_reducible apply kept_writeRecords
    | simp only [kept_mk])

theorem kept_releaseHeld {z : State} {s : State} (h : Kept z s) :
    Kept z (releaseHeld s) := by
  unfold releaseHeld
  try dsimp only
  repeat' (first
    | with_reducible assumption | with_reducible apply kept_writeRecords | simp only [kept_mk])

theorem kept_commitAnchor {z : State} {x0 : Nat} {x1 : Nat} {s : State} (h : Kept z s) :
    Kept z (commitAnchor x0 x1 s) := by
  unfold commitAnchor
  try dsimp only
  repeat' (first
    | with_reducible assumption | with_reducible apply kept_takeCopy | with_reducible apply kept_takePosition
    | with_reducible apply kept_bindAnchor | with_reducible apply kept_releaseHeld
    | with_reducible apply kept_releaseShips | simp only [kept_mk])

theorem kept_cancelSwitch {z : State} {s : State} (h : Kept z s) :
    Kept z (cancelSwitch s) := by
  unfold cancelSwitch
  try dsimp only
  repeat' (first
    | with_reducible assumption | with_reducible apply kept_raise | simp only [kept_mk] | split)

theorem kept_enterStopping {z : State} {s : State} (h : Kept z s) :
    Kept z (enterStopping s) := by
  unfold enterStopping
  try dsimp only
  repeat' (first
    | with_reducible assumption | with_reducible apply kept_cancelSwitch | with_reducible apply kept_finishAll
    | simp only [kept_mk] | split)

theorem kept_becomeStopped {z : State} {s : State} (h : Kept z s) :
    Kept z (becomeStopped s) := by
  unfold becomeStopped
  try dsimp only
  repeat' (first
    | with_reducible assumption | with_reducible apply kept_unlockPages | with_reducible apply kept_releaseHeld
    | with_reducible apply kept_settleMode | with_reducible apply kept_finishAll | simp only [kept_mk])

theorem kept_timetableEnds {z : State} {s : State} (h : Kept z s) :
    Kept z (timetableEnds s) := by
  unfold timetableEnds
  try dsimp only
  repeat' (first
    | with_reducible assumption | with_reducible apply kept_raise | with_reducible apply kept_becomeStopped)

theorem kept_lastRecords {z : State} {s : State} (h : Kept z s) :
    Kept z (lastRecords s) := by
  unfold lastRecords
  try dsimp only
  repeat' (first
    | with_reducible assumption | with_reducible apply kept_writeAllStats | simp only [kept_mk] | split)

theorem kept_stopTimetable {z : State} {s : State} (h : Kept z s) :
    Kept z (stopTimetable s) := by
  unfold stopTimetable
  try dsimp only
  repeat' (first
    | with_reducible assumption | with_reducible apply kept_timetableEnds
    | with_reducible apply kept_lastRecords | simp only [kept_mk] | split)

theorem kept_execTimetableStopped {z : State} {s : State} (h : Kept z s) :
    KeptNext z (execTimetableStopped s) := by
  unfold execTimetableStopped
  try dsimp only
  repeat' (first
    | with_reducible assumption | with_reducible apply keptNext_next | with_reducible apply kept_stopTimetable)

theorem kept_stopFunction {z : State} {x0 : Nat} {s : State} (h : Kept z s) :
    Kept z (stopFunction x0 s) := by
  unfold stopFunction
  try dsimp only
  repeat' (first
    | with_reducible assumption | with_reducible apply kept_setFunc | with_reducible apply kept_finishAll
    | simp only [kept_mk] | split)

theorem kept_stopPort {z : State} {x0 : Nat} {s : State} (h : Kept z s) :
    Kept z (stopPort x0 s) := by
  unfold stopPort
  try dsimp only
  repeat' (first
    | with_reducible assumption | with_reducible apply kept_setPort | with_reducible apply kept_stopFunction
    | simp only [kept_mk] | split)

theorem kept_stopFunctions {z : State} {s : State} (h : Kept z s) :
    Kept z (stopFunctions s) := by
  unfold stopFunctions
  try dsimp only
  repeat' (first
    | with_reducible assumption | with_reducible apply kept_stopPort | with_reducible apply kept_stopFunction
    | with_reducible apply kept_enterStopping | simp only [kept_mk] | split
    | with_reducible refine kept_fst (by assumption) ?_ | with_reducible refine kept_foldl ?_ (fun _ _ _ => ?_))

theorem kept_failModule {z : State} {x0 : Nat} {s : State} (h : Kept z s) :
    Kept z (failModule x0 s) := by
  unfold failModule
  try dsimp only
  repeat' (first
    | with_reducible assumption | with_reducible apply kept_raise | with_reducible apply kept_setMode
    | with_reducible apply kept_stopFunctions | with_reducible apply kept_abandonSecuring | simp only [kept_mk]
    | split)

theorem kept_initStats {z : State} {x0 : ImgSlot} {x1 : Image} {s : State} (h : Kept z s) :
    Kept z (initStats x0 x1 s) := by
  unfold initStats
  try dsimp only
  repeat' (first
    | with_reducible assumption | with_reducible apply kept_writeMem | simp only [kept_mk] | split)

theorem kept_reloadPolicy {z : State} {x0 : ImgSlot} {x1 : Image} {x2 : SnapOp} {s : State} (h : Kept z s) :
    Kept z (reloadPolicy x0 x1 x2 s) := by
  unfold reloadPolicy
  try dsimp only
  repeat' (first
    | with_reducible assumption | with_reducible apply kept_readMem | with_reducible apply kept_poisonStop
    | with_reducible apply kept_writeStore | simp only [kept_mk] | split
    | with_reducible refine kept_fst (by assumption) ?_ | with_reducible refine kept_foldl ?_ (fun _ _ _ => ?_)
    | with_reducible refine kept_foldl_fst ?_ (fun _ _ _ _ => ?_))

theorem kept_reloadPolicies {z : State} {x0 : Nat} {s : State} (h : Kept z s) :
    Kept z (reloadPolicies x0 s) := by
  unfold reloadPolicies
  try dsimp only
  repeat' (first
    | with_reducible assumption | with_reducible apply kept_reloadPolicy | simp only [kept_mk] | split
    | with_reducible refine kept_fst (by assumption) ?_ | with_reducible refine kept_foldl ?_ (fun _ _ _ => ?_))

theorem kept_openStart {z : State} {s : State} (h : Kept z s) :
    Kept z (openStart s) := by
  unfold openStart
  try dsimp only
  repeat' (first
    | with_reducible assumption | with_reducible apply kept_raise | with_reducible apply kept_residentStart
    | with_reducible apply kept_initStats | with_reducible apply kept_reloadPolicies
    | with_reducible apply kept_beginIndex | with_reducible apply kept_finishAll | simp only [kept_mk] | split)

theorem kept_beginStart {z : State} {x0 : Option Nat} {s : State} (h : Kept z s) :
    Kept z (beginStart x0 s) := by
  unfold beginStart
  try dsimp only
  repeat' (first
    | with_reducible assumption | with_reducible apply kept_settleMode | simp only [kept_mk])

theorem kept_advanceReplay {z : State} {x0 : Nat} {s : State} (h : Kept z s) :
    Kept z (advanceReplay x0 s) := by
  induction x0 generalizing s with
  | zero =>
    unfold advanceReplay
    try dsimp only
    repeat' (with_reducible assumption)
  | succ n ih =>
    unfold advanceReplay
    try dsimp only
    repeat' (first
      | with_reducible assumption | with_reducible apply ih | with_reducible apply kept_closeIndex
      | with_reducible apply kept_beginIndex | with_reducible apply kept_raise | simp only [kept_mk] | split)

theorem kept_settleReplay {z : State} {s : State} (h : Kept z s) :
    Kept z (settleReplay s) := by
  unfold settleReplay
  try dsimp only
  repeat' (first
    | with_reducible assumption | with_reducible apply kept_restoreCopy
    | with_reducible apply kept_residentStart | with_reducible apply kept_reloadPolicies
    | with_reducible apply kept_beginIndex | with_reducible apply kept_advanceReplay | simp only [kept_mk]
    | split)

theorem kept_startReplay {z : State} {s : State} (h : Kept z s) :
    Kept z (startReplay s) := by
  unfold startReplay
  try dsimp only
  repeat' (first
    | with_reducible assumption | with_reducible apply kept_enterStopping | with_reducible apply kept_raise
    | with_reducible apply kept_settleReplay | simp only [kept_mk] | split)

theorem kept_takeCompletion {z : State} {x0 : Nat} {x1 : Nat} {s : State} (h : Kept z s) :
    Kept z (takeCompletion x0 x1 s) := by
  unfold takeCompletion
  try dsimp only
  repeat' (first
    | with_reducible assumption | with_reducible apply kept_passCycle | with_reducible apply kept_registerDone
    | with_reducible apply kept_settleReplay | with_reducible apply kept_goOn | simp only [kept_mk] | split)

theorem kept_execStepCompletion {z : State} {x0 : Nat} {x1 : Nat} {s : State} (h : Kept z s) :
    KeptNext z (execStepCompletion x0 x1 s) := by
  unfold execStepCompletion
  try dsimp only
  repeat' (first
    | with_reducible assumption | with_reducible apply keptNext_next | with_reducible apply kept_takeCompletion
    | simp only [kept_mk] | split)

theorem kept_stopForSwitch {z : State} {s : State} (h : Kept z s) :
    Kept z (stopForSwitch s) := by
  unfold stopForSwitch
  try dsimp only
  repeat' (first
    | with_reducible assumption | with_reducible apply kept_setTags | with_reducible apply kept_becomeStopped
    | simp only [kept_mk])

theorem kept_applySwitch {z : State} {x0 : Bool} {s : State} (h : Kept z s) :
    Kept z (applySwitch x0 s) := by
  unfold applySwitch
  try dsimp only
  repeat' (first
    | with_reducible assumption | with_reducible apply kept_stopForSwitch | with_reducible apply kept_setSlot
    | with_reducible apply kept_beginStart | with_reducible apply kept_raise | simp only [kept_mk] | split)

theorem kept_dropShip {z : State} {s : State} (h : Kept z s) :
    Kept z (dropShip s) := by
  unfold dropShip
  try dsimp only
  repeat' (first
    | with_reducible assumption | simp only [kept_mk])

theorem kept_shipFails {z : State} {s : State} (h : Kept z s) :
    Kept z (shipFails s) := by
  unfold shipFails
  try dsimp only
  repeat' (first
    | with_reducible assumption | with_reducible apply kept_raise | with_reducible apply kept_dropShip
    | simp only [kept_mk])

theorem kept_advanceShip {z : State} {s : State} (h : Kept z s) :
    Kept z (advanceShip s) := by
  unfold advanceShip
  try dsimp only
  repeat' (first
    | with_reducible assumption | with_reducible apply kept_shipFails | with_reducible apply kept_raise
    | with_reducible apply kept_eventIrq | with_reducible apply kept_readMem
    | with_reducible apply kept_hostWrite | simp only [kept_mk] | split)

theorem kept_execShipmentStart {z : State} {s : State} (h : Kept z s) :
    KeptNext z (execShipmentStart s) := by
  unfold execShipmentStart
  try dsimp only
  repeat' (first
    | with_reducible assumption | with_reducible apply keptNext_next | with_reducible apply kept_shipFails
    | with_reducible apply kept_readMem | with_reducible apply kept_advanceShip
    | with_reducible apply kept_hostWrite | simp only [kept_mk] | split)

end Sys2Proof.Machine
end

