-- ==== Sys2Proof/Laws/KeptCrossing.lean ====
section
/-! SUPPORT. `Kept` of each operation and command of Machine/Crossing.lean. -/

set_option maxRecDepth 8000

namespace Sys2Proof.Machine

theorem kept_armPeriod {z : State} {x0 : Nat} {x1 : Nat} {s : State} (h : Kept z s) :
    Kept z (armPeriod x0 x1 s) := by
  unfold armPeriod
  try dsimp only
  repeat' (first
    | with_reducible assumption | simp only [kept_mk] | split)

theorem kept_execPeriodApply {z : State} {s : State} (h : Kept z s) :
    KeptNext z (execPeriodApply s) := by
  unfold execPeriodApply
  try dsimp only
  repeat' (first
    | with_reducible assumption | with_reducible apply keptNext_next | with_reducible apply kept_armPeriod)

theorem kept_execXngPeriod {z : State} {x0 : Nat} {s : State} (h : Kept z s) :
    KeptNext z (execXngPeriod x0 s) := by
  unfold execXngPeriod
  try dsimp only
  repeat' (first
    | with_reducible assumption | with_reducible apply keptNext_next
    | with_reducible refine kept_mbCommand (fun _ _ _ => ?_) ?_ | with_reducible apply kept_finish
    | with_reducible apply kept_armPeriod | simp only [kept_mk] | split)

theorem kept_execPeriodChanged {z : State} {s : State} (h : Kept z s) :
    KeptNext z (execPeriodChanged s) := by
  unfold execPeriodChanged
  try dsimp only
  repeat' (first
    | with_reducible assumption | with_reducible apply keptNext_next | with_reducible apply kept_raise
    | simp only [kept_mk] | split)

theorem kept_execRingEn {z : State} {x0 : Bool} {s : State} (h : Kept z s) :
    KeptNext z (execRingEn x0 s) := by
  unfold execRingEn
  try dsimp only
  repeat' (first
    | with_reducible assumption | with_reducible apply keptNext_next | simp only [kept_mk] | split)

theorem kept_setWindow {z : State} {x0 : Nat} {s : State} (h : Kept z s) :
    Kept z (setWindow x0 s).1 := by
  unfold setWindow
  try dsimp only
  repeat' (first
    | with_reducible assumption | simp only [kept_mk] | split)

theorem kept_execWindowWrite {z : State} {x0 : BitVec 26} {s : State} (h : Kept z s) :
    KeptNext z (execWindowWrite x0 s) := by
  unfold execWindowWrite
  try dsimp only
  repeat' (first
    | with_reducible assumption | with_reducible apply keptNext_next | with_reducible apply kept_setWindow
    | simp only [kept_mk] | split)

theorem kept_sendCross {z : State} {x0 : List Byte} {s : State} (h : Kept z s) :
    Kept z (sendCross x0 s) := by
  unfold sendCross
  try dsimp only
  repeat' (first
    | with_reducible assumption | with_reducible apply kept_sendTxn | simp only [kept_mk] | split)

theorem kept_emitDecision {z : State} {x0 : Decision} {s : State} (h : Kept z s) :
    Kept z (emitDecision x0 s) := by
  unfold emitDecision
  try dsimp only
  repeat' (first
    | with_reducible assumption | with_reducible apply kept_sendCross)

theorem kept_emitProbe {z : State} {x0 : Bool} {x1 : Nat} {x2 : Nat} {s : State} (h : Kept z s) :
    Kept z (emitProbe x0 x1 x2 s) := by
  unfold emitProbe
  try dsimp only
  repeat' (first
    | with_reducible assumption | with_reducible apply kept_sendCross)

theorem kept_becomeSolo {z : State} {s : State} (h : Kept z s) :
    Kept z (becomeSolo s) := by
  unfold becomeSolo
  try dsimp only
  repeat' (first
    | with_reducible assumption | simp only [kept_mk])

theorem kept_groupFaultWith {z : State} {x0 : Nat} {s : State} (h : Kept z s) :
    Kept z (groupFaultWith x0 s) := by
  unfold groupFaultWith
  try dsimp only
  repeat' (first
    | with_reducible assumption | with_reducible apply kept_raise | with_reducible apply kept_enterStopping
    | with_reducible apply kept_becomeSolo | with_reducible apply kept_eventIrq | simp only [kept_mk])

theorem kept_sendDecision {z : State} {x0 : Decision} {s : State} (h : Kept z s) :
    Kept z (sendDecision x0 s) := by
  unfold sendDecision
  try dsimp only
  repeat' (first
    | with_reducible assumption | with_reducible apply kept_emitDecision | simp only [kept_mk])

theorem kept_decideIfAll {z : State} {s : State} (h : Kept z s) :
    Kept z (decideIfAll s) := by
  unfold decideIfAll
  try dsimp only
  repeat' (first
    | with_reducible assumption | with_reducible apply kept_sendDecision | simp only [kept_mk] | split)

theorem kept_execCutoff {z : State} {s : State} (h : Kept z s) :
    KeptNext z (execCutoff s) := by
  unfold execCutoff
  try dsimp only
  repeat' (first
    | with_reducible assumption | with_reducible apply keptNext_next | with_reducible apply kept_passCycle
    | with_reducible apply kept_decideIfAll | with_reducible apply kept_sendCross | simp only [kept_mk] | split)

theorem kept_execVoteSum {z : State} {x0 : Nat} {x1 : Nat} {x2 : Bool} {x3 : BitVec 1024} {s : State} (h :
    Kept z s) :
    KeptNext z (execVoteSum x0 x1 x2 x3 s) := by
  unfold execVoteSum
  try dsimp only
  repeat' (first
    | with_reducible assumption | with_reducible apply keptNext_next | with_reducible apply kept_decideIfAll
    | simp only [kept_mk] | split)

theorem kept_countMissing {z : State} {s : State} (h : Kept z s) :
    Kept z (countMissing s) := by
  unfold countMissing
  try dsimp only
  repeat' (first
    | with_reducible assumption | with_reducible apply kept_raise | simp only [kept_mk] | split
    | with_reducible refine kept_fst (by assumption) ?_ | with_reducible refine kept_foldl ?_ (fun _ _ _ => ?_))

theorem kept_execVoteDeadline {z : State} {s : State} (h : Kept z s) :
    KeptNext z (execVoteDeadline s) := by
  unfold execVoteDeadline
  try dsimp only
  repeat' (first
    | with_reducible assumption | with_reducible apply keptNext_next | with_reducible apply kept_passCycle
    | with_reducible apply kept_emitDecision | with_reducible apply kept_countMissing
    | with_reducible apply kept_sendDecision | simp only [kept_mk] | split)

theorem kept_execGroupFault {z : State} {s : State} (h : Kept z s) :
    KeptNext z (execGroupFault s) := by
  unfold execGroupFault
  try dsimp only
  repeat' (first
    | with_reducible assumption | with_reducible apply keptNext_next | with_reducible apply kept_sendDecision
    | simp only [kept_mk] | split)

theorem kept_execDecision {z : State} {x0 : Decision} {s : State} (h : Kept z s) :
    KeptNext z (execDecision x0 s) := by
  unfold execDecision
  try dsimp only
  repeat' (first
    | with_reducible assumption | with_reducible apply keptNext_next | simp only [kept_mk] | split)

theorem kept_execLeadLost {z : State} {s : State} (h : Kept z s) :
    KeptNext z (execLeadLost s) := by
  unfold execLeadLost
  try dsimp only
  repeat' (first
    | with_reducible assumption | with_reducible apply keptNext_next | with_reducible apply kept_groupFaultWith
    | with_reducible apply kept_raise | simp only [kept_mk] | split)

theorem kept_execOverrun {z : State} {s : State} (h : Kept z s) :
    KeptNext z (execOverrun s) := by
  unfold execOverrun
  try dsimp only
  repeat' (first
    | with_reducible assumption | with_reducible apply keptNext_next | with_reducible apply kept_raise
    | with_reducible apply kept_eventIrq | with_reducible apply kept_enterStopping | simp only [kept_mk] | split)

theorem kept_execCrossingMarker {z : State} {x0 : List Byte} {s : State} (h : Kept z s) :
    KeptNext z (execCrossingMarker x0 s) := by
  unfold execCrossingMarker
  try dsimp only
  repeat' (first
    | with_reducible assumption | with_reducible apply keptNext_next | simp only [kept_mk] | split)

theorem kept_execHoldover {z : State} {s : State} (h : Kept z s) :
    KeptNext z (execHoldover s) := by
  unfold execHoldover
  try dsimp only
  repeat' (first
    | with_reducible assumption | with_reducible apply keptNext_next | with_reducible apply kept_raise
    | simp only [kept_mk] | split)

theorem kept_execAlignLost {z : State} {s : State} (h : Kept z s) :
    KeptNext z (execAlignLost s) := by
  unfold execAlignLost
  try dsimp only
  repeat' (first
    | with_reducible assumption | with_reducible apply keptNext_next | with_reducible apply kept_raise
    | simp only [kept_mk] | split)

theorem kept_abandonForm {z : State} {s : State} (h : Kept z s) :
    Kept z (abandonForm s) := by
  unfold abandonForm
  try dsimp only
  repeat' (first
    | with_reducible assumption | with_reducible apply kept_becomeSolo | simp only [kept_mk] | split)

theorem kept_takeRtt {z : State} {s : State} (h : Kept z s) :
    Kept z (takeRtt s) := by
  unfold takeRtt
  try dsimp only
  repeat' (first
    | with_reducible assumption | simp only [kept_mk])

theorem kept_nameFormation {z : State} {x0 : Nat} {s : State} (h : Kept z s) :
    Kept z (nameFormation x0 s) := by
  unfold nameFormation
  try dsimp only
  repeat' (first
    | with_reducible assumption | with_reducible apply kept_takeRtt | with_reducible apply kept_emitDecision
    | with_reducible apply kept_finish | with_reducible apply kept_abandonForm | simp only [kept_mk] | split)

theorem kept_remeasure {z : State} {s : State} (h : Kept z s) :
    Kept z (remeasure s) := by
  unfold remeasure
  try dsimp only
  repeat' (first
    | with_reducible assumption | with_reducible apply kept_emitProbe | simp only [kept_mk] | split
    | with_reducible refine kept_fst (by assumption) ?_ | with_reducible refine kept_foldl ?_ (fun _ _ _ => ?_))

theorem kept_nameJoin {z : State} {x0 : Nat} {x1 : Nat} {x2 : Nat} {s : State} (h : Kept z s) :
    Kept z (nameJoin x0 x1 x2 s) := by
  unfold nameJoin
  try dsimp only
  repeat' (first
    | with_reducible assumption | with_reducible apply kept_finish | with_reducible apply kept_takeRtt
    | with_reducible apply kept_complete | simp only [kept_mk] | split)

theorem kept_settleMeasure {z : State} {s : State} (h : Kept z s) :
    Kept z (settleMeasure s) := by
  unfold settleMeasure
  try dsimp only
  repeat' (first
    | with_reducible assumption | with_reducible apply kept_nameJoin | with_reducible apply kept_takeRtt
    | simp only [kept_mk] | split | with_reducible refine kept_fst (by assumption) ?_
    | with_reducible refine kept_foldl ?_ (fun _ _ _ => ?_))

theorem kept_execProbe {z : State} {x0 : Bool} {x1 : Nat} {x2 : Nat} {x3 : Nat} {x4 : Nat} {x5 : Nat} {s :
    State} (h : Kept z s) :
    KeptNext z (execProbe x0 x1 x2 x3 x4 x5 s) := by
  unfold execProbe
  try dsimp only
  repeat' (first
    | with_reducible assumption | with_reducible apply keptNext_next | with_reducible apply kept_emitProbe
    | with_reducible apply kept_nameFormation | with_reducible apply kept_settleMeasure | simp only [kept_mk]
    | split)

theorem kept_execGroupFormed {z : State} {s : State} (h : Kept z s) :
    KeptNext z (execGroupFormed s) := by
  unfold execGroupFormed
  try dsimp only
  repeat' (first
    | with_reducible assumption | with_reducible apply keptNext_next | with_reducible apply kept_complete
    | simp only [kept_mk] | split | with_reducible refine kept_fst (by assumption) ?_
    | with_reducible refine kept_foldl ?_ (fun _ _ _ => ?_))

theorem kept_execMemberJoined {z : State} {x0 : Nat} {s : State} (h : Kept z s) :
    KeptNext z (execMemberJoined x0 s) := by
  unfold execMemberJoined
  try dsimp only
  repeat' (first
    | with_reducible assumption | with_reducible apply keptNext_next | with_reducible apply kept_raise
    | with_reducible apply kept_complete | simp only [kept_mk] | split
    | with_reducible refine kept_fst (by assumption) ?_ | with_reducible refine kept_foldl ?_ (fun _ _ _ => ?_))

theorem kept_execMemberLeft {z : State} {x0 : Nat} {s : State} (h : Kept z s) :
    KeptNext z (execMemberLeft x0 s) := by
  unfold execMemberLeft
  try dsimp only
  repeat' (first
    | with_reducible assumption | with_reducible apply keptNext_next | with_reducible apply kept_raise
    | with_reducible apply kept_complete | with_reducible apply kept_becomeSolo
    | with_reducible apply kept_remeasure | simp only [kept_mk] | split
    | with_reducible refine kept_fst (by assumption) ?_ | with_reducible refine kept_foldl ?_ (fun _ _ _ => ?_))

theorem kept_execDissolve {z : State} {x0 : Nat} {s : State} (h : Kept z s) :
    KeptNext z (execDissolve x0 s) := by
  unfold execDissolve
  try dsimp only
  repeat' (first
    | with_reducible assumption | with_reducible apply keptNext_next | with_reducible apply kept_becomeSolo
    | with_reducible apply kept_groupFaultWith | with_reducible apply kept_complete | simp only [kept_mk]
    | split | with_reducible refine kept_fst (by assumption) ?_
    | with_reducible refine kept_foldl ?_ (fun _ _ _ => ?_))

theorem kept_leaveNamed {z : State} {x0 : Nat} {x1 : Nat} {s : State} (h : Kept z s) :
    Kept z (leaveNamed x0 x1 s) := by
  unfold leaveNamed
  try dsimp only
  repeat' (first
    | with_reducible assumption | simp only [kept_mk] | split)

theorem kept_execLeaveRequestReceived {z : State} {x0 : Nat} {x1 : Nat} {s : State} (h : Kept z s) :
    KeptNext z (execLeaveRequestReceived x0 x1 s) := by
  unfold execLeaveRequestReceived
  try dsimp only
  repeat' (first
    | with_reducible assumption | with_reducible apply keptNext_next | with_reducible apply kept_leaveNamed
    | simp only [kept_mk] | split)

theorem kept_takeGroup {z : State} {x0 : Nat} {x1 : Nat} {x2 : Nat} {s : State} (h : Kept z s) :
    Kept z (takeGroup x0 x1 x2 s) := by
  unfold takeGroup
  try dsimp only
  repeat' (first
    | with_reducible assumption | simp only [kept_mk])

theorem kept_execGroupForm {z : State} {x0 : Nat} {s : State} (h : Kept z s) :
    KeptNext z (execGroupForm x0 s) := by
  unfold execGroupForm
  try dsimp only
  repeat' (first
    | with_reducible assumption | with_reducible apply keptNext_next
    | with_reducible refine kept_mbCommand (fun _ _ _ => ?_) ?_ | with_reducible apply kept_finish
    | with_reducible apply kept_await | with_reducible apply kept_takeGroup
    | with_reducible apply kept_emitProbe | simp only [kept_mk] | split
    | with_reducible refine kept_fst (by assumption) ?_ | with_reducible refine kept_foldl ?_ (fun _ _ _ => ?_))

theorem kept_execGroupJoin {z : State} {x0 : Nat} {s : State} (h : Kept z s) :
    KeptNext z (execGroupJoin x0 s) := by
  unfold execGroupJoin
  try dsimp only
  repeat' (first
    | with_reducible assumption | with_reducible apply keptNext_next
    | with_reducible refine kept_mbCommand (fun _ _ _ => ?_) ?_ | with_reducible apply kept_finish
    | with_reducible apply kept_takeGroup | with_reducible apply kept_draw | with_reducible apply kept_await
    | simp only [kept_mk] | split)

theorem kept_execGroupAdmit {z : State} {x0 : Nat} {s : State} (h : Kept z s) :
    KeptNext z (execGroupAdmit x0 s) := by
  unfold execGroupAdmit
  try dsimp only
  repeat' (first
    | with_reducible assumption | with_reducible apply keptNext_next
    | with_reducible refine kept_mbCommand (fun _ _ _ => ?_) ?_ | with_reducible apply kept_finish
    | with_reducible apply kept_remeasure | with_reducible apply kept_await | simp only [kept_mk] | split)

theorem kept_execGroupLeave {z : State} {x0 : Nat} {s : State} (h : Kept z s) :
    KeptNext z (execGroupLeave x0 s) := by
  unfold execGroupLeave
  try dsimp only
  repeat' (first
    | with_reducible assumption | with_reducible apply keptNext_next
    | with_reducible refine kept_mbCommand (fun _ _ _ => ?_) ?_ | with_reducible apply kept_finish
    | with_reducible apply kept_await | with_reducible apply kept_emitDecision | simp only [kept_mk] | split)

theorem kept_execGroupWindow {z : State} {x0 : Nat} {s : State} (h : Kept z s) :
    KeptNext z (execGroupWindow x0 s) := by
  unfold execGroupWindow
  try dsimp only
  repeat' (first
    | with_reducible assumption | with_reducible apply keptNext_next
    | with_reducible refine kept_mbCommand (fun _ _ _ => ?_) ?_ | with_reducible apply kept_finish
    | with_reducible apply kept_setWindow | simp only [kept_mk] | split)

end Sys2Proof.Machine
end

