-- ==== Sys2Proof/Laws/KeptTick.lean ====
section
/-! SUPPORT. `Kept` of each operation and command of Machine/Tick.lean. -/

set_option maxRecDepth 8000

namespace Sys2Proof.Machine

theorem kept_applyDecision {z : State} {x0 : Decision} {s : State} (h : Kept z s) :
    Kept z (applyDecision x0 s).1 := by
  unfold applyDecision
  try dsimp only
  repeat' (first
    | with_reducible assumption | with_reducible apply kept_groupFaultWith
    | with_reducible apply kept_enterStopping | simp only [kept_mk] | split)

theorem kept_missDecision {z : State} {s : State} (h : Kept z s) :
    Kept z (missDecision s) := by
  unfold missDecision
  try dsimp only
  repeat' (first
    | with_reducible assumption | with_reducible apply kept_raise | simp only [kept_mk])

theorem kept_tickVerdict {z : State} {s : State} (h : Kept z s) :
    Kept z (tickVerdict s).1 := by
  unfold tickVerdict
  try dsimp only
  repeat' (first
    | with_reducible assumption | with_reducible apply kept_applyDecision
    | with_reducible apply kept_missDecision | simp only [kept_mk] | split)

theorem kept_closeRecord {z : State} {x0 : Verdict} {x1 : Closing} {s : State} (h : Kept z s) :
    Kept z (closeRecord x0 x1 s) := by
  unfold closeRecord
  try dsimp only
  repeat' (first
    | with_reducible assumption | with_reducible apply kept_writeMem | simp only [kept_mk] | split)

theorem kept_switchFails {z : State} {s : State} (h : Kept z s) :
    Kept z (switchFails s) := by
  unfold switchFails
  try dsimp only
  repeat' (first
    | with_reducible assumption | with_reducible apply kept_raise | with_reducible apply kept_timetableEnds)

theorem kept_openNext {z : State} {x0 : Nat} {s : State} (h : Kept z s) :
    Kept z (openNext x0 s) := by
  unfold openNext
  try dsimp only
  repeat' (first
    | with_reducible assumption | with_reducible apply kept_releaseShips | with_reducible apply kept_applySwitch
    | with_reducible apply kept_switchFails | with_reducible apply kept_timetableEnds
    | with_reducible apply kept_beginIndex | simp only [kept_mk] | split)

theorem kept_advanceTick {z : State} {x0 : Nat} {s : State} (h : Kept z s) :
    Kept z (advanceTick x0 s) := by
  unfold advanceTick
  try dsimp only
  repeat' (first
    | with_reducible assumption | with_reducible apply kept_applySwitch | with_reducible apply kept_closeIndex
    | with_reducible apply kept_commitAnchor | with_reducible apply kept_switchFails
    | with_reducible apply kept_openNext | simp only [kept_mk] | split)

theorem kept_takeFrom {z : State} {x0 : List MarginScan} {s : State} (h : Kept z s) :
    Kept z (takeFrom x0 s) := by
  induction x0 generalizing s with
  | nil =>
    unfold takeFrom
    try dsimp only
    repeat' (first
      | with_reducible assumption | with_reducible apply kept_finish | simp only [kept_mk])
  | cons x r ih =>
    unfold takeFrom
    try dsimp only
    repeat' (first
      | with_reducible assumption | with_reducible apply ih | with_reducible apply kept_finish
      | simp only [kept_mk] | split)

theorem kept_takeScan {z : State} {s : State} (h : Kept z s) :
    Kept z (takeScan s) := by
  unfold takeScan
  try dsimp only
  repeat' (first
    | with_reducible assumption | with_reducible apply kept_takeFrom | simp only [kept_mk] | split)

theorem kept_startMaint {z : State} {s : State} (h : Kept z s) :
    Kept z (startMaint s) := by
  unfold startMaint
  try dsimp only
  repeat' (first
    | with_reducible assumption | with_reducible apply kept_takeScan | with_reducible apply kept_setChan
    | simp only [kept_mk] | split | with_reducible refine kept_fst (by assumption) ?_
    | with_reducible refine kept_foldl ?_ (fun _ _ _ => ?_))

theorem kept_clockTick {z : State} {x0 : Nat} {x1 : Nat} {s : State} (h : Kept z s) :
    Kept z (clockTick x0 x1 s) := by
  unfold clockTick
  try dsimp only
  repeat' (first
    | with_reducible assumption | simp only [kept_mk])

theorem kept_openCrossingKind {z : State} {x0 : Bool} {s : State} (h : Kept z s) :
    Kept z (openCrossingKind x0 s) := by
  unfold openCrossingKind
  try dsimp only
  repeat' (first
    | with_reducible assumption | with_reducible apply kept_startMaint | simp only [kept_mk] | split)

theorem kept_heldVerdict {z : State} {s : State} (h : Kept z s) :
    Kept z (heldVerdict s).1 := by
  unfold heldVerdict
  try dsimp only
  repeat' (first
    | with_reducible assumption | with_reducible apply kept_tickVerdict | simp only [kept_mk])

theorem kept_hitVerdict {z : State} {s : State} (h : Kept z s) :
    Kept z (hitVerdict s).1 := by
  unfold hitVerdict
  try dsimp only
  repeat' (first
    | with_reducible assumption | with_reducible apply kept_heldVerdict | simp only [kept_mk] | split)

theorem kept_unitTick {z : State} {s : State} (h : Kept z s) :
    Kept z (unitTick s).1 := by
  unfold unitTick
  try dsimp only
  repeat' (first
    | with_reducible assumption | with_reducible apply kept_replaceFaulted
    | with_reducible apply kept_enterStopping | with_reducible apply kept_hitVerdict
    | with_reducible apply kept_tickVerdict | with_reducible apply kept_startReplay | simp only [kept_mk]
    | split)

theorem kept_openTick {z : State} {x0 : Nat} {x1 : Verdict} {s : State} (h : Kept z s) :
    Kept z (openTick x0 x1 s) := by
  unfold openTick
  try dsimp only
  repeat' (first
    | with_reducible assumption | with_reducible apply kept_advanceTick | with_reducible apply kept_openStart
    | with_reducible apply kept_applySwitch | simp only [kept_mk] | split)

theorem kept_settleTick {z : State} {s : State} (h : Kept z s) :
    Kept z (settleTick s) := by
  unfold settleTick
  try dsimp only
  repeat' (first
    | with_reducible assumption | with_reducible apply kept_settleMode
    | with_reducible apply kept_settleContexts | with_reducible apply kept_advanceRegion
    | with_reducible apply kept_placeFree | with_reducible apply kept_serveFaults
    | with_reducible apply kept_unparkAll)

theorem kept_takeAhead {z : State} {s : State} (h : Kept z s) :
    Kept z (takeAhead s) := by
  unfold takeAhead
  try dsimp only
  repeat' (first
    | with_reducible assumption | with_reducible apply kept_takeCompletion | simp only [kept_mk] | split
    | with_reducible refine kept_fst (by assumption) ?_ | with_reducible refine kept_foldl ?_ (fun _ _ _ => ?_))

theorem kept_execTick {z : State} {s : State} (h : Kept z s) :
    KeptNext z (execTick s) := by
  unfold execTick
  try dsimp only
  repeat' (first
    | with_reducible assumption | with_reducible apply keptNext_next | with_reducible apply kept_passCycle
    | with_reducible apply kept_unitTick | with_reducible apply kept_closeRecord
    | with_reducible apply kept_openTick | with_reducible apply kept_clockTick
    | with_reducible apply kept_openCrossingKind | with_reducible apply kept_settleTick
    | with_reducible apply kept_takeAhead | simp only [kept_mk] | split)

end Sys2Proof.Machine
end

