-- ==== Sys2Proof/Laws/KeptTtCommands.lean ====
section
/-! SUPPORT. `Kept` of each operation and command of Machine/TtCommands.lean. -/

set_option maxRecDepth 8000

namespace Sys2Proof.Machine

theorem kept_rejectLoad {z : State} {x0 : Bool} {x1 : Nat} {x2 : Nat} {s : State} (h : Kept z s) :
    Kept z (rejectLoad x0 x1 x2 s) := by
  unfold rejectLoad
  try dsimp only
  repeat' (first
    | with_reducible assumption | with_reducible apply kept_setSlot | with_reducible apply kept_raise
    | simp only [kept_mk])

theorem kept_admitLoad {z : State} {x0 : Bool} {x1 : Nat} {x2 : Nat} {x3 : Nat} {x4 : List Nat} {x5 : Image}
    {s : State} (h : Kept z s) :
    Kept z (admitLoad x0 x1 x2 x3 x4 x5 s) := by
  unfold admitLoad
  try dsimp only
  repeat' (first
    | with_reducible assumption | with_reducible apply kept_setSlot | with_reducible apply kept_raise
    | simp only [kept_mk] | split)

theorem kept_execTtLoad {z : State} {x0 : Nat} {s : State} (h : Kept z s) :
    KeptNext z (execTtLoad x0 s) := by
  unfold execTtLoad
  try dsimp only
  repeat' (first
    | with_reducible assumption | with_reducible apply keptNext_next
    | with_reducible refine kept_mbCommand (fun _ _ _ => ?_) ?_ | with_reducible apply kept_finish
    | with_reducible apply kept_admitImage | with_reducible apply kept_complete
    | with_reducible apply kept_rejectLoad | with_reducible apply kept_admitLoad | simp only [kept_mk] | split
    | with_reducible refine kept_fst (by assumption) ?_)

theorem kept_execTtStart {z : State} {x0 : Nat} {x1 : Bool} {s : State} (h : Kept z s) :
    KeptNext z (execTtStart x0 x1 s) := by
  unfold execTtStart
  try dsimp only
  repeat' (first
    | with_reducible assumption | with_reducible apply keptNext_next
    | with_reducible refine kept_mbCommand (fun _ _ _ => ?_) ?_ | with_reducible apply kept_finish
    | with_reducible apply kept_raise | with_reducible apply kept_await | with_reducible apply kept_beginStart
    | with_reducible apply kept_setSlot | simp only [kept_mk] | split)

theorem kept_execTtSwitch {z : State} {x0 : Nat} {s : State} (h : Kept z s) :
    KeptNext z (execTtSwitch x0 s) := by
  unfold execTtSwitch
  try dsimp only
  repeat' (first
    | with_reducible assumption | with_reducible apply keptNext_next
    | with_reducible refine kept_mbCommand (fun _ _ _ => ?_) ?_ | with_reducible apply kept_finish
    | simp only [kept_mk] | split)

theorem kept_postCursor {z : State} {x0 : Nat} {x1 : List Byte} {s : State} (h : Kept z s) :
    Kept z (postCursor x0 x1 s).1 := by
  unfold postCursor
  try dsimp only
  repeat' (first
    | with_reducible assumption | with_reducible apply kept_setSlot | simp only [kept_mk] | split)

theorem kept_execTtuCursorPost {z : State} {x0 : BitVec 40} {s : State} (h : Kept z s) :
    KeptNext z (execTtuCursorPost x0 s) := by
  unfold execTtuCursorPost
  try dsimp only
  repeat' (first
    | with_reducible assumption | with_reducible apply keptNext_next | with_reducible apply kept_postCursor)

theorem kept_execTtCursor {z : State} {x0 : Nat} {s : State} (h : Kept z s) :
    KeptNext z (execTtCursor x0 s) := by
  unfold execTtCursor
  try dsimp only
  repeat' (first
    | with_reducible assumption | with_reducible apply keptNext_next
    | with_reducible refine kept_mbCommand (fun _ _ _ => ?_) ?_ | with_reducible apply kept_postCursor
    | with_reducible apply kept_complete)

theorem kept_execTtShipTarget {z : State} {x0 : Nat} {s : State} (h : Kept z s) :
    KeptNext z (execTtShipTarget x0 s) := by
  unfold execTtShipTarget
  try dsimp only
  repeat' (first
    | with_reducible assumption | with_reducible apply keptNext_next
    | with_reducible refine kept_mbCommand (fun _ _ _ => ?_) ?_ | with_reducible apply kept_finish
    | simp only [kept_mk] | split)

end Sys2Proof.Machine
end

