-- ==== Sys2Proof/Laws/KeptFerry.lean ====
section
/-! SUPPORT. `Kept` of each operation and command of Machine/Ferry.lean. -/

set_option maxRecDepth 8000

namespace Sys2Proof.Machine

theorem kept_rowsOut {z : State} {x0 : HostUse} {x1 : Nat} {x2 : List Byte} {s : State} (h : Kept z s) :
    Kept z (rowsOut x0 x1 x2 s).1 := by
  unfold rowsOut
  try dsimp only
  repeat' (first
    | with_reducible assumption | with_reducible apply kept_readRun | simp only [kept_mk] | split
    | with_reducible refine kept_fst (by assumption) ?_ | with_reducible refine kept_foldl ?_ (fun _ _ _ => ?_)
    | with_reducible refine kept_foldl_fst ?_ (fun _ _ _ _ => ?_))

theorem kept_moveAll {z : State} {x0 : HostUse} {x1 : Nat} {x2 : Nat} {x3 : List Byte} {s : State} (h : Kept z
    s) :
    Kept z (moveAll x0 x1 x2 x3 s).1 := by
  unfold moveAll
  try dsimp only
  repeat' (first
    | with_reducible assumption | with_reducible apply kept_rowsOut | with_reducible apply kept_poisonRun
    | with_reducible apply kept_writeRun | with_reducible apply kept_setBuf | simp only [kept_mk] | split
    | with_reducible refine kept_fst (by assumption) ?_ | with_reducible refine kept_foldl ?_ (fun _ _ _ => ?_))

theorem kept_finishFerry {z : State} {x0 : Nat} {x1 : Nat} {x2 : Nat} {x3 : Nat} {x4 : Nat} {x5 : Bool} {s :
    State} (h : Kept z s) :
    Kept z (finishFerry x0 x1 x2 x3 x4 x5 s) := by
  unfold finishFerry
  try dsimp only
  repeat' (first
    | with_reducible assumption | with_reducible apply kept_checkedAgain | with_reducible apply kept_setFryQ)

theorem kept_startFerry {z : State} {x0 : Nat} {x1 : Nat} {x2 : Nat} {x3 : List Byte} {s : State} (h : Kept z
    s) :
    Kept z (startFerry x0 x1 x2 x3 s) := by
  unfold startFerry
  try dsimp only
  repeat' (first
    | with_reducible assumption | with_reducible apply kept_finishFerry | with_reducible apply kept_checkedAgain
    | with_reducible apply kept_setFryQ | with_reducible apply kept_fetchRun
    | with_reducible apply kept_refusePage | with_reducible apply kept_workFault | simp only [kept_mk] | split
    | with_reducible refine kept_fst (by assumption) ?_ | with_reducible refine kept_foldl ?_ (fun _ _ _ => ?_))

theorem kept_completeFerry {z : State} {x0 : Nat} {x1 : Nat} {x2 : Nat} {x3 : List Byte} {x4 : Bool} {s :
    State} (h : Kept z s) :
    Kept z (completeFerry x0 x1 x2 x3 x4 s) := by
  unfold completeFerry
  try dsimp only
  repeat' (first
    | with_reducible assumption | with_reducible apply kept_queueRecord | with_reducible apply kept_setFryQ
    | with_reducible apply kept_raise | with_reducible apply kept_emit | simp only [kept_mk] | split)

theorem kept_fryDrain {z : State} {x0 : Nat} {s : State} (h : Kept z s) :
    Kept z (fryDrain x0 s) := by
  unfold fryDrain
  try dsimp only
  repeat' (first
    | with_reducible assumption | with_reducible apply kept_abortFlag | with_reducible apply kept_completeFerry
    | with_reducible apply kept_setFryQ | simp only [kept_mk] | split
    | with_reducible refine kept_fst (by assumption) ?_ | with_reducible refine kept_foldl ?_ (fun _ _ _ => ?_))

theorem kept_execFerryDescriptor {z : State} {x0 : Nat} {x1 : Nat} {s : State} (h : Kept z s) :
    KeptNext z (execFerryDescriptor x0 x1 s) := by
  unfold execFerryDescriptor
  try dsimp only
  repeat' (first
    | with_reducible assumption | with_reducible apply keptNext_next | with_reducible apply kept_ownRead
    | with_reducible apply kept_startFerry | with_reducible apply kept_setBuf
    | with_reducible apply kept_finishFerry | with_reducible apply kept_refusePage
    | with_reducible apply kept_workFault | with_reducible apply kept_fryDrain | simp only [kept_mk] | split
    | with_reducible refine kept_fst (by assumption) ?_)

theorem kept_ferryMove {z : State} {x0 : Nat} {x1 : Nat} {x2 : Nat} {s : State} (h : Kept z s) :
    Kept z (ferryMove x0 x1 x2 s) := by
  unfold ferryMove
  try dsimp only
  repeat' (first
    | with_reducible assumption | with_reducible apply kept_moveAll | with_reducible apply kept_finishFerry
    | simp only [kept_mk] | split)

theorem kept_execCopy {z : State} {x0 : Nat} {x1 : Nat} {s : State} (h : Kept z s) :
    KeptNext z (execCopy x0 x1 s) := by
  unfold execCopy
  try dsimp only
  repeat' (first
    | with_reducible assumption | with_reducible apply keptNext_next | with_reducible apply kept_ferryMove)

theorem kept_execConvert {z : State} {x0 : Nat} {x1 : Nat} {s : State} (h : Kept z s) :
    KeptNext z (execConvert x0 x1 s) := by
  unfold execConvert
  try dsimp only
  repeat' (first
    | with_reducible assumption | with_reducible apply keptNext_next | with_reducible apply kept_ferryMove)

theorem kept_execFill {z : State} {x0 : Nat} {x1 : Nat} {s : State} (h : Kept z s) :
    KeptNext z (execFill x0 x1 s) := by
  unfold execFill
  try dsimp only
  repeat' (first
    | with_reducible assumption | with_reducible apply keptNext_next | with_reducible apply kept_ferryMove)

theorem kept_execFerryCompletion {z : State} {x0 : Nat} {s : State} (h : Kept z s) :
    KeptNext z (execFerryCompletion x0 s) := by
  unfold execFerryCompletion
  try dsimp only
  repeat' (first
    | with_reducible assumption | with_reducible apply keptNext_next | with_reducible apply kept_advanceRegion
    | with_reducible apply kept_fryDrain | with_reducible apply kept_completeFerry | simp only [kept_mk] | split)

theorem kept_execFryQtail {z : State} {x0 : Nat} {x1 : Word32} {s : State} (h : Kept z s) :
    KeptNext z (execFryQtail x0 x1 s) := by
  unfold execFryQtail
  try dsimp only
  repeat' (first
    | with_reducible assumption | with_reducible apply keptNext_next | with_reducible apply kept_setFryQ
    | simp only [kept_mk] | split)

theorem kept_execFryQcfgEnable {z : State} {x0 : Nat} {x1 : Word64} {s : State} (h : Kept z s) :
    KeptNext z (execFryQcfgEnable x0 x1 s) := by
  unfold execFryQcfgEnable
  try dsimp only
  repeat' (first
    | with_reducible assumption | with_reducible apply keptNext_next | with_reducible apply kept_setFryQ
    | simp only [kept_mk] | split)

theorem kept_execFryQcfgDisable {z : State} {x0 : Nat} {x1 : Word64} {s : State} (h : Kept z s) :
    KeptNext z (execFryQcfgDisable x0 x1 s) := by
  unfold execFryQcfgDisable
  try dsimp only
  repeat' (first
    | with_reducible assumption | with_reducible apply keptNext_next | with_reducible apply kept_fryDrain
    | with_reducible apply kept_setFryQ | simp only [kept_mk] | split)

theorem kept_groupCheckFails {z : State} {x0 : Nat} {s : State} (h : Kept z s) :
    Kept z (groupCheckFails x0 s) := by
  unfold groupCheckFails
  try dsimp only
  repeat' (first
    | with_reducible assumption | with_reducible apply kept_finish | with_reducible apply kept_timetableEnds
    | with_reducible apply kept_raise | simp only [kept_mk] | split
    | with_reducible refine kept_fst (by assumption) ?_ | with_reducible refine kept_foldl ?_ (fun _ _ _ => ?_))

theorem kept_execLockPages {z : State} {x0 : Bool} {s : State} (h : Kept z s) :
    KeptNext z (execLockPages x0 s) := by
  unfold execLockPages
  try dsimp only
  repeat' (first
    | with_reducible assumption | with_reducible apply keptNext_next | with_reducible apply kept_groupCheckFails
    | with_reducible apply kept_lockPages | with_reducible apply kept_flushPage | simp only [kept_mk] | split
    | with_reducible refine kept_fst (by assumption) ?_ | with_reducible refine kept_foldl ?_ (fun _ _ _ => ?_))

end Sys2Proof.Machine
end

