-- ==== Sys2Proof/Laws/KeptMemoryCmds.lean ====
section
/-! SUPPORT. `Kept` of each operation and command of Machine/MemoryCmds.lean. -/

set_option maxRecDepth 8000

namespace Sys2Proof.Machine

theorem kept_parityEvent {z : State} {x0 : Nat} {s : State} (h : Kept z s) :
    Kept z (parityEvent x0 s) := by
  unfold parityEvent
  try dsimp only
  repeat' (first
    | with_reducible assumption | with_reducible apply kept_raise | with_reducible apply kept_eccLast
    | with_reducible apply kept_countUe)

theorem kept_acceptWrite {z : State} {x0 : Nat} {x1 : Nat} {x2 : List Byte} {x3 : Nat} {x4 : Bool} {s : State}
    (h : Kept z s) :
    Kept z (acceptWrite x0 x1 x2 x3 x4 s) := by
  unfold acceptWrite
  try dsimp only
  repeat' (first
    | with_reducible assumption | with_reducible apply kept_unbacked | with_reducible apply kept_wcWrite
    | with_reducible apply kept_wcMakeRoom | with_reducible apply kept_parityEvent
    | with_reducible apply kept_poisonBlock | simp only [kept_mk] | split)

theorem kept_serveLine {z : State} {x0 : HeldReq} {s : State} (h : Kept z s) :
    Kept z (serveLine x0 s) := by
  unfold serveLine
  try dsimp only
  repeat' (first
    | with_reducible assumption | with_reducible apply kept_acceptWrite | with_reducible apply kept_poisonBlock
    | with_reducible apply kept_readMem | with_reducible apply kept_emit | simp only [kept_mk] | split)

theorem kept_arriveLine {z : State} {x0 : HeldReq} {s : State} (h : Kept z s) :
    Kept z (arriveLine x0 s) := by
  unfold arriveLine
  try dsimp only
  repeat' (first
    | with_reducible assumption | with_reducible apply kept_serveLine | simp only [kept_mk] | split)

theorem kept_serveNext {z : State} {x0 : State × Arrived} {x1 : HeldReq} (h : Kept z x0.1) :
    Kept z (serveNext x0 x1).1 := by
  unfold serveNext
  dsimp only
  split
  · exact kept_serveLine h
  · split
    · exact kept_emit h
    · exact kept_emit (kept_readMem h)

theorem kept_releaseTracked {z : State} {s : State} (h : Kept z s) : Kept z (releaseTracked s) := by
  unfold releaseTracked
  dsimp only
  refine kept_foldl (kept_foldl_fst ?_ fun _ _ _ g => kept_serveNext g) fun _ _ g => kept_arriveLine g
  simp only [kept_mk]
  exact h

theorem kept_serveRemote {z : State} {x0 : HeldReq} {s : State} (h : Kept z s) :
    Kept z (serveRemote x0 s) := by
  unfold serveRemote
  try dsimp only
  repeat' (first
    | with_reducible assumption | with_reducible apply kept_parityEvent | with_reducible apply kept_hostWrite
    | with_reducible apply kept_emit | with_reducible apply kept_hostLost | with_reducible apply kept_hostRead
    | with_reducible apply kept_remoteTouch | simp only [kept_mk] | split
    | with_reducible refine kept_fst (by assumption) ?_ | with_reducible refine kept_foldl ?_ (fun _ _ _ => ?_))

theorem kept_decideLine {z : State} {x0 : HeldReq} {s : State} (h : Kept z s) :
    Kept z (decideLine x0 s) := by
  unfold decideLine
  try dsimp only
  repeat' (first
    | with_reducible assumption | with_reducible apply kept_refusePage | with_reducible apply kept_arriveLine
    | with_reducible apply kept_unbacked | with_reducible apply kept_emit | with_reducible apply kept_holdLine
    | with_reducible apply kept_serveRemote | with_reducible apply kept_joinEntry | simp only [kept_mk] | split)

theorem kept_retryHeld {z : State} {s : State} (h : Kept z s) :
    Kept z (retryHeld s) := by
  unfold retryHeld
  try dsimp only
  repeat' (first
    | with_reducible assumption | with_reducible apply kept_decideLine | simp only [kept_mk] | split
    | with_reducible refine kept_fst (by assumption) ?_ | with_reducible refine kept_foldl ?_ (fun _ _ _ => ?_))

theorem kept_execLineRead {z : State} {x0 : Nat} {x1 : Nat} {x2 : Nat} {s : State} (h : Kept z s) :
    KeptNext z (execLineRead x0 x1 x2 s) := by
  unfold execLineRead
  try dsimp only
  repeat' (first
    | with_reducible assumption | with_reducible apply keptNext_next | with_reducible apply kept_decideLine
    | simp only [kept_mk] | split)

theorem kept_execLineWrite {z : State} {x0 : Nat} {x1 : Nat} {x2 : Nat} {x3 : List Byte} {x4 : BitVec 64} {x5
    : Bool} {s : State} (h : Kept z s) :
    KeptNext z (execLineWrite x0 x1 x2 x3 x4 x5 s) := by
  unfold execLineWrite
  try dsimp only
  repeat' (first
    | with_reducible assumption | with_reducible apply keptNext_next | with_reducible apply kept_decideLine
    | simp only [kept_mk] | split)

theorem kept_execWcEviction {z : State} {x0 : Nat} {x1 : Nat} {s : State} (h : Kept z s) :
    KeptNext z (execWcEviction x0 x1 s) := by
  unfold execWcEviction
  try dsimp only
  repeat' (first
    | with_reducible assumption | with_reducible apply keptNext_next | with_reducible apply kept_evictEntry
    | with_reducible apply kept_passNow | simp only [kept_mk] | split)

theorem kept_execPatrolScrub {z : State} {x0 : Nat} {s : State} (h : Kept z s) :
    KeptNext z (execPatrolScrub x0 s) := by
  unfold execPatrolScrub
  try dsimp only
  repeat' (first
    | with_reducible assumption | with_reducible apply keptNext_next | with_reducible apply kept_readBlock
    | simp only [kept_mk] | split)

theorem kept_execRefresh {z : State} {x0 : Nat} {s : State} (h : Kept z s) :
    KeptNext z (execRefresh x0 s) := by
  unfold execRefresh
  try dsimp only
  repeat' (first
    | with_reducible assumption | with_reducible apply keptNext_next)

theorem kept_endFallback {z : State} {s : State} (h : Kept z s) :
    Kept z (endFallback s) := by
  unfold endFallback
  try dsimp only
  repeat' (first
    | with_reducible assumption | with_reducible apply kept_setChan | with_reducible apply kept_raise
    | simp only [kept_mk] | split | with_reducible refine kept_fst (by assumption) ?_
    | with_reducible refine kept_foldl ?_ (fun _ _ _ => ?_))

theorem kept_execCalFallback {z : State} {x0 : Nat} {s : State} (h : Kept z s) :
    KeptNext z (execCalFallback x0 s) := by
  unfold execCalFallback
  try dsimp only
  repeat' (first
    | with_reducible assumption | with_reducible apply keptNext_next | with_reducible apply kept_passNow
    | with_reducible apply kept_setChan | with_reducible apply kept_raise | simp only [kept_mk] | split)

theorem kept_retireChan {z : State} {x0 : Nat} {s : State} (h : Kept z s) :
    Kept z (retireChan x0 s) := by
  unfold retireChan
  try dsimp only
  repeat' (first
    | with_reducible assumption | with_reducible apply kept_raise | with_reducible apply kept_setChan
    | with_reducible apply kept_failModule | simp only [kept_mk] | split)

theorem kept_execCeLimitReached {z : State} {x0 : Nat} {s : State} (h : Kept z s) :
    KeptNext z (execCeLimitReached x0 s) := by
  unfold execCeLimitReached
  try dsimp only
  repeat' (first
    | with_reducible assumption | with_reducible apply keptNext_next | with_reducible apply kept_raise
    | with_reducible apply kept_setChan | simp only [kept_mk] | split)

theorem kept_marginVerdict {z : State} {x0 : Nat} {x1 : Nat} {x2 : Nat} {x3 : Nat} {x4 : Nat} {s : State} (h :
    Kept z s) :
    Kept z (marginVerdict x0 x1 x2 x3 x4 s).1 := by
  unfold marginVerdict
  try dsimp only
  repeat' (first
    | with_reducible assumption | with_reducible apply kept_draw | simp only [kept_mk] | split)

theorem kept_spareStraitLane {z : State} {x0 : Nat} {s : State} (h : Kept z s) :
    Kept z (spareStraitLane x0 s) := by
  unfold spareStraitLane
  try dsimp only
  repeat' (first
    | with_reducible assumption | with_reducible apply kept_raise | simp only [kept_mk] | split)

theorem kept_marginLow {z : State} {x0 : MarginScan} {s : State} (h : Kept z s) :
    Kept z (marginLow x0 s) := by
  unfold marginLow
  try dsimp only
  repeat' (first
    | with_reducible assumption | with_reducible apply kept_retireChan
    | with_reducible apply kept_spareStraitLane | with_reducible apply kept_raise | simp only [kept_mk] | split)

theorem kept_nextScan {z : State} {s : State} (h : Kept z s) :
    Kept z (nextScan s) := by
  unfold nextScan
  try dsimp only
  repeat' (first
    | with_reducible assumption | with_reducible apply kept_takeScan | simp only [kept_mk] | split)

end Sys2Proof.Machine
end

