-- ==== Sys2Proof/Laws/KeptRing.lean ====
section
/-! SUPPORT. `Kept` of each operation and command of Machine/Ring.lean. -/

set_option maxRecDepth 8000

namespace Sys2Proof.Machine

theorem kept_sendR {z : State} {x0 : RMsg} {s : State} (h : Kept z s) :
    Kept z (sendR x0 s) := by
  unfold sendR
  try dsimp only
  repeat' (first
    | with_reducible assumption | simp only [kept_mk])

theorem kept_takeR {z : State} {x0 : RMsg} {s : State} (h : Kept z s) :
    Kept z (takeR x0 s) := by
  unfold takeR
  try dsimp only
  repeat' (first
    | with_reducible assumption | simp only [kept_mk])

theorem kept_setTxn {z : State} {x0 : HTxn} {s : State} (h : Kept z s) :
    Kept z (setTxn x0 s) := by
  unfold setTxn
  try dsimp only
  repeat' (first
    | with_reducible assumption | simp only [kept_mk])

theorem kept_setHart {z : State} {x0 : Nat} {x1 : Hart} {s : State} (h : Kept z s) :
    Kept z (setHart x0 x1 s) := by
  unfold setHart
  try dsimp only
  repeat' (first
    | with_reducible assumption | simp only [kept_mk])

theorem kept_hartFault {z : State} {x0 : CAccess} {x1 : Nat} {s : State} (h : Kept z s) :
    Kept z (hartFault x0 x1 s) := by
  unfold hartFault
  try dsimp only
  repeat' (first
    | with_reducible assumption | with_reducible apply kept_emit | with_reducible apply kept_setHart)

theorem kept_reserve {z : State} {x0 : CAccess} {s : State} (h : Kept z s) :
    Kept z (reserve x0 s) := by
  unfold reserve
  try dsimp only
  repeat' (first
    | with_reducible assumption | with_reducible apply kept_setHart | simp only [kept_mk] | split)

theorem kept_loadDone {z : State} {x0 : CAccess} {x1 : List Byte} {s : State} (h : Kept z s) :
    Kept z (loadDone x0 x1 s) := by
  unfold loadDone
  try dsimp only
  repeat' (first
    | with_reducible assumption | with_reducible apply kept_reserve | with_reducible apply kept_emit)

theorem kept_storeBytes {z : State} {x0 : CAccess} {x1 : List Byte} {x2 : List Byte} {s : State} (h : Kept z
    s) :
    Kept z (storeBytes x0 x1 x2 s).1 := by
  unfold storeBytes
  try dsimp only
  repeat' (first
    | with_reducible assumption | with_reducible apply kept_emit | with_reducible apply kept_setHart
    | simp only [kept_mk] | split)

theorem kept_loseReserved {z : State} {x0 : Nat} {x1 : Nat} {x2 : Nat} {s : State} (h : Kept z s) :
    Kept z (loseReserved x0 x1 x2 s) := by
  unfold loseReserved
  try dsimp only
  repeat' (first
    | with_reducible assumption | simp only [kept_mk])

theorem kept_performHit {z : State} {x0 : CAccess} {x1 : CLine} {s : State} (h : Kept z s) :
    Kept z (performHit x0 x1 s) := by
  unfold performHit
  try dsimp only
  repeat' (first
    | with_reducible assumption | with_reducible apply kept_hartFault | with_reducible apply kept_loadDone
    | with_reducible apply kept_storeBytes | with_reducible apply kept_setCline | simp only [kept_mk] | split
    | with_reducible refine kept_fst (by assumption) ?_)

theorem kept_sendReq {z : State} {x0 : RKind} {x1 : CState} {x2 : CAccess} {x3 : CLine} {s : State} (h : Kept
    z s) :
    Kept z (sendReq x0 x1 x2 x3 s) := by
  unfold sendReq
  try dsimp only
  repeat' (first
    | with_reducible assumption | with_reducible apply kept_sendR | with_reducible apply kept_setCline)

theorem kept_sendChk {z : State} {x0 : CAccess} {x1 : CLine} {s : State} (h : Kept z s) :
    Kept z (sendChk x0 x1 s) := by
  unfold sendChk
  try dsimp only
  repeat' (first
    | with_reducible assumption | with_reducible apply kept_sendR | with_reducible apply kept_setCline)

theorem kept_sendCbo {z : State} {x0 : CAccess} {x1 : CLine} {s : State} (h : Kept z s) :
    Kept z (sendCbo x0 x1 s) := by
  unfold sendCbo
  try dsimp only
  repeat' (first
    | with_reducible assumption | with_reducible apply kept_sendR | with_reducible apply kept_setCline)

theorem kept_replaceLine {z : State} {x0 : Nat} {x1 : Nat} {s : State} (h : Kept z s) :
    Kept z (replaceLine x0 x1 s) := by
  unfold replaceLine
  try dsimp only
  repeat' (first
    | with_reducible assumption | with_reducible apply kept_setCline | with_reducible apply kept_sendR
    | simp only [kept_mk] | split)

theorem kept_parkAccess {z : State} {x0 : CAccess} {x1 : CLine} {s : State} (h : Kept z s) :
    Kept z (parkAccess x0 x1 s) := by
  unfold parkAccess
  try dsimp only
  repeat' (first
    | with_reducible assumption | with_reducible apply kept_setCline | simp only [kept_mk] | split)

theorem kept_takeWay {z : State} {x0 x1 : Nat} {s t : State} (e : takeWay x0 x1 s = some t) (h : Kept z s) : Kept z t := by
  unfold takeWay at e
  dsimp only at e
  split at e
  · exact Option.some.inj e ▸ h
  · obtain ⟨_, _, rfl⟩ := Option.map_eq_some_iff.mp e
    exact kept_replaceLine (kept_drawn h)

theorem kept_askLine {z : State} {x0 : RKind} {x1 : CState} {x2 : CAccess} {x3 : CLine} {s : State} (h : Kept z s) :
    Kept z (askLine x0 x1 x2 x3 s) := by
  unfold askLine
  split
  · rename_i t e
    have k : Kept z t := by
      split at e
      · exact kept_takeWay e h
      · exact Option.some.inj e ▸ h
    split
    · exact kept_sendReq k
    · exact kept_parkAccess k
  · exact kept_parkAccess h

theorem kept_lineAccess {z : State} {x0 : CAccess} {s : State} (h : Kept z s) :
    Kept z (lineAccess x0 s) := by
  unfold lineAccess
  try dsimp only
  repeat' (first
    | with_reducible assumption | with_reducible apply kept_parkAccess | with_reducible apply kept_askLine
    | with_reducible apply kept_sendCbo | with_reducible apply kept_sendChk
    | with_reducible apply kept_performHit | simp only [kept_mk] | split)

theorem kept_performWaiting {z : State} {x0 : Nat} {x1 : Nat} {s : State} (h : Kept z s) :
    Kept z (performWaiting x0 x1 s) := by
  unfold performWaiting
  try dsimp only
  repeat' (first
    | with_reducible assumption | with_reducible apply kept_lineAccess | with_reducible apply kept_setCline
    | simp only [kept_mk] | split | with_reducible refine kept_fst (by assumption) ?_
    | with_reducible refine kept_foldl ?_ (fun _ _ _ => ?_))

theorem kept_restart {z : State} {x0 : Nat} {s : State} (h : Kept z s) :
    Kept z (restart x0 s) := by
  unfold restart
  try dsimp only
  repeat' (first
    | with_reducible assumption | with_reducible apply kept_performWaiting | simp only [kept_mk] | split
    | with_reducible refine kept_fst (by assumption) ?_ | with_reducible refine kept_foldl ?_ (fun _ _ _ => ?_))

theorem kept_dropHome {z : State} {x0 : Nat} {x1 : Nat} {s : State} (h : Kept z s) :
    Kept z (dropHome x0 x1 s) := by
  unfold dropHome
  try dsimp only
  repeat' (first
    | with_reducible assumption | with_reducible apply kept_leaveFilter | with_reducible apply kept_setCline
    | with_reducible apply kept_writeMem | with_reducible apply kept_poisonMem | simp only [kept_mk] | split)

theorem kept_takeFilter {z : State} {x0 : Nat} {s : State} (h : Kept z s) :
    Kept z (takeFilter x0 s) := by
  unfold takeFilter
  try dsimp only
  repeat' (first
    | with_reducible assumption | with_reducible apply kept_setFilter | with_reducible apply kept_dropHome
    | simp only [kept_mk] | split | with_reducible refine kept_fst (by assumption) ?_
    | with_reducible refine kept_foldl ?_ (fun _ _ _ => ?_))

theorem kept_filterPinned {z : State} {x0 : Nat} {s : State} (h : Kept z s) :
    Kept z (filterPinned x0 s) := by
  unfold filterPinned
  try dsimp only
  repeat' (first
    | with_reducible assumption | with_reducible apply kept_raise)

theorem kept_replaceHome {z : State} {x0 : Nat} {x1 : Option Nat} {s : State} (h : Kept z s) :
    Kept z (replaceHome x0 x1 s) := by
  unfold replaceHome
  try dsimp only
  repeat' (first
    | with_reducible assumption | with_reducible apply kept_dropHome | simp only [kept_mk] | split)

theorem kept_takeSliceWay {z : State} {x0 : Nat} {s t : State} (e : takeSliceWay x0 s = some t) (h : Kept z s) :
    Kept z t := by
  unfold takeSliceWay at e
  dsimp only at e
  split at e
  · exact Option.some.inj e ▸ h
  · obtain ⟨_, _, rfl⟩ := Option.map_eq_some_iff.mp e
    exact kept_dropHome (kept_drawn h)

theorem kept_allocHome {z : State} {x0 : Nat} {x1 : CState} {x2 : List Byte} {x3 : Bool} {x4 : Nat} {s : State}
    (h : Kept z s) : Kept z (allocHome x0 x1 x2 x3 x4 s).1 := by
  unfold allocHome
  split
  · split
    · rename_i e
      exact kept_setCline (kept_takeFilter (kept_takeSliceWay e h))
    · exact h
  · exact kept_filterPinned h

theorem kept_reqDenied {z : State} {x0 : RMsg} {s : State} (h : Kept z s) :
    Kept z (reqDenied x0 s).1 := by
  unfold reqDenied
  try dsimp only
  repeat' (first
    | with_reducible assumption | with_reducible apply kept_unbacked | with_reducible apply kept_refusePage
    | simp only [kept_mk] | split)

theorem kept_openReq {z : State} {x0 : RMsg} {s : State} (h : Kept z s) :
    Kept z (openReq x0 s) := by
  unfold openReq
  try dsimp only
  repeat' (first
    | with_reducible assumption | with_reducible apply kept_sendR | simp only [kept_mk] | split
    | with_reducible refine kept_fst (by assumption) ?_ | with_reducible refine kept_foldl ?_ (fun _ _ _ => ?_))

theorem kept_takeReq {z : State} {x0 : RMsg} {s : State} (h : Kept z s) :
    Kept z (takeReq x0 s).1 := by
  unfold takeReq
  try dsimp only
  repeat' (first
    | with_reducible assumption | with_reducible apply kept_filterPinned | with_reducible apply kept_sendR
    | with_reducible apply kept_reqDenied | with_reducible apply kept_openReq | simp only [kept_mk] | split
    | with_reducible refine kept_fst (by assumption) ?_)

theorem kept_queueReq {z : State} {x0 : RMsg} {s : State} (h : Kept z s) :
    Kept z (queueReq x0 s) := by
  unfold queueReq
  try dsimp only
  repeat' (first
    | with_reducible assumption | simp only [kept_mk])

theorem kept_reqArrives {z : State} {x0 : RMsg} {s : State} (h : Kept z s) :
    Kept z (reqArrives x0 s) := by
  unfold reqArrives
  try dsimp only
  repeat' (first
    | with_reducible assumption | with_reducible apply kept_queueReq | with_reducible apply kept_sendR
    | with_reducible apply kept_setTxn | with_reducible apply kept_takeReq | simp only [kept_mk] | split
    | with_reducible refine kept_fst (by assumption) ?_)

theorem kept_drainConflict {z : State} {s : State} (h : Kept z s) :
    Kept z (drainConflict s) := by
  unfold drainConflict
  try dsimp only
  repeat' (first
    | with_reducible assumption | with_reducible apply kept_filterPinned | with_reducible apply kept_takeReq
    | simp only [kept_mk] | split | with_reducible refine kept_fst (by assumption) ?_
    | with_reducible refine kept_foldl ?_ (fun _ _ _ => ?_))

theorem kept_closeTxn {z : State} {x0 : HTxn} {s : State} (h : Kept z s) :
    Kept z (closeTxn x0 s) := by
  unfold closeTxn
  try dsimp only
  repeat' (first
    | with_reducible assumption | with_reducible apply kept_advanceRegion
    | with_reducible apply kept_drainConflict | simp only [kept_mk] | split)

theorem kept_settleTxn {z : State} {x0 : Nat} {s : State} (h : Kept z s) :
    Kept z (settleTxn x0 s) := by
  unfold settleTxn
  try dsimp only
  repeat' (first
    | with_reducible assumption | with_reducible apply kept_closeTxn | simp only [kept_mk] | split)

theorem kept_supply {z : State} {x0 : Nat} {x1 : CLine} {x2 : RMsg} {x3 : SnpDst} {s : State} (h : Kept z s) :
    Kept z (supply x0 x1 x2 x3 s) := by
  unfold supply
  try dsimp only
  repeat' (first
    | with_reducible assumption | with_reducible apply kept_sendR | simp only [kept_mk] | split)

theorem kept_snoopLine {z : State} {x0 : Nat} {x1 : CLine} {x2 : RMsg} {s : State} (h : Kept z s) :
    Kept z (snoopLine x0 x1 x2 s).1 := by
  unfold snoopLine
  try dsimp only
  repeat' (first
    | with_reducible assumption | with_reducible apply kept_leaveFilter | with_reducible apply kept_setCline
    | with_reducible apply kept_supply | simp only [kept_mk] | split)

theorem kept_sendSrsp {z : State} {x0 : RMsg} {x1 : Bool} {x2 : Bool} {x3 : Bool} {x4 : CState} {s : State}
    (h : Kept z s) :
    Kept z (sendSrsp x0 x1 x2 x3 x4 s) := by
  unfold sendSrsp
  try dsimp only
  repeat' (first
    | with_reducible assumption | with_reducible apply kept_sendR)

theorem kept_dropOf {z : State} {x0 : Nat} {x1 : Nat} {x2 : Nat} {s : State} (h : Kept z s) :
    Kept z (dropOf x0 x1 x2 s) := by
  unfold dropOf
  try dsimp only
  repeat' (first
    | with_reducible assumption | simp only [kept_mk])

theorem kept_runDeferred {z : State} {x0 : Nat} {x1 : Nat} {s : State} (h : Kept z s) :
    Kept z (runDeferred x0 x1 s) := by
  unfold runDeferred
  try dsimp only
  repeat' (first
    | with_reducible assumption | with_reducible apply kept_snoopLine | with_reducible apply kept_setCline
    | with_reducible apply kept_sendSrsp | with_reducible apply kept_dropOf | simp only [kept_mk] | split)

theorem kept_poisonLine {z : State} {x0 : Nat} {s : State} (h : Kept z s) :
    Kept z (poisonLine x0 s) := by
  unfold poisonLine
  try dsimp only
  repeat' (first
    | with_reducible assumption | simp only [kept_mk])

theorem kept_endPoisoned {z : State} {x0 : RMsg} {s : State} (h : Kept z s) :
    Kept z (endPoisoned x0 s) := by
  unfold endPoisoned
  try dsimp only
  repeat' (first
    | with_reducible assumption | with_reducible apply kept_setCline | with_reducible apply kept_hartFault
    | with_reducible apply kept_runDeferred | with_reducible apply kept_performWaiting | simp only [kept_mk]
    | split)

theorem kept_snoopRest {z : State} {x0 : HTxn} {s : State} (h : Kept z s) :
    Kept z (snoopRest x0 s) := by
  unfold snoopRest
  try dsimp only
  repeat' (first
    | with_reducible assumption | with_reducible apply kept_setCline | with_reducible apply kept_snoopLine
    | simp only [kept_mk] | split | with_reducible refine kept_fst (by assumption) ?_
    | with_reducible refine kept_foldl ?_ (fun _ _ _ => ?_))

theorem kept_completePoisoned {z : State} {x0 : HTxn} {s : State} (h : Kept z s) :
    Kept z (completePoisoned x0 s) := by
  unfold completePoisoned
  try dsimp only
  repeat' (first
    | with_reducible assumption | with_reducible apply kept_snoopRest | with_reducible apply kept_endPoisoned
    | with_reducible apply kept_closeTxn | with_reducible apply kept_dropOf | simp only [kept_mk] | split)

theorem kept_sndError {z : State} {x0 : Nat} {x1 : Nat} {x2 : Nat} {x3 : RMsg} {x4 : CState} {s : State} (h :
    Kept z s) :
    Kept z (sndError x0 x1 x2 x3 x4 s) := by
  unfold sndError
  try dsimp only
  repeat' (first
    | with_reducible assumption | simp only [kept_mk])

theorem kept_poisonBacked {z : State} {x0 : Nat} {s : State} (h : Kept z s) :
    Kept z (poisonBacked x0 s) := by
  unfold poisonBacked
  try dsimp only
  repeat' (first
    | with_reducible assumption | with_reducible apply kept_poisonMem | simp only [kept_mk] | split)

theorem kept_poisonTxn {z : State} {x0 : Nat} {s : State} (h : Kept z s) :
    Kept z (poisonTxn x0 s) := by
  unfold poisonTxn
  try dsimp only
  repeat' (first
    | with_reducible assumption | with_reducible apply kept_completePoisoned | simp only [kept_mk] | split)

theorem kept_poisonReq {z : State} {x0 : RMsg} {s : State} (h : Kept z s) :
    Kept z (poisonReq x0 s) := by
  unfold poisonReq
  try dsimp only
  repeat' (first
    | with_reducible assumption | with_reducible apply kept_endPoisoned | with_reducible apply kept_dropOf
    | simp only [kept_mk] | split)

theorem kept_nmiAll {z : State} {s : State} (h : Kept z s) :
    Kept z (nmiAll s) := by
  unfold nmiAll
  try dsimp only
  repeat' (first
    | with_reducible assumption | with_reducible apply kept_emit | simp only [kept_mk])

theorem kept_protocolError {z : State} {x0 : Nat} {x1 : Nat} {x2 : Nat} {x3 : Nat} {x4 : RMsg} {x5 : CState}
    {s : State} (h : Kept z s) :
    Kept z (protocolError x0 x1 x2 x3 x4 x5 s) := by
  unfold protocolError
  try dsimp only
  repeat' (first
    | with_reducible assumption | with_reducible apply kept_sndError | with_reducible apply kept_raise
    | with_reducible apply kept_nmiAll | with_reducible apply kept_poisonReq
    | with_reducible apply kept_poisonTxn | with_reducible apply kept_poisonBacked
    | with_reducible apply kept_poisonLine)

theorem kept_stateError {z : State} {x0 : Nat} {x1 : RMsg} {x2 : CState} {s : State} (h : Kept z s) :
    Kept z (stateError x0 x1 x2 s) := by
  unfold stateError
  try dsimp only
  repeat' (first
    | with_reducible assumption | with_reducible apply kept_protocolError)

theorem kept_unmatched {z : State} {x0 : RMsg} {s : State} (h : Kept z s) :
    Kept z (unmatched x0 s) := by
  unfold unmatched
  try dsimp only
  repeat' (first
    | with_reducible assumption | with_reducible apply kept_protocolError)

theorem kept_arrive {z : State} {x0 : RMsg} {x1 : Bool} {x2 : State → State} {s : State} (h2 : ∀  s, Kept z s
    → Kept z (x2  s)) (h : Kept z s) :
    Kept z (arrive x0 x1 x2 s) := by
  unfold arrive
  try dsimp only
  repeat' (first
    | with_reducible assumption | with_reducible apply kept_takeR | with_reducible apply kept_protocolError
    | with_reducible apply h2 | simp only [kept_mk] | split)

theorem kept_sendGrant {z : State} {x0 : HTxn} {x1 : Grant} {x2 : Nat} {x3 : Option (List Byte × Bool)} {s :
    State} (h : Kept z s) :
    Kept z (sendGrant x0 x1 x2 x3 s) := by
  unfold sendGrant
  try dsimp only
  repeat' (first
    | with_reducible assumption | with_reducible apply kept_setTxn | with_reducible apply kept_sendR
    | with_reducible apply kept_settleTxn | simp only [kept_mk] | split)

theorem kept_homeSupply {z : State} {x0 : HTxn} {x1 : Grant} {x2 : Option Nat} {s : State} (h : Kept z s) :
    Kept z (homeSupply x0 x1 x2 s) := by
  unfold homeSupply
  try dsimp only
  repeat' (first
    | with_reducible assumption | with_reducible apply kept_sendGrant | with_reducible apply kept_setCline
    | with_reducible apply kept_setTxn | with_reducible apply kept_readMem | with_reducible apply kept_allocHome
    | with_reducible apply kept_replaceHome | simp only [kept_mk] | split)

theorem kept_grantUncached {z : State} {x0 : HTxn} {s : State} (h : Kept z s) :
    Kept z (grantUncached x0 s) := by
  unfold grantUncached
  try dsimp only
  repeat' (first
    | with_reducible assumption | with_reducible apply kept_sendGrant | with_reducible apply kept_joinEntry
    | with_reducible apply kept_remoteTouch | with_reducible apply kept_hostLost
    | with_reducible apply kept_hostRead | with_reducible apply kept_setTxn | with_reducible apply kept_readMem
    | simp only [kept_mk] | split)

theorem kept_tryGrant {z : State} {x0 : Nat} {x1 : Option Nat} {s : State} (h : Kept z s) :
    Kept z (tryGrant x0 x1 s) := by
  unfold tryGrant
  try dsimp only
  repeat' (first
    | with_reducible assumption | with_reducible apply kept_grantUncached | with_reducible apply kept_sendGrant
    | with_reducible apply kept_homeSupply | simp only [kept_mk] | split)

theorem kept_regrant {z : State} {x0 : HTxn} {s : State} (h : Kept z s) :
    Kept z (regrant x0 s) := by
  unfold regrant
  try dsimp only
  repeat' (first
    | with_reducible assumption | with_reducible apply kept_reqDenied | with_reducible apply kept_settleTxn
    | with_reducible apply kept_sendR | with_reducible apply kept_setTxn | with_reducible apply kept_tryGrant
    | simp only [kept_mk] | split | with_reducible refine kept_fst (by assumption) ?_)

theorem kept_retryRing {z : State} {s : State} (h : Kept z s) :
    Kept z (retryRing s) := by
  unfold retryRing
  try dsimp only
  repeat' (first
    | with_reducible assumption | with_reducible apply kept_settleTxn | with_reducible apply kept_setTxn
    | with_reducible apply kept_tryGrant | with_reducible apply kept_regrant | simp only [kept_mk] | split
    | with_reducible refine kept_fst (by assumption) ?_ | with_reducible refine kept_foldl ?_ (fun _ _ _ => ?_))

theorem kept_snoopTouch {z : State} {x0 : RMsg} {s : State} (h : Kept z s) :
    Kept z (snoopTouch x0 s) := by
  unfold snoopTouch
  try dsimp only
  repeat' (first
    | with_reducible assumption | with_reducible apply kept_setFilter | with_reducible apply kept_loseReserved
    | simp only [kept_mk] | split)

theorem kept_snoopArrives {z : State} {x0 : RMsg} {s : State} (h : Kept z s) :
    Kept z (snoopArrives x0 s) := by
  unfold snoopArrives
  try dsimp only
  repeat' (first
    | with_reducible assumption | with_reducible apply kept_snoopTouch | with_reducible apply kept_stateError
    | with_reducible apply kept_setCline | with_reducible apply kept_snoopLine
    | with_reducible apply kept_sendSrsp | simp only [kept_mk] | split
    | with_reducible refine kept_fst (by assumption) ?_ | with_reducible refine kept_foldl ?_ (fun _ _ _ => ?_)
    | with_reducible refine kept_foldl_fst ?_ (fun _ _ _ _ => ?_))

theorem kept_useOnce {z : State} {x0 : Nat} {x1 : Nat} {x2 : CLine} {x3 : RMsg} {x4 : List Byte × Bool} {s :
    State} (h : Kept z s) :
    Kept z (useOnce x0 x1 x2 x3 x4 s) := by
  unfold useOnce
  try dsimp only
  repeat' (first
    | with_reducible assumption | with_reducible apply kept_hartFault | with_reducible apply kept_loadDone
    | with_reducible apply kept_sendR | with_reducible apply kept_storeBytes | simp only [kept_mk] | split
    | with_reducible refine kept_fst (by assumption) ?_)

theorem kept_install {z : State} {x0 : Nat} {x1 : Nat} {s : State} (h : Kept z s) :
    Kept z (install x0 x1 s) := by
  unfold install
  try dsimp only
  repeat' (first
    | with_reducible assumption | with_reducible apply kept_setCline | with_reducible apply kept_useOnce
    | with_reducible apply kept_sendR | with_reducible apply kept_advanceRegion
    | with_reducible apply kept_runDeferred | with_reducible apply kept_restart
    | with_reducible apply kept_performWaiting | simp only [kept_mk] | split)

theorem kept_denyReq {z : State} {x0 x1 x2 : Nat} {x3 : CState} {s : State} (h : Kept z s) :
    Kept z (denyReq x0 x1 x2 x3 s) := by
  unfold denyReq
  dsimp only
  refine kept_restart (kept_performWaiting ?_)
  cases (cline s x0 x1).starter with
  | none => exact kept_setCline h
  | some a => exact kept_hartFault (kept_setCline h)

theorem kept_gntArrives {z : State} {x0 : RMsg} {s : State} (h : Kept z s) :
    Kept z (gntArrives x0 s) := by
  unfold gntArrives
  try dsimp only
  repeat' (first
    | with_reducible assumption | with_reducible apply kept_setCline | with_reducible apply kept_restart
    | with_reducible apply kept_performWaiting | with_reducible apply kept_hartFault
    | with_reducible apply kept_sendR | with_reducible apply kept_advanceRegion
    | with_reducible apply kept_denyReq | with_reducible apply kept_stateError
    | with_reducible apply kept_install | simp only [kept_mk] | split)

theorem kept_dataArrives {z : State} {x0 : RMsg} {s : State} (h : Kept z s) :
    Kept z (dataArrives x0 s) := by
  unfold dataArrives
  try dsimp only
  repeat' (first
    | with_reducible assumption | with_reducible apply kept_setCline | with_reducible apply kept_install
    | with_reducible apply kept_stateError | simp only [kept_mk] | split)

theorem kept_nackArrives {z : State} {x0 : RMsg} {s : State} (h : Kept z s) :
    Kept z (nackArrives x0 s) := by
  unfold nackArrives
  try dsimp only
  repeat' (first
    | with_reducible assumption | with_reducible apply kept_setCline | with_reducible apply kept_restart
    | with_reducible apply kept_performWaiting | with_reducible apply kept_stateError | simp only [kept_mk]
    | split)

theorem kept_srspArrives {z : State} {x0 : RMsg} {x1 : Option Nat} {s : State} (h : Kept z s) :
    Kept z (srspArrives x0 x1 s) := by
  unfold srspArrives
  try dsimp only
  repeat' (first
    | with_reducible assumption | with_reducible apply kept_unmatched | with_reducible apply kept_protocolError
    | with_reducible apply kept_tryGrant | with_reducible apply kept_setTxn | simp only [kept_mk] | split)

theorem kept_wdataArrives {z : State} {x0 : RMsg} {x1 : Option Nat} {s : State} (h : Kept z s) :
    Kept z (wdataArrives x0 x1 s) := by
  unfold wdataArrives
  try dsimp only
  repeat' (first
    | with_reducible assumption | with_reducible apply kept_unmatched | with_reducible apply kept_arriveLine
    | with_reducible apply kept_allocHome | with_reducible apply kept_replaceHome
    | with_reducible apply kept_closeTxn | with_reducible apply kept_tryGrant | simp only [kept_mk] | split
    | with_reducible refine kept_fst (by assumption) ?_)

theorem kept_udataArrives {z : State} {x0 : RMsg} {s : State} (h : Kept z s) :
    Kept z (udataArrives x0 s) := by
  unfold udataArrives
  try dsimp only
  repeat' (first
    | with_reducible assumption | with_reducible apply kept_unmatched | with_reducible apply kept_decideLine
    | with_reducible apply kept_setTxn | with_reducible apply kept_settleTxn | simp only [kept_mk] | split)

theorem kept_wcanArrives {z : State} {x0 : RMsg} {s : State} (h : Kept z s) :
    Kept z (wcanArrives x0 s) := by
  unfold wcanArrives
  try dsimp only
  repeat' (first
    | with_reducible assumption | with_reducible apply kept_unmatched | with_reducible apply kept_closeTxn
    | simp only [kept_mk] | split)

theorem kept_cackArrives {z : State} {x0 : RMsg} {s : State} (h : Kept z s) :
    Kept z (cackArrives x0 s) := by
  unfold cackArrives
  try dsimp only
  repeat' (first
    | with_reducible assumption | with_reducible apply kept_unmatched | with_reducible apply kept_settleTxn
    | with_reducible apply kept_setTxn | simp only [kept_mk] | split)

theorem kept_snpvArrives {z : State} {x0 : RMsg} {s : State} (h : Kept z s) :
    Kept z (snpvArrives x0 s) := by
  unfold snpvArrives
  try dsimp only
  repeat' (first
    | with_reducible assumption | with_reducible apply kept_restart | with_reducible apply kept_performWaiting
    | with_reducible apply kept_setCline | with_reducible apply kept_supply | with_reducible apply kept_sendR
    | with_reducible apply kept_stateError | simp only [kept_mk] | split)

theorem kept_execRds {z : State} {x0 : RMsg} {s : State} (h : Kept z s) :
    KeptNext z (execRds x0 s) := by
  unfold execRds
  try dsimp only
  repeat' (first
    | with_reducible assumption | with_reducible apply keptNext_next
    | with_reducible refine kept_arrive (fun _ _ => ?_) ?_ | with_reducible apply kept_reqArrives)

theorem kept_execRdx {z : State} {x0 : RMsg} {s : State} (h : Kept z s) :
    KeptNext z (execRdx x0 s) := by
  unfold execRdx
  try dsimp only
  repeat' (first
    | with_reducible assumption | with_reducible apply keptNext_next
    | with_reducible refine kept_arrive (fun _ _ => ?_) ?_ | with_reducible apply kept_reqArrives)

theorem kept_execUpg {z : State} {x0 : RMsg} {s : State} (h : Kept z s) :
    KeptNext z (execUpg x0 s) := by
  unfold execUpg
  try dsimp only
  repeat' (first
    | with_reducible assumption | with_reducible apply keptNext_next
    | with_reducible refine kept_arrive (fun _ _ => ?_) ?_ | with_reducible apply kept_reqArrives)

theorem kept_execCbo {z : State} {x0 : RMsg} {s : State} (h : Kept z s) :
    KeptNext z (execCbo x0 s) := by
  unfold execCbo
  try dsimp only
  repeat' (first
    | with_reducible assumption | with_reducible apply keptNext_next
    | with_reducible refine kept_arrive (fun _ _ => ?_) ?_ | with_reducible apply kept_reqArrives)

theorem kept_execVic {z : State} {x0 : RMsg} {s : State} (h : Kept z s) :
    KeptNext z (execVic x0 s) := by
  unfold execVic
  try dsimp only
  repeat' (first
    | with_reducible assumption | with_reducible apply keptNext_next
    | with_reducible refine kept_arrive (fun _ _ => ?_) ?_ | with_reducible apply kept_reqArrives)

theorem kept_execChk {z : State} {x0 : RMsg} {s : State} (h : Kept z s) :
    KeptNext z (execChk x0 s) := by
  unfold execChk
  try dsimp only
  repeat' (first
    | with_reducible assumption | with_reducible apply keptNext_next
    | with_reducible refine kept_arrive (fun _ _ => ?_) ?_ | with_reducible apply kept_reqArrives)

theorem kept_execSnps {z : State} {x0 : RMsg} {s : State} (h : Kept z s) :
    KeptNext z (execSnps x0 s) := by
  unfold execSnps
  try dsimp only
  repeat' (first
    | with_reducible assumption | with_reducible apply keptNext_next
    | with_reducible refine kept_arrive (fun _ _ => ?_) ?_ | with_reducible apply kept_snoopArrives)

theorem kept_execSnpx {z : State} {x0 : RMsg} {s : State} (h : Kept z s) :
    KeptNext z (execSnpx x0 s) := by
  unfold execSnpx
  try dsimp only
  repeat' (first
    | with_reducible assumption | with_reducible apply keptNext_next
    | with_reducible refine kept_arrive (fun _ _ => ?_) ?_ | with_reducible apply kept_snoopArrives)

theorem kept_execSnpw {z : State} {x0 : RMsg} {s : State} (h : Kept z s) :
    KeptNext z (execSnpw x0 s) := by
  unfold execSnpw
  try dsimp only
  repeat' (first
    | with_reducible assumption | with_reducible apply keptNext_next
    | with_reducible refine kept_arrive (fun _ _ => ?_) ?_ | with_reducible apply kept_snoopArrives)

theorem kept_execSnpv {z : State} {x0 : RMsg} {s : State} (h : Kept z s) :
    KeptNext z (execSnpv x0 s) := by
  unfold execSnpv
  try dsimp only
  repeat' (first
    | with_reducible assumption | with_reducible apply keptNext_next
    | with_reducible refine kept_arrive (fun _ _ => ?_) ?_ | with_reducible apply kept_snpvArrives)

theorem kept_execSrsp {z : State} {x0 : RMsg} {x1 : Option Nat} {s : State} (h : Kept z s) :
    KeptNext z (execSrsp x0 x1 s) := by
  unfold execSrsp
  try dsimp only
  repeat' (first
    | with_reducible assumption | with_reducible apply keptNext_next
    | with_reducible refine kept_arrive (fun _ _ => ?_) ?_ | with_reducible apply kept_srspArrives)

theorem kept_execGnt {z : State} {x0 : RMsg} {s : State} (h : Kept z s) :
    KeptNext z (execGnt x0 s) := by
  unfold execGnt
  try dsimp only
  repeat' (first
    | with_reducible assumption | with_reducible apply keptNext_next
    | with_reducible refine kept_arrive (fun _ _ => ?_) ?_ | with_reducible apply kept_gntArrives)

theorem kept_execNack {z : State} {x0 : RMsg} {s : State} (h : Kept z s) :
    KeptNext z (execNack x0 s) := by
  unfold execNack
  try dsimp only
  repeat' (first
    | with_reducible assumption | with_reducible apply keptNext_next
    | with_reducible refine kept_arrive (fun _ _ => ?_) ?_ | with_reducible apply kept_nackArrives)

theorem kept_execCack {z : State} {x0 : RMsg} {s : State} (h : Kept z s) :
    KeptNext z (execCack x0 s) := by
  unfold execCack
  try dsimp only
  repeat' (first
    | with_reducible assumption | with_reducible apply keptNext_next
    | with_reducible refine kept_arrive (fun _ _ => ?_) ?_ | with_reducible apply kept_cackArrives)

theorem kept_execWcan {z : State} {x0 : RMsg} {s : State} (h : Kept z s) :
    KeptNext z (execWcan x0 s) := by
  unfold execWcan
  try dsimp only
  repeat' (first
    | with_reducible assumption | with_reducible apply keptNext_next
    | with_reducible refine kept_arrive (fun _ _ => ?_) ?_ | with_reducible apply kept_wcanArrives)

theorem kept_execData {z : State} {x0 : RMsg} {s : State} (h : Kept z s) :
    KeptNext z (execData x0 s) := by
  unfold execData
  try dsimp only
  repeat' (first
    | with_reducible assumption | with_reducible apply keptNext_next
    | with_reducible refine kept_arrive (fun _ _ => ?_) ?_ | with_reducible apply kept_dataArrives)

theorem kept_execWdata {z : State} {x0 : RMsg} {x1 : Option Nat} {s : State} (h : Kept z s) :
    KeptNext z (execWdata x0 x1 s) := by
  unfold execWdata
  try dsimp only
  repeat' (first
    | with_reducible assumption | with_reducible apply keptNext_next
    | with_reducible refine kept_arrive (fun _ _ => ?_) ?_ | with_reducible apply kept_wdataArrives)

theorem kept_execUdata {z : State} {x0 : RMsg} {s : State} (h : Kept z s) :
    KeptNext z (execUdata x0 s) := by
  unfold execUdata
  try dsimp only
  repeat' (first
    | with_reducible assumption | with_reducible apply keptNext_next
    | with_reducible refine kept_arrive (fun _ _ => ?_) ?_ | with_reducible apply kept_udataArrives)

theorem kept_execRequestResend {z : State} {x0 : Nat} {x1 : Nat} {s : State} (h : Kept z s) :
    KeptNext z (execRequestResend x0 x1 s) := by
  unfold execRequestResend
  try dsimp only
  repeat' (first
    | with_reducible assumption | with_reducible apply keptNext_next | with_reducible apply kept_passNow
    | with_reducible apply kept_sendR | with_reducible apply kept_setCline | simp only [kept_mk] | split)

theorem kept_execReservationExpiry {z : State} {x0 : Nat} {s : State} (h : Kept z s) :
    KeptNext z (execReservationExpiry x0 s) := by
  unfold execReservationExpiry
  try dsimp only
  repeat' (first
    | with_reducible assumption | with_reducible apply keptNext_next | with_reducible apply kept_passNow
    | simp only [kept_mk] | split)

theorem kept_execTransactionTimeout {z : State} {x0 : Nat} {s : State} (h : Kept z s) :
    KeptNext z (execTransactionTimeout x0 s) := by
  unfold execTransactionTimeout
  try dsimp only
  repeat' (first
    | with_reducible assumption | with_reducible apply keptNext_next | with_reducible apply kept_passNow
    | with_reducible apply kept_protocolError | simp only [kept_mk] | split)

end Sys2Proof.Machine
end

