-- ==== Sys2Proof/Laws/KeptRegions.lean ====
section
/-! SUPPORT. `Kept` of each operation and command of Machine/Regions.lean. -/

set_option maxRecDepth 8000

namespace Sys2Proof.Machine

theorem kept_regionCommand {z : State} {x0 : Nat} {x1 : Via} {x2 : RegionAct} {s : State} (h2 : ∀ y0 y1 y2 s,
    Kept z s → Kept z (x2 y0 y1 y2 s)) (h : Kept z s) :
    Kept z (regionCommand x0 x1 x2 s) := by
  unfold regionCommand
  try dsimp only
  repeat' (first
    | with_reducible assumption | with_reducible refine kept_mbCommand (fun _ _ _ => ?_) ?_
    | with_reducible apply kept_finish | with_reducible apply kept_finishRgn | with_reducible apply h2
    | simp only [kept_mk] | split)

theorem kept_claimPages {z : State} {x0 : Nat} {x1 : RegionD} {s : State} (h : Kept z s) :
    Kept z (claimPages x0 x1 s) := by
  unfold claimPages
  try dsimp only
  repeat' (first
    | with_reducible assumption | with_reducible apply kept_setTags | simp only [kept_mk] | split)

theorem kept_releasePages {z : State} {x0 : RegionD} {s : State} (h : Kept z s) :
    Kept z (releasePages x0 s) := by
  unfold releasePages
  try dsimp only
  repeat' (first
    | with_reducible assumption | with_reducible apply kept_setTags | simp only [kept_mk] | split)

theorem kept_allocCtx {z : State} {x0 : Via} {x1 : Nat} {x2 : Nat} {s : State} (h : Kept z s) :
    Kept z (allocCtx x0 x1 x2 s) := by
  unfold allocCtx
  try dsimp only
  repeat' (first
    | with_reducible assumption | with_reducible apply kept_finishRgn | with_reducible apply kept_setCtx
    | with_reducible apply kept_drawn | simp only [kept_mk] | split)

theorem kept_dropRegion {z : State} {x0 : Nat} {x1 : RegionD} {s : State} (h : Kept z s) :
    Kept z (dropRegion x0 x1 s) := by
  unfold dropRegion
  try dsimp only
  repeat' (first
    | with_reducible assumption | with_reducible apply kept_regionChanged
    | with_reducible apply kept_releasePages | with_reducible apply kept_setList)

theorem kept_freeCtx {z : State} {x0 : Via} {x1 : Nat} {x2 : Nat} {s : State} (h : Kept z s) :
    Kept z (freeCtx x0 x1 x2 s) := by
  unfold freeCtx
  try dsimp only
  repeat' (first
    | with_reducible assumption | with_reducible apply kept_finishRgn | with_reducible apply kept_dropRegion
    | with_reducible apply kept_setCtx | simp only [kept_mk] | split
    | with_reducible refine kept_fst (by assumption) ?_ | with_reducible refine kept_foldl ?_ (fun _ _ _ => ?_))

theorem kept_addRegionD {z : State} {x0 : Via} {x1 : Nat} {x2 : List Byte} {x3 : Bool} {s : State} (h : Kept z
    s) :
    Kept z (addRegionD x0 x1 x2 x3 s) := by
  unfold addRegionD
  try dsimp only
  repeat' (first
    | with_reducible assumption | with_reducible apply kept_finishRgn | with_reducible apply kept_claimPages
    | with_reducible apply kept_setList | with_reducible apply kept_regionChanged
    | with_reducible apply kept_advanceRegion | simp only [kept_mk] | split)

theorem kept_addRegion {z : State} {x0 : Via} {x1 : Nat} {x2 : Nat} {s : State} (h : Kept z s) :
    Kept z (addRegion x0 x1 x2 s) := by
  unfold addRegion
  try dsimp only
  repeat' (first
    | with_reducible assumption | with_reducible apply kept_addRegionD | with_reducible apply kept_readMem
    | simp only [kept_mk] | split)

theorem kept_removeRegion {z : State} {x0 : Via} {x1 : Nat} {x2 : Nat} {s : State} (h : Kept z s) :
    Kept z (removeRegion x0 x1 x2 s) := by
  unfold removeRegion
  try dsimp only
  repeat' (first
    | with_reducible assumption | with_reducible apply kept_finishRgn | with_reducible apply kept_dropRegion
    | simp only [kept_mk] | split)

theorem kept_pinRegion {z : State} {x0 : Via} {x1 : Nat} {x2 : Nat} {s : State} (h : Kept z s) :
    Kept z (pinRegion x0 x1 x2 s) := by
  unfold pinRegion
  try dsimp only
  repeat' (first
    | with_reducible assumption | with_reducible apply kept_finishRgn | with_reducible apply kept_advanceRegion
    | simp only [kept_mk] | split)

theorem kept_unpinRegion {z : State} {x0 : Via} {x1 : Nat} {x2 : Nat} {s : State} (h : Kept z s) :
    Kept z (unpinRegion x0 x1 x2 s) := by
  unfold unpinRegion
  try dsimp only
  repeat' (first
    | with_reducible assumption | with_reducible apply kept_finishRgn | with_reducible apply kept_regionChanged
    | with_reducible apply kept_setPinned | simp only [kept_mk] | split)

theorem kept_evictPage {z : State} {x0 : Via} {x1 : Nat} {x2 : Nat} {s : State} (h : Kept z s) :
    Kept z (evictPage x0 x1 x2 s) := by
  unfold evictPage
  try dsimp only
  repeat' (first
    | with_reducible assumption | with_reducible apply kept_finishRgn | with_reducible apply kept_advanceRegion
    | simp only [kept_mk] | split)

theorem kept_joinGroup {z : State} {x0 : Via} {x1 : Nat} {x2 : Nat} {s : State} (h : Kept z s) :
    Kept z (joinGroup x0 x1 x2 s) := by
  unfold joinGroup
  try dsimp only
  repeat' (first
    | with_reducible assumption | with_reducible apply kept_finishRgn | with_reducible apply kept_setCtx
    | simp only [kept_mk] | split)

theorem kept_leaveGroup {z : State} {x0 : Via} {x1 : Nat} {x2 : Nat} {s : State} (h : Kept z s) :
    Kept z (leaveGroup x0 x1 x2 s) := by
  unfold leaveGroup
  try dsimp only
  repeat' (first
    | with_reducible assumption | with_reducible apply kept_finishRgn | with_reducible apply kept_setCtx
    | simp only [kept_mk] | split)

theorem kept_execAllocCtx {z : State} {x0 : Via} {s : State} (h : Kept z s) :
    KeptNext z (execAllocCtx x0 s) := by
  unfold execAllocCtx
  try dsimp only
  repeat' (first
    | with_reducible assumption | with_reducible apply keptNext_next
    | with_reducible refine kept_regionCommand (fun _ _ _ _ _ => ?_) ?_ | with_reducible apply kept_allocCtx)

theorem kept_execFreeCtx {z : State} {x0 : Via} {s : State} (h : Kept z s) :
    KeptNext z (execFreeCtx x0 s) := by
  unfold execFreeCtx
  try dsimp only
  repeat' (first
    | with_reducible assumption | with_reducible apply keptNext_next
    | with_reducible refine kept_regionCommand (fun _ _ _ _ _ => ?_) ?_ | with_reducible apply kept_freeCtx)

theorem kept_execAddRegion {z : State} {x0 : Via} {s : State} (h : Kept z s) :
    KeptNext z (execAddRegion x0 s) := by
  unfold execAddRegion
  try dsimp only
  repeat' (first
    | with_reducible assumption | with_reducible apply keptNext_next
    | with_reducible refine kept_regionCommand (fun _ _ _ _ _ => ?_) ?_ | with_reducible apply kept_addRegion)

theorem kept_execRemoveRegion {z : State} {x0 : Via} {s : State} (h : Kept z s) :
    KeptNext z (execRemoveRegion x0 s) := by
  unfold execRemoveRegion
  try dsimp only
  repeat' (first
    | with_reducible assumption | with_reducible apply keptNext_next
    | with_reducible refine kept_regionCommand (fun _ _ _ _ _ => ?_) ?_ | with_reducible apply kept_removeRegion)

theorem kept_execPin {z : State} {x0 : Via} {s : State} (h : Kept z s) :
    KeptNext z (execPin x0 s) := by
  unfold execPin
  try dsimp only
  repeat' (first
    | with_reducible assumption | with_reducible apply keptNext_next
    | with_reducible refine kept_regionCommand (fun _ _ _ _ _ => ?_) ?_ | with_reducible apply kept_pinRegion)

theorem kept_execUnpin {z : State} {x0 : Via} {s : State} (h : Kept z s) :
    KeptNext z (execUnpin x0 s) := by
  unfold execUnpin
  try dsimp only
  repeat' (first
    | with_reducible assumption | with_reducible apply keptNext_next
    | with_reducible refine kept_regionCommand (fun _ _ _ _ _ => ?_) ?_ | with_reducible apply kept_unpinRegion)

theorem kept_execEvict {z : State} {x0 : Via} {s : State} (h : Kept z s) :
    KeptNext z (execEvict x0 s) := by
  unfold execEvict
  try dsimp only
  repeat' (first
    | with_reducible assumption | with_reducible apply keptNext_next
    | with_reducible refine kept_regionCommand (fun _ _ _ _ _ => ?_) ?_ | with_reducible apply kept_evictPage)

theorem kept_execJoinGroup {z : State} {x0 : Via} {s : State} (h : Kept z s) :
    KeptNext z (execJoinGroup x0 s) := by
  unfold execJoinGroup
  try dsimp only
  repeat' (first
    | with_reducible assumption | with_reducible apply keptNext_next
    | with_reducible refine kept_regionCommand (fun _ _ _ _ _ => ?_) ?_ | with_reducible apply kept_joinGroup)

theorem kept_execLeaveGroup {z : State} {x0 : Via} {s : State} (h : Kept z s) :
    KeptNext z (execLeaveGroup x0 s) := by
  unfold execLeaveGroup
  try dsimp only
  repeat' (first
    | with_reducible assumption | with_reducible apply keptNext_next
    | with_reducible refine kept_regionCommand (fun _ _ _ _ _ => ?_) ?_ | with_reducible apply kept_leaveGroup)

theorem kept_afterPage {z : State} {s : State} (h : Kept z s) :
    Kept z (afterPage s) := by
  unfold afterPage
  try dsimp only
  repeat' (first
    | with_reducible assumption | with_reducible apply kept_retryRing | with_reducible apply kept_retryHeld
    | with_reducible apply kept_serveFaults | with_reducible apply kept_advanceRegion)

theorem kept_endMigration {z : State} {x0 : Nat} {x1 : CoEntry} {s : State} (h : Kept z s) :
    Kept z (endMigration x0 x1 s) := by
  unfold endMigration
  try dsimp only
  repeat' (first
    | with_reducible assumption | with_reducible apply kept_setTag | with_reducible apply kept_setEntry
    | with_reducible apply kept_raise | simp only [kept_mk] | split)

theorem kept_execPageMigrated {z : State} {x0 : Nat} {s : State} (h : Kept z s) :
    KeptNext z (execPageMigrated x0 s) := by
  unfold execPageMigrated
  try dsimp only
  repeat' (first
    | with_reducible assumption | with_reducible apply keptNext_next | with_reducible apply kept_afterPage
    | with_reducible apply kept_endMigration | simp only [kept_mk] | split)

theorem kept_execCountDecay {z : State} {s : State} (h : Kept z s) :
    KeptNext z (execCountDecay s) := by
  unfold execCountDecay
  try dsimp only
  repeat' (first
    | with_reducible assumption | with_reducible apply keptNext_next | with_reducible apply kept_passNow
    | with_reducible apply kept_setTags | simp only [kept_mk] | split)

end Sys2Proof.Machine
end

