-- ==== Sys2Proof/Laws/KeptRecorder.lean ====
section
/-! SUPPORT. `Kept` of each operation and command of Machine/Recorder.lean. -/

set_option maxRecDepth 8000

namespace Sys2Proof.Machine

theorem kept_copyRecord {z : State} {x0 : List Byte} {s : State} (h : Kept z s) :
    Kept z (copyRecord x0 s) := by
  unfold copyRecord
  try dsimp only
  repeat' (first
    | with_reducible assumption | with_reducible apply kept_writeMem | simp only [kept_mk])

theorem kept_startReader {z : State} {s : State} (h : Kept z s) :
    Kept z (startReader s) := by
  unfold startReader
  try dsimp only
  repeat' (first
    | with_reducible assumption | with_reducible apply kept_copyRecord | simp only [kept_mk] | split
    | with_reducible refine kept_fst (by assumption) ?_ | with_reducible refine kept_foldl ?_ (fun _ _ _ => ?_))

theorem kept_copyFold {z : State} {s : State} (h : Kept z s) :
    Kept z (copyFold s) := by
  unfold copyFold
  try dsimp only
  repeat' (first
    | with_reducible assumption | with_reducible apply kept_copyRecord | simp only [kept_mk] | split)

theorem kept_reportDrops {z : State} {s : State} (h : Kept z s) :
    Kept z (reportDrops s) := by
  unfold reportDrops
  try dsimp only
  repeat' (first
    | with_reducible assumption | with_reducible apply kept_raise | simp only [kept_mk] | split)

theorem kept_writeRecord {z : State} {s : State} (h : Kept z s) :
    Kept z (writeRecord s) := by
  unfold writeRecord
  try dsimp only
  repeat' (first
    | with_reducible assumption | with_reducible apply kept_reportDrops | with_reducible apply kept_emit
    | with_reducible apply kept_copyRecord | with_reducible apply kept_raise | simp only [kept_mk] | split)

theorem kept_execRecordWrite {z : State} {s : State} (h : Kept z s) :
    KeptNext z (execRecordWrite s) := by
  unfold execRecordWrite
  try dsimp only
  repeat' (first
    | with_reducible assumption | with_reducible apply keptNext_next | with_reducible apply kept_writeRecord
    | with_reducible apply kept_copyFold | simp only [kept_mk] | split)

theorem kept_countMinute {z : State} {s : State} (h : Kept z s) :
    Kept z (countMinute s) := by
  unfold countMinute
  try dsimp only
  repeat' (first
    | with_reducible assumption | simp only [kept_mk])

theorem kept_execMinuteCount {z : State} {s : State} (h : Kept z s) :
    KeptNext z (execMinuteCount s) := by
  unfold execMinuteCount
  try dsimp only
  repeat' (first
    | with_reducible assumption | with_reducible apply keptNext_next | with_reducible apply kept_countMinute
    | with_reducible apply kept_passNow | simp only [kept_mk] | split)

theorem kept_execRecRead {z : State} {x0 : Nat} {s : State} (h : Kept z s) :
    KeptNext z (execRecRead x0 s) := by
  unfold execRecRead
  try dsimp only
  repeat' (first
    | with_reducible assumption | with_reducible apply keptNext_next
    | with_reducible refine kept_mbCommand (fun _ _ _ => ?_) ?_ | with_reducible apply kept_complete)

end Sys2Proof.Machine
end

