-- ==== Sys2Proof/Laws/KeptSurvival.lean ====
section
/-! SUPPORT. `Kept` of each operation and command of Machine/Survival.lean. -/

set_option maxRecDepth 8000

namespace Sys2Proof.Machine

theorem kept_execEHalving {z : State} {s : State} (h : Kept z s) :
    KeptNext z (execEHalving s) := by
  unfold execEHalving
  try dsimp only
  repeat' (first
    | with_reducible assumption | with_reducible apply keptNext_next | with_reducible apply kept_passNow
    | with_reducible apply kept_requestCheck | simp only [kept_mk])

theorem kept_execIntervalExpiry {z : State} {s : State} (h : Kept z s) :
    KeptNext z (execIntervalExpiry s) := by
  unfold execIntervalExpiry
  try dsimp only
  repeat' (first
    | with_reducible assumption | with_reducible apply keptNext_next | with_reducible apply kept_expireInterval)

theorem kept_execHealthConfig {z : State} {x0 : Nat} {s : State} (h : Kept z s) :
    KeptNext z (execHealthConfig x0 s) := by
  unfold execHealthConfig
  try dsimp only
  repeat' (first
    | with_reducible assumption | with_reducible apply keptNext_next
    | with_reducible refine kept_mbCommand (fun _ _ _ => ?_) ?_ | with_reducible apply kept_finish
    | simp only [kept_mk])

theorem kept_execSecure {z : State} {x0 : Nat} {s : State} (h : Kept z s) :
    KeptNext z (execSecure x0 s) := by
  unfold execSecure
  try dsimp only
  repeat' (first
    | with_reducible assumption | with_reducible apply keptNext_next
    | with_reducible refine kept_mbCommand (fun _ _ _ => ?_) ?_ | with_reducible apply kept_finish
    | with_reducible apply kept_armSecuring | with_reducible apply kept_await | simp only [kept_mk] | split)

theorem kept_startEmergency {z : State} {s : State} (h : Kept z s) :
    Kept z (startEmergency s) := by
  unfold startEmergency
  try dsimp only
  repeat' (first
    | with_reducible assumption | with_reducible apply kept_requestCheck | with_reducible apply kept_setMode
    | with_reducible apply kept_drainAll | with_reducible apply kept_abandonSecuring
    | with_reducible apply kept_enterStopping | with_reducible apply kept_startSecuring | simp only [kept_mk]
    | split)

theorem kept_enterHalted {z : State} {s : State} (h : Kept z s) :
    Kept z (enterHalted s) := by
  unfold enterHalted
  try dsimp only
  repeat' (first
    | with_reducible assumption | with_reducible apply kept_finishAll | with_reducible apply kept_setMode
    | with_reducible apply kept_drainAll)

theorem kept_execModuleHalted {z : State} {s : State} (h : Kept z s) :
    KeptNext z (execModuleHalted s) := by
  unfold execModuleHalted
  try dsimp only
  repeat' (first
    | with_reducible assumption | with_reducible apply keptNext_next | with_reducible apply kept_enterHalted
    | simp only [kept_mk] | split)

theorem kept_sendKeyed {z : State} {x0 : Nat} {x1 : Nat} {x2 : List Byte} {s : State} (h : Kept z s) :
    Kept z (sendKeyed x0 x1 x2 s) := by
  unfold sendKeyed
  try dsimp only
  repeat' (first
    | with_reducible assumption | with_reducible apply kept_sendTxn | simp only [kept_mk] | split)

theorem kept_execPair {z : State} {x0 : Nat} {s : State} (h : Kept z s) :
    KeptNext z (execPair x0 s) := by
  unfold execPair
  try dsimp only
  repeat' (first
    | with_reducible assumption | with_reducible apply keptNext_next
    | with_reducible refine kept_mbCommand (fun _ _ _ => ?_) ?_ | with_reducible apply kept_finish
    | with_reducible apply kept_await | with_reducible apply kept_sendKeyed | simp only [kept_mk] | split)

theorem kept_recordPairing {z : State} {x0 : Nat} {x1 : Nat} {x2 : Nat} {x3 : Nat} {x4 : Nat} {x5 : Nat} {s :
    State} (h : Kept z s) :
    Kept z (recordPairing x0 x1 x2 x3 x4 x5 s) := by
  unfold recordPairing
  try dsimp only
  repeat' (first
    | with_reducible assumption | with_reducible apply kept_finish | with_reducible apply kept_raise
    | with_reducible apply kept_requestCheck | with_reducible apply kept_complete | simp only [kept_mk] | split)

theorem kept_answerPairing {z : State} {x0 : Nat} {x1 : Nat} {s : State} (h : Kept z s) :
    Kept z (answerPairing x0 x1 s) := by
  unfold answerPairing
  try dsimp only
  repeat' (first
    | with_reducible assumption | with_reducible apply kept_recordPairing | simp only [kept_mk] | split
    | with_reducible refine kept_fst (by assumption) ?_ | with_reducible refine kept_foldl ?_ (fun _ _ _ => ?_))

theorem kept_execFeed {z : State} {x0 : Bool} {x1 : Nat} {x2 : Nat} {x3 : Nat} {s : State} (h : Kept z s) :
    KeptNext z (execFeed x0 x1 x2 x3 s) := by
  unfold execFeed
  try dsimp only
  repeat' (first
    | with_reducible assumption | with_reducible apply keptNext_next | with_reducible apply kept_answerPairing
    | with_reducible apply kept_sendKeyed | simp only [kept_mk] | split)

theorem kept_execUnpair {z : State} {x0 : Nat} {s : State} (h : Kept z s) :
    KeptNext z (execUnpair x0 s) := by
  unfold execUnpair
  try dsimp only
  repeat' (first
    | with_reducible assumption | with_reducible apply keptNext_next
    | with_reducible refine kept_mbCommand (fun _ _ _ => ?_) ?_ | with_reducible apply kept_finish
    | simp only [kept_mk] | split)

theorem kept_slotRead {z : State} {s : State} {x1 : Option Restoring} {x2 : Nat} {x3 : Nat} {x4 : Nat} (h :
    Kept z s) :
    Kept z (slotRead s x1 x2 x3 x4).1 := by
  unfold slotRead
  try dsimp only
  repeat' (first
    | with_reducible assumption | with_reducible apply kept_readMem | simp only [kept_mk] | split)

theorem kept_slotManifest {z : State} {s : State} {x1 : Option Restoring} {x2 : Nat} (h : Kept z s) :
    Kept z (slotManifest s x1 x2).1 := by
  unfold slotManifest
  try dsimp only
  repeat' (first
    | with_reducible assumption | with_reducible apply kept_slotRead | simp only [kept_mk] | split)

theorem kept_serveRequest {z : State} {s : State} (h : Kept z s) :
    Kept z (serveRequest s) := by
  unfold serveRequest
  try dsimp only
  repeat' (first
    | with_reducible assumption | with_reducible apply kept_readMem | with_reducible apply kept_slotManifest
    | with_reducible apply kept_peerWrite | simp only [kept_mk] | split
    | with_reducible refine kept_fst (by assumption) ?_ | with_reducible refine kept_foldl ?_ (fun _ _ _ => ?_)
    | with_reducible refine kept_foldl_fst ?_ (fun _ _ _ _ => ?_))

theorem kept_advanceServe {z : State} {s : State} (h : Kept z s) :
    Kept z (advanceServe s) := by
  unfold advanceServe
  try dsimp only
  repeat' (first
    | with_reducible assumption | with_reducible apply kept_raise | simp only [kept_mk] | split)

theorem kept_refuseRestore {z : State} {x0 : Restoring} {x1 : Nat} {s : State} (h : Kept z s) :
    Kept z (refuseRestore x0 x1 s) := by
  unfold refuseRestore
  try dsimp only
  repeat' (first
    | with_reducible assumption | with_reducible apply kept_finish | with_reducible apply kept_raise
    | simp only [kept_mk])

theorem kept_copyTensors {z : State} {x0 : Restoring} {x1 : Bool} {x2 : List Byte} {s : State} (h : Kept z s) :
    Kept z (copyTensors x0 x1 x2 s).1 := by
  unfold copyTensors
  try dsimp only
  repeat' (first
    | with_reducible assumption | with_reducible apply kept_slotRead | with_reducible apply kept_writeMem
    | simp only [kept_mk] | split | with_reducible refine kept_fst (by assumption) ?_
    | with_reducible refine kept_foldl ?_ (fun _ _ _ => ?_)
    | with_reducible refine kept_foldl_fst ?_ (fun _ _ _ _ => ?_))

theorem kept_applyRestore {z : State} {x0 : Restoring} {x1 : Bool} {x2 : List Byte} {x3 : List Byte} {x4 :
    List Byte} {s : State} (h : Kept z s) :
    Kept z (applyRestore x0 x1 x2 x3 x4 s) := by
  unfold applyRestore
  try dsimp only
  repeat' (first
    | with_reducible assumption | with_reducible apply kept_copyTensors
    | with_reducible apply kept_refuseRestore | with_reducible apply kept_writeMem
    | with_reducible apply kept_setSlot | with_reducible apply kept_beginStart | with_reducible apply kept_raise
    | with_reducible apply kept_await | simp only [kept_mk] | split
    | with_reducible refine kept_fst (by assumption) ?_)

theorem kept_decideRestore {z : State} {x0 : Restoring} {s : State} (h : Kept z s) :
    Kept z (decideRestore x0 s) := by
  unfold decideRestore
  try dsimp only
  repeat' (first
    | with_reducible assumption | with_reducible apply kept_slotManifest
    | with_reducible apply kept_refuseRestore | with_reducible apply kept_hostRead
    | with_reducible apply kept_applyRestore | simp only [kept_mk] | split
    | with_reducible refine kept_fst (by assumption) ?_ | with_reducible refine kept_foldl ?_ (fun _ _ _ => ?_)
    | with_reducible refine kept_foldl_fst ?_ (fun _ _ _ _ => ?_))

theorem kept_advanceRestore {z : State} {x0 : Nat} {s : State} (h : Kept z s) :
    Kept z (advanceRestore x0 s) := by
  induction x0 generalizing s with
  | zero =>
    unfold advanceRestore
    try dsimp only
    repeat' (with_reducible assumption)
  | succ n ih =>
    unfold advanceRestore
    try dsimp only
    repeat' (first
      | with_reducible assumption | with_reducible apply ih | with_reducible apply kept_hostRead
      | with_reducible apply kept_decideRestore | simp only [kept_mk] | split
      | with_reducible refine kept_fst (by assumption) ?_
      | with_reducible refine kept_foldl ?_ (fun _ _ _ => ?_))

theorem kept_checkLanding {z : State} {s : State} (h : Kept z s) :
    Kept z (checkLanding s) := by
  unfold checkLanding
  try dsimp only
  repeat' (first
    | with_reducible assumption | with_reducible apply kept_decideRestore | simp only [kept_mk] | split)

theorem kept_execRestore {z : State} {x0 : Nat} {s : State} (h : Kept z s) :
    KeptNext z (execRestore x0 s) := by
  unfold execRestore
  try dsimp only
  repeat' (first
    | with_reducible assumption | with_reducible apply keptNext_next
    | with_reducible refine kept_mbCommand (fun _ _ _ => ?_) ?_ | with_reducible apply kept_await
    | with_reducible apply kept_advanceRestore | with_reducible apply kept_hostRead
    | with_reducible apply kept_refuseRestore | with_reducible apply kept_peerWrite | simp only [kept_mk]
    | split)

theorem kept_execStandby {z : State} {x0 : Nat} {s : State} (h : Kept z s) :
    KeptNext z (execStandby x0 s) := by
  unfold execStandby
  try dsimp only
  repeat' (first
    | with_reducible assumption | with_reducible apply keptNext_next
    | with_reducible refine kept_mbCommand (fun _ _ _ => ?_) ?_ | with_reducible apply kept_finish
    | simp only [kept_mk] | split)

theorem kept_endTakeover {z : State} {s : State} (h : Kept z s) :
    Kept z (endTakeover s) := by
  unfold endTakeover
  try dsimp only
  repeat' (first
    | with_reducible assumption | with_reducible apply kept_finish | with_reducible apply kept_raise
    | simp only [kept_mk] | split | with_reducible refine kept_fst (by assumption) ?_
    | with_reducible refine kept_foldl ?_ (fun _ _ _ => ?_))

theorem kept_execTakeover {z : State} {x0 : Nat} {s : State} (h : Kept z s) :
    KeptNext z (execTakeover x0 s) := by
  unfold execTakeover
  try dsimp only
  repeat' (first
    | with_reducible assumption | with_reducible apply keptNext_next
    | with_reducible refine kept_mbCommand (fun _ _ _ => ?_) ?_ | with_reducible apply kept_finish
    | with_reducible apply kept_setPort | with_reducible apply kept_endTakeover
    | with_reducible apply kept_await | simp only [kept_mk] | split
    | with_reducible refine kept_fst (by assumption) ?_ | with_reducible refine kept_foldl ?_ (fun _ _ _ => ?_))

end Sys2Proof.Machine
end

