-- ==== Sys2Proof/Laws/KeptHostEnd.lean ====
section
/-! SUPPORT. `Kept` of each operation and command of Machine/HostEnd.lean. -/

set_option maxRecDepth 8000

namespace Sys2Proof.Machine

theorem kept_settleWin {z : State} {x0 : Nat} {x1 : Nat} {x2 : Nat} {s : State} (h : Kept z s) :
    Kept z (settleWin x0 x1 x2 s) := by
  unfold settleWin
  try dsimp only
  repeat' (first
    | with_reducible assumption | with_reducible apply kept_advanceRegion
    | with_reducible apply kept_recordArises | simp only [kept_mk] | split)

theorem kept_deliverRead {z : State} {x0 : HostUse} {x1 : Nat} {x2 : List Byte} {x3 : Bool} {s : State} (h :
    Kept z s) :
    Kept z (deliverRead x0 x1 x2 x3 s) := by
  unfold deliverRead
  try dsimp only
  repeat' (first
    | with_reducible assumption | with_reducible apply kept_setEntry | with_reducible apply kept_poisonBlock
    | with_reducible apply kept_writeMem | with_reducible apply kept_emit | with_reducible apply kept_hartFault
    | with_reducible apply kept_sendGrant | with_reducible apply kept_setMb | with_reducible apply kept_setBuf
    | simp only [kept_mk] | split | with_reducible refine kept_fst (by assumption) ?_
    | with_reducible refine kept_foldl ?_ (fun _ _ _ => ?_))

theorem kept_afterRead {z : State} {x0 : HostUse} {s : State} (h : Kept z s) :
    Kept z (afterRead x0 s) := by
  unfold afterRead
  try dsimp only
  repeat' (first
    | with_reducible assumption | with_reducible apply kept_await | with_reducible apply kept_advanceRestore
    | simp only [kept_mk] | split)

theorem kept_afterAccess {z : State} {s : State} (h : Kept z s) :
    Kept z (afterAccess s) := by
  unfold afterAccess
  try dsimp only
  repeat' (first
    | with_reducible assumption | with_reducible apply kept_beginMigrations | with_reducible apply kept_pumpHost)

theorem kept_readPart {z : State} {x0 : HostReq} {x1 : Nat} {x2 : Nat} {x3 : List Byte} {s : State} (h : Kept
    z s) :
    Kept z (readPart x0 x1 x2 x3 s) := by
  unfold readPart
  try dsimp only
  repeat' (first
    | with_reducible assumption | with_reducible apply kept_raise | with_reducible apply kept_afterRead
    | with_reducible apply kept_deliverRead | simp only [kept_mk] | split)

theorem kept_readAnswer {z : State} {x0 : Nat} {x1 : Nat} {x2 : Nat} {x3 : Nat} {x4 : List Byte} {s : State}
    (h : Kept z s) :
    Kept z (readAnswer x0 x1 x2 x3 x4 s) := by
  unfold readAnswer
  try dsimp only
  repeat' (first
    | with_reducible assumption | with_reducible apply kept_afterAccess | with_reducible apply kept_readPart
    | simp only [kept_mk] | split)

theorem kept_failEvict {z : State} {x0 : Nat} {s : State} (h : Kept z s) :
    Kept z (failEvict x0 s) := by
  unfold failEvict
  try dsimp only
  repeat' (first
    | with_reducible assumption | with_reducible apply kept_setEntry | simp only [kept_mk] | split)

theorem kept_afterWrite {z : State} {x0 : HostUse} {x1 : Bool} {s : State} (h : Kept z s) :
    Kept z (afterWrite x0 x1 s) := by
  unfold afterWrite
  try dsimp only
  repeat' (first
    | with_reducible assumption | with_reducible apply kept_afterPage | with_reducible apply kept_failEvict
    | with_reducible apply kept_hostWrite | with_reducible apply kept_ackBox
    | with_reducible apply kept_hostIrqOn | with_reducible apply kept_emit | with_reducible apply kept_settleWin
    | with_reducible apply kept_setWinCmd | with_reducible apply kept_setWinQ
    | with_reducible apply kept_advanceShip | with_reducible apply kept_shipFails
    | with_reducible apply kept_advanceSecuring | with_reducible apply kept_failDest
    | with_reducible apply kept_advanceServe | simp only [kept_mk] | split)

theorem kept_writeAnswer {z : State} {x0 : Nat} {x1 : Nat} {x2 : Nat} {s : State} (h : Kept z s) :
    Kept z (writeAnswer x0 x1 x2 s) := by
  unfold writeAnswer
  try dsimp only
  repeat' (first
    | with_reducible assumption | with_reducible apply kept_raise | with_reducible apply kept_afterAccess
    | with_reducible apply kept_afterWrite | simp only [kept_mk] | split)

end Sys2Proof.Machine
end

