-- ==== Sys2Proof/Laws/KeptLink.lean ====
section
/-! SUPPORT. `Kept` of each operation and command of Machine/Link.lean. -/

set_option maxRecDepth 8000

namespace Sys2Proof.Machine

theorem kept_flushDone {z : State} {x0 : FlushJob} {x1 : Bool} {x2 : Nat} {s : State} (h : Kept z s) :
    Kept z (flushDone x0 x1 x2 s) := by
  unfold flushDone
  try dsimp only
  repeat' (first
    | with_reducible assumption | with_reducible apply kept_raise | with_reducible apply kept_recordArises
    | with_reducible apply kept_finish | with_reducible apply kept_timedOut | simp only [kept_mk] | split)

theorem kept_setFlush {z : State} {x0 : FlushJob} {s : State} (h : Kept z s) :
    Kept z (setFlush x0 s) := by
  unfold setFlush
  try dsimp only
  repeat' (first
    | with_reducible assumption | with_reducible apply kept_flushDone | simp only [kept_mk] | split)

theorem kept_startFlush {z : State} {x0 : FlushBy} {s : State} (h : Kept z s) :
    Kept z (startFlush x0 s) := by
  unfold startFlush
  try dsimp only
  repeat' (first
    | with_reducible assumption | with_reducible apply kept_sendTxn | with_reducible apply kept_setFlush
    | simp only [kept_mk] | split | with_reducible refine kept_fst (by assumption) ?_
    | with_reducible refine kept_foldl ?_ (fun _ _ _ => ?_))

theorem kept_execFlushAck {z : State} {x0 : Nat} {x1 : Nat} {s : State} (h : Kept z s) :
    KeptNext z (execFlushAck x0 x1 s) := by
  unfold execFlushAck
  try dsimp only
  repeat' (first
    | with_reducible assumption | with_reducible apply keptNext_next | with_reducible apply kept_setFlush
    | simp only [kept_mk] | split)

theorem kept_failFlushes {z : State} {x0 : FlushJob → Bool} {x1 : FlushJob → Nat} {s : State} (h : Kept z s) :
    Kept z (failFlushes x0 x1 s) := by
  unfold failFlushes
  try dsimp only
  repeat' (first
    | with_reducible assumption | with_reducible apply kept_flushDone | simp only [kept_mk] | split
    | with_reducible refine kept_fst (by assumption) ?_ | with_reducible refine kept_foldl ?_ (fun _ _ _ => ?_))

theorem kept_execFlushTimeout {z : State} {x0 : Nat} {s : State} (h : Kept z s) :
    KeptNext z (execFlushTimeout x0 s) := by
  unfold execFlushTimeout
  try dsimp only
  repeat' (first
    | with_reducible assumption | with_reducible apply keptNext_next | with_reducible apply kept_failFlushes
    | with_reducible apply kept_passNow | simp only [kept_mk] | split)

theorem kept_execZngFlushStart {z : State} {s : State} (h : Kept z s) :
    KeptNext z (execZngFlushStart s) := by
  unfold execZngFlushStart
  try dsimp only
  repeat' (first
    | with_reducible assumption | with_reducible apply keptNext_next | with_reducible apply kept_startFlush
    | simp only [kept_mk] | split)

theorem kept_requeue {z : State} {x0 : Nat} {s : State} (h : Kept z s) :
    Kept z (requeue x0 s) := by
  unfold requeue
  try dsimp only
  repeat' (first
    | with_reducible assumption | with_reducible apply kept_setEntry | simp only [kept_mk] | split
    | with_reducible refine kept_fst (by assumption) ?_ | with_reducible refine kept_foldl ?_ (fun _ _ _ => ?_))

theorem kept_keepMoved {z : State} {x0 : HostReq} {s : State} (h : Kept z s) :
    Kept z (keepMoved x0 s) := by
  unfold keepMoved
  try dsimp only
  repeat' (first
    | with_reducible assumption | with_reducible apply kept_setEntry | simp only [kept_mk] | split)

theorem kept_poisonReads {z : State} {x0 : Nat} {s : State} (h : Kept z s) :
    Kept z (poisonReads x0 s) := by
  unfold poisonReads
  try dsimp only
  repeat' (first
    | with_reducible assumption | with_reducible apply kept_keepMoved | with_reducible apply kept_raise
    | with_reducible apply kept_afterRead | with_reducible apply kept_deliverRead | simp only [kept_mk] | split
    | with_reducible refine kept_fst (by assumption) ?_ | with_reducible refine kept_foldl ?_ (fun _ _ _ => ?_))

theorem kept_moveWaiting {z : State} {x0 : Nat} {x1 : List Txn} {s : State} (h : Kept z s) :
    Kept z (moveWaiting x0 x1 s) := by
  unfold moveWaiting
  try dsimp only
  repeat' (first
    | with_reducible assumption | with_reducible apply kept_pump | with_reducible apply kept_setPort
    | simp only [kept_mk] | split)

theorem kept_moveKeys {z : State} {x0 : Nat} {s : State} (h : Kept z s) :
    Kept z (moveKeys x0 s) := by
  unfold moveKeys
  try dsimp only
  repeat' (first
    | with_reducible assumption | with_reducible apply kept_raise | with_reducible apply kept_setPort
    | simp only [kept_mk] | split)

theorem kept_dropPosted {z : State} {x0 : Nat} {s : State} (h : Kept z s) :
    Kept z (dropPosted x0 s) := by
  unfold dropPosted
  try dsimp only
  repeat' (first
    | with_reducible assumption | with_reducible apply kept_setMb | simp only [kept_mk] | split)

theorem kept_endStarts {z : State} {x0 : Nat} {x1 : FuncState} {x2 : Bool} {s : State} (h : Kept z s) :
    Kept z (endStarts x0 x1 x2 s) := by
  unfold endStarts
  try dsimp only
  repeat' (first
    | with_reducible assumption | with_reducible apply kept_finishAll | simp only [kept_mk] | split)

theorem kept_leavePort {z : State} {x0 : Nat} {x1 : Bool} {x2 : List Txn} {s : State} (h : Kept z s) :
    Kept z (leavePort x0 x1 x2 s) := by
  unfold leavePort
  try dsimp only
  repeat' (first
    | with_reducible assumption | with_reducible apply kept_moveWaiting | with_reducible apply kept_moveKeys
    | with_reducible apply kept_requeue | with_reducible apply kept_beginMigrations
    | with_reducible apply kept_poisonReads | with_reducible apply kept_pumpHost | simp only [kept_mk] | split)

theorem kept_checkPorts {z : State} {s : State} (h : Kept z s) :
    Kept z (checkPorts s) := by
  unfold checkPorts
  try dsimp only
  repeat' (first
    | with_reducible assumption | with_reducible apply kept_failModule | simp only [kept_mk] | split)

theorem kept_losePort {z : State} {x0 : Nat} {x1 : Bool} {s : State} (h : Kept z s) :
    Kept z (losePort x0 x1 s) := by
  unfold losePort
  try dsimp only
  repeat' (first
    | with_reducible assumption | with_reducible apply kept_endStarts | with_reducible apply kept_raise
    | with_reducible apply kept_dropPosted | with_reducible apply kept_setPort
    | with_reducible apply kept_checkPorts | with_reducible apply kept_endTakeover
    | with_reducible apply kept_leavePort | with_reducible apply kept_failFlushes | simp only [kept_mk] | split)

theorem kept_execLinkDown {z : State} {x0 : Nat} {s : State} (h : Kept z s) :
    KeptNext z (execLinkDown x0 s) := by
  unfold execLinkDown
  try dsimp only
  repeat' (first
    | with_reducible assumption | with_reducible apply keptNext_next | with_reducible apply kept_losePort
    | simp only [kept_mk] | split)

theorem kept_keysReturn {z : State} {x0 : Nat} {s : State} (h : Kept z s) :
    Kept z (keysReturn x0 s) := by
  unfold keysReturn
  try dsimp only
  repeat' (first
    | with_reducible assumption | with_reducible apply kept_pumpHost | with_reducible apply kept_raise
    | with_reducible apply kept_setPort | simp only [kept_mk] | split)

theorem kept_failAttempt {z : State} {x0 : Nat} {s : State} (h : Kept z s) :
    Kept z (failAttempt x0 s) := by
  unfold failAttempt
  try dsimp only
  repeat' (first
    | with_reducible assumption | with_reducible apply kept_setPort | with_reducible apply kept_losePort
    | simp only [kept_mk] | split)

theorem kept_execDetect {z : State} {x0 : Nat} {s : State} (h : Kept z s) :
    KeptNext z (execDetect x0 s) := by
  unfold execDetect
  try dsimp only
  repeat' (first
    | with_reducible assumption | with_reducible apply keptNext_next | with_reducible apply kept_setPort
    | simp only [kept_mk] | split)

theorem kept_execEqualise {z : State} {x0 : Nat} {s : State} (h : Kept z s) :
    KeptNext z (execEqualise x0 s) := by
  unfold execEqualise
  try dsimp only
  repeat' (first
    | with_reducible assumption | with_reducible apply keptNext_next | with_reducible apply kept_setPort
    | simp only [kept_mk] | split)

theorem kept_execAlign {z : State} {x0 : Nat} {x1 : BitVec 5} {x2 : List (Nat × Nat × Nat × Nat)} {s : State}
    (h : Kept z s) :
    KeptNext z (execAlign x0 x1 x2 s) := by
  unfold execAlign
  try dsimp only
  repeat' (first
    | with_reducible assumption | with_reducible apply keptNext_next | with_reducible apply kept_failAttempt
    | with_reducible apply kept_setPort | with_reducible apply kept_raise | simp only [kept_mk] | split)

theorem kept_portUp {z : State} {x0 : Nat} {x1 : Nat} {x2 : Option (Nat × Nat)} {s : State} (h : Kept z s) :
    Kept z (portUp x0 x1 x2 s) := by
  unfold portUp
  try dsimp only
  repeat' (first
    | with_reducible assumption | with_reducible apply kept_raise | with_reducible apply kept_setPort
    | with_reducible apply kept_emit | with_reducible apply kept_finishAll | with_reducible apply kept_pumpHost
    | with_reducible apply kept_pump | simp only [kept_mk] | split)

theorem kept_linkUp {z : State} {x0 : Nat} {x1 : Nat} {x2 : Nat} {x3 : Nat} {x4 : Nat} {s : State} (h : Kept z
    s) :
    Kept z (linkUp x0 x1 x2 x3 x4 s) := by
  unfold linkUp
  try dsimp only
  repeat' (first
    | with_reducible assumption | with_reducible apply kept_failAttempt | with_reducible apply kept_endTakeover
    | with_reducible apply kept_raise | with_reducible apply kept_portUp | simp only [kept_mk] | split)

theorem kept_execTrainingTimeout {z : State} {x0 : Nat} {s : State} (h : Kept z s) :
    KeptNext z (execTrainingTimeout x0 s) := by
  unfold execTrainingTimeout
  try dsimp only
  repeat' (first
    | with_reducible assumption | with_reducible apply keptNext_next | with_reducible apply kept_failAttempt
    | simp only [kept_mk] | split)

theorem kept_startRetrain {z : State} {x0 : Nat} {x1 : Nat} {x2 : Option Nat} {s : State} (h : Kept z s) :
    Kept z (startRetrain x0 x1 x2 s) := by
  unfold startRetrain
  try dsimp only
  repeat' (first
    | with_reducible assumption | with_reducible apply kept_setPort | with_reducible apply kept_raise
    | simp only [kept_mk] | split)

theorem kept_execCodewordLockLost {z : State} {x0 : Nat} {s : State} (h : Kept z s) :
    KeptNext z (execCodewordLockLost x0 s) := by
  unfold execCodewordLockLost
  try dsimp only
  repeat' (first
    | with_reducible assumption | with_reducible apply keptNext_next | with_reducible apply kept_startRetrain)

theorem kept_execRetrainRequest {z : State} {x0 : Nat} {s : State} (h : Kept z s) :
    KeptNext z (execRetrainRequest x0 s) := by
  unfold execRetrainRequest
  try dsimp only
  repeat' (first
    | with_reducible assumption | with_reducible apply keptNext_next | with_reducible apply kept_startRetrain)

theorem kept_execLaneCeLimit {z : State} {x0 : Nat} {x1 : Nat} {s : State} (h : Kept z s) :
    KeptNext z (execLaneCeLimit x0 x1 s) := by
  unfold execLaneCeLimit
  try dsimp only
  repeat' (first
    | with_reducible assumption | with_reducible apply keptNext_next | with_reducible apply kept_startRetrain
    | simp only [kept_mk] | split)

theorem kept_resend {z : State} {x0 : Nat} {s : State} (h : Kept z s) :
    Kept z (resend x0 s) := by
  unfold resend
  try dsimp only
  repeat' (first
    | with_reducible assumption | with_reducible apply kept_emit | simp only [kept_mk] | split
    | with_reducible refine kept_fst (by assumption) ?_ | with_reducible refine kept_foldl ?_ (fun _ _ _ => ?_))

theorem kept_retrainEnds {z : State} {x0 : Nat} {x1 : BitVec 5} {x2 : Nat} {x3 : Nat} {s : State} (h : Kept z
    s) :
    Kept z (retrainEnds x0 x1 x2 x3 s) := by
  unfold retrainEnds
  try dsimp only
  repeat' (first
    | with_reducible assumption | with_reducible apply kept_startRetrain | with_reducible apply kept_setPort
    | with_reducible apply kept_losePort | with_reducible apply kept_raise | with_reducible apply kept_pumpHost
    | with_reducible apply kept_pump | with_reducible apply kept_resend | simp only [kept_mk] | split)

theorem kept_sendPlain {z : State} {x0 : Nat} {x1 : Nat} {s : State} (h : Kept z s) :
    Kept z (sendPlain x0 x1 s) := by
  unfold sendPlain
  try dsimp only
  repeat' (first
    | with_reducible assumption | with_reducible apply kept_draw | with_reducible apply kept_emit)

theorem kept_sendNak {z : State} {x0 : Nat} {s : State} (h : Kept z s) :
    Kept z (sendNak x0 s) := by
  unfold sendNak
  try dsimp only
  repeat' (first
    | with_reducible assumption | with_reducible apply kept_sendPlain | with_reducible apply kept_setPort
    | simp only [kept_mk] | split)

theorem kept_dropAck {z : State} {x0 : Nat} {x1 : Nat} {s : State} (h : Kept z s) :
    Kept z (dropAck x0 x1 s) := by
  unfold dropAck
  try dsimp only
  repeat' (first
    | with_reducible assumption | with_reducible apply kept_setPort)

theorem kept_takeAck {z : State} {x0 : Nat} {x1 : Nat} {s : State} (h : Kept z s) :
    Kept z (takeAck x0 x1 s) := by
  unfold takeAck
  try dsimp only
  repeat' (first
    | with_reducible assumption | with_reducible apply kept_pump | with_reducible apply kept_dropAck)

theorem kept_countFec {z : State} {x0 : Nat} {x1 : List Nat} {x2 : Nat} {s : State} (h : Kept z s) :
    Kept z (countFec x0 x1 x2 s) := by
  unfold countFec
  try dsimp only
  repeat' (first
    | with_reducible assumption | with_reducible apply kept_setPort)

theorem kept_badFlit {z : State} {x0 : Nat} {s : State} (h : Kept z s) :
    Kept z (badFlit x0 s) := by
  unfold badFlit
  try dsimp only
  repeat' (first
    | with_reducible assumption | with_reducible apply kept_sendNak | with_reducible apply kept_setPort)

theorem kept_execIdleFlit {z : State} {x0 : Nat} {x1 : List Byte} {x2 : List Nat} {x3 : Nat} {s : State} (h :
    Kept z s) :
    KeptNext z (execIdleFlit x0 x1 x2 x3 s) := by
  unfold execIdleFlit
  try dsimp only
  repeat' (first
    | with_reducible assumption | with_reducible apply keptNext_next | with_reducible apply kept_countFec
    | with_reducible apply kept_takeAck | with_reducible apply kept_badFlit | simp only [kept_mk] | split)

theorem kept_execNak {z : State} {x0 : Nat} {x1 : List Byte} {x2 : List Nat} {x3 : Nat} {s : State} (h : Kept
    z s) :
    KeptNext z (execNak x0 x1 x2 x3 s) := by
  unfold execNak
  try dsimp only
  repeat' (first
    | with_reducible assumption | with_reducible apply keptNext_next | with_reducible apply kept_countFec
    | with_reducible apply kept_badFlit | with_reducible apply kept_dropAck | with_reducible apply kept_setPort
    | with_reducible apply kept_startRetrain | with_reducible apply kept_pump | with_reducible apply kept_resend
    | simp only [kept_mk] | split)

theorem kept_execNakHoldoffExpiry {z : State} {x0 : Nat} {s : State} (h : Kept z s) :
    KeptNext z (execNakHoldoffExpiry x0 s) := by
  unfold execNakHoldoffExpiry
  try dsimp only
  repeat' (first
    | with_reducible assumption | with_reducible apply keptNext_next | with_reducible apply kept_passNow
    | with_reducible apply kept_setPort | simp only [kept_mk] | split)

theorem kept_execAckFlitInterval {z : State} {x0 : Nat} {s : State} (h : Kept z s) :
    KeptNext z (execAckFlitInterval x0 s) := by
  unfold execAckFlitInterval
  try dsimp only
  repeat' (first
    | with_reducible assumption | with_reducible apply keptNext_next | with_reducible apply kept_sendPlain
    | simp only [kept_mk] | split)

theorem kept_malformed {z : State} {x0 : Nat} {s : State} (h : Kept z s) :
    Kept z (malformed x0 s) := by
  unfold malformed
  try dsimp only
  repeat' (first
    | with_reducible assumption | with_reducible apply kept_losePort | with_reducible apply kept_raise)

theorem kept_execCrd {z : State} {x0 : Nat} {x1 : Nat} {x2 : Nat} {s : State} (h : Kept z s) :
    KeptNext z (execCrd x0 x1 x2 s) := by
  unfold execCrd
  try dsimp only
  repeat' (first
    | with_reducible assumption | with_reducible apply keptNext_next | with_reducible apply kept_pump
    | with_reducible apply kept_setPort | with_reducible apply kept_malformed | simp only [kept_mk] | split)

theorem kept_returnCredits {z : State} {x0 : Nat} {x1 : Option Nat} {x2 : Nat} {s : State} (h : Kept z s) :
    Kept z (returnCredits x0 x1 x2 s) := by
  unfold returnCredits
  try dsimp only
  repeat' (first
    | with_reducible assumption | with_reducible apply kept_sendTxn | simp only [kept_mk] | split)

theorem kept_execCreditStall {z : State} {x0 : Nat} {s : State} (h : Kept z s) :
    KeptNext z (execCreditStall x0 s) := by
  unfold execCreditStall
  try dsimp only
  repeat' (first
    | with_reducible assumption | with_reducible apply keptNext_next | with_reducible apply kept_losePort
    | with_reducible apply kept_raise | with_reducible apply kept_passNow | simp only [kept_mk] | split)

theorem kept_windowBell {z : State} {x0 : Nat} {x1 : Nat} {x2 : Nat} {s : State} (h : Kept z s) :
    Kept z (windowBell x0 x1 x2 s) := by
  unfold windowBell
  try dsimp only
  repeat' (first
    | with_reducible assumption | with_reducible apply kept_raise | with_reducible apply kept_setWinQ
    | simp only [kept_mk] | split)

theorem kept_winWrite {z : State} {x0 : Nat} {x1 : Nat} {x2 : List Byte} {s : State} (h : Kept z s) :
    Kept z (winWrite x0 x1 x2 s) := by
  unfold winWrite
  try dsimp only
  repeat' (first
    | with_reducible assumption | with_reducible apply kept_malformed | with_reducible apply kept_raise
    | with_reducible apply kept_windowBell | with_reducible apply kept_setPort | simp only [kept_mk] | split)

theorem kept_execWinWr {z : State} {x0 : Nat} {x1 : Nat} {x2 : List Byte} {s : State} (h : Kept z s) :
    KeptNext z (execWinWr x0 x1 x2 s) := by
  unfold execWinWr
  try dsimp only
  repeat' (first
    | with_reducible assumption | with_reducible apply keptNext_next | with_reducible apply kept_returnCredits
    | with_reducible apply kept_winWrite)

theorem kept_execWindowDoorbell {z : State} {x0 : Nat} {x1 : Nat} {x2 : Word64} {s : State} (h : Kept z s) :
    KeptNext z (execWindowDoorbell x0 x1 x2 s) := by
  unfold execWindowDoorbell
  try dsimp only
  repeat' (first
    | with_reducible assumption | with_reducible apply keptNext_next | with_reducible apply kept_returnCredits
    | with_reducible apply kept_windowBell | simp only [kept_mk] | split)

theorem kept_takeSlot {z : State} {x0 : Nat} {x1 : Nat} {x2 : List Byte} {s : State} (h : Kept z s) :
    Kept z (takeSlot x0 x1 x2 s) := by
  unfold takeSlot
  try dsimp only
  repeat' (first
    | with_reducible assumption | with_reducible apply kept_setWinQ | with_reducible apply kept_ringBell
    | with_reducible apply kept_setMb | with_reducible apply kept_recordArises | simp only [kept_mk] | split)

theorem kept_staleSlot {z : State} {x0 : Nat} {x1 : Nat} {x2 : List Byte} {s : State} (h : Kept z s) :
    Kept z (staleSlot x0 x1 x2 s) := by
  unfold staleSlot
  try dsimp only
  repeat' (first
    | with_reducible assumption | with_reducible apply kept_setWinQ | with_reducible apply kept_recordArises
    | with_reducible apply kept_raise)

theorem kept_readSlot {z : State} {x0 : Nat} {x1 : Nat} {s : State} (h : Kept z s) :
    Kept z (readSlot x0 x1 s) := by
  unfold readSlot
  try dsimp only
  repeat' (first
    | with_reducible assumption | with_reducible apply kept_takeSlot | with_reducible apply kept_staleSlot
    | with_reducible apply kept_setWinQ | simp only [kept_mk] | split)

theorem kept_execSlotRead {z : State} {x0 : Nat} {x1 : Nat} {s : State} (h : Kept z s) :
    KeptNext z (execSlotRead x0 x1 s) := by
  unfold execSlotRead
  try dsimp only
  repeat' (first
    | with_reducible assumption | with_reducible apply keptNext_next | with_reducible apply kept_readSlot
    | simp only [kept_mk] | split)

theorem kept_execSlotReread {z : State} {x0 : Nat} {x1 : Nat} {s : State} (h : Kept z s) :
    KeptNext z (execSlotReread x0 x1 s) := by
  unfold execSlotReread
  try dsimp only
  repeat' (first
    | with_reducible assumption | with_reducible apply keptNext_next | with_reducible apply kept_readSlot
    | with_reducible apply kept_pass | simp only [kept_mk] | split)

theorem kept_beginMove {z : State} {x0 : Nat} {x1 : Nat} {x2 : Nat} {x3 : WinCmd} {s : State} (h : Kept z s) :
    Kept z (beginMove x0 x1 x2 x3 s) := by
  unfold beginMove
  try dsimp only
  repeat' (first
    | with_reducible assumption | with_reducible apply kept_recordArises
    | with_reducible apply kept_checkedAgain | with_reducible apply kept_fetchRun
    | with_reducible apply kept_setWinCmd | with_reducible apply kept_refusePage
    | with_reducible apply kept_workFault | simp only [kept_mk] | split)

theorem kept_moveBytes {z : State} {x0 : Nat} {x1 : Nat} {x2 : WinCmd} {s : State} (h : Kept z s) :
    Kept z (moveBytes x0 x1 x2 s) := by
  unfold moveBytes
  try dsimp only
  repeat' (first
    | with_reducible assumption | with_reducible apply kept_readRun | with_reducible apply kept_setWinCmd
    | with_reducible apply kept_setBuf | with_reducible apply kept_poisonRun
    | with_reducible apply kept_writeRun | with_reducible apply kept_settleWin | simp only [kept_mk] | split)

theorem kept_moveCommand {z : State} {x0 : Nat} {x1 : Nat} {x2 : Nat} {x3 : Nat} {x4 : Nat} {s : State} (h :
    Kept z s) :
    Kept z (moveCommand x0 x1 x2 x3 x4 s) := by
  unfold moveCommand
  try dsimp only
  repeat' (first
    | with_reducible assumption | with_reducible apply kept_beginMove | with_reducible apply kept_recordArises
    | with_reducible apply kept_setBuf | with_reducible apply kept_moveBytes
    | with_reducible apply kept_settleWin | simp only [kept_mk] | split)

theorem kept_execPull {z : State} {x0 : Nat} {x1 : Nat} {x2 : MoveOn} {s : State} (h : Kept z s) :
    KeptNext z (execPull x0 x1 x2 s) := by
  unfold execPull
  try dsimp only
  repeat' (first
    | with_reducible assumption | with_reducible apply keptNext_next | with_reducible apply kept_moveCommand)

theorem kept_execPush {z : State} {x0 : Nat} {x1 : Nat} {x2 : MoveOn} {s : State} (h : Kept z s) :
    KeptNext z (execPush x0 x1 x2 s) := by
  unfold execPush
  try dsimp only
  repeat' (first
    | with_reducible assumption | with_reducible apply keptNext_next | with_reducible apply kept_moveCommand)

theorem kept_execFlush {z : State} {x0 : Nat} {x1 : Nat} {x2 : Nat} {s : State} (h : Kept z s) :
    KeptNext z (execFlush x0 x1 x2 s) := by
  unfold execFlush
  try dsimp only
  repeat' (first
    | with_reducible assumption | with_reducible apply keptNext_next | with_reducible apply kept_startFlush
    | with_reducible apply kept_setWinCmd | simp only [kept_mk] | split)

theorem kept_execNop {z : State} {x0 : Nat} {x1 : Nat} {x2 : Nat} {s : State} (h : Kept z s) :
    KeptNext z (execNop x0 x1 x2 s) := by
  unfold execNop
  try dsimp only
  repeat' (first
    | with_reducible assumption | with_reducible apply keptNext_next | with_reducible apply kept_recordArises
    | with_reducible apply kept_setWinCmd | simp only [kept_mk] | split)

theorem kept_recordRefused {z : State} {s : State} {x1 : Nat} {x2 : Nat} {x3 : Nat} (h : Kept z s) :
    Kept z (recordRefused s x1 x2 x3) := by
  unfold recordRefused
  try dsimp only
  repeat' (first
    | with_reducible assumption | with_reducible apply kept_refusePage | simp only [kept_mk] | split)

theorem kept_placeRsp {z : State} {x0 : Nat} {x1 : Nat} {x2 : Nat} {x3 : Nat} {s : State} (h : Kept z s) :
    Kept z (placeRsp x0 x1 x2 x3 s) := by
  unfold placeRsp
  try dsimp only
  repeat' (first
    | with_reducible assumption | with_reducible apply kept_sendTxn)

theorem kept_afterPlace {z : State} {x0 : Nat} {x1 : Nat} {x2 : Nat} {s : State} (h : Kept z s) :
    Kept z (afterPlace x0 x1 x2 s) := by
  unfold afterPlace
  try dsimp only
  repeat' (first
    | with_reducible assumption | with_reducible apply kept_serveRequest
    | with_reducible apply kept_checkLanding | simp only [kept_mk] | split)

theorem kept_badPlace {z : State} {x0 : Nat} {s : State} (h : Kept z s) :
    Kept z (badPlace x0 s) := by
  unfold badPlace
  try dsimp only
  repeat' (first
    | with_reducible assumption | with_reducible apply kept_parityEvent | with_reducible apply kept_poisonBlock
    | simp only [kept_mk] | split)

theorem kept_placeNow {z : State} {x0 : Nat} {x1 : Nat} {x2 : Nat} {x3 : Nat} {x4 : Bool} {x5 : Option Nat}
    {x6 : List Byte} {s : State} (h : Kept z s) :
    Kept z (placeNow x0 x1 x2 x3 x4 x5 x6 s) := by
  unfold placeNow
  try dsimp only
  repeat' (first
    | with_reducible assumption | with_reducible apply kept_writeMem | with_reducible apply kept_badPlace
    | with_reducible apply kept_afterPlace | with_reducible apply kept_placeRsp
    | with_reducible apply kept_raise | with_reducible apply kept_recordRefused | simp only [kept_mk] | split)

theorem kept_place {z : State} {x0 : Nat} {x1 : Nat} {x2 : Nat} {x3 : Nat} {x4 : Bool} {x5 : Option Nat} {x6 :
    List Byte} {s : State} (h : Kept z s) :
    Kept z (place x0 x1 x2 x3 x4 x5 x6 s) := by
  unfold place
  try dsimp only
  repeat' (first
    | with_reducible assumption | with_reducible apply kept_malformed | with_reducible apply kept_placeNow
    | simp only [kept_mk] | split)

theorem kept_retryPlaces {z : State} {s : State} (h : Kept z s) :
    Kept z (retryPlaces s) := by
  unfold retryPlaces
  try dsimp only
  repeat' (first
    | with_reducible assumption | with_reducible apply kept_placeNow | simp only [kept_mk] | split
    | with_reducible refine kept_fst (by assumption) ?_ | with_reducible refine kept_foldl ?_ (fun _ _ _ => ?_))

theorem kept_execPlace {z : State} {x0 : Nat} {x1 : Nat} {x2 : Nat} {x3 : Nat} {x4 : Bool} {x5 : Option Nat}
    {x6 : List Byte} {s : State} (h : Kept z s) :
    KeptNext z (execPlace x0 x1 x2 x3 x4 x5 x6 s) := by
  unfold execPlace
  try dsimp only
  repeat' (first
    | with_reducible assumption | with_reducible apply keptNext_next | with_reducible apply kept_returnCredits
    | with_reducible apply kept_place)

end Sys2Proof.Machine
end

