-- ==== Sys2Proof/Laws/KeptChannels.lean ====
section
/-! SUPPORT. `Kept` of each operation and command of Machine/Channels.lean. -/

set_option maxRecDepth 8000

namespace Sys2Proof.Machine

theorem kept_channelsServe {z : State} {s : State} (h : Kept z s) :
    Kept z (channelsServe s) := by
  unfold channelsServe
  try dsimp only
  repeat' (first
    | with_reducible assumption | with_reducible apply kept_retryPlaces | with_reducible apply kept_retryRing
    | with_reducible apply kept_releaseTracked)

theorem kept_execPrimaryCalibration {z : State} {x0 : Nat} {s : State} (h : Kept z s) :
    KeptNext z (execPrimaryCalibration x0 s) := by
  unfold execPrimaryCalibration
  try dsimp only
  repeat' (first
    | with_reducible assumption | with_reducible apply keptNext_next | with_reducible apply kept_setChan
    | with_reducible apply kept_channelsServe | with_reducible apply kept_endFallback | simp only [kept_mk]
    | split)

theorem kept_execChannelLost {z : State} {x0 : Nat} {s : State} (h : Kept z s) :
    KeptNext z (execChannelLost x0 s) := by
  unfold execChannelLost
  try dsimp only
  repeat' (first
    | with_reducible assumption | with_reducible apply keptNext_next | with_reducible apply kept_setWc
    | with_reducible apply kept_setChan | with_reducible apply kept_failModule | with_reducible apply kept_raise
    | with_reducible apply kept_channelsServe | simp only [kept_mk] | split)

theorem kept_execMarginScanDone {z : State} {x0 : Nat} {x1 : Nat} {x2 : Nat} {x3 : Nat} {s : State} (h : Kept
    z s) :
    KeptNext z (execMarginScanDone x0 x1 x2 x3 s) := by
  unfold execMarginScanDone
  try dsimp only
  repeat' (first
    | with_reducible assumption | with_reducible apply keptNext_next | with_reducible apply kept_marginVerdict
    | with_reducible apply kept_marginLow | with_reducible apply kept_complete
    | with_reducible apply kept_channelsServe | with_reducible apply kept_nextScan | simp only [kept_mk] | split)

end Sys2Proof.Machine
end

