-- ==== Sys2Proof/Laws/KeptSecurity.lean ====
section
/-! SUPPORT. `Kept` of each operation and command of Machine/Security.lean. -/

set_option maxRecDepth 8000

namespace Sys2Proof.Machine

theorem kept_openBank {z : State} {x0 : Nat} {x1 : Bool} {s : State} (h : Kept z s) :
    Kept z (openBank x0 x1 s) := by
  unfold openBank
  try dsimp only
  repeat' (first
    | with_reducible assumption | simp only [kept_mk] | split)

theorem kept_tryBanks {z : State} {x0 : Nat} {x1 : List Bool} {s : State} (h : Kept z s) :
    Kept z (tryBanks x0 x1 s) := by
  induction x1 generalizing x0 s with
  | nil =>
    unfold tryBanks
    try dsimp only
    repeat' (with_reducible assumption)
  | cons x r ih =>
    unfold tryBanks
    try dsimp only
    repeat' (first
      | with_reducible assumption | with_reducible apply ih | with_reducible apply kept_openBank
      | with_reducible apply kept_raise | simp only [kept_mk] | split)

theorem kept_deriveIdentity {z : State} {s : State} (h : Kept z s) :
    Kept z (deriveIdentity s) := by
  unfold deriveIdentity
  try dsimp only
  repeat' (first
    | with_reducible assumption | simp only [kept_mk])

theorem kept_bootCheck {z : State} {s : State} (h : Kept z s) :
    Kept z (bootCheck s) := by
  unfold bootCheck
  try dsimp only
  repeat' (first
    | with_reducible assumption | with_reducible apply kept_tryBanks | with_reducible apply kept_deriveIdentity
    | simp only [kept_mk])

theorem kept_checkIdentity {z : State} {s : State} (h : Kept z s) :
    Kept z (checkIdentity s) := by
  unfold checkIdentity
  try dsimp only
  repeat' (first
    | with_reducible assumption | with_reducible apply kept_raise | simp only [kept_mk] | split)

theorem kept_execGetCert {z : State} {x0 : Nat} {s : State} (h : Kept z s) :
    KeptNext z (execGetCert x0 s) := by
  unfold execGetCert
  try dsimp only
  repeat' (first
    | with_reducible assumption | with_reducible apply keptNext_next
    | with_reducible refine kept_mbCommand (fun _ _ _ => ?_) ?_ | with_reducible apply kept_complete)

theorem kept_execAttest {z : State} {x0 : Nat} {s : State} (h : Kept z s) :
    KeptNext z (execAttest x0 s) := by
  unfold execAttest
  try dsimp only
  repeat' (first
    | with_reducible assumption | with_reducible apply keptNext_next
    | with_reducible refine kept_mbCommand (fun _ _ _ => ?_) ?_ | with_reducible apply kept_finish
    | with_reducible apply kept_draw | with_reducible apply kept_complete | simp only [kept_mk] | split)

theorem kept_execFwWrite {z : State} {x0 : Nat} {s : State} (h : Kept z s) :
    KeptNext z (execFwWrite x0 s) := by
  unfold execFwWrite
  try dsimp only
  repeat' (first
    | with_reducible assumption | with_reducible apply keptNext_next
    | with_reducible refine kept_mbCommand (fun _ _ _ => ?_) ?_ | with_reducible apply kept_finish
    | simp only [kept_mk] | split)

theorem kept_setBank {z : State} {x0 : Nat} {x1 : SMap Byte} {s : State} (h : Kept z s) :
    Kept z (setBank x0 x1 s) := by
  unfold setBank
  try dsimp only
  repeat' (first
    | with_reducible assumption | simp only [kept_mk])

theorem kept_commitFails {z : State} {x0 : Nat} {x1 : Nat} {x2 : Nat} {x3 : Nat} {s : State} (h : Kept z s) :
    Kept z (commitFails x0 x1 x2 x3 s) := by
  unfold commitFails
  try dsimp only
  repeat' (first
    | with_reducible assumption | with_reducible apply kept_finish | with_reducible apply kept_raise)

theorem kept_beginCommit {z : State} {x0 : Nat} {x1 : Nat} {s : State} (h : Kept z s) :
    Kept z (beginCommit x0 x1 s) := by
  unfold beginCommit
  try dsimp only
  repeat' (first
    | with_reducible assumption | with_reducible apply kept_commitFails | with_reducible apply kept_await
    | with_reducible apply kept_setBank | simp only [kept_mk] | split)

theorem kept_endCommit {z : State} {x0 : Nat} {x1 : Nat} {x2 : Bool} {s : State} (h : Kept z s) :
    Kept z (endCommit x0 x1 x2 s) := by
  unfold endCommit
  try dsimp only
  repeat' (first
    | with_reducible assumption | with_reducible apply kept_commitFails | with_reducible apply kept_setBank
    | with_reducible apply kept_finish | with_reducible apply kept_raise | simp only [kept_mk] | split)

theorem kept_execFwCommit {z : State} {x0 : Nat} {x1 : Bool} {s : State} (h : Kept z s) :
    KeptNext z (execFwCommit x0 x1 s) := by
  unfold execFwCommit
  try dsimp only
  repeat' (first
    | with_reducible assumption | with_reducible apply keptNext_next
    | with_reducible refine kept_mbCommand (fun _ _ _ => ?_) ?_ | with_reducible apply kept_endCommit
    | with_reducible apply kept_beginCommit | simp only [kept_mk] | split)

theorem kept_setFuses {z : State} {x0 x1 : Nat} {s : State} (h : Kept z s) (hv : look 0 s.flash.rollback x0 ≤ x1) :
    Kept z (setFuses x0 x1 s) := by
  obtain ⟨h1, h2, h3, h4, h5, h6, h7⟩ := h
  refine ⟨h1, h2, h3, h4, fun k => ?_, h6, h7⟩
  simp only [setFuses, look_put]
  split
  · subst_vars
    exact le_trans (h5 _) hv
  · exact h5 k

theorem kept_execRollbackRaised {z : State} {x0 : Nat} {s : State} (h : Kept z s) :
    KeptNext z (execRollbackRaised x0 s) := by
  apply keptNext_next
  split
  · rename_i hv
    simp only [fusesDue, Bool.and_eq_true, decide_eq_true_eq] at hv
    exact kept_raise (kept_setFuses h (le_of_lt hv.2))
  · exact h

theorem kept_cutFuses {z : State} {x0 : Nat} {s : State} (h : Kept z s) : Kept z (cutFuses x0 s) := by
  unfold cutFuses
  split
  · exact kept_setFuses (kept_draw h) (Nat.le_add_right _ _)
  · exact h

end Sys2Proof.Machine
end

