-- ==== Sys2Proof/Laws/KeptHarbour.lean ====
section
/-! SUPPORT. `Kept` of each operation and command of Machine/Harbour.lean. -/

set_option maxRecDepth 8000

namespace Sys2Proof.Machine

theorem kept_execMailboxDoorbell {z : State} {x0 : Nat} {s : State} (h : Kept z s) :
    KeptNext z (execMailboxDoorbell x0 s) := by
  unfold execMailboxDoorbell
  try dsimp only
  repeat' (first
    | with_reducible assumption | with_reducible apply keptNext_next | with_reducible apply kept_ringBell
    | simp only [kept_mk] | split)

theorem kept_execMailboxAck {z : State} {x0 : Nat} {s : State} (h : Kept z s) :
    KeptNext z (execMailboxAck x0 s) := by
  unfold execMailboxAck
  try dsimp only
  repeat' (first
    | with_reducible assumption | with_reducible apply keptNext_next | with_reducible apply kept_ackBox
    | simp only [kept_mk] | split)

theorem kept_i3cByte {z : State} {x0 : Nat} {x1 : Byte} {s : State} (h : Kept z s) :
    Kept z (i3cByte x0 x1 s) := by
  unfold i3cByte
  try dsimp only
  repeat' (first
    | with_reducible assumption | with_reducible apply kept_writeBox | with_reducible apply kept_ringBell
    | with_reducible apply kept_ackBox | simp only [kept_mk] | split)

theorem kept_execI3cPrivateWrite {z : State} {x0 : List Byte} {s : State} (h : Kept z s) :
    KeptNext z (execI3cPrivateWrite x0 s) := by
  unfold execI3cPrivateWrite
  try dsimp only
  repeat' (first
    | with_reducible assumption | with_reducible apply keptNext_next | with_reducible apply kept_raise
    | with_reducible apply kept_i3cByte | simp only [kept_mk] | split
    | with_reducible refine kept_fst (by assumption) ?_ | with_reducible refine kept_foldl ?_ (fun _ _ _ => ?_))

theorem kept_execEntdaa {z : State} {x0 : Nat} {s : State} (h : Kept z s) :
    KeptNext z (execEntdaa x0 s) := by
  unfold execEntdaa
  try dsimp only
  repeat' (first
    | with_reducible assumption | with_reducible apply keptNext_next | simp only [kept_mk] | split)

theorem kept_execSetdasa {z : State} {x0 : Nat} {x1 : Nat} {s : State} (h : Kept z s) :
    KeptNext z (execSetdasa x0 x1 s) := by
  unfold execSetdasa
  try dsimp only
  repeat' (first
    | with_reducible assumption | with_reducible apply keptNext_next | simp only [kept_mk] | split)

theorem kept_timeoutRegion {z : State} {s : State} (h : Kept z s) :
    Kept z (timeoutRegion s) := by
  unfold timeoutRegion
  try dsimp only
  repeat' (first
    | with_reducible assumption | with_reducible apply kept_setEntry | with_reducible apply kept_setTag
    | with_reducible apply kept_afterPage | with_reducible apply kept_finishRgn | simp only [kept_mk] | split)

theorem kept_dropScan {z : State} {x0 : Nat} {s : State} (h : Kept z s) :
    Kept z (dropScan x0 s) := by
  unfold dropScan
  try dsimp only
  repeat' (first
    | with_reducible assumption | simp only [kept_mk])

theorem kept_abandonTakeover {z : State} {s : State} (h : Kept z s) :
    Kept z (abandonTakeover s) := by
  unfold abandonTakeover
  try dsimp only
  repeat' (first
    | with_reducible assumption | with_reducible apply kept_raise | with_reducible apply kept_setPort
    | simp only [kept_mk] | split | with_reducible refine kept_fst (by assumption) ?_
    | with_reducible refine kept_foldl ?_ (fun _ _ _ => ?_))

theorem kept_dropFetch {z : State} {x0 : Nat} {s : State} (h : Kept z s) :
    Kept z (dropFetch x0 s) := by
  unfold dropFetch
  try dsimp only
  repeat' (first
    | with_reducible assumption | simp only [kept_mk])

theorem kept_abandon {z : State} {x0 : Nat} {x1 : MbWait} {s : State} (h : Kept z s) :
    Kept z (abandon x0 x1 s) := by
  unfold abandon
  try dsimp only
  repeat' (first
    | with_reducible assumption | with_reducible apply kept_abandonForm
    | with_reducible apply kept_abandonTakeover | with_reducible apply kept_dropFetch
    | with_reducible apply kept_raise | with_reducible apply kept_dropScan | simp only [kept_mk] | split)

theorem kept_timeoutBox {z : State} {x0 : Nat} {s : State} (h : Kept z s) :
    Kept z (timeoutBox x0 s) := by
  unfold timeoutBox
  try dsimp only
  repeat' (first
    | with_reducible assumption | with_reducible apply kept_timedOut | with_reducible apply kept_passNow
    | with_reducible apply kept_timeoutRegion | with_reducible apply kept_finish
    | with_reducible apply kept_abandon | simp only [kept_mk] | split)

theorem kept_execCommandTimeout {z : State} {x0 : Via} {s : State} (h : Kept z s) :
    KeptNext z (execCommandTimeout x0 s) := by
  unfold execCommandTimeout
  try dsimp only
  repeat' (first
    | with_reducible assumption | with_reducible apply keptNext_next | with_reducible apply kept_timeoutBox
    | with_reducible apply kept_timeoutRegion | with_reducible apply kept_timedOut
    | with_reducible apply kept_passNow | simp only [kept_mk] | split)

theorem kept_execGetInfo {z : State} {x0 : Nat} {s : State} (h : Kept z s) :
    KeptNext z (execGetInfo x0 s) := by
  unfold execGetInfo
  try dsimp only
  repeat' (first
    | with_reducible assumption | with_reducible apply keptNext_next
    | with_reducible refine kept_mbCommand (fun _ _ _ => ?_) ?_ | with_reducible apply kept_complete)

theorem kept_execGetState {z : State} {x0 : Nat} {s : State} (h : Kept z s) :
    KeptNext z (execGetState x0 s) := by
  unfold execGetState
  try dsimp only
  repeat' (first
    | with_reducible assumption | with_reducible apply keptNext_next
    | with_reducible refine kept_mbCommand (fun _ _ _ => ?_) ?_ | with_reducible apply kept_complete)

theorem kept_applyKey {z : State} {x0 : Nat} {x1 : Nat} {s : State} (h : Kept z s) :
    Kept z (applyKey x0 x1 s) := by
  unfold applyKey
  try dsimp only
  repeat' (first
    | with_reducible assumption | with_reducible apply kept_raise | simp only [kept_mk])

theorem kept_execConfigSet {z : State} {x0 : Nat} {s : State} (h : Kept z s) :
    KeptNext z (execConfigSet x0 s) := by
  unfold execConfigSet
  try dsimp only
  repeat' (first
    | with_reducible assumption | with_reducible apply keptNext_next
    | with_reducible refine kept_mbCommand (fun _ _ _ => ?_) ?_ | with_reducible apply kept_finish
    | with_reducible apply kept_applyKey | with_reducible apply kept_raise | simp only [kept_mk] | split)

theorem kept_closeWindow {z : State} {s : State} (h : Kept z s) :
    Kept z (closeWindow s) := by
  unfold closeWindow
  try dsimp only
  repeat' (first
    | with_reducible assumption | simp only [kept_mk])

theorem kept_execConfigDone {z : State} {x0 : Nat} {s : State} (h : Kept z s) :
    KeptNext z (execConfigDone x0 s) := by
  unfold execConfigDone
  try dsimp only
  repeat' (first
    | with_reducible assumption | with_reducible apply keptNext_next
    | with_reducible refine kept_mbCommand (fun _ _ _ => ?_) ?_ | with_reducible apply kept_finish
    | with_reducible apply kept_closeWindow)

theorem kept_execShutdown {z : State} {x0 : Nat} {s : State} (h : Kept z s) :
    KeptNext z (execShutdown x0 s) := by
  unfold execShutdown
  try dsimp only
  repeat' (first
    | with_reducible assumption | with_reducible apply keptNext_next
    | with_reducible refine kept_mbCommand (fun _ _ _ => ?_) ?_ | with_reducible apply kept_await
    | with_reducible apply kept_stopFunctions | simp only [kept_mk])

theorem kept_reboot {z : State} {s : State} (h : Kept z s) : Kept z (reboot s) := by
  obtain ⟨h1, h2, h3, h4, h5, -⟩ := kept_setMode (x0 := .boot) h
  unfold reboot
  simp only
  generalize setMode .boot s = t at h1 h2 h3 h4 h5 ⊢
  simp only [kept_mk]
  refine kept_foldl (kept_foldl ?_ fun _ _ g => kept_setChan g) fun _ _ g => kept_setPort g
  exact ⟨h1, h2, h3, h4, h5, rfl, rfl⟩

theorem kept_execReset {z : State} {x0 : Nat} {s : State} (h : Kept z s) :
    KeptNext z (execReset x0 s) := by
  unfold execReset
  try dsimp only
  repeat' (first
    | with_reducible assumption | with_reducible apply keptNext_next
    | with_reducible refine kept_mbCommand (fun _ _ _ => ?_) ?_ | with_reducible apply kept_reboot
    | with_reducible apply kept_finish)

theorem kept_startFunction {z : State} {x0 : Nat} {s : State} (h : Kept z s) :
    Kept z (startFunction x0 s) := by
  unfold startFunction
  try dsimp only
  repeat' (first
    | with_reducible assumption | with_reducible apply kept_setFunc | with_reducible apply kept_setPort
    | simp only [kept_mk] | split)

theorem kept_execFuncStart {z : State} {x0 : Nat} {s : State} (h : Kept z s) :
    KeptNext z (execFuncStart x0 s) := by
  unfold execFuncStart
  try dsimp only
  repeat' (first
    | with_reducible assumption | with_reducible apply keptNext_next
    | with_reducible refine kept_mbCommand (fun _ _ _ => ?_) ?_ | with_reducible apply kept_startFunction
    | with_reducible apply kept_await | with_reducible apply kept_finish | simp only [kept_mk] | split)

theorem kept_stopRequest {z : State} {x0 : Nat} {s : State} (h : Kept z s) :
    Kept z (stopRequest x0 s) := by
  unfold stopRequest
  try dsimp only
  repeat' (first
    | with_reducible assumption | with_reducible apply kept_enterStopping
    | with_reducible apply kept_stopFunction | with_reducible apply kept_losePort | simp only [kept_mk] | split)

theorem kept_execFuncStop {z : State} {x0 : Nat} {s : State} (h : Kept z s) :
    KeptNext z (execFuncStop x0 s) := by
  unfold execFuncStop
  try dsimp only
  repeat' (first
    | with_reducible assumption | with_reducible apply keptNext_next
    | with_reducible refine kept_mbCommand (fun _ _ _ => ?_) ?_ | with_reducible apply kept_finish
    | with_reducible apply kept_stopRequest | with_reducible apply kept_await | simp only [kept_mk] | split)

theorem kept_execFunctionRunning {z : State} {x0 : Nat} {s : State} (h : Kept z s) :
    KeptNext z (execFunctionRunning x0 s) := by
  unfold execFunctionRunning
  try dsimp only
  repeat' (first
    | with_reducible assumption | with_reducible apply keptNext_next | with_reducible apply kept_setFunc
    | with_reducible apply kept_finishAll | with_reducible apply kept_startReader | simp only [kept_mk] | split)

theorem kept_execFunctionStopped {z : State} {x0 : Nat} {s : State} (h : Kept z s) :
    KeptNext z (execFunctionStopped x0 s) := by
  unfold execFunctionStopped
  try dsimp only
  repeat' (first
    | with_reducible assumption | with_reducible apply keptNext_next | with_reducible apply kept_stopTimetable
    | with_reducible apply kept_losePort | with_reducible apply kept_setFunc | with_reducible apply kept_setPort
    | with_reducible apply kept_finishAll | simp only [kept_mk] | split)

theorem kept_execHostRegister {z : State} {x0 : Nat} {s : State} (h : Kept z s) :
    KeptNext z (execHostRegister x0 s) := by
  unfold execHostRegister
  try dsimp only
  repeat' (first
    | with_reducible assumption | with_reducible apply keptNext_next
    | with_reducible refine kept_mbCommand (fun _ _ _ => ?_) ?_ | with_reducible apply kept_finish
    | with_reducible apply kept_complete | with_reducible apply kept_drawn | simp only [kept_mk] | split)

theorem kept_execHostRelease {z : State} {x0 : Nat} {s : State} (h : Kept z s) :
    KeptNext z (execHostRelease x0 s) := by
  unfold execHostRelease
  try dsimp only
  repeat' (first
    | with_reducible assumption | with_reducible apply keptNext_next
    | with_reducible refine kept_mbCommand (fun _ _ _ => ?_) ?_ | with_reducible apply kept_finish
    | simp only [kept_mk] | split)

theorem kept_execPlaceRegister {z : State} {x0 : Nat} {s : State} (h : Kept z s) :
    KeptNext z (execPlaceRegister x0 s) := by
  unfold execPlaceRegister
  try dsimp only
  repeat' (first
    | with_reducible assumption | with_reducible apply keptNext_next
    | with_reducible refine kept_mbCommand (fun _ _ _ => ?_) ?_ | with_reducible apply kept_finish
    | with_reducible apply kept_complete | simp only [kept_mk] | split)

theorem kept_execPlaceRelease {z : State} {x0 : Nat} {s : State} (h : Kept z s) :
    KeptNext z (execPlaceRelease x0 s) := by
  unfold execPlaceRelease
  try dsimp only
  repeat' (first
    | with_reducible assumption | with_reducible apply keptNext_next
    | with_reducible refine kept_mbCommand (fun _ _ _ => ?_) ?_ | with_reducible apply kept_finish
    | with_reducible apply kept_startFlush | with_reducible apply kept_await | simp only [kept_mk] | split)

theorem kept_execQueueConfig {z : State} {x0 : Nat} {s : State} (h : Kept z s) :
    KeptNext z (execQueueConfig x0 s) := by
  unfold execQueueConfig
  try dsimp only
  repeat' (first
    | with_reducible assumption | with_reducible apply keptNext_next
    | with_reducible refine kept_mbCommand (fun _ _ _ => ?_) ?_ | with_reducible apply kept_finish
    | with_reducible apply kept_setWinQ | simp only [kept_mk] | split)

theorem kept_execMargin {z : State} {x0 : Nat} {s : State} (h : Kept z s) :
    KeptNext z (execMargin x0 s) := by
  unfold execMargin
  try dsimp only
  repeat' (first
    | with_reducible assumption | with_reducible apply keptNext_next
    | with_reducible refine kept_mbCommand (fun _ _ _ => ?_) ?_ | with_reducible apply kept_finish
    | with_reducible apply kept_await | with_reducible apply kept_nextScan | simp only [kept_mk] | split)

theorem kept_execUndefinedOpcode {z : State} {x0 : Via} {s : State} (h : Kept z s) :
    KeptNext z (execUndefinedOpcode x0 s) := by
  unfold execUndefinedOpcode
  try dsimp only
  repeat' (first
    | with_reducible assumption | with_reducible apply keptNext_next
    | with_reducible refine kept_mbCommand (fun _ _ _ => ?_) ?_ | with_reducible apply kept_finishRgn
    | simp only [kept_mk] | split)

theorem kept_failStageWith {z : State} {x0 : Nat} {x1 : Nat} {s : State} (h : Kept z s) :
    Kept z (failStageWith x0 x1 s) := by
  unfold failStageWith
  try dsimp only
  repeat' (first
    | with_reducible assumption | with_reducible apply kept_failModule | with_reducible apply kept_raise)

theorem kept_failStage {z : State} {x0 : Nat} {s : State} (h : Kept z s) :
    Kept z (failStage x0 s) := by
  unfold failStage
  try dsimp only
  repeat' (first
    | with_reducible assumption | with_reducible apply kept_failStageWith)

theorem kept_execHarbourFirmwareStart {z : State} {s : State} (h : Kept z s) :
    KeptNext z (execHarbourFirmwareStart s) := by
  unfold execHarbourFirmwareStart
  try dsimp only
  repeat' (first
    | with_reducible assumption | with_reducible apply keptNext_next | with_reducible apply kept_bootCheck
    | with_reducible apply kept_failStageWith | with_reducible apply kept_raise | simp only [kept_mk] | split)

theorem kept_applyStored {z : State} {s : State} (h : Kept z s) :
    Kept z (applyStored s) := by
  unfold applyStored
  try dsimp only
  repeat' (first
    | with_reducible assumption | with_reducible apply kept_applyKey | simp only [kept_mk] | split
    | with_reducible refine kept_fst (by assumption) ?_ | with_reducible refine kept_foldl ?_ (fun _ _ _ => ?_))

theorem kept_startPorts {z : State} {s : State} (h : Kept z s) :
    Kept z (startPorts s) := by
  unfold startPorts
  try dsimp only
  repeat' (first
    | with_reducible assumption | with_reducible apply kept_setPort | simp only [kept_mk] | split
    | with_reducible refine kept_fst (by assumption) ?_ | with_reducible refine kept_foldl ?_ (fun _ _ _ => ?_))

theorem kept_takeIslets {z : State} {s : State} (h : Kept z s) :
    Kept z (takeIslets s) := by
  unfold takeIslets
  try dsimp only
  repeat' (first
    | with_reducible assumption | with_reducible apply kept_setIslet | simp only [kept_mk] | split
    | with_reducible refine kept_fst (by assumption) ?_ | with_reducible refine kept_foldl ?_ (fun _ _ _ => ?_))

theorem kept_execFlashRead {z : State} {x0 : BitVec 12} {x1 : BitVec 5} {s : State} (h : Kept z s) :
    KeptNext z (execFlashRead x0 x1 s) := by
  unfold execFlashRead
  try dsimp only
  repeat' (first
    | with_reducible assumption | with_reducible apply keptNext_next | with_reducible apply kept_raise
    | with_reducible apply kept_takeIslets | with_reducible apply kept_checkIdentity
    | with_reducible apply kept_applyStored | with_reducible apply kept_startPorts
    | with_reducible apply kept_setMode | simp only [kept_mk] | split)

theorem kept_openWindow {z : State} {s : State} (h : Kept z s) :
    Kept z (openWindow s) := by
  unfold openWindow
  try dsimp only
  repeat' (first
    | with_reducible assumption | simp only [kept_mk])

theorem kept_trainLane {z : State} {x0 : Nat} {s : State} (h : Kept z s) :
    Kept z (trainLane x0 s).1 := by
  unfold trainLane
  try dsimp only
  repeat' (first
    | with_reducible assumption | with_reducible apply kept_spareStraitLane | simp only [kept_mk] | split)

theorem kept_execStraitTraining {z : State} {x0 : List Nat} {s : State} (h : Kept z s) :
    KeptNext z (execStraitTraining x0 s) := by
  unfold execStraitTraining
  try dsimp only
  repeat' (first
    | with_reducible assumption | with_reducible apply keptNext_next | with_reducible apply kept_trainLane
    | with_reducible apply kept_failStage | with_reducible apply kept_openWindow
    | with_reducible apply kept_failStageWith | with_reducible apply kept_raise | simp only [kept_mk] | split
    | with_reducible refine kept_fst (by assumption) ?_ | with_reducible refine kept_foldl ?_ (fun _ _ _ => ?_)
    | with_reducible refine kept_foldl_fst ?_ (fun _ _ _ _ => ?_))

theorem kept_execLpddrTraining {z : State} {x0 : List Nat} {x1 : List (Nat × Nat × Nat × Nat × Nat)} {s :
    State} (h : Kept z s) :
    KeptNext z (execLpddrTraining x0 x1 s) := by
  unfold execLpddrTraining
  try dsimp only
  repeat' (first
    | with_reducible assumption | with_reducible apply keptNext_next | with_reducible apply kept_retireChan
    | with_reducible apply kept_raise | with_reducible apply kept_setChan | with_reducible apply kept_openWindow
    | simp only [kept_mk] | split | with_reducible refine kept_fst (by assumption) ?_
    | with_reducible refine kept_foldl ?_ (fun _ _ _ => ?_))

theorem kept_execConfigHoldExpired {z : State} {s : State} (h : Kept z s) :
    KeptNext z (execConfigHoldExpired s) := by
  unfold execConfigHoldExpired
  try dsimp only
  repeat' (first
    | with_reducible assumption | with_reducible apply keptNext_next | with_reducible apply kept_closeWindow
    | with_reducible apply kept_passNow | simp only [kept_mk] | split)

theorem kept_lockRing {z : State} {s : State} (h : Kept z s) :
    Kept z (lockRing s) := by
  unfold lockRing
  try dsimp only
  repeat' (first
    | with_reducible assumption | with_reducible apply kept_draw | with_reducible apply kept_raise
    | simp only [kept_mk] | split)

theorem kept_execSndLock {z : State} {s : State} (h : Kept z s) :
    KeptNext z (execSndLock s) := by
  unfold execSndLock
  try dsimp only
  repeat' (first
    | with_reducible assumption | with_reducible apply keptNext_next | with_reducible apply kept_lockRing
    | simp only [kept_mk] | split)

theorem kept_loadMainland {z : State} {s : State} (h : Kept z s) :
    Kept z (loadMainland s).1 := by
  unfold loadMainland
  try dsimp only
  repeat' (first
    | with_reducible assumption | with_reducible apply kept_writeMem | with_reducible apply kept_readMem
    | simp only [kept_mk] | split)

theorem kept_failIslet {z : State} {x0 : Nat} {s : State} (h : Kept z s) :
    Kept z (failIslet x0 s) := by
  unfold failIslet
  try dsimp only
  repeat' (first
    | with_reducible assumption | with_reducible apply kept_raise | with_reducible apply kept_keepIslet
    | simp only [kept_mk] | split)

theorem kept_execIsletTest {z : State} {x0 : List Nat} {s : State} (h : Kept z s) :
    KeptNext z (execIsletTest x0 s) := by
  unfold execIsletTest
  try dsimp only
  repeat' (first
    | with_reducible assumption | with_reducible apply keptNext_next | with_reducible apply kept_loadMainland
    | with_reducible apply kept_failStageWith | with_reducible apply kept_raise
    | with_reducible apply kept_replaceFaulted | with_reducible apply kept_failIslet | simp only [kept_mk]
    | split | with_reducible refine kept_fst (by assumption) ?_
    | with_reducible refine kept_foldl ?_ (fun _ _ _ => ?_))

theorem kept_execClockStart {z : State} {s : State} (h : Kept z s) :
    KeptNext z (execClockStart s) := by
  unfold execClockStart
  try dsimp only
  repeat' (first
    | with_reducible assumption | with_reducible apply keptNext_next | with_reducible apply kept_setPort
    | with_reducible apply kept_setMode | simp only [kept_mk] | split
    | with_reducible refine kept_fst (by assumption) ?_ | with_reducible refine kept_foldl ?_ (fun _ _ _ => ?_))

theorem kept_execBringupFailed {z : State} {x0 : Nat} {s : State} (h : Kept z s) :
    KeptNext z (execBringupFailed x0 s) := by
  unfold execBringupFailed
  try dsimp only
  repeat' (first
    | with_reducible assumption | with_reducible apply keptNext_next | with_reducible apply kept_failStage
    | simp only [kept_mk] | split)

end Sys2Proof.Machine
end

