-- ==== Sys2Proof/Laws/KeptPower.lean ====
section
/-! SUPPORT. `Kept` of each operation and command of Machine/Power.lean. -/

set_option maxRecDepth 8000

namespace Sys2Proof.Machine

theorem kept_tearRecord {z : State} {s : State} (h : Kept z s) :
    Kept z (tearRecord s) := by
  unfold tearRecord
  try dsimp only
  repeat' (first
    | with_reducible assumption | with_reducible apply kept_draw | simp only [kept_mk] | split)

theorem kept_powerOff {z : State} {x0 : Nat} {s : State} (h : Kept z s) :
    Kept z (powerOff x0 s) := by
  unfold powerOff
  try dsimp only
  repeat' (first
    | with_reducible assumption | with_reducible apply kept_tearRecord | with_reducible apply kept_cutFuses
    | with_reducible apply kept_reboot | simp only [kept_mk] | split)

theorem kept_closeSwitch {z : State} {s : State} (h : Kept z s) :
    Kept z (closeSwitch s) := by
  unfold closeSwitch
  try dsimp only
  repeat' (first
    | with_reducible assumption | simp only [kept_mk])

theorem kept_glitch {z : State} {s : State} (h : Kept z s) :
    Kept z (glitch s) := by
  unfold glitch
  try dsimp only
  repeat' (first
    | with_reducible assumption | with_reducible apply kept_raise | simp only [kept_mk] | split)

theorem kept_execPwrEnNAsserted {z : State} {x0 : Nat} {x1 : Bool} {s : State} (h : Kept z s) :
    KeptNext z (execPwrEnNAsserted x0 x1 s) := by
  unfold execPwrEnNAsserted
  try dsimp only
  repeat' (first
    | with_reducible assumption | with_reducible apply keptNext_next | with_reducible apply kept_glitch
    | with_reducible apply kept_closeSwitch | simp only [kept_mk] | split)

theorem kept_execTurnOnThreshold {z : State} {s : State} (h : Kept z s) :
    KeptNext z (execTurnOnThreshold s) := by
  unfold execTurnOnThreshold
  try dsimp only
  repeat' (first
    | with_reducible assumption | with_reducible apply keptNext_next | with_reducible apply kept_closeSwitch
    | simp only [kept_mk] | split)

theorem kept_execPwrEnNDeasserted {z : State} {x0 : Nat} {s : State} (h : Kept z s) :
    KeptNext z (execPwrEnNDeasserted x0 s) := by
  unfold execPwrEnNDeasserted
  try dsimp only
  repeat' (first
    | with_reducible assumption | with_reducible apply keptNext_next | with_reducible apply kept_glitch
    | with_reducible apply kept_drainAll | simp only [kept_mk] | split)

theorem kept_execPowerDown {z : State} {s : State} (h : Kept z s) :
    KeptNext z (execPowerDown s) := by
  unfold execPowerDown
  try dsimp only
  repeat' (first
    | with_reducible assumption | with_reducible apply keptNext_next | with_reducible apply kept_powerOff
    | with_reducible apply kept_passNow | simp only [kept_mk] | split)

theorem kept_powerGood {z : State} {s : State} (h : Kept z s) :
    Kept z (powerGood s) := by
  unfold powerGood
  try dsimp only
  repeat' (first
    | with_reducible assumption | simp only [kept_mk])

theorem kept_execRailStep {z : State} {s : State} (h : Kept z s) :
    KeptNext z (execRailStep s) := by
  unfold execRailStep
  try dsimp only
  repeat' (first
    | with_reducible assumption | with_reducible apply keptNext_next | with_reducible apply kept_powerGood
    | simp only [kept_mk] | split)

theorem kept_execRailStepTimeout {z : State} {s : State} (h : Kept z s) :
    KeptNext z (execRailStepTimeout s) := by
  unfold execRailStepTimeout
  try dsimp only
  repeat' (first
    | with_reducible assumption | with_reducible apply keptNext_next | with_reducible apply kept_powerOff
    | simp only [kept_mk] | split)

theorem kept_execHardTrip {z : State} {x0 : Trip} {s : State} (h : Kept z s) :
    KeptNext z (execHardTrip x0 s) := by
  unfold execHardTrip
  try dsimp only
  repeat' (first
    | with_reducible assumption | with_reducible apply keptNext_next | with_reducible apply kept_powerOff
    | simp only [kept_mk] | split)

theorem kept_inputSample {z : State} {x0 : BitVec 12} {x1 : BitVec 12} {x2 : BitVec 16} {s : State} (h : Kept
    z s) :
    Kept z (inputSample x0 x1 x2 s) := by
  unfold inputSample
  try dsimp only
  repeat' (first
    | with_reducible assumption | simp only [kept_mk])

theorem kept_execPowerLimiting {z : State} {x0 : BitVec 12} {x1 : BitVec 12} {x2 : BitVec 16} {s : State} (h :
    Kept z s) :
    KeptNext z (execPowerLimiting x0 x1 x2 s) := by
  unfold execPowerLimiting
  try dsimp only
  repeat' (first
    | with_reducible assumption | with_reducible apply keptNext_next | with_reducible apply kept_inputSample
    | with_reducible apply kept_raise | simp only [kept_mk] | split)

theorem kept_execGatingReleased {z : State} {x0 : BitVec 12} {x1 : BitVec 12} {x2 : BitVec 16} {s : State}
    (h : Kept z s) :
    KeptNext z (execGatingReleased x0 x1 x2 s) := by
  unfold execGatingReleased
  try dsimp only
  repeat' (first
    | with_reducible assumption | with_reducible apply keptNext_next | with_reducible apply kept_inputSample
    | simp only [kept_mk] | split)

theorem kept_execRegulatorWarning {z : State} {x0 : Nat} {x1 : Nat} {s : State} (h : Kept z s) :
    KeptNext z (execRegulatorWarning x0 x1 s) := by
  unfold execRegulatorWarning
  try dsimp only
  repeat' (first
    | with_reducible assumption | with_reducible apply keptNext_next | with_reducible apply kept_raise
    | simp only [kept_mk] | split)

theorem kept_execTempSample {z : State} {x0 : List Int} {x1 : BitVec 16} {x2 : BitVec 16} {s : State} (h :
    Kept z s) :
    KeptNext z (execTempSample x0 x1 x2 s) := by
  unfold execTempSample
  try dsimp only
  repeat' (first
    | with_reducible assumption | with_reducible apply keptNext_next | with_reducible apply kept_requestCheck
    | with_reducible apply kept_raise | simp only [kept_mk] | split)

theorem kept_execCoolantWarning {z : State} {x0 : BitVec 16} {x1 : BitVec 16} {s : State} (h : Kept z s) :
    KeptNext z (execCoolantWarning x0 x1 s) := by
  unfold execCoolantWarning
  try dsimp only
  repeat' (first
    | with_reducible assumption | with_reducible apply keptNext_next | with_reducible apply kept_raise
    | simp only [kept_mk] | split)

theorem kept_execPowerWarning {z : State} {x0 : Bool} {x1 : Nat} {s : State} (h : Kept z s) :
    KeptNext z (execPowerWarning x0 x1 s) := by
  unfold execPowerWarning
  try dsimp only
  repeat' (first
    | with_reducible assumption | with_reducible apply keptNext_next | with_reducible apply kept_glitch
    | with_reducible apply kept_startEmergency | with_reducible apply kept_raise | simp only [kept_mk] | split)

theorem kept_execLeakDetected {z : State} {x0 : Nat} {x1 : Nat} {s : State} (h : Kept z s) :
    KeptNext z (execLeakDetected x0 x1 s) := by
  unfold execLeakDetected
  try dsimp only
  repeat' (first
    | with_reducible assumption | with_reducible apply keptNext_next | with_reducible apply kept_glitch
    | with_reducible apply kept_startEmergency | with_reducible apply kept_raise | simp only [kept_mk] | split)

theorem kept_execWarningSourceDeasserted {z : State} {x0 : Nat} {x1 : Nat} {s : State} (h : Kept z s) :
    KeptNext z (execWarningSourceDeasserted x0 x1 s) := by
  unfold execWarningSourceDeasserted
  try dsimp only
  repeat' (first
    | with_reducible assumption | with_reducible apply keptNext_next | with_reducible apply kept_glitch
    | with_reducible apply kept_requestCheck | simp only [kept_mk] | split)

theorem kept_execFeedIdChanged {z : State} {x0 : BitVec 12} {x1 : Nat} {s : State} (h : Kept z s) :
    KeptNext z (execFeedIdChanged x0 x1 s) := by
  unfold execFeedIdChanged
  try dsimp only
  repeat' (first
    | with_reducible assumption | with_reducible apply keptNext_next | with_reducible apply kept_glitch
    | with_reducible apply kept_raise | simp only [kept_mk] | split)

theorem kept_execPrsntNHigh {z : State} {x0 : Nat} {x1 : Nat} {s : State} (h : Kept z s) :
    KeptNext z (execPrsntNHigh x0 x1 s) := by
  unfold execPrsntNHigh
  try dsimp only
  repeat' (first
    | with_reducible assumption | with_reducible apply keptNext_next | with_reducible apply kept_glitch
    | with_reducible apply kept_setPort | with_reducible apply kept_losePort | simp only [kept_mk] | split)

theorem kept_execStraitLaneSpared {z : State} {x0 : Nat} {s : State} (h : Kept z s) :
    KeptNext z (execStraitLaneSpared x0 s) := by
  unfold execStraitLaneSpared
  try dsimp only
  repeat' (first
    | with_reducible assumption | with_reducible apply keptNext_next | with_reducible apply kept_spareStraitLane
    | simp only [kept_mk] | split)

end Sys2Proof.Machine
end

