-- ==== Sys2Proof/Laws/KeptRegisters.lean ====
section
/-! SUPPORT. `Kept` of each operation and command of Machine/Registers.lean. -/

set_option maxRecDepth 8000

namespace Sys2Proof.Machine

theorem kept_after {z : State} {s : State} {o : Host.Outcome State Fault Refusal} (h : Kept z s) (ho : KeptNext z o) :
    Kept z (after s o) := by
  unfold after
  split
  · exact ho _ rfl
  · exact h

theorem kept_writeXng {z : State} {x0 : Nat} {x1 : Word64} {s : State} (h : Kept z s) :
    Kept z (writeXng x0 x1 s) := by
  unfold writeXng
  try dsimp only
  repeat' (first
    | with_reducible assumption | with_reducible refine kept_after ?_ ?_ | with_reducible apply kept_execRingEn
    | with_reducible apply kept_execPeriodApply | with_reducible apply kept_execWindowWrite
    | simp only [kept_mk] | split)

theorem kept_writeTtu {z : State} {x0 : Nat} {x1 : Word64} {s : State} (h : Kept z s) :
    Kept z (writeTtu x0 x1 s) := by
  unfold writeTtu
  try dsimp only
  repeat' (first
    | with_reducible assumption | with_reducible refine kept_after ?_ ?_
    | with_reducible apply kept_execTtuCursorPost | simp only [kept_mk] | split)

theorem kept_writeIsl {z : State} {x0 : Nat} {x1 : Word64} {s : State} (h : Kept z s) :
    Kept z (writeIsl x0 x1 s) := by
  unfold writeIsl
  try dsimp only
  repeat' (first
    | with_reducible assumption | simp only [kept_mk] | split)

theorem kept_writeFry {z : State} {x0 : Nat} {x1 : Word64} {s : State} (h : Kept z s) :
    Kept z (writeFry x0 x1 s) := by
  unfold writeFry
  try dsimp only
  repeat' (first
    | with_reducible assumption | with_reducible apply kept_setFryQ | with_reducible refine kept_after ?_ ?_
    | with_reducible apply kept_execFryQcfgEnable | with_reducible apply kept_execFryQcfgDisable
    | with_reducible apply kept_execFryQtail | simp only [kept_mk] | split)

theorem kept_writeLnc {z : State} {x0 : Nat} {x1 : Word64} {s : State} (h : Kept z s) :
    Kept z (writeLnc x0 x1 s) := by
  unfold writeLnc
  try dsimp only
  repeat' (first
    | with_reducible assumption | with_reducible apply kept_setLncQ | with_reducible refine kept_after ?_ ?_
    | with_reducible apply kept_execLncQcfgEnable | with_reducible apply kept_execLncQcfgDisable
    | with_reducible apply kept_execLncQtail | simp only [kept_mk] | split)

theorem kept_writeMemReg {z : State} {x0 : Nat} {x1 : Word64} {s : State} (h : Kept z s) :
    Kept z (writeMemReg x0 x1 s) := by
  unfold writeMemReg
  try dsimp only
  repeat' (first
    | with_reducible assumption | simp only [kept_mk] | split)

theorem kept_writeRgnCmd {z : State} {x0 : Nat} {s : State} (h : Kept z s) :
    Kept z (writeRgnCmd x0 s) := by
  unfold writeRgnCmd
  try dsimp only
  repeat' (first
    | with_reducible assumption | with_reducible refine kept_after ?_ ?_
    | with_reducible apply kept_execAllocCtx | with_reducible apply kept_execFreeCtx
    | with_reducible apply kept_execAddRegion | with_reducible apply kept_execRemoveRegion
    | with_reducible apply kept_execPin | with_reducible apply kept_execUnpin
    | with_reducible apply kept_execEvict | with_reducible apply kept_execJoinGroup
    | with_reducible apply kept_execLeaveGroup | with_reducible apply kept_execUndefinedOpcode
    | simp only [kept_mk] | split)

theorem kept_writeRgn {z : State} {x0 : Nat} {x1 : Word64} {s : State} (h : Kept z s) :
    Kept z (writeRgn x0 x1 s) := by
  unfold writeRgn
  try dsimp only
  repeat' (first
    | with_reducible assumption | with_reducible apply kept_writeRgnCmd | simp only [kept_mk] | split)

theorem kept_writeSnd {z : State} {x0 : Nat} {x1 : Word64} {s : State} (h : Kept z s) :
    Kept z (writeSnd x0 x1 s) := by
  unfold writeSnd
  try dsimp only
  repeat' (first
    | with_reducible assumption | with_reducible apply kept_lockRing | simp only [kept_mk] | split)

theorem kept_trainHeld {z : State} {s : State} (h : Kept z s) :
    Kept z (trainHeld s) := by
  unfold trainHeld
  try dsimp only
  repeat' (first
    | with_reducible assumption | with_reducible apply kept_setPort | simp only [kept_mk] | split
    | with_reducible refine kept_fst (by assumption) ?_ | with_reducible refine kept_foldl ?_ (fun _ _ _ => ?_))

theorem kept_writeZng {z : State} {x0 : Nat} {x1 : Word64} {s : State} (h : Kept z s) :
    Kept z (writeZng x0 x1 s) := by
  unfold writeZng
  try dsimp only
  repeat' (first
    | with_reducible assumption | with_reducible apply kept_trainHeld | with_reducible refine kept_after ?_ ?_
    | with_reducible apply kept_execZngFlushStart | simp only [kept_mk] | split)

theorem kept_writeMbCtrl {z : State} {x0 : Nat} {x1 : Word64} {s : State} (h : Kept z s) :
    Kept z (writeMbCtrl x0 x1 s) := by
  unfold writeMbCtrl
  try dsimp only
  repeat' (first
    | with_reducible assumption | with_reducible apply kept_setMb | with_reducible refine kept_after ?_ ?_
    | with_reducible apply kept_execMailboxDoorbell | with_reducible apply kept_execMailboxAck
    | simp only [kept_mk] | split)

theorem kept_writeHbr {z : State} {x0 : Nat} {x1 : Word64} {s : State} (h : Kept z s) :
    Kept z (writeHbr x0 x1 s) := by
  unfold writeHbr
  try dsimp only
  repeat' (first
    | with_reducible assumption | with_reducible apply kept_writeMbCtrl | with_reducible apply kept_writeBox
    | simp only [kept_mk] | split)

theorem kept_writeHlt {z : State} {x0 : Nat} {x1 : Word64} {s : State} (h : Kept z s) :
    Kept z (writeHlt x0 x1 s) := by
  unfold writeHlt
  try dsimp only
  repeat' (first
    | with_reducible assumption | simp only [kept_mk] | split)

theorem kept_writeRec {z : State} {x0 : Nat} {x1 : Word64} {s : State} (h : Kept z s) :
    Kept z (writeRec x0 x1 s) := by
  unfold writeRec
  try dsimp only
  repeat' (first
    | with_reducible assumption | simp only [kept_mk] | split)

theorem kept_writePwr {z : State} {x0 : Nat} {x1 : Word64} {s : State} (h : Kept z s) :
    Kept z (writePwr x0 x1 s) := by
  unfold writePwr
  try dsimp only
  repeat' (first
    | with_reducible assumption | simp only [kept_mk] | split)

theorem kept_writeReg {z : State} {x0 : Nat} {x1 : Word64} {s : State} (h : Kept z s) :
    Kept z (writeReg x0 x1 s) := by
  unfold writeReg
  try dsimp only
  repeat' (first
    | with_reducible assumption | with_reducible apply kept_writeXng | with_reducible apply kept_writeTtu
    | with_reducible apply kept_writeIsl | with_reducible apply kept_writeFry
    | with_reducible apply kept_writeLnc | with_reducible apply kept_writeMemReg
    | with_reducible apply kept_writeRgn | with_reducible apply kept_writeSnd
    | with_reducible apply kept_writeZng | with_reducible apply kept_writeHbr
    | with_reducible apply kept_writeHlt | with_reducible apply kept_writeRec
    | with_reducible apply kept_writePwr | simp only [kept_mk] | split)

theorem kept_execRegisterWrite {z : State} {x0 : Nat} {x1 : Word64} {s : State} (h : Kept z s) :
    KeptNext z (execRegisterWrite x0 x1 s) := by
  unfold execRegisterWrite
  try dsimp only
  repeat' (first
    | with_reducible assumption | with_reducible apply keptNext_next | with_reducible apply kept_writeReg
    | simp only [kept_mk] | split)

end Sys2Proof.Machine
end

