-- ==== Sys2Proof/Laws/KeptMainland.lean ====
section
/-! SUPPORT. `Kept` of each operation and command of Machine/Mainland.lean. -/

set_option maxRecDepth 8000

namespace Sys2Proof.Machine

theorem kept_homePart {z : State} {x0 : CAccess} {x1 : Nat × Nat × Nat} {s : State} (h : Kept z s) :
    Kept z (homePart x0 x1 s) := by
  unfold homePart
  try dsimp only
  repeat' (first
    | with_reducible assumption | with_reducible apply kept_lineAccess | with_reducible apply kept_hartFault
    | simp only [kept_mk] | split)

theorem kept_homeAccess {z : State} {x0 : CAccess} {x1 : Option Nat} {s : State} (h : Kept z s) :
    Kept z (homeAccess x0 x1 s) := by
  unfold homeAccess
  try dsimp only
  repeat' (first
    | with_reducible assumption | with_reducible apply kept_replaceLine | with_reducible apply kept_homePart
    | simp only [kept_mk] | split | with_reducible refine kept_fst (by assumption) ?_
    | with_reducible refine kept_foldl ?_ (fun _ _ _ => ?_))

theorem kept_regAccess {z : State} {x0 : CAccess} {s : State} (h : Kept z s) :
    Kept z (regAccess x0 s) := by
  unfold regAccess
  try dsimp only
  repeat' (first
    | with_reducible assumption | with_reducible apply kept_hartFault | with_reducible apply kept_writeReg
    | with_reducible apply kept_emit | simp only [kept_mk] | split)

theorem kept_windowAccess {z : State} {x0 : CAccess} {s : State} (h : Kept z s) :
    Kept z (windowAccess x0 s) := by
  unfold windowAccess
  try dsimp only
  repeat' (first
    | with_reducible assumption | with_reducible apply kept_hartFault | with_reducible apply kept_hostWrite
    | with_reducible apply kept_hostLost | with_reducible apply kept_hostRead | simp only [kept_mk] | split)

theorem kept_ioPerform {z : State} {x0 : CAccess} {s : State} (h : Kept z s) :
    Kept z (ioPerform x0 s) := by
  unfold ioPerform
  try dsimp only
  repeat' (first
    | with_reducible assumption | with_reducible apply kept_windowAccess | with_reducible apply kept_regAccess
    | simp only [kept_mk] | split)

theorem kept_drainIo {z : State} {x0 : Nat} {x1 : Nat} {s : State} (h : Kept z s) :
    Kept z (drainIo x0 x1 s) := by
  induction x0 generalizing x1 s with
  | zero =>
    unfold drainIo
    try dsimp only
    repeat' (with_reducible assumption)
  | succ n ih =>
    unfold drainIo
    try dsimp only
    repeat' (first
      | with_reducible assumption | with_reducible apply ih | with_reducible apply kept_ioPerform
      | with_reducible apply kept_setHart | simp only [kept_mk] | split)

theorem kept_ioAccess {z : State} {x0 : CAccess} {s : State} (h : Kept z s) :
    Kept z (ioAccess x0 s) := by
  unfold ioAccess
  try dsimp only
  repeat' (first
    | with_reducible assumption | with_reducible apply kept_ioPerform | with_reducible apply kept_drainIo
    | with_reducible apply kept_setHart | simp only [kept_mk] | split)

theorem kept_drainHarts {z : State} {s : State} (h : Kept z s) :
    Kept z (drainHarts s) := by
  unfold drainHarts
  try dsimp only
  repeat' (first
    | with_reducible assumption | with_reducible apply kept_drainIo | simp only [kept_mk] | split
    | with_reducible refine kept_fst (by assumption) ?_ | with_reducible refine kept_foldl ?_ (fun _ _ _ => ?_))

theorem kept_coreAccess {z : State} {x0 : CAccess} {x1 : Option Nat} {s : State} (h : Kept z s) :
    Kept z (coreAccess x0 x1 s) := by
  unfold coreAccess
  try dsimp only
  repeat' (first
    | with_reducible assumption | with_reducible apply kept_homeAccess | with_reducible apply kept_ioAccess
    | with_reducible apply kept_hartFault | simp only [kept_mk] | split)

theorem kept_execLoad {z : State} {x0 : Nat} {x1 : Nat} {x2 : Nat} {x3 : AccKind} {x4 : Word64} {x5 : Option
    Nat} {s : State} (h : Kept z s) :
    KeptNext z (execLoad x0 x1 x2 x3 x4 x5 s) := by
  unfold execLoad
  try dsimp only
  repeat' (first
    | with_reducible assumption | with_reducible apply keptNext_next | with_reducible apply kept_coreAccess)

theorem kept_execStore {z : State} {x0 : Nat} {x1 : Nat} {x2 : List Byte} {x3 : AccKind} {x4 : Word64} {x5 :
    Option Nat} {s : State} (h : Kept z s) :
    KeptNext z (execStore x0 x1 x2 x3 x4 x5 s) := by
  unfold execStore
  try dsimp only
  repeat' (first
    | with_reducible assumption | with_reducible apply keptNext_next | with_reducible apply kept_coreAccess)

theorem kept_execHostWindowAccess {z : State} {x0 : Nat} {x1 : Nat} {x2 : Nat} {x3 : Word64} {x4 : Option
    (List Byte)} {s : State} (h : Kept z s) :
    KeptNext z (execHostWindowAccess x0 x1 x2 x3 x4 s) := by
  unfold execHostWindowAccess
  try dsimp only
  repeat' (first
    | with_reducible assumption | with_reducible apply keptNext_next | with_reducible apply kept_coreAccess
    | simp only [kept_mk] | split)

theorem kept_cboLine {z : State} {x0 : Nat} {x1 : Nat} {x2 : CboOp} {x3 : Word64} {s : State} (h : Kept z s) :
    Kept z (cboLine x0 x1 x2 x3 s) := by
  unfold cboLine
  try dsimp only
  repeat' (first
    | with_reducible assumption | with_reducible apply kept_lineAccess | with_reducible apply kept_hartFault
    | simp only [kept_mk] | split)

theorem kept_execCboClean {z : State} {x0 : Nat} {x1 : Nat} {x2 : Word64} {s : State} (h : Kept z s) :
    KeptNext z (execCboClean x0 x1 x2 s) := by
  unfold execCboClean
  try dsimp only
  repeat' (first
    | with_reducible assumption | with_reducible apply keptNext_next | with_reducible apply kept_cboLine)

theorem kept_execCboFlush {z : State} {x0 : Nat} {x1 : Nat} {x2 : Word64} {s : State} (h : Kept z s) :
    KeptNext z (execCboFlush x0 x1 x2 s) := by
  unfold execCboFlush
  try dsimp only
  repeat' (first
    | with_reducible assumption | with_reducible apply keptNext_next | with_reducible apply kept_cboLine)

theorem kept_execCboInval {z : State} {x0 : Nat} {x1 : Nat} {x2 : Word64} {x3 : Bool} {s : State} (h : Kept z
    s) :
    KeptNext z (execCboInval x0 x1 x2 x3 s) := by
  unfold execCboInval
  try dsimp only
  repeat' (first
    | with_reducible assumption | with_reducible apply keptNext_next | with_reducible apply kept_cboLine)

theorem kept_execCboZero {z : State} {x0 : Nat} {x1 : Nat} {x2 : Word64} {x3 : Option Nat} {s : State} (h :
    Kept z s) :
    KeptNext z (execCboZero x0 x1 x2 x3 s) := by
  unfold execCboZero
  try dsimp only
  repeat' (first
    | with_reducible assumption | with_reducible apply keptNext_next | with_reducible apply kept_coreAccess)

theorem kept_execSkctxWrite {z : State} {x0 : Nat} {x1 : Priv} {x2 : Word64} {s : State} (h : Kept z s) :
    KeptNext z (execSkctxWrite x0 x1 x2 s) := by
  unfold execSkctxWrite
  try dsimp only
  repeat' (first
    | with_reducible assumption | with_reducible apply keptNext_next | with_reducible apply kept_setHart
    | with_reducible apply kept_emit | simp only [kept_mk] | split)

end Sys2Proof.Machine
end

