-- ==== Sys2Proof/Laws/KeptInbound.lean ====
section
/-! SUPPORT. `Kept` of each operation and command of Machine/Inbound.lean. -/

set_option maxRecDepth 8000

namespace Sys2Proof.Machine

theorem kept_takeDecision {z : State} {d : Decision} {s : State} (h : Kept z s) :
    KeptNext z (takeDecision d s) := by
  unfold takeDecision
  split
  · apply keptNext_next
    split
    · refine kept_foldl h (fun _ _ k => ?_)
      exact kept_leaveNamed k
    · exact h
  · exact kept_execDecision h

theorem kept_inboundOf {z : State} {p : Nat} {h d : List Byte} {t : Inbound} (e : inboundOf p h d = some t) {s : State}
    (k : Kept z s) : KeptNext z (t.act s) := by
  unfold inboundOf at e
  dsimp only at e
  split at e
  · rw [← Option.some.inj e]
    dsimp only
    exact kept_execCrd k
  · rw [← Option.some.inj e]
    exact keptNext_next (kept_winWrite k)
  · rw [← Option.some.inj e]
    exact keptNext_next (kept_place k)
  · rw [← Option.some.inj e]
    exact keptNext_next (kept_readAnswer k)
  · rw [← Option.some.inj e]
    exact keptNext_next (kept_writeAnswer k)
  · rw [← Option.some.inj e]
    dsimp only
    exact kept_execFlushAck k
  · rw [← Option.some.inj e]
    dsimp only
    exact kept_execFeed k
  · rw [← Option.some.inj e]
    dsimp only
    exact kept_execVoteSum k
  · rw [← Option.some.inj e]
    dsimp only
    exact kept_takeDecision k
  · rw [← Option.some.inj e]
    dsimp only
    exact kept_execProbe k
  · simp at e

theorem kept_parseStream {z : State} {x0 x1 : Nat} {x2 : List Byte} {s : State} (h : Kept z s) :
    Kept z (parseStream x0 x1 x2 s).1 := by
  induction x0 generalizing x2 s with
  | zero => exact h
  | succ n ih =>
    unfold parseStream
    dsimp only
    split
    · exact h
    · split
      · exact h
      · split
        · exact kept_malformed h
        · split
          · exact h
          · split
            · rename_i t e
              split
              · exact ih (kept_returnCredits (kept_after h (kept_inboundOf e h)))
              · exact kept_malformed h
            · exact kept_malformed h

theorem kept_takeBody {z : State} {x0 : Nat} {x1 : List Byte} {s : State} (h : Kept z s) :
    Kept z (takeBody x0 x1 s) := by
  unfold takeBody
  try dsimp only
  repeat' (first
    | with_reducible assumption | with_reducible apply kept_parseStream | with_reducible apply kept_setPort
    | simp only [kept_mk] | split)

theorem kept_execRdCpl {z : State} {x0 : Nat} {x1 : Nat} {x2 : Nat} {x3 : Nat} {x4 : List Byte} {s : State}
    (h : Kept z s) :
    KeptNext z (execRdCpl x0 x1 x2 x3 x4 s) := by
  unfold execRdCpl
  try dsimp only
  repeat' (first
    | with_reducible assumption | with_reducible apply keptNext_next | with_reducible apply kept_drainHarts
    | with_reducible apply kept_readAnswer)

theorem kept_execWrAck {z : State} {x0 : Nat} {x1 : Nat} {x2 : Nat} {s : State} (h : Kept z s) :
    KeptNext z (execWrAck x0 x1 x2 s) := by
  unfold execWrAck
  try dsimp only
  repeat' (first
    | with_reducible assumption | with_reducible apply keptNext_next | with_reducible apply kept_drainHarts
    | with_reducible apply kept_writeAnswer)

theorem kept_execLinkup {z : State} {x0 : Nat} {x1 : Nat} {x2 : Nat} {x3 : Nat} {x4 : Nat} {s : State} (h :
    Kept z s) :
    KeptNext z (execLinkup x0 x1 x2 x3 x4 s) := by
  unfold execLinkup
  try dsimp only
  repeat' (first
    | with_reducible assumption | with_reducible apply keptNext_next | with_reducible apply kept_drainHarts
    | with_reducible apply kept_linkUp)

theorem kept_execRetrainDone {z : State} {x0 : Nat} {x1 : BitVec 5} {x2 : Nat} {x3 : Nat} {s : State} (h :
    Kept z s) :
    KeptNext z (execRetrainDone x0 x1 x2 x3 s) := by
  unfold execRetrainDone
  try dsimp only
  repeat' (first
    | with_reducible assumption | with_reducible apply keptNext_next | with_reducible apply kept_drainHarts
    | with_reducible apply kept_retrainEnds)

theorem kept_execKeysReturned {z : State} {x0 : Nat} {s : State} (h : Kept z s) :
    KeptNext z (execKeysReturned x0 s) := by
  unfold execKeysReturned
  try dsimp only
  repeat' (first
    | with_reducible assumption | with_reducible apply keptNext_next | with_reducible apply kept_drainHarts
    | with_reducible apply kept_keysReturn)

theorem kept_execDataFlit {z : State} {x0 : Nat} {x1 : List Byte} {x2 : List Nat} {x3 : Nat} {s : State} (h :
    Kept z s) :
    KeptNext z (execDataFlit x0 x1 x2 x3 s) := by
  unfold execDataFlit
  try dsimp only
  repeat' (first
    | with_reducible assumption | with_reducible apply keptNext_next | with_reducible apply kept_countFec
    | with_reducible apply kept_badFlit | with_reducible apply kept_takeAck
    | with_reducible apply kept_drainHarts | with_reducible apply kept_takeBody
    | with_reducible apply kept_setPort | with_reducible apply kept_sendNak | simp only [kept_mk] | split)

end Sys2Proof.Machine
end

