-- ==== Sys2Proof/Laws/KeptLaneAlu.lean ====
section
/-! SUPPORT. `Kept` of each operation and command of Machine/LaneAlu.lean. -/

set_option maxRecDepth 8000

namespace Sys2Proof.Machine

theorem kept_execLaneAdd {z : State} {x0 : LaneWho} {x1 : FR} {s : State} (h : Kept z s) :
    KeptNext z (execLaneAdd x0 x1 s) := by
  unfold execLaneAdd
  try dsimp only
  repeat' (first
    | with_reducible assumption | with_reducible apply keptNext_next | with_reducible apply kept_laneAlu)

theorem kept_execLaneSub {z : State} {x0 : LaneWho} {x1 : FR} {s : State} (h : Kept z s) :
    KeptNext z (execLaneSub x0 x1 s) := by
  unfold execLaneSub
  try dsimp only
  repeat' (first
    | with_reducible assumption | with_reducible apply keptNext_next | with_reducible apply kept_laneAlu)

theorem kept_execLaneAnd {z : State} {x0 : LaneWho} {x1 : FR} {s : State} (h : Kept z s) :
    KeptNext z (execLaneAnd x0 x1 s) := by
  unfold execLaneAnd
  try dsimp only
  repeat' (first
    | with_reducible assumption | with_reducible apply keptNext_next | with_reducible apply kept_laneAlu)

theorem kept_execLaneOr {z : State} {x0 : LaneWho} {x1 : FR} {s : State} (h : Kept z s) :
    KeptNext z (execLaneOr x0 x1 s) := by
  unfold execLaneOr
  try dsimp only
  repeat' (first
    | with_reducible assumption | with_reducible apply keptNext_next | with_reducible apply kept_laneAlu)

theorem kept_execLaneXor {z : State} {x0 : LaneWho} {x1 : FR} {s : State} (h : Kept z s) :
    KeptNext z (execLaneXor x0 x1 s) := by
  unfold execLaneXor
  try dsimp only
  repeat' (first
    | with_reducible assumption | with_reducible apply keptNext_next | with_reducible apply kept_laneAlu)

theorem kept_execLaneSll {z : State} {x0 : LaneWho} {x1 : FR} {s : State} (h : Kept z s) :
    KeptNext z (execLaneSll x0 x1 s) := by
  unfold execLaneSll
  try dsimp only
  repeat' (first
    | with_reducible assumption | with_reducible apply keptNext_next | with_reducible apply kept_laneAlu)

theorem kept_execLaneSrl {z : State} {x0 : LaneWho} {x1 : FR} {s : State} (h : Kept z s) :
    KeptNext z (execLaneSrl x0 x1 s) := by
  unfold execLaneSrl
  try dsimp only
  repeat' (first
    | with_reducible assumption | with_reducible apply keptNext_next | with_reducible apply kept_laneAlu)

theorem kept_execLaneSra {z : State} {x0 : LaneWho} {x1 : FR} {s : State} (h : Kept z s) :
    KeptNext z (execLaneSra x0 x1 s) := by
  unfold execLaneSra
  try dsimp only
  repeat' (first
    | with_reducible assumption | with_reducible apply keptNext_next | with_reducible apply kept_laneAlu)

theorem kept_execLaneMul {z : State} {x0 : LaneWho} {x1 : FR} {s : State} (h : Kept z s) :
    KeptNext z (execLaneMul x0 x1 s) := by
  unfold execLaneMul
  try dsimp only
  repeat' (first
    | with_reducible assumption | with_reducible apply keptNext_next | with_reducible apply kept_laneAlu)

theorem kept_execLaneMulhu {z : State} {x0 : LaneWho} {x1 : FR} {s : State} (h : Kept z s) :
    KeptNext z (execLaneMulhu x0 x1 s) := by
  unfold execLaneMulhu
  try dsimp only
  repeat' (first
    | with_reducible assumption | with_reducible apply keptNext_next | with_reducible apply kept_laneAlu)

theorem kept_execLaneMulh {z : State} {x0 : LaneWho} {x1 : FR} {s : State} (h : Kept z s) :
    KeptNext z (execLaneMulh x0 x1 s) := by
  unfold execLaneMulh
  try dsimp only
  repeat' (first
    | with_reducible assumption | with_reducible apply keptNext_next | with_reducible apply kept_laneAlu)

theorem kept_execLaneMin {z : State} {x0 : LaneWho} {x1 : FR} {s : State} (h : Kept z s) :
    KeptNext z (execLaneMin x0 x1 s) := by
  unfold execLaneMin
  try dsimp only
  repeat' (first
    | with_reducible assumption | with_reducible apply keptNext_next | with_reducible apply kept_laneAlu)

theorem kept_execLaneMax {z : State} {x0 : LaneWho} {x1 : FR} {s : State} (h : Kept z s) :
    KeptNext z (execLaneMax x0 x1 s) := by
  unfold execLaneMax
  try dsimp only
  repeat' (first
    | with_reducible assumption | with_reducible apply keptNext_next | with_reducible apply kept_laneAlu)

theorem kept_execLaneMinu {z : State} {x0 : LaneWho} {x1 : FR} {s : State} (h : Kept z s) :
    KeptNext z (execLaneMinu x0 x1 s) := by
  unfold execLaneMinu
  try dsimp only
  repeat' (first
    | with_reducible assumption | with_reducible apply keptNext_next | with_reducible apply kept_laneAlu)

theorem kept_execLaneMaxu {z : State} {x0 : LaneWho} {x1 : FR} {s : State} (h : Kept z s) :
    KeptNext z (execLaneMaxu x0 x1 s) := by
  unfold execLaneMaxu
  try dsimp only
  repeat' (first
    | with_reducible assumption | with_reducible apply keptNext_next | with_reducible apply kept_laneAlu)

theorem kept_execLaneDivu {z : State} {x0 : LaneWho} {x1 : FR} {s : State} (h : Kept z s) :
    KeptNext z (execLaneDivu x0 x1 s) := by
  unfold execLaneDivu
  try dsimp only
  repeat' (first
    | with_reducible assumption | with_reducible apply keptNext_next | with_reducible apply kept_laneAlu)

theorem kept_execLaneRemu {z : State} {x0 : LaneWho} {x1 : FR} {s : State} (h : Kept z s) :
    KeptNext z (execLaneRemu x0 x1 s) := by
  unfold execLaneRemu
  try dsimp only
  repeat' (first
    | with_reducible assumption | with_reducible apply keptNext_next | with_reducible apply kept_laneAlu)

theorem kept_execLaneAddB4 {z : State} {x0 : LaneWho} {x1 : FR} {s : State} (h : Kept z s) :
    KeptNext z (execLaneAddB4 x0 x1 s) := by
  unfold execLaneAddB4
  try dsimp only
  repeat' (first
    | with_reducible assumption | with_reducible apply keptNext_next | with_reducible apply kept_laneAlu)

theorem kept_execLaneSubB4 {z : State} {x0 : LaneWho} {x1 : FR} {s : State} (h : Kept z s) :
    KeptNext z (execLaneSubB4 x0 x1 s) := by
  unfold execLaneSubB4
  try dsimp only
  repeat' (first
    | with_reducible assumption | with_reducible apply keptNext_next | with_reducible apply kept_laneAlu)

theorem kept_execLaneAddsB4 {z : State} {x0 : LaneWho} {x1 : FR} {s : State} (h : Kept z s) :
    KeptNext z (execLaneAddsB4 x0 x1 s) := by
  unfold execLaneAddsB4
  try dsimp only
  repeat' (first
    | with_reducible assumption | with_reducible apply keptNext_next | with_reducible apply kept_laneAlu)

theorem kept_execLaneMinB4 {z : State} {x0 : LaneWho} {x1 : FR} {s : State} (h : Kept z s) :
    KeptNext z (execLaneMinB4 x0 x1 s) := by
  unfold execLaneMinB4
  try dsimp only
  repeat' (first
    | with_reducible assumption | with_reducible apply keptNext_next | with_reducible apply kept_laneAlu)

theorem kept_execLaneMaxB4 {z : State} {x0 : LaneWho} {x1 : FR} {s : State} (h : Kept z s) :
    KeptNext z (execLaneMaxB4 x0 x1 s) := by
  unfold execLaneMaxB4
  try dsimp only
  repeat' (first
    | with_reducible assumption | with_reducible apply keptNext_next | with_reducible apply kept_laneAlu)

theorem kept_execLaneDotB4 {z : State} {x0 : LaneWho} {x1 : FR} {s : State} (h : Kept z s) :
    KeptNext z (execLaneDotB4 x0 x1 s) := by
  unfold execLaneDotB4
  try dsimp only
  repeat' (first
    | with_reducible assumption | with_reducible apply keptNext_next | with_reducible apply kept_laneAlu)

theorem kept_execLaneAddH2 {z : State} {x0 : LaneWho} {x1 : FR} {s : State} (h : Kept z s) :
    KeptNext z (execLaneAddH2 x0 x1 s) := by
  unfold execLaneAddH2
  try dsimp only
  repeat' (first
    | with_reducible assumption | with_reducible apply keptNext_next | with_reducible apply kept_laneAlu)

theorem kept_execLaneSubH2 {z : State} {x0 : LaneWho} {x1 : FR} {s : State} (h : Kept z s) :
    KeptNext z (execLaneSubH2 x0 x1 s) := by
  unfold execLaneSubH2
  try dsimp only
  repeat' (first
    | with_reducible assumption | with_reducible apply keptNext_next | with_reducible apply kept_laneAlu)

theorem kept_execLaneAddsH2 {z : State} {x0 : LaneWho} {x1 : FR} {s : State} (h : Kept z s) :
    KeptNext z (execLaneAddsH2 x0 x1 s) := by
  unfold execLaneAddsH2
  try dsimp only
  repeat' (first
    | with_reducible assumption | with_reducible apply keptNext_next | with_reducible apply kept_laneAlu)

theorem kept_execLaneMinH2 {z : State} {x0 : LaneWho} {x1 : FR} {s : State} (h : Kept z s) :
    KeptNext z (execLaneMinH2 x0 x1 s) := by
  unfold execLaneMinH2
  try dsimp only
  repeat' (first
    | with_reducible assumption | with_reducible apply keptNext_next | with_reducible apply kept_laneAlu)

theorem kept_execLaneMaxH2 {z : State} {x0 : LaneWho} {x1 : FR} {s : State} (h : Kept z s) :
    KeptNext z (execLaneMaxH2 x0 x1 s) := by
  unfold execLaneMaxH2
  try dsimp only
  repeat' (first
    | with_reducible assumption | with_reducible apply keptNext_next | with_reducible apply kept_laneAlu)

theorem kept_execLaneMulH2 {z : State} {x0 : LaneWho} {x1 : FR} {s : State} (h : Kept z s) :
    KeptNext z (execLaneMulH2 x0 x1 s) := by
  unfold execLaneMulH2
  try dsimp only
  repeat' (first
    | with_reducible assumption | with_reducible apply keptNext_next | with_reducible apply kept_laneAlu)

theorem kept_execLaneAddi {z : State} {x0 : LaneWho} {x1 : FI} {s : State} (h : Kept z s) :
    KeptNext z (execLaneAddi x0 x1 s) := by
  unfold execLaneAddi
  try dsimp only
  repeat' (first
    | with_reducible assumption | with_reducible apply keptNext_next | with_reducible apply kept_laneImm)

theorem kept_execLaneAndi {z : State} {x0 : LaneWho} {x1 : FI} {s : State} (h : Kept z s) :
    KeptNext z (execLaneAndi x0 x1 s) := by
  unfold execLaneAndi
  try dsimp only
  repeat' (first
    | with_reducible assumption | with_reducible apply keptNext_next | with_reducible apply kept_laneImm)

theorem kept_execLaneOri {z : State} {x0 : LaneWho} {x1 : FI} {s : State} (h : Kept z s) :
    KeptNext z (execLaneOri x0 x1 s) := by
  unfold execLaneOri
  try dsimp only
  repeat' (first
    | with_reducible assumption | with_reducible apply keptNext_next | with_reducible apply kept_laneImm)

theorem kept_execLaneXori {z : State} {x0 : LaneWho} {x1 : FI} {s : State} (h : Kept z s) :
    KeptNext z (execLaneXori x0 x1 s) := by
  unfold execLaneXori
  try dsimp only
  repeat' (first
    | with_reducible assumption | with_reducible apply keptNext_next | with_reducible apply kept_laneImm)

theorem kept_execLaneSlli {z : State} {x0 : LaneWho} {x1 : FI} {s : State} (h : Kept z s) :
    KeptNext z (execLaneSlli x0 x1 s) := by
  unfold execLaneSlli
  try dsimp only
  repeat' (first
    | with_reducible assumption | with_reducible apply keptNext_next | with_reducible apply kept_laneImm)

theorem kept_execLaneSrli {z : State} {x0 : LaneWho} {x1 : FI} {s : State} (h : Kept z s) :
    KeptNext z (execLaneSrli x0 x1 s) := by
  unfold execLaneSrli
  try dsimp only
  repeat' (first
    | with_reducible assumption | with_reducible apply keptNext_next | with_reducible apply kept_laneImm)

theorem kept_execLaneSrai {z : State} {x0 : LaneWho} {x1 : FI} {s : State} (h : Kept z s) :
    KeptNext z (execLaneSrai x0 x1 s) := by
  unfold execLaneSrai
  try dsimp only
  repeat' (first
    | with_reducible assumption | with_reducible apply keptNext_next | with_reducible apply kept_laneImm)

theorem kept_execLaneLui {z : State} {x0 : LaneWho} {x1 : FU} {s : State} (h : Kept z s) :
    KeptNext z (execLaneLui x0 x1 s) := by
  unfold execLaneLui
  try dsimp only
  repeat' (first
    | with_reducible assumption | with_reducible apply keptNext_next | with_reducible apply kept_laneReg)

theorem kept_execLaneLli {z : State} {x0 : LaneWho} {x1 : FU} {s : State} (h : Kept z s) :
    KeptNext z (execLaneLli x0 x1 s) := by
  unfold execLaneLli
  try dsimp only
  repeat' (first
    | with_reducible assumption | with_reducible apply keptNext_next | with_reducible apply kept_laneReg)

theorem kept_execLaneFadd {z : State} {x0 : LaneWho} {x1 : FR} {s : State} (h : Kept z s) :
    KeptNext z (execLaneFadd x0 x1 s) := by
  unfold execLaneFadd
  try dsimp only
  repeat' (first
    | with_reducible assumption | with_reducible apply keptNext_next | with_reducible apply kept_laneAlu)

theorem kept_execLaneFsub {z : State} {x0 : LaneWho} {x1 : FR} {s : State} (h : Kept z s) :
    KeptNext z (execLaneFsub x0 x1 s) := by
  unfold execLaneFsub
  try dsimp only
  repeat' (first
    | with_reducible assumption | with_reducible apply keptNext_next | with_reducible apply kept_laneAlu)

theorem kept_execLaneFmul {z : State} {x0 : LaneWho} {x1 : FR} {s : State} (h : Kept z s) :
    KeptNext z (execLaneFmul x0 x1 s) := by
  unfold execLaneFmul
  try dsimp only
  repeat' (first
    | with_reducible assumption | with_reducible apply keptNext_next | with_reducible apply kept_laneAlu)

theorem kept_execLaneFdiv {z : State} {x0 : LaneWho} {x1 : FR} {s : State} (h : Kept z s) :
    KeptNext z (execLaneFdiv x0 x1 s) := by
  unfold execLaneFdiv
  try dsimp only
  repeat' (first
    | with_reducible assumption | with_reducible apply keptNext_next | with_reducible apply kept_laneAlu)

theorem kept_execLaneFmin {z : State} {x0 : LaneWho} {x1 : FR} {s : State} (h : Kept z s) :
    KeptNext z (execLaneFmin x0 x1 s) := by
  unfold execLaneFmin
  try dsimp only
  repeat' (first
    | with_reducible assumption | with_reducible apply keptNext_next | with_reducible apply kept_laneAlu)

theorem kept_execLaneFmax {z : State} {x0 : LaneWho} {x1 : FR} {s : State} (h : Kept z s) :
    KeptNext z (execLaneFmax x0 x1 s) := by
  unfold execLaneFmax
  try dsimp only
  repeat' (first
    | with_reducible assumption | with_reducible apply keptNext_next | with_reducible apply kept_laneAlu)

theorem kept_execLaneFsqrt {z : State} {x0 : LaneWho} {x1 : FR} {s : State} (h : Kept z s) :
    KeptNext z (execLaneFsqrt x0 x1 s) := by
  unfold execLaneFsqrt
  try dsimp only
  repeat' (first
    | with_reducible assumption | with_reducible apply keptNext_next | with_reducible apply kept_laneAlu)

theorem kept_execLaneFexp2 {z : State} {x0 : LaneWho} {x1 : FR} {s : State} (h : Kept z s) :
    KeptNext z (execLaneFexp2 x0 x1 s) := by
  unfold execLaneFexp2
  try dsimp only
  repeat' (first
    | with_reducible assumption | with_reducible apply keptNext_next | with_reducible apply kept_laneAlu)

theorem kept_execLaneFlog2 {z : State} {x0 : LaneWho} {x1 : FR} {s : State} (h : Kept z s) :
    KeptNext z (execLaneFlog2 x0 x1 s) := by
  unfold execLaneFlog2
  try dsimp only
  repeat' (first
    | with_reducible assumption | with_reducible apply keptNext_next | with_reducible apply kept_laneAlu)

theorem kept_execLaneFneg {z : State} {x0 : LaneWho} {x1 : FR} {s : State} (h : Kept z s) :
    KeptNext z (execLaneFneg x0 x1 s) := by
  unfold execLaneFneg
  try dsimp only
  repeat' (first
    | with_reducible assumption | with_reducible apply keptNext_next | with_reducible apply kept_laneAlu)

theorem kept_execLaneFabs {z : State} {x0 : LaneWho} {x1 : FR} {s : State} (h : Kept z s) :
    KeptNext z (execLaneFabs x0 x1 s) := by
  unfold execLaneFabs
  try dsimp only
  repeat' (first
    | with_reducible assumption | with_reducible apply keptNext_next | with_reducible apply kept_laneAlu)

theorem kept_execLaneFmac {z : State} {x0 : LaneWho} {x1 : FR} {s : State} (h : Kept z s) :
    KeptNext z (execLaneFmac x0 x1 s) := by
  unfold execLaneFmac
  try dsimp only
  repeat' (first
    | with_reducible assumption | with_reducible apply keptNext_next | with_reducible apply kept_laneAlu)

theorem kept_execLaneF2i {z : State} {x0 : LaneWho} {x1 : FR} {s : State} (h : Kept z s) :
    KeptNext z (execLaneF2i x0 x1 s) := by
  unfold execLaneF2i
  try dsimp only
  repeat' (first
    | with_reducible assumption | with_reducible apply keptNext_next | with_reducible apply kept_laneAlu)

theorem kept_execLaneI2f {z : State} {x0 : LaneWho} {x1 : FR} {s : State} (h : Kept z s) :
    KeptNext z (execLaneI2f x0 x1 s) := by
  unfold execLaneI2f
  try dsimp only
  repeat' (first
    | with_reducible assumption | with_reducible apply keptNext_next | with_reducible apply kept_laneAlu)

theorem kept_execLaneF2f16 {z : State} {x0 : LaneWho} {x1 : FR} {s : State} (h : Kept z s) :
    KeptNext z (execLaneF2f16 x0 x1 s) := by
  unfold execLaneF2f16
  try dsimp only
  repeat' (first
    | with_reducible assumption | with_reducible apply keptNext_next | with_reducible apply kept_laneAlu)

theorem kept_execLaneF2w16 {z : State} {x0 : LaneWho} {x1 : FR} {s : State} (h : Kept z s) :
    KeptNext z (execLaneF2w16 x0 x1 s) := by
  unfold execLaneF2w16
  try dsimp only
  repeat' (first
    | with_reducible assumption | with_reducible apply keptNext_next | with_reducible apply kept_laneAlu)

theorem kept_execLaneF2e4m3 {z : State} {x0 : LaneWho} {x1 : FR} {s : State} (h : Kept z s) :
    KeptNext z (execLaneF2e4m3 x0 x1 s) := by
  unfold execLaneF2e4m3
  try dsimp only
  repeat' (first
    | with_reducible assumption | with_reducible apply keptNext_next | with_reducible apply kept_laneAlu)

theorem kept_execLaneF2e5m2 {z : State} {x0 : LaneWho} {x1 : FR} {s : State} (h : Kept z s) :
    KeptNext z (execLaneF2e5m2 x0 x1 s) := by
  unfold execLaneF2e5m2
  try dsimp only
  repeat' (first
    | with_reducible assumption | with_reducible apply keptNext_next | with_reducible apply kept_laneAlu)

theorem kept_execLaneF2i8 {z : State} {x0 : LaneWho} {x1 : FR} {s : State} (h : Kept z s) :
    KeptNext z (execLaneF2i8 x0 x1 s) := by
  unfold execLaneF2i8
  try dsimp only
  repeat' (first
    | with_reducible assumption | with_reducible apply keptNext_next | with_reducible apply kept_laneAlu)

theorem kept_execLaneF162f {z : State} {x0 : LaneWho} {x1 : FR} {s : State} (h : Kept z s) :
    KeptNext z (execLaneF162f x0 x1 s) := by
  unfold execLaneF162f
  try dsimp only
  repeat' (first
    | with_reducible assumption | with_reducible apply keptNext_next | with_reducible apply kept_laneAlu)

theorem kept_execLaneW162f {z : State} {x0 : LaneWho} {x1 : FR} {s : State} (h : Kept z s) :
    KeptNext z (execLaneW162f x0 x1 s) := by
  unfold execLaneW162f
  try dsimp only
  repeat' (first
    | with_reducible assumption | with_reducible apply keptNext_next | with_reducible apply kept_laneAlu)

theorem kept_execLaneE4m32f {z : State} {x0 : LaneWho} {x1 : FR} {s : State} (h : Kept z s) :
    KeptNext z (execLaneE4m32f x0 x1 s) := by
  unfold execLaneE4m32f
  try dsimp only
  repeat' (first
    | with_reducible assumption | with_reducible apply keptNext_next | with_reducible apply kept_laneAlu)

theorem kept_execLaneE5m22f {z : State} {x0 : LaneWho} {x1 : FR} {s : State} (h : Kept z s) :
    KeptNext z (execLaneE5m22f x0 x1 s) := by
  unfold execLaneE5m22f
  try dsimp only
  repeat' (first
    | with_reducible assumption | with_reducible apply keptNext_next | with_reducible apply kept_laneAlu)

theorem kept_execLaneI82f {z : State} {x0 : LaneWho} {x1 : FR} {s : State} (h : Kept z s) :
    KeptNext z (execLaneI82f x0 x1 s) := by
  unfold execLaneI82f
  try dsimp only
  repeat' (first
    | with_reducible assumption | with_reducible apply keptNext_next | with_reducible apply kept_laneAlu)

theorem kept_execLaneFeq {z : State} {x0 : LaneWho} {x1 : FR} {s : State} (h : Kept z s) :
    KeptNext z (execLaneFeq x0 x1 s) := by
  unfold execLaneFeq
  try dsimp only
  repeat' (first
    | with_reducible assumption | with_reducible apply keptNext_next | with_reducible apply kept_laneCmp)

theorem kept_execLaneFlt {z : State} {x0 : LaneWho} {x1 : FR} {s : State} (h : Kept z s) :
    KeptNext z (execLaneFlt x0 x1 s) := by
  unfold execLaneFlt
  try dsimp only
  repeat' (first
    | with_reducible assumption | with_reducible apply keptNext_next | with_reducible apply kept_laneCmp)

theorem kept_execLaneFle {z : State} {x0 : LaneWho} {x1 : FR} {s : State} (h : Kept z s) :
    KeptNext z (execLaneFle x0 x1 s) := by
  unfold execLaneFle
  try dsimp only
  repeat' (first
    | with_reducible assumption | with_reducible apply keptNext_next | with_reducible apply kept_laneCmp)

theorem kept_execLaneFun {z : State} {x0 : LaneWho} {x1 : FR} {s : State} (h : Kept z s) :
    KeptNext z (execLaneFun x0 x1 s) := by
  unfold execLaneFun
  try dsimp only
  repeat' (first
    | with_reducible assumption | with_reducible apply keptNext_next | with_reducible apply kept_laneCmp)

theorem kept_execLaneEq {z : State} {x0 : LaneWho} {x1 : FR} {s : State} (h : Kept z s) :
    KeptNext z (execLaneEq x0 x1 s) := by
  unfold execLaneEq
  try dsimp only
  repeat' (first
    | with_reducible assumption | with_reducible apply keptNext_next | with_reducible apply kept_laneCmp)

theorem kept_execLaneNe {z : State} {x0 : LaneWho} {x1 : FR} {s : State} (h : Kept z s) :
    KeptNext z (execLaneNe x0 x1 s) := by
  unfold execLaneNe
  try dsimp only
  repeat' (first
    | with_reducible assumption | with_reducible apply keptNext_next | with_reducible apply kept_laneCmp)

theorem kept_execLaneLt {z : State} {x0 : LaneWho} {x1 : FR} {s : State} (h : Kept z s) :
    KeptNext z (execLaneLt x0 x1 s) := by
  unfold execLaneLt
  try dsimp only
  repeat' (first
    | with_reducible assumption | with_reducible apply keptNext_next | with_reducible apply kept_laneCmp)

theorem kept_execLaneLtu {z : State} {x0 : LaneWho} {x1 : FR} {s : State} (h : Kept z s) :
    KeptNext z (execLaneLtu x0 x1 s) := by
  unfold execLaneLtu
  try dsimp only
  repeat' (first
    | with_reducible assumption | with_reducible apply keptNext_next | with_reducible apply kept_laneCmp)

theorem kept_execLaneGe {z : State} {x0 : LaneWho} {x1 : FR} {s : State} (h : Kept z s) :
    KeptNext z (execLaneGe x0 x1 s) := by
  unfold execLaneGe
  try dsimp only
  repeat' (first
    | with_reducible assumption | with_reducible apply keptNext_next | with_reducible apply kept_laneCmp)

theorem kept_execLaneGeu {z : State} {x0 : LaneWho} {x1 : FR} {s : State} (h : Kept z s) :
    KeptNext z (execLaneGeu x0 x1 s) := by
  unfold execLaneGeu
  try dsimp only
  repeat' (first
    | with_reducible assumption | with_reducible apply keptNext_next | with_reducible apply kept_laneCmp)

theorem kept_execLanePlogAnd {z : State} {x0 : LaneWho} {x1 : FR} {s : State} (h : Kept z s) :
    KeptNext z (execLanePlogAnd x0 x1 s) := by
  unfold execLanePlogAnd
  try dsimp only
  repeat' (first
    | with_reducible assumption | with_reducible apply keptNext_next | with_reducible apply kept_lanePlog)

theorem kept_execLanePlogOr {z : State} {x0 : LaneWho} {x1 : FR} {s : State} (h : Kept z s) :
    KeptNext z (execLanePlogOr x0 x1 s) := by
  unfold execLanePlogOr
  try dsimp only
  repeat' (first
    | with_reducible assumption | with_reducible apply keptNext_next | with_reducible apply kept_lanePlog)

theorem kept_execLanePlogXor {z : State} {x0 : LaneWho} {x1 : FR} {s : State} (h : Kept z s) :
    KeptNext z (execLanePlogXor x0 x1 s) := by
  unfold execLanePlogXor
  try dsimp only
  repeat' (first
    | with_reducible assumption | with_reducible apply keptNext_next | with_reducible apply kept_lanePlog)

theorem kept_execLanePlogAndn {z : State} {x0 : LaneWho} {x1 : FR} {s : State} (h : Kept z s) :
    KeptNext z (execLanePlogAndn x0 x1 s) := by
  unfold execLanePlogAndn
  try dsimp only
  repeat' (first
    | with_reducible assumption | with_reducible apply keptNext_next | with_reducible apply kept_lanePlog)

theorem kept_execLaneSel {z : State} {x0 : LaneWho} {x1 : FR} {x2 : BitVec 3} {s : State} (h : Kept z s) :
    KeptNext z (execLaneSel x0 x1 x2 s) := by
  unfold execLaneSel
  try dsimp only
  repeat' (first
    | with_reducible assumption | with_reducible apply keptNext_next | with_reducible apply kept_laneReg)

theorem kept_execLaneBeq {z : State} {x0 : LaneWho} {x1 : FB} {s : State} (h : Kept z s) :
    KeptNext z (execLaneBeq x0 x1 s) := by
  unfold execLaneBeq
  try dsimp only
  repeat' (first
    | with_reducible assumption | with_reducible apply keptNext_next | with_reducible apply kept_laneBranch)

theorem kept_execLaneBne {z : State} {x0 : LaneWho} {x1 : FB} {s : State} (h : Kept z s) :
    KeptNext z (execLaneBne x0 x1 s) := by
  unfold execLaneBne
  try dsimp only
  repeat' (first
    | with_reducible assumption | with_reducible apply keptNext_next | with_reducible apply kept_laneBranch)

theorem kept_execLaneBlt {z : State} {x0 : LaneWho} {x1 : FB} {s : State} (h : Kept z s) :
    KeptNext z (execLaneBlt x0 x1 s) := by
  unfold execLaneBlt
  try dsimp only
  repeat' (first
    | with_reducible assumption | with_reducible apply keptNext_next | with_reducible apply kept_laneBranch)

theorem kept_execLaneBge {z : State} {x0 : LaneWho} {x1 : FB} {s : State} (h : Kept z s) :
    KeptNext z (execLaneBge x0 x1 s) := by
  unfold execLaneBge
  try dsimp only
  repeat' (first
    | with_reducible assumption | with_reducible apply keptNext_next | with_reducible apply kept_laneBranch)

theorem kept_execLaneBltu {z : State} {x0 : LaneWho} {x1 : FB} {s : State} (h : Kept z s) :
    KeptNext z (execLaneBltu x0 x1 s) := by
  unfold execLaneBltu
  try dsimp only
  repeat' (first
    | with_reducible assumption | with_reducible apply keptNext_next | with_reducible apply kept_laneBranch)

theorem kept_execLaneBgeu {z : State} {x0 : LaneWho} {x1 : FB} {s : State} (h : Kept z s) :
    KeptNext z (execLaneBgeu x0 x1 s) := by
  unfold execLaneBgeu
  try dsimp only
  repeat' (first
    | with_reducible assumption | with_reducible apply keptNext_next | with_reducible apply kept_laneBranch)

theorem kept_execLaneBp {z : State} {x0 : LaneWho} {x1 : FB} {s : State} (h : Kept z s) :
    KeptNext z (execLaneBp x0 x1 s) := by
  unfold execLaneBp
  try dsimp only
  repeat' (first
    | with_reducible assumption | with_reducible apply keptNext_next
    | with_reducible refine kept_laneGo (fun _ _ _ _ => ?_) ?_)

theorem kept_execLaneJ {z : State} {x0 : LaneWho} {x1 : FJ} {s : State} (h : Kept z s) :
    KeptNext z (execLaneJ x0 x1 s) := by
  unfold execLaneJ
  try dsimp only
  repeat' (first
    | with_reducible assumption | with_reducible apply keptNext_next
    | with_reducible refine kept_laneGo (fun _ _ _ _ => ?_) ?_)

theorem kept_execLaneMfsr {z : State} {x0 : LaneWho} {x1 : FI} {s : State} (h : Kept z s) :
    KeptNext z (execLaneMfsr x0 x1 s) := by
  unfold execLaneMfsr
  try dsimp only
  repeat' (first
    | with_reducible assumption | with_reducible apply keptNext_next
    | with_reducible refine kept_laneGo (fun _ _ _ _ => ?_) ?_)

end Sys2Proof.Machine
end

