-- ==== Sys2Proof/Laws/KeptLaneMem.lean ====
section
/-! SUPPORT. `Kept` of each operation and command of Machine/LaneMem.lean. -/

set_option maxRecDepth 8000

namespace Sys2Proof.Machine

theorem kept_execLaneLdsB {z : State} {x0 : LaneWho} {x1 : FI} {s : State} (h : Kept z s) :
    KeptNext z (execLaneLdsB x0 x1 s) := by
  unfold execLaneLdsB
  try dsimp only
  repeat' (first
    | with_reducible assumption | with_reducible apply keptNext_next | with_reducible apply kept_laneLds)

theorem kept_execLaneStsB {z : State} {x0 : LaneWho} {x1 : FI} {s : State} (h : Kept z s) :
    KeptNext z (execLaneStsB x0 x1 s) := by
  unfold execLaneStsB
  try dsimp only
  repeat' (first
    | with_reducible assumption | with_reducible apply keptNext_next | with_reducible apply kept_laneSts)

theorem kept_execLaneLdmB {z : State} {x0 : LaneWho} {x1 : FR} {s : State} (h : Kept z s) :
    KeptNext z (execLaneLdmB x0 x1 s) := by
  unfold execLaneLdmB
  try dsimp only
  repeat' (first
    | with_reducible assumption | with_reducible apply keptNext_next | with_reducible apply kept_laneLdm)

theorem kept_execLaneStmB {z : State} {x0 : LaneWho} {x1 : FR} {s : State} (h : Kept z s) :
    KeptNext z (execLaneStmB x0 x1 s) := by
  unfold execLaneStmB
  try dsimp only
  repeat' (first
    | with_reducible assumption | with_reducible apply keptNext_next | with_reducible apply kept_laneStm)

theorem kept_execLaneLdsH {z : State} {x0 : LaneWho} {x1 : FI} {s : State} (h : Kept z s) :
    KeptNext z (execLaneLdsH x0 x1 s) := by
  unfold execLaneLdsH
  try dsimp only
  repeat' (first
    | with_reducible assumption | with_reducible apply keptNext_next | with_reducible apply kept_laneLds)

theorem kept_execLaneStsH {z : State} {x0 : LaneWho} {x1 : FI} {s : State} (h : Kept z s) :
    KeptNext z (execLaneStsH x0 x1 s) := by
  unfold execLaneStsH
  try dsimp only
  repeat' (first
    | with_reducible assumption | with_reducible apply keptNext_next | with_reducible apply kept_laneSts)

theorem kept_execLaneLdmH {z : State} {x0 : LaneWho} {x1 : FR} {s : State} (h : Kept z s) :
    KeptNext z (execLaneLdmH x0 x1 s) := by
  unfold execLaneLdmH
  try dsimp only
  repeat' (first
    | with_reducible assumption | with_reducible apply keptNext_next | with_reducible apply kept_laneLdm)

theorem kept_execLaneStmH {z : State} {x0 : LaneWho} {x1 : FR} {s : State} (h : Kept z s) :
    KeptNext z (execLaneStmH x0 x1 s) := by
  unfold execLaneStmH
  try dsimp only
  repeat' (first
    | with_reducible assumption | with_reducible apply keptNext_next | with_reducible apply kept_laneStm)

theorem kept_execLaneLdsW {z : State} {x0 : LaneWho} {x1 : FI} {s : State} (h : Kept z s) :
    KeptNext z (execLaneLdsW x0 x1 s) := by
  unfold execLaneLdsW
  try dsimp only
  repeat' (first
    | with_reducible assumption | with_reducible apply keptNext_next | with_reducible apply kept_laneLds)

theorem kept_execLaneStsW {z : State} {x0 : LaneWho} {x1 : FI} {s : State} (h : Kept z s) :
    KeptNext z (execLaneStsW x0 x1 s) := by
  unfold execLaneStsW
  try dsimp only
  repeat' (first
    | with_reducible assumption | with_reducible apply keptNext_next | with_reducible apply kept_laneSts)

theorem kept_execLaneLdmW {z : State} {x0 : LaneWho} {x1 : FR} {s : State} (h : Kept z s) :
    KeptNext z (execLaneLdmW x0 x1 s) := by
  unfold execLaneLdmW
  try dsimp only
  repeat' (first
    | with_reducible assumption | with_reducible apply keptNext_next | with_reducible apply kept_laneLdm)

theorem kept_execLaneStmW {z : State} {x0 : LaneWho} {x1 : FR} {s : State} (h : Kept z s) :
    KeptNext z (execLaneStmW x0 x1 s) := by
  unfold execLaneStmW
  try dsimp only
  repeat' (first
    | with_reducible assumption | with_reducible apply keptNext_next | with_reducible apply kept_laneStm)

theorem kept_execLaneLde {z : State} {x0 : LaneWho} {x1 : FR} {s : State} (h : Kept z s) :
    KeptNext z (execLaneLde x0 x1 s) := by
  unfold execLaneLde
  try dsimp only
  repeat' (first
    | with_reducible assumption | with_reducible apply keptNext_next
    | with_reducible refine kept_laneGo (fun _ _ _ _ => ?_) ?_ | with_reducible apply kept_laneLoad
    | simp only [kept_mk] | split)

theorem kept_execLaneSte {z : State} {x0 : LaneWho} {x1 : FR} {s : State} (h : Kept z s) :
    KeptNext z (execLaneSte x0 x1 s) := by
  unfold execLaneSte
  try dsimp only
  repeat' (first
    | with_reducible assumption | with_reducible apply keptNext_next
    | with_reducible refine kept_laneGo (fun _ _ _ _ => ?_) ?_ | with_reducible apply kept_laneStore
    | simp only [kept_mk] | split)

theorem kept_execLaneLdod {z : State} {x0 : LaneWho} {x1 : FR} {s : State} (h : Kept z s) :
    KeptNext z (execLaneLdod x0 x1 s) := by
  unfold execLaneLdod
  try dsimp only
  repeat' (first
    | with_reducible assumption | with_reducible apply keptNext_next
    | with_reducible refine kept_laneGo (fun _ _ _ _ => ?_) ?_ | with_reducible apply kept_laneGet
    | simp only [kept_mk] | split | with_reducible refine kept_fst (by assumption) ?_)

theorem kept_execLaneSetvl {z : State} {x0 : LaneWho} {x1 : FI} {s : State} (h : Kept z s) :
    KeptNext z (execLaneSetvl x0 x1 s) := by
  unfold execLaneSetvl
  try dsimp only
  repeat' (first
    | with_reducible assumption | with_reducible apply keptNext_next
    | with_reducible refine kept_laneGo (fun _ _ _ _ => ?_) ?_ | simp only [kept_mk] | split)

theorem kept_execLaneEndvl {z : State} {x0 : LaneWho} {x1 : FR} {s : State} (h : Kept z s) :
    KeptNext z (execLaneEndvl x0 x1 s) := by
  unfold execLaneEndvl
  try dsimp only
  repeat' (first
    | with_reducible assumption | with_reducible apply keptNext_next
    | with_reducible refine kept_laneGo (fun _ _ _ _ => ?_) ?_)

theorem kept_execLaneRedFsum {z : State} {x0 : LaneWho} {x1 : FR} {s : State} (h : Kept z s) :
    KeptNext z (execLaneRedFsum x0 x1 s) := by
  unfold execLaneRedFsum
  try dsimp only
  repeat' (first
    | with_reducible assumption | with_reducible apply keptNext_next | with_reducible apply kept_laneRed)

theorem kept_execLaneRedFprod {z : State} {x0 : LaneWho} {x1 : FR} {s : State} (h : Kept z s) :
    KeptNext z (execLaneRedFprod x0 x1 s) := by
  unfold execLaneRedFprod
  try dsimp only
  repeat' (first
    | with_reducible assumption | with_reducible apply keptNext_next | with_reducible apply kept_laneRed)

theorem kept_execLaneRedFmax {z : State} {x0 : LaneWho} {x1 : FR} {s : State} (h : Kept z s) :
    KeptNext z (execLaneRedFmax x0 x1 s) := by
  unfold execLaneRedFmax
  try dsimp only
  repeat' (first
    | with_reducible assumption | with_reducible apply keptNext_next | with_reducible apply kept_laneRed)

theorem kept_execLaneRedFmin {z : State} {x0 : LaneWho} {x1 : FR} {s : State} (h : Kept z s) :
    KeptNext z (execLaneRedFmin x0 x1 s) := by
  unfold execLaneRedFmin
  try dsimp only
  repeat' (first
    | with_reducible assumption | with_reducible apply keptNext_next | with_reducible apply kept_laneRed)

theorem kept_execLaneRedFargmax {z : State} {x0 : LaneWho} {x1 : FR} {s : State} (h : Kept z s) :
    KeptNext z (execLaneRedFargmax x0 x1 s) := by
  unfold execLaneRedFargmax
  try dsimp only
  repeat' (first
    | with_reducible assumption | with_reducible apply keptNext_next | with_reducible apply kept_laneRed)

theorem kept_execLaneRedFargmin {z : State} {x0 : LaneWho} {x1 : FR} {s : State} (h : Kept z s) :
    KeptNext z (execLaneRedFargmin x0 x1 s) := by
  unfold execLaneRedFargmin
  try dsimp only
  repeat' (first
    | with_reducible assumption | with_reducible apply keptNext_next | with_reducible apply kept_laneRed)

theorem kept_execLaneRedIsum {z : State} {x0 : LaneWho} {x1 : FR} {s : State} (h : Kept z s) :
    KeptNext z (execLaneRedIsum x0 x1 s) := by
  unfold execLaneRedIsum
  try dsimp only
  repeat' (first
    | with_reducible assumption | with_reducible apply keptNext_next | with_reducible apply kept_laneRed)

theorem kept_execLaneRedImax {z : State} {x0 : LaneWho} {x1 : FR} {s : State} (h : Kept z s) :
    KeptNext z (execLaneRedImax x0 x1 s) := by
  unfold execLaneRedImax
  try dsimp only
  repeat' (first
    | with_reducible assumption | with_reducible apply keptNext_next | with_reducible apply kept_laneRed)

theorem kept_execLaneRedImin {z : State} {x0 : LaneWho} {x1 : FR} {s : State} (h : Kept z s) :
    KeptNext z (execLaneRedImin x0 x1 s) := by
  unfold execLaneRedImin
  try dsimp only
  repeat' (first
    | with_reducible assumption | with_reducible apply keptNext_next | with_reducible apply kept_laneRed)

theorem kept_execLaneGetred {z : State} {x0 : LaneWho} {x1 : FR} {s : State} (h : Kept z s) :
    KeptNext z (execLaneGetred x0 x1 s) := by
  unfold execLaneGetred
  try dsimp only
  repeat' (first
    | with_reducible assumption | with_reducible apply keptNext_next
    | with_reducible refine kept_laneGo (fun _ _ _ _ => ?_) ?_)

theorem kept_execLaneBrk {z : State} {x0 : LaneWho} {x1 : FU} {s : State} (h : Kept z s) :
    KeptNext z (execLaneBrk x0 x1 s) := by
  unfold execLaneBrk
  try dsimp only
  repeat' (first
    | with_reducible assumption | with_reducible apply keptNext_next
    | with_reducible refine kept_laneGo (fun _ _ _ _ => ?_) ?_)

theorem kept_execLaneHalt {z : State} {x0 : LaneWho} {x1 : FR} {s : State} (h : Kept z s) :
    KeptNext z (execLaneHalt x0 x1 s) := by
  unfold execLaneHalt
  try dsimp only
  repeat' (first
    | with_reducible assumption | with_reducible apply keptNext_next
    | with_reducible refine kept_laneGo (fun _ _ _ _ => ?_) ?_ | with_reducible apply kept_dropKernel
    | with_reducible apply kept_completeLaunch | simp only [kept_mk] | split)

theorem kept_execLaneLoadReturn {z : State} {x0 : LaneWho} {x1 : List Byte} {x2 : Bool} {s : State} (h : Kept
    z s) :
    KeptNext z (execLaneLoadReturn x0 x1 x2 s) := by
  unfold execLaneLoadReturn
  try dsimp only
  repeat' (first
    | with_reducible assumption | with_reducible apply keptNext_next | with_reducible apply kept_settle
    | simp only [kept_mk] | split)

theorem kept_execPassCommit {z : State} {x0 : LaneRun} {s : State} (h : Kept z s) :
    KeptNext z (execPassCommit x0 s) := by
  unfold execPassCommit
  try dsimp only
  repeat' (first
    | with_reducible assumption | with_reducible apply keptNext_next | with_reducible apply kept_passCommit)

end Sys2Proof.Machine
end

