-- ==== Sys2Proof/Laws/KeptSafety.lean ====
section
/-! SUPPORT. `Kept` of the operations of Safety.lean. -/

set_option maxRecDepth 8000

namespace Sys2Proof.Machine

theorem kept_movedTo {z : State} {x0 : LaneWho} {x1 : LaneKernel} {x2 : LaneThread} {s : State} (h : Kept z s) :
    Kept z (movedTo x0 x1 x2 s) := by
  unfold movedTo
  try dsimp only
  repeat' (first
    | with_reducible assumption | with_reducible apply kept_setKernel)

theorem kept_mbTaken {z : State} {x0 : Nat} {s : State} (h : Kept z s) :
    Kept z (mbTaken x0 s) := by
  unfold mbTaken
  try dsimp only
  repeat' (first
    | with_reducible assumption | simp only [kept_mk])

end Sys2Proof.Machine
end

