-- ==== Sys2Proof/Laws/KeptExec.lean ====
section
/-! SUPPORT. `Kept` of every command. -/

set_option maxRecDepth 8000

namespace Sys2Proof.Machine

/-- Whatever a command does, its next state keeps what `Kept` says. -/
theorem kept_exec {z s : State} (c : Instr) (h : Kept z s) : KeptNext z (exec c s) := by
  cases c with
  | tick => exact kept_execTick h
  | stepCompletion _ _ => exact kept_execStepCompletion h
  | timetableStopped => exact kept_execTimetableStopped h
  | periodApply => exact kept_execPeriodApply h
  | periodChanged => exact kept_execPeriodChanged h
  | ringEn _ => exact kept_execRingEn h
  | windowWrite _ => exact kept_execWindowWrite h
  | overrun => exact kept_execOverrun h
  | cutoff => exact kept_execCutoff h
  | voteSum _ _ _ _ => exact kept_execVoteSum h
  | voteDeadline => exact kept_execVoteDeadline h
  | groupFault => exact kept_execGroupFault h
  | decision _ => exact kept_execDecision h
  | leadLost => exact kept_execLeadLost h
  | crossingMarker _ => exact kept_execCrossingMarker h
  | holdover => exact kept_execHoldover h
  | alignLost => exact kept_execAlignLost h
  | probe _ _ _ _ _ _ => exact kept_execProbe h
  | groupFormed => exact kept_execGroupFormed h
  | memberJoined _ => exact kept_execMemberJoined h
  | memberLeft _ => exact kept_execMemberLeft h
  | dissolve _ => exact kept_execDissolve h
  | ttLoad _ => exact kept_execTtLoad h
  | ttStart _ _ => exact kept_execTtStart h
  | lockPages _ => exact kept_execLockPages h
  | ttSwitch _ => exact kept_execTtSwitch h
  | ttCursor _ => exact kept_execTtCursor h
  | ttuCursorPost _ => exact kept_execTtuCursorPost h
  | ttShipTarget _ => exact kept_execTtShipTarget h
  | xngPeriod _ => exact kept_execXngPeriod h
  | move _ => exact kept_execMove h
  | mmaFull _ _ => exact kept_execMmaFull h
  | mmaPartial _ _ => exact kept_execMmaPartial h
  | mmaCombine _ => exact kept_execMmaCombine h
  | mmaFinal _ => exact kept_execMmaFinal h
  | kernel _ => exact kept_execKernel h
  | allreduce _ _ => exact kept_execAllreduce h
  | reduceScatter _ _ => exact kept_execReduceScatter h
  | allgather _ _ => exact kept_execAllgather h
  | broadcast _ _ => exact kept_execBroadcast h
  | snapShip _ => exact kept_execSnapShip h
  | snapPolicy _ => exact kept_execSnapPolicy h
  | shipmentStart => exact kept_execShipmentStart h
  | storeScrub _ _ => exact kept_execStoreScrub h
  | isletParity _ => exact kept_execIsletParity h
  | ferryInternal _ => exact kept_execFerryInternal h
  | laneInternal _ => exact kept_execLaneInternal h
  | fryQtail _ _ => exact kept_execFryQtail h
  | fryQcfgEnable _ _ => exact kept_execFryQcfgEnable h
  | fryQcfgDisable _ _ => exact kept_execFryQcfgDisable h
  | ferryDescriptor _ _ => exact kept_execFerryDescriptor h
  | copy _ _ => exact kept_execCopy h
  | convert _ _ => exact kept_execConvert h
  | fill _ _ => exact kept_execFill h
  | ferryCompletion _ => exact kept_execFerryCompletion h
  | lncQtail _ _ => exact kept_execLncQtail h
  | lncQcfgEnable _ _ => exact kept_execLncQcfgEnable h
  | lncQcfgDisable _ _ => exact kept_execLncQcfgDisable h
  | laneLoadReturn _ _ _ => exact kept_execLaneLoadReturn h
  | passCommit _ => exact kept_execPassCommit h
  | laneAdd _ _ => exact kept_execLaneAdd h
  | laneSub _ _ => exact kept_execLaneSub h
  | laneAnd _ _ => exact kept_execLaneAnd h
  | laneOr _ _ => exact kept_execLaneOr h
  | laneXor _ _ => exact kept_execLaneXor h
  | laneSll _ _ => exact kept_execLaneSll h
  | laneSrl _ _ => exact kept_execLaneSrl h
  | laneSra _ _ => exact kept_execLaneSra h
  | laneMul _ _ => exact kept_execLaneMul h
  | laneMulhu _ _ => exact kept_execLaneMulhu h
  | laneMulh _ _ => exact kept_execLaneMulh h
  | laneMin _ _ => exact kept_execLaneMin h
  | laneMax _ _ => exact kept_execLaneMax h
  | laneMinu _ _ => exact kept_execLaneMinu h
  | laneMaxu _ _ => exact kept_execLaneMaxu h
  | laneDivu _ _ => exact kept_execLaneDivu h
  | laneRemu _ _ => exact kept_execLaneRemu h
  | laneAddB4 _ _ => exact kept_execLaneAddB4 h
  | laneSubB4 _ _ => exact kept_execLaneSubB4 h
  | laneAddsB4 _ _ => exact kept_execLaneAddsB4 h
  | laneMinB4 _ _ => exact kept_execLaneMinB4 h
  | laneMaxB4 _ _ => exact kept_execLaneMaxB4 h
  | laneDotB4 _ _ => exact kept_execLaneDotB4 h
  | laneAddH2 _ _ => exact kept_execLaneAddH2 h
  | laneSubH2 _ _ => exact kept_execLaneSubH2 h
  | laneAddsH2 _ _ => exact kept_execLaneAddsH2 h
  | laneMinH2 _ _ => exact kept_execLaneMinH2 h
  | laneMaxH2 _ _ => exact kept_execLaneMaxH2 h
  | laneMulH2 _ _ => exact kept_execLaneMulH2 h
  | laneAddi _ _ => exact kept_execLaneAddi h
  | laneAndi _ _ => exact kept_execLaneAndi h
  | laneOri _ _ => exact kept_execLaneOri h
  | laneXori _ _ => exact kept_execLaneXori h
  | laneSlli _ _ => exact kept_execLaneSlli h
  | laneSrli _ _ => exact kept_execLaneSrli h
  | laneSrai _ _ => exact kept_execLaneSrai h
  | laneLui _ _ => exact kept_execLaneLui h
  | laneLli _ _ => exact kept_execLaneLli h
  | laneFadd _ _ => exact kept_execLaneFadd h
  | laneFsub _ _ => exact kept_execLaneFsub h
  | laneFmul _ _ => exact kept_execLaneFmul h
  | laneFdiv _ _ => exact kept_execLaneFdiv h
  | laneFmin _ _ => exact kept_execLaneFmin h
  | laneFmax _ _ => exact kept_execLaneFmax h
  | laneFsqrt _ _ => exact kept_execLaneFsqrt h
  | laneFexp2 _ _ => exact kept_execLaneFexp2 h
  | laneFlog2 _ _ => exact kept_execLaneFlog2 h
  | laneFneg _ _ => exact kept_execLaneFneg h
  | laneFabs _ _ => exact kept_execLaneFabs h
  | laneFmac _ _ => exact kept_execLaneFmac h
  | laneF2i _ _ => exact kept_execLaneF2i h
  | laneI2f _ _ => exact kept_execLaneI2f h
  | laneF2f16 _ _ => exact kept_execLaneF2f16 h
  | laneF162f _ _ => exact kept_execLaneF162f h
  | laneF2w16 _ _ => exact kept_execLaneF2w16 h
  | laneW162f _ _ => exact kept_execLaneW162f h
  | laneF2e4m3 _ _ => exact kept_execLaneF2e4m3 h
  | laneE4m32f _ _ => exact kept_execLaneE4m32f h
  | laneF2e5m2 _ _ => exact kept_execLaneF2e5m2 h
  | laneE5m22f _ _ => exact kept_execLaneE5m22f h
  | laneF2i8 _ _ => exact kept_execLaneF2i8 h
  | laneI82f _ _ => exact kept_execLaneI82f h
  | laneFeq _ _ => exact kept_execLaneFeq h
  | laneFlt _ _ => exact kept_execLaneFlt h
  | laneFle _ _ => exact kept_execLaneFle h
  | laneFun _ _ => exact kept_execLaneFun h
  | laneEq _ _ => exact kept_execLaneEq h
  | laneNe _ _ => exact kept_execLaneNe h
  | laneLt _ _ => exact kept_execLaneLt h
  | laneLtu _ _ => exact kept_execLaneLtu h
  | laneGe _ _ => exact kept_execLaneGe h
  | laneGeu _ _ => exact kept_execLaneGeu h
  | lanePlogAnd _ _ => exact kept_execLanePlogAnd h
  | lanePlogOr _ _ => exact kept_execLanePlogOr h
  | lanePlogXor _ _ => exact kept_execLanePlogXor h
  | lanePlogAndn _ _ => exact kept_execLanePlogAndn h
  | laneSel _ _ _ => exact kept_execLaneSel h
  | laneLdsB _ _ => exact kept_execLaneLdsB h
  | laneLdsH _ _ => exact kept_execLaneLdsH h
  | laneLdsW _ _ => exact kept_execLaneLdsW h
  | laneStsB _ _ => exact kept_execLaneStsB h
  | laneStsH _ _ => exact kept_execLaneStsH h
  | laneStsW _ _ => exact kept_execLaneStsW h
  | laneLdmB _ _ => exact kept_execLaneLdmB h
  | laneLdmH _ _ => exact kept_execLaneLdmH h
  | laneLdmW _ _ => exact kept_execLaneLdmW h
  | laneStmB _ _ => exact kept_execLaneStmB h
  | laneStmH _ _ => exact kept_execLaneStmH h
  | laneStmW _ _ => exact kept_execLaneStmW h
  | laneLde _ _ => exact kept_execLaneLde h
  | laneSte _ _ => exact kept_execLaneSte h
  | laneLdod _ _ => exact kept_execLaneLdod h
  | laneBeq _ _ => exact kept_execLaneBeq h
  | laneBne _ _ => exact kept_execLaneBne h
  | laneBlt _ _ => exact kept_execLaneBlt h
  | laneBge _ _ => exact kept_execLaneBge h
  | laneBltu _ _ => exact kept_execLaneBltu h
  | laneBgeu _ _ => exact kept_execLaneBgeu h
  | laneBp _ _ => exact kept_execLaneBp h
  | laneJ _ _ => exact kept_execLaneJ h
  | laneSetvl _ _ => exact kept_execLaneSetvl h
  | laneEndvl _ _ => exact kept_execLaneEndvl h
  | laneRedFsum _ _ => exact kept_execLaneRedFsum h
  | laneRedFprod _ _ => exact kept_execLaneRedFprod h
  | laneRedFmax _ _ => exact kept_execLaneRedFmax h
  | laneRedFmin _ _ => exact kept_execLaneRedFmin h
  | laneRedFargmax _ _ => exact kept_execLaneRedFargmax h
  | laneRedFargmin _ _ => exact kept_execLaneRedFargmin h
  | laneRedIsum _ _ => exact kept_execLaneRedIsum h
  | laneRedImax _ _ => exact kept_execLaneRedImax h
  | laneRedImin _ _ => exact kept_execLaneRedImin h
  | laneGetred _ _ => exact kept_execLaneGetred h
  | laneMfsr _ _ => exact kept_execLaneMfsr h
  | laneBrk _ _ => exact kept_execLaneBrk h
  | laneHalt _ _ => exact kept_execLaneHalt h
  | lineRead _ _ _ => exact kept_execLineRead h
  | lineWrite _ _ _ _ _ _ => exact kept_execLineWrite h
  | wcEviction _ _ => exact kept_execWcEviction h
  | patrolScrub _ => exact kept_execPatrolScrub h
  | refresh n => exact kept_execRefresh (x0 := n) h
  | primaryCalibration _ => exact kept_execPrimaryCalibration h
  | calFallback _ => exact kept_execCalFallback h
  | marginScanDone _ _ _ _ => exact kept_execMarginScanDone h
  | ceLimitReached _ => exact kept_execCeLimitReached h
  | channelLost _ => exact kept_execChannelLost h
  | allocCtx _ => exact kept_execAllocCtx h
  | freeCtx _ => exact kept_execFreeCtx h
  | addRegion _ => exact kept_execAddRegion h
  | removeRegion _ => exact kept_execRemoveRegion h
  | pin _ => exact kept_execPin h
  | unpin _ => exact kept_execUnpin h
  | evict _ => exact kept_execEvict h
  | joinGroup _ => exact kept_execJoinGroup h
  | leaveGroup _ => exact kept_execLeaveGroup h
  | pageMigrated _ => exact kept_execPageMigrated h
  | countDecay => exact kept_execCountDecay h
  | skctxWrite _ _ _ => exact kept_execSkctxWrite h
  | load _ _ _ _ _ _ => exact kept_execLoad h
  | store _ _ _ _ _ _ => exact kept_execStore h
  | cboClean _ _ _ => exact kept_execCboClean h
  | cboFlush _ _ _ => exact kept_execCboFlush h
  | cboInval _ _ _ _ => exact kept_execCboInval h
  | cboZero _ _ _ _ => exact kept_execCboZero h
  | rds _ => exact kept_execRds h
  | rdx _ => exact kept_execRdx h
  | upg _ => exact kept_execUpg h
  | cbo _ => exact kept_execCbo h
  | vic _ => exact kept_execVic h
  | chk _ => exact kept_execChk h
  | snps _ => exact kept_execSnps h
  | snpx _ => exact kept_execSnpx h
  | snpw _ => exact kept_execSnpw h
  | snpv _ => exact kept_execSnpv h
  | srsp _ _ => exact kept_execSrsp h
  | gnt _ => exact kept_execGnt h
  | nack _ => exact kept_execNack h
  | cack _ => exact kept_execCack h
  | wcan _ => exact kept_execWcan h
  | data _ => exact kept_execData h
  | wdata _ _ => exact kept_execWdata h
  | udata _ => exact kept_execUdata h
  | requestResend _ _ => exact kept_execRequestResend h
  | reservationExpiry _ => exact kept_execReservationExpiry h
  | transactionTimeout _ => exact kept_execTransactionTimeout h
  | sndLock => exact kept_execSndLock h
  | detect _ => exact kept_execDetect h
  | equalise _ => exact kept_execEqualise h
  | align _ _ _ => exact kept_execAlign h
  | linkup _ _ _ _ _ => exact kept_execLinkup h
  | trainingTimeout _ => exact kept_execTrainingTimeout h
  | codewordLockLost _ => exact kept_execCodewordLockLost h
  | retrainRequest _ => exact kept_execRetrainRequest h
  | laneCeLimit _ _ => exact kept_execLaneCeLimit h
  | retrainDone _ _ _ _ => exact kept_execRetrainDone h
  | dataFlit _ _ _ _ => exact kept_execDataFlit h
  | idleFlit _ _ _ _ => exact kept_execIdleFlit h
  | nak _ _ _ _ => exact kept_execNak h
  | nakHoldoffExpiry _ => exact kept_execNakHoldoffExpiry h
  | ackFlitInterval _ => exact kept_execAckFlitInterval h
  | crd _ _ _ => exact kept_execCrd h
  | creditStall _ => exact kept_execCreditStall h
  | winWr _ _ _ => exact kept_execWinWr h
  | windowDoorbell _ _ _ => exact kept_execWindowDoorbell h
  | slotRead _ _ => exact kept_execSlotRead h
  | slotReread _ _ => exact kept_execSlotReread h
  | pull _ _ _ => exact kept_execPull h
  | push _ _ _ => exact kept_execPush h
  | flush _ _ _ => exact kept_execFlush h
  | nop _ _ _ => exact kept_execNop h
  | zngFlushStart => exact kept_execZngFlushStart h
  | flushAck _ _ => exact kept_execFlushAck h
  | flushTimeout _ => exact kept_execFlushTimeout h
  | place _ _ _ _ _ _ _ => exact kept_execPlace h
  | rdCpl _ _ _ _ _ => exact kept_execRdCpl h
  | wrAck _ _ _ => exact kept_execWrAck h
  | feed _ _ _ _ => exact kept_execFeed (x1 := default) h
  | linkDown _ => exact kept_execLinkDown h
  | prsntNHigh _ _ => exact kept_execPrsntNHigh h
  | keysReturned _ => exact kept_execKeysReturned h
  | mailboxDoorbell _ => exact kept_execMailboxDoorbell h
  | mailboxAck _ => exact kept_execMailboxAck h
  | i3cPrivateWrite _ => exact kept_execI3cPrivateWrite h
  | entdaa _ => exact kept_execEntdaa h
  | setdasa _ _ => exact kept_execSetdasa h
  | commandTimeout _ => exact kept_execCommandTimeout h
  | getInfo _ => exact kept_execGetInfo h
  | getState _ => exact kept_execGetState h
  | configSet _ => exact kept_execConfigSet h
  | configDone _ => exact kept_execConfigDone h
  | shutdown _ => exact kept_execShutdown h
  | reset _ => exact kept_execReset h
  | funcStart _ => exact kept_execFuncStart h
  | funcStop _ => exact kept_execFuncStop h
  | functionRunning _ => exact kept_execFunctionRunning h
  | functionStopped _ => exact kept_execFunctionStopped h
  | groupForm _ => exact kept_execGroupForm h
  | groupJoin _ => exact kept_execGroupJoin h
  | groupAdmit _ => exact kept_execGroupAdmit h
  | groupLeave _ => exact kept_execGroupLeave h
  | groupWindow _ => exact kept_execGroupWindow h
  | hostRegister _ => exact kept_execHostRegister h
  | hostRelease _ => exact kept_execHostRelease h
  | placeRegister _ => exact kept_execPlaceRegister h
  | placeRelease _ => exact kept_execPlaceRelease h
  | queueConfig _ => exact kept_execQueueConfig h
  | margin _ => exact kept_execMargin h
  | pair _ => exact kept_execPair h
  | unpair _ => exact kept_execUnpair h
  | secure _ => exact kept_execSecure h
  | restore _ => exact kept_execRestore h
  | healthConfig _ => exact kept_execHealthConfig h
  | standby _ => exact kept_execStandby h
  | takeover _ => exact kept_execTakeover h
  | recRead _ => exact kept_execRecRead h
  | attest _ => exact kept_execAttest h
  | getCert _ => exact kept_execGetCert h
  | fwWrite _ => exact kept_execFwWrite h
  | fwCommit _ _ => exact kept_execFwCommit h
  | moduleHalted => exact kept_execModuleHalted h
  | eHalving => exact kept_execEHalving h
  | tempSample _ _ _ => exact kept_execTempSample h
  | intervalExpiry => exact kept_execIntervalExpiry h
  | powerWarning _ _ => exact kept_execPowerWarning h
  | leakDetected _ _ => exact kept_execLeakDetected h
  | recordWrite => exact kept_execRecordWrite h
  | minuteCount => exact kept_execMinuteCount h
  | pwrEnNAsserted _ _ => exact kept_execPwrEnNAsserted h
  | pwrEnNDeasserted _ => exact kept_execPwrEnNDeasserted h
  | powerDown => exact kept_execPowerDown h
  | railStep => exact kept_execRailStep h
  | railStepTimeout => exact kept_execRailStepTimeout h
  | hardTrip _ => exact kept_execHardTrip h
  | powerLimiting _ _ _ => exact kept_execPowerLimiting h
  | regulatorWarning _ _ => exact kept_execRegulatorWarning h
  | coolantWarning _ _ => exact kept_execCoolantWarning h
  | feedIdChanged _ _ => exact kept_execFeedIdChanged h
  | harbourFirmwareStart => exact kept_execHarbourFirmwareStart h
  | flashRead _ _ => exact kept_execFlashRead h
  | straitTraining _ => exact kept_execStraitTraining h
  | lpddrTraining _ _ => exact kept_execLpddrTraining h
  | configHoldExpired => exact kept_execConfigHoldExpired h
  | isletTest _ => exact kept_execIsletTest h
  | clockStart => exact kept_execClockStart h
  | rollbackRaised _ => exact kept_execRollbackRaised h
  | bringupFailed _ => exact kept_execBringupFailed h
  | registerWrite _ _ => exact kept_execRegisterWrite h
  | turnOnThreshold => exact kept_execTurnOnThreshold h
  | gatingReleased _ _ _ => exact kept_execGatingReleased h
  | warningSourceDeasserted _ _ => exact kept_execWarningSourceDeasserted h
  | straitLaneSpared _ => exact kept_execStraitLaneSpared h
  | leaveRequestReceived _ _ => exact kept_execLeaveRequestReceived h
  | hostWindowAccess _ _ _ _ _ => exact kept_execHostWindowAccess h
  | undefinedOpcode _ => exact kept_execUndefinedOpcode h

end Sys2Proof.Machine
end

