-- ==== Sys2Proof/Laws/Lane.lean ====
section
/-! SUPPORT. What the shared operations of the lane engine do (R167 to R192). -/

namespace Sys2Proof.Machine

/-- What a lane instruction does whose guard is true. -/
theorem laneGo_runs {c w pg s k th off act} (h : laneRuns c w pg s k th) :
    laneGo w c pg off act s = settle w (act k th s).2.1 (act k th s).2.2 (act k th s).1 := by
  obtain ⟨⟨h1, h2, h3, h4, h5⟩, h6⟩ := h
  simp [laneGo, h1, h2, h3, h4, h5, h6]

/-- What a lane instruction does whose guard is false (R182). -/
theorem laneGo_off {c w pg s k th off act} (h : laneNext c w s k th) (h6 : getP th pg.toNat = false) :
    laneGo w c pg off act s = settle w k (stepPc (off th)) s := by
  obtain ⟨h1, h2, h3, h4, h5⟩ := h
  simp [laneGo, h1, h2, h3, h4, h5, h6]

/-- An instance that neither traps nor leaves its code goes on as it is. -/
theorem settle_goes {w k th s} (h1 : (laneKernel s w.run).isSome = true) (h2 : th.trap = none) (h3 : goesOn k th.pc) :
    settle w k th s = movedTo w k th s := by
  unfold settle
  obtain ⟨k', hk'⟩ := Option.isSome_iff_exists.1 h1
  rw [hk']
  simp only [h2]
  by_cases h : k.loop.isSome = true
  · simp [h, movedTo]
  · have : th.pc < k.code.length := by cases h3 <;> simp_all
    have h' : ¬ k.code.length ≤ th.pc := by omega
    simp [h, h', movedTo]

/-- A ready instance has no trap. -/
theorem ready_trap {th : LaneThread} (h : threadReady th = true) : th.trap = none := by
  simp [threadReady] at h; exact h.2

@[simp] theorem setG_trap (th : LaneThread) (i v) : (setG th i v).trap = th.trap := by unfold setG; split <;> rfl

@[simp] theorem setG_pc (th : LaneThread) (i v) : (setG th i v).pc = th.pc := by unfold setG; split <;> rfl

@[simp] theorem setP_trap (th : LaneThread) (i v) : (setP th i v).trap = th.trap := by unfold setP; split <;> rfl

@[simp] theorem setP_pc (th : LaneThread) (i v) : (setP th i v).pc = th.pc := by unfold setP; split <;> rfl

/-- An instruction that writes a register writes its value and goes to the next word. -/
theorem laneReg_goes {c w pg z rd val s k th} (h : laneRuns c w pg s k th) (hg : goesOn k (th.pc + 1)) :
    laneReg w c pg z rd val s = movedTo w k (stepPc (setG th rd (val th))) s := by
  rw [laneReg, laneGo_runs h]
  exact settle_goes (by simp [h.1.1]) (by simp [stepPc, ready_trap h.1.2.2.1]) (by simpa [stepPc] using hg)

/-- The same, its value named. -/
theorem laneReg_is {c w pg z rd val s k th v} (h : laneRuns c w pg s k th) (hg : goesOn k (th.pc + 1)) (hv : val th = v) :
    laneReg w c pg z rd val s = movedTo w k (stepPc (setG th rd v)) s := by rw [laneReg_goes h hg, hv]

/-- The smaller of two signed values. -/
theorem minS_eq {w} (a b : BitVec w) : minS a b = if a.toInt < b.toInt then a else b := by
  unfold minS BitVec.slt; simp

/-- The larger of two signed values. -/
theorem maxS_eq {w} (a b : BitVec w) : maxS a b = if a.toInt < b.toInt then b else a := by
  unfold maxS BitVec.slt; simp

/-- A word is its four bytes. -/
theorem byte_eq {v x : Word32} (h : ∀ i < 4, v.extractLsb' (8 * i) 8 = x.extractLsb' (8 * i) 8) : v = x := by
  have h0 := h 0 (by omega); have h1 := h 1 (by omega); have h2 := h 2 (by omega); have h3 := h 3 (by omega)
  apply BitVec.eq_of_getLsbD_eq
  intro i hi
  have g : ∀ j (hj : j < 4), ∀ q < 8, v.getLsbD (8 * j + q) = x.getLsbD (8 * j + q) := by
    intro j hj q hq
    have := congrArg (·.getLsbD q) (h j hj)
    simpa [BitVec.getLsbD_extractLsb', hq] using this
  have := g (i / 8) (by omega) (i % 8) (by omega)
  rwa [Nat.div_add_mod] at this

/-- A word is its two halves. -/
theorem half_eq {v x : Word32} (h : ∀ i < 2, v.extractLsb' (16 * i) 16 = x.extractLsb' (16 * i) 16) : v = x := by
  apply BitVec.eq_of_getLsbD_eq
  intro i hi
  have g : ∀ j (hj : j < 2), ∀ q < 16, v.getLsbD (16 * j + q) = x.getLsbD (16 * j + q) := by
    intro j hj q hq
    have := congrArg (·.getLsbD q) (h j hj)
    simpa [BitVec.getLsbD_extractLsb', hq] using this
  have := g (i / 16) (by omega) (i % 16) (by omega)
  rwa [Nat.div_add_mod] at this

/-- A packed operation on bytes, byte by byte. -/
theorem packB4_byte (op a b) : ∀ i < 4, (packB4 op a b).extractLsb' (8 * i) 8 =
    op (a.extractLsb' (8 * i) 8) (b.extractLsb' (8 * i) 8) := by
  intro i hi
  unfold packB4
  apply BitVec.eq_of_getLsbD_eq; intro q hq
  rw [BitVec.getLsbD_extractLsb']
  have : i = 0 ∨ i = 1 ∨ i = 2 ∨ i = 3 := by omega
  rcases this with rfl | rfl | rfl | rfl
  all_goals simp only [BitVec.getLsbD_append, hq, decide_true, Bool.true_and]
  all_goals (repeat' split) <;> first | omega | skip
  all_goals (congr 1; omega)

/-- A packed operation on halves, half by half. -/
theorem packH2_half (op a b) : ∀ i < 2, (packH2 op a b).extractLsb' (16 * i) 16 =
    op (a.extractLsb' (16 * i) 16) (b.extractLsb' (16 * i) 16) := by
  intro i hi
  unfold packH2
  apply BitVec.eq_of_getLsbD_eq; intro q hq
  rw [BitVec.getLsbD_extractLsb']
  have : i = 0 ∨ i = 1 := by omega
  rcases this with rfl | rfl
  all_goals simp only [BitVec.getLsbD_append, hq, decide_true, Bool.true_and]
  all_goals (repeat' split) <;> first | omega | skip
  all_goals (congr 1; omega)

/-- LLI keeps bits 31:15 and takes bits 14:0 from its operand. -/
theorem lli_val (g : Word32) (u : BitVec 17) : g.extractLsb' 15 17 ++ u.extractLsb' 0 15
    = BitVec.ofNat 32 (g.toNat / 2 ^ 15 * 2 ^ 15 + u.toNat % 2 ^ 15) := by
  apply BitVec.eq_of_toNat_eq
  rw [BitVec.toNat_append]
  simp only [BitVec.extractLsb'_toNat, Nat.shiftRight_eq_div_pow, BitVec.toNat_ofNat]
  rw [← Nat.shiftLeft_add_eq_or_of_lt (by omega), Nat.shiftLeft_eq]
  have := g.isLt
  omega

/-- LUI puts its operand in bits 31:15. -/
theorem lui_val (u : BitVec 17) : u.setWidth 32 <<< 15 = BitVec.ofNat 32 (u.toNat * 2 ^ 15) := by
  apply BitVec.eq_of_toNat_eq; simp [Nat.shiftLeft_eq]

/-- A comparison writes its predicate and goes to the next word. -/
theorem laneCmp_goes {c w f op s k th} (h : laneRuns c w f.pg s k th) (hg : goesOn k (th.pc + 1)) :
    laneCmp w c f op s = movedTo w k (stepPc (setP th f.rd.toNat (op (getG th f.rs1.toNat) (getG th f.rs2.toNat)))) s := by
  rw [laneCmp, laneGo_runs h]
  exact settle_goes (by simp [h.1.1]) (by simp [stepPc, ready_trap h.1.2.2.1]) (by simpa [stepPc] using hg)

/-- A predicate operation writes its predicate and goes to the next word. -/
theorem lanePlog_goes {c w f op s k th} (h : laneRuns c w f.pg s k th) (hg : goesOn k (th.pc + 1)) :
    lanePlog w c f op s = movedTo w k (stepPc (setP th f.rd.toNat (op (getP th f.rs1.toNat) (getP th f.rs2.toNat)))) s := by
  rw [lanePlog, laneGo_runs h]
  exact settle_goes (by simp [h.1.1]) (by simp [stepPc, ready_trap h.1.2.2.1]) (by simpa [stepPc] using hg)

/-- A comparison, its value named. -/
theorem laneCmp_is {c w f op s k th v} (h : laneRuns c w f.pg s k th) (hg : goesOn k (th.pc + 1))
    (hv : op (getG th f.rs1.toNat) (getG th f.rs2.toNat) = v) :
    laneCmp w c f op s = movedTo w k (stepPc (setP th f.rd.toNat v)) s := by rw [laneCmp_goes h hg, hv]

/-- Where a branch goes. -/
theorem jump_goes {w k th s} (ht : th.trap = none) (hk : laneKernel s w.run = some k) (cond cond' : Bool) (o : Int)
     (hc : cond' = cond)
     (hh : goesOn k (if cond then ((th.pc : Int) + o).toNat else th.pc + 1)) :
     settle w k (if cond' then jumpBy th o else stepPc th) s
      = movedTo w k { th with pc := if cond then ((th.pc : Int) + o).toNat else th.pc + 1 } s := by
  subst hc
  refine (settle_goes (by simp [hk]) ?_ ?_).trans ?_
  · cases cond' <;> simp [stepPc, jumpBy, ht]
  · cases cond' <;> simpa [stepPc, jumpBy] using hh
  · cases cond' <;> rfl

/-- A branch goes to its target or to the next word. -/
theorem laneBranch_is {c w f op s k th} {v : Bool} (h : laneRuns c w f.pg s k th) 
    (hv : op (getG th f.rs1.toNat) (getG th f.rs2.toNat) = v)
    (hh : goesOn k (if v then ((th.pc : Int) + f.imm.toInt).toNat else th.pc + 1)) :
    laneBranch w c f op s = movedTo w k { th with pc := if v then ((th.pc : Int) + f.imm.toInt).toNat else th.pc + 1 } s := by
  rw [laneBranch, laneGo_runs h]
  exact jump_goes (ready_trap h.1.2.2.1) h.1.1 v _ _ hv hh

/-- A load whose bytes are there writes them, or waits for them to return (R168). -/
theorem laneLoad_data {k th t n rem fin s u bs} (h : laneGet k th t n s = (u, .data bs)) :
    laneLoad k th t n rem fin s = (u, k,
      if leavesStore k t then { fin th bs with waiting := some .near } else stepPc (fin th bs)) := by
  unfold laneLoad; rw [h]; dsimp only; split <;> rfl

/-- Whether a load leaves the store depends on its range alone. -/
theorem leaves_base (k s kr off) : leavesStore k (rangeTarget s kr off) = leavesStore k kr.base := by
  unfold rangeTarget leavesStore
  cases kr.base <;> simp only
  cases (actSlot s).image <;> rfl

/-- A store in a body joins the stores of its instance (R173). -/
theorem laneStore_loop {k th st s} (hl : k.loop.isSome = true) (h : th.stores.length < 32) :
    laneStore k th st s = (s, k, stepPc { th with stores := th.stores ++ [st] }) := by
  unfold laneStore; rw [if_pos hl, if_neg (by omega)]

/-- The 33rd store of an instance traps (R175). -/
theorem laneStore_full {k th st s} (hl : k.loop.isSome = true) (h : 32 ≤ th.stores.length) :
    laneStore k th st s = (s, k, trapWith th 3 0) := by
  unfold laneStore; rw [if_pos hl, if_pos h]

/-- A store in uniform code takes effect at once (R174). -/
theorem laneStore_uni {k th st s} (hl : k.loop = none) (h : storeVerdict s k st = .served) :
    laneStore k th st s = (commitStore k s st, k, stepPc th) := by
  unfold laneStore; simp [hl, h]

/-- The three ways a store ends. -/
theorem laneGo_store {c w pg off s k th st act} (hr : laneRuns c w pg s k th) (ha : act k th s = laneStore k th st s) :
    (k.loop.isSome = true → th.stores.length < 32 →
      laneGo w c pg off act s = (movedTo w k (stepPc { th with stores := th.stores ++ [st] }) s))
    ∧ (k.loop.isSome = true → 32 ≤ th.stores.length →
      laneGo w c pg off act s = (movedTo w k { th with trap := some ⟨3, th.pc, 0⟩ } s))
    ∧ (k.loop = none → storeVerdict s k st = .served → (laneKernel (commitStore k s st) w.run).isSome = true →
      goesOn k (th.pc + 1) → laneGo w c pg off act s = (movedTo w k (stepPc th) (commitStore k s st))) := by
  have ht := ready_trap hr.1.2.2.1
  rw [laneGo_runs hr, ha]
  refine ⟨fun h1 h2 => ?_, fun h1 h2 => ?_, fun h1 h2 h3 h4 => ?_⟩
  · rw [laneStore_loop h1 h2]; exact settle_goes (by simp [hr.1.1]) (by simp [stepPc, ht]) (Or.inl h1)
  · rw [laneStore_full h1 h2]; simp only [settle, hr.1.1, h1, if_true, movedTo, trapWith]
  · rw [laneStore_uni h1 h2]; exact settle_goes h3 (by simp [stepPc, ht]) (by simpa [stepPc] using h4)

/-- A list of instances read by thread. -/
theorem assoc_map (t : Nat) (f : Nat → LaneThread) (l : List Nat) :
    assoc t (l.map fun i => (i, f i)) = if t ∈ l then some (f t) else none := by
  induction l with
  | nil => simp [assoc]
  | cons a r ih =>
    simp only [List.map_cons, assoc, ih, List.mem_cons]
    by_cases h : a = t
    · simp [h]
    · simp [h, Ne.symm h]

/-- One entry of a list taken out. -/
theorem assoc_del {α} (t u : Nat) (l : List (Nat × α)) :
    assoc t (l.filter fun p => p.1 != u) = if t = u then none else assoc t l := by
  induction l with
  | nil => simp [assoc]
  | cons p r ih =>
    obtain ⟨i, x⟩ := p
    simp only [List.filter_cons]
    by_cases h : i = u
    · subst h; simp only [bne_self_eq_false, Bool.false_eq_true, if_false, ih, assoc]
      split_ifs <;> simp_all
    · have : (i != u) = true := by simpa using h
      simp only [this, if_true, assoc, ih]
      split_ifs <;> simp_all

/-- A run that has ended is not there. -/
theorem laneKernel_drop (r s) : laneKernel (dropKernel r s) r = none := by
  cases r <;> simp [dropKernel, laneKernel, assocDel, assoc_del]

/-- A saturating addition clamps the exact sum. -/
theorem addSat_eq {w : Nat} (x y : BitVec w) : addSat x y =
    BitVec.ofInt w (max (-(2 ^ (w - 1) : Int)) (min (x.toInt + y.toInt) (2 ^ (w - 1) - 1))) := rfl

end Sys2Proof.Machine
end

