-- ==== Sys2Proof/Laws/Mailbox.lean ====
section
/-! SUPPORT. A mailbox's request on its way to its own effect (R356, R357, R361). -/

namespace Sys2Proof.Machine

/-- A mailbox set to anything but a fresh one reads as it was set. -/
theorem mbOf_setMb (s : State) (m : Nat) (x : Mailbox) (h : x ≠ {}) (k : Nat) :
    mbOf (setMb m x s) k = if k = m then x else mbOf s k := look_put_ne ({} : Mailbox) x h m k s.hbr.mbs

/-- A RUNNING mailbox is no fresh one. -/
theorem running_fresh (x : Mailbox) (h : x.state = .running) : x ≠ {} := by
  intro e
  rw [e] at h
  cases h

/-- What the mailboxes hold once one has been taken. -/
theorem mbOf_mbTaken (s : State) (m k : Nat) : mbOf (mbTaken m s) k = if k = m then mbRunning s m else mbOf s k :=
  look_put_ne ({} : Mailbox) (mbRunning s m) (running_fresh _ rfl) m k s.hbr.mbs

/-- The first checks read nothing that taking the request changes. -/
theorem firstChecks_mbTaken (s : State) (m : Nat) : firstChecks (mbTaken m s) m = firstChecks s m := by
  have h : mbOf (mbTaken m s) m = mbRunning s m := by rw [mbOf_mbTaken, if_pos rfl]
  simp only [firstChecks, h]
  rfl

/-- Waiting for nothing changes nothing of a request that has just been taken. -/
theorem await_mbTaken (s : State) (m : Nat) : await m .nothing (mbTaken m s) = mbTaken m s := by
  have h : mbOf (mbTaken m s) m = mbRunning s m := by rw [mbOf_mbTaken, if_pos rfl]
  have e : put ({} : Mailbox) m (mbRunning s m) (mbTaken m s).hbr.mbs = (mbTaken m s).hbr.mbs :=
    put_put ({} : Mailbox) (mbRunning s m) (running_fresh _ rfl) m s.hbr.mbs
  have w : ({ mbRunning s m with wait := .nothing } : Mailbox) = mbRunning s m := rfl
  unfold await setMb
  rw [h, w, e]

/-- The request that has passed its checks has its own effect, and nothing else happens. -/
theorem mbCommand_entered (op m : Nat) (s : State) (x : Mailbox) (s' : State) (act : Mailbox → State → State)
    (h : Entered op m s x s') : mbCommand op m act s = act x s' := by
  obtain ⟨h1, h2, h3, h5⟩ := h
  rcases h5 with ⟨h5, h6, h4, h7, rfl, rfl⟩ | ⟨h5, h6, h4, rfl, rfl⟩
  · have hs : ¬ (mbOf s m).state = .running := by rw [h5]; decide
    have hl : mbOf (mbTaken m s) m = mbRunning s m := by rw [mbOf_mbTaken, if_pos rfl]
    have hp : ¬ (m < 8 ∧ takesPayload op = true ∧ mbPayLen (mbOf s m) ≠ 0) := fun h => h.2.2 (h7 h.1)
    have hop : mbOp (mbRunning s m) = op := h2
    have ha : argsOk (mbTaken m s).cfg op m (mbRunning s m) = true := h3
    have hb : (mbRunning s m).busy = false := by rw [← h2] at h4; exact h4
    have hf : firstChecks (mbTaken m s) m = none := by rw [firstChecks_mbTaken]; exact h6
    have hbad : (mbRunning s m).bad = false := rfl
    show (if (!mbReady m s || mbOp (mbOf s m) != op) = true then s
      else if ((mbOf s m).state == .running) = true then laterChecks m act s
      else match firstChecks (mbTaken m s) m with
        | some st => finish m st (mbTaken m s)
        | none => if m < 8 ∧ takesPayload op = true ∧ mbPayLen (mbOf s m) ≠ 0 then fetchPayload m act (mbTaken m s)
          else laterChecks m act (mbTaken m s)) = _
    rw [if_neg (by simp [h1, h2]), if_neg (by simpa using hs), hf]
    simp only [if_neg hp, laterChecks, hl, hbad, hop, ha, hb, await_mbTaken]
    simp
  · simp [mbCommand, h1, h2, h5, laterChecks, h6, h3, h4]

end Sys2Proof.Machine
end

