-- ==== Sys2Proof/Laws/Raise.lean ====
section
/-! SUPPORT. What sending a transaction and raising an event leave alone: every field but the recorder's, the health monitor's, the
link's and what leaves the module. -/

namespace Sys2Proof.Machine

/-- Two states differ at most in the recorder, the health monitor, the link and what has left the module. -/
def Aside (s t : State) : Prop := t = { s with log := t.log, hlt := t.hlt, zng := t.zng, out := t.out }

/-- Nothing happens. -/
theorem aside_refl (s : State) : Aside s s := rfl

/-- One thing after another. -/
theorem aside_trans {s t u : State} (h : Aside s t) (k : Aside t u) : Aside s u := by
  unfold Aside at *
  rw [k, h]

/-- A port is set. -/
theorem aside_setPort (p : Nat) (x : Port) (s : State) : Aside s (setPort p x s) := rfl

/-- Something leaves the module. -/
theorem aside_emit (o : Out) (s : State) : Aside s (emit o s) := rfl

/-- One thing after another, over a list. -/
theorem aside_foldl {α : Type} (f : State → α → State) (h : ∀ s x, Aside s (f s x)) (l : List α) (s : State) :
    Aside s (l.foldl f s) := by
  induction l generalizing s with
  | nil => exact aside_refl s
  | cons x r ih => exact aside_trans (h s x) (ih _)

/-- A flit leaves. -/
theorem aside_sendFlit (p : Nat) (x : Port) (s : State) : Aside s (sendFlit p x s) := rfl

/-- What may leave a port leaves. -/
theorem aside_pumpAux (n p : Nat) (s : State) : Aside s (pumpAux n p s) := by
  induction n generalizing s with
  | zero => exact aside_refl s
  | succ n ih =>
    unfold pumpAux
    dsimp only
    split
    · exact aside_trans (aside_sendFlit _ _ _) (ih _)
    · exact aside_refl s

/-- A transaction is issued. -/
theorem aside_sendTxn (p cls : Nat) (bs : List Byte) (s : State) : Aside s (sendTxn p cls bs s) :=
  aside_trans (aside_setPort _ _ s) (aside_pumpAux _ _ _)

/-- The external host is interrupted. -/
theorem aside_eventIrq (c d : Nat) (s : State) : Aside s (eventIrq c d s) := by
  unfold eventIrq
  split
  · exact aside_sendTxn _ _ _ s
  · exact aside_emit _ s

/-- An event is recorded. -/
theorem aside_logOnly (c n : Nat) (fs : List (Nat × Nat)) (s : State) : Aside s (logOnly c n fs s) := rfl

/-- A securing is requested. -/
theorem aside_requestSecuring (s : State) : Aside s (requestSecuring s) := by
  unfold requestSecuring
  split
  · rfl
  · unfold armSecuring
    split <;> rfl

/-- The securing request of a change of RISK. -/
theorem aside_requestCheck (b : Nat) (s : State) : Aside s (requestCheck b s) := by
  have key : ∀ u : State, Aside s u → ∀ due : Bool, Aside s (if due = true then
      requestSecuring (eventIrq 0x0B01 1 (logOnly 0x0B01 0xFFFFFFFF [(1, 1)] { u with hlt.lastReq := some (risk s) })) else u) := by
    intro u hu due
    split
    · refine aside_trans (aside_trans (t := logOnly 0x0B01 0xFFFFFFFF [(1, 1)] { u with hlt.lastReq := some (risk s) }) ?_
        (aside_eventIrq _ _ _)) (aside_requestSecuring _)
      exact aside_trans hu rfl
    · exact hu
  unfold requestCheck
  dsimp only
  split
  · split
    · rfl
    · exact key { s with hlt.lastReq := none } rfl _
  · split
    · rfl
    · exact key _ (aside_refl s) _

/-- An event is raised. -/
theorem aside_raise (c n : Nat) (fs : List (Nat × Nat)) (s : State) : Aside s (raise c n fs s) := by
  have key : ∀ (b : Nat) (g : Recorder) (h : Health), Aside s (requestCheck b { s with log := g, hlt := h }) := by
    intro b g h
    have e : Aside s { s with log := g, hlt := h } := rfl
    exact aside_trans e (aside_requestCheck _ _)
  unfold raise
  dsimp only
  split
  · exact aside_logOnly c n fs s
  · exact key _ _ _

/-! ### Field by field -/

@[simp] theorem raise_cfg (c n : Nat) (fs : List (Nat × Nat)) (s : State) : (raise c n fs s).cfg = s.cfg := by
  rw [aside_raise c n fs s]
@[simp] theorem raise_now (c n : Nat) (fs : List (Nat × Nat)) (s : State) : (raise c n fs s).now = s.now := by
  rw [aside_raise c n fs s]
@[simp] theorem raise_xng (c n : Nat) (fs : List (Nat × Nat)) (s : State) : (raise c n fs s).xng = s.xng := by
  rw [aside_raise c n fs s]
@[simp] theorem raise_ttu (c n : Nat) (fs : List (Nat × Nat)) (s : State) : (raise c n fs s).ttu = s.ttu := by
  rw [aside_raise c n fs s]
@[simp] theorem raise_isl (c n : Nat) (fs : List (Nat × Nat)) (s : State) : (raise c n fs s).isl = s.isl := by
  rw [aside_raise c n fs s]
@[simp] theorem raise_fry (c n : Nat) (fs : List (Nat × Nat)) (s : State) : (raise c n fs s).fry = s.fry := by
  rw [aside_raise c n fs s]
@[simp] theorem raise_lnc (c n : Nat) (fs : List (Nat × Nat)) (s : State) : (raise c n fs s).lnc = s.lnc := by
  rw [aside_raise c n fs s]
@[simp] theorem raise_mem (c n : Nat) (fs : List (Nat × Nat)) (s : State) : (raise c n fs s).mem = s.mem := by
  rw [aside_raise c n fs s]
@[simp] theorem raise_rgn (c n : Nat) (fs : List (Nat × Nat)) (s : State) : (raise c n fs s).rgn = s.rgn := by
  rw [aside_raise c n fs s]
@[simp] theorem raise_harts (c n : Nat) (fs : List (Nat × Nat)) (s : State) : (raise c n fs s).harts = s.harts := by
  rw [aside_raise c n fs s]
@[simp] theorem raise_snd (c n : Nat) (fs : List (Nat × Nat)) (s : State) : (raise c n fs s).snd = s.snd := by
  rw [aside_raise c n fs s]
@[simp] theorem raise_hbr (c n : Nat) (fs : List (Nat × Nat)) (s : State) : (raise c n fs s).hbr = s.hbr := by
  rw [aside_raise c n fs s]
@[simp] theorem raise_sec (c n : Nat) (fs : List (Nat × Nat)) (s : State) : (raise c n fs s).sec = s.sec := by
  rw [aside_raise c n fs s]
@[simp] theorem raise_pwr (c n : Nat) (fs : List (Nat × Nat)) (s : State) : (raise c n fs s).pwr = s.pwr := by
  rw [aside_raise c n fs s]
@[simp] theorem raise_flash (c n : Nat) (fs : List (Nat × Nat)) (s : State) : (raise c n fs s).flash = s.flash := by
  rw [aside_raise c n fs s]
@[simp] theorem raise_mode (c n : Nat) (fs : List (Nat × Nat)) (s : State) : (raise c n fs s).mode = s.mode := by
  rw [aside_raise c n fs s]
@[simp] theorem raise_freeCtr (c n : Nat) (fs : List (Nat × Nat)) (s : State) : (raise c n fs s).freeCtr = s.freeCtr := by
  rw [aside_raise c n fs s]
@[simp] theorem raise_pending (c n : Nat) (fs : List (Nat × Nat)) (s : State) : (raise c n fs s).pending = s.pending := by
  rw [aside_raise c n fs s]
@[simp] theorem eventIrq_cfg (c d : Nat) (s : State) : (eventIrq c d s).cfg = s.cfg := by
  rw [aside_eventIrq c d s]
@[simp] theorem eventIrq_now (c d : Nat) (s : State) : (eventIrq c d s).now = s.now := by
  rw [aside_eventIrq c d s]
@[simp] theorem eventIrq_xng (c d : Nat) (s : State) : (eventIrq c d s).xng = s.xng := by
  rw [aside_eventIrq c d s]
@[simp] theorem eventIrq_ttu (c d : Nat) (s : State) : (eventIrq c d s).ttu = s.ttu := by
  rw [aside_eventIrq c d s]
@[simp] theorem eventIrq_isl (c d : Nat) (s : State) : (eventIrq c d s).isl = s.isl := by
  rw [aside_eventIrq c d s]
@[simp] theorem eventIrq_fry (c d : Nat) (s : State) : (eventIrq c d s).fry = s.fry := by
  rw [aside_eventIrq c d s]
@[simp] theorem eventIrq_lnc (c d : Nat) (s : State) : (eventIrq c d s).lnc = s.lnc := by
  rw [aside_eventIrq c d s]
@[simp] theorem eventIrq_mem (c d : Nat) (s : State) : (eventIrq c d s).mem = s.mem := by
  rw [aside_eventIrq c d s]
@[simp] theorem eventIrq_rgn (c d : Nat) (s : State) : (eventIrq c d s).rgn = s.rgn := by
  rw [aside_eventIrq c d s]
@[simp] theorem eventIrq_harts (c d : Nat) (s : State) : (eventIrq c d s).harts = s.harts := by
  rw [aside_eventIrq c d s]
@[simp] theorem eventIrq_snd (c d : Nat) (s : State) : (eventIrq c d s).snd = s.snd := by
  rw [aside_eventIrq c d s]
@[simp] theorem eventIrq_hbr (c d : Nat) (s : State) : (eventIrq c d s).hbr = s.hbr := by
  rw [aside_eventIrq c d s]
@[simp] theorem eventIrq_sec (c d : Nat) (s : State) : (eventIrq c d s).sec = s.sec := by
  rw [aside_eventIrq c d s]
@[simp] theorem eventIrq_pwr (c d : Nat) (s : State) : (eventIrq c d s).pwr = s.pwr := by
  rw [aside_eventIrq c d s]
@[simp] theorem eventIrq_flash (c d : Nat) (s : State) : (eventIrq c d s).flash = s.flash := by
  rw [aside_eventIrq c d s]
@[simp] theorem eventIrq_mode (c d : Nat) (s : State) : (eventIrq c d s).mode = s.mode := by
  rw [aside_eventIrq c d s]
@[simp] theorem eventIrq_freeCtr (c d : Nat) (s : State) : (eventIrq c d s).freeCtr = s.freeCtr := by
  rw [aside_eventIrq c d s]
@[simp] theorem eventIrq_pending (c d : Nat) (s : State) : (eventIrq c d s).pending = s.pending := by
  rw [aside_eventIrq c d s]
@[simp] theorem sendTxn_cfg (p c : Nat) (bs : List Byte) (s : State) : (sendTxn p c bs s).cfg = s.cfg := by
  rw [aside_sendTxn p c bs s]
@[simp] theorem sendTxn_now (p c : Nat) (bs : List Byte) (s : State) : (sendTxn p c bs s).now = s.now := by
  rw [aside_sendTxn p c bs s]
@[simp] theorem sendTxn_xng (p c : Nat) (bs : List Byte) (s : State) : (sendTxn p c bs s).xng = s.xng := by
  rw [aside_sendTxn p c bs s]
@[simp] theorem sendTxn_ttu (p c : Nat) (bs : List Byte) (s : State) : (sendTxn p c bs s).ttu = s.ttu := by
  rw [aside_sendTxn p c bs s]
@[simp] theorem sendTxn_isl (p c : Nat) (bs : List Byte) (s : State) : (sendTxn p c bs s).isl = s.isl := by
  rw [aside_sendTxn p c bs s]
@[simp] theorem sendTxn_fry (p c : Nat) (bs : List Byte) (s : State) : (sendTxn p c bs s).fry = s.fry := by
  rw [aside_sendTxn p c bs s]
@[simp] theorem sendTxn_lnc (p c : Nat) (bs : List Byte) (s : State) : (sendTxn p c bs s).lnc = s.lnc := by
  rw [aside_sendTxn p c bs s]
@[simp] theorem sendTxn_mem (p c : Nat) (bs : List Byte) (s : State) : (sendTxn p c bs s).mem = s.mem := by
  rw [aside_sendTxn p c bs s]
@[simp] theorem sendTxn_rgn (p c : Nat) (bs : List Byte) (s : State) : (sendTxn p c bs s).rgn = s.rgn := by
  rw [aside_sendTxn p c bs s]
@[simp] theorem sendTxn_harts (p c : Nat) (bs : List Byte) (s : State) : (sendTxn p c bs s).harts = s.harts := by
  rw [aside_sendTxn p c bs s]
@[simp] theorem sendTxn_snd (p c : Nat) (bs : List Byte) (s : State) : (sendTxn p c bs s).snd = s.snd := by
  rw [aside_sendTxn p c bs s]
@[simp] theorem sendTxn_hbr (p c : Nat) (bs : List Byte) (s : State) : (sendTxn p c bs s).hbr = s.hbr := by
  rw [aside_sendTxn p c bs s]
@[simp] theorem sendTxn_sec (p c : Nat) (bs : List Byte) (s : State) : (sendTxn p c bs s).sec = s.sec := by
  rw [aside_sendTxn p c bs s]
@[simp] theorem sendTxn_pwr (p c : Nat) (bs : List Byte) (s : State) : (sendTxn p c bs s).pwr = s.pwr := by
  rw [aside_sendTxn p c bs s]
@[simp] theorem sendTxn_flash (p c : Nat) (bs : List Byte) (s : State) : (sendTxn p c bs s).flash = s.flash := by
  rw [aside_sendTxn p c bs s]
@[simp] theorem sendTxn_mode (p c : Nat) (bs : List Byte) (s : State) : (sendTxn p c bs s).mode = s.mode := by
  rw [aside_sendTxn p c bs s]
@[simp] theorem sendTxn_freeCtr (p c : Nat) (bs : List Byte) (s : State) : (sendTxn p c bs s).freeCtr = s.freeCtr := by
  rw [aside_sendTxn p c bs s]
@[simp] theorem sendTxn_pending (p c : Nat) (bs : List Byte) (s : State) : (sendTxn p c bs s).pending = s.pending := by
  rw [aside_sendTxn p c bs s]

end Sys2Proof.Machine
end

