-- ==== Sys2Proof/Laws/MemoryOps.lean ====
section
/-! SUPPORT. What reads and writes of module memory leave alone: every field but memory itself and what an event moves. -/

namespace Sys2Proof.Machine

/-- Two states differ at most in module memory and in what an event moves. -/
def MemAside (s t : State) : Prop := t = { s with mem := t.mem, log := t.log, hlt := t.hlt, zng := t.zng, out := t.out }

/-- Nothing happens. -/
theorem memAside_refl (s : State) : MemAside s s := rfl

/-- One thing after another. -/
theorem memAside_trans {s t u : State} (h : MemAside s t) (k : MemAside t u) : MemAside s u := by
  unfold MemAside at *
  rw [k, h]

/-- What moves no memory. -/
theorem memAside_aside {s t : State} (h : Aside s t) : MemAside s t := by
  unfold MemAside
  rw [h]

/-- Memory is changed. -/
theorem memAside_mem (s : State) (m : Mem) : MemAside s { s with mem := m } := rfl

/-- An event is raised. -/
theorem memAside_raise (c n : Nat) (fs : List (Nat × Nat)) (s : State) : MemAside s (raise c n fs s) :=
  memAside_aside (aside_raise c n fs s)

/-- One thing after another, over a list. -/
theorem memAside_foldl {α : Type} (f : State → α → State) (h : ∀ s x, MemAside s (f s x)) (l : List α) (s : State) :
    MemAside s (l.foldl f s) := by
  induction l generalizing s with
  | nil => exact memAside_refl s
  | cons x r ih => exact memAside_trans (h s x) (ih _)

/-- A block is written. -/
theorem memAside_writeBlock (b : Nat) (bs : List Byte) (p : Bool) (s : State) : MemAside s (writeBlock b bs p s) := rfl

/-- An event is raised after what moved only memory. -/
theorem memAside_raised {s u : State} (h : MemAside s u) (c n : Nat) (fs : List (Nat × Nat)) : MemAside s (raise c n fs u) :=
  memAside_trans h (memAside_raise c n fs u)

/-- MEM_ECC_LAST is written after what moved only memory. -/
theorem memAside_eccLast {s u : State} (h : MemAside s u) (k : Nat) (half : Bool) (i a : Nat) :
    MemAside s (eccLast k half i a u) := memAside_trans h (memAside_mem u _)

/-- A corrected error is counted after what moved only memory. -/
theorem memAside_countCe {s u : State} (h : MemAside s u) (k : Nat) : MemAside s (countCe k u) :=
  memAside_trans h (memAside_mem u _)

/-- An uncorrectable error is counted after what moved only memory. -/
theorem memAside_countUe {s u : State} (h : MemAside s u) (k : Nat) : MemAside s (countUe k u) :=
  memAside_trans h (memAside_mem u _)

/-- A block is met as uncorrectable. -/
theorem memAside_uncorrectable (b : Nat) (s : State) : MemAside s (uncorrectable b s) := by
  unfold uncorrectable
  refine memAside_raised (memAside_eccLast (memAside_countUe ?_ _) _ _ _ _) _ _ _
  split
  · exact memAside_refl s
  · exact memAside_writeBlock _ _ _ s

/-- A block is read. -/
theorem memAside_readBlock (b : Nat) (s : State) : MemAside s (readBlock b s).1 := by
  unfold readBlock
  dsimp only
  split
  · exact memAside_uncorrectable b s
  · split
    · exact memAside_refl s
    · dsimp only
      exact memAside_raised (memAside_eccLast (memAside_refl s) _ _ _ _) _ _ _
    · dsimp only
      refine memAside_raised (memAside_eccLast (memAside_countCe ?_ _) _ _ _ _) _ _ _
      split
      · exact memAside_refl s
      · exact memAside_writeBlock _ _ _ s
    · exact memAside_uncorrectable b s

/-- An unbacked access is recorded. -/
theorem memAside_unbacked (who a : Nat) (s : State) : MemAside s (unbacked who a s) := memAside_raise _ _ _ s

/-- The state of a pair formed from another pair. -/
theorem memAside_pair {s : State} {β γ : Type} {r : State × β} (f : State × β → γ) (h : MemAside s r.1) :
    MemAside s (r.1, f r).1 := h

/-- One more block is read. -/
theorem memAside_readNext (who a n x : Nat) (p : State × Bool) : MemAside p.1 (readNext who a n p x).1 := by
  unfold readNext
  extract_lets lo ls
  clear_value lo
  clear_value ls
  split
  · split
    · exact memAside_refl p.1
    · exact memAside_pair (fun r => p.2 || r.2) (memAside_readBlock x p.1)
  · exact memAside_foldl _ (fun u l => memAside_unbacked who l u) ls p.1

/-- Blocks are read. -/
theorem memAside_readBlocks (who a n : Nat) (l : List Nat) (p : State × Bool) :
    MemAside p.1 (l.foldl (readNext who a n) p).1 := by
  induction l generalizing p with
  | nil => exact memAside_refl p.1
  | cons x r ih =>
    rw [List.foldl_cons]
    exact memAside_trans (memAside_readNext who a n x p) (ih _)

/-- A run of bytes is read. -/
theorem memAside_readMem (who a n : Nat) (s : State) : MemAside s (readMem who a n s).1 := by
  unfold readMem
  exact memAside_pair (fun r => (peek r.1 a n, r.2)) (memAside_readBlocks who a n (blocksOf a n) (s, false))

/-- A block leaves its buffer. -/
theorem memAside_dropWc (b : Nat) (s : State) : MemAside s (dropWc b s) := rfl

/-- A block's entry is set. -/
theorem memAside_putWc (b : Nat) (bytes : SMap Byte) (s : State) : MemAside s (putWc b bytes s) := rfl

/-- An entry is evicted. -/
theorem memAside_evictEntry (e : WcEntry) (s : State) : MemAside s (evictEntry e s) := by
  unfold evictEntry
  dsimp only
  split
  · exact memAside_dropWc _ s
  · split
    · exact memAside_trans (memAside_dropWc _ s) (memAside_writeBlock _ _ _ _)
    · exact memAside_trans (memAside_trans (memAside_dropWc _ s) (memAside_readBlock _ _)) (memAside_writeBlock _ _ _ _)

/-- A full buffer gives up an entry. -/
theorem memAside_wcMakeRoom (a : Nat) (s : State) : MemAside s (wcMakeRoom a s) := by
  unfold wcMakeRoom
  dsimp only
  split
  · exact memAside_refl s
  · split
    · exact memAside_evictEntry _ s
    · exact memAside_refl s

/-- A part of a block is written. -/
theorem memAside_writePart (b off : Nat) (bs : List Byte) (s : State) : MemAside s (writePart b off bs s) := by
  unfold writePart
  dsimp only
  split
  · exact memAside_refl s
  · split
    · exact memAside_trans (memAside_dropWc b s) (memAside_writeBlock _ _ _ _)
    · refine memAside_trans (memAside_wcMakeRoom (256 * b) s) ?_
      generalize wcMakeRoom (256 * b) s = u
      split
      · exact memAside_trans (memAside_dropWc b u) (memAside_writeBlock _ _ _ _)
      · exact memAside_putWc _ _ u

/-- A run of bytes is written. -/
theorem memAside_writeMem (who a : Nat) (bs : List Byte) (s : State) : MemAside s (writeMem who a bs s) := by
  unfold writeMem
  refine memAside_foldl _ (fun u b => ?_) _ s
  dsimp only
  split
  · exact memAside_writePart _ _ _ u
  · exact memAside_foldl _ (fun v l => memAside_unbacked who l v) _ u

/-- A run of bytes is poisoned. -/
theorem memAside_poisonMem (a n : Nat) (s : State) : MemAside s (poisonMem a n s) := by
  unfold poisonMem
  refine memAside_foldl _ (fun u b => ?_) _ s
  split
  · exact memAside_trans (memAside_dropWc b u) (memAside_writeBlock _ _ _ _)
  · exact memAside_refl u

/-- Two states differ at most in module memory, the ring's caches and what an event moves. -/
def RingAside (s t : State) : Prop :=
  t = { s with mem := t.mem, snd := t.snd, log := t.log, hlt := t.hlt, zng := t.zng, out := t.out }

/-- One thing after another. -/
theorem ringAside_trans {s t u : State} (h : RingAside s t) (k : RingAside t u) : RingAside s u := by
  unfold RingAside at *
  rw [k, h]

/-- What moves only memory. -/
theorem ringAside_mem {s t : State} (h : MemAside s t) : RingAside s t := by
  unfold RingAside
  rw [h]

/-- A flushed line's bytes go to memory. -/
theorem memAside_flushBack (a : Nat) (x : CLine) (s : State) : MemAside s (flushBack a x s) := by
  unfold flushBack
  dsimp only
  split
  · exact memAside_trans (memAside_writeMem _ _ _ s) (memAside_poisonMem _ _ _)
  · exact memAside_writeMem _ _ _ s

/-- A line leaves the filter. -/
theorem ringAside_leaveFilter (a l : Nat) (s : State) : RingAside s (leaveFilter a l s) := by
  unfold leaveFilter
  dsimp only
  split <;> rfl

/-- A line is left by a flush. -/
theorem ringAside_setFlushed (k : Nat) (y : CLine) (s : State) : RingAside s (setFlushed k y s) := by
  unfold setFlushed
  split
  · exact ringAside_trans (t := putLine k y s) rfl (ringAside_leaveFilter _ _ _)
  · rfl

/-- A line leaves a cache. -/
theorem ringAside_flushLine (k : Nat) (x : CLine) (s : State) : RingAside s (flushLine k x s) := by
  unfold flushLine
  extract_lets a gone
  have back : RingAside s (flushBack a x s) := ringAside_mem (memAside_flushBack _ _ s)
  have set (y : CLine) : RingAside s (setFlushed k y s) := ringAside_setFlushed k y s
  have both (y : CLine) : RingAside s (setFlushed k y (flushBack a x s)) :=
    ringAside_trans back (ringAside_setFlushed k y _)
  clear_value a gone
  split
  · exact both _
  · exact both _
  · exact set _
  · exact set _
  · exact both _
  · exact both _
  · exact set _
  · rfl

/-- A page's lines leave the caches. -/
theorem ringAside_flushPage (p : Nat) (s : State) : RingAside s (flushPage p s) := by
  have : ∀ (l : List (Nat × CLine)) (u : State), RingAside u (l.foldl (fun s x => flushLine x.1 x.2 s) u) := by
    intro l
    induction l with
    | nil => exact fun u => rfl
    | cons x r ih => exact fun u => ringAside_trans (ringAside_flushLine _ _ u) (ih _)
  exact this _ s

/-! ### Field by field -/

@[simp] theorem writeMem_cfg (who a : Nat) (bs : List Byte) (s : State) : (writeMem who a bs s).cfg = s.cfg := by
  rw [memAside_writeMem who a bs s]
@[simp] theorem writeMem_now (who a : Nat) (bs : List Byte) (s : State) : (writeMem who a bs s).now = s.now := by
  rw [memAside_writeMem who a bs s]
@[simp] theorem writeMem_xng (who a : Nat) (bs : List Byte) (s : State) : (writeMem who a bs s).xng = s.xng := by
  rw [memAside_writeMem who a bs s]
@[simp] theorem writeMem_ttu (who a : Nat) (bs : List Byte) (s : State) : (writeMem who a bs s).ttu = s.ttu := by
  rw [memAside_writeMem who a bs s]
@[simp] theorem writeMem_isl (who a : Nat) (bs : List Byte) (s : State) : (writeMem who a bs s).isl = s.isl := by
  rw [memAside_writeMem who a bs s]
@[simp] theorem writeMem_fry (who a : Nat) (bs : List Byte) (s : State) : (writeMem who a bs s).fry = s.fry := by
  rw [memAside_writeMem who a bs s]
@[simp] theorem writeMem_lnc (who a : Nat) (bs : List Byte) (s : State) : (writeMem who a bs s).lnc = s.lnc := by
  rw [memAside_writeMem who a bs s]
@[simp] theorem writeMem_rgn (who a : Nat) (bs : List Byte) (s : State) : (writeMem who a bs s).rgn = s.rgn := by
  rw [memAside_writeMem who a bs s]
@[simp] theorem writeMem_harts (who a : Nat) (bs : List Byte) (s : State) : (writeMem who a bs s).harts = s.harts := by
  rw [memAside_writeMem who a bs s]
@[simp] theorem writeMem_snd (who a : Nat) (bs : List Byte) (s : State) : (writeMem who a bs s).snd = s.snd := by
  rw [memAside_writeMem who a bs s]
@[simp] theorem writeMem_hbr (who a : Nat) (bs : List Byte) (s : State) : (writeMem who a bs s).hbr = s.hbr := by
  rw [memAside_writeMem who a bs s]
@[simp] theorem writeMem_sec (who a : Nat) (bs : List Byte) (s : State) : (writeMem who a bs s).sec = s.sec := by
  rw [memAside_writeMem who a bs s]
@[simp] theorem writeMem_pwr (who a : Nat) (bs : List Byte) (s : State) : (writeMem who a bs s).pwr = s.pwr := by
  rw [memAside_writeMem who a bs s]
@[simp] theorem writeMem_flash (who a : Nat) (bs : List Byte) (s : State) : (writeMem who a bs s).flash = s.flash := by
  rw [memAside_writeMem who a bs s]
@[simp] theorem writeMem_mode (who a : Nat) (bs : List Byte) (s : State) : (writeMem who a bs s).mode = s.mode := by
  rw [memAside_writeMem who a bs s]
@[simp] theorem writeMem_freeCtr (who a : Nat) (bs : List Byte) (s : State) : (writeMem who a bs s).freeCtr = s.freeCtr := by
  rw [memAside_writeMem who a bs s]
@[simp] theorem writeMem_pending (who a : Nat) (bs : List Byte) (s : State) : (writeMem who a bs s).pending = s.pending := by
  rw [memAside_writeMem who a bs s]
@[simp] theorem readMem_cfg (who a n : Nat) (s : State) : (readMem who a n s).1.cfg = s.cfg := by
  rw [memAside_readMem who a n s]
@[simp] theorem readMem_now (who a n : Nat) (s : State) : (readMem who a n s).1.now = s.now := by
  rw [memAside_readMem who a n s]
@[simp] theorem readMem_xng (who a n : Nat) (s : State) : (readMem who a n s).1.xng = s.xng := by
  rw [memAside_readMem who a n s]
@[simp] theorem readMem_ttu (who a n : Nat) (s : State) : (readMem who a n s).1.ttu = s.ttu := by
  rw [memAside_readMem who a n s]
@[simp] theorem readMem_isl (who a n : Nat) (s : State) : (readMem who a n s).1.isl = s.isl := by
  rw [memAside_readMem who a n s]
@[simp] theorem readMem_fry (who a n : Nat) (s : State) : (readMem who a n s).1.fry = s.fry := by
  rw [memAside_readMem who a n s]
@[simp] theorem readMem_lnc (who a n : Nat) (s : State) : (readMem who a n s).1.lnc = s.lnc := by
  rw [memAside_readMem who a n s]
@[simp] theorem readMem_rgn (who a n : Nat) (s : State) : (readMem who a n s).1.rgn = s.rgn := by
  rw [memAside_readMem who a n s]
@[simp] theorem readMem_harts (who a n : Nat) (s : State) : (readMem who a n s).1.harts = s.harts := by
  rw [memAside_readMem who a n s]
@[simp] theorem readMem_snd (who a n : Nat) (s : State) : (readMem who a n s).1.snd = s.snd := by
  rw [memAside_readMem who a n s]
@[simp] theorem readMem_hbr (who a n : Nat) (s : State) : (readMem who a n s).1.hbr = s.hbr := by
  rw [memAside_readMem who a n s]
@[simp] theorem readMem_sec (who a n : Nat) (s : State) : (readMem who a n s).1.sec = s.sec := by
  rw [memAside_readMem who a n s]
@[simp] theorem readMem_pwr (who a n : Nat) (s : State) : (readMem who a n s).1.pwr = s.pwr := by
  rw [memAside_readMem who a n s]
@[simp] theorem readMem_flash (who a n : Nat) (s : State) : (readMem who a n s).1.flash = s.flash := by
  rw [memAside_readMem who a n s]
@[simp] theorem readMem_mode (who a n : Nat) (s : State) : (readMem who a n s).1.mode = s.mode := by
  rw [memAside_readMem who a n s]
@[simp] theorem readMem_freeCtr (who a n : Nat) (s : State) : (readMem who a n s).1.freeCtr = s.freeCtr := by
  rw [memAside_readMem who a n s]
@[simp] theorem readMem_pending (who a n : Nat) (s : State) : (readMem who a n s).1.pending = s.pending := by
  rw [memAside_readMem who a n s]
@[simp] theorem poisonMem_cfg (a n : Nat) (s : State) : (poisonMem a n s).cfg = s.cfg := by
  rw [memAside_poisonMem a n s]
@[simp] theorem poisonMem_now (a n : Nat) (s : State) : (poisonMem a n s).now = s.now := by
  rw [memAside_poisonMem a n s]
@[simp] theorem poisonMem_xng (a n : Nat) (s : State) : (poisonMem a n s).xng = s.xng := by
  rw [memAside_poisonMem a n s]
@[simp] theorem poisonMem_ttu (a n : Nat) (s : State) : (poisonMem a n s).ttu = s.ttu := by
  rw [memAside_poisonMem a n s]
@[simp] theorem poisonMem_isl (a n : Nat) (s : State) : (poisonMem a n s).isl = s.isl := by
  rw [memAside_poisonMem a n s]
@[simp] theorem poisonMem_fry (a n : Nat) (s : State) : (poisonMem a n s).fry = s.fry := by
  rw [memAside_poisonMem a n s]
@[simp] theorem poisonMem_lnc (a n : Nat) (s : State) : (poisonMem a n s).lnc = s.lnc := by
  rw [memAside_poisonMem a n s]
@[simp] theorem poisonMem_rgn (a n : Nat) (s : State) : (poisonMem a n s).rgn = s.rgn := by
  rw [memAside_poisonMem a n s]
@[simp] theorem poisonMem_harts (a n : Nat) (s : State) : (poisonMem a n s).harts = s.harts := by
  rw [memAside_poisonMem a n s]
@[simp] theorem poisonMem_snd (a n : Nat) (s : State) : (poisonMem a n s).snd = s.snd := by
  rw [memAside_poisonMem a n s]
@[simp] theorem poisonMem_hbr (a n : Nat) (s : State) : (poisonMem a n s).hbr = s.hbr := by
  rw [memAside_poisonMem a n s]
@[simp] theorem poisonMem_sec (a n : Nat) (s : State) : (poisonMem a n s).sec = s.sec := by
  rw [memAside_poisonMem a n s]
@[simp] theorem poisonMem_pwr (a n : Nat) (s : State) : (poisonMem a n s).pwr = s.pwr := by
  rw [memAside_poisonMem a n s]
@[simp] theorem poisonMem_flash (a n : Nat) (s : State) : (poisonMem a n s).flash = s.flash := by
  rw [memAside_poisonMem a n s]
@[simp] theorem poisonMem_mode (a n : Nat) (s : State) : (poisonMem a n s).mode = s.mode := by
  rw [memAside_poisonMem a n s]
@[simp] theorem poisonMem_freeCtr (a n : Nat) (s : State) : (poisonMem a n s).freeCtr = s.freeCtr := by
  rw [memAside_poisonMem a n s]
@[simp] theorem poisonMem_pending (a n : Nat) (s : State) : (poisonMem a n s).pending = s.pending := by
  rw [memAside_poisonMem a n s]
@[simp] theorem flushPage_cfg (p : Nat) (s : State) : (flushPage p s).cfg = s.cfg := by
  rw [ringAside_flushPage p s]
@[simp] theorem flushPage_now (p : Nat) (s : State) : (flushPage p s).now = s.now := by
  rw [ringAside_flushPage p s]
@[simp] theorem flushPage_xng (p : Nat) (s : State) : (flushPage p s).xng = s.xng := by
  rw [ringAside_flushPage p s]
@[simp] theorem flushPage_ttu (p : Nat) (s : State) : (flushPage p s).ttu = s.ttu := by
  rw [ringAside_flushPage p s]
@[simp] theorem flushPage_isl (p : Nat) (s : State) : (flushPage p s).isl = s.isl := by
  rw [ringAside_flushPage p s]
@[simp] theorem flushPage_fry (p : Nat) (s : State) : (flushPage p s).fry = s.fry := by
  rw [ringAside_flushPage p s]
@[simp] theorem flushPage_lnc (p : Nat) (s : State) : (flushPage p s).lnc = s.lnc := by
  rw [ringAside_flushPage p s]
@[simp] theorem flushPage_rgn (p : Nat) (s : State) : (flushPage p s).rgn = s.rgn := by
  rw [ringAside_flushPage p s]
@[simp] theorem flushPage_harts (p : Nat) (s : State) : (flushPage p s).harts = s.harts := by
  rw [ringAside_flushPage p s]
@[simp] theorem flushPage_hbr (p : Nat) (s : State) : (flushPage p s).hbr = s.hbr := by
  rw [ringAside_flushPage p s]
@[simp] theorem flushPage_sec (p : Nat) (s : State) : (flushPage p s).sec = s.sec := by
  rw [ringAside_flushPage p s]
@[simp] theorem flushPage_pwr (p : Nat) (s : State) : (flushPage p s).pwr = s.pwr := by
  rw [ringAside_flushPage p s]
@[simp] theorem flushPage_flash (p : Nat) (s : State) : (flushPage p s).flash = s.flash := by
  rw [ringAside_flushPage p s]
@[simp] theorem flushPage_mode (p : Nat) (s : State) : (flushPage p s).mode = s.mode := by
  rw [ringAside_flushPage p s]
@[simp] theorem flushPage_freeCtr (p : Nat) (s : State) : (flushPage p s).freeCtr = s.freeCtr := by
  rw [ringAside_flushPage p s]
@[simp] theorem flushPage_pending (p : Nat) (s : State) : (flushPage p s).pending = s.pending := by
  rw [ringAside_flushPage p s]

end Sys2Proof.Machine
end

