-- ==== Sys2Proof/Laws/Regions.lean ====
section
/-! SUPPORT. Laws of the region commands: what a command that is taken does, and what a free value picks among free numbers. -/

namespace Sys2Proof.Machine

/-- A region command that has been taken does its own effect (R261). -/
theorem regionCommand_entered {op : Nat} {via : Via} {s u : State} {a b : Nat} {act : Via → Nat → Nat → State → State}
    (h : RgnEntered op via s a b u) : regionCommand op via act s = act via a b u := by
  obtain ⟨hj, h⟩ := h
  cases via with
  | mailbox m =>
    obtain ⟨x, he, rfl, rfl⟩ := h
    simp only [regionCommand]
    rw [mbCommand_entered _ _ _ _ _ _ he]
    simp [hj]
  | register =>
    obtain ⟨rfl, rfl, rfl, ho⟩ := h
    simp only [regionCommand, hj, Option.isSome_none, Bool.false_eq_true, if_false]
    rw [if_neg]
    intro h
    simp only [Bool.and_eq_true, Bool.not_eq_true', decide_eq_true_eq] at h
    rw [ho h.1.2 h.2] at h
    simp at h

/-- What is picked among free numbers is one of them, where there is one. -/
theorem pickFree_some (s : State) (l : List Nat) (h : l ≠ []) : ∃ c ∈ l, pickFree s l = some c := by
  have hl : 0 < l.length := List.length_pos_iff.2 h
  have hi : Config.freeValue s.freeCtr % l.length < l.length := Nat.mod_lt _ hl
  exact ⟨l[Config.freeValue s.freeCtr % l.length], List.getElem_mem hi, List.getElem?_eq_getElem hi⟩

/-- Nothing is picked where no number is free. -/
@[simp] theorem pickFree_nil (s : State) : pickFree s [] = none := rfl

end Sys2Proof.Machine
end

