-- ==== Sys2Proof/Laws/Ring.lean ====
section
/-! SUPPORT. Laws of the Sound ring: a line's state read back, a snoop at a stop that is not its requester's, and a core access that
lies within one line. -/

namespace Sys2Proof.Machine

/-- A line reads as it was set. -/
@[simp] theorem cline_setCline_same (s : State) (a l : Nat) (x : CLine) : cline (setCline a l x s) a l = x := by
  simp only [cline, setCline]; exact look_put_same _ _ _ _

/-- Another line is as it was. -/
theorem cline_setCline_other (s : State) (a l b m : Nat) (x : CLine) (h : clKey b m ≠ clKey a l) :
    cline (setCline a l x s) b m = cline s b m := by
  simp only [cline, setCline]; exact look_put_other _ _ _ _ _ _ h

/-- Sending a message changes no line. -/
@[simp] theorem cline_sendR (s : State) (a l : Nat) (m : RMsg) : cline (sendR m s) a l = cline s a l := rfl

/-- A filter set changes no line. -/
@[simp] theorem cline_setFilter (s : State) (a l k : Nat) (es : List FEntry) : cline (setFilter k es s) a l = cline s a l := rfl

/-- Taking a message changes no line. -/
@[simp] theorem cline_takeR (s : State) (a l : Nat) (m : RMsg) : cline (takeR m s) a l = cline s a l := rfl

/-- What a snoop does at a stop other than its requester's, where no line there is in ISo or IMo: each of the stop's caches acts, and
the stop answers; the filter alone has changed before that. -/
theorem snoopArrives_foreign (m : RMsg) (s : State) (hno : stopOf m.agent ≠ m.stop)
    (hb : ((agentsAt s m.stop m.line).find? fun a => let st := (cline s a m.line).st; st == .iso || st == .imo) = none) :
    ∃ u : State, u.snd.lines = s.snd.lines ∧ u.snd.flight = s.snd.flight ∧ u.mem = s.mem ∧ u.snd.mode = s.snd.mode ∧
      snoopArrives m s =
        (let r := (agentsAt s m.stop m.line).foldl (fun (acc : SnoopDo) b =>
            let (s, o, h) := snoopLine b (cline acc.1 b m.line) m acc.1
            (s, acc.2.1 || o, acc.2.2 || h)) (u, false, false)
         sendSrsp m r.2.1 r.2.2 false (cline s m.agent m.line).st r.1) := by
  have hown : ¬ (stopOf m.agent = m.stop ∧ m.wr = false) := fun h => hno h.1
  have hf : (agentsAt s m.stop m.line).filter
      (fun a => !(decide (stopOf m.agent = m.stop ∧ m.wr = false) && a == m.agent)) = agentsAt s m.stop m.line := by
    apply List.filter_eq_self.2; intro a _; simp [hno]
  have key : ∀ u : State, u.snd.lines = s.snd.lines → ∀ a, cline u a m.line = cline s a m.line := by
    intro u e a
    simp only [cline, e]
  obtain ⟨u, h1, h2, h3, h4, e⟩ : ∃ u : State, u.snd.lines = s.snd.lines ∧ u.snd.flight = s.snd.flight ∧ u.mem = s.mem ∧
      u.snd.mode = s.snd.mode ∧ snoopTouch m s = u := by
    refine ⟨_, ?_, ?_, ?_, ?_, rfl⟩ <;> (unfold snoopTouch; dsimp only; split <;> split <;> rfl)
  refine ⟨u, h1, h2, h3, h4, ?_⟩
  simp only [snoopArrives, hf, e, if_neg hown, key u h1, hb]

/-- An access within one line is one part. -/
theorem lineParts_one (a n k : Nat) (h1 : 1 ≤ n) (h2 : a % 64 + n ≤ 64) : lineParts (k + 2) a 0 n = [(a, 0, n)] := by
  have hm : min n (64 - a % 64) = n := by omega
  have h0 : n ≠ 0 := by omega
  show (if n = 0 then [] else (a, 0, min n (64 - a % 64)) ::
    lineParts (k + 1) (a + min n (64 - a % 64)) (0 + min n (64 - a % 64)) (n - min n (64 - a % 64))) = _
  rw [if_neg h0, hm, Nat.sub_self]
  rfl

/-- A hart's access within one line of the homes, replacing no other line, meets that line once (R281, R310). -/
theorem coreAccess_line (acc : CAccess) (s : State) (hr : hartRuns s acc.hart = true) (ha : acc.addr < 0xA0000000000)
    (h1 : 1 ≤ acc.size) (h2 : acc.addr % 64 + acc.size ≤ 64) (hd : ∀ bs, acc.write = some bs → bs.length = acc.size) :
    coreAccess acc none s = lineAccess { acc with ctx := hartCtx s acc.hart } s := by
  have e1 : isHome acc.addr = true := by simp [isHome, ha]
  have hw : (acc.write.map fun x => slice x 0 acc.size) = acc.write := by
    cases h : acc.write with
    | none => rfl
    | some bs => simp [slice, hd bs h]
  have hv : acc.va + BitVec.ofNat 64 0 = acc.va := by simp
  simp only [coreAccess, hr, e1, homeAccess, lineParts_one _ _ _ h1 h2, if_true, List.foldl_cons, List.foldl_nil, homePart, hw, hv]

end Sys2Proof.Machine
end

