-- ==== Sys2Proof/Tests/Slice0.lean ====
section
/-! SUPPORT. Tests of the model: small theorems about one command each, whose expected values come from the spec's examples and
tables, and for every statement a concrete state and operands that meet its hypotheses. -/

namespace Sys2Proof.Tests

set_option Elab.async false

open Sys2Proof Sys2Proof.Machine

/-- The state that a command answers. -/
def after1 (c : Instr) (s : State) : State :=
  match exec c s with
  | .next t => t
  | _ => s

/-! ### Mailbox requests -/

/-- A request with its CRC, posted in a mailbox (Tables 12.5 and 13.2). -/
def req (op : Nat) (args : List Nat) (pay : List Byte) : Mailbox :=
  let h := toLE 1 op ++ zeros 7 ++ ((List.range 5).flatMap fun i => toLE 8 (args.getD i 0)) ++ toLE 8 pay.length ++ zeros 4
  { state := .posted, bytes := setBytes (setBytes [] 64 pay) 0 (h ++ toLE 4 (crc32c h)) }
/-- A module in READY with its bring-up done. -/
def ready : State := { State.reset with mode := .ready, hbr := { stage := 8 }, xng := { running := true } }
/-- A request posted in mailbox 9. -/
def post (op : Nat) (args : List Nat) (s : State) : State := { s with hbr := { s.hbr with mbs := [(9, req op args [])] } }
/-- A request with a payload posted in mailbox 9. -/
def postP (op : Nat) (args : List Nat) (pay : List Byte) (s : State) : State :=
  { s with hbr := { s.hbr with mbs := [(9, req op args pay)] } }
/-- Mailbox 9's request may be taken and passes every check. -/
def taken (op : Nat) (s : State) : Bool :=
  mbReady 9 s && mbOp (mbOf s 9) == op && argsOk s.cfg op 9 (mbOf s 9) && !classBusy s op 9
    && (mbOf s 9).state == .posted && (firstChecks s 9).isNone
/-- The state in which it has been taken. -/
def tk (s : State) : State := mbTaken 9 s

/-- A request that may be taken and passes every check has entered, in the sense of the statements. -/
theorem entered_of_taken (op : Nat) (s : State) (h : taken op s = true) : Entered op 9 s (mbRunning s 9) (tk s) := by
  simp only [taken, Bool.and_eq_true, beq_iff_eq, Bool.not_eq_true', Option.isNone_iff_eq_none] at h
  obtain ⟨⟨⟨⟨⟨h1, h2⟩, h3⟩, h4⟩, h5⟩, h6⟩ := h
  exact ⟨h1, h2, h3, .inl ⟨h5, h6, h4, fun hm => absurd hm (by decide), rfl, rfl⟩⟩

/-- A region command in mailbox 9 that may be taken has entered, in the sense of the statements. -/
theorem rgnEntered_of_taken (op : Nat) (s : State) (h : taken (op + 0x3F) s = true) (hj : (tk s).rgn.job = none) :
    RgnEntered op (.mailbox 9) s (mbArg (mbRunning s 9) 0) (mbArg (mbRunning s 9) 1) (tk s) :=
  ⟨hj, _, entered_of_taken _ s h, rfl, rfl⟩

/-! ### The crossing clock and the group -/

/-- A module with a role. -/
def role (r : Role) : State := { ready with xng := { running := true, role := r } }
/-- The lead of a group of two. -/
def lead : State := { ready with xng := { running := true, role := .lead, sizeM1 := 1, members := [0, 1], window := 4000 } }

/-- PERIOD_APPLY in range and out of range on a solo module and on the lead, on a member, and a change that has been reached. -/
theorem witness_PeriodChanges :
    (let s := { ready with xng := { ready.xng with next := 8000, applyAt := 2 } }
     s.xng.role = .solo ∧ 8000 ≤ s.xng.next.toNat ∧ s.xng.next.toNat ≤ 40000000 ∧ s.xng.tick.toNat + 2 ≤ s.xng.applyAt.toNat)
    ∧ (let s := { ready with xng := { ready.xng with next := 7999, applyAt := 2 } }
       s.xng.role = .solo ∧ s.xng.next.toNat < 8000)
    ∧ (let s := { lead with xng := { lead.xng with next := 40000000, applyAt := 8 } }
       s.xng.role = .lead ∧ s.xng.next.toNat ≤ 40000000 ∧ s.xng.tick.toNat + 8 ≤ s.xng.applyAt.toNat)
    ∧ (let s := { lead with xng := { lead.xng with applyAt := 7 } }
       s.xng.role = .lead ∧ s.xng.applyAt.toNat < s.xng.tick.toNat + 8)
    ∧ ((role .member).xng.role ≠ .solo ∧ (role .member).xng.role ≠ .lead)
    ∧ ({ ready with xng := { ready.xng with changed := some (8000, 2) } }.xng.changed.isSome = true) := by decide +kernel

/-- R21: a solo module's change in range is armed. -/
theorem test_period_apply :
    (after1 .periodApply { ready with xng := { ready.xng with next := 8000, applyAt := 2 } }).xng.armed = some (8000, 2) := by
  decide +kernel

/-- A window of the lead and of another; a ring that no region holds, and one in a pinned MODULE region; a probe of this rank, an
echo that a formation waits for, and one that nothing waits for. -/
theorem witness_WindowsAndProbes :
    (lead.xng.role = .lead ∧ ready.xng.role ≠ .lead)
    ∧ inPinned ready (ready.xng.ringBase.toNat * 4096) (16 * 2 ^ (ready.xng.ringSize.toNat + 8)) = false
    ∧ (let s := { ready with rgn := { ready.rgn with
         lists := [(0, [⟨0, 2 ^ 21, 0, 3, 1, 0, 0⟩])] } }
       inPinned s (s.xng.ringBase.toNat * 4096) (16 * 2 ^ (s.xng.ringSize.toNat + 8)) = true)
    ∧ (lead.xng.role ≠ .solo ∧ lead.xng.rank.toNat = 0)
    ∧ (let s := { lead with hbr := { lead.hbr with mbs := [(9, { state := .running, wait := .form })] } }
       waiters s .form = [9])
    ∧ (let s := { lead with xng := { lead.xng with members := [1] } }
       waiters s .form = [] ∧ s.xng.role = .lead ∧ probedRanks s = [1] ∧ (put 0 1 5 s.xng.latencies : SMap Nat) = [(1, 5)])
    ∧ (waiters lead .form = [] ∧ probedRanks lead = [0, 1] ∧ (put 0 1 5 lead.xng.latencies : SMap Nat) = [(1, 5)])
    ∧ ((role .joining).xng.role = .joining ∧ (role .joining).xng.rank.toNat = 0) := by decide +kernel

/-! ### The lane engine -/

/-- Thread 0 of the kernel of logical islet 0. -/
def w0 : LaneWho := ⟨.step 0, 0⟩
/-- Operands of format R with no guard: rd 3, rs1 1, rs2 2. -/
def fr : FR := ⟨0, false, 3, 1, 2⟩
/-- Operands of format I with no guard: rd 3, rs1 1. -/
def fi : FI := ⟨0, false, 3, 1, 0⟩
/-- An instance with two operands in g1 and g2 and one in g3. -/
def th (a b d : Word32) : LaneThread := { g := [0, a, b, d] ++ List.replicate 28 0, p := List.replicate 8 false, pc := 0 }
/-- A kernel whose first word is a command's, with a second word to go on at. -/
def kern (c : Instr) (t : LaneThread) : LaneKernel :=
  { code := [(laneWord c).getD 0, (laneWord c).getD 0], ranges := [⟨.store 0 0, 3, 64, .f32, 0⟩], uni := t, islet := 0 }
/-- A state that runs a kernel as the step of logical islet 0. -/
def laneSt (k : LaneKernel) : State := { State.reset with lnc := { steps := [(0, k)] } }
/-- The same kernel with its instance as the one iteration of an element loop. -/
def looped (k : LaneKernel) : LaneKernel := { k with loop := some { start := 0, pass := 0, threads := [(0, k.uni)] } }
/-- Register i of the instance after a command on operands a, b and d. -/
def laneG (c : Instr) (a b d : Word32) (i : Nat) : Option Word32 :=
  (laneKernel (after1 c (laneSt (kern c (th a b d)))) (.step 0)).map fun k => getG k.uni i

/-- R177: the worked example p1.z ldm.w g22, g11, g21. -/
theorem test_lane_word_ldm : laneOfWord w0 0x3A2CBA80 = some (.laneLdmW w0 ⟨1, true, 22, 11, 21⟩) := by decide +kernel
/-- R177: the word of the worked example. -/
theorem test_lane_word_of_ldm : laneWord (.laneLdmW w0 ⟨1, true, 22, 11, 21⟩) = some 0x3A2CBA80 := by decide +kernel
/-- R177: the word of `p1 red.fsum s1, g23`. -/
theorem test_lane_word_red : laneOfWord w0 0x2E837000 = some (.laneRedFsum w0 ⟨1, false, 1, 23, 0⟩) := by decide +kernel
/-- Table 6.3: a word with an opcode that the table does not list is no instruction. -/
theorem test_lane_word_undefined : laneOfWord w0 0x0F400000 = none := by decide +kernel

/-- R179: addition wraps. -/
theorem test_lane_add_wraps : laneG (.laneAdd w0 fr) 0xFFFFFFFF 2 0 3 = some 1 := by decide +kernel
/-- Table 6.4: MULH takes the upper half of the signed product. -/
theorem test_lane_mulh_signed : laneG (.laneMulh w0 fr) 0xFFFFFFFF 1 0 3 = some 0xFFFFFFFF := by decide +kernel
/-- Table 6.4: MULHU takes the upper half of the unsigned product. -/
theorem test_lane_mulhu : laneG (.laneMulhu w0 fr) 0xFFFFFFFF 2 0 3 = some 1 := by decide +kernel
/-- Table 6.4: division by zero gives all ones. -/
theorem test_lane_divu_zero : laneG (.laneDivu w0 fr) 7 0 0 3 = some 0xFFFFFFFF := by decide +kernel
/-- Table 6.4: the remainder of a division by zero is the dividend. -/
theorem test_lane_remu_zero : laneG (.laneRemu w0 fr) 7 0 0 3 = some 7 := by decide +kernel
/-- Table 6.4: a shift takes the low five bits of its count. -/
theorem test_lane_sra_count : laneG (.laneSra w0 fr) 0x80000000 33 0 3 = some 0xC0000000 := by decide +kernel
/-- Table 6.4: ADDS.B4 saturates each byte. -/
theorem test_lane_adds_b4 : laneG (.laneAddsB4 w0 fr) 0x7F800101 0x01FF0101 0 3 = some 0x7F800202 := by decide +kernel
/-- Table 6.4: DOT.B4 adds four signed products to rd. -/
theorem test_lane_dot_b4 : laneG (.laneDotB4 w0 fr) 0xFF000002 0x02000003 10 3 = some 14 := by decide +kernel
/-- R180: 1.0 + 1.0. -/
theorem test_lane_fadd : laneG (.laneFadd w0 fr) 0x3F800000 0x3F800000 0 3 = some 0x40000000 := by decide +kernel
/-- R180: FMAC rounds once: 1 + 2^-24 × 2^-24 … of operands 1 + 2^-12 and 1 − 2^-12, added to −1, is −2^-24 exactly. -/
theorem test_lane_fmac_once : laneG (.laneFmac w0 fr) 0x3F800800 0x3F7FF000 0xBF800000 3 = some 0xB3800000 := by decide +kernel
/-- R181: 65,520 rounds to infinity in F16. -/
theorem test_lane_f2f16 : laneG (.laneF2f16 w0 fr) 0x477FF000 0 0 3 = some 0x7C00 := by decide +kernel
/-- R176: a write of g0 is ignored. -/
theorem test_lane_g0 : laneG (.laneAdd w0 ⟨0, false, 0, 1, 2⟩) 3 4 0 0 = some 0 := by decide +kernel

/-- A state and operands for the integer instructions: formats R, I and U. -/
theorem witness_LaneIntegerResults :
    (laneRuns (.laneAdd w0 fr) w0 fr.pg (laneSt (kern (.laneAdd w0 fr) (th 1 2 3))) (kern (.laneAdd w0 fr) (th 1 2 3)) (th 1 2 3)
      ∧ goesOn (kern (.laneAdd w0 fr) (th 1 2 3)) 1)
    ∧ (laneRuns (.laneAddi w0 fi) w0 fi.pg (laneSt (kern (.laneAddi w0 fi) (th 1 2 3))) (kern (.laneAddi w0 fi) (th 1 2 3))
        (th 1 2 3) ∧ goesOn (kern (.laneAddi w0 fi) (th 1 2 3)) 1) := by
  unfold laneRuns laneNext goesOn; decide +kernel

/-- For the packed, the comparing and the predicate instructions, SEL and MFSR. -/
theorem witness_LanePackedAndPredicateResults :
    (laneRuns (.laneAddB4 w0 fr) w0 fr.pg (laneSt (kern (.laneAddB4 w0 fr) (th 1 2 3))) (kern (.laneAddB4 w0 fr) (th 1 2 3)) (th 1 2 3)
      ∧ goesOn (kern (.laneAddB4 w0 fr) (th 1 2 3)) 1)
    ∧ (laneRuns (.laneAddH2 w0 fr) w0 fr.pg (laneSt (kern (.laneAddH2 w0 fr) (th 1 2 3))) (kern (.laneAddH2 w0 fr) (th 1 2 3)) (th 1 2 3))
    ∧ (laneRuns (.laneDotB4 w0 fr) w0 fr.pg (laneSt (kern (.laneDotB4 w0 fr) (th 1 2 3))) (kern (.laneDotB4 w0 fr) (th 1 2 3)) (th 1 2 3))
    ∧ (laneRuns (.laneEq w0 fr) w0 fr.pg (laneSt (kern (.laneEq w0 fr) (th 1 2 3))) (kern (.laneEq w0 fr) (th 1 2 3)) (th 1 2 3))
    ∧ (laneRuns (.laneSel w0 fr 1) w0 fr.pg (laneSt (kern (.laneSel w0 fr 1) (th 1 2 3))) (kern (.laneSel w0 fr 1) (th 1 2 3)) (th 1 2 3))
    ∧ (laneRuns (.laneMfsr w0 fi) w0 fi.pg (laneSt (kern (.laneMfsr w0 fi) (th 1 2 3))) (kern (.laneMfsr w0 fi) (th 1 2 3)) (th 1 2 3)) := by
  unfold laneRuns laneNext goesOn; decide +kernel

/-- The packed results that the statement asks for: 1 and 2 added byte by byte and half by half, and a dot product. -/
theorem witness_packed_values :
    (∀ i < 4, ((3 : Word32).extractLsb' (8 * i) 8) = ((1 : Word32).extractLsb' (8 * i) 8) + ((2 : Word32).extractLsb' (8 * i) 8))
    ∧ (∀ i < 2, ((3 : Word32).extractLsb' (16 * i) 16) = ((1 : Word32).extractLsb' (16 * i) 16) + ((2 : Word32).extractLsb' (16 * i) 16)) := by
  decide +kernel

/-- For the F32 instructions and the conversions. -/
theorem witness_LaneFloatResults :
    laneRuns (.laneFadd w0 fr) w0 fr.pg (laneSt (kern (.laneFadd w0 fr) (th 1 2 3))) (kern (.laneFadd w0 fr) (th 1 2 3)) (th 1 2 3)
      ∧ goesOn (kern (.laneFadd w0 fr) (th 1 2 3)) 1 := by
  unfold laneRuns laneNext goesOn; decide +kernel

/-- A branch with its condition, and instructions whose guard p1 is false, with and without z. -/
theorem witness_LaneBranchesAndGuards :
    (laneRuns (.laneBeq w0 ⟨0, 1, 2, 1⟩) w0 0 (laneSt (kern (.laneBeq w0 ⟨0, 1, 2, 1⟩) (th 1 1 3))) (kern (.laneBeq w0 ⟨0, 1, 2, 1⟩) (th 1 1 3)) (th 1 1 3)
      ∧ goesOn (kern (.laneBeq w0 ⟨0, 1, 2, 1⟩) (th 1 1 3)) 1)
    ∧ (laneRuns (.laneJ w0 ⟨0, 1⟩) w0 0 (laneSt (kern (.laneJ w0 ⟨0, 1⟩) (th 1 1 3))) (kern (.laneJ w0 ⟨0, 1⟩) (th 1 1 3)) (th 1 1 3))
    ∧ (laneNext (.laneAdd w0 ⟨1, true, 3, 1, 2⟩) w0 (laneSt (kern (.laneAdd w0 ⟨1, true, 3, 1, 2⟩) (th 1 1 3)))
        (kern (.laneAdd w0 ⟨1, true, 3, 1, 2⟩) (th 1 1 3)) (th 1 1 3) ∧ getP (th 1 1 3) 1 = false)
    ∧ (laneNext (.laneStsW w0 ⟨1, false, 3, 1, 0⟩) w0 (laneSt (kern (.laneStsW w0 ⟨1, false, 3, 1, 0⟩) (th 1 1 3)))
        (kern (.laneStsW w0 ⟨1, false, 3, 1, 0⟩) (th 1 1 3)) (th 1 1 3)) := by
  unfold laneRuns laneNext goesOn; decide +kernel

/-- An operand descriptor of raw words in range 0. -/
def od : OpDesc := { base := 0, range := 0, fmt := 0, mode := 0, sr := false, rawW := 2, cols := 0, purpose := 0, pitch := 0 }
/-- A kernel with that descriptor in slot 1. -/
def kod (c : Instr) (t : LaneThread) : LaneKernel := { kern c t with ods := (List.replicate 8 none).set 1 (some od) }

/-- LDS and LDM of four zero bytes, LDE of a raw word, and an LDS whose address a check stops. -/
theorem witness_LaneLoads :
    (let k := kern (.laneLdsW w0 fi) (th 0 0 3)
     laneRuns (.laneLdsW w0 fi) w0 fi.pg (laneSt k) k (th 0 0 3) ∧ ldsFault k 0 4 false = none
       ∧ (laneGet k (th 0 0 3) (.store k.lislet 0) 4 (laneSt k)).2 = .data [0, 0, 0, 0]
       ∧ (laneKernel (laneGet k (th 0 0 3) (.store k.lislet 0) 4 (laneSt k)).1 w0.run).isSome = true ∧ goesOn k 1)
    ∧ (let k := kern (.laneLdmW w0 fr) (th 0 0 3)
       laneRuns (.laneLdmW w0 fr) w0 fr.pg (laneSt k) k (th 0 0 3) ∧ k.ranges[0]? = some ⟨.store 0 0, 3, 64, .f32, 0⟩
         ∧ rangeFault (laneSt k) k 0 0 4 false true = none
         ∧ (laneGet k (th 0 0 3) (rangeTarget (laneSt k) ⟨.store 0 0, 3, 64, .f32, 0⟩ 0) 4 (laneSt k)).2 = .data [0, 0, 0, 0])
    ∧ (let k := kod (.laneLde w0 fr) (th 0 0 3)
       laneRuns (.laneLde w0 fr) w0 fr.pg (laneSt k) k (th 0 0 3) ∧ k.ods[1]? = some (some od)
         ∧ rangeFault (laneSt k) k 0 (odOffset od 0) (odSize od) false true = none
         ∧ (laneGet k (th 0 0 3) (rangeTarget (laneSt k) ⟨.store 0 0, 3, 64, .f32, 0⟩ 0) 4 (laneSt k)).2 = .data [0, 0, 0, 0])
    ∧ (let k := looped (kern (.laneLdsW w0 fi) (th 0x400000 0 3))
       k.loop.isSome = true ∧ laneRuns (.laneLdsW w0 fi) w0 fi.pg (laneSt k) k (th 0x400000 0 3)
         ∧ (ldsFault k 0x400000 4 false).isSome = true) := by
  unfold laneRuns laneNext goesOn; decide +kernel

/-- LDOD of a descriptor of one column. -/
theorem witness_lane_ldod :
    let k := kern (.laneLdod w0 fr) (th 0 0 3)
    let s : State := { laneSt k with isl := { (laneSt k).isl with store := [(8, 1)], resident := [(0, 1)] } }
    laneRuns (.laneLdod w0 fr) w0 fr.pg s k (th 0 0 3) ∧ rangeFault s k 0 0 16 false true = none
      ∧ (laneGet k (th 0 0 3) (rangeTarget s ⟨.store 0 0, 3, 64, .f32, 0⟩ 0) 16 s).2 = .data [0, 0, 0, 0, 0, 0, 0, 0, 1, 0, 0, 0, 0, 0, 0, 0]
      ∧ parseOd [0, 0, 0, 0, 0, 0, 0, 0, 1, 0, 0, 0, 0, 0, 0, 0] = some { od with rawW := 0, cols := 1 } := by
  unfold laneRuns laneNext; decide +kernel

/-- A store of the statements. -/
def st0 (a : Nat) : LaneStore := { target := .store 0 a, bytes := [3, 0, 0, 0], pc := 0 }

/-- STS in a body with no store before it, in a body with 32, and in uniform code. -/
theorem witness_LaneStores :
    (let k := looped (kern (.laneStsW w0 fi) (th 0 0 3))
     laneRuns (.laneStsW w0 fi) w0 fi.pg (laneSt k) k (th 0 0 3) ∧ stsStore k (th 0 0 3) fi 4 = some (st0 0)
       ∧ k.loop.isSome = true ∧ (th 0 0 3).stores.length < 32)
    ∧ (let t := { th 0 0 3 with stores := List.replicate 32 (st0 4) }
       let k := looped (kern (.laneStsW w0 fi) t)
       laneRuns (.laneStsW w0 fi) w0 fi.pg (laneSt k) k t ∧ stsStore k t fi 4 = some (st0 0) ∧ 32 ≤ t.stores.length)
    ∧ (let k := kern (.laneStsW w0 fi) (th 0 0 3)
       laneRuns (.laneStsW w0 fi) w0 fi.pg (laneSt k) k (th 0 0 3) ∧ k.loop = none ∧ storeVerdict (laneSt k) k (st0 0) = .served
         ∧ (laneKernel (commitStore k (laneSt k) (st0 0)) w0.run).isSome = true ∧ goesOn k 1)
    ∧ (let k := kern (.laneStmW w0 fr) (th 0 0 3)
       (stmStore (laneSt k) k (th 0 0 3) fr 4).isSome = true)
    ∧ (let k := kod (.laneSte w0 fr) (th 0 0 3)
       (steStore (laneSt k) k (th 0 0 3) fr).isSome = true) := by
  unfold laneRuns laneNext goesOn; decide +kernel

/-- RED first and again, GETRED, BRK, HALT of a step and of a launch, and both returns of LANE_LOAD_RETURN. -/
theorem witness_LaneReductionsAndEnds :
    (let k := looped (kern (.laneRedFsum w0 fr) (th 0 0 3))
     laneRuns (.laneRedFsum w0 fr) w0 fr.pg (laneSt k) k (th 0 0 3) ∧ (th 0 0 3).reds = [])
    ∧ (let t := { th 0 0 3 with reds := [(3, 7)] }
       let k := looped (kern (.laneRedFsum w0 fr) t)
       laneRuns (.laneRedFsum w0 fr) w0 fr.pg (laneSt k) k t ∧ (fr.rd.toNat % 4, 7) ∈ t.reds)
    ∧ (let k := kern (.laneGetred w0 fr) (th 0 0 3)
       laneRuns (.laneGetred w0 fr) w0 fr.pg (laneSt k) k (th 0 0 3) ∧ goesOn k 1)
    ∧ (let f : FU := ⟨0, false, 0, 5⟩
       let k := kern (.laneBrk w0 f) (th 0 0 3)
       laneRuns (.laneBrk w0 f) w0 f.pg (laneSt k) k (th 0 0 3))
    ∧ (let f : FR := ⟨0, false, 0, 0, 0⟩
       let k := kern (.laneHalt w0 f) (th 0 0 3)
       laneRuns (.laneHalt w0 f) w0 f.pg (laneSt k) k (th 0 0 3))
    ∧ (let f : FR := ⟨0, false, 0, 0, 0⟩
       let w : LaneWho := ⟨.queue 5, 0⟩
       let k := { kern (.laneHalt w f) (th 0 0 3) with queue := true }
       let s : State := { State.reset with lnc := { free := [(5, k)] } }
       laneRuns (.laneHalt w f) w f.pg s k (th 0 0 3) ∧ kernelWrites s k = false
         ∧ kernelWrites { s with zng := { s.zng with queued := [{ write := true, off := 0, len := 8, use := .lane 0 }] } } k = true)
    ∧ (let t := { th 0 0 3 with waiting := some .near }
       laneKernel (laneSt (kern (.laneAdd w0 fr) t)) w0.run = some (kern (.laneAdd w0 fr) t)
         ∧ threadAt (kern (.laneAdd w0 fr) t) 0 = some t ∧ t.trap = none ∧ goesOn (kern (.laneAdd w0 fr) t) 1) := by
  unfold laneRuns laneNext goesOn; decide +kernel

/-- LANE_LOAD_RETURN of a word of an absent page for register 3. -/
theorem witness_lane_remote_return :
    let t := { th 0 0 3 with waiting := some (.remoteReg 3 4 0x1000 none) }
    laneKernel (laneSt (kern (.laneAdd w0 fr) t)) w0.run = some (kern (.laneAdd w0 fr) t)
      ∧ threadAt (kern (.laneAdd w0 fr) t) 0 = some t ∧ t.trap = none ∧ t.waiting = some (.remoteReg 3 4 0x1000 none)
      ∧ goesOn (kern (.laneAdd w0 fr) t) 1 := by
  unfold goesOn; decide +kernel

/-- SETVL of three elements and of none, of a launch whose earlier store is on its way and of one with none, ENDVL, and a pass whose one
iteration has ended. -/
theorem witness_LaneLoops :
    (let w : LaneWho := ⟨.queue 5, 0⟩
     let k := { kern (.laneSetvl w fi) (th 3 0 0) with queue := true }
     let s : State := { State.reset with lnc := { free := [(5, k)] } }
     let t := { s with zng := { s.zng with queued := [{ write := true, off := 0, len := 8, use := .lane 0 }] } }
     laneRuns (.laneSetvl w fi) w fi.pg s k (th 3 0 0) ∧ kernelWrites s k = false
       ∧ laneRuns (.laneSetvl w fi) w fi.pg t k (th 3 0 0) ∧ k.queue = true ∧ kernelWrites t k = true ∧ goesOn k 0)
    ∧ (let k := kern (.laneSetvl w0 fi) (th 3 0 0)
     laneRuns (.laneSetvl w0 fi) w0 fi.pg (laneSt k) k (th 3 0 0) ∧ k.loop = none ∧ getG (th 3 0 0) 1 ≠ 0)
    ∧ (let k := { kern (.laneSetvl w0 fi) (th 0 0 0) with
         code := [(laneWord (.laneSetvl w0 fi)).getD 0, 0x0E400000, 0x0FC00000] }
       laneRuns (.laneSetvl w0 fi) w0 fi.pg (laneSt k) k (th 0 0 0) ∧ k.loop = none ∧ getG (th 0 0 0) 1 = 0
         ∧ goesOn k (loopEnd k.code 0 + 1))
    ∧ (let f : FR := ⟨0, false, 0, 0, 0⟩
       let k := looped (kern (.laneEndvl w0 f) (th 0 0 3))
       laneRuns (.laneEndvl w0 f) w0 f.pg (laneSt k) k (th 0 0 3) ∧ k.loop.isSome = true)
    ∧ (let t := { th 0 0 3 with done := true, stores := [st0 0] }
       let lp : LaneLoop := { start := 0, pass := 0, threads := [(0, t)] }
       let k := { kern (.laneSetvl w0 fi) (th 1 0 0) with
         vl := 1, code := [(laneWord (.laneSetvl w0 fi)).getD 0, 0x0E400000, 0x0FC00000], loop := some lp }
       laneKernel (laneSt k) (.step 0) = some k ∧ (isletOf (laneSt k) k.islet).state = .active
         ∧ ((List.range 256).filterMap fun t => assoc t lp.threads) = [t] ∧ t.trap = none
         ∧ storeVerdict (laneSt k) k (st0 0) = .served
         ∧ (laneKernel ([st0 0].foldl (commitStore k) (laneSt k)) (.step 0)).isSome = true
         ∧ goesOn (nextPass k lp) (nextPass k lp).uni.pc) := by
  unfold laneRuns laneNext goesOn; decide +kernel

/-- A decision for tick 1 of group 0. -/
def dec : Decision :=
  { group := 0, tick := 1, verdict := .advance, index := 0, slackRun := 0, stop := false, period := none, members := [], switch := none }

/-- A cutoff of the lead, of a member and of a silent one, a sum of votes, a deadline, the deadline of a formation, a rank that has missed
three, a decision in time and one that is late, and a lost lead. -/
theorem witness_VotesAndDecisions :
    (lead.xng.running = true ∧ grouped lead = true ∧ lead.xng.voted = false ∧ lead.xng.decided = none
      ∧ lead.xng.cycle.toNat < nextTickCycle lead - lead.xng.window.toNat / 2)
    ∧ (let s := { lead with xng := { lead.xng with missing := [(1, 3)] } }
       s.xng.decided = none ∧ 1 ∈ s.xng.members ∧ 3 ≤ look 0 s.xng.missing 1)
    ∧ (let s := role .member
       dec.group = s.xng.groupId.toNat ∧ dec.tick = s.xng.tick.toNat + 1 ∧ s.xng.cycle.toNat < nextTickCycle s)
    ∧ (let s := { role .member with xng := { (role .member).xng with cycle := 40000 } }
       nextTickCycle s ≤ s.xng.cycle.toNat)
    ∧ (let s := { role .member with xng := { (role .member).xng with missed := 2 } }
       grouped s = true ∧ 2 ≤ s.xng.missed)
    ∧ ((role .member).xng.running = true ∧ grouped (role .member) = true ∧ (role .member).xng.voted = false
       ∧ (role .member).xng.silent = false ∧ (role .member).mode ≠ .failed)
    ∧ (let s := { role .member with xng := { (role .member).xng with silent := true } }
       s.xng.running = true ∧ grouped s = true ∧ s.xng.voted = false ∧ s.xng.silent = true)
    ∧ (let s := { role .joining with xng := { (role .joining).xng with members := [1], formTick := some 9 } }
       s.xng.running = true ∧ formingLead s = true) := by decide +kernel

/-- R34, R43, R349: a member's vote waits for credits on the vote port at its cutoff, where that carries traffic, and it has voted. -/
theorem test_cutoff :
    let s := { role .member with zng := { (role .member).zng with ports := [(0, { phase := .active })] } }
    (after1 .cutoff s).xng.voted = true ∧ (portOf (after1 .cutoff s) 0).waiting.length = 1
      ∧ (after1 .cutoff (role .member)).xng.voted = true ∧ (after1 .cutoff (role .member)).zng.ports = [] := by
  decide +kernel

/-- A marker of group 0 for tick 1 with a DELAY (R349). -/
def marker (delay : Nat) : List Byte :=
  let h := toLE 2 0xC35A ++ toLE 2 0 ++ toLE 8 1 ++ toLE 4 delay ++ zeros 12
  h ++ toLE 4 (crc32c h)

/-- A running clock; an overrun, a holdover, an alignment error and a marker in their conditions. -/
theorem witness_TicksAndClockFaults :
    ready.xng.running = true
    ∧ (let s := { ready with xng := { ready.xng with slackRun := 65 } }
       65 ≤ s.xng.slackRun.toNat ∧ s.xng.overrunRaised = false ∧ grouped s = false)
    ∧ (let s := { role .member with xng := { (role .member).xng with unmarked := 4, offTicks := 16 } }
       s.xng.role ≠ .solo ∧ 4 ≤ s.xng.unmarked ∧ s.xng.holdover = false ∧ 16 ≤ s.xng.offTicks
         ∧ grouped s = true ∧ s.xng.tick.toNat + 1 = 1)
    ∧ (let s := role .member
       s.xng.role ≠ .solo ∧ fld (marker 256) 0 2 = 0xC35A ∧ fld (marker 256) 2 2 = s.xng.groupId.toNat ∧ zeroAt (marker 256) 16 12 = true
         ∧ fld (marker 256) 28 4 = crc32c ((marker 256).take 28) ∧ 256 ≤ fld (marker 256) 12 4
         ∧ fld (marker 256) 12 4 ≤ s.xng.current.toNat ∧ fld (marker 256) 4 8 = s.xng.tick.toNat + 1)
    ∧ (let s := { role .member with xng := { (role .member).xng with sizeNext := some (1, 4) } }
       s.xng.running = true ∧ s.xng.sizeNext = some (1, 4) ∧ 1 ≤ s.xng.tick.toNat + 1 ∧ grouped (after1 .tick s) = true
         ∧ (after1 .tick s).xng.sizeM1 = 4) := by decide +kernel

/-- R17, R18: a tick counts one, and the next lies one period on. -/
theorem test_tick :
    (after1 .tick ready).xng.tick = 1 ∧ (after1 .tick ready).xng.tickCycle = 0x9C40 := by decide +kernel

/-- A formation at its tick, a join of this module and of another, a leave of each, a dissolution, and a leave request. -/
theorem witness_GroupMembership :
    (let s := { role .joining with xng := { (role .joining).xng with formTick := some 0 } }
     s.xng.formTick = some 0 ∧ 0 ≤ s.xng.tick.toNat)
    ∧ (let c : MemberChange := { join := true, rank := 0, tick := 0, gtick := 7 }
       let s := { role .joining with xng := { (role .joining).xng with decision := none, joins := [c], onTicks := 256 } }
       dueChange s true 0 = some c ∧ c.rank = s.xng.rank.toNat ∧ 256 ≤ s.xng.onTicks)
    ∧ (let c : MemberChange := { join := true, rank := 5, tick := 0 }
       let s := { lead with xng := { lead.xng with joins := [c] } }
       dueChange s true 5 = some c ∧ s.xng.role ≠ .joining)
    ∧ (let c : MemberChange := { join := false, rank := 1, tick := 0 }
       let s := { lead with xng := { lead.xng with joins := [c] } }
       dueChange s false 1 = some c ∧ c.rank ≠ s.xng.rank.toNat)
    ∧ (let c : MemberChange := { join := false, rank := 0, tick := 0 }
       let s := { role .leaving with xng := { (role .leaving).xng with joins := [c] } }
       dueChange s false 0 = some c ∧ c.rank = s.xng.rank.toNat)
    ∧ (let s := { lead with xng := { lead.xng with dissolveAt := some 0 } }
       s.xng.dissolveAt = some 0 ∧ s.ttu.func = .stopped)
    ∧ (role .joining).xng.role = .joining
    ∧ (lead.xng.role = .lead ∧ 1 ∈ lead.xng.members ∧ lead.xng.joins = []) := by decide +kernel

/-! ### The timetable unit -/

/-- An image of one crossing whose steps lie in phase 0. -/
def img (steps : List StepEnt) : Image :=
  { loop := false, lislets := 1, ranks := 1, loopFrom := 0, iterCount := 1, regions := [], tensors := [], kernels := [⟨0, 4, [0x0FC00000]⟩]
    ranges := [], crossings := [⟨0, steps.length, 1, 0⟩], steps := steps, digest := [], bytes := 0 }
/-- A step of logical islet 0. -/
def stepOf (o : StepOp) : StepEnt := { phase := 0, lislet := 0, dep0 := 0, dep1 := 0, op := o, reserved := true }
/-- A unit that runs that crossing, its islet resident. -/
def running (i : Image) : State :=
  { ready with
    ttu := { func := .running, slotA := { state := .admitted, image := some i }, opened := true }
    xng := { ready.xng with idle := false }
    isl := { ready.isl with resident := [(0, 1)] } }
/-- A MOVE of one raw row within the store. -/
def mv : MoveOp :=
  { srcFmt := 0, dstFmt := 0, round := 0, storeBlock := 0, purpose := 0, src := ⟨0, 0, 0, 0⟩, dst := ⟨0, 0, 64, 0⟩, rowBytes := 4
    rows := 1, srcStride := 4, dstStride := 4 }
/-- A matrix step of a mode over one chunk. -/
def mm (mode : Nat) : MmaOp :=
  { aAddr := 0, bAddr := 0x4000, accAddr := 0x8000, acc2Addr := 0x18000, cAddr := 0x28000, k := 32, chunkFirst := 0, chunkCount := 1
    aFmt := 1, bFmt := 1, cFmt := 1, mode := mode, flags := 0, epiExp := 0, purpose := 0, statusAddr := 0 }

/-- A tensor of eight W16 elements in region 0. -/
def te : TensorEnt :=
  { id := 0, region := 0, fmt := 2, block := 0, offset := 0, dim0 := 8, dim1 := 1, dim2 := 1, dim3 := 1, stride1 := 0, stride2 := 0
    stride3 := 0, hist := 1, flags := 0 }
/-- A KERNEL step of kernel 0 with eight arguments. -/
def ko : KernelOp := { kernel := 0, rangeCount := 0, rangeFirst := 0, args := [1, 2, 3, 4, 5, 6, 7, 8] }
/-- An exchange of all elements of tensor 0 into itself. -/
def ex (op : Nat) : ExchOp :=
  { op := op, redop := 0, fmt := 2, root := 0, src := 0, dst := 0, srcOffset := 0, dstOffset := 0, elems := 8 }
/-- A SNAP of no range. -/
def sn (mode : Nat) : SnapOp :=
  { mode := mode, block := 2, rangeCount := 0, rangeFirst := 0, staging := 0, lisletFirst := 0, lisletCount := 1, storeAddr := 0 }
/-- An image with that tensor and one module-wide step. -/
def imgX (o : StepOp) : Image :=
  { img [{ stepOf o with lislet := 0xFFFF }] with tensors := [te], regions := [⟨0, 0, 0, 4096⟩] }
/-- It runs, its region bound at address 0. -/
def runX (o : StepOp) : State :=
  let s := running (imgX o)
  { s with ttu := { s.ttu with slotA := { s.ttu.slotA with binding := [(0, 4096)] } } }

/-- A converting MOVE of one E2M1 row of three elements that comes from two bytes of W16 to a store. -/
def mvOdd : MoveOp := { mv with srcFmt := 2, dstFmt := 7, rowBytes := 6 }

/-- A MOVE whose row is read, one whose source is poisoned in memory, a converting one whose row ends in the middle of a byte, one to a
tensor, and each matrix mode with its operands read. -/
theorem witness_StepMovesAndMatrixModes :
    (let s := running (img [stepOf (.move mv)])
     (stepReady 0 s).isSome = true
       ∧ (readRows (fun off s => readPlace (actSlot s) (img [stepOf (.move mv)]) 0 mv.src off mv.rowBytes s) 1 4 s).2 = (some [[0, 0, 0, 0]], false)
       ∧ mv.srcFmt = 0 ∧ mv.dst.space = 0 ∧ s.isl.flips = [])
    ∧ (let m : MoveOp := { mv with src := ⟨2, 0, 0, 0⟩ }
       let i := { imgX (.move m) with steps := [stepOf (.move m)] }
       let r := running i
       let s := { r with
         mem := { r.mem with poison := [(0, true)] }
         ttu := { r.ttu with slotA := { r.ttu.slotA with binding := [(0, 4096)] } } }
       (stepReady 0 s).isSome = true
         ∧ (readRows (fun off s => readPlace (actSlot s) i 0 m.src off m.rowBytes s) 1 4 s).2 = (some [[0, 0, 0, 0]], true))
    ∧ (let df := (fmtOfCode mvOdd.dstFmt).getD .raw
       let i := img [stepOf (.move mvOdd)]
       let xs := decodeRow ((fmtOfCode mvOdd.srcFmt).getD .raw) (moveBlock i mvOdd mvOdd.src) 0 (zeros 6)
       let bs := (encodeRow df (moveBlock i mvOdd mvOdd.dst) 0 ((List.range xs.length).map fun _ => .rne) xs fun _ => true).1
       mvOdd.srcFmt ≠ 0 ∧ mvOdd.dst.space ≠ 2 ∧ fmtBits df = 4 ∧ fmtIsBlock df = false ∧ xs.length % 2 = 1 ∧ bs.length = 2
         ∧ (readPlace (actSlot (running i)) i 0 mvOdd.dst (0 + bs.length - 1) 1 (running i)).2.1 = some [0])
    ∧ (let m : MoveOp := { mv with dst := ⟨2, 0, 0, 0⟩ }
       m.srcFmt = 0 ∧ m.dst.space = 2 ∧ (imgX (.move m)).tensors[m.dst.addr]? = some te)
    ∧ (let s := running (img [stepOf (.mma (mm 0))])
       (stepReady 0 s).isSome = true ∧ (readOperands 0 (mm 0) none s).2.isSome = true)
    ∧ (let s := running (img [stepOf (.mma (mm 1))])
       (stepReady 0 s).isSome = true ∧ (readOperands 0 (mm 1) none s).2.isSome = true)
    ∧ (let s := running (img [stepOf (.mma (mm 2))])
       (stepReady 0 s).isSome = true ∧ (readStore 0 (mm 2).accAddr accBytes s).2.1.isSome = true
         ∧ (readStore 0 (mm 2).acc2Addr accBytes (readStore 0 (mm 2).accAddr accBytes s).1).2.1.isSome = true)
    ∧ (let s := running (img [stepOf (.mma (mm 3))])
       (stepReady 0 s).isSome = true ∧ (readStore 0 (mm 3).accAddr accBytes s).2.1.isSome = true) := by decide +kernel

/-- R66: a raw row's bytes stand unchanged at the destination. -/
theorem test_move_row :
    let s := running (img [stepOf (.move mv)])
    let t := after1 (.move 0) { s with isl := { s.isl with store := [(0, 7), (3, 9)] } }
    t.isl.store = [(0, 7), (3, 9), (64, 7), (67, 9)] ∧ t.ttu.ran = [0] := by decide +kernel

/-- A KERNEL step with eight arguments, exchanges whose own part is read, and both SNAP modes. -/
theorem witness_StepKernelsExchangesSnaps :
    (let s := running (img [stepOf (.kernel ko)])
     (stepReady 0 s).isSome = true ∧ ko.args.length = 8)
    ∧ (∀ k < 4, let s := runX (.exch (ex k))
       (stepReady 0 s).isSome = true ∧ (imgX (.exch (ex k))).tensors[(ex k).src]? = some te ∧ s.ttu.replay = false
         ∧ (readElems (actSlot s) te 0 8 s).2.2 = false ∧ (imgX (.exch (ex k))).ranks = 1)
    ∧ (let s := runX (.snap (sn 0))
       let n := (snapOffsets (snapDataOff ((rangesAt (imgX (.snap (sn 0))) 0 0).getD []).length) ((rangesAt (imgX (.snap (sn 0))) 0 0).getD [])).2
       let c : Snapshot := { slot := false, region := 0, seq := 0, index := 0, stage := 0, manifest := 0, dataOff := 0, total := 4096 }
       let t := { s with ttu := { s.ttu with released := [c] } }
       (stepReady 0 s).isSome = true ∧ snapBusy (regionBase (actSlot s) 0) n s = false
         ∧ (stepReady 0 t).isSome = true ∧ snapBusy (regionBase (actSlot t) 0) n t = true)
    ∧ (stepReady 0 (runX (.snap (sn 1)))).isSome = true := by decide +kernel

/-- SNAP POLICY of no range: what its groups give, without poison. -/
theorem witness_SnapPolicy :
    let s := runX (.snap (sn 1))
    (stepReady 0 s).isSome = true ∧ s.isl.flips = []
      ∧ policyGroups (imgX (.snap (sn 1))) (sn 1) ((rangesAt (imgX (.snap (sn 1))) 0 0).getD []) 0 4096 [] = [] := by decide +kernel

/-- An exchange of two ranks whose other part is there. -/
theorem witness_exchange_ranks :
    let i := { imgX (.exch (ex 0)) with ranks := 2 }
    let r := running i
    let s := { r with ttu := { r.ttu with slotA := { r.ttu.slotA with binding := [(0, 4096)] } } }
    let others : List (Nat × Int × List Byte) := [(1, 0, zeros 16)]
    (stepReady 0 s).isSome = true ∧ i.tensors[(ex 0).src]? = some te ∧ s.ttu.replay = false
      ∧ (readElems (actSlot s) te 0 8 s).2.2 = false ∧ s.xng.rank.toNat = 0
      ∧ ∀ r < i.ranks, r ≠ s.xng.rank.toNat → (assoc r others).isSome = true := by decide +kernel

/-- A poisoned tensor, as an exchange reads it. -/
theorem witness_exchange_poisoned :
    let s := runX (.exch (ex 3))
    (readElems (actSlot s) te 0 8 { s with mem := { s.mem with poison := [(0, true)] } }).2.2 = true := by decide +kernel

/-- A step that ran, in STOPPING and in RUNNING, one that is registered already, one whose completion is dated at the next tick, and a
unit in STOPPING with nothing left. -/
theorem witness_StepCompletions :
    (let s := running (img [stepOf (.move mv)])
     let t := { s with ttu := { s.ttu with func := .stopping, ran := [0] } }
     0 ∈ t.ttu.ran ∧ 0 ∉ t.ttu.done ∧ t.lnc.steps = [] ∧ t.isl.faulted = [] ∧ t.ttu.func = .stopping)
    ∧ (let s := running (img [stepOf (.move mv)])
       let t := { s with ttu := { s.ttu with func := .stopping, ran := [0], done := [0] } }
       0 ∈ t.ttu.done ∧ t.ttu.func = .stopping ∧ t.lnc.steps = [] ∧ ∀ j ∈ t.ttu.ran, j ∈ t.ttu.done)
    ∧ (let s := running (img [stepOf (.move mv)])
       let t := { s with ttu := { s.ttu with ran := [0] } }
       t.xng.running = true ∧ t.xng.tickCycle.toNat + 9 < nextTickCycle t ∧ nextTickCycle t ≤ t.xng.tickCycle.toNat + 40000
         ∧ 0 ∈ t.ttu.ran ∧ 0 ∉ t.ttu.done ∧ t.lnc.steps = [] ∧ t.isl.faulted = [] ∧ t.ttu.func = .running)
    ∧ ready.ttu.func ≠ .stopping := by decide +kernel

/-- R19: a completion in the tick's own cycle waits for the crossing that the tick opens. -/
theorem test_completion_at_tick :
    let s := running (img [stepOf (.move mv)])
    let t := { s with ttu := { s.ttu with ran := [0] } }
    (after1 (.stepCompletion 0 40000) t).ttu.done = [] ∧ (after1 (.stepCompletion 0 40000) t).ttu.ahead = [(0, 40000)]
      ∧ (after1 (.stepCompletion 0 39999) t).ttu.done = [0] := by decide +kernel

/-- A slot with an admitted image. -/
def admitted : ImgSlot := { state := .admitted, image := some (img []), binding := [] }
/-- READY with an admitted image in both slots. -/
def loaded : State := { ready with ttu := { slotA := admitted, slotB := admitted } }

/-- TT_LOAD that is refused and one that a check rejects; TT_START of ranks that differ, agree, and disagree in a group; TT_SWITCH. -/
theorem witness_TimetableLoadsStartsSwitches :
    (let s := post 0x20 [0, 0, 0, 0] { ready with ttu := { func := .running } }
     taken 0x20 s = true ∧ (tk s).ttu.func ≠ .stopped)
    ∧ (let s := post 0x20 [0, 0, 0, 0] ready
       taken 0x20 s = true ∧ (tk s).ttu.func = .stopped
         ∧ (match (admitImage 0 0 0 [] 0 (tk s)).2 with | .error _ => true | .ok _ => false) = true)
    ∧ (let s := post 0x21 [0, 0] loaded
       taken 0x21 s = true ∧ (actSlot (tk s)).state = .admitted ∧ (tk s).ttu.func = .stopped ∧ (tk s).hlt.standby = none
         ∧ stepBaseBad (img []) 0 = false ∧ (img []).ranks = rankCount (tk s))
    ∧ (let s := post 0x21 [0, 0] { loaded with xng := { lead.xng with sizeM1 := 3 } }
       taken 0x21 s = true ∧ (img []).ranks ≠ rankCount (tk s))
    ∧ (let i := { img [] with ranks := 2 }
       let s := post 0x21 [0, 0] { loaded with
         xng := lead.xng, hbr := { ready.hbr with exchange := .running }, ttu := { slotA := { admitted with image := some i } } }
       taken 0x21 s = true ∧ i.ranks = rankCount (tk s) ∧ (1 < i.ranks ∧ (tk s).hbr.exchange = .running) ∧ grouped (tk s) = true)
    ∧ (let s := post 0x22 [0, 0, 0] { loaded with ttu := { loaded.ttu with func := .running } }
       taken 0x22 s = true ∧ (shadowSlot (tk s)).state = .admitted ∧ (tk s).ttu.pending = none ∧ stepBaseBad (img []) 0 = false) := by
  decide +kernel

/-- A captured snapshot of staging region 1 with a total of bytes. -/
def snapOf (n : Nat) : Snapshot := { slot := false, region := 1, seq := 0, index := 0, stage := 0, manifest := 256, dataOff := 4096, total := n }

/-- A running unit that takes a cursor by either path; a target for a STAGING region; a released snapshot with a target and without. -/
theorem witness_CursorsAndShipments :
    (let s := { ready with ttu := { func := .running } }
     s.ttu.func = .running ∧ (actSlot s).cursors.length < 16)
    ∧ (let s := postP 0x23 [5] (List.replicate 64 1) { ready with ttu := { func := .running } }
       taken 0x23 s = true)
    ∧ (let i := { img [] with regions := [⟨3, 0, 0, 4096⟩] }
       let s := post 0x24 [0, hostBase, 4096] { ready with ttu := { slotA := { admitted with image := some i } } }
       taken 0x24 s = true ∧ (actSlot (tk s)).image = some i ∧ i.regions[0]? = some ⟨3, 0, 0, 4096⟩)
    ∧ (let s := { ready with ttu := { released := [snapOf 4096], targets := [⟨false, 1, hostBase, 4096⟩] } }
       s.ttu.shipping = none ∧ s.ttu.released = [snapOf 4096] ∧ shipTarget s false 1 = some ⟨false, 1, hostBase, 4096⟩ ∧ (snapOf 4096).total ≤ 4096)
    ∧ (let s := { ready with ttu := { released := [snapOf 4097], targets := [⟨false, 1, hostBase, 4096⟩] } }
       shipTarget s false 1 = some ⟨false, 1, hostBase, 4096⟩ ∧ 4096 < (snapOf 4097).total) := by decide +kernel

/-! ### Admission -/

/-- The bytes of an image of one empty crossing, its SWAP region of one logical islet and its STATS region (R75, R76, Tables 2.4 to
2.7); its digest stands where it is given. -/
def imageBytes (digest : List Byte) : List Byte :=
  toLE 4 0x4C435343 ++ [1, 0, 0, 0] ++ toLE 4 256 ++ toLE 2 1 ++ toLE 2 1 ++ toLE 4 1 ++ zeros 12
    ++ toLE 4 2 ++ zeros 20 ++ toLE 8 256 ++ zeros 24 ++ toLE 8 320 ++ zeros 16 ++ toLE 8 336 ++ zeros 8
    ++ digest ++ zeros 64
    ++ [1, 0, 0, 0, 0, 0, 0, 0] ++ toLE 8 (2 ^ 22) ++ zeros 16
    ++ [2, 0, 0, 0, 0, 0, 0, 0] ++ toLE 8 (2 ^ 21) ++ zeros 16
    ++ toLE 4 0 ++ toLE 4 0 ++ [1, 0] ++ zeros 6
/-- The digest of that image (SHA3-512, R75), as a host that builds the image computes it. -/
def goodDigest : List Byte := [
  86, 110, 180, 39, 254, 134, 175, 245, 134, 158, 52, 68, 92, 171, 131, 196,
  72, 81, 164, 53, 246, 174, 49, 77, 92, 233, 144, 244, 197, 124, 65, 99,
  145, 20, 238, 140, 94, 243, 110, 143, 137, 206, 167, 199, 171, 197, 125, 118,
  166, 145, 92, 225, 25, 45, 10, 91, 107, 173, 50, 137, 38, 40, 77, 153]
/-- That image with its digest. -/
def goodImage : List Byte := imageBytes goodDigest
/-- A pinned region of context 0. -/
def pinned (base bytes : Nat) : RegionD := ⟨base, bytes, 0, 3, 1, 0, 0⟩
/-- TT_LOAD of an image at 8 MiB into the active slot, with both regions bound (R82, R266). -/
def loading (img : List Byte) : State :=
  postP 0x20 [0, 4 * 2 ^ 21, 336, 0] (toLE 4 0 ++ toLE 4 2) { ready with
    rgn := { ready.rgn with lists := [(0, [pinned 0 (2 ^ 22), pinned (2 * 2 ^ 21) (2 ^ 21), pinned (4 * 2 ^ 21) (2 ^ 21)])] }
    mem := { ready.mem with cells := setBytes [] (4 * 2 ^ 21) img } }

/-- TT_LOAD of an image that passes every check. -/
theorem witness_TtLoad_admitted :
    taken 0x20 (loading goodImage) = true ∧ (tk (loading goodImage)).ttu.func = .stopped
    ∧ (match (admitImage 0 (4 * 2 ^ 21) 336 [0, 2 * 2 ^ 21] 0 (tk (loading goodImage))).2 with
        | .ok i => decide (i.crossings = [⟨0, 0, 1, 0⟩])
        | .error _ => false) = true := by decide +kernel

/-- R82, R83: with another MAGIC, the first check fails (code 1). -/
theorem test_tt_load_header :
    (after1 (.ttLoad 9) (loading (goodImage.set 0 0))).ttu.rejCode = 1 := by decide +kernel

/-! ### Islets and their free-running queues -/

/-- An islet that works, one that is fenced, and a store with one wrong bit and with two. -/
theorem witness_IsletFaultsAndScrubbing :
    (isletOf ready 0).state = .active
    ∧ (let s := setIslet 0 { state := .fenced } ready
       (isletOf s 0).state ≠ .active ∧ (isletOf s 0).state ≠ .spare)
    ∧ (ready.isl.scrubEn = true ∧ ready.isl.flips = [])
    ∧ (let s := { ready with isl := { ready.isl with flips := [(0 * 2 ^ 20 + (8 * 0 + 3), 2 ^ 38)] } }
       s.isl.scrubEn = true ∧ (isletOf s 0).state = .active)
    ∧ (let s := { ready with isl := { ready.isl with flips := [(0 * 2 ^ 20 + (8 * 0 + 3), 2 ^ 38 + 2 ^ 0)] } }
       s.isl.scrubEn = true ∧ (isletOf s 0).state = .active) := by decide +kernel

/-- A ferry queue with a descriptor in progress. -/
def busyQ (d : List Byte) : Queue := { enable := true, tail := 1, size := 0, inProgress := [(0, 0, d)] }
/-- A ferry queue that is enabled and has nothing. -/
def idleQ : Queue := { enable := true }
/-- A kernel that runs from launch queue 0. -/
def kq : LaneKernel := { kern (.laneAdd w0 fr) (th 1 2 3) with queue := true }

/-- Queues that are disabled, enabled, busy and idle. -/
theorem witness_FreeQueueRegisters :
    ((fryQ ready 0).inProgress = [] ∧ (fryQ ready 0).finished = [] ∧ (fryQ ready 0).drain = false)
    ∧ ((assoc 0 ready.lnc.free) = none ∧ (assoc 0 ready.lnc.suspended) = none)
    ∧ (let s := setFryQ 0 (busyQ []) ready
       (fryQ s 0).enable = true ∧ ((fryQ s 0).inProgress ≠ [] ∨ (fryQ s 0).finished ≠ []))
    ∧ (let s := setFryQ 0 idleQ ready
       (fryQ s 0).enable = true ∧ (fryQ s 0).inProgress = [] ∧ (fryQ s 0).finished = [] ∧ (fryQ s 0).tail = (fryQ s 0).head)
    ∧ (let s := setLncQ 0 idleQ { ready with lnc := { ready.lnc with free := [(0, kq)] } }
       (lncQ s 0).enable = true ∧ (lncQ s 0).finished = [] ∧ (assoc 0 s.lnc.free).isSome = true ∧ lncBusy s 0 = true)
    ∧ (let s := setLncQ 0 idleQ ready
       (lncQ s 0).enable = true ∧ (lncQ s 0).drain = false ∧ (lncQ s 0).finished = [] ∧ (assoc 0 s.lnc.free) = none
         ∧ (assoc 0 s.lnc.suspended) = none ∧ (lncQ s 0).tail = (lncQ s 0).head) := by decide +kernel

/-- R160: a doorbell moves TAIL up to the ring's 16 entries; one further sets ERR. -/
theorem test_fry_qtail :
    (fryQ (after1 (.fryQtail 0 16) ready) 0).tail = 16 ∧ (fryQ (after1 (.fryQtail 0 17) ready) 0).tail = 0
      ∧ (fryQ (after1 (.fryQtail 0 17) ready) 0).err = true := by decide +kernel

/-- A FILL of eight bytes at 0x1000 whose pattern is 1 to 8 (Table 5.7). -/
def fill8 : List Byte :=
  [3, 0, 0, 0, 0, 0, 0, 0, 1, 2, 3, 4, 5, 6, 7, 8] ++ toLE 8 0x1000 ++ toLE 4 8 ++ toLE 4 1 ++ zeros 32
/-- A COPY of eight bytes from 0x2000 to 0x1000 (Table 5.7). -/
def copy8 : List Byte := [1, 0, 0, 0, 0, 0, 0, 0] ++ toLE 8 0x2000 ++ toLE 8 0x1000 ++ toLE 4 8 ++ toLE 4 1 ++ zeros 32
/-- A CONVERT of two F32 elements from 0x2000 to W16 at 0x1000 (Table 5.7). -/
def conv2 : List Byte := [2, 0, 1, 2, 0, 0, 0, 0] ++ toLE 8 0x2000 ++ toLE 8 0x1000 ++ toLE 4 8 ++ toLE 4 1 ++ zeros 32
/-- A region of context 0 over the first 2 MiB. -/
def home0 : RegionD := ⟨0, 2 ^ 21, 0, 3, 1, 0, 0⟩
/-- Ferry queue 0 enabled with one descriptor, which stands in its ring at 0. -/
def ferrying (d : List Byte) : State :=
  { ready with
    fry := { func := .running, queues := [(0, { enable := true, tail := 1 })] }
    mem := { ready.mem with cells := setBytes [] 0 d, trained := true }
    rgn := { ready.rgn with lists := [(0, [home0])] } }

/-- FERRY_DESCRIPTOR's read of the descriptor that is next in queue 0. -/
def descRead (s : State) : State × OwnRead := ownRead (.ferry 0 0) 0 (whoFerry 0) (descAddr (fryQ s 0) (nextPos (fryQ s 0))) 64 s
/-- A queue of context 5 whose ring lies on page 1, with the page's tag, and a MIGRATING region of page 1. -/
def ferry5 (t : Tag) : State :=
  let s := ferrying fill8
  { s with
    fry := { s.fry with queues := [(0, { enable := true, tail := 1, base := 512, context := 5 })] }
    rgn := { s.rgn with lists := [(5, [⟨2 ^ 21, 2 ^ 21, 2, 3, 0, 0, 0⟩])], tags := [(1, t)], ctxs := [(5, { state := .ready })] } }

/-- FERRY_DESCRIPTOR of a descriptor that passes, of one with a wrong SEQ, a wrong layout, a range outside its regions, on a page that is
not its context's, and on an absent page. -/
theorem witness_FerryDescriptor :
    (let s := ferrying fill8
     ferryMay s 0 0 = true ∧ (descRead s).2 = .data fill8 false ∧ fld fill8 6 2 = 0 ∧ ferryOk fill8 = true
       ∧ (fld fill8 1 1).testBit 1 = false ∧ rangesVerdict (setBuf (.ferry 0 0) none (descRead s).1) 0 (ferryRanges fill8) = .ok)
    ∧ (let d := fill8.set 6 1
       ferryMay (ferrying d) 0 0 = true ∧ (descRead (ferrying d)).2 = .data d false ∧ fld d 6 2 ≠ 0)
    ∧ (let d := fill8.set 0 4
       ferryMay (ferrying d) 0 0 = true ∧ (descRead (ferrying d)).2 = .data d false ∧ fld d 6 2 = 0 ∧ ferryOk d = false)
    ∧ (let d := fill8.set 18 0x40
       let s := ferrying d
       ferryMay s 0 0 = true ∧ (descRead s).2 = .data d false ∧ ferryOk d = true
         ∧ rangesVerdict (setBuf (.ferry 0 0) none (descRead s).1) 0 (ferryRanges d) = .bound)
    ∧ (let s := { ferrying fill8 with rgn := ready.rgn }
       ferryMay s 0 0 = true ∧ (descRead s).2 = .bound) := by decide +kernel

/-- The descriptor's own page is another context's, or absent. -/
theorem witness_FerryDescriptor_pages :
    (let s := ferry5 { res := .resident, owner := 6 }
     ferryMay s 0 0 = true
       ∧ (ownRead (.ferry 0 0) 5 (whoFerry 0) (descAddr (fryQ s 0) (nextPos (fryQ s 0))) 64 s).2 = .denied 1 false)
    ∧ (let s := { ferry5 { res := .absent, owner := 5 } with cfg := .sk3_2a }
       ferryMay s 0 0 = true
         ∧ (ownRead (.ferry 0 0) 5 (whoFerry 0) (descAddr (fryQ s 0) (nextPos (fryQ s 0))) 64 s).2 = .fault 1) := by decide +kernel

/-- A descriptor whose range lies on an absent page, and on one that is not its context's. -/
theorem witness_FerryDescriptor_ranges :
    ∀ x ∈ [(({ res := .absent, owner := 5 } : Tag), CheckVerdict.fault 2), ({ res := .resident, owner := 6 }, .denied 2 false)],
      let d := fill8.set 18 0x40
      let s := ferry5 { res := .resident, owner := 5 }
      let t := { s with
        cfg := .sk3_2a
        mem := { s.mem with cells := setBytes [] (2 ^ 21) d }
        rgn := { s.rgn with
          lists := [(5, [⟨2 ^ 21, 2 ^ 21, 2, 3, 0, 0, 0⟩, ⟨2 ^ 22, 2 ^ 21, 2, 3, 0, 0, 0⟩])]
          tags := [(1, { res := .resident, owner := 5 }), (2, x.1)] } }
      let r := ownRead (.ferry 0 0) 5 (whoFerry 0) (descAddr (fryQ t 0) (nextPos (fryQ t 0))) 64 t
      ferryMay t 0 0 = true ∧ r.2 = .data d false ∧ ferryOk d = true ∧ fld d 6 2 = 0
        ∧ rangesVerdict (setBuf (.ferry 0 0) none r.1) 5 (ferryRanges d) = x.2 := by decide +kernel

/-- A started COPY, CONVERT and FILL whose sources can be read; a record whose turn it is; a start that waits for its locks. -/
theorem witness_FreeRunningFerries :
    (∀ p ∈ [(fill8, 3), (copy8, 1), (conv2, 2)],
      let s := setFryQ 0 (busyQ p.1) (ferrying p.1)
      ((fryQ s 0).inProgress.find? fun e => e.1 == 0) = some (0, 0, p.1) ∧ fld p.1 0 1 = p.2
        ∧ sourcesReady s (.ferry 0 0) p.1 = true
        ∧ (moveAll (.ferry 0 0) (fryQ s 0).context.toNat (whoFerry 0) p.1 s).2 = (false, if p.2 = 2 then 4 else 8))
    ∧ (let rec_ : List Byte := zeros 16
       let s := setFryQ 0 { enable := true, tail := 1, finished := [(0, 0, rec_, true)] } (ferrying fill8)
       ((fryQ s 0).finished.find? fun f => f.1 == (fryQ s 0).head.toNat) = some (0, 0, rec_, true)
         ∧ openUses s (.ferry 0 0) = false ∧ ferryHeld s 0 = false ∧ (fryQ s 0).drain = false ∧ (fryQ s 0).recOut = false
         ∧ ownSeen (ownWrite (.ferry 0 0) 0 (whoFerry 0) (recordAddr (fryQ s 0) 0) rec_ s) (.ferry 0 0) (whoFerry 0)
           (recordAddr (fryQ s 0) 0) = true)
    ∧ (let rec_ : List Byte := zeros 16
       let s := setFryQ 0 { enable := true, tail := 1, base := 0x100000000, finished := [(0, 0, rec_, true)] }
         { ready with rgn := { ready.rgn with lists := [(0, [⟨0x100000000000, 2 ^ 21, 1, 3, 0, 0, 0⟩])] } }
       openUses s (.ferry 0 0) = false ∧ ferryHeld s 0 = false ∧ (fryQ s 0).drain = false ∧ (fryQ s 0).recOut = false
         ∧ ownSeen (ownWrite (.ferry 0 0) 0 (whoFerry 0) (recordAddr (fryQ s 0) 0) rec_ s) (.ferry 0 0) (whoFerry 0)
           (recordAddr (fryQ s 0) 0) = false)
    ∧ ready.ttu.func ≠ .starting := by decide +kernel

/-- A start that waits for its locks, with its GROUP check due and without, and one whose ranks disagree. -/
theorem witness_LockPages :
    (∀ due ∈ [true, false], let s := { ready with ttu := { func := .starting, locksWait := true, groupDue := due } }
      s.ttu.func = .starting ∧ s.ttu.locksWait = true ∧ s.ttu.groupDue = due ∧ slotPages (actSlot s) = [] ∧ groupCheck true s = none)
    ∧ (let s := { lead with ttu := { func := .starting, locksWait := true, groupDue := true } }
       s.ttu.func = .starting ∧ s.ttu.locksWait = true ∧ slotPages (actSlot s) = [] ∧ groupCheck false s = some stIntegrity) := by
  decide +kernel

/-- R158: FILL writes its pattern. -/
theorem test_fill :
    let s := setFryQ 0 (busyQ fill8) (ferrying fill8)
    (readMem whoEngine 0x1000 8 (after1 (.fill 0 0) s)).2.1 = [1, 2, 3, 4, 5, 6, 7, 8] := by decide +kernel

/-! ### Module memory -/

/-- A line that is served, one that waits at its channel, one that no memory backs, a page that denies context 7, and one that is locked. -/
theorem witness_LineReads :
    (ready.pwr.good = true ∧ canonical ready = true ∧ backed ready.cfg 0x1000 = true ∧ pageCheck ready 0 (pageOf 0x1000) false = .served
      ∧ (chan ready (chanOf ready 0x1000)).state ≠ .lost ∧ wcEntry ready (0x1000 / 256) = none
      ∧ look [] ready.mem.errs (0x1000 / 256) = [] ∧ look false ready.mem.poison (0x1000 / 256) = false
      ∧ chanWaits ready (chanOf ready 0x1000) = false)
    ∧ (let k := chanOf ready 0x1000
       let s := setChan k { chan ready k with busy := true } ready
       canonical s = true ∧ pageCheck s 0 (pageOf 0x1000) false = .served ∧ chanWaits s (chanOf s 0x1000) = true)
    ∧ (backed ready.cfg (2 ^ 41 - 64) = false ∧ 0x1000 / 4096 ≠ 6)
    ∧ pageCheck ready 7 (pageOf 0x1000) false = .denied
    ∧ pageCheck { ready with rgn := { ready.rgn with ttContext := 5, tags := [(0, { res := .resident, lock := true })] } } 0 0 true
        = .locked := by decide +kernel

/-- A line of 64 bytes. -/
def line64 : List Byte := (List.range 64).map (BitVec.ofNat 8 ·)

/-- A line written and read, by a context and by an engine. -/
theorem witness_LineReadAfterWrite :
    ready.pwr.good = true ∧ backed ready.cfg 0x1000 = true ∧ line64.length = 64 ∧ (chan ready (chanOf ready 0x1000)).state ≠ .lost
      ∧ (look [] ready.mem.wc (chanOf ready 0x1000)).length < 32 ∧ chanWaits ready (chanOf ready 0x1000) = false ∧ inTables 0x1000 = false
      ∧ pageCheck ready 0 (pageOf 0x1000) true = .served ∧ pageCheck ready 0 (pageOf 0x1000) false = .served := by decide +kernel

/-- R238: a request to a channel that calibrates waits with a tracker of its class, and is served when the calibration ends. -/
theorem test_tracker :
    let k := chanOf ready 0x1000
    let t := after1 (.lineRead 0 0 0x1000) (setChan k { chan ready k with busy := true } ready)
    t.mem.tracked = [⟨{ ctx := 0, who := 0, addr := 0x1000, write := none }, false, false⟩] ∧ t.out = ready.out
      ∧ (after1 (.primaryCalibration k) t).mem.tracked = []
      ∧ (after1 (.primaryCalibration k) t).out.head? = some (.line 0 0x1000 (zeros 64) false) := by decide +kernel

/-- A whole entry and a part of a block; a clean block and one with a wrong symbol. -/
theorem witness_EvictionAndPatrolScrub :
    (let k := chanOf ready 0
     let e : WcEntry := ⟨0, (List.range 256).map fun i => (i, 1), 0⟩
     let s := setWc k [e] ready
     ((look [] s.mem.wc (chanOf s 0)).find? fun x => x.block == 0) = some e ∧ (chan s k).state ≠ .lost ∧ e.bytes.length = 256)
    ∧ (let k := chanOf ready 0
       let e : WcEntry := ⟨0, [(0, 1)], 0⟩
       let s := setWc k [e] ready
       ((look [] s.mem.wc (chanOf s 0)).find? fun x => x.block == 0) = some e ∧ e.bytes.length ≠ 256
         ∧ look [] s.mem.errs 0 = [] ∧ look false s.mem.poison 0 = false)
    ∧ (ready.mem.scrubEn = true ∧ canonical ready = true ∧ backed ready.cfg 0 = true
       ∧ (chan ready (chanOf ready 0)).state ≠ .lost ∧ wcEntry ready 0 = none ∧ ready.mem.poison = [] ∧ ready.mem.errs = [])
    ∧ (let s := { ready with mem := { ready.mem with errs := [(0, [⟨true, 131, 255⟩])] } }
       canonical s = true ∧ s.mem.errs = [(0, [⟨true, 131, 255⟩])] ∧ wcEntry s 0 = none) := by decide +kernel

/-- R226, R227: the worked example, for the address whose granule is the 0x12345 that it states (assumption log 121): slot 67,
channel offset 2,725,223, the block's device address and that of its check bytes. -/
theorem test_interleave :
    slotOf .sk3_4a 0x020012345567 = 67 ∧ chanOffset .sk3_4a 0x020012345567 = 2725223
      ∧ deviceAddr (256 * 10645) = 0x2AEC00 ∧ checkAddr 2725223 = 0x2AFF00 + 96 := by decide +kernel

/-- A channel that calibrates, with and without a channel that fell back, and one due to fall back. -/
theorem witness_ChannelsAndMargins :
    (let s := setChan 0 { chan ready 0 with busy := true } ready
     (chan s 0).busy = true ∧ ∀ c ∈ (setChan 0 { chan s 0 with busy := false, calAt := s.now } s).mem.chans, c.2.fallback = false)
    ∧ (let s := setChan 0 { chan ready 0 with busy := true, fallback := true } ready
       ∃ c ∈ (setChan 0 { chan s 0 with busy := false, calAt := s.now } s).mem.chans, c.2.fallback = true)
    ∧ (0 ∈ calChans ready ∧ (chan ready 0).fallback = false ∧ (chan ready 0).busy = false)
    ∧ (let s := { setChan 0 { chan ready 0 with ceTimes := [0] } ready with mem := { (setChan 0 { chan ready 0 with ceTimes := [0] } ready).mem with ceLimit := 1 } }
       (chan s 0).state = .active ∧ s.mem.ceLimit ≠ 0 ∧ s.mem.ceLimit.toNat ≤ ceCountDay s 0)
    ∧ (∀ k ∈ [1, 2, 3], let s := { ready with mem := { ready.mem with scanning := some ⟨k, 0, 0, 9⟩ } }
       s.mem.scanning = some ⟨k, 0, 0, 9⟩ ∧ s.mode ≠ .train ∧ ∀ c ∈ s.mem.chans, c.2.busy = false)
    ∧ (let s := setChan 0 { chan ready 0 with busy := true } { ready with mem := { ready.mem with scanning := some ⟨1, 0, 0, 9⟩ } }
       ∃ c ∈ s.mem.chans, c.2.busy = true) := by decide +kernel

/-! ### Regions, contexts and pages -/

/-- A region command posted in mailbox 9 that may be taken while no other is in progress (see `rgnEntered_of_taken`). -/
def rt (op : Nat) (s : State) : Bool := taken (op + 0x3F) s && (tk s).rgn.job.isNone
/-- Context 5 READY, with a region list and tags for page 3. -/
def ctx5 (l : List RegionD) (t : Tag) (x : Ctx := { state := .ready }) : State :=
  { ready with rgn := { ready.rgn with ctxs := [(5, x)], lists := [(5, l)], tags := [(3, t)] } }
/-- A MODULE region of page 3, and a MIGRATING one. -/
def mod3 : RegionD := ⟨3 * 2 ^ 21, 2 ^ 21, 0, 3, 0, 0, 0⟩
/-- A MIGRATING region of page 3. -/
def mig3 : RegionD := ⟨3 * 2 ^ 21, 2 ^ 21, 2, 3, 0, 0, 0⟩
/-- A tag of context 5. -/
def tag5 (r : Res) (lock : Bool := false) : Tag := { res := r, owner := 5, lock := lock }

/-- ALLOC_CTX of context 0, of one named and of any; FREE_CTX of 0, of a FREE context and of a READY one; JOIN_GROUP of a group held
already, of one with free slots, and of one with none; LEAVE_GROUP. -/
theorem witness_ContextCommands :
    rt 1 (post 0x40 [0] ready) = true ∧ rt 1 (post 0x40 [5] ready) = true
    ∧ (let s := post 0x40 [0xFFFFFFFF] ready
       rt 1 s = true ∧ (ctx (tk s) 5).state = .free)
    ∧ rt 2 (post 0x41 [0] ready) = true
    ∧ (let s := post 0x41 [5] ready
       rt 2 s = true ∧ (ctx (tk s) 5).state ≠ .ready)
    ∧ (let s := post 0x41 [5] (ctx5 [mod3] (tag5 .resident))
       rt 2 s = true ∧ (ctx (tk s) 5).state = .ready ∧ queueOn (tk s) 5 = false ∧ slotHolds (tk s).ttu.slotA 5 = false
         ∧ slotHolds (tk s).ttu.slotB 5 = false)
    ∧ (let s := post 0x47 [5, 7] (ctx5 [] {} { state := .ready, groups := [7, 0xFFFF, 0xFFFF, 0xFFFF] })
       rt 8 s = true ∧ (ctx (tk s) 5).state ≠ .free ∧ 7 ∈ groupsOf (tk s) 5)
    ∧ (let s := post 0x47 [5, 7] (ctx5 [] {} { state := .ready, groups := [1, 2, 3, 4] })
       rt 8 s = true ∧ 7 ∉ groupsOf (tk s) 5 ∧ 0xFFFF#16 ∉ (ctx (tk s) 5).groups)
    ∧ (let s := post 0x47 [5, 7] (ctx5 [] {} { state := .ready, groups := [1, 0xFFFF, 3, 0xFFFF] })
       rt 8 s = true ∧ 7 ∉ groupsOf (tk s) 5 ∧ (ctx (tk s) 5).groups = [1] ++ 0xFFFF#16 :: [3, 0xFFFF]
         ∧ ∀ r ∈ regionList (tk s) (65536 + 7), ∀ x ∈ heldRegions (tk s) 5, overlaps r.base r.bytes x.base x.bytes = false)
    ∧ (let s := post 0x48 [5, 7] (ctx5 [] {} { state := .ready, groups := [7, 0xFFFF, 0xFFFF, 0xFFFF] })
       rt 9 s = true ∧ ∀ r ∈ regionList (tk s) (65536 + 7), regionBusy (tk s) (65536 + 7) r = false) := by decide +kernel

/-- A module in which every context is taken, with ALLOC_CTX of any. -/
def fullCtxs : State :=
  post 0x40 [0xFFFFFFFF] { ready with rgn := { ready.rgn with ctxs := (List.range' 0 65536).map fun c => (c, { state := .ready }) } }

/-- Every context is taken: ALLOC_CTX then finds none. -/
theorem witness_AllocCtx_none : rt 1 fullCtxs = true ∧ ∀ c < 65536, (ctx (tk fullCtxs) c).state ≠ .free := by
  refine ⟨by decide +kernel, fun c h => ?_⟩
  have key : ∀ (d : Ctx) (n a : Nat), a ≤ c → c < a + n →
      look d ((List.range' a n).map fun c => (c, ({ state := .ready } : Ctx))) c = { state := .ready } := by
    intro d n; induction n with
    | zero => intro a h1 h2; omega
    | succ n ih =>
      intro a h1 h2
      simp only [List.range'_succ, List.map_cons, look]
      split
      · rfl
      · exact ih _ (by omega) (by omega)
  show (look (ctxDefault c) ((List.range' 0 65536).map fun c => (c, ({ state := .ready } : Ctx))) c).state ≠ .free
  rw [key _ 65536 0 (Nat.zero_le _) (by omega)]
  decide

/-- ADD_REGION of a MODULE region that may be claimed, in a list with room and in one without; REMOVE_REGION of an absent and a
present region; UNPIN of a present one. -/
theorem witness_RegionCommands :
    (let s := post 0x42 [5, 3 * 2 ^ 21, 2 ^ 21, 0x0300, 0] (ctx5 [] {})
     let bs := getBytes (mbOf (tk s) 9).bytes 16 32
     rt 3 s = true ∧ parseRegionD bs = mod3 ∧ (ctx (tk s) 5).state ≠ .free ∧ descriptorOk (tk s) 5 bs = true
       ∧ regionClash (tk s) 5 mod3 = false ∧ (∀ p ∈ pagesOf mod3.base mod3.bytes, claimable (tk s) 5 p = true)
       ∧ (regionList (tk s) 5).length < 256)
    ∧ (let s := post 0x42 [5, 3 * 2 ^ 21, 2 ^ 21, 0x0300, 0] (ctx5 ((List.range 256).map fun i => ⟨(4 + i) * 2 ^ 21, 2 ^ 21, 0, 3, 0, 0, 0⟩) {})
       let bs := getBytes (mbOf (tk s) 9).bytes 16 32
       rt 3 s = true ∧ descriptorOk (tk s) 5 bs = true ∧ regionClash (tk s) 5 mod3 = false ∧ 256 ≤ (regionList (tk s) 5).length)
    ∧ (let s := post 0x43 [5, 4 * 2 ^ 21] (ctx5 [mod3] (tag5 .resident))
       rt 4 s = true ∧ regionAt (tk s) 5 (4 * 2 ^ 21) = none)
    ∧ (let s := post 0x43 [5, 3 * 2 ^ 21] (ctx5 [mod3] (tag5 .resident))
       rt 4 s = true ∧ regionAt (tk s) 5 (3 * 2 ^ 21) = some mod3 ∧ regionBusy (tk s) 5 mod3 = false)
    ∧ (let s := post 0x45 [5, 3 * 2 ^ 21] (ctx5 [mod3] (tag5 .resident))
       rt 6 s = true ∧ regionAt (tk s) 5 (3 * 2 ^ 21) = some mod3) := by decide +kernel

/-- A coalescing entry whose page has come. -/
def moved3 : CoEntry := { page := 3, evict := false, begun := true, moved := 2 ^ 21 }

/-- PIN of a resident region; EVICT of a locked, an absent and a resident page; a migration whose page has come and one whose page has
not; the decay at its interval and at DECAY 0. -/
theorem witness_PagesMove :
    (let s := post 0x44 [5, 3 * 2 ^ 21] (ctx5 [mod3] (tag5 .resident))
     rt 5 s = true ∧ regionAt (tk s) 5 (3 * 2 ^ 21) = some mod3 ∧ mod3.kind ≠ 1 ∧ ∀ p ∈ pagesOf mod3.base mod3.bytes, (tag (tk s) p).res = .resident)
    ∧ (∀ t ∈ [tag5 .resident true, tag5 .absent, tag5 .resident], let s := post 0x46 [5, 3 * 2 ^ 21] (ctx5 [mig3] t)
       rt 7 s = true ∧ ((regionList (tk s) 5).find? fun r => r.kind == 2 && !r.flags.testBit 0 && within (3 * 2 ^ 21) 1 r.base r.bytes) = some mig3
         ∧ tag (tk s) (pageOf (3 * 2 ^ 21)) = t ∧ entryOf (tk s) 3 = none ∧ 3 ∉ pagesInUse (tk s) (fun _ => true)
         ∧ ringBusy (tk s) 3 = false)
    ∧ (let s := setEntry 0 (some moved3) (ctx5 [mig3] (tag5 .migrating))
       coEntry s 0 = some moved3 ∧ moved3.evict = false ∧ moved3.begun = true ∧ 2 ^ 21 ≤ moved3.moved)
    ∧ (let s := setEntry 0 (some { moved3 with moved := 64 }) (ctx5 [mig3] (tag5 .migrating))
       coEntry s 0 = some { moved3 with moved := 64 })
    ∧ ready.rgn.decay ≠ 0 := by decide +kernel

/-- EVICT takes a free entry where one is there. -/
theorem witness_freeEntry : ∃ e, freeEntry (tk (post 0x46 [5, 3 * 2 ^ 21] (ctx5 [mig3] (tag5 .resident)))) = some e :=
  ⟨_, List.getElem?_eq_getElem (Nat.mod_lt _ (by decide +kernel))⟩

/-! ### The mainland's harts and the Sound ring -/

/-- A ready module with a line in hart 3's cache. -/
def held (x : CLine) : State := setCline 3 0x40 x ready
/-- A line of context 0 in a state. -/
def inSt (c : CState) : CLine := { st := c, bytes := line64 }

/-- Addresses of every part of Table 10.3: register space, the host window with a region that permits the access and without, while
ports may come and after all are lost, and an address that is neither; a hart with an access that waits; a hart's context write needs
no more. -/
theorem witness_CoreAccesses :
    (ready.pwr.good = true ∧ 7 ≤ ready.hbr.stage ∧ hartStalled ready 3 = false ∧ (hartOf ready 3).io = [])
    ∧ ((0xF00000000000 : Nat) ≤ 0xF00000000008 ∧ (0xF00000000008 : Nat) < 0x1000000000000 ∧ (0xF00000000008 : Nat) % 8 = 0)
    ∧ (isHost 0x100000000000 = true ∧ isHost 0x1FFFFFFFFFF8 = true ∧ isHost 0x200000000000 = false)
    ∧ (let s := { ready with rgn := { ready.rgn with lists := [(0, [⟨0x100000000000, 2 ^ 21, 1, 3, 0, 0, 0⟩])] } }
       let t := setPort 3 { phase := .lost } s
       regionOk s (hartOf s 3).ctx.toNat 0x100000000000 8 false = true ∧ regionOk s (hartOf s 3).ctx.toNat 0x100000000000 8 true = true
         ∧ allLost s = false ∧ allLost t = true ∧ regionOk t (hartOf t 3).ctx.toNat 0x100000000000 8 false = true
         ∧ hartStalled t 3 = false ∧ (hartOf t 3).io = [])
    ∧ regionOk ready (hartOf ready 3).ctx.toNat 0x100000000000 8 false = false
    ∧ (let s := { ready with zng := { ready.zng with queued := [{ write := false, off := 0, len := 8, use := .hart 3 0 0x100000000000 0 }] } }
       hartStalled s 3 = true)
    ∧ ((0xA0000000000 : Nat) ≤ 0xA0000000000 ∧ isHost 0xA0000000000 = false) := by decide +kernel

/-- R283, R288: an access to the host window without a region faults with its virtual address; behind one that waits, the next waits. -/
theorem test_hart_window :
    (hartOf (after1 (.hostWindowAccess 3 0x100000000000 8 0x7000 none) ready) 3).tval = 0x7000
      ∧ (hartOf (after1 (.hostWindowAccess 3 0x100000000000 8 0x7000 none) ready) 3).faultKind = 5 := by decide +kernel

/-- Lines held in each stable state, with and without poison; lines not held, with room for a request and without; a line of another
context; and a set with room. -/
theorem witness_CoreHitsAndMisses :
    (∀ st ∈ [CState.s, .e, .o, .m], ∀ p ∈ [true, false], let s := held { inSt st with poison := p }
      let x := cline s 3 (0x1000 / 64)
      s.pwr.good = true ∧ 7 ≤ s.hbr.stage ∧ x.chk = false ∧ x.cbo = none ∧ x.ctx = (hartOf s 3).ctx.toNat ∧ x.st = st
        ∧ x.poison = p ∧ x.written < 2 ^ 64 ∧ reqRoom s 3 = true)
    ∧ (let x := cline ready 3 (0x1000 / 64)
       x.st = .i ∧ x.chk = false ∧ x.cbo = none ∧ (l2Ways ready 3 (0x1000 / 64)).length < 16 ∧ reqRoom ready 3 = true)
    ∧ (let s := { ready with snd := { ready.snd with lines := (List.range 48).map fun k =>
         (clKey 3 (0x1000 + k), { st := .isu, req := some { kind := .rds, line := 0x1000 + k, agent := 3 } }) } }
       let x := cline s 3 (0x1000 / 64)
       x.st = .i ∧ x.chk = false ∧ x.cbo = none ∧ (l2Ways s 3 (0x1000 / 64)).length < 16 ∧ reqRoom s 3 = false)
    ∧ (let s := held { inSt .s with ctx := 9 }
       let x := cline s 3 (0x1000 / 64)
       x.st ∈ [CState.s, .e, .o, .m] ∧ x.ctx ≠ (hartOf s 3).ctx.toNat ∧ x.chk = false ∧ x.cbo = none ∧ reqRoom s 3 = true) := by
  decide +kernel

/-- A transaction open on line 0x40. -/
def txn40 : HTxn := { num := 7, req := { kind := .rds, line := 0x40, agent := 3 }, left := [2], start := 0 }
/-- A request for line 0x40 from another agent. -/
def req40 : RMsg := { kind := .rds, line := 0x40, agent := 40 }
/-- A ready module with an open transaction. -/
def open40 (mode : Bool) : State := { ready with snd := { mode := mode, txns := [txn40] } }

/-- Requests of a line with an open transaction in each mode, of one reserved for another, of one that is free, and of a denied page; one
whose turn has not come, and one at a home with a full conflict queue. -/
theorem witness_RingRequests :
    (openTxn (open40 false) 0x40 = some txn40 ∧ (open40 false).snd.mode = false ∧ req40.parity = true ∧ req40.line < 2 ^ 42)
    ∧ ((open40 true).snd.mode = true ∧ (openTxn (open40 true) 0x40).isSome = true
       ∧ ((open40 true).snd.conflict.filter fun w => homeStop (open40 true).cfg w.line == homeStop (open40 true).cfg 0x40).length < 1024)
    ∧ (let s := { ready with snd := { reserved := [⟨0x40, 3, 100⟩] } }
       openTxn s 0x40 = none ∧ reservedFor s 0x40 40 = true)
    ∧ (openTxn ready 0x40 = none ∧ reservedFor ready 0x40 40 = false ∧ backed ready.cfg (0x40 * 64) = true
       ∧ pageCheck ready 0 (pageOf (0x40 * 64)) false = .served ∧ pageCheck ready 0 (pageOf (0x40 * 64)) true = .served
       ∧ filterRoom ready 0x40 = true ∧ ready.snd.conflict = [])
    ∧ (let s := { ready with rgn := { ready.rgn with tags := [(0, { res := .resident })] } }
       openTxn s 0x40 = none ∧ reservedFor s 0x40 40 = false ∧ pageCheck s 0 (pageOf (0x40 * 64)) false = .served
         ∧ prefetchPage s 0 (0x40 * 64) = true ∧ prefetchPage s 9 (0x40 * 64) = false ∧ prefetchPage ready 0 (0x40 * 64) = false)
    ∧ pageCheck ready 9 (pageOf (0x40 * 64)) (reqWrites req40) = .denied
    ∧ (firstOnWay ready req40 = true ∧ firstOnWay (open40 false) req40 = true ∧ firstOnWay (open40 true) req40 = true
       ∧ conflictFull (open40 true) 0x40 = false)
    ∧ (let s := { ready with snd := { ready.snd with flight := [{ req40 with txn := 1 }, req40] } }
       firstOnWay s req40 = false)
    ∧ (let s := { open40 true with snd := { (open40 true).snd with conflict := List.replicate 1024 req40 } }
       s.snd.mode = true ∧ conflictFull s 0x40 = true) := by decide +kernel

/-- A snoop at a stop that holds nothing and at one whose one agent holds the line in each stable state; a backoff, a reservation, an
open transaction, and SND_LOCK in its stage. -/
theorem witness_RingSnoopsAndTimers :
    (stopOf 193 ≠ 0 ∧ agentsAt ready 0 0x40 = [] ∧ firstOnWay ready { kind := .snps, line := 0x40, agent := 193 } = true)
    ∧ (∀ st ∈ [CState.s, .e, .o, .m], agentsAt (held (inSt st)) (stopOf 3) 0x40 = [3] ∧ (cline (held (inSt st)) 3 0x40).st = st
       ∧ stopOf 193 ≠ stopOf 3)
    ∧ (let s := held { st := .isu, backoff := some 32, req := some req40, tries := 8 }
       (cline s 3 0x40).backoff = some 32 ∧ (cline s 3 0x40).req = some req40)
    ∧ (let s := { ready with snd := { reserved := [⟨0x40, 3, 100⟩] } }
       (s.snd.reserved.find? fun r => r.line == 0x40) = some ⟨0x40, 3, 100⟩)
    ∧ ((open40 false).snd.txns.find? fun t => t.num == 7) = some txn40
    ∧ (let s := { ready with mode := .train, hbr := { ready.hbr with stage := 5 } }
       inStage s 5 = true ∧ s.snd.lock = false)
    ∧ (let s := { ready with snd := { lock := true } }
       inStage s 5 = false ∧ s.snd.lock = true) := by decide +kernel

/-- Lines that wait for a grant, data, a denial, a victim; transactions that wait for a snoop response, a victim's line, an
acknowledgement, and device data. -/
theorem witness_RingAnswers :
    (∀ st ∈ [CState.isu, .imu, .smu, .omu, .iso, .imo, .wb, .wbn], let s := held (inSt st)
      let y := cline s 3 0x40
      y.st = st ∧ y.cbo = none ∧ y.chk = false ∧ (∀ p ∈ s.snd.lines, p.2.waiting = [])
        ∧ ∀ k ∈ [RKind.gnt, .data, .nack, .snpv], firstOnWay s { kind := k, line := 0x40, agent := 3 } = true)
    ∧ (let y := cline (held { inSt .s with chk := true }) 3 0x40
       y.cbo = none ∧ y.chk = true)
    ∧ (let y := cline (held { inSt .s with cbo := some .flush }) 3 0x40
       y.cbo.isSome = true)
    ∧ (∀ k ∈ [RKind.srsp, .wcan, .wdata, .cack, .udata], firstOnWay (open40 false) { kind := k, line := 0x40, agent := 3, txn := 7, stop := 2 } = true)
    ∧ ((open40 false).snd.txns.find? fun u => u.num == 7 && u.req.line == 0x40) = some txn40 ∧ 2 ∈ txn40.left
      ∧ (txn40.owner && false) = false
    ∧ (let t := { txn40 with req := { kind := .vic, line := 0x40, agent := 3 } }
       let s := { ready with snd := { txns := [t] } }
       t.req.kind = .vic ∧ filterRoom s 0x40 = true ∧ (sliceWays s 0x40).length < 12 ∧ (s.snd.txns.find? fun u => u.num == 7 && u.req.line == 0x40) = some t)
    ∧ (let t := { txn40 with waitCack := true, waitData := true }
       let s := { ready with snd := { txns := [t] } }
       t.waitCack = true ∧ t.waitData = true ∧ (s.snd.txns.find? fun u => u.num == 7 && u.req.line == 0x40) = some t) := by
  decide +kernel

/-- R310: a store to an E line makes it M with the byte written. -/
theorem test_store_hit :
    let t := after1 (.store 3 0x1002 [0xAB] .store 0 none) (held (inSt .e))
    (cline t 3 0x40).st = .m ∧ (cline t 3 0x40).bytes[2]? = some 0xAB ∧ (cline t 3 0x40).bytes[3]? = some 3 := by decide +kernel

/-! ### Mailboxes -/

/-- A mailbox posted whose opcode is not listed, one that may be taken and fails a check, one that passes them all, one on the window
path whose payload must be fetched, by a port and with every port lost, and one whose fetch has ended, poisoned, with arguments that
fail, and in a class that is busy. -/
theorem witness_MailboxChecks :
    (let s := post 0x01 [0] ready
     mbCmd (.getInfo 9) = some (0x01, 9) ∧ mbReady 9 s = true ∧ mbOp (mbOf s 9) = 0x01 ∧ (mbOf s 9).state = .posted
       ∧ mbReady 8 s = false)
    ∧ (let s := post 0x21 [0, 0] { ready with mode := .halted }
       mbReady 9 s = true ∧ firstChecks s 9 = some stState)
    ∧ (let s := post 0x01 [3] ready
       mbReady 9 s = true ∧ firstChecks s 9 = none ∧ argsOk s.cfg 0x01 9 (mbOf s 9) = false)
    ∧ (let s := post 0x61 [] { ready with hbr := { ready.hbr with mbs := [(10, { state := .running, bytes := (req 0x60 [] []).bytes, wait := .pair 1 0 0 0 })] } }
       let t := setMb 10 { state := .running, bytes := (req 0x60 [] []).bytes, wait := .pair 1 0 0 0 } s
       mbReady 9 t = true ∧ firstChecks t 9 = none ∧ argsOk t.cfg 0x61 9 (mbOf t 9) = true ∧ classBusy t 0x61 9 = true)
    ∧ (let x := mbOf (postP 0x23 [5, 0, 0, 0, 0, 0x10000 * 4096] (List.replicate 64 1) ready) 9
       let s := setMb 1 x { ready with hbr := { ready.hbr with last := 0 }, ttu := { func := .running } }
       let t := setPort 1 { phase := .lost } s
       mbReady 1 s = true ∧ (mbOf s 1).state = .posted ∧ firstChecks s 1 = none ∧ takesPayload 0x23 = true ∧ mbPayLen (mbOf s 1) = 64
         ∧ allLost s = false ∧ mbReady 1 t = true ∧ firstChecks t 1 = none ∧ allLost t = true)
    ∧ (let x := { mbOf (post 0x01 [0] ready) 9 with state := .running, wait := .fetched, bad := true }
       let s := setMb 9 x ready
       mbReady 9 s = true ∧ mbOp x = 0x01)
    ∧ (let x := { mbOf (post 0x01 [3] ready) 9 with state := .running, wait := .fetched }
       mbReady 9 (setMb 9 x ready) = true ∧ x.bad = false ∧ argsOk ready.cfg 0x01 9 x = false)
    ∧ (let x := { mbOf (post 0x61 [] ready) 9 with state := .running, wait := .fetched, busy := true }
       let s := setMb 9 x ready
       mbReady 9 s = true ∧ x.bad = false ∧ argsOk s.cfg 0x61 9 x = true ∧ x.busy = true)
    ∧ (let s := post 0x0F [] ready
       mbReady 9 s = true ∧ cmdClass (mbOp (mbOf s 9)) = none)
    ∧ ready.rgn.job = none := by decide +kernel

/-- A mailbox in each state whose path is open, a path that is not, a target with and without an address; commands that run, with a
time limit and without, and a region command on RGN_CMD. -/
theorem witness_MailboxDoorbellsAndTimeouts :
    (boxOpen ready 9 = true ∧ (mbOf ready 9).state = .idle ∧ boxOpen ready 8 = true ∧ ready.hbr.i3cAddr = none)
    ∧ boxOpen { ready with hbr := { ready.hbr with stage := 5 } } 9 = false
    ∧ (let s := setMb 8 { state := .done } ready
       (mbOf s 8).state = .done ∧ boxOpen s 8 = true)
    ∧ (let s := setMb 8 { state := .posted } ready
       (mbOf s 8).state = .posted ∧ boxOpen s 8 = true)
    ∧ (let s := setMb 9 { mbOf (post 0x60 [1, 0, 2, 3] ready) 9 with state := .running, wait := .pair 1 0 2 3 } ready
       (mbOf s 9).state = .running ∧ (timeLimit (mbOf s 9)).isSome = true ∧ s.rgn.job = none)
    ∧ (let s := post 0x60 [1, 0, 2, 3] ready
       (mbOf s 9).state = .posted ∧ (timeLimit (mbOf s 9)).isSome = true ∧ s.rgn.job = none)
    ∧ (Memory.wf (mbOf (post 0x60 [1, 0, 2, 3] ready) 9).bytes = true ∧ Memory.wf (mbOf ready 8).bytes = true)
    ∧ ({ ready with hbr := { ready.hbr with i3cAddr := some 9 } }.hbr.i3cAddr = some 9)
    ∧ timeLimit (mbOf ready 9) = none
    ∧ (let s := { ready with rgn := { ready.rgn with job := some ⟨.register, 5, 5, 0, 0⟩ } }
       s.rgn.job = some ⟨.register, 5, 5, 0, 0⟩ ∧ (⟨.register, 5, 5, 0, 0⟩ : RgnJob).op ≠ 7) := by decide +kernel

/-! ### The Harbour controller's commands -/

/-- GET_INFO of each page, GET_STATE, GET_CERT, REC_READ, HEALTH_CONFIG; ATTEST without an identity, at offset 0 and at another. -/
theorem witness_InformationAndAttestation :
    taken 0x01 (post 0x01 [0] ready) = true ∧ taken 0x01 (post 0x01 [1] ready) = true ∧ taken 0x01 (post 0x01 [2] ready) = true
    ∧ taken 0x02 (post 0x02 [] ready) = true ∧ taken 0x79 (post 0x79 [0] ready) = true ∧ taken 0x70 (post 0x70 [0, 1] ready) = true
    ∧ taken 0x64 (post 0x64 [0x80, 0, 0xA8] ready) = true
    ∧ (let s := postP 0x78 [0] (List.replicate 64 1) ready
       taken 0x78 s = true ∧ (tk s).sec.identity = false)
    ∧ (let s := post 0x78 [1984] { ready with sec := { identity := true } }
       taken 0x78 s = true ∧ (tk s).sec.identity = true)
    ∧ (let s := postP 0x78 [0] (List.replicate 64 1) { ready with sec := { identity := true } }
       taken 0x78 s = true ∧ (tk s).ttu.slotA.image = none ∧ (tk s).ttu.slotB.image = none) := by decide +kernel

/-- TRAIN with the configuration window open. -/
def windowed : State := { ready with mode := .train, hbr := { ready.hbr with stage := 4, window := true } }

/-- CONFIG_SET and CONFIG_DONE in the window, FW_WRITE, FW_COMMIT of an image that a check refuses and one whose write has begun, and a
counter to be raised. -/
theorem witness_ConfigurationAndFirmware :
    taken 0x03 (post 0x03 [1, 1, 1] windowed) = true ∧ (tk (post 0x03 [1, 1, 1] windowed)).hbr.window = true
    ∧ taken 0x04 (post 0x04 [] windowed) = true
    ∧ taken 0x7A (postP 0x7A [0] (List.replicate 64 1) ready) = true
    ∧ (let s := post 0x7B [1] ready
       taken 0x7B s = true ∧ (imageFail (tk s) 1 (tk s).flash.staging).isSome = true)
    ∧ (let x := { mbOf (post 0x7B [1] ready) 9 with state := .running, wait := .commit }
       let s := setMb 9 x ready
       mbReady 9 s = true ∧ mbOp x = 0x7B ∧ argsOk s.cfg 0x7B 9 x = true ∧ x.busy = false ∧ x.bad = false)
    ∧ (let s := { ready with sec := { ready.sec with svn := [(1, 3)] } }
       s.hbr.stage = 8 ∧ look 0 s.flash.rollback 1 < min 255 (look 0 s.sec.svn 1)) := by decide +kernel

/-- SHUTDOWN, RESET, starts and stops in each state of a function, and functions on their way. -/
theorem witness_Functions :
    taken 0x05 (post 0x05 [] ready) = true ∧ taken 0x06 (post 0x06 [0x5A5AA5A5] ready) = true
    ∧ (∀ p ∈ [(FuncState.running, 1), (.starting, 1), (.stopping, 1), (.stopped, 1)],
        let s := post 0x10 [p.2] (setFunc 1 p.1 ready)
        taken 0x10 s = true ∧ funcOf (tk s) 1 = p.1)
    ∧ (let s := post 0x10 [8] ready
       taken 0x10 s = true ∧ funcOf (tk s) 8 = .stopped)
    ∧ (let s := post 0x11 [2] (setFunc 2 .running { ready with ttu := { func := .running } })
       taken 0x11 s = true ∧ (tk s).ttu.func ≠ .stopped)
    ∧ (∀ f ∈ [FuncState.running, .starting, .stopping, .stopped], let s := post 0x11 [2] (setFunc 2 f ready)
       taken 0x11 s = true ∧ (tk s).ttu.func = .stopped ∧ funcOf (tk s) 2 = f)
    ∧ (let s := post 0x11 [0] { ready with ttu := { func := .running } }
       taken 0x11 s = true ∧ (tk s).ttu.func ≠ .stopped)
    ∧ (let s := post 0x11 [3] (setFunc 3 .running ready)
       taken 0x11 s = true ∧ funcOf (tk s) 3 = .running)
    ∧ (let s := post 0x11 [8] (setFunc 8 .running ready)
       taken 0x11 s = true ∧ funcOf (tk s) 8 = .running)
    ∧ (∀ f ∈ [1, 2, 3], funcOf (setFunc f .starting ready) f = .starting ∧ funcOf (setFunc f .stopping ready) f = .stopping)
    ∧ (funcOf (setFunc 9 .stopping ready) (8 + 1) = .stopping ∧ portCarries (setFunc 9 .stopping ready) 1 = false)
    ∧ (let s := setFunc 9 .stopping (setPort 1 { phase := .active } ready)
       funcOf s (8 + 1) = .stopping ∧ portCarries s 1 = true)
    ∧ (let s := post 0x11 [3] (setFunc 3 .starting ready)
       taken 0x11 s = true ∧ funcOf (tk s) 3 = .starting)
    ∧ (let s := { ready with hbr := { ready.hbr with pwrStop := true } }
       s.mode ≠ .halted ∧ s.hbr.pwrStop = true ∧ ∀ f ∈ functionIds, funcOf s f = .stopped)
    ∧ (let s := { ready with mode := .securing, hlt := { ready.hlt with emergency := true } }
       s.mode = .securing ∧ s.hlt.emergency = true ∧ s.hlt.securing = none ∧ s.ttu.func = .stopped ∧ s.hbr.pwrStop = false) := by
  decide +kernel

/-- A module with one host region, over the first 16 MiB of the window, and one placement handle. -/
def hosted : State :=
  { ready with zng := { ready.zng with hosts := [(0, some (0, 2 ^ 24))], handles := [(0, some ⟨5, 3 * 2 ^ 21, 2 ^ 21⟩)] } }
/-- A pinned PLACE region of page 3. -/
def place3 : RegionD := { mod3 with flags := 5 }

/-- HOST_REGISTER of a run that overlaps and of one that does not; HOST_RELEASE, PLACE_REGISTER of a region with PLACE and without,
PLACE_RELEASE, QUEUE_CONFIG of both queue kinds, MARGIN. -/
theorem witness_RegistrationCommands :
    (let s := post 0x49 [2 ^ 21, 2 ^ 21] hosted
     taken 0x49 s = true ∧ ∃ h ∈ hostRegions (tk s), overlaps (2 ^ 21) (2 ^ 21) h.1 h.2 = true)
    ∧ (let s := post 0x49 [2 ^ 24, 2 ^ 21] hosted
       taken 0x49 s = true ∧ (∀ h ∈ hostRegions (tk s), overlaps (2 ^ 24) (2 ^ 21) h.1 h.2 = false) ∧ look none (tk s).zng.hosts 63 = none)
    ∧ (let s := post 0x49 [2 ^ 24, 2 ^ 21] { hosted with zng := { hosted.zng with
         hosts := (List.range 64).map fun k => (k, some ((k + 20) * 2 ^ 21, 2 ^ 21)) } }
       taken 0x49 s = true ∧ (∀ h ∈ hostRegions (tk s), overlaps (2 ^ 24) (2 ^ 21) h.1 h.2 = false)
         ∧ ∀ k < 64, look none (tk s).zng.hosts k ≠ none)
    ∧ (let s := post 0x4A [0] hosted
       taken 0x4A s = true ∧ look none (tk s).zng.hosts 0 = some (0, 2 ^ 24))
    ∧ (let s := post 0x4B [5, 3 * 2 ^ 21, 0] (ctx5 [place3] (tag5 .resident))
       taken 0x4B s = true ∧ regionAt (tk s) 5 (3 * 2 ^ 21) = some place3 ∧ place3.flags.testBit 2 = true ∧ look none (tk s).zng.handles 0 = none)
    ∧ (let s := post 0x4B [5, 3 * 2 ^ 21, 0] (ctx5 [mod3] (tag5 .resident))
       taken 0x4B s = true ∧ regionAt (tk s) 5 (3 * 2 ^ 21) = some mod3 ∧ mod3.flags.testBit 2 = false)
    ∧ taken 0x4C (post 0x4C [0] hosted) = true ∧ taken 0x4C (post 0x4C [1] hosted) = true
    ∧ (let s := post 0x4D [0, 0, 0] hosted
       taken 0x4D s = true ∧ inHostRegion (tk s) (hostBase + 0) (2 ^ 17) = true ∧ (winQ (tk s) 0 0).head = (winQ (tk s) 0 0).tail)
    ∧ (let s := post 0x4D [0, 0, 2 ^ 24] hosted
       taken 0x4D s = true ∧ inHostRegion (tk s) (hostBase + 2 ^ 24) (2 ^ 17) = false)
    ∧ (let s := post 0x4D [256, 5, 0] hosted
       taken 0x4D s = true ∧ inHostRegion (tk s) (hostBase + 0) 4096 = true ∧ (winQ (tk s) 0 1).head = (winQ (tk s) 0 1).tail)
    ∧ (let s := post 0x4D [256, 5, 2 ^ 24] hosted
       taken 0x4D s = true ∧ inHostRegion (tk s) (hostBase + 2 ^ 24) 4096 = false)
    ∧ (let s := post 0x4D [256, 5, 0] (setWinQ 0 1 { tail := 1 } hosted)
       taken 0x4D s = true ∧ inHostRegion (tk s) (hostBase + 0) 4096 = true ∧ (winQ (tk s) 0 1).head ≠ (winQ (tk s) 0 1).tail)
    ∧ (let s := post 0x50 [1, 0, 0] ready
       taken 0x50 s = true ∧ spareTaken (tk s) 1 0 = false) := by decide +kernel

/-- The first argument of GROUP_FORM: a group of 2 with a rank and a lead. -/
def form2 (rank ld : Nat) : Nat := 1 * 2 ^ 16 + rank * 2 ^ 32 + ld * 2 ^ 48

/-- The group commands in each role, with a window that is and is not allowed, and a period in and out of range. -/
theorem witness_GroupCommands :
    (taken 0x30 (post 0x30 [form2 0 0, 1, 8000] lead) = true ∧ (tk (post 0x30 [form2 0 0, 1, 8000] lead)).xng.role ≠ .solo)
    ∧ taken 0x30 (post 0x30 [form2 2 0, 1, 0] ready) = true
    ∧ (let s := post 0x30 [form2 0 0, 1, 0] ready
       taken 0x30 s = true ∧ windowFits 0 0 (tk s).xng.current.toNat 2 = false)
    ∧ (let s := post 0x30 [form2 0 0, 1, 8000] ready
       taken 0x30 s = true ∧ windowFits 8000 0 (tk s).xng.current.toNat 2 = true)
    ∧ taken 0x30 (post 0x30 [form2 1 0, 1, 0] ready) = true
    ∧ (let s := post 0x30 [1023 * 2 ^ 16, 1, 8000] ready
       taken 0x30 s = true ∧ (tk s).xng.current.toNat < 200000 ∧ windowFits 8000 0 (tk s).xng.current.toNat 1024 = true)
    ∧ taken 0x31 (post 0x31 [2 ^ 32, 1] ready) = true ∧ taken 0x31 (post 0x31 [2 ^ 32, 1] lead) = true
    ∧ taken 0x32 (post 0x32 [1, 7] lead) = true ∧ taken 0x32 (post 0x32 [1, 7] ready) = true
    ∧ taken 0x33 (post 0x33 [] ready) = true ∧ taken 0x33 (post 0x33 [] lead) = true ∧ taken 0x33 (post 0x33 [] (role .member)) = true
    ∧ (let s := post 0x34 [8000] lead
       taken 0x34 s = true ∧ windowOk 8000 (tk s).xng.rttMax.toNat (tk s).xng.current.toNat 2 = true)
    ∧ (let s := post 0x34 [0] lead
       taken 0x34 s = true ∧ windowOk 0 (tk s).xng.rttMax.toNat (tk s).xng.current.toNat 2 = false)
    ∧ taken 0x34 (post 0x34 [0] ready) = true
    ∧ taken 0x25 (post 0x25 [8000, 2] (role .member)) = true
    ∧ (taken 0x25 (post 0x25 [8000, 2] ready) = true ∧ taken 0x25 (post 0x25 [7999, 2] ready) = true)
    ∧ (let s := post 0x25 [40000000, 8] { lead with xng := { lead.xng with window := 8000 } }
       taken 0x25 s = true ∧ windowOk 8000 (tk s).xng.rttMax.toNat 40000000 2 = true) := by decide +kernel

/-! ### Bring-up and power -/

/-- Bring-up at a stage, in TRAIN. -/
def train (k : Nat) : State := { State.reset with mode := .train, hbr := { stage := k } }
/-- Every port is ACTIVE. -/
def allUp (s : State) : State := (List.range 8).foldl (fun s p => setPort p { portOf s p with phase := .active, present := true } s) s
/-- A mainland bank with an empty body, whose header holds the digest of one. -/
def bank0 : SMap Byte := setBytes [] 64 (sha3 [])

/-- Stage 0 with an image that passed and without, stage 1; stages 2 and 3 in their conditions, 4 with the window open; stage 6 with a body
that matches and without, stage 7, and stages over their limit. -/
theorem witness_BringUpStages :
    (let s := { State.reset with sec := { bank := [(1, some false)] } }
     s.mode = .boot ∧ s.pwr.good = true ∧ s.hbr.stage = 0 ∧ runningBank (bootCheck s) 1 = some false)
    ∧ runningBank (bootCheck State.reset) 1 = none
    ∧ (let s := { allUp (train 2) with sec := { bank := [(2, some true)] } }
       s.mode = .train ∧ s.hbr.pwrStop = false ∧ s.hbr.stage = 2 ∧ portsTrained s = true ∧ runningBank s 2 = some true
         ∧ s.hbr.lpddr = false ∧ retiresAt s [] [] = [])
    ∧ portsTrained (train 2) = false
    ∧ (let s := allUp (train 2)
       let t := { s with mem := { s.mem with straitSpared := [33] } }
       portsTrained t = true ∧ spareUser t 32 = some 33 ∧ 33 ≠ 32 ∧ spareUser s 32 = none)
    ∧ (let s := allUp (train 2)
       portsTrained s = true ∧ runningBank s 2 = none ∧ s.mode = .train ∧ s.hbr.pwrStop = false)
    ∧ ((train 3).mode = .train ∧ retiresAt (train 3) [0] [] = [0] ∧ (chan (train 3) 0).state = .active
       ∧ (spareChan (train 3) 0).isSome = true ∧ (retireChan 0 (train 3)).mode = .train)
    ∧ (let s := { train 3 with mem := { (train 3).mem with
         chans := (List.range 128).map fun p => (p, { chan (train 3) p with state := if p = 0 then .active else .retired }) } }
       retiresAt s [0] [] = [0] ∧ (retireChan 0 s).mode ≠ .train)
    ∧ (State.reset.zng.portEn.getLsbD 0 = true ∧ { State.reset with mode := .boot, hbr := { stage := 1 } }.hbr.stage = 1)
    ∧ (retiresAt (train 3) [2048] [(0, 1, 1, 1, 1)] = [] ∧ retiresAt (train 3) [] [] = [] ∧ windowed.hbr.stage = 4 ∧ windowed.hbr.window = true)
    ∧ (let s := { train 6 with sec := { bank := [(2, some false)] }, flash := { banks := [(4, bank0)] } }
       s.mode = .train ∧ s.hbr.stage = 6 ∧ s.hbr.pwrStop = false ∧ (loadMainland s).2 = true)
    ∧ (loadMainland (train 6)).2 = false
    ∧ ((train 7).mode = .train ∧ (train 7).hbr.stage = 7 ∧ (train 7).pwr.good = true)
    ∧ (ready.mode ≠ .boot ∧ ready.mode ≠ .train) := by decide +kernel

/-- An event without detail, and its record. -/
def rec1 : Record := ⟨⟨0x0601, 3, zeros 20, 0, false, 0, 1, 2⟩, 9, 0, 0⟩
/-- The power state with a change. -/
def pw (p : Power) : State := { State.reset with pwr := p }

/-- The switch closed and open, good and rising at each step, a power-down in progress, one that waits, and a step over its limit. -/
theorem witness_InputSwitch :
    ((pw { closed := false, good := false }).pwr.closed = false)
    ∧ (let s := pw {}
       s.pwr.closed = true ∧ s.pwr.down = false ∧ s.pwr.downWait = false)
    ∧ (let s := pw { good := false, step := 4 }
       s.pwr.closed = true ∧ s.pwr.good = false ∧ s.pwr.step < 5)
    ∧ (let s := pw { good := false, step := 5 }
       s.pwr.closed = true ∧ s.pwr.good = false ∧ s.pwr.step = 5)
    ∧ (let s := pw { down := true, downCause := 7 }
       s.pwr.down = true ∧ s.pwr.downCause.toNat = 7 ∧ 7 < 8)
    ∧ (let s := pw { downWait := true, downCause := 2 }
       s.pwr.down = false ∧ s.pwr.downWait = true ∧ s.pwr.downCause.toNat = 2)
    ∧ (let s := { pw {} with mode := .securing, hlt := { State.reset.hlt with emergency := true } }
       s.mode = .securing ∧ s.hlt.emergency = true ∧ s.pwr.closed = true ∧ s.pwr.down = false ∧ s.pwr.downWait = false)
    ∧ ((pw {}).pwr.good = true ∧ (pw { good := false }).pwr.good = false)
    ∧ ((pw {}).pwr.closed = true ∧ tripFilter 7 ≤ 100 ∧ 99 < tripFilter 7)
    ∧ (let s := { ready with sec := { ready.sec with svn := [(1, 3)] } }
       s.pwr.good = true ∧ fusesDue s 1 = true ∧ fuseGoal s 1 = 3 ∧ fusesDue s 2 = false)
    ∧ (let s := { ready with log := { ready.log with held := false, queue := [rec1] } }
       s.pwr.good = true ∧ s.log.held = false ∧ s.log.queue = rec1 :: []) := by decide +kernel

/-- Samples within and at their limits, a fitted rail and one that is not, and straps that changed. -/
theorem witness_LimitsAndTemperatures :
    (ready.pwr.good = true ∧ ready.cfg = .sk3_4a ∧ 2 ≤ ready.hbr.stage)
    ∧ ((5 : BitVec 12) < ready.pwr.iLimit ∧ (5 : BitVec 16) < ready.pwr.pLimit ∧ ready.pwr.iLimit ≤ ready.pwr.iLimit)
    ∧ (ready.pwr.limI = false ∧ ready.pwr.limT = false ∧ (pw { limT := true }).pwr.limT = true)
    ∧ ((railsFitted ready.cfg).testBit 0 = true ∧ (railsFitted .sk3_2a).testBit 4 = false)
    ∧ (ready.pwr.feedPins ≠ 1 ∧ ready.pwr.feedPins = 0) := by decide +kernel

/-- R449: on the smaller module the two dies that are not fitted (E and W) are not sampled. -/
theorem test_temp_fitted :
    (after1 (.tempSample [1, 2, 900, 3, 900] 0 0) { ready with cfg := .sk3_2a }).pwr.hotDie = 3
      ∧ (after1 (.tempSample [1, 2, 900, 3, 900] 0 0) ready).pwr.hotDie = 2 := by decide +kernel

/-- R449: at 105 °C the die gates, at 103 °C it still does, below it does not. -/
theorem test_temp_gating :
    let t := after1 (.tempSample [0, 1680, 0, 0, 0] 0 0) ready
    t.pwr.limT = true ∧ (after1 (.tempSample [0, 1648, 0, 0, 0] 0 0) t).pwr.limT = true
      ∧ (after1 (.tempSample [0, 1647, 0, 0, 0] 0 0) t).pwr.limT = false := by decide +kernel

/-- Every source clear and asserted, in each mode. -/
theorem witness_PowerWarnings :
    (ready.pwr.good = true ∧ ready.pwr.warnPin = false ∧ ready.pwr.warnUv = false ∧ ready.pwr.leak.getLsbD 1 = false ∧ ready.hlt.emergency = false)
    ∧ ((pw { leak := 2 }).pwr.leak.getLsbD 1 = true)
    ∧ (∃ t, exec (.powerWarning false 10) (role .member) = .next t ∧ t.mode = .securing)
    ∧ (∃ t, exec (.powerWarning false 10) { ready with mode := .halted } = .next t ∧ t.mode = .halted)
    ∧ (∃ t, exec (.powerWarning false 10) (train 3) = .next t ∧ t.mode = .halted) := by
  refine ⟨by decide +kernel, by decide +kernel, ⟨_, rfl, ?_⟩, ⟨_, rfl, ?_⟩, ⟨_, rfl, ?_⟩⟩ <;> decide +kernel

/-! ### The recorder, register space and survival -/

/-- A recorder with one record to write. -/
def queued1 (g : Recorder) : State := { ready with log := { g with held := false, queue := [rec1] } }

/-- A record whose code is new and one whose code has been seen, with a reader and without, a queue that is empty, and one that is held. -/
theorem witness_RecordsWritten :
    (let s := queued1 {}
     s.log.held = false ∧ s.log.refold = false ∧ s.log.queue = [rec1] ∧ s.log.newest = none ∧ s.log.seen.contains rec1.ev.code = false
       ∧ freePermanent s.log = some 0 ∧ s.hbr.reader ≠ .running)
    ∧ (let s := queued1 { seen := [0x0601], permFull := true, sinceDrop := 0 }
       s.log.seen.contains rec1.ev.code = true ∧ s.log.permFull = true ∧ s.log.sinceDrop = 0)
    ∧ (let s := { queued1 {} with hbr := { ready.hbr with reader := .running } }
       let a := s.log.ringBase.toNat * 4096 + 64 * (rec1.seq % 2 ^ 64 % 2 ^ (s.log.ringSize.toNat + 8))
       s.hbr.reader = .running ∧ s.log.queue = [rec1] ∧ backed s.cfg (256 * (a / 256)) = true
         ∧ (chan s (chanOf s (256 * (a / 256)))).state ≠ .lost
         ∧ (look [] s.mem.wc (chanOf s (256 * (a / 256)))).length < 32 ∧ wcEntry s (a / 256) = none)
    ∧ (State.reset.log.held = true ∧ State.reset.pwr.good = true ∧ (pw { good := false }).pwr.good = false) := by decide +kernel

/-- R416: the first record of a code lies in slot 0 of the permanent area, the second of it in slot 1024. -/
theorem test_record_areas :
    (after1 .recordWrite (queued1 {})).log.newestSlot = 0 ∧ (after1 .recordWrite (queued1 { seen := [0x0601] })).log.newestSlot = 1024 := by
  decide +kernel

/-- A powered module and one without power; roles, a locked ring mode, queues enabled and not, a reader stopped and running. -/
theorem witness_RegistersWritten :
    (ready.pwr.good = true ∧ (pw { good := false }).pwr.good = false ∧ ready.xng.role = .solo ∧ lead.xng.role ≠ .solo)
    ∧ ((setFryQ 0 idleQ ready).fry.queues ≠ [] ∧ (fryQ ready 0).enable = false)
    ∧ ({ ready with snd := { lock := true } }.snd.lock = true ∧ ready.snd.lock = false ∧ (0 : Word64).getLsbD 32 = false)
    ∧ (ready.hbr.reader = .stopped ∧ { ready with hbr := { ready.hbr with reader := .running } }.hbr.reader ≠ .stopped) := by decide +kernel

/-- The interval mode at its expiry; SECURE in each of its conditions, RESTORE from the host and from the partner. -/
theorem witness_RiskSecuringRestoring :
    (let s := { ready with hlt := { ready.hlt with mode := true, lastBind := 0 }, ttu := { func := .running }
                           xng := { ready.xng with tick := 0xFFFFFFFF } }
     s.hlt.mode = true ∧ s.ttu.func = .running ∧ s.hlt.expired = false ∧ s.hlt.lastBind + intervalTicks s ≤ s.xng.tick.toNat)
    ∧ ready.hlt.mode = false
    ∧ (let s := post 0x62 [2, 0] ready
       taken 0x62 s = true ∧ (tk s).ttu.func ≠ .running)
    ∧ (let s := post 0x62 [2, 0] { hosted with ttu := { func := .running, noRecovery := true }, mode := .run }
       taken 0x62 s = true ∧ (tk s).ttu.func = .running ∧ (tk s).ttu.noRecovery = true)
    ∧ (let s := post 0x62 [2, 0] { hosted with ttu := { func := .running }, mode := .run }
       taken 0x62 s = true ∧ (tk s).ttu.noRecovery = false)
    ∧ (let s := post 0x62 [1, 0] { ready with ttu := { func := .running }, mode := .run }
       taken 0x62 s = true ∧ (1 : Nat).testBit 0 = true ∧ (tk s).flash.pairing = none)
    ∧ (let s := postP 0x63 [1, 0, 0] (List.replicate 64 1) { hosted with hlt := { hosted.hlt with slotLog2 := 21 } }
       taken 0x63 s = true ∧ inHostRegion (tk s) (hostBase + 0) (2 * 2 ^ (tk s).hlt.slotLog2.toNat) = true)
    ∧ (let s := postP 0x63 [1, 0, 0] (List.replicate 64 1) ready
       taken 0x63 s = true ∧ inHostRegion (tk s) (hostBase + 0) (2 * 2 ^ (tk s).hlt.slotLog2.toNat) = false)
    ∧ (let s := postP 0x63 [0, 0, 0] (List.replicate 64 1) ready
       taken 0x63 s = true ∧ (tk s).flash.pairing = none)
    ∧ (let s := postP 0x63 [0, 0, 0] (List.replicate 64 1) { ready with
         flash := { ready.flash with pairing := some ⟨7, 2, 1, 1, false, 3⟩ }
         zng := { ready.zng with handles := [(4, some ⟨5, 3 * 2 ^ 21, 2 ^ 21⟩)] } }
       taken 0x63 s = true ∧ (tk s).flash.pairing = some ⟨7, 2, 1, 1, false, 3⟩ ∧ (placed (tk s) (1 + 3)).isSome = true) := by decide +kernel

/-- A guest area of four handles of 2 MiB. -/
def guest : State :=
  { ready with
    zng := { ready.zng with feed := 1, handles := (List.range 4).map fun k => (k, some ⟨5, k * 2 ^ 21, 2 ^ 21⟩) }
    hlt := { ready.hlt with slotLog2 := 21 } }
/-- A PAIR that waits in mailbox 9 for the FEED of peer 7. -/
def pairing9 : State := setMb 9 { state := .running, wait := .pair 7 0 0 0 } guest

/-- PAIR with and without its guest area and while a securing writes to the partner, UNPAIR, FEEDs, STANDBY, TAKEOVER of a spare and of
another, and strait lanes with a spare and without. -/
theorem witness_PairingAndSpares :
    (let s := post 0x60 [7, 0, 0, 0] guest
     taken 0x60 s = true ∧ securingPartner (tk s) = false ∧ guestOk (tk s) 0 = true)
    ∧ (let s := post 0x60 [7, 0, 0, 0] ready
       taken 0x60 s = true ∧ guestOk (tk s) 0 = false)
    ∧ (let s := post 0x60 [7, 0, 0, 0] { guest with hlt := { guest.hlt with
         securing := some ⟨0, 0, false, [], [⟨0, false, 1, 1, false, false⟩], 0, 21, 0, []⟩ } }
       taken 0x60 s = true ∧ securingPartner (tk s) = true)
    ∧ taken 0x61 (post 0x61 [] guest) = true
    ∧ ((mbOf pairing9 9).state = .running ∧ (mbOf pairing9 9).wait = .pair 7 0 0 0 ∧ pairing9.zng.feed.toNat = 1
       ∧ ∀ k, k < 16 → k ≠ 9 → (mbOf pairing9 k).state ≠ .running)
    ∧ (let s := setMb 9 { state := .running, wait := .pair 7 1 0 0 } guest
       (mbOf s 9).wait = .pair 7 1 0 0 ∧ s.zng.feed.toNat = 1)
    ∧ (ready.mode ≠ .boot ∧ ready.mode ≠ .train ∧ State.reset.mode = .boot)
    ∧ taken 0x65 (post 0x65 [3] ready) = true ∧ taken 0x65 (post 0x65 [3] lead) = true
    ∧ (let s := post 0x66 [1, 7] ready
       taken 0x66 s = true ∧ (tk s).hlt.standby = none)
    ∧ (let s := post 0x66 [1, 7] { allUp ready with hlt := { ready.hlt with standby := some 3 } }
       taken 0x66 s = true ∧ (tk s).hlt.standby = some 3 ∧ ∃ p < 8, portActive (tk s) p = true)
    ∧ (let s := post 0x66 [1, 7] { ready with hlt := { ready.hlt with standby := some 3 } }
       taken 0x66 s = true ∧ (tk s).hlt.standby = some 3
         ∧ (∀ p < 8, portActive (tk s) p = false ∧ (portOf (tk s) p).keep = false)
         ∧ ∀ k, k < 16 → k ≠ 9 → (mbOf (tk s) k).state ≠ .running)
    ∧ (modeServes ready = true ∧ marginTargetOk ready.cfg 2 33 = true ∧ spareUser ready 33 = none)
    ∧ (let s := { ready with mem := { ready.mem with straitSpared := [33] } }
       spareUser s 32 = some 33 ∧ 33 ≠ 32 ∧ 32 / 32 ∉ s.mem.straitDropped) := by decide +kernel

/-! ### The Zuong ports and their windows -/

/-- A ready module whose port 3 is in a state. -/
def portSt (x : Port) : State := setPort 3 x ready

/-- A port in each phase of its training, with the spare free and taken, with and without an expected peer, and a port that retrains. -/
theorem witness_PortTraining :
    (∀ ph ∈ [PortPhase.detect, .equalise, .align, .linkup, .active, .retrain], (portOf (portSt { phase := ph }) 3).phase = ph)
    ∧ (let x := portOf (portSt { phase := .align }) 3
       (3 : BitVec 5).getLsbD (physLane x 0) = true ∧ (3 : BitVec 5).getLsbD (physLane x 1) = true
         ∧ x.spare = false ∧ (∀ k < 4, physLane x k = k) ∧ ready.mode ≠ .train ∧ x.keep = false ∧ x.attempts < 2)
    ∧ (let s := { portSt { phase := .align } with mode := .train }
       s.mode = .train ∧ (portOf s 3).phase = .align ∧ ∀ e ∈ [((8 : Nat), (8 : Nat), (3 : Nat), (3 : Nat))], 8 ≤ e.1 ∧ 8 ≤ e.2.1 ∧ 3 ≤ e.2.2.1 ∧ 3 ≤ e.2.2.2)
    ∧ (let s := setPort 3 { phase := .active, laneCorr := [(0, 2, 9)] } { ready with zng := { ready.zng with laneCe := 9 } }
       s.zng.laneCe ≠ 0 ∧ s.zng.laneCe.toNat ≤ laneSymbols s 3 2 ∧ (portOf s 3).spare = false)
    ∧ (let x := portOf (portSt { phase := .align, spare := true, attempts := 2 }) 3
       x.spare = true ∧ physLane x 0 < 5 ∧ (∀ k < 4, k ≠ 0 → physLane x k ≠ physLane x 0) ∧ 2 ≤ x.attempts)
    ∧ (expectedPeer (portSt { phase := .linkup }) = none
       ∧ expectedPeer { portSt { phase := .linkup } with zng := { (portSt { phase := .linkup }).zng with peerId := 7, peerSet := true } } = some 7)
    ∧ (let x := portOf (portSt { phase := .retrain, fails := 2, spare := true }) 3
       x.swap = none ∧ selectSpare (1 ||| x.swap.elim 0 fun n => BitVec.ofNat 5 (2 ^ n)) x = none ∧ 2 ≤ x.fails) := by decide +kernel

/-- An empty flit of a TYPE with a SEQ. -/
def flit (typ seq : Nat) : List Byte := flitBytes seq 0 typ (zeros 248)
/-- Port 3 ACTIVE. -/
def active3 : State := portSt { phase := .active, creditReq := 64, creditCtl := 16 }

/-- A DATA flit that is expected, one ahead, one behind and a bad one; an IDLE flit and a NAK; a held NAK; credits, and a transaction that
waits for them. -/
theorem witness_FlitsAndCredits :
    (∀ x ∈ [(1, 1), (1, 2), (1, 0), (0, 0), (2, 0)], (portOf active3 3).phase = .active ∧ flitGood (flit x.1 x.2) 0 = true
       ∧ flitType (flit x.1 x.2) = x.1 ∧ flitSeq (flit x.1 x.2) = x.2)
    ∧ (((portOf (takeAck 3 (flitAck (flit 1 1)) (countFec 3 [] 0 active3)) 3).ack + 1) % 4096 = 1)
    ∧ flitGood (flit 1 1) 1 = false
    ∧ (let x := portOf (portSt { phase := .active, nakAt := some 40 }) 3
       x.nakAt = some 40)
    ∧ (portOf active3 3).nakAt = none
    ∧ (let t : Txn := ⟨0, zeros 64, 5⟩
       starved (portOf (portSt { phase := .active, waiting := [t] }) 3) = some t)
    ∧ starved (portOf active3 3) = none := by decide +kernel

/-- Ports down, lost and ACTIVE, one whose keys another carries, with an access of those keys and without. -/
theorem witness_PortsLost :
    ((portOf active3 3).phase ≠ .down ∧ (portOf ready 3).phase = .down ∧ (portOf (portSt { phase := .lost }) 3).phase = .lost)
    ∧ ready.pwr.good = true
    ∧ (let s := portSt { phase := .active, away := true }
       (portOf s 3).phase = .active ∧ (portOf s 3).away = true ∧ substOf s 3 = 3 ∧ portCarries s 3 = true ∧ s.zng.issued = [])
    ∧ (let r : HostReq := { write := false, off := 3 * 2 ^ 21, len := 64, use := .lane 0, port := 4 }
       let s := setPort 4 { phase := .active } (portSt { phase := .active, away := true })
       let t := { s with zng := { s.zng with issued := [r] } }
       portCarries t 3 = true ∧ keyOf r % 8 = 3 ∧ r.port ≠ 3 ∧ portCarries t r.port = true ∧ substOf t 3 = 4) := by decide +kernel

/-- The slot of a command of queue 2 with a SEQ: an opcode, a tag and three arguments (Table 12.5), with its CRC. -/
def slotOf2 (op seq : Nat) (args : List Nat) : List Byte :=
  let h := toLE 1 op ++ zeros 3 ++ toLE 4 seq ++ (args.flatMap fun a => toLE 8 a) ++ zeros (52 - 8 * args.length)
  h ++ toLE 4 (crc32c h)
/-- Port 3 ACTIVE with window queue 2 configured at a HEAD, a TAIL and a count of invalid reads, and bytes in its window. -/
def window3 (hd tl : BitVec 32) (tries : Nat) (w : SMap Byte) : State :=
  portSt { phase := .active, window := w, queues := [(2, { configured := true, head := hd, tail := tl, tries := tries, context := 0 })] }

/-- A port that carries traffic, a queue with room, its slot valid and not, at each count of reads. -/
theorem witness_WindowWritesAndSlots :
    (portCarries active3 3 = true ∧ (winQ active3 3 2).configured = false)
    ∧ (let s := window3 0 0 0 []
       (winQ s 3 2).configured = true ∧ ((5 : BitVec 32) - (winQ s 3 2).head).toNat ≤ winEntries 2
         ∧ winEntries 2 < ((200 : BitVec 32) - (winQ s 3 2).head).toNat)
    ∧ (∀ n ∈ [0, 1, 8], let s := window3 0 1 n (setBytes [] (slotOff 2 0) (slotOf2 4 0 []))
       let d := getBytes (portOf s 3).window (slotOff 2 0) 64
       mayRead s 3 2 = true ∧ (winQ s 3 2).tries = n ∧ fld d 4 4 = 0 ∧ fld d 60 4 = crc32c (d.take 60))
    ∧ (∀ n ∈ [0, 1, 8], let s := window3 5 6 n []
       let d := getBytes (portOf s 3).window (slotOff 2 5) 64
       mayRead s 3 2 = true ∧ (winQ s 3 2).tries = n ∧ fld d 4 4 ≠ 5) := by decide +kernel

/-- R336, R337: the worked example of port 3 and queue 2: HEAD = TAIL = 499, a doorbell of 501 moves TAIL to 501; slot 115 at 0x5CC0 is
read and HEAD becomes 500; slot 116, which holds SEQ 372, is invalid. -/
theorem test_doorbell :
    let s := window3 499 499 0 (setBytes (setBytes [] 0x5CC0 (slotOf2 4 499 [])) 0x5D00 (slotOf2 4 372 []))
    let t := after1 (.windowDoorbell 3 2 501) s
    let u := after1 (.slotRead 3 2) t
    let v := after1 (.slotRead 3 2) u
    (winQ t 3 2).tail = 501 ∧ (winQ u 3 2).head = 500 ∧ (winQ v 3 2).head = 500 ∧ (winQ v 3 2).tries = 1 := by decide +kernel

/-- A window command of queue 2. -/
def wc (op : Nat) : WinCmd :=
  { seq := 0, op := op, irq := false, fence := false, tag := 0, arg0 := 0x1000, arg1 := 0, arg2 := 64 }
/-- Queue 2 of port 3 with one command, whose context holds module memory and the host window. -/
def commanded (c : WinCmd) (rs : List RegionD) : State :=
  let s := portSt { phase := .active, queues := [(2, { configured := true, head := 1, tail := 1, cmds := [c] })] }
  { s with fry := { func := .running }, rgn := { s.rgn with lists := [(0, rs)] } }
/-- A region of the host window. -/
def hostR : RegionD := ⟨hostBase, 2 ^ 21, 1, 3, 0, 0, 0⟩

/-- PULL and PUSH before they begin, with regions and without, while their access is outstanding and once it has ended; NOP and FLUSH; a
FLUSH that one port and two have left to answer. -/
theorem witness_WindowCommandsAndFlushes :
    (∀ op ∈ [1, 2, 3, 4], let s := commanded (wc op) [home0, hostR]
       winCmd s 3 2 0 = some (wc op) ∧ mayBegin (winQ s 3 2) (wc op) = true ∧ s.fry.func = .running ∧ freeWork s = true
         ∧ mayCheck s (winQ s 3 2).context (workWindow 3 2) = true ∧ (wc op).status = none ∧ (wc op).begun = false
         ∧ (isletOf s 0).state = .active ∧ moveReady s 0 = false)
    ∧ rangesVerdict (commanded (wc 1) [home0, hostR]) 0 [(hostBase + 0, 64, true, false), (0x1000, 64, false, true)] = .ok
    ∧ rangesVerdict (commanded (wc 2) [home0, hostR]) 0 [(0x1000, 64, true, false), (hostBase + 0, 64, false, true)] = .ok
    ∧ rangesVerdict (commanded (wc 1) []) 0 [(hostBase + 0, 64, true, false), (0x1000, 64, false, true)] = .bound
    ∧ (let s := commanded (wc 1) [⟨0, 2 ^ 21, 2, 3, 0, 0, 0⟩, hostR]
       let t := { s with cfg := .sk3_2a, rgn := { s.rgn with tags := [(0, { res := .absent })] } }
       rangesVerdict t 0 [(hostBase + 0, 64, true, false), (0x1000, 64, false, true)] = .fault 0
         ∧ mayCheck t (winQ t 3 2).context (workWindow 3 2) = true)
    ∧ (let c := { wc 1 with begun := true }
       let s := commanded c [home0, hostR]
       let r : HostReq := { write := false, off := 0, len := 64, use := .command 3 2 0 }
       let t := { s with zng := { s.zng with queued := [r] } }
       winCmd t 3 2 0 = some c ∧ c.bytes = 0 ∧ c.aborted = false ∧ openUses t (.command 3 2 0) = true)
    ∧ (let c := { wc 2 with begun := true }
       let s := commanded c [home0, hostR]
       winCmd s 3 2 0 = some c ∧ c.bytes = 0 ∧ c.aborted = false ∧ openUses s (.command 3 2 0) = false
         ∧ (∀ l ∈ linePieces 0x1000 64, pieceReady s (.command 3 2 0) l = true)
         ∧ memWaits s 0x1000 64 = false ∧ memWaits s (hostBase + 0) 64 = false)
    ∧ (let c := { wc 1 with begun := true, aborted := true }
       winCmd (commanded c [home0, hostR]) 3 2 0 = some c ∧ c.begun = true ∧ c.aborted = true)
    ∧ (let c := { wc 1 with begun := true, bytes := 64 }
       let s := commanded c [home0, hostR]
       winCmd s 3 2 0 = some c ∧ openUses s (.command 3 2 0) = false ∧ ferryHeld s 0 = false)
    ∧ (let j : FlushJob := ⟨9, [3], .register, 0⟩
       ({ ready with zng := { ready.zng with flushes := [j] } }.zng.flushes.find? fun k => k.num == 9) = some j ∧ j.by_ = .register)
    ∧ (∃ k ∈ (⟨9, [3, 4], .register, 0⟩ : FlushJob).left, k ≠ 3)
    ∧ ((List.range 8).filter (portActive active3) ≠ [] ∧ (List.range 8).filter (portActive ready) = [])
    ∧ (ready.zng.flBusy = false ∧ { ready with zng := { ready.zng with flBusy := true } }.zng.flBusy = true) := by decide +kernel

/-- Port 3 ACTIVE with placement handle 0 over page 3, owned by context 5. -/
def placing (t : Tag) : State :=
  let s := portSt { phase := .active }
  { s with
    zng := { s.zng with handles := [(0, some ⟨5, 3 * 2 ^ 21, 2 ^ 21⟩)] }
    rgn := { s.rgn with ctxs := [(5, { state := .ready })], lists := [(5, [place3])], tags := [(3, t)] } }
/-- A read of 8 bytes outstanding on port 3 with tag 2, for a use. -/
def readOut (u : HostUse) : State :=
  { active3 with zng := { active3.zng with issued := [{ write := false, off := 0, len := 8, use := u, port := 3, tag := 2 }] } }

/-- A placement that is served, one without a handle and one beyond its region; a read of each kind of requester, a write, a message that
names none. -/
theorem witness_PlacementsAndAccessEnds :
    (let s := placing (tag5 .resident)
     portCarries s 3 = true ∧ look none s.zng.handles 0 = some ⟨5, 3 * 2 ^ 21, 2 ^ 21⟩
       ∧ placeRefused s ⟨5, 3 * 2 ^ 21, 2 ^ 21⟩ 64 4 = none ∧ s.flash.pairing = none ∧ portCarries s 3 = true ∧ look none s.zng.handles 1 = none
       ∧ 2 ^ 21 < (2 ^ 21 - 2) + 4 ∧ memWaits s (3 * 2 ^ 21 + 64) 4 = false)
    ∧ (let s := placing (tag5 .resident)
       let k := chanOf s (3 * 2 ^ 21 + 64)
       let t := setChan k { chan s k with busy := true } s
       portCarries t 3 = true ∧ placeRefused t ⟨5, 3 * 2 ^ 21, 2 ^ 21⟩ 64 4 = none ∧ memWaits t (3 * 2 ^ 21 + 64) 4 = true)
    ∧ (issuedAt active3 3 2 false = none ∧ issuedAt active3 3 2 true = none)
    ∧ (let s := placing (tag5 .resident)
       let t := { s with flash := { s.flash with pairing := some ⟨7, 2, 1, 8, false, 3⟩ } }
       placeRefused t ⟨5, 3 * 2 ^ 21, 2 ^ 21⟩ 64 4 = none ∧ (0 : Nat) ≠ 8 ∧ (0 : Nat) ≠ 8 + 3)
    ∧ placeRefused (placing (tag5 .absent)) ⟨5, 3 * 2 ^ 21, 2 ^ 21⟩ 64 4 = some 3
    ∧ (∀ u ∈ [HostUse.line 7 0x1000, .hart 3 0 0x1000 0], (issuedAt (readOut u) 3 2 false).isSome = true ∧ wholeRead u = true
       ∧ ∀ r ∈ (readOut u).zng.issued, r.got = 0 ∧ r.parts = [] ∧ r.bad = false ∧ 0 + 4 ≤ r.len ∧ r.got + 4 < r.len)
    ∧ (let r : HostReq := { write := true, off := 0, len := 8, use := .response 0 true, port := 3, tag := 2 }
       issuedAt { active3 with zng := { active3.zng with issued := [r] } } 3 2 true = some r) := by decide +kernel

/-- R341: a completion's bytes reach the hart that asked. -/
theorem test_rd_cpl :
    (after1 (.rdCpl 3 2 0 0 [1, 2, 3, 4, 5, 6, 7, 8]) (readOut (.hart 3 0 0x1000 0))).out.head? =
      some (.loaded 3 0x1000 [1, 2, 3, 4, 5, 6, 7, 8]) := by decide +kernel

/-- R341: of a read that comes in two parts the hart gets the whole, in order of address, whichever comes first. -/
theorem test_rd_cpl_parts :
    let t := after1 (.rdCpl 3 2 0 4 [5, 6, 7, 8]) (readOut (.hart 3 0 0x1000 0))
    t.out = (readOut (.hart 3 0 0x1000 0)).out
      ∧ (after1 (.rdCpl 3 2 0 0 [1, 2, 3, 4]) t).out.head? = some (.loaded 3 0x1000 [1, 2, 3, 4, 5, 6, 7, 8]) := by decide +kernel

/-! ### The block -/

/-- The queue is empty after reset, and the invariant's premise holds there. -/
theorem witness_EmptyQueueIdles : State.reset.pending = [] := rfl
/-- A state with a canonical memory from which a step answers. -/
theorem witness_StepKeepsInvariant :
    canonical ready = true ∧ ∃ t, step { ready with pending := [.tick] } = .next t := ⟨by decide +kernel, _, rfl⟩
/-- Words of every format and their instructions. -/
theorem witness_LaneWordsRoundTrip :
    (∀ i ∈ [Instr.laneAdd w0 fr, .laneAddi w0 fi, .laneLui w0 ⟨1, true, 3, 5⟩, .laneBeq w0 ⟨0, 1, 2, 7⟩, .laneJ w0 ⟨0, 9⟩, .laneSel w0 fr 5],
      (laneWord i).isSome = true ∧ laneUnused i = true ∧ (laneWord i).all (fun v => laneOfWord w0 v == some i) = true) := by
  decide +kernel

/-- No command of the table has fields, so no table word spells one. -/
theorem test_table_word : decodeTableWord 8 0 = none ∧ State.reset.withFetchWord 8 0 = State.reset := ⟨rfl, rfl⟩

/-- R17, R47: an empty queue lets one cycle pass. -/
theorem test_idle : (match step ready with | .next t => t.xng.cycle | _ => 0) = 1 := by decide +kernel

/-! ### Values that the spec works out -/

/-- Table 7.2: the mixer's output of zeros. -/
theorem test_mixer : mix 0 0 0 0 0 = 0x11BE895A := by decide +kernel
/-- The worked example after R144: the check bits of word 3, and the syndromes of one and of two flipped bits. -/
theorem test_secded : checkBits 3 = 0x0C ∧ syndrome 2 = 0x0B ∧ syndrome 6 = 0x18 := by decide +kernel
/-- The worked example after R421: 0x0400_1234_5600 lies in slot 22 of home E. -/
theorem test_interleave_e : homeOf 0x040012345600 = 2 ∧ slotOf .sk3_4a 0x040012345600 = 22 := by decide +kernel

/-! ### Well-formed commands -/

/-- Every check of a command's operands refuses an operand beyond its range. -/
theorem test_ill_formed :
    (∀ c ∈ [Instr.stepCompletion (2 ^ 32) 0, .voteSum 65536 0 false 0, .memberJoined 1024, .ttLoad 16, .move (2 ^ 32),
      .storeScrub 1024 0, .storeScrub 0 (2 ^ 17), .isletParity 1024, .fryQtail 256 0, .lncQtail 64 0, .ferryDescriptor 0 1024,
      .copy 0 (2 ^ 32), .ferryCompletion 256, .passCommit (.queue 64), .passCommit (.step 65535), .laneAdd ⟨.step 0, 256⟩ fr,
      .lineRead 65536 0 0, .lineRead 0 0 (2 ^ 48), .lineWrite 0 0 0 [] 0 false, .wcEviction 1280 0, .patrolScrub (2 ^ 40),
      .refresh 1280, .allocCtx (.mailbox 16), .pageMigrated 256, .skctxWrite 128 .m 0, .load 0 0 3 .load 0 none, .store 0 0 [] .store 0 none,
      .cboClean 128 0 0, .rds { kind := .rds, line := 2 ^ 42, agent := 0 }, .rds { kind := .rds, line := 0, agent := 196 },
      .data { kind := .data, line := 0, agent := 0, bytes := [1] }, .requestResend 196 0, .reservationExpiry (2 ^ 42),
      .transactionTimeout 65536, .detect 8, .align 0 0 [(0, 0, 0, 0)], .linkup 0 (2 ^ 32) 0 0 0, .laneCeLimit 0 5,
      .dataFlit 0 [] [] 0, .crd 0 256 0, .winWr 0 (2 ^ 48) [], .windowDoorbell 0 8 0, .pull 0 0 ⟨2 ^ 32, 0⟩, .pull 0 0 ⟨0, 1024⟩, .flushAck 8 0,
      .place 0 65536 0 0 false none [], .rdCpl 0 0 256 0 [], .wrAck 0 65536 0, .feed false (2 ^ 32) 0 0, .linkDown 8,
      .mailboxDoorbell 16, .entdaa 128, .setdasa 128 0, .commandTimeout (.mailbox 16), .getInfo 16, .functionRunning 4,
      .tempSample [] 0 0, .leakDetected 2 0, .hardTrip ⟨2, 0⟩, .regulatorWarning 12 0, .straitTraining [2048], .isletTest [1024],
      .rollbackRaised 3, .bringupFailed 9, .registerWrite (2 ^ 20) 0, .registerWrite 4 0, .warningSourceDeasserted 4 0,
      .straitLaneSpared 2048, .leaveRequestReceived 65536 0, .hostWindowAccess 0 0 8 0 (some []),
      .mmaFull 0 (some ⟨32, 0, 0, 0⟩), .allreduce 0 [(1024, (0, []))], .dissolve 65536, .decision { dec with group := 65536 }],
      c.wf = false)
    ∧ (∀ c ∈ [Instr.tick, .ttLoad 15, .storeScrub 1023 (2 ^ 17 - 1), .lineWrite 0 0 0 line64 0 false, .load 127 0 16 .load 0 none,
      .rds { kind := .rds, line := 2 ^ 42 - 1, agent := 195 }, .detect 7, .functionRunning 15, .hardTrip ⟨7, 0⟩, .registerWrite 8 0,
      .laneAdd ⟨.queue 63, 255⟩ fr, .hostWindowAccess 0 0 8 0 none], c.wf = true) := by decide +kernel

end Sys2Proof.Tests
end

section
/-! What every step keeps: a step is the idle cycle or a command, both of which the `Kept` laws cover, started from a state that
keeps what it holds itself. -/

namespace Sys2Proof.Machine

/-- A canonical state keeps what it holds itself, whatever queue it is given. -/
theorem kept_self_of_canonical {s : State} (hs : canonical s = true) (rest : List Instr) :
    Kept { s with pending := rest } { s with pending := rest } := by
  obtain ⟨hcells, hstore⟩ : Memory.wf s.mem.cells = true ∧ Memory.wf s.isl.store = true := by
    simpa only [canonical, Bool.and_eq_true] using hs
  exact ⟨rfl, rfl, rfl, rfl, fun _ => le_rfl, hcells, hstore⟩

/-- On an empty queue the next state is the idle block's. -/
theorem step_of_empty {s : State} (hq : s.pending = []) : step s = .next (idle s) := by
  simp only [step, hq]

/-- On a queue with a front command the step is that command's, with the queue's rest. -/
theorem step_of_front {s : State} {c : Instr} {rest : List Instr} (hq : s.pending = c :: rest) :
    step s = exec c { s with pending := rest } := by
  simp only [step, hq]

/-- A step from a canonical state keeps what the state held, with the front of the queue taken off. -/
theorem keptNext_step {s : State} (hs : canonical s = true) :
    KeptNext { s with pending := s.pending.tail } (step s) := by
  have hself := kept_self_of_canonical hs s.pending.tail
  cases hq : s.pending with
  | nil =>
    have hidle : { s with pending := [] } = s := by rw [← hq]
    rw [hq, List.tail_nil, hidle] at hself
    rw [step_of_empty hq, List.tail_nil, hidle]
    exact keptNext_next (kept_idle hself)
  | cons c rest =>
    rw [hq, List.tail_cons] at hself
    rw [step_of_front hq, List.tail_cons]
    exact kept_exec c hself

/-- Settles O58: the step is the idle cycle or the front command, and each keeps `Kept` of the state it starts from. -/
theorem stepKeepsInvariant : Obligations.StepKeepsInvariant := by
  unfold Obligations.StepKeepsInvariant
  intro s t hs ht
  obtain ⟨hcfg, hpending, huds, hserial, hrollback, hcells, hstore⟩ := keptNext_step hs t ht
  have hcanonical : canonical t = true := by simp only [canonical, hcells, hstore, Bool.and_self]
  exact ⟨hcanonical, hcfg, hpending, huds, hserial, hrollback⟩

end Sys2Proof.Machine
end

section
/-! Register space as it is written (R13, R14, R375): which registers a write reaches, and what each of them takes of the value. -/

namespace Sys2Proof.Machine

/-! ### The command -/

/-- With power a register write is `writeReg`. -/
theorem exec_registerWrite_powered {s : State} (hp : s.pwr.good = true) (off : Nat) (v : Word64) :
    exec (.registerWrite off v) s = .next (writeReg off v s) :=
  congrArg Host.Outcome.next (if_pos hp)

/-- Without power a register write reaches nothing (R444). -/
theorem exec_registerWrite_unpowered {s : State} (hp : s.pwr.good = false) (off : Nat) (v : Word64) :
    exec (.registerWrite off v) s = .next s :=
  congrArg Host.Outcome.next (if_neg (by rw [hp]; decide))

/-! ### The blocks of register space -/

/-- The FRY_ block of register space. -/
theorem writeReg_fry {o : Nat} (ho : o < 0x10000) (v : Word64) (s : State) :
    writeReg (0x30000 + o) v s = writeFry o v s := by
  have hblock : (0x30000 + o) / 0x10000 = 3 := by omega
  have hoff : (0x30000 + o) % 0x10000 = o := by omega
  simp only [writeReg, hblock, hoff]

/-- The LNC_ block of register space. -/
theorem writeReg_lnc {o : Nat} (ho : o < 0x10000) (v : Word64) (s : State) :
    writeReg (0x40000 + o) v s = writeLnc o v s := by
  have hblock : (0x40000 + o) / 0x10000 = 4 := by omega
  have hoff : (0x40000 + o) % 0x10000 = o := by omega
  simp only [writeReg, hblock, hoff]

/-- XNG_CYCLE, XNG_INDEX, XNG_RING_WP and the SEC_ block are only read (Tables 1.14, 1.15, 1.20, 16.3), and no block lies from
0xE0000 on (Table 13.9): a write there is ignored (R375). -/
theorem writeReg_ignored {off : Nat} (v : Word64) (s : State)
    (h : off = 0x40 ∨ off = 0x48 ∨ off = 0x70 ∨ off = 0xC0000 ∨ off = 0xE0000 ∨ off = 0xFFFF8) :
    writeReg off v s = s := by
  rcases h with rfl | rfl | rfl | rfl | rfl | rfl <;> rfl

/-! ### Single registers -/

/-- QBASE of a ferry queue. -/
theorem writeFry_base {q : Nat} (hq : q < 256) (v : Word64) (s : State) :
    writeFry (0x100 + 32 * q) v s = setFryQ q (writeBase v (fryQ s q)) s := by
  have hin : ¬(0x100 + 32 * q < 0x100 ∨ 0x2100 ≤ 0x100 + 32 * q) := by omega
  have hnum : (0x100 + 32 * q - 0x100) / 0x20 = q := by omega
  have hreg : (0x100 + 32 * q - 0x100) % 0x20 = 0 := by omega
  simp only [writeFry, if_neg hin, hnum, hreg]

/-- QBASE of a launch queue. -/
theorem writeLnc_base {q : Nat} (hq : q < 64) (v : Word64) (s : State) :
    writeLnc (0x100 + 32 * q) v s = setLncQ q (writeBase v (lncQ s q)) s := by
  have htrap : ¬0x100 + 32 * q = 0 := by omega
  have hin : ¬(0x100 + 32 * q < 0x100 ∨ 0x900 ≤ 0x100 + 32 * q) := by omega
  have hnum : (0x100 + 32 * q - 0x100) / 0x20 = q := by omega
  have hreg : (0x100 + 32 * q - 0x100) % 0x20 = 0 := by omega
  simp only [writeLnc, if_neg htrap, if_neg hin, hnum, hreg]

/-- SND_CTRL with LOCK written 0, while the ring is locked: MODE and TIMEOUT are kept (Table 11.6). -/
theorem writeSnd_ctrl_locked {s : State} {v : Word64} (hlock : s.snd.lock = true) (hv : v.getLsbD 32 = false) :
    writeSnd 0 v s = s := by
  simp only [writeSnd, hlock, hv, if_true, Bool.false_eq_true, if_false]

/-- SND_CTRL with LOCK written 0, while the ring is not locked (Table 11.6). -/
theorem writeSnd_ctrl_unlocked {s : State} {v : Word64} (hlock : s.snd.lock = false) (hv : v.getLsbD 32 = false) :
    writeSnd 0 v s = { s with snd := { s.snd with mode := v.getLsbD 16, timeout := v.extractLsb' 0 16 } } := by
  simp only [writeSnd, regBits, hlock, hv, Bool.false_eq_true, if_false]

/-- REC_FROM is taken only while the reader is STOPPED (Table 15.8). -/
theorem writeRec_from (v : Word64) (s : State) :
    writeRec 0x68 v s = if s.hbr.reader = .stopped then { s with log := { s.log with fromSeq := v } } else s := by
  simp only [writeRec, beq_iff_eq]

/-- Settles O46: with power the command is `writeReg`, and each register takes its fields as its block's write says. -/
theorem registersWritten : Obligations.RegistersWritten := by
  unfold Obligations.RegistersWritten
  intro s v
  refine ⟨fun hp off => exec_registerWrite_unpowered hp off v, fun hp => ?_⟩
  have powered (off : Nat) {t : State} (h : writeReg off v s = t) : exec (.registerWrite off v) s = .next t :=
    (exec_registerWrite_powered hp off v).trans (congrArg _ h)
  refine ⟨?xngStatus, ?xngApplyAt, ?xngGroup, ?ignored, ?islCtrl, ?memCtrl, ?rgnCtrl, ?fryBase, ?lncBase, ?sndLocked,
    ?sndUnlocked, ?hltCtrl, ?recFrom, ?pwrLimits⟩
  case xngStatus => exact powered 0x08 rfl
  case xngApplyAt => exact powered 0x18 rfl
  case xngGroup => exact powered 0x28 rfl
  case ignored => exact fun off hoff => powered off (writeReg_ignored v s hoff)
  case islCtrl => exact powered 0x20000 rfl
  case memCtrl => exact powered 0x50000 rfl
  case rgnCtrl => exact powered 0x60000 rfl
  case fryBase =>
    intro q hq
    have hoff : 0x30100 + 32 * q = 0x30000 + (0x100 + 32 * q) := by omega
    exact powered _ (by rw [hoff, writeReg_fry (by omega), writeFry_base hq]; rfl)
  case lncBase =>
    intro q hq
    have hoff : 0x40100 + 32 * q = 0x40000 + (0x100 + 32 * q) := by omega
    exact powered _ (by rw [hoff, writeReg_lnc (by omega), writeLnc_base hq]; rfl)
  case sndLocked => exact fun hlock hv => powered 0x70000 (writeSnd_ctrl_locked hlock hv)
  case sndUnlocked => exact fun hlock hv => powered 0x70000 (writeSnd_ctrl_unlocked hlock hv)
  case hltCtrl => exact powered 0xA0000 rfl
  case recFrom => exact powered 0xB0068 (writeRec_from v s)
  case pwrLimits => exact powered 0xD0008 rfl

end Sys2Proof.Machine
end

section
/-! The crossing clock's period, its window and its probes (R18 to R22, R37, R48, R349). -/

namespace Sys2Proof.Machine

/-! ### Commands and what gives them their meaning -/

theorem exec_periodChanged (s : State) : exec .periodChanged s = execPeriodChanged s := rfl
theorem exec_windowWrite (w : BitVec 26) (s : State) : exec (.windowWrite w) s = execWindowWrite w s := rfl
theorem exec_probe (echo : Bool) (group rank tick cycles latency : Nat) (s : State) :
    exec (.probe echo group rank tick cycles latency) s = execProbe echo group rank tick cycles latency s := rfl

/-! ### A period change judged (R21, R22) -/

/-- The ticks that a change is announced ahead: eight by the lead of a group, else two (R21, R22). -/
theorem judgePeriod_lead {s : State} (hrole : s.xng.role = .lead) (p a : Nat) :
    judgePeriod s p a = if p < 8000 ∨ 40000000 < p ∨ a < s.xng.tick.toNat + 8 then 1
      else if windowOk s.xng.window.toNat s.xng.rttMax.toNat p (sizeAt a s) then 0 else 2 := by
  rw [judgePeriod, if_neg (fun hother => hother.2 hrole)]
  simp only [hrole, if_pos]
  cases windowOk s.xng.window.toNat s.xng.rttMax.toNat p (sizeAt a s) <;> rfl

theorem judgePeriod_solo {s : State} (hrole : s.xng.role = .solo) (p a : Nat) :
    judgePeriod s p a = if p < 8000 ∨ 40000000 < p ∨ a < s.xng.tick.toNat + 2 then 1 else 0 := by
  simp [judgePeriod, hrole]

/-- A module that is neither solo nor the lead is refused (R22; log entry 124). -/
theorem judgePeriod_other {s : State} (hsolo : s.xng.role ≠ .solo) (hlead : s.xng.role ≠ .lead) (p a : Nat) :
    judgePeriod s p a = 1 := if_pos ⟨hsolo, hlead⟩

theorem armPeriod_accepted {s : State} {p a : Nat} (h : judgePeriod s p a = 0) :
    armPeriod p a s = { s with xng := { s.xng with
      armed := some (p, a), period := if s.xng.role = .lead then some (p, a) else none } } := by
  simp only [armPeriod, h]

theorem armPeriod_badPeriod {s : State} {p a : Nat} (h : judgePeriod s p a = 1) :
    armPeriod p a s = { s with xng := { s.xng with badPeriod := true } } := by
  simp only [armPeriod, h]

theorem armPeriod_badWindow {s : State} {p a : Nat} (h : judgePeriod s p a = 2) :
    armPeriod p a s = { s with xng := { s.xng with badWindow := true } } := by
  simp only [armPeriod, h]

/-- A solo module's change in range, two ticks ahead, is accepted (R18, R21). -/
theorem judgePeriod_solo_accepted {s : State} {p a : Nat} (hrole : s.xng.role = .solo) (hmin : 8000 ≤ p)
    (hmax : p ≤ 40000000) (hahead : s.xng.tick.toNat + 2 ≤ a) : judgePeriod s p a = 0 :=
  (judgePeriod_solo hrole p a).trans (if_neg (by omega))

theorem judgePeriod_solo_refused {s : State} {p a : Nat} (hrole : s.xng.role = .solo)
    (hbad : p < 8000 ∨ 40000000 < p ∨ a < s.xng.tick.toNat + 2) : judgePeriod s p a = 1 :=
  (judgePeriod_solo hrole p a).trans (if_pos hbad)

/-- A lead's change in range, eight ticks ahead, is judged by the window rules (R22, R37). -/
theorem judgePeriod_lead_inRange {s : State} {p a : Nat} (hrole : s.xng.role = .lead) (hmin : 8000 ≤ p)
    (hmax : p ≤ 40000000) (hahead : s.xng.tick.toNat + 8 ≤ a) :
    judgePeriod s p a = if windowOk s.xng.window.toNat s.xng.rttMax.toNat p (sizeAt a s) then 0 else 2 :=
  (judgePeriod_lead hrole p a).trans (if_neg (by omega))

theorem judgePeriod_lead_refused {s : State} {p a : Nat} (hrole : s.xng.role = .lead)
    (hbad : p < 8000 ∨ 40000000 < p ∨ a < s.xng.tick.toNat + 8) : judgePeriod s p a = 1 :=
  (judgePeriod_lead hrole p a).trans (if_pos hbad)

/-- PERIOD_APPLY of a module that is neither solo nor the lead (R22). -/
theorem exec_periodApply_other {s : State} (hsolo : s.xng.role ≠ .solo) (hlead : s.xng.role ≠ .lead) :
    exec .periodApply s = .next { s with xng := { s.xng with badPeriod := true } } :=
  congrArg _ (armPeriod_badPeriod (judgePeriod_other hsolo hlead _ _))

/-- Settles O9: PERIOD_APPLY is `armPeriod` of the registers, by the verdict of `judgePeriod` on each role. -/
theorem periodChanges : Obligations.PeriodChanges := by
  unfold Obligations.PeriodChanges
  intro s p a n bad
  have apply_next {t : State} (h : armPeriod p a s = t) : exec .periodApply s = .next t := congrArg _ h
  refine ⟨?solo, ?soloRefused, ?lead, ?leadRefused, ?member, ?changed⟩
  case solo =>
    intro hrole hmin hmax hahead
    refine apply_next ((armPeriod_accepted (judgePeriod_solo_accepted hrole hmin hmax hahead)).trans ?_)
    rw [hrole]
    rfl
  case soloRefused => exact fun hrole hbad => apply_next (armPeriod_badPeriod (judgePeriod_solo_refused hrole hbad))
  case lead =>
    intro hrole hmin hmax hahead
    have hjudged := judgePeriod_lead_inRange hrole hmin hmax hahead
    by_cases hfits : windowOk s.xng.window.toNat s.xng.rttMax.toNat p (sizeAt a s) = true
    · rw [if_pos hfits] at hjudged ⊢
      refine apply_next ((armPeriod_accepted hjudged).trans ?_)
      rw [hrole]
      rfl
    · rw [if_neg hfits] at hjudged ⊢
      exact apply_next (armPeriod_badWindow hjudged)
  case leadRefused => exact fun hrole hbad => apply_next (armPeriod_badPeriod (judgePeriod_lead_refused hrole hbad))
  case member =>
    intro hrole
    exact exec_periodApply_other (by rw [hrole]; decide) (by rw [hrole]; decide)
  case changed =>
    intro hchanged
    obtain ⟨c, hc⟩ := Option.isSome_iff_exists.1 hchanged
    simp only [exec_periodChanged, execPeriodChanged, hc]

/-! ### The window and the ring (R37, R48) -/

/-- The rules of R37, by the size of the group. -/
theorem windowOk_iff (w rtt period size : Nat) :
    windowOk w rtt period size = true ↔
      rtt + 800 ≤ w ∧ (size ≤ 64 ∧ 2 * w ≤ period ∨ 64 < size ∧ 4 * w ≤ period ∧ 200000 ≤ period) := by
  simp only [windowOk, windowFits, Bool.and_eq_true, Bool.or_eq_true, decide_eq_true_eq]
  split_ifs <;> omega

/-- The window in which R37 holds is written. -/
theorem setWindow_ok {s : State} {w : Nat} (h : windowOk w s.xng.rttMax.toNat s.xng.current.toNat (groupSize s) = true) :
    setWindow w s = ({ s with xng := { s.xng with window := BitVec.ofNat 26 w } }, true) := if_pos h

/-- A window against R37 sets BAD_WINDOW. -/
theorem setWindow_bad {s : State} {w : Nat} (h : windowOk w s.xng.rttMax.toNat s.xng.current.toNat (groupSize s) = false) :
    setWindow w s = ({ s with xng := { s.xng with badWindow := true } }, false) := if_neg (by rw [h]; decide)

/-- The lead's write of the window (R37). -/
theorem exec_windowWrite_lead {s : State} (hrole : s.xng.role = .lead) (w : BitVec 26) :
    exec (.windowWrite w) s = .next (
      if windowOk w.toNat s.xng.rttMax.toNat s.xng.current.toNat (groupSize s)
      then { s with xng := { s.xng with window := w } }
      else { s with xng := { s.xng with badWindow := true } }) := by
  rw [exec_windowWrite, execWindowWrite, if_pos hrole]
  cases hok : windowOk w.toNat s.xng.rttMax.toNat s.xng.current.toNat (groupSize s) with
  | true => rw [setWindow_ok hok, BitVec.ofNat_toNat, BitVec.setWidth_eq, if_pos rfl]
  | false => rw [setWindow_bad hok, if_neg (by decide)]

/-! ### Probes (R37, R349) -/

/-- The way of a probe between aligned ticks, counted within the group (R37). -/
def wayInside (tick cycles : Nat) (s : State) : Nat :=
  (((s.xng.cycle.toNat - s.xng.tickCycle.toNat : Nat) : Int) - cycles
    + ((s.xng.tick.toNat : Int) - tick) * s.xng.current.toNat).toNat

/-- The way of a probe to or from a module outside the group (log entry 56). -/
def wayOutside (cycles : Nat) (s : State) : Nat :=
  ((((s.xng.cycle.toNat - s.xng.tickCycle.toNat : Nat) : Int) - cycles) % s.xng.current.toNat).toNat

theorem probeWay_eq (outside : Bool) (tick cycles : Nat) (s : State) :
    probeWay outside tick cycles s = if outside then wayOutside cycles s else wayInside tick cycles s := rfl

/-- The state with the latency of a rank's echo: the longer of the two ways (R37). -/
def withLatency (rank tick cycles latency : Nat) (s : State) : State :=
  let way := if rank ∈ s.xng.members then wayInside tick cycles s else wayOutside cycles s
  { s with xng := { s.xng with latencies := put 0 rank (max latency way + 1) s.xng.latencies } }

theorem probeWay_of_member (rank tick cycles : Nat) (s : State) :
    probeWay (!s.xng.members.contains rank) tick cycles s
      = if rank ∈ s.xng.members then wayInside tick cycles s else wayOutside cycles s := by
  by_cases h : rank ∈ s.xng.members <;> simp [probeWay_eq, h]

/-- A probe of this module's rank is echoed (R349). -/
theorem exec_probe_echoes {s : State} (hrole : s.xng.role ≠ .solo) (tick cycles latency : Nat) :
    exec (.probe false s.xng.groupId.toNat s.xng.rank.toNat tick cycles latency) s
      = .next (emitProbe true s.xng.rank.toNat
          (if s.xng.role = .joining then wayOutside cycles s else wayInside tick cycles s) s) := by
  rw [exec_probe, execProbe, if_neg (by simp [hrole]), if_pos rfl, if_pos rfl, probeWay_eq]
  simp only [beq_iff_eq]

/-- An echo gives its rank's latency, from which a formation or the lead's measurement goes on (R37, R44). -/
theorem exec_probe_echo {s : State} (hrole : s.xng.role ≠ .solo) (rank tick cycles latency : Nat) :
    exec (.probe true s.xng.groupId.toNat rank tick cycles latency) s
      = match waiters s .form with
        | m :: _ => .next (nameFormation m (withLatency rank tick cycles latency s))
        | [] => .next (if s.xng.role = .lead then settleMeasure (withLatency rank tick cycles latency s)
            else withLatency rank tick cycles latency s) := by
  rw [exec_probe, execProbe, if_neg (by simp [hrole]), if_neg (by decide), probeWay_of_member]
  rfl

theorem measured_iff (ranks : List Nat) (s : State) :
    measured ranks s = true ↔ ∀ r ∈ ranks, ∃ p ∈ s.xng.latencies, p.1 = r := by
  simp only [measured, List.all_eq_true, List.any_eq_true, beq_iff_eq]

/-- A measurement that every rank has answered gives RTT_MAX and lets the joins go on (R37, R44). -/
theorem settleMeasure_complete {s : State} (h : measured (probedRanks s) s = true) :
    settleMeasure s = (admissions s).foldl (fun s a => nameJoin a.1 a.2.1 a.2.2 s) (takeRtt s) := if_pos h

/-- A measurement that a rank has not answered waits. -/
theorem settleMeasure_waits {s : State} (h : ¬ measured (probedRanks s) s = true) : settleMeasure s = s := if_neg h

/-- Settles O10: the window by R37's rules, the ring by its region, a probe by its echo, an echo by what waits for it. -/
theorem windowsAndProbes : Obligations.WindowsAndProbes := by
  unfold Obligations.WindowsAndProbes
  refine ⟨fun s w v => ⟨?lead, ?other, ?ring, ?badRing⟩, fun s rank tick cycles latency hrole => ⟨?probe, ?formation, ?measured, ?waits⟩⟩
  case lead =>
    intro hrole
    rw [exec_windowWrite_lead hrole]
    refine congrArg _ (if_congr ?_ rfl rfl)
    rw [windowOk_iff, groupSize]
    omega
  case other => exact fun hrole => if_neg hrole
  case ring =>
    intro hpinned
    refine if_neg ?_
    cases v with
    | false => simp
    | true => simp only [ringBytes, hpinned rfl]; decide
  case badRing =>
    intro hpinned
    refine if_pos ?_
    simp only [ringBytes, hpinned]
    decide
  case probe =>
    rintro rfl
    exact exec_probe_echoes hrole tick cycles latency
  case formation =>
    intro m rest hform
    rw [exec_probe_echo hrole, hform]
    rfl
  case measured =>
    intro hform hlead hall
    have hmeasured := (measured_iff (probedRanks s) (withLatency rank tick cycles latency s)).2 hall
    rw [exec_probe_echo hrole, hform]
    exact congrArg Host.Outcome.next ((if_pos hlead).trans (settleMeasure_complete hmeasured))
  case waits =>
    intro hform hsome
    rw [exec_probe_echo hrole, hform]
    refine congrArg Host.Outcome.next ?_
    by_cases hlead : s.xng.role = .lead
    · have hwaits : ¬ measured (probedRanks s) (withLatency rank tick cycles latency s) = true := by
        rw [measured_iff]
        obtain ⟨r, hr, hnone⟩ := hsome.resolve_left (not_not_intro hlead)
        exact fun hall => (hall r hr).elim fun p hp => hnone p hp.1 hp.2
      exact (if_pos hlead).trans (settleMeasure_waits hwaits)
    · exact if_neg hlead

end Sys2Proof.Machine
end

section
/-! The group commands (R21, R37, R44, R45, R368): what each does once its request has passed the checks of Table 13.4. -/

namespace Sys2Proof.Machine

/-! ### Commands taken -/

section
variable {m : Nat} {s u : State} {x : Mailbox}

/-- A command whose request has been taken answers with its own effect. -/
theorem next_mbCommand {op : Nat} {act : Mailbox → State → State} {t : State} (h : Entered op m s x u) (ht : act x u = t) :
    (Host.Outcome.next (mbCommand op m act s) : Host.Outcome State Fault Refusal) = .next t :=
  congrArg _ ((mbCommand_entered op m s x u act h).trans ht)

/-- GROUP_JOIN, taken (R44, R368). -/
theorem exec_groupJoin_entered (h : Entered 0x31 m s x u) :
    exec (.groupJoin m) s = .next (
      if u.xng.role ≠ .solo then finish m stState u
      else
        let v := takeGroup (mbArg x 0) (mbArg x 1) u.xng.sizeM1.toNat u
        await m .join { drawn v with xng := { v.xng with
          onTicks := 0, window := BitVec.ofNat 26 (Config.freeValue v.freeCtr) } }) := next_mbCommand h rfl

/-- GROUP_ADMIT, taken (R44, R368). -/
theorem exec_groupAdmit_entered (h : Entered 0x32 m s x u) :
    exec (.groupAdmit m) s = .next (
      if u.xng.role ≠ .lead then finish m stState u
      else remeasure (await m (.admitting (mbArg x 0) (mbArg x 1)) u)) := next_mbCommand h rfl

/-- The leave that a member asks its lead for (R45, R368). -/
def leaveRequest (s : State) : Decision :=
  { formDecision s with
    members := [{ join := false, rank := s.xng.rank.toNat, tick := 0, peer := s.zng.peerId.toNat }]
    period := none, switch := none, dissolve := none, stop := false, sizeM1 := s.xng.sizeM1.toNat }

/-- GROUP_LEAVE, taken: the lead's dissolution, a member's request, or a refusal (R45, R368). -/
theorem exec_groupLeave_entered (h : Entered 0x33 m s x u) :
    exec (.groupLeave m) s = .next (
      if u.xng.role = .lead then
        if u.ttu.func ≠ .stopped then finish m stState u
        else await m .leave { u with xng := { u.xng with dissolveAt := some (announceTick u), joins := [], sizeNext := none } }
      else if u.xng.role = .member then
        if u.ttu.func ≠ .stopped then finish m stState u
        else
          let v := await m .leave { u with xng := { u.xng with role := .leaving } }
          emitDecision (leaveRequest v) v
      else finish m stState u) := next_mbCommand h rfl

/-- GROUP_WINDOW, taken (R37, R368). -/
theorem exec_groupWindow_entered (h : Entered 0x34 m s x u) :
    exec (.groupWindow m) s = .next (
      if u.xng.role ≠ .lead then finish m stState u
      else finish m (if (setWindow (mbArg x 0) u).2 then stOk else stBadArg) (setWindow (mbArg x 0) u).1) :=
  next_mbCommand h rfl

/-- XNG_PERIOD, taken: judged at once (R365). -/
theorem exec_xngPeriod_entered (h : Entered 0x25 m s x u) :
    exec (.xngPeriod m) s = .next (
      if u.xng.role ≠ .solo ∧ u.xng.role ≠ .lead then finish m stState u
      else if judgePeriod u (mbArg x 0) (mbArg x 1) = 0 then
        finish m stOk (armPeriod (mbArg x 0) (mbArg x 1) { u with xng := { u.xng with
          next := BitVec.ofNat 26 (mbArg x 0), applyAt := BitVec.ofNat 64 (mbArg x 1) } })
      else finish m stBadArg (armPeriod (mbArg x 0) (mbArg x 1) u)) := next_mbCommand h rfl

/-- The formation that GROUP_FORM begins: the fields taken, the mailbox waiting and the window of the command (R37, R368). -/
def formBegun (m : Nat) (x : Mailbox) (size : Nat) (s : State) : State :=
  let v := await m .form (takeGroup (mbArg x 0) (mbArg x 1) (size - 1) s)
  { v with xng := { v.xng with window := BitVec.ofNat 26 (mbArg x 2) } }

/-- GROUP_FORM, taken: refused in its checks' order, or begun, where the lead probes every other rank (R37, R368). -/
theorem exec_groupForm_entered {size rank lead : Nat} (h : Entered 0x30 m s x u) (hsize : size = bits (mbArg x 0) 25 16 + 1)
    (hrank : rank = bits (mbArg x 0) 41 32) (hlead : lead = bits (mbArg x 0) 57 48) :
    exec (.groupForm m) s = .next (
      if u.xng.role ≠ .solo then finish m stState u
      else if size ≤ rank then finish m stBadArg u
      else if (rank == lead && !windowFits (mbArg x 2) 0 u.xng.current.toNat size) = true then
        finish m stBadArg { u with xng := { u.xng with badWindow := true } }
      else if 64 < size ∧ u.xng.current.toNat < 200000 then finish m stNoResource u
      else if (rank == lead) = true then
        ((List.range size).filter (· != rank)).foldl (fun s r => emitProbe false r 0 s) (formBegun m x size u)
      else formBegun m x size u) := by
  subst hsize hrank hlead
  exact next_mbCommand h rfl

end

/-- Settles O40: each command's effect once it is taken, by role and by the rules of R37 and R21. -/
theorem groupCommands : Obligations.GroupCommands := by
  unfold Obligations.GroupCommands
  intro m x s u a0 a1 size rank lead
  refine ⟨fun h => ?form, fun h => ?join, fun h => ?admission, fun h => ?leave, fun h => ?window, fun h => ?period⟩
  case form =>
    rw [exec_groupForm_entered h (size := size) (rank := rank) (lead := lead) rfl rfl rfl]
    clear_value size rank lead
    have judged (hfit : rank = lead → windowFits (mbArg x 2) 0 u.xng.current.toNat size = true) :
        ¬ (rank == lead && !windowFits (mbArg x 2) 0 u.xng.current.toNat size) = true := by
      simpa using hfit
    refine ⟨fun hrole => ?notSolo, fun hrole hrank => ?noRank, fun hrole hrank hlead hbad => ?badWindow,
      fun hrole hrank hsize hcur hfit => ?tooShort, fun hrole hrank hroom hother => ?member,
      fun hrole hrank hroom hlead hfit => ?lead⟩
    case notSolo => rw [if_pos hrole]
    case noRank => rw [if_neg (not_not_intro hrole), if_pos hrank]
    case badWindow =>
      rw [if_neg (not_not_intro hrole), if_neg (by omega), if_pos]
      rw [hlead, hbad, beq_self_eq_true]
      rfl
    case tooShort => rw [if_neg (not_not_intro hrole), if_neg (by omega), if_neg (judged hfit), if_pos ⟨hsize, hcur⟩]
    case member =>
      rw [if_neg (not_not_intro hrole), if_neg (by omega), if_neg (judged fun hlead => absurd hlead hother),
        if_neg (by omega), if_neg (by simpa using hother)]
      rfl
    case lead =>
      rw [if_neg (not_not_intro hrole), if_neg (by omega), if_neg (judged fun _ => hfit), if_neg (by omega),
        if_pos (by simpa using hlead)]
      rfl
  case join =>
    rw [exec_groupJoin_entered h]
    exact ⟨fun hrole => by rw [if_pos hrole], fun hrole => by rw [if_neg (not_not_intro hrole)]⟩
  case admission =>
    rw [exec_groupAdmit_entered h]
    exact ⟨fun hrole => by rw [if_pos hrole], fun hrole => by rw [if_neg (not_not_intro hrole)]; rfl⟩
  case leave =>
    rw [exec_groupLeave_entered h]
    refine ⟨fun hrefused => ?_, fun hrole hstopped => ?_, fun hrole hstopped => ?_⟩
    · rcases hrefused with hsolo | hbusy
      · rw [if_neg (by rw [hsolo]; decide), if_neg (by rw [hsolo]; decide)]
      · simp only [if_pos hbusy, ite_self]
    · rw [if_pos hrole, if_neg (not_not_intro hstopped)]
      rfl
    · rw [if_neg (by rw [hrole]; decide), if_pos hrole, if_neg (not_not_intro hstopped)]
      exact ⟨leaveRequest (await m .leave { u with xng := { u.xng with role := .leaving } }), rfl, rfl, rfl⟩
  case window =>
    rw [exec_groupWindow_entered h]
    refine ⟨fun hrole => by rw [if_pos hrole], fun hrole hok => ?_, fun hrole hbad => ?_⟩
    · rw [if_neg (not_not_intro hrole), setWindow_ok hok, if_pos rfl]
    · rw [if_neg (not_not_intro hrole), setWindow_bad hbad, if_neg Bool.false_ne_true]
  case period =>
    rw [exec_xngPeriod_entered h]
    refine ⟨fun hsolo hlead => by rw [if_pos ⟨hsolo, hlead⟩], fun hrole hmin hmax hahead => ?_, fun hrole hbad => ?_,
      fun hrole hmin hmax hahead hfits => ?_⟩
    · have hjudged := judgePeriod_solo_accepted hrole hmin hmax hahead
      rw [if_neg (fun hrefused => hrefused.1 hrole), if_pos hjudged, armPeriod_accepted (by exact hjudged)]
      simp only [hrole]
      rfl
    · have hjudged := judgePeriod_solo_refused hrole hbad
      rw [if_neg (fun hrefused => hrefused.1 hrole), if_neg (by rw [hjudged]; decide), armPeriod_badPeriod hjudged]
    · have hjudged := (judgePeriod_lead_inRange hrole hmin hmax hahead).trans (if_pos hfits)
      rw [if_neg (fun hrefused => hrefused.2 hrole), if_pos hjudged, armPeriod_accepted (by exact hjudged)]
      simp only [hrole]
      rfl

end Sys2Proof.Machine
end

section
/-! What answers, records and host traffic leave alone: they reach no further than the recorder, the health monitor, the link, the
mailboxes, the module's state and what leaves the module. -/

namespace Sys2Proof.Machine

/-- Two states differ at most in what an event, an answer or a host access moves. -/
def Outward (s t : State) : Prop :=
  t = { s with log := t.log, hlt := t.hlt, zng := t.zng, hbr := t.hbr, mode := t.mode, out := t.out, freeCtr := t.freeCtr }

namespace Outward
variable {s t u : State}

theorem refl (s : State) : Outward s s := rfl

theorem trans (h : Outward s t) (k : Outward t u) : Outward s u := by
  unfold Outward at *
  rw [k, h]

/-- What comes after a plain update. -/
theorem after (k : Outward t u) (h : Outward s t) : Outward s u := h.trans k

theorem of_aside (h : Aside s t) : Outward s t := by
  unfold Outward
  rw [h]

/-- One thing after another, over a list. -/
theorem foldl {α : Type} {f : State → α → State} (h : ∀ s x, Outward s (f s x)) (l : List α) (s : State) :
    Outward s (l.foldl f s) := by
  induction l generalizing s with
  | nil => exact refl s
  | cons x r ih => exact (h s x).trans (ih _)

/-- One thing after another, over a list, with something carried along. -/
theorem foldl_fst {α β : Type} {f : State × β → α → State × β} (h : ∀ p x, Outward p.1 (f p x).1) (l : List α) (p : State × β) :
    Outward p.1 (l.foldl f p).1 := by
  induction l generalizing p with
  | nil => exact refl p.1
  | cons x r ih => exact (h p x).trans (ih _)

/-- The same thing a number of times. -/
theorem iter {f : State → State} (h : ∀ s, Outward s (f s)) (n : Nat) (s : State) : Outward s (Machine.iter f n s) := by
  induction n generalizing s with
  | zero => exact refl s
  | succ n ih => exact (h s).trans (ih _)

theorem xng (h : Outward s t) : t.xng = s.xng := by rw [h]
theorem ttu (h : Outward s t) : t.ttu = s.ttu := by rw [h]

end Outward

theorem outward_raise (c n : Nat) (fs : List (Nat × Nat)) (s : State) : Outward s (raise c n fs s) :=
  .of_aside (aside_raise c n fs s)

/-! ### Host accesses -/

theorem outward_issueOn (p : Nat) (r : HostReq) (s : State) : Outward s (issueOn p r s) := by
  unfold issueOn
  refine .trans ?_ (.of_aside (aside_sendTxn _ _ _ _))
  rfl

theorem outward_issueAux (n : Nat) (r : HostReq) (s : State) : Outward s (issueAux n r s).1 := by
  induction n generalizing r s with
  | zero => exact .refl s
  | succ n ih =>
    unfold issueAux
    split
    · exact .refl s
    · split
      · exact .refl s
      · split
        · exact (outward_issueOn _ _ _).trans (ih _ _)
        · exact .refl s

theorem outward_pumpHost (s : State) : Outward s (pumpHost s) := by
  unfold pumpHost
  extract_lets q
  refine .trans (Outward.trans (t := { s with zng := { s.zng with queued := [] } }) rfl
    (Outward.foldl_fst (fun p r => ?_) q ({ s with zng := { s.zng with queued := [] } }, [], []))) rfl
  obtain ⟨v, rest, stuck⟩ := p
  have issued := outward_issueAux 2050 r v
  dsimp only
  split
  · exact .refl v
  · split
    · rename_i h
      rw [h] at issued
      exact issued
    · rename_i h
      rw [h] at issued
      exact issued

theorem outward_request (r : HostReq) (s : State) : Outward s (request r s) := by
  unfold request
  exact Outward.after (outward_pumpHost _) rfl

theorem outward_hostRead (off len : Nat) (use : HostUse) (s : State) : Outward s (hostRead off len use s) :=
  outward_request _ s

theorem outward_hostWrite (off : Nat) (data : List Byte) (use : HostUse) (s : State) : Outward s (hostWrite off data use s) :=
  outward_request _ s

theorem outward_peerWrite (id handle off : Nat) (data : List Byte) (use : HostUse) (s : State) :
    Outward s (peerWrite id handle off data use s) :=
  outward_request _ s

/-! ### Answers -/

theorem outward_deliver (m status len : Nat) (s : State) : Outward s (deliver m status len s) := by
  unfold deliver
  dsimp only
  split_ifs
  · exact outward_hostWrite _ _ _ s
  · exact outward_hostWrite _ _ _ s
  · rfl
  · rfl
  · exact .refl s

theorem outward_complete (m status : Nat) (res : List Nat) (payload : List Byte) (s : State) :
    Outward s (complete m status res payload s) := by
  unfold complete
  exact Outward.after (outward_deliver _ _ _ _) rfl

theorem outward_finish (m status : Nat) (s : State) : Outward s (finish m status s) := outward_complete m status [] [] s

theorem outward_finishAll (w : MbWait) (status : Nat) (s : State) : Outward s (finishAll w status s) :=
  .foldl (fun u m => outward_finish m status u) _ s

/-! ### The module's state -/

theorem outward_setMode (m : ModState) (s : State) : Outward s (setMode m s) := by
  unfold setMode
  split
  · exact .refl s
  · exact Outward.after (outward_raise _ _ _ _) rfl

theorem outward_settleMode (s : State) : Outward s (settleMode s) := by
  unfold settleMode
  split
  · exact outward_setMode _ s
  · exact .refl s

/-! ### The completion records of the window queues -/

theorem outward_recordPass (s : State) : Outward s (recordPass s) := by
  refine .foldl (fun u e => ?_) _ s
  split
  · exact Outward.after (outward_hostWrite _ _ _ _) rfl
  · exact .refl u

theorem outward_releaseHeld (s : State) : Outward s (releaseHeld s) :=
  Outward.after (Outward.iter outward_recordPass _ _) rfl

/-! ### Field by field -/

@[simp] theorem hostRead_xng (off len : Nat) (use : HostUse) (s : State) : (hostRead off len use s).xng = s.xng :=
  (outward_hostRead off len use s).xng
@[simp] theorem hostWrite_xng (off : Nat) (data : List Byte) (use : HostUse) (s : State) :
    (hostWrite off data use s).xng = s.xng := (outward_hostWrite off data use s).xng
@[simp] theorem peerWrite_xng (id handle off : Nat) (data : List Byte) (use : HostUse) (s : State) :
    (peerWrite id handle off data use s).xng = s.xng := (outward_peerWrite id handle off data use s).xng
@[simp] theorem complete_xng (m status : Nat) (res : List Nat) (payload : List Byte) (s : State) :
    (complete m status res payload s).xng = s.xng := (outward_complete m status res payload s).xng
@[simp] theorem finish_xng (m status : Nat) (s : State) : (finish m status s).xng = s.xng := (outward_finish m status s).xng
@[simp] theorem finishAll_xng (w : MbWait) (status : Nat) (s : State) : (finishAll w status s).xng = s.xng :=
  (outward_finishAll w status s).xng
@[simp] theorem finishAll_ttu (w : MbWait) (status : Nat) (s : State) : (finishAll w status s).ttu = s.ttu :=
  (outward_finishAll w status s).ttu
@[simp] theorem setMode_xng (m : ModState) (s : State) : (setMode m s).xng = s.xng := (outward_setMode m s).xng
@[simp] theorem settleMode_xng (s : State) : (settleMode s).xng = s.xng := (outward_settleMode s).xng
@[simp] theorem settleMode_ttu (s : State) : (settleMode s).ttu = s.ttu := (outward_settleMode s).ttu
@[simp] theorem releaseHeld_xng (s : State) : (releaseHeld s).xng = s.xng := (outward_releaseHeld s).xng
@[simp] theorem releaseHeld_ttu (s : State) : (releaseHeld s).ttu = s.ttu := (outward_releaseHeld s).ttu

end Sys2Proof.Machine
end

section
/-! What leaves the XNG_ registers and the group alone (Tables 1.6 to 1.20). -/

namespace Sys2Proof.Machine

/-! ### Over a list -/

theorem foldl_xng {α : Type} {f : State → α → State} (h : ∀ s x, (f s x).xng = s.xng) (l : List α) (s : State) :
    (l.foldl f s).xng = s.xng := by
  induction l generalizing s with
  | nil => rfl
  | cons x r ih => exact (ih _).trans (h s x)

theorem foldl_fst_xng {α β : Type} {f : State × β → α → State × β} (h : ∀ p x, (f p x).1.xng = p.1.xng) (l : List α)
    (p : State × β) : (l.foldl f p).1.xng = p.1.xng := by
  induction l generalizing p with
  | nil => rfl
  | cons x r ih => exact (ih _).trans (h p x)

/-! ### Pages, contexts and migrations -/

@[simp] theorem setTags_xng (f : Tag → Tag) (ps : List Nat) (s : State) : (setTags f ps s).xng = s.xng := by
  rw [setTags_only]

@[simp] theorem unlockPages_xng (ps : List Nat) (s : State) : (unlockPages ps s).xng = s.xng := setTags_xng _ ps s

@[simp] theorem beginMigrations_xng (s : State) : (beginMigrations s).xng = s.xng := by
  unfold beginMigrations
  refine foldl_xng (fun u x => ?_) _ s
  split
  · extract_lets off
    split
    · rfl
    · split
      · exact (poisonMem_xng _ _ _).trans (raise_xng _ _ _ _)
      · split
        · rfl
        · exact hostRead_xng _ _ _ _
  · rfl

@[simp] theorem startMigration_xng (e p : Nat) (s : State) : (startMigration e p s).xng = s.xng := by
  simp [startMigration, drawn]

@[simp] theorem remoteTouch_xng (p : Nat) (s : State) : (remoteTouch p s).xng = s.xng := by
  unfold remoteTouch
  extract_lets t t' u
  split
  · split
    · exact startMigration_xng _ _ u
    · rfl
  · rfl

@[simp] theorem pageFault_xng (c p : Nat) (s : State) : (pageFault c p s).xng = s.xng := by
  unfold pageFault
  dsimp only
  split
  · rfl
  · split <;> simp

@[simp] theorem joinEntry_xng (c p : Nat) (s : State) : (joinEntry c p s).xng = s.xng := by
  unfold joinEntry
  split_ifs
  · rfl
  · split <;> simp

@[simp] theorem refusePage_xng (c a : Nat) (lock : Bool) (s : State) : (refusePage c a lock s).xng = s.xng := by
  simp [refusePage]

@[simp] theorem workFault_xng (w c p : Nat) (s : State) : (workFault w c p s).xng = s.xng := by
  simp [workFault]

/-! ### A queue's own accesses -/

@[simp] theorem askHost_xng (off n : Nat) (use : HostUse) (s : State) : (askHost off n use s).xng = s.xng := by
  unfold askHost
  split_ifs <;> simp [hostLost]

@[simp] theorem fetchRun_xng (use : HostUse) (r : Nat × Nat) (s : State) : (fetchRun use r s).xng = s.xng := by
  unfold fetchRun
  split_ifs
  · simp
  · refine foldl_xng (fun u l => ?_) _ s
    split_ifs <;> simp

@[simp] theorem readPiece_xng (use : HostUse) (who : Nat) (l : Nat × Nat) (s : State) :
    (readPiece use who l s).1.xng = s.xng := by
  unfold readPiece
  dsimp only
  split_ifs
  · rfl
  · simp

@[simp] theorem readRun_xng (use : HostUse) (who : Nat) (r : Nat × Nat) (s : State) :
    (readRun use who r s).1.xng = s.xng :=
  foldl_fst_xng (f := fun (acc : State × List Byte × List (Nat × Nat)) l =>
    let p := readPiece use who l acc.1
    (p.1, acc.2.1 ++ p.2.1, if p.2.2 then acc.2.2 ++ [(l.1 - r.1, l.2)] else acc.2.2))
    (fun p l => readPiece_xng use who l p.1) _ (s, [], [])

@[simp] theorem writeRun_xng (use : HostUse) (c who a : Nat) (bs : List Byte) (s : State) :
    (writeRun use c who a bs s).xng = s.xng := by
  unfold writeRun
  split_ifs
  · simp
  · refine foldl_xng (fun u l => ?_) _ s
    dsimp only
    split
    · split_ifs <;> simp [holdLine]
    · rfl
    · rfl
    · simp

@[simp] theorem ownRead_xng (use : HostUse) (c who a n : Nat) (s : State) : (ownRead use c who a n s).1.xng = s.xng := by
  unfold ownRead
  split
  · rfl
  · split
    · rfl
    · rfl
    · rfl
    · rfl
    · split
      · exact readRun_xng _ _ _ s
      · dsimp only
        split
        · rfl
        · exact fetchRun_xng _ _ s

@[simp] theorem ownWrite_xng (use : HostUse) (c who a : Nat) (bs : List Byte) (s : State) :
    (ownWrite use c who a bs s).xng = s.xng := by
  unfold ownWrite
  split_ifs
  · rfl
  · split <;> simp

@[simp] theorem queueRecord_xng (use : HostUse) (x : Queue) (who pos : Nat) (rec : List Byte) (s : State) :
    (queueRecord use x who pos rec s).1.xng = s.xng := by
  unfold queueRecord
  dsimp only
  split_ifs <;> simp

@[simp] theorem completeLaunch_xng (q pos islet : Nat) (rec : List Byte) (irq : Bool) (s : State) :
    (completeLaunch q pos islet rec irq s).xng = s.xng := by
  unfold completeLaunch
  dsimp only
  split_ifs <;> simp

/-! ### The islets and their stores -/

@[simp] theorem keepIslet_xng (n : Nat) (x : Islet) (s : State) : (keepIslet n x s).xng = s.xng := rfl

@[simp] theorem abortFree_xng (n : Nat) (s : State) : (abortFree n s).xng = s.xng :=
  (foldl_xng (fun _ _ => setLncQ_xng _ _ _) _ _).trans rfl

@[simp] theorem fence_xng (n cause event : Nat) (s : State) : (fence n cause event s).xng = s.xng := by
  unfold fence
  dsimp only
  split_ifs <;> simp [dropSteps]

@[simp] theorem touchWord_xng (n w : Nat) (s : State) : (touchWord n w s).1.xng = s.xng := by
  unfold touchWord
  extract_lets k fl syn
  split
  · rfl
  · split
    · split
      · rfl
      · exact raise_xng _ _ _ _
    · exact fence_xng _ _ _ _

@[simp] theorem touchWords_xng (n : Nat) (ws : List Nat) (s : State) : (touchWords n ws s).1.xng = s.xng := by
  refine foldl_fst_xng (fun p w => ?_) ws (s, true)
  split_ifs <;> simp

@[simp] theorem settleWord_xng (n w : Nat) (s : State) : (settleWord n w s).xng = s.xng := rfl

@[simp] theorem readPhys_xng (n a len : Nat) (s : State) : (readPhys n a len s).1.xng = s.xng := by
  unfold readPhys
  dsimp only
  split_ifs <;> simp

@[simp] theorem writePhys_xng (n a : Nat) (bs : List Byte) (s : State) : (writePhys n a bs s).xng = s.xng := by
  unfold writePhys
  dsimp only
  split_ifs
  · rfl
  · rfl
  · exact (foldl_xng (fun u w => settleWord_xng n w u) _ _).trans (touchWords_xng _ _ s)
  · exact touchWords_xng _ _ s

@[simp] theorem writeStore_xng (l a : Nat) (bs : List Byte) (s : State) : (writeStore l a bs s).xng = s.xng := by
  unfold writeStore
  split_ifs <;> simp

@[simp] theorem spillStore_xng (n old : Nat) (s : State) : (spillStore n old s).xng = s.xng := by
  have hread := readPhys_xng n 0 storeSize s
  unfold spillStore
  split
  · rename_i h
    rw [h] at hread
    split_ifs <;> simpa using hread
  · rename_i h
    rw [h] at hread
    exact hread

@[simp] theorem takeStore_xng (n : Nat) (r : State × List Byte × Bool) : (takeStore n r).xng = r.1.xng := by
  unfold takeStore
  split_ifs <;> simp

@[simp] theorem fillStore_xng (n l : Nat) (s : State) : (fillStore n l s).xng = s.xng := by
  unfold fillStore
  rw [takeStore_xng, readMem_xng]

/-- The islets on the slots are noted anew. -/
theorem resident_xng {s t : State} (h : t.xng = s.xng) (m : SMap Nat) :
    ({ t with isl := { t.isl with resident := m } } : State).xng = s.xng := h

@[simp] theorem swapSlot_xng (slot l : Nat) (s : State) : (swapSlot slot l s).xng = s.xng := by
  unfold swapSlot
  simp only
  split
  · rfl
  · exact resident_xng ((fillStore_xng _ l _).trans (spillStore_xng _ _ s)) _

@[simp] theorem changeBatch_xng (b L : Nat) (s : State) : (changeBatch b L s).xng = s.xng := by
  refine foldl_xng (fun u slot => ?_) _ s
  split_ifs <;> simp

@[simp] theorem residentStart_xng (L : Nat) (s : State) : (residentStart L s).xng = s.xng := rfl

@[simp] theorem replaceIslet_xng (n : Nat) (s : State) : (replaceIslet n s).1.xng = s.xng := by
  unfold replaceIslet
  split <;> simp

@[simp] theorem requestCheck_xng (b : Nat) (s : State) : (requestCheck b s).xng = s.xng := by
  rw [aside_requestCheck b s]

@[simp] theorem replaceFaulted_xng (s : State) : (replaceFaulted s).1.xng = s.xng := by
  have hfold := foldl_fst_xng (f := fun (sp : State × Bool) n => ((replaceIslet n sp.1).1, sp.2 || !(replaceIslet n sp.1).2))
    (fun p n => replaceIslet_xng n p.1) s.isl.faulted (s, false)
  unfold replaceFaulted
  dsimp only
  rw [requestCheck_xng]
  split_ifs
  · exact (raise_xng _ _ _ _).trans hfold
  · exact hfold

/-! ### The timetable unit's steps and statistics -/

@[simp] theorem goOn_xng (n : Nat) (s : State) : (goOn n s).xng = s.xng := by
  induction n generalizing s with
  | zero => rfl
  | succ n ih =>
    unfold goOn
    dsimp only
    split
    · rfl
    · split
      · rfl
      · split
        · rfl
        · split
          · exact (ih _).trans (changeBatch_xng _ _ s)
          · refine (ih _).trans ?_
            dsimp only
            split
            · rfl
            · exact changeBatch_xng _ _ s

@[simp] theorem beginIndex_xng (c : Nat) (s : State) : (beginIndex c s).xng = s.xng := goOn_xng _ _

@[simp] theorem settleCopies_xng (t : Nat) (s : State) : (settleCopies t s).xng = s.xng := by
  unfold settleCopies
  dsimp only
  split <;> rfl

@[simp] theorem writeStats_xng (sl : ImgSlot) (i : Image) (x : CrossingEnt) (index t : Nat) (s : State) :
    (writeStats sl i x index t s).xng = s.xng := writeMem_xng _ _ _ s

@[simp] theorem writeAllStats_xng (sl : ImgSlot) (i : Image) (x : CrossingEnt) (index : Nat) (s : State) :
    (writeAllStats sl i x index s).xng = s.xng :=
  foldl_xng (fun u t => (writeStats_xng sl i x index t _).trans (settleCopies_xng t u)) _ s

@[simp] theorem lastRecords_xng (s : State) : (lastRecords s).xng = s.xng := by
  unfold lastRecords
  dsimp only
  split
  · rfl
  · split
    · exact writeAllStats_xng _ _ _ _ s
    · rfl

@[simp] theorem updateHistory_xng (sl : ImgSlot) (i : Image) (x : CrossingEnt) (index t : Nat) (s : State) :
    (updateHistory sl i x index t s).xng = s.xng := by
  unfold updateHistory
  split
  · rfl
  · exact (writeMem_xng _ _ _ _).trans (writeMem_xng _ _ _ s)

@[simp] theorem closeIndex_xng (s : State) : (closeIndex s).xng = s.xng := by
  unfold closeIndex
  dsimp only
  split
  · rfl
  · refine foldl_xng (fun u t => ?_) _ s
    exact (writeStats_xng _ _ _ _ t _).trans ((updateHistory_xng _ _ _ _ t _).trans (settleCopies_xng t u))

@[simp] theorem copyMem_xng (src dst n : Nat) (s : State) : (copyMem src dst n s).xng = s.xng :=
  (writeMem_xng _ _ _ _).trans (readMem_xng _ _ _ s)

@[simp] theorem takeCopy_xng (sl : ImgSlot) (s : State) : (takeCopy sl s).xng = s.xng := by
  unfold takeCopy
  dsimp only
  split
  · rfl
  · exact copyMem_xng _ _ _ s

@[simp] theorem restoreCopy_xng (sl : ImgSlot) (s : State) : (restoreCopy sl s).xng = s.xng := copyMem_xng _ _ _ s

@[simp] theorem takePosition_xng (index n : Nat) (s : State) : (takePosition index n s).xng = s.xng := by
  unfold takePosition
  dsimp only
  split
  · exact (raise_xng _ _ _ _).trans (setSlot_xng _ _ s)
  · exact setSlot_xng _ _ s

@[simp] theorem poisonStop_xng (s : State) : (poisonStop s).xng = s.xng := raise_xng _ _ _ _

@[simp] theorem reloadPolicy_xng (sl : ImgSlot) (i : Image) (o : SnapOp) (s : State) :
    (reloadPolicy sl i o s).xng = s.xng := by
  have reads (l : List PolicyGroup) := foldl_fst_xng
    (f := fun (acc : State × List (PolicyGroup × List Byte) × Bool) (g : PolicyGroup) =>
      let r := readMem whoSnap (regionBase sl o.staging + g.stage) (groupBytes i o g) acc.1
      (r.1, acc.2.1 ++ [(g, r.2.1)], acc.2.2 || r.2.2)) (fun p g => readMem_xng _ _ _ p.1) l (s, [], false)
  unfold reloadPolicy
  dsimp only
  split
  · exact (poisonStop_xng _).trans (reads _)
  · exact (foldl_xng (fun u g => writeStore_xng _ _ _ u) _ _).trans (reads _)

@[simp] theorem reloadPolicies_xng (A : Nat) (s : State) : (reloadPolicies A s).xng = s.xng := by
  unfold reloadPolicies
  dsimp only
  split
  · rfl
  · exact foldl_xng (fun u p => reloadPolicy_xng _ _ _ u) _ s

@[simp] theorem initStats_xng (sl : ImgSlot) (i : Image) (s : State) : (initStats sl i s).xng = s.xng := by
  unfold initStats
  dsimp only
  split
  · exact writeMem_xng _ _ _ s
  · exact (writeMem_xng _ _ _ _).trans (writeMem_xng _ _ _ s)

@[simp] theorem registerDone_xng (k : Nat) (s : State) : (registerDone k s).xng = s.xng := rfl

@[simp] theorem beginStart_xng (r : Option Nat) (s : State) : (beginStart r s).xng = s.xng := settleMode_xng _

/-! ### Replay (R387) -/

@[simp] theorem advanceReplay_xng (n : Nat) (s : State) : (advanceReplay n s).xng = s.xng := by
  induction n generalizing s with
  | zero => rfl
  | succ n ih =>
    unfold advanceReplay
    split
    · split
      · exact (ih _).trans ((beginIndex_xng _ _).trans (closeIndex_xng s))
      · exact raise_xng _ _ _ _
    · rfl

@[simp] theorem settleReplay_xng (s : State) : (settleReplay s).xng = s.xng := by
  have restored (sl : ImgSlot) (L : Nat) (u : State) : (residentStart L (restoreCopy sl u)).xng = u.xng :=
    (residentStart_xng _ _).trans (restoreCopy_xng sl u)
  unfold settleReplay
  split
  · refine (advanceReplay_xng _ _).trans ((beginIndex_xng _ _).trans ?_)
    dsimp only
    split
    · exact restored _ _ _
    · exact (reloadPolicies_xng _ _).trans (restored _ _ _)
  · exact advanceReplay_xng _ s

/-! ### Securing (R389 to R396) -/

@[simp] theorem requestSecuring_xng (s : State) : (requestSecuring s).xng = s.xng := by rw [aside_requestSecuring s]

@[simp] theorem drainAll_xng (s : State) : (drainAll s).xng = s.xng :=
  foldl_xng (fun u e => by rw [memAside_evictEntry e u]) _ s

@[simp] theorem readSecured_xng (sl : ImgSlot) (i : Image) (index tick : Nat) (emergency : Bool) (s : State) :
    (readSecured sl i index tick emergency s).1.xng = s.xng := by
  unfold readSecured
  dsimp only
  refine (foldl_fst_xng (fun p e => ?_) _ _).trans (readMem_xng _ _ _ s)
  split
  · rfl
  · exact readMem_xng _ _ _ p.1

@[simp] theorem secureWrite_xng (j : Securing) (d : SecDest) (off : Nat) (bs : List Byte) (s : State) :
    (secureWrite j d off bs s).xng = s.xng := by
  unfold secureWrite
  split
  · rfl
  · split
    · split
      · exact peerWrite_xng _ _ _ _ _ s
      · rfl
    · exact hostWrite_xng _ _ _ s

@[simp] theorem startStage_xng (j : Securing) (d : SecDest) (s : State) : (startStage j d s).xng = s.xng := by
  unfold startStage
  dsimp only
  split
  · exact secureWrite_xng _ _ _ _ s
  · split
    · exact secureWrite_xng _ _ _ _ s
    · exact foldl_xng (fun u w => secureWrite_xng _ _ _ _ u) _ s

@[simp] theorem setDest_xng (d : SecDest) (s : State) : (setDest d s).xng = s.xng := by
  unfold setDest
  split <;> rfl

@[simp] theorem destDone_xng (j : Securing) (d : SecDest) (s : State) : (destDone j d s).xng = s.xng := setDest_xng _ _

@[simp] theorem advanceDest_xng (d n : Nat) (s : State) : (advanceDest d n s).xng = s.xng := by
  induction n generalizing s with
  | zero => rfl
  | succ n ih =>
    unfold advanceDest
    split
    · rfl
    · split
      · rfl
      · split
        · rfl
        · split
          · exact destDone_xng _ _ s
          · exact (ih _).trans ((startStage_xng _ _ _).trans (setDest_xng _ s))

@[simp] theorem endSecuring_xng (s : State) : (endSecuring s).xng = s.xng := by
  unfold endSecuring
  split
  · rfl
  · split
    · rename_i j _ _
      extract_lets ok health ended noted answered
      have hnoted : noted.xng = s.xng := by
        unfold noted
        split
        · exact raise_xng _ _ _ ended
        · rfl
      have hanswered : answered.xng = s.xng := by
        refine (foldl_xng (fun u m => ?_) _ noted).trans hnoted
        split
        · exact complete_xng _ _ _ _ u
        · exact finish_xng _ _ u
      split
      · exact hanswered
      · split
        · exact (setMode_xng _ _).trans hanswered
        · exact hanswered
    · rfl

@[simp] theorem startSecuring_xng (index tick : Nat) (emergency : Bool) (s : State) :
    (startSecuring index tick emergency s).xng = s.xng := by
  have failed (u : State) : (secureRefused (finishAll .secure stIntegrity u)).xng = u.xng := finishAll_xng _ _ u
  have read (sl : ImgSlot) (i : Image) : (readSecured sl i index tick emergency (drainAll s)).1.xng = s.xng :=
    (readSecured_xng _ _ _ _ _ _).trans (drainAll_xng s)
  unfold startSecuring
  extract_lets sl fail
  split
  · exact failed s
  · rename_i i _
    split
    · exact failed s
    · specialize read sl i
      generalize readSecured sl i index tick emergency (drainAll s) = r at read
      obtain ⟨u, j⟩ := r
      dsimp only at read
      dsimp -zeta only
      extract_lets size noted health begun waiting securing
      split
      · exact (failed u).trans read
      · have hnoted : noted.xng = s.xng := by
          unfold noted
          split <;> exact (raise_xng _ _ _ u).trans read
        have hwaiting : waiting.xng = s.xng := (foldl_xng (fun v m => await_xng _ _ v) _ begun).trans hnoted
        have hsecuring : securing.xng = s.xng := by
          unfold securing
          split
          · exact hwaiting
          · exact (setMode_xng _ _).trans hwaiting
        exact (endSecuring_xng _).trans ((advanceDest_xng _ _ _).trans ((advanceDest_xng _ _ _).trans
          ((foldl_xng (fun v d => startStage_xng _ _ v) _ _).trans hsecuring)))

@[simp] theorem bindAnchor_xng (index n : Nat) (s : State) : (bindAnchor index n s).xng = s.xng := by
  have expired : (expireInterval n s).xng = s.xng := by
    unfold expireInterval
    split
    · exact (requestSecuring_xng _).trans (raise_xng _ _ _ _)
    · rfl
  unfold bindAnchor
  dsimp only
  split
  · split
    · exact (startSecuring_xng _ _ _ _).trans expired
    · exact expired
  · exact expired

@[simp] theorem commitAnchor_xng (index n : Nat) (s : State) : (commitAnchor index n s).xng = s.xng :=
  (bindAnchor_xng _ _ _).trans ((releaseHeld_xng _).trans ((takePosition_xng index n _).trans (takeCopy_xng _ s)))

/-! ### Contexts and region commands at a tick (R261, R265, R272) -/

@[simp] theorem serveFaults_xng (s : State) : (serveFaults s).xng = s.xng := by
  unfold serveFaults
  refine foldl_xng (fun u f => ?_) _ s
  split
  · extract_lets regions v
    split
    · exact pageFault_xng _ _ v
    · rfl
  · rfl

@[simp] theorem unparkAll_xng (s : State) : (unparkAll s).xng = s.xng :=
  (foldl_xng (fun _ _ => setCtx_xng _ _ _) _ _).trans rfl

@[simp] theorem settleContexts_xng (s : State) : (settleContexts s).xng = s.xng := by
  unfold settleContexts
  refine foldl_xng (fun u c => ?_) _ s
  dsimp only
  split <;> rfl

@[simp] theorem finishRgn_xng (via : Via) (status result : Nat) (s : State) : (finishRgn via status result s).xng = s.xng := by
  unfold finishRgn
  cases via with
  | mailbox m => exact complete_xng _ _ _ _ _
  | register => rfl

@[simp] theorem setPinned_xng (owner : Nat) (r : RegionD) (v : Bool) (s : State) : (setPinned owner r v s).xng = s.xng :=
  setTags_xng _ _ _

@[simp] theorem pinPages_xng (r : RegionD) (s : State) : (pinPages r s).xng = s.xng := by
  unfold pinPages
  refine foldl_xng (fun u p => ?_) _ s
  split
  · split
    · exact startMigration_xng _ _ u
    · rfl
  · rfl

@[simp] theorem pinStep_xng (j : RgnJob) (s : State) : (pinStep j s).xng = s.xng := by
  unfold pinStep
  split
  · exact finishRgn_xng _ _ _ s
  · extract_lets u
    split
    · exact (finishRgn_xng _ _ _ _).trans ((raise_xng _ _ _ _).trans ((setPinned_xng _ _ _ u).trans (pinPages_xng _ s)))
    · exact pinPages_xng _ s

@[simp] theorem startEvict_xng (e p : Nat) (s : State) : (startEvict e p s).xng = s.xng := by
  unfold startEvict
  extract_lets u t v r
  have hv : v.xng = s.xng := (flushPage_xng _ _).trans rfl
  have hr : r.1.xng = s.xng := (readMem_xng _ _ _ v).trans hv
  clear_value r
  exact (hostWrite_xng _ _ _ r.1).trans hr

@[simp] theorem evictStep_xng (j : RgnJob) (s : State) : (evictStep j s).xng = s.xng := by
  unfold evictStep
  extract_lets p
  split
  · split
    · split
      · extract_lets t u
        split
        · exact finishRgn_xng _ _ _ _
        · exact (finishRgn_xng _ _ _ _).trans (raise_xng _ _ _ _)
      · rfl
    · rfl
  · split
    · exact finishRgn_xng _ _ _ s
    · split
      · rfl
      · split
        · exact startEvict_xng _ _ s
        · rfl

@[simp] theorem advanceRegion_xng (s : State) : (advanceRegion s).xng = s.xng := by
  unfold advanceRegion
  split
  · split
    · exact evictStep_xng _ s
    · exact pinStep_xng _ s
  · rfl

/-! ### The lane pool at a tick (R196) -/

@[simp] theorem abortFlag_xng (use : HostUse) (x : Queue) (who pos : Nat) (s : State) :
    (abortFlag use x who pos s).1.xng = s.xng := by
  have hread := ownRead_xng use x.context.toNat who (descAddr x pos) 64 s
  unfold abortFlag
  split
  · rfl
  · generalize ownRead use x.context.toNat who (descAddr x pos) 64 s = r at hread ⊢
    obtain ⟨u, read⟩ := r
    cases read <;> exact hread

@[simp] theorem lncDrain_xng (q : Nat) (s : State) : (lncDrain q s).xng = s.xng := by
  have aborted (x : Queue) (l : List Nat) (u : State) : (l.foldl (fun s i =>
      if ((lncQ s q).finished.isEmpty && (lncQ s q).head.toNat == (x.head.toNat + i) % 2 ^ 32) = true then
        match abortFlag (.launch q) x (whoLane 0) ((x.head.toNat + i) % 2 ^ 32) s with
        | (s, some irq) => completeLaunch q ((x.head.toNat + i) % 2 ^ 32) 0
            (laneRecord ((x.head.toNat + i) % 2 ^ 32) 6 0 0 0 0) irq s
        | (s, none) => s
      else s) u).xng = u.xng := by
    refine foldl_xng (fun v i => ?_) l u
    have hflag := abortFlag_xng (.launch q) x (whoLane 0) ((x.head.toNat + i) % 2 ^ 32) v
    split
    · generalize abortFlag (.launch q) x (whoLane 0) ((x.head.toNat + i) % 2 ^ 32) v = r at hflag ⊢
      obtain ⟨w, irq⟩ := r
      cases irq with
      | none => exact hflag
      | some irq => exact (completeLaunch_xng _ _ _ _ _ w).trans hflag
    · rfl
  have ended (l : List (Nat × Nat × List Byte × Bool)) (u : State) : (l.foldl (fun s f =>
      if f.1 = (lncQ s q).head.toNat then completeLaunch q f.1 f.2.1 f.2.2.1 f.2.2.2 s else s) u).xng = u.xng := by
    refine foldl_xng (fun v f => ?_) l u
    split
    · exact completeLaunch_xng _ _ _ _ _ v
    · rfl
  unfold lncDrain
  extract_lets x recorded y n drained z
  have hrecorded : recorded.xng = s.xng := ended _ s
  have hdrained : drained.xng = s.xng := (aborted y _ recorded).trans hrecorded
  split
  · split
    · exact hdrained
    · exact hdrained
  · exact hrecorded

@[simp] theorem failLaunch_xng (q pos islet status : Nat) (irq : Bool) (s : State) :
    (failLaunch q pos islet status irq s).xng = s.xng := completeLaunch_xng _ _ _ _ _ _

@[simp] theorem placeKernel_xng (q : Nat) (k : LaneKernel) (v : CheckVerdict) (s : State) :
    (placeKernel q k v s).1.xng = s.xng := by
  unfold placeKernel
  split
  · rfl
  · exact failLaunch_xng _ _ _ _ _ _
  · exact (failLaunch_xng _ _ _ _ _ _).trans (refusePage_xng _ _ _ s)
  · exact workFault_xng _ _ _ s
  · rfl

@[simp] theorem suspendKernel_xng (q : Nat) (k : LaneKernel) (s : State) : (suspendKernel q k s).xng = s.xng :=
  ownWrite_xng _ _ _ _ _ s

/-! ### Maintenance crossings (R31, R242) -/

@[simp] theorem takeFrom_xng (l : List MarginScan) (s : State) : (takeFrom l s).xng = s.xng := by
  induction l generalizing s with
  | nil => rfl
  | cons x r ih =>
    unfold takeFrom
    split
    · refine (ih _).trans ?_
      split
      · exact finish_xng _ _ s
      · rfl
    · rfl

@[simp] theorem startMaint_xng (s : State) : (startMaint s).xng = s.xng := by
  have calibrating (l : List Nat) (u : State) : (l.foldl (fun s k => setChan k { chan s k with busy := true } s) u).xng = u.xng :=
    foldl_xng (fun _ _ => setChan_xng _ _ _) l u
  unfold startMaint takeScan
  split
  · exact (takeFrom_xng _ _).trans (calibrating _ _)
  · exact calibrating _ _

/-- A launch's read leaves the XNG_ registers to what goes on with its bytes. -/
theorem launchRead_xng {next : List Byte → State → State × LaunchRead} (hnext : ∀ bs u, (next bs u).1.xng = u.xng)
    (q islet a n : Nat) (irq : Bool) (s : State) : (launchRead q islet a n irq next s).1.xng = s.xng := by
  unfold launchRead
  extract_lets c
  split
  · exact hnext [] s
  · have hread := ownRead_xng (.launch q) c (whoLane islet) a n s
    generalize ownRead (.launch q) c (whoLane islet) a n s = r at hread ⊢
    obtain ⟨u, read⟩ := r
    cases read with
    | data bs poison => exact (hnext bs u).trans hread
    | bound => exact hread
    | denied p lock => exact (refusePage_xng _ _ _ u).trans hread
    | fault p => exact hread
    | wait => exact hread

@[simp] theorem readLaunch_xng (q pos islet : Nat) (s : State) : (readLaunch q pos islet s).1.xng = s.xng := by
  unfold readLaunch
  extract_lets x c
  refine launchRead_xng (fun d u => ?_) _ _ _ _ _ s
  extract_lets irq
  split
  · rfl
  · split
    · rfl
    · refine launchRead_xng (fun cb v => ?_) _ _ _ _ _ u
      refine launchRead_xng (fun rb w => ?_) _ _ _ _ _ v
      extract_lets words
      split
      · rfl
      · split <;> rfl

@[simp] theorem offerIslet_xng (q islet : Nat) (s : State) : (offerIslet q islet s).1.xng = s.xng := by
  unfold offerIslet
  extract_lets x
  split
  · rfl
  · split
    · exact placeKernel_xng _ _ _ s
    · split
      · have hread := readLaunch_xng q x.head.toNat islet s
        generalize readLaunch q x.head.toNat islet s = r at hread ⊢
        obtain ⟨u, read⟩ := r
        cases read with
        | failed st irq => exact (failLaunch_xng _ _ _ _ _ _).trans hread
        | fault p => exact (workFault_xng _ _ _ u).trans hread
        | wait => exact hread
        | checked v k => exact (placeKernel_xng _ _ _ _).trans hread
      · rfl

@[simp] theorem placeFree_xng (s : State) : (placeFree s).xng = s.xng := by
  unfold placeFree
  extract_lets drained need now suspended free busy order
  have hdrained : drained.xng = s.xng := foldl_xng (fun u q => lncDrain_xng q u) _ s
  have hsuspended : suspended.xng = s.xng := by
    refine (foldl_xng (fun u k => ?_) _ drained).trans hdrained
    split
    · exact suspendKernel_xng _ _ u
    · rfl
  split
  · exact hsuspended
  · refine (foldl_fst_xng (fun acc q => ?_) order (suspended, free)).trans hsuspended
    obtain ⟨u, islets⟩ := acc
    cases islets with
    | nil => rfl
    | cons n rest =>
      have hoffer := offerIslet_xng q n u
      dsimp only
      generalize offerIslet q n u = r at hoffer ⊢
      obtain ⟨v, taken⟩ := r
      cases taken <;> exact hoffer

/-- What follows the unit at every tick changes no register of the clock. -/
@[simp] theorem settleTick_xng (s : State) : (settleTick s).xng = s.xng := by
  simp [settleTick]

end Sys2Proof.Machine
end

section
/-! The tick of the crossing clock (R17, R18, R21, R47, R48, R349): what its parts leave of the clock's own registers. -/

namespace Sys2Proof.Machine

/-- The tick's own registers, the ring's and the size are the same in two states, and so are the role and the announced size, unless
the module has become solo. -/
structure ClockKept (s t : State) : Prop where
  tick : t.xng.tick = s.xng.tick
  tickCycle : t.xng.tickCycle = s.xng.tickCycle
  current : t.xng.current = s.xng.current
  armed : t.xng.armed = s.xng.armed
  ringEn : t.xng.ringEn = s.xng.ringEn
  ringWp : t.xng.ringWp = s.xng.ringWp
  sizeM1 : t.xng.sizeM1 = s.xng.sizeM1
  group : t.xng.role = s.xng.role ∧ t.xng.sizeNext = s.xng.sizeNext ∨ t.xng.role = .solo

namespace ClockKept
variable {s t u : State}

theorem of_xng (h : t.xng = s.xng) : ClockKept s t := by
  constructor <;> simp [h]

theorem refl (s : State) : ClockKept s s := of_xng rfl

theorem trans (h : ClockKept s t) (k : ClockKept t u) : ClockKept s u where
  tick := k.tick.trans h.tick
  tickCycle := k.tickCycle.trans h.tickCycle
  current := k.current.trans h.current
  armed := k.armed.trans h.armed
  ringEn := k.ringEn.trans h.ringEn
  ringWp := k.ringWp.trans h.ringWp
  sizeM1 := k.sizeM1.trans h.sizeM1
  group := by
    rcases k.group with ⟨hrole, hsize⟩ | hsolo
    · rcases h.group with ⟨hrole', hsize'⟩ | hsolo'
      · exact .inl ⟨hrole.trans hrole', hsize.trans hsize'⟩
      · exact .inr (hrole.trans hsolo')
    · exact .inr hsolo

/-- An update of other registers of the clock. -/
theorem of_update (htick : t.xng.tick = s.xng.tick := by rfl) (hcycle : t.xng.tickCycle = s.xng.tickCycle := by rfl)
    (hcurrent : t.xng.current = s.xng.current := by rfl) (harmed : t.xng.armed = s.xng.armed := by rfl)
    (hringEn : t.xng.ringEn = s.xng.ringEn := by rfl) (hringWp : t.xng.ringWp = s.xng.ringWp := by rfl)
    (hsize : t.xng.sizeM1 = s.xng.sizeM1 := by rfl) (hrole : t.xng.role = s.xng.role := by rfl)
    (hnext : t.xng.sizeNext = s.xng.sizeNext := by rfl) : ClockKept s t :=
  ⟨htick, hcycle, hcurrent, harmed, hringEn, hringWp, hsize, .inl ⟨hrole, hnext⟩⟩

/-- What comes after something else. -/
theorem after (k : ClockKept t u) (h : ClockKept s t) : ClockKept s u := h.trans k

theorem foldl {α : Type} {f : State → α → State} (h : ∀ s x, ClockKept s (f s x)) (l : List α) (s : State) :
    ClockKept s (l.foldl f s) := by
  induction l generalizing s with
  | nil => exact refl s
  | cons x r ih => exact (h s x).trans (ih _)

/-- A module of a group whose clock was kept has been in it. -/
theorem of_grouped (h : ClockKept s t) (hg : grouped t = true) : t.xng.role = s.xng.role ∧ t.xng.sizeNext = s.xng.sizeNext := by
  rcases h.group with hsame | hsolo
  · exact hsame
  · simp [grouped, hsolo] at hg

end ClockKept

/-! ### Time and stopping -/

theorem clockKept_pass (d : Nat) (s : State) : ClockKept s (pass d s) := by
  unfold pass
  split
  · exact .refl s
  · dsimp only
    split <;> exact .of_update

theorem clockKept_passCycle (n : Nat) (s : State) : ClockKept s (passCycle n s) := clockKept_pass _ s

theorem clockKept_cancelSwitch (s : State) : ClockKept s (cancelSwitch s) := by
  unfold cancelSwitch
  split
  · exact .after (.of_xng (raise_xng _ _ _ _)) .of_update
  · exact .refl s

theorem clockKept_enterStopping (s : State) : ClockKept s (enterStopping s) := by
  unfold enterStopping
  split
  · exact .after (clockKept_cancelSwitch _) (.of_xng rfl)
  · exact .after (.of_xng ((finishAll_xng _ _ _).trans (finishAll_xng _ _ _)))
      (.after (clockKept_cancelSwitch _) (.of_xng rfl))
  · exact .of_xng rfl

theorem clockKept_becomeStopped (s : State) : ClockKept s (becomeStopped s) := by
  unfold becomeStopped
  refine .after (.of_xng ((settleMode_xng _).trans ((finishAll_xng _ _ _).trans (releaseHeld_xng _)))) ?_
  exact .after .of_update (.of_xng (unlockPages_xng (slotPages (actSlot s)) s))

theorem clockKept_timetableEnds (s : State) : ClockKept s (timetableEnds s) :=
  (clockKept_becomeStopped s).trans (.of_xng (raise_xng _ _ _ _))

theorem clockKept_switchFails (s : State) : ClockKept s (switchFails s) :=
  (clockKept_timetableEnds s).trans (.of_xng (raise_xng _ _ _ _))

theorem becomeSolo_role (s : State) : (becomeSolo s).xng.role = .solo := rfl

theorem clockKept_becomeSolo (s : State) : ClockKept s (becomeSolo s) := ⟨rfl, rfl, rfl, rfl, rfl, rfl, rfl, .inr rfl⟩

theorem clockKept_groupFaultWith (code : Nat) (s : State) : ClockKept s (groupFaultWith code s) := by
  unfold groupFaultWith
  refine .after (clockKept_becomeSolo _) (.after (.of_xng ((eventIrq_xng _ _ _).trans (raise_xng _ _ _ _))) ?_)
  exact (clockKept_enterStopping s).trans .of_update

/-! ### The outcome of a tick -/

theorem clockKept_missDecision (s : State) : ClockKept s (missDecision s) :=
  .after (.of_xng (raise_xng _ _ _ _)) .of_update

theorem clockKept_applyDecision (d : Decision) (s : State) : ClockKept s (applyDecision d s).1 := by
  unfold applyDecision
  extract_lets own x begun stopped inStep
  have hbegun : ClockKept s begun := .of_update
  have hinStep (u : State) (hu : ClockKept s u) : ClockKept s (inStep u) :=
    hu.trans .of_update
  have hstopped : ClockKept s stopped := by
    unfold stopped
    split
    · exact hbegun.trans (clockKept_enterStopping _)
    · exact hbegun
  split
  · exact hbegun.trans (clockKept_groupFaultWith _ _)
  · split
    · exact hinStep _ hstopped
    · split
      · exact hinStep _ hstopped
      · split
        · exact hinStep _ hstopped
        · exact hstopped.trans (clockKept_groupFaultWith _ _)

theorem clockKept_tickVerdict (s : State) : ClockKept s (tickVerdict s).1 := by
  unfold tickVerdict
  split
  · split
    · exact clockKept_applyDecision _ s
    · exact clockKept_missDecision s
  · split
    · exact .refl s
    · split <;> exact .of_update

theorem clockKept_heldVerdict (s : State) : ClockKept s (heldVerdict s).1 := by
  have hverdict : ClockKept s (tickVerdict { s with ttu := { s.ttu with replay := true } }).1 :=
    .after (clockKept_tickVerdict _) (.of_xng rfl)
  unfold heldVerdict
  generalize tickVerdict { s with ttu := { s.ttu with replay := true } } = r at hverdict ⊢
  obtain ⟨u, v⟩ := r
  exact hverdict.trans (.of_xng rfl)

theorem clockKept_hitVerdict (s : State) : ClockKept s (hitVerdict s).1 := by
  unfold hitVerdict
  split
  · split
    · exact .of_update
    · exact clockKept_heldVerdict s
  · exact clockKept_heldVerdict s

theorem clockKept_startReplay (s : State) : ClockKept s (startReplay s) := by
  unfold startReplay
  split
  · have hstopping : ClockKept s (enterStopping { s with ttu := { s.ttu with replay := false, replayDue := false } }) :=
      .after (clockKept_enterStopping _) (.of_xng rfl)
    exact .after .of_update hstopping
  · exact .of_xng ((settleReplay_xng _).trans (raise_xng _ _ _ s))

theorem clockKept_unitTick (s : State) : ClockKept s (unitTick s).1 := by
  unfold unitTick
  extract_lets faulted replaced stop hit stopping
  have hreplaced : ClockKept s replaced := by
    unfold replaced
    split
    · exact .of_xng (replaceFaulted_xng s)
    · exact .refl s
  have hstopping : ClockKept s stopping := by
    unfold stopping
    split
    · exact hreplaced.trans (clockKept_enterStopping _)
    · exact hreplaced
  have hverdict : ClockKept s (if hit = true then hitVerdict stopping else tickVerdict stopping).1 := by
    split
    · exact hstopping.trans (clockKept_hitVerdict _)
    · exact hstopping.trans (clockKept_tickVerdict _)
  generalize (if hit = true then hitVerdict stopping else tickVerdict stopping) = r at hverdict ⊢
  obtain ⟨u, v⟩ := r
  dsimp only
  split
  · exact hverdict.trans (clockKept_startReplay _)
  · exact hverdict

/-! ### Advancing and starting -/

theorem clockKept_stopForSwitch (s : State) : ClockKept s (stopForSwitch s) := by
  unfold stopForSwitch
  exact (clockKept_becomeStopped s).trans (.of_xng (setTags_xng _ _ _))

theorem clockKept_applySwitch (atAnchor : Bool) (s : State) : ClockKept s (applySwitch atAnchor s) := by
  unfold applySwitch
  split
  · exact .refl s
  · refine .after (.of_xng ((beginStart_xng _ _).trans ((raise_xng _ _ _ _).trans (setSlot_xng _ _ _)))) ?_
    exact .after (clockKept_stopForSwitch _) (.of_xng rfl)

theorem clockKept_openNext (index : Nat) (s : State) : ClockKept s (openNext index s) := by
  unfold openNext
  extract_lets sl released
  have hreleased : ClockKept s released := .of_xng rfl
  split
  · exact .refl s
  · split
    · split
      · exact hreleased.trans (clockKept_applySwitch _ _)
      · split
        · exact hreleased.trans (clockKept_switchFails _)
        · exact hreleased.trans (clockKept_timetableEnds _)
    · exact .after (.of_xng (beginIndex_xng _ _)) .of_update

theorem clockKept_advanceTick (n : Nat) (s : State) : ClockKept s (advanceTick n s) := by
  unfold advanceTick
  extract_lets c anchor x begun switch closed committed
  have hbegun : ClockKept s begun := by
    unfold begun
    split
    · exact .refl s
    · exact .of_update
  have hswitch (u : State) : ClockKept u (switch u) :=
    .after (clockKept_applySwitch _ _) .of_update
  have hclosed : ClockKept s closed := hbegun.trans (.of_xng (closeIndex_xng _))
  have hcommitted : ClockKept s committed := by
    unfold committed
    split
    · exact hclosed.trans (.of_xng (commitAnchor_xng _ _ _))
    · exact hclosed
  split
  · exact hbegun.trans (hswitch _)
  · split
    · split
      · exact hcommitted.trans (.of_xng rfl)
      · exact hcommitted.trans (hswitch _)
    · split
      · exact hcommitted.trans (clockKept_switchFails _)
      · exact hcommitted.trans (clockKept_openNext _ _)

theorem clockKept_openStart (s : State) : ClockKept s (openStart s) := by
  unfold openStart
  extract_lets sl
  split
  · exact .refl s
  · rename_i opened xng zeroed noted _ _ _
    extract_lets resident loaded started
    have hopened : ClockKept s opened := .of_update
    have hzeroed : ClockKept s zeroed := by
      unfold zeroed
      split
      · exact hopened.trans .of_update
      · exact hopened
    have hnoted : ClockKept s noted := by
      unfold noted
      split
      · exact hzeroed.trans (.of_xng (raise_xng _ _ _ _))
      · exact hzeroed
    have hloaded : ClockKept s loaded := by
      refine hnoted.trans (.of_xng ?_)
      unfold loaded
      split
      · exact (initStats_xng _ _ _).trans (residentStart_xng _ noted)
      · exact (reloadPolicies_xng _ _).trans (residentStart_xng _ noted)
    have hstarted : ClockKept s started := by
      unfold started
      split
      · exact hloaded
      · exact hloaded.trans (.of_xng (raise_xng _ _ _ _))
    exact hstarted.trans (.of_xng ((beginIndex_xng _ _).trans ((finishAll_xng _ _ _).trans (finishAll_xng _ _ _))))

theorem clockKept_openTick (n : Nat) (v : Verdict) (s : State) : ClockKept s (openTick n v s) := by
  unfold openTick
  split
  · split
    · exact clockKept_advanceTick n s
    · exact .refl s
  · split
    · exact clockKept_openStart s
    · split
      · exact clockKept_applySwitch _ s
      · exact .refl s

theorem clockKept_openCrossingKind (slack : Bool) (s : State) : ClockKept s (openCrossingKind slack s) := by
  unfold openCrossingKind
  extract_lets idle own mem settled mine xng classed
  have hsettled : ClockKept s settled := by
    unfold settled
    split
    · exact .of_xng rfl
    · exact .refl s
  have hclassed : ClockKept s classed := hsettled.trans .of_update
  split
  · exact hclassed.trans (.of_xng (startMaint_xng _))
  · exact hclassed

theorem clockKept_takeCompletion (step at_ : Nat) (s : State) : ClockKept s (takeCompletion step at_ s) := by
  unfold takeCompletion
  extract_lets passed wait registered
  have hregistered : ClockKept s registered := by
    unfold registered
    split
    · exact .after (.of_xng (registerDone_xng _ _)) (clockKept_passCycle at_ s)
    · exact clockKept_passCycle at_ s
  split
  · exact hregistered.trans (.of_xng ((settleReplay_xng _).trans (goOn_xng _ _)))
  · exact hregistered

theorem clockKept_takeAhead (s : State) : ClockKept s (takeAhead s) := by
  have completed (due later : List (Nat × Nat)) : ClockKept s
      (due.foldl (fun s e => takeCompletion e.1 e.2 s) { s with ttu := { s.ttu with ahead := later } }) := by
    refine .after (ClockKept.foldl (fun u e => ?_) due _) (.of_xng rfl)
    exact clockKept_takeCompletion e.1 e.2 u
  exact completed _ _

/-! ### TICK -/

/-- The closing crossing's record moves the ring's write pointer by one where RING_EN is 1, and no other register of the tick (R48). -/
theorem closeRecord_xng (v : Verdict) (x : Closing) (s : State) :
    ∃ e, (closeRecord v x s).xng
      = { s.xng with elapsed := e, ringWp := if s.xng.ringEn then s.xng.ringWp + 1 else s.xng.ringWp } := by
  unfold closeRecord
  extract_lets carried xng ttu closed
  refine ⟨closed.xng.elapsed, ?_⟩
  by_cases hring : s.xng.ringEn = true
  · rw [if_pos (show closed.xng.ringEn = true from hring), if_pos hring]
    exact congrArg (fun y : Xng => { y with ringWp := y.ringWp + 1 }) (writeMem_xng _ _ _ closed)
  · rw [if_neg (show ¬ closed.xng.ringEn = true from hring), if_neg hring]

/-- The registers that tick n, cycle T, sets (R18, R21, R349), and those that it leaves. -/
theorem clockTick_xng (n T : Nat) (s : State) :
    (clockTick n T s).xng.tick = BitVec.ofNat 64 n ∧ (clockTick n T s).xng.tickCycle = BitVec.ofNat 64 T
      ∧ ((clockTick n T s).xng.current = match s.xng.armed with
        | some (p, a) => if a ≤ n then BitVec.ofNat 26 p else s.xng.current
        | none => s.xng.current)
      ∧ (clockTick n T s).xng.ringWp = s.xng.ringWp ∧ (clockTick n T s).xng.role = s.xng.role
      ∧ ∀ k m, s.xng.sizeNext = some (k, m) → k ≤ n → (clockTick n T s).xng.sizeM1 = BitVec.ofNat 10 m := by
  refine ⟨rfl, rfl, ?_, rfl, rfl, fun k m hnext hdue => ?_⟩
  · simp only [clockTick]
    cases s.xng.armed with
    | none => rfl
    | some p => obtain ⟨p, a⟩ := p; dsimp only; split <;> rfl
  · simp only [clockTick, hnext, if_pos hdue]

/-- What follows the clock's own registers at tick n, by the unit's verdict and whether the crossing that it opens is slack. -/
def afterClock (n : Nat) (v : Verdict) (slack : Bool) (s : State) : State :=
  let s := openCrossingKind slack (openTick n v s)
  let s := if s.ttu.func = .stopped then { s with xng := { s.xng with stopping := false } } else s
  settleTick (takeAhead s)

/-- What follows the clock's own registers at a tick leaves them. -/
theorem clockKept_afterClock (n : Nat) (v : Verdict) (slack : Bool) (s : State) :
    ClockKept s (afterClock n v slack s) := by
  refine .after (.of_xng (settleTick_xng _)) (.after (clockKept_takeAhead _) ?_)
  have hopened : ClockKept s (openCrossingKind slack (openTick n v s)) :=
    (clockKept_openTick n v s).trans (clockKept_openCrossingKind slack _)
  split
  · exact hopened.trans .of_update
  · exact hopened

/-- TICK of the running clock, by its parts (R18). -/
theorem exec_tick_of {s u : State} {v : Verdict} {x : Closing} (hrun : s.xng.running = true)
    (hx : closingOf (passCycle (nextTickCycle s) s) = x) (hu : unitTick (passCycle (nextTickCycle s) s) = (u, v)) :
    exec .tick s = .next (afterClock (s.xng.tick.toNat + 1) v ((closeRecord v x u).ttu.func == .running && v != .advance)
      (clockTick (s.xng.tick.toNat + 1) (nextTickCycle s) (closeRecord v x u))) := by
  subst hx
  have htick : exec .tick s = execTick s := rfl
  rw [htick, execTick, if_pos hrun]
  simp only [hu]
  rfl

/-- A tick of the running clock: the registers of the clock are those of `clockTick`, the ring's pointer moves by the record of the
closing crossing, and a module still in its group takes the size announced for the tick. -/
theorem exec_tick_running {s : State} (hrun : s.xng.running = true) :
    ∃ t, exec .tick s = .next t
      ∧ t.xng.tick = BitVec.ofNat 64 (s.xng.tick.toNat + 1)
      ∧ t.xng.tickCycle = BitVec.ofNat 64 (nextTickCycle s)
      ∧ (t.xng.current = match s.xng.armed with
        | some (p, a) => if a ≤ s.xng.tick.toNat + 1 then BitVec.ofNat 26 p else s.xng.current
        | none => s.xng.current)
      ∧ t.xng.ringWp = (if s.xng.ringEn then s.xng.ringWp + 1 else s.xng.ringWp)
      ∧ (grouped t = true → ∀ k m, s.xng.sizeNext = some (k, m) → k ≤ s.xng.tick.toNat + 1 → t.xng.sizeM1 = BitVec.ofNat 10 m) := by
  have hunit : ClockKept s (unitTick (passCycle (nextTickCycle s) s)).1 :=
    (clockKept_passCycle _ s).trans (clockKept_unitTick _)
  generalize hx : closingOf (passCycle (nextTickCycle s) s) = x
  generalize hr : unitTick (passCycle (nextTickCycle s) s) = r at hunit
  obtain ⟨u, v⟩ := r
  obtain ⟨e, hclosed⟩ := closeRecord_xng v x u
  refine ⟨_, exec_tick_of hrun hx hr, ?_⟩
  generalize closeRecord v x u = w at hclosed ⊢
  have hafter := clockKept_afterClock (s.xng.tick.toNat + 1) v (w.ttu.func == .running && v != .advance)
    (clockTick (s.xng.tick.toNat + 1) (nextTickCycle s) w)
  obtain ⟨htick, hcycle, hcurrent, hring, hrole, hsize⟩ := clockTick_xng (s.xng.tick.toNat + 1) (nextTickCycle s) w
  refine ⟨hafter.tick.trans htick, hafter.tickCycle.trans hcycle, ?_, ?_, fun hgrouped k m hnext hdue => ?_⟩
  · refine hafter.current.trans (hcurrent.trans ?_)
    rw [hclosed]
    dsimp only
    rw [hunit.armed, hunit.current]
  · refine hafter.ringWp.trans (hring.trans ?_)
    rw [hclosed]
    dsimp only
    rw [hunit.ringEn, hunit.ringWp]
  · refine hafter.sizeM1.trans (hsize k m ?_ hdue)
    have hin : grouped u = true := by
      obtain ⟨hsame, -⟩ := hafter.of_grouped hgrouped
      rw [hrole, hclosed] at hsame
      simpa only [grouped, hsame] using hgrouped
    rw [hclosed]
    exact (hunit.of_grouped hin).2.trans hnext

/-! ### Overrun and alignment (R29, R42, R43) -/

theorem exec_overrun (s : State) : exec .overrun s = execOverrun s := rfl
theorem exec_crossingMarker (bs : List Byte) (s : State) : exec (.crossingMarker bs) s = execCrossingMarker bs s := rfl

/-- The overrun fault, recorded and signalled (R29). -/
def overrunFault (s : State) : State :=
  eventIrq 0x0101 0 (raise 0x0101 noSubject [] { s with xng := { s.xng with overrunRaised := true, overrun := true } })

/-- OVERRUN of a run whose slack has passed 64 crossings stops a solo unit under OVR_STOP (R29, R30). -/
theorem exec_overrun_due {s : State} (hslack : 65 ≤ s.xng.slackRun.toNat) (honce : s.xng.overrunRaised = false)
    (hstep : grouped s = true → s.xng.missed = 0) :
    exec .overrun s = .next (if s.xng.role = .solo ∧ s.xng.ovrStop = true then enterStopping (overrunFault s) else overrunFault s) := by
  have hdue : exec .overrun s = .next (if (overrunFault s).xng.role = .solo ∧ (overrunFault s).xng.ovrStop = true
      then enterStopping (overrunFault s) else overrunFault s) := by
    rw [exec_overrun, execOverrun, if_pos ⟨hslack, honce, hstep⟩]
    rfl
  have hxng : (overrunFault s).xng = { s.xng with overrunRaised := true, overrun := true } :=
    (eventIrq_xng _ _ _).trans (raise_xng _ _ _ _)
  rw [hdue, hxng]

/-- The one cycle by which a marker moves the next tick, against the offset (R42). -/
def slewToward (off : Int) : Int := if off = 0 then 0 else if 0 < off then -1 else 1

theorem slewToward_bounded (off : Int) : -1 ≤ slewToward off ∧ slewToward off ≤ 1 := by
  unfold slewToward
  split_ifs <;> omega

theorem slewToward_opposes (off : Int) : slewToward off * off ≤ 0 := by
  unfold slewToward
  split_ifs <;> omega

theorem slewToward_ne_zero {off : Int} (h : off ≠ 0) : slewToward off ≠ 0 := by
  rw [slewToward, if_neg h]
  split_ifs <;> decide

/-- A marker that is valid sets the offset that it shows, and the slew toward it (R42, R349). -/
theorem exec_crossingMarker_valid {s : State} {bs : List Byte} (hrole : s.xng.role ≠ .solo) (hok : markerOk bs s = true) {off : Int}
    (hoff : off = (s.xng.tickCycle.toNat + s.xng.current.toNat : Int)
      - (s.xng.cycle.toNat + fld bs 12 4 + Config.markerLatency)) :
    exec (.crossingMarker bs) s = .next { s with xng := { s.xng with
      offset := off, unmarked := 0, holdover := false, slew := slewToward off } } := by
  have hcast : off = ((s.xng.tickCycle.toNat + s.xng.current.toNat : Nat) : Int)
      - (s.xng.cycle.toNat + fld bs 12 4 + Config.markerLatency : Nat) := by
    rw [hoff]
    push_cast
    rfl
  rw [exec_crossingMarker, execCrossingMarker, if_neg (by simp [hrole, hok])]
  dsimp only
  rw [← hcast]
  rfl

/-- Settles O12: the tick by what its parts leave of the clock's own registers, each fault and the marker by its guard. -/
theorem ticksAndClockFaults : Obligations.TicksAndClockFaults := by
  unfold Obligations.TicksAndClockFaults
  refine ⟨fun s hrun => exec_tick_running hrun, fun s => ⟨fun hslack honce hstep => ?overrun, fun hrole hfour hfirst => ?holdover,
    fun hlong => ?alignLost, fun bs hrole hcode hgroup hzero hcrc hmin hmax htick => ?marker⟩⟩
  case overrun =>
    intro t
    exact exec_overrun_due hslack honce hstep
  case holdover => exact if_pos ⟨hrole, hfour, hfirst⟩
  case alignLost => exact if_pos hlong
  case marker =>
    have hnext : (!grouped s || fld bs 4 8 == s.xng.tick.toNat + 1) = true := by
      cases hg : grouped s with
      | false => rfl
      | true => simpa using htick hg
    have hok : markerOk bs s = true := by
      simp only [markerOk, hnext, hcode, hgroup, hzero, ← hcrc, hmin, hmax, beq_self_eq_true, decide_true, Bool.and_true]
    intro off
    obtain ⟨hlow, hhigh⟩ := slewToward_bounded off
    exact ⟨slewToward off, exec_crossingMarker_valid hrole hok rfl, hlow, hhigh, slewToward_opposes off, slewToward_ne_zero⟩

end Sys2Proof.Machine
end

section
/-! Formation, join, leave and dissolution (R33, R44, R45, R349, R368): tick, role and size. -/

namespace Sys2Proof.Machine

/-! ### What leaves on the crossing port and what completes -/

@[simp] theorem sendCross_xng (bs : List Byte) (s : State) : (sendCross bs s).xng = s.xng := by
  unfold sendCross
  split
  · exact sendTxn_xng _ _ _ _
  · rfl

@[simp] theorem emitProbe_xng (echo : Bool) (rank latency : Nat) (s : State) : (emitProbe echo rank latency s).xng = s.xng :=
  sendCross_xng _ _

/-- The lead's new measurement forgets the latencies of the last one (R37). -/
theorem remeasure_xng (s : State) : (remeasure s).xng = { s.xng with latencies := [] } :=
  foldl_xng (fun _ _ => emitProbe_xng _ _ _ _) _ _

/-- Mailboxes that complete leave the group as it is. -/
theorem completeAll_xng (ms rs : List Nat) (s : State) : (ms.foldl (fun s m => complete m stOk rs [] s) s).xng = s.xng :=
  foldl_xng (fun _ _ => complete_xng _ _ _ _ _) ms s

/-- A group fault leaves GROUP_FAULT set and the module SOLO (R41). -/
theorem groupFaultWith_xng (code : Nat) (s : State) :
    (groupFaultWith code s).xng.role = .solo ∧ (groupFaultWith code s).xng.groupFault = true := by
  refine ⟨rfl, ?_⟩
  have hrecorded : (eventIrq code 0 (raise code noSubject []
      { enterStopping s with xng := { (enterStopping s).xng with groupFault := true } })).xng.groupFault = true :=
    congrArg Xng.groupFault ((eventIrq_xng _ _ _).trans (raise_xng _ _ _ _))
  exact hrecorded

/-! ### Formation (R33) -/

/-- At the formation tick XNG_TICK is 0 and the module takes its role (R33). -/
theorem exec_groupFormed_due {s : State} {k : Nat} (hform : s.xng.formTick = some k) (hdue : k ≤ s.xng.tick.toNat) :
    exec .groupFormed s = .next ((waiters s .form).foldl (fun s m => complete m stOk [k] [] s)
      { s with xng := { s.xng with
        tick := 0, formTick := none, role := if s.xng.members = [] then .member else .lead, voted := false
        decided := none, decision := none, missed := 0, groupWas := none } }) := by
  have hexec : exec .groupFormed s = execGroupFormed s := rfl
  rw [hexec, execGroupFormed, hform]
  dsimp only
  rw [if_pos hdue]
  cases s.xng.members <;> rfl

/-! ### Joins (R44) -/

theorem exec_memberJoined (rank : Nat) (s : State) : exec (.memberJoined rank) s = execMemberJoined rank s := rfl

/-- The joiner at its effective tick: MEMBER, with the group's tick, index and size (R44). -/
def joinedGroup (c : MemberChange) (s : State) : State :=
  raise 0x0107 noSubject [] { s with xng := { s.xng with
    joins := dropFirst c s.xng.joins, role := .member, tick := BitVec.ofNat 64 c.gtick, voted := false, missed := 0
    sizeM1 := BitVec.ofNat 10 c.sizeM1, groupWas := none
    index := BitVec.ofNat 48 ((s.xng.decision.map (·.index)).getD s.xng.index.toNat) } }

theorem exec_memberJoined_joiner {s : State} {c : MemberChange} (hdue : dueChange s true c.rank = some c)
    (hrole : s.xng.role = .joining) (hrank : c.rank = s.xng.rank.toNat) (haligned : 256 ≤ s.xng.onTicks) :
    exec (.memberJoined c.rank) s = .next
      ((waiters (joinedGroup c s) .join).foldl (fun s m => complete m stOk [c.gtick] [] s) (joinedGroup c s)) := by
  rw [exec_memberJoined, execMemberJoined, hdue]
  dsimp only
  rw [if_pos hrole, if_pos ⟨hrank, haligned⟩]
  rfl

theorem joinedGroup_xng (c : MemberChange) (s : State) :
    (joinedGroup c s).xng.role = .member ∧ (joinedGroup c s).xng.tick = BitVec.ofNat 64 c.gtick
      ∧ (joinedGroup c s).xng.sizeM1 = BitVec.ofNat 10 c.sizeM1 := by
  refine ⟨?_, ?_, ?_⟩ <;> simp only [joinedGroup, raise_xng]

theorem exec_memberJoined_others {s : State} {c : MemberChange} (hdue : dueChange s true c.rank = some c)
    (hrole : s.xng.role ≠ .joining) :
    exec (.memberJoined c.rank) s = .next (raise 0x0107 noSubject [] { s with xng := { s.xng with
      joins := dropFirst c s.xng.joins
      members := if s.xng.role = .lead then s.xng.members ++ [c.rank] else s.xng.members } }) := by
  rw [exec_memberJoined, execMemberJoined, hdue]
  exact if_neg hrole

/-! ### Leaves (R45) -/

/-- A leave recorded, and no longer announced (R45). -/
def leaveRecorded (c : MemberChange) (s : State) : State :=
  raise 0x0108 noSubject [] { s with xng := { s.xng with joins := dropFirst c s.xng.joins } }

theorem leaveRecorded_xng (c : MemberChange) (s : State) :
    (leaveRecorded c s).xng = { s.xng with joins := dropFirst c s.xng.joins } := raise_xng _ _ _ _

/-- MEMBER_LEFT of a leave that is due (R45). -/
theorem exec_memberLeft_due {s : State} {c : MemberChange} (hdue : dueChange s false c.rank = some c) :
    exec (.memberLeft c.rank) s =
      if c.rank = s.xng.rank.toNat then .next ((waiters (leaveRecorded c s) .leave).foldl
        (fun s m => complete m stOk [c.tick] [] s) (becomeSolo (leaveRecorded c s)))
      else if s.xng.role = .lead then .next (remeasure { leaveRecorded c s with xng := { (leaveRecorded c s).xng with
        members := s.xng.members.filter (· != c.rank) } })
      else .next (leaveRecorded c s) := by
  have hexec : exec (.memberLeft c.rank) s = execMemberLeft c.rank s := rfl
  have hmembers : (leaveRecorded c s).xng.members = s.xng.members := by rw [leaveRecorded_xng]
  have hrank : (leaveRecorded c s).xng.rank = s.xng.rank := by rw [leaveRecorded_xng]
  have hrole : (leaveRecorded c s).xng.role = s.xng.role := by rw [leaveRecorded_xng]
  rw [hexec, execMemberLeft, hdue, ← hrank, ← hrole, ← hmembers]
  rfl

/-- The tick and the size stay at a leave; the leaver is SOLO, and the lead counts it no longer (R45, R349). -/
theorem exec_memberLeft_kept {s : State} {c : MemberChange} (hdue : dueChange s false c.rank = some c) :
    ∃ t, exec (.memberLeft c.rank) s = .next t ∧ t.xng.tick = s.xng.tick ∧ t.xng.sizeM1 = s.xng.sizeM1
      ∧ (c.rank = s.xng.rank.toNat → t.xng.role = .solo)
      ∧ (c.rank ≠ s.xng.rank.toNat → t.xng.role = s.xng.role
        ∧ t.xng.members = if s.xng.role = .lead then s.xng.members.filter (· != c.rank) else s.xng.members) := by
  rw [exec_memberLeft_due hdue]
  by_cases hself : c.rank = s.xng.rank.toNat
  · rw [if_pos hself]
    refine ⟨_, rfl, ?_⟩
    rw [completeAll_xng]
    have hkept := clockKept_becomeSolo (leaveRecorded c s)
    refine ⟨hkept.tick.trans ?_, hkept.sizeM1.trans ?_, fun _ => becomeSolo_role _, fun hother => absurd hself hother⟩ <;>
      rw [leaveRecorded_xng]
  · rw [if_neg hself]
    by_cases hlead : s.xng.role = .lead
    · rw [if_pos hlead, if_pos hlead]
      refine ⟨_, rfl, ?_⟩
      rw [remeasure_xng, leaveRecorded_xng]
      exact ⟨rfl, rfl, fun hsame => absurd hsame hself, fun _ => ⟨rfl, rfl⟩⟩
    · rw [if_neg hlead, if_neg hlead]
      refine ⟨_, rfl, ?_⟩
      rw [leaveRecorded_xng]
      exact ⟨rfl, rfl, fun hsame => absurd hsame hself, fun _ => ⟨rfl, rfl⟩⟩

/-! ### Dissolution and leave requests (R45, R368) -/

/-- DISSOLVE at its tick: SOLO, by a group fault where the unit is not STOPPED (R368). -/
theorem exec_dissolve_due {s : State} {k : Nat} (hat : s.xng.dissolveAt = some k) (hdue : k ≤ s.xng.tick.toNat) :
    exec (.dissolve s.xng.groupId.toNat) s = .next ((waiters s .leave).foldl (fun s m => complete m stOk [k] [] s)
      (if s.ttu.func = .stopped then becomeSolo s else groupFaultWith 0x0103 s)) := by
  have hexec : exec (.dissolve s.xng.groupId.toNat) s = execDissolve s.xng.groupId.toNat s := rfl
  rw [hexec, execDissolve, hat]
  exact if_pos ⟨rfl, hdue⟩

/-- The tick of a membership change lies at least eight ticks ahead (R45). -/
theorem tick_add_eight_le_changeTick (s : State) : s.xng.tick.toNat + 8 ≤ changeTick s := by
  unfold changeTick announceTick
  split
  · exact le_rfl
  · split
    next hroom => exact hroom.1
    next => omega

/-- A leave request of a member whose leave is not announced yet is announced (R45, R368). -/
theorem exec_leaveRequestReceived_named {s : State} {rank : Nat} (hlead : s.xng.role = .lead) (hmember : rank ∈ s.xng.members)
    (hnew : ∀ c ∈ s.xng.joins, c.join = true ∨ c.rank ≠ rank) :
    exec (.leaveRequestReceived s.xng.groupId.toNat rank) s = .next { s with xng := { s.xng with
      joins := s.xng.joins ++ [{ join := false, rank := rank, tick := changeTick s
                                 peer := Config.memberPeer s.xng.groupId.toNat rank % 2 ^ 32 }] } } := by
  have hexec : exec (.leaveRequestReceived s.xng.groupId.toNat rank) s
    = execLeaveRequestReceived s.xng.groupId.toNat rank s := rfl
  rw [hexec, execLeaveRequestReceived, if_pos rfl, leaveNamed, if_pos]
  simpa [hlead, hmember] using hnew

/-- Settles O13: each change of the group by the registers it sets and the completions that leave them. -/
theorem groupMembership : Obligations.GroupMembership := by
  unfold Obligations.GroupMembership
  intro s
  refine ⟨fun k hform hdue => ?formed, fun c hdue => ⟨fun hrole hrank haligned => ?joiner, fun hrole => ?others⟩,
    fun c hdue => exec_memberLeft_kept hdue, fun hrole => ?period, fun k hat hdue => ?dissolved,
    fun rank hlead hmember hnew => ⟨tick_add_eight_le_changeTick s, exec_leaveRequestReceived_named hlead hmember hnew⟩⟩
  case formed =>
    refine ⟨_, exec_groupFormed_due hform hdue, ?_⟩
    rw [completeAll_xng]
    exact ⟨rfl, rfl, rfl⟩
  case joiner =>
    refine ⟨_, exec_memberJoined_joiner hdue hrole hrank haligned, ?_⟩
    rw [completeAll_xng]
    exact joinedGroup_xng c s
  case others => exact exec_memberJoined_others hdue hrole
  case period =>
    refine exec_periodApply_other ?_ ?_ <;> rcases hrole with hrole | hrole <;> rw [hrole] <;> decide
  case dissolved =>
    refine ⟨_, exec_dissolve_due hat hdue, ?_⟩
    rw [completeAll_xng]
    by_cases hstopped : s.ttu.func = .stopped
    · rw [if_pos hstopped]
      exact ⟨becomeSolo_role s, fun hnot => absurd hstopped hnot⟩
    · rw [if_neg hstopped]
      obtain ⟨hsolo, hfault⟩ := groupFaultWith_xng 0x0103 s
      exact ⟨hsolo, fun _ => hfault⟩

end Sys2Proof.Machine
end

section
/-! A step's completion and the stop of the timetable (R19, R20, R30, R58). -/

namespace Sys2Proof.Machine

/-! ### A step's completion (R19, R20, R58) -/

theorem exec_stepCompletion (k cycles : Nat) (s : State) : exec (.stepCompletion k cycles) s = execStepCompletion k cycles s := rfl

/-- A completion dated within the open crossing is taken at once (R20). -/
theorem exec_stepCompletion_now {k cycles : Nat} {s : State}
    (hwithin : s.xng.running = true → s.xng.tickCycle.toNat + cycles < nextTickCycle s) :
    exec (.stepCompletion k cycles) s = .next (takeCompletion k (s.xng.tickCycle.toNat + cycles) s) := by
  rw [exec_stepCompletion, execStepCompletion]
  refine congrArg Host.Outcome.next (if_neg ?_)
  simpa using hwithin

/-- A completion dated later waits for the crossing that its tick opens (R19). -/
theorem exec_stepCompletion_ahead {k cycles : Nat} {s : State} (hrun : s.xng.running = true)
    (hlater : nextTickCycle s ≤ s.xng.tickCycle.toNat + cycles) (hran : k ∈ s.ttu.ran) (hnew : k ∉ s.ttu.done) :
    exec (.stepCompletion k cycles) s
      = .next { s with ttu := { s.ttu with ahead := s.ttu.ahead ++ [(k, s.xng.tickCycle.toNat + cycles)] } } := by
  rw [exec_stepCompletion, execStepCompletion]
  refine congrArg Host.Outcome.next ((if_pos ?_).trans (if_pos ?_))
  · simp [hrun, hlater]
  · simp [hran, hnew]

/-- A step's completion is registered where it ran, none is registered yet, no kernel of it runs and no islet fault is outstanding. -/
def registers (k : Nat) (s : State) : Bool :=
  s.ttu.ran.contains k && !s.ttu.done.contains k && !(s.lnc.steps.any fun e => e.2.step == k) && s.isl.faulted.isEmpty

theorem registers_iff (k : Nat) (s : State) :
    registers k s = true ↔ k ∈ s.ttu.ran ∧ k ∉ s.ttu.done ∧ (∀ e ∈ s.lnc.steps, e.2.step ≠ k) ∧ s.isl.faulted = [] := by
  simp [registers, and_assoc]

theorem registers_passCycle (k at_ : Nat) (s : State) : registers k (passCycle at_ s) = registers k s := by
  simp only [registers, passCycle_ttu, passCycle_lnc, passCycle_isl]

/-- A completion taken: registered or not, and in RUNNING what waited for it goes on (R58). -/
theorem takeCompletion_eq (k at_ : Nat) (s : State) :
    takeCompletion k at_ s =
      (let u := if registers k s then registerDone k (passCycle at_ s) else passCycle at_ s
      if s.ttu.func = .running then settleReplay (goOn (goFuel u) u) else u) := by
  have hfunc : (if registers k (passCycle at_ s) = true then registerDone k (passCycle at_ s) else passCycle at_ s).ttu.func
      = s.ttu.func := by
    have hpass : (passCycle at_ s).ttu.func = s.ttu.func := congrArg Ttu.func (passCycle_ttu at_ s)
    split <;> exact hpass
  rw [← registers_passCycle k at_ s, ← hfunc]
  rfl

/-! ### The stop of the timetable (R30) -/

theorem exec_timetableStopped (s : State) : exec .timetableStopped s = .next (stopTimetable s) := rfl

theorem flightOver_of_done {s : State} (hsteps : s.lnc.steps = []) (hdone : ∀ j ∈ s.ttu.ran, j ∈ s.ttu.done) :
    flightOver s = true := by
  simpa [flightOver, hsteps] using hdone

/-- What STOPPED leaves of the timetable unit: nothing ran, and no index is open (R30). -/
theorem becomeStopped_ttu (s : State) :
    (becomeStopped s).ttu.func = .stopped ∧ (becomeStopped s).ttu.opened = false ∧ (becomeStopped s).ttu.ran = [] := by
  simp only [becomeStopped, settleMode_ttu, finishAll_ttu, releaseHeld_ttu, and_self]

theorem becomeStopped_xng (s : State) :
    (becomeStopped s).xng = { s.xng with ttRunning := false, switchAt := none, switchReq := none } := by
  simp only [becomeStopped, settleMode_xng, finishAll_xng, releaseHeld_xng, unlockPages_xng]

/-- Settles O16: a completion by its date and by `registers`, the stop by `becomeStopped`'s registers. -/
theorem stepCompletions : Obligations.StepCompletions := by
  unfold Obligations.StepCompletions
  refine ⟨fun k cycles s => ?completion, fun s => ⟨fun hstopping hsteps hdone => ?stopped, fun hnot => ?kept⟩⟩
  case completion =>
    intro at_ u v
    refine ⟨fun hwithin => ?now, fun hrun hlater hran hnew => exec_stepCompletion_ahead hrun hlater hran hnew,
      passCycle_ttu _ _, passCycle_mem _ _, passCycle_isl _ _, passCycle_lnc _ _⟩
    rw [exec_stepCompletion_now hwithin, takeCompletion_eq]
    refine ⟨fun hran hnew hkernel hfault => ?_, fun hnone hidle => ?_⟩
    · rw [if_pos ((registers_iff k s).2 ⟨hran, hnew, hkernel, hfault⟩)]
      exact ⟨fun hrunning => congrArg _ (if_pos hrunning), fun hidle => congrArg _ (if_neg hidle)⟩
    · have hkept : ¬ registers k s = true := fun h => by
        obtain ⟨hran, hnew, -⟩ := (registers_iff k s).1 h
        exact hnone.elim (fun hno => hno hran) (fun hdone => hnew hdone)
      rw [if_neg hkept]
      exact congrArg _ (if_neg hidle)
  case stopped =>
    have hstops : exec .timetableStopped s = .next (timetableEnds (lastRecords s)) :=
      (exec_timetableStopped s).trans (congrArg _ (if_pos ⟨hstopping, flightOver_of_done hsteps hdone⟩))
    obtain ⟨hfunc, hopened, hran⟩ := becomeStopped_ttu (lastRecords s)
    refine ⟨becomeStopped (lastRecords s), hstops, rfl, hfunc, hopened, hran, ?_⟩
    rw [becomeStopped_xng, lastRecords_xng]
    exact ⟨rfl, rfl, rfl⟩
  case kept => exact (exec_timetableStopped s).trans (congrArg _ (if_neg fun h => hnot h.1))

end Sys2Proof.Machine
end

section
/-! Votes and decisions (R30 to R41, R349, R368). -/

namespace Sys2Proof.Machine

/-! ### What a transaction changes -/

/-- Two states differ at most in the link and in what has left the module. -/
def Sent (s t : State) : Prop := t = { s with zng := t.zng, out := t.out }

theorem sent_refl (s : State) : Sent s s := rfl

theorem sent_trans {s t u : State} (h : Sent s t) (k : Sent t u) : Sent s u := by
  unfold Sent at *
  rw [k, h]

theorem sent_sendFlit (p : Nat) (x : Port) (s : State) : Sent s (sendFlit p x s) := rfl

theorem sent_pumpAux (n p : Nat) (s : State) : Sent s (pumpAux n p s) := by
  induction n generalizing s with
  | zero => exact sent_refl s
  | succ n ih =>
    unfold pumpAux
    dsimp only
    split
    · exact sent_trans (sent_sendFlit _ _ _) (ih _)
    · exact sent_refl s

theorem sent_setPort (p : Nat) (x : Port) (s : State) : Sent s (setPort p x s) := rfl

theorem sent_sendTxn (p cls : Nat) (bs : List Byte) (s : State) : Sent s (sendTxn p cls bs s) :=
  sent_trans (sent_setPort _ _ s) (sent_pumpAux _ _ _)

theorem sent_sendCross (bs : List Byte) (s : State) : Sent s (sendCross bs s) := by
  unfold sendCross
  split
  · exact sent_sendTxn _ _ _ s
  · exact sent_refl s

/-! ### The votes owed (R35, R39) -/

theorem muted_iff (s : State) : muted s = true ↔ s.xng.silent = true ∨ s.mode = .failed := by
  simp only [muted, Bool.or_eq_true, beq_iff_eq]

/-- The members owe their votes, and a lead that sends none owes its own. -/
theorem owedVotes_eq (s : State) :
    owedVotes s = s.xng.members ++ (if s.xng.silent = true ∨ s.mode = .failed then [s.xng.rank.toNat] else []) := by
  simp only [owedVotes, muted_iff]

theorem owedVotes_unmuted {s : State} (hsilent : s.xng.silent = false) (hmode : s.mode ≠ .failed) :
    owedVotes s = s.xng.members := by
  rw [owedVotes_eq, if_neg (by simp [hsilent, hmode]), List.append_nil]

theorem allVotes_iff (s : State) : allVotes s = true ↔ ∀ r ∈ owedVotes s, r ∈ s.xng.votes := by
  simp only [allVotes, List.all_eq_true, List.contains_iff_mem]

/-- The lead that has not decided does so as soon as it has voted and every vote owed is in (R35). -/
theorem decideIfAll_lead {s : State} (hlead : s.xng.role = .lead) (hopen : s.xng.decided = none) :
    decideIfAll s = if s.xng.voted = true ∧ ∀ r ∈ owedVotes s, r ∈ s.xng.votes then sendDecision (formDecision s) s else s := by
  refine if_congr ?_ rfl rfl
  simp only [hlead, hopen, allVotes_iff, true_and]

theorem decideIfAll_other {s : State} (hlead : s.xng.role ≠ .lead) : decideIfAll s = s := if_neg fun h => hlead h.1

/-! ### The cutoff (R34) -/

/-- The cycle of the cutoff: a window before the next tick. -/
def cutoffCycle (s : State) : Nat := nextTickCycle s - s.xng.window.toNat

/-- The readiness that the cutoff samples: all that the index needs had completed before that cycle, in step (R34, R40). -/
def readyAtCutoff (s : State) : Bool :=
  readyNow (passCycle (cutoffCycle s) s) && !s.xng.outOfStep && (s.ttu.func != .running
    || (!s.ttu.anyDone || decide (s.ttu.lastDone < cutoffCycle s)) && (!s.mem.maint || decide (s.mem.maintAt < cutoffCycle s)))

/-- The module at its cutoff, its readiness sampled. -/
def sampled (s : State) : State :=
  { passCycle (cutoffCycle s) s with xng := { (passCycle (cutoffCycle s) s).xng with voted := true, ready := readyAtCutoff s } }

/-- The VOTE that a module sends (R349). -/
def voteOf (ready : Bool) (s : State) : List Byte :=
  txnHead 0x0E (if ready then 1 else 0) 0 16 [(4, 2, s.xng.groupId.toNat), (6, 2, s.xng.rank.toNat),
    (8, 2, (s.xng.tick.toNat + 1) % 65536), (10, 2, s.xng.index.toNat % 65536)]

/-- Cycles that pass move the cycle counters alone. -/
theorem passCycle_eq (t : Nat) (s : State) :
    ∃ now c w, passCycle t s = { s with now := now, xng := { s.xng with cycle := c, ttTime := w } } := by
  unfold passCycle pass
  split
  · exact ⟨s.now, s.xng.cycle, s.xng.ttTime, rfl⟩
  · dsimp only
    by_cases hrun : s.xng.running = true
    · rw [if_pos hrun]
      exact ⟨_, _, _, rfl⟩
    · rw [if_neg hrun]
      exact ⟨_, s.xng.cycle, s.xng.ttTime, rfl⟩

theorem sampled_eq (s : State) :
    ∃ now c w, sampled s = { s with now := now, xng := { s.xng with
      cycle := c, ttTime := w, voted := true, ready := readyAtCutoff s } } := by
  obtain ⟨now, c, w, h⟩ := passCycle_eq (cutoffCycle s) s
  exact ⟨now, c, w, by rw [sampled, h]⟩

/-- The vote leaves on the port that carries the crossing traffic; where that port is lost it goes missing (R43). -/
theorem sendCross_sampled (bs : List Byte) (s : State) :
    sendCross bs (sampled s) = if portCarries s (crossPort s) then sendTxn (crossPort s) 2 bs (sampled s) else sampled s := by
  obtain ⟨now, c, w, h⟩ := sampled_eq s
  have hport : crossPort (sampled s) = crossPort s := by
    rw [h]
    rfl
  have hcarries (p : Nat) : portCarries (sampled s) p = portCarries s p := by
    rw [h]
    rfl
  rw [sendCross, hport, hcarries]

theorem exec_cutoff (s : State) : exec .cutoff s = execCutoff s := rfl

/-- The module at its cutoff, its vote on its way. -/
def voteSent (s : State) : State := sendCross (voteOf (readyAtCutoff s) s) (sampled s)

theorem voteSent_eq (s : State) :
    voteSent s = if portCarries s (crossPort s) then sendTxn (crossPort s) 2 (voteOf (readyAtCutoff s) s) (sampled s) else sampled s :=
  sendCross_sampled _ s

/-- CUTOFF of a module in its group that has not voted at this tick (R34, R35). -/
theorem exec_cutoff_due {s : State} (hrun : s.xng.running = true) (hgroup : grouped s = true) (hfirst : s.xng.voted = false) :
    exec .cutoff s = .next (if s.xng.silent = true ∨ s.mode = .failed then sampled s
      else decideIfAll (voteSent s)) := by
  have hready : (readyNow (passCycle (cutoffCycle s) s) && doneBefore (cutoffCycle s) (passCycle (cutoffCycle s) s)
      && !(passCycle (cutoffCycle s) s).xng.outOfStep) = readyAtCutoff s := by
    have hstep : (passCycle (cutoffCycle s) s).xng.outOfStep = s.xng.outOfStep := by
      obtain ⟨now, c, w, hpass⟩ := passCycle_eq (cutoffCycle s) s
      rw [hpass]
    rw [Bool.and_right_comm, hstep, doneBefore, passCycle_ttu, passCycle_mem]
    rfl
  have hdue : (s.xng.running && grouped s && !s.xng.voted) = true := by rw [hrun, hgroup, hfirst]; rfl
  have hexec : exec .cutoff s = if muted (sampled s) then .next (sampled s)
      else .next (decideIfAll (sendCross (voteOf (readyAtCutoff s) (sampled s)) (sampled s))) := by
    rw [exec_cutoff, execCutoff, if_pos hdue, sampled, ← hready]
    rfl
  obtain ⟨now, c, w, hsampled⟩ := sampled_eq s
  have hvote : voteOf (readyAtCutoff s) (sampled s) = voteOf (readyAtCutoff s) s := by
    rw [hsampled]
    rfl
  have hmuted : muted (sampled s) = true ↔ s.xng.silent = true ∨ s.mode = .failed := by
    rw [muted_iff, hsampled]
  rw [hexec, hvote, if_congr hmuted rfl rfl, apply_ite Host.Outcome.next]
  rfl

/-- A lead that has voted and has not decided, its members owing their votes. -/
theorem decideIfAll_voteSent {s : State} (hsilent : s.xng.silent = false) (hmode : s.mode ≠ .failed) (hlead : s.xng.role = .lead)
    (hopen : s.xng.decided = none) :
    decideIfAll (voteSent s)
      = if ∀ r ∈ s.xng.members, r ∈ s.xng.votes then sendDecision (formDecision (voteSent s)) (voteSent s) else voteSent s := by
  obtain ⟨now, c, w, hsampled⟩ := sampled_eq s
  have hsent : Sent (sampled s) (voteSent s) := sent_sendCross _ _
  generalize voteSent s = t at hsent ⊢
  rw [Sent, hsampled] at hsent
  have howed : owedVotes t = s.xng.members := by
    rw [hsent]
    exact owedVotes_unmuted hsilent hmode
  have hvotes : t.xng.votes = s.xng.votes := by rw [hsent]
  have hvoted : t.xng.voted = true := by rw [hsent]
  rw [decideIfAll_lead (by rw [hsent]; exact hlead) (by rw [hsent]; exact hopen), howed, hvotes, hvoted]
  simp only [true_and]

/-- A member's vote decides nothing (R35). -/
theorem decideIfAll_voteSent_member {s : State} (hlead : s.xng.role ≠ .lead) : decideIfAll (voteSent s) = voteSent s := by
  obtain ⟨now, c, w, hsampled⟩ := sampled_eq s
  have hsent : Sent (sampled s) (voteSent s) := sent_sendCross _ _
  rw [Sent, hsampled] at hsent
  exact decideIfAll_other (by rw [hsent]; exact hlead)

/-! ### Votes summed and missed (R35, R39) -/

theorem exec_voteDeadline (s : State) : exec .voteDeadline s = execVoteDeadline s := rfl

/-- VOTE_SUM in time for the next tick (R35, R39). -/
theorem exec_voteSum_inTime {s : State} (ready : Bool) (present : BitVec 1024) (hlead : s.xng.role = .lead)
    (hopen : s.xng.decided = none) (htime : s.xng.cycle.toNat < nextTickCycle s - s.xng.window.toNat / 2) :
    exec (.voteSum s.xng.groupId.toNat ((s.xng.tick.toNat + 1) % 65536) ready present) s
      = .next (decideIfAll { s with xng := { s.xng with
        votes := s.xng.votes ++ (List.range 1024).filter fun r => present.getLsbD r && !s.xng.votes.contains r
        votesReady := s.xng.votesReady && ready
        missing := s.xng.missing.filter fun p => !present.getLsbD p.1 } }) :=
  if_pos ⟨hlead, rfl, rfl, hopen, htime⟩

/-- A rank has missed three votes in a row (R39). -/
theorem any_missed_iff (s : State) :
    ((owedVotes s).any fun r => decide (3 ≤ missCount s r)) = true ↔ ∃ r ∈ owedVotes s, 3 ≤ look 0 s.xng.missing r := by
  simp only [List.any_eq_true, decide_eq_true_eq]
  rfl

/-- VOTE_DEADLINE of a lead that has not decided (R35, R39). -/
theorem exec_voteDeadline_lead {s u : State} (hrun : s.xng.running = true) (hlead : s.xng.role = .lead)
    (hopen : s.xng.decided = none) (hu : countMissing (passCycle (nextTickCycle s - s.xng.window.toNat / 2) s) = u) :
    exec .voteDeadline s = .next (if ∃ r ∈ owedVotes u, 3 ≤ look 0 u.xng.missing r then u else sendDecision (formDecision u) u) := by
  have hforming : ¬ (s.xng.running && formingLead s) = true := by simp [formingLead, hlead]
  rw [exec_voteDeadline, execVoteDeadline, if_neg hforming, if_pos (by simp [hrun, hlead, hopen]), hu,
    if_congr (any_missed_iff u) rfl rfl, apply_ite Host.Outcome.next]

/-- VOTE_DEADLINE of the lead of a formation (R349). -/
theorem exec_voteDeadline_forming {s : State} (hrun : s.xng.running = true) (hforming : formingLead s = true) :
    exec .voteDeadline s = .next (emitDecision (formationDecision (passCycle (nextTickCycle s - s.xng.window.toNat / 2) s))
      (passCycle (nextTickCycle s - s.xng.window.toNat / 2) s)) := by
  rw [exec_voteDeadline, execVoteDeadline, if_pos (by rw [hrun, hforming]; rfl)]

/-- GROUP_FAULT of a lead that has not decided, with a rank's third missing vote (R39). -/
theorem exec_groupFault_due {s : State} (hlead : s.xng.role = .lead) (hopen : s.xng.decided = none)
    (hmissed : ∃ r ∈ owedVotes s, 3 ≤ look 0 s.xng.missing r) :
    exec .groupFault s = .next (sendDecision { formDecision s with verdict := .fault } s) := by
  refine if_pos ?_
  rw [(any_missed_iff s).2 hmissed, hlead, hopen]
  rfl

/-! ### The decision formed and sent (R30, R35, R368) -/

/-- The group advances: every vote owed is in and READY, and the lead is ready too (R35). -/
def advances (s : State) : Bool := allVotes s && s.xng.votesReady && s.xng.ready

theorem advances_iff (s : State) :
    advances s = true ↔ (∀ r ∈ owedVotes s, r ∈ s.xng.votes) ∧ s.xng.votesReady = true ∧ s.xng.ready = true := by
  simp only [advances, Bool.and_eq_true, allVotes_iff, and_assoc]

theorem formDecision_verdict (s : State) : (formDecision s).verdict = if advances s then .advance else .slack := rfl

theorem formDecision_slackRun (s : State) :
    (formDecision s).slackRun = if advances s then 0 else s.xng.slackRun.toNat + 1 := rfl

/-- Of a unit that runs the index moves by one where the group advances (R35). -/
theorem formDecision_index {s : State} (hrun : s.ttu.func = .running) :
    (formDecision s).index = s.xng.index.toNat + if advances s then 1 else 0 := by
  have hindex : (formDecision s).index = if s.ttu.func == .starting && !s.ttu.locksWait then s.ttu.restart.getD 0
      else s.xng.index.toNat + b2n (advances s && s.ttu.func == .running) := rfl
  rw [hindex, hrun, if_neg (by simp)]
  cases advances s <;> rfl

theorem formDecision_members {s : State} (hdissolve : s.xng.dissolveAt.isSome = true) : (formDecision s).members = [] :=
  if_pos hdissolve

/-- A decision sent is the lead's for this tick, with the size that it announces (R35, R349). -/
theorem sendDecision_eq (d : Decision) (s : State) :
    sendDecision d s = { s with
      out := (sendDecision d s).out, zng := (sendDecision d s).zng
      xng := { s.xng with decided := some d, stopping := s.xng.stopping || d.stop, sizeNext := setSize d s.xng.sizeNext } } :=
  sent_sendCross _ _

/-! ### A decision received (R22, R36, R220) -/

theorem exec_decision (d : Decision) (s : State) : exec (.decision d) s = execDecision d s := rfl

/-- A decision that a member of the group receives before its tick is kept, with what it carries (R22, R36, R220). -/
theorem exec_decision_kept {s : State} {d : Decision} (hrole : s.xng.role = .member ∨ s.xng.role = .leaving)
    (hgroup : d.group = s.xng.groupId.toNat) (htick : d.tick = s.xng.tick.toNat + 1) (htime : s.xng.cycle.toNat < nextTickCycle s) :
    ∃ formTick joins ttu, exec (.decision d) s = .next { s with
      ttu := ttu
      xng := { s.xng with
        decision := some d, armed := d.period.or s.xng.armed, switchAt := d.switch.or s.xng.switchAt
        dissolveAt := d.dissolve.or s.xng.dissolveAt, sizeNext := setSize d s.xng.sizeNext, formTick := formTick, joins := joins } } := by
  have hgrouped : grouped s = true := by rcases hrole with h | h <;> rw [grouped, h] <;> rfl
  have htaken : ¬ (s.xng.role = .solo ∨ s.xng.role = .lead ∨ d.group ≠ s.xng.groupId.toNat) := by
    rcases hrole with h | h <;> simp [h, hgroup]
  rw [exec_decision, execDecision, if_neg htaken, if_neg (by omega), if_neg (by simp [htick])]
  simp only [hgrouped, if_true]
  by_cases hforming : (!(waiters s .form).isEmpty) = true
  · rw [if_pos hforming]
    exact ⟨_, _, _, rfl⟩
  · rw [if_neg hforming]
    exact ⟨_, _, _, rfl⟩

/-- A decision that comes at its tick or later is missed (R36, R40). -/
theorem exec_decision_late {s : State} (d : Decision) (hlate : nextTickCycle s ≤ s.xng.cycle.toNat) :
    exec (.decision d) s = .next s := by
  rw [exec_decision, execDecision, if_pos hlate, ite_self]

/-- Settles O11: the cutoff by who is muted and who leads, the sums and the deadline by the votes owed, a decision by what it
carries. -/
theorem votesAndDecisions : Obligations.VotesAndDecisions := by
  unfold Obligations.VotesAndDecisions
  refine ⟨fun s hrun hgroup hfirst => ?cutoff, fun s => ?lead, fun s d => ⟨fun hrole hgroup htick htime => ?kept,
    fun hlate => exec_decision_late d hlate, fun hgroup hmissed => ?lost⟩⟩
  case cutoff =>
    intro at_ u ready v vote sent
    have hsent : voteSent s = sent := voteSent_eq s
    have hdue := exec_cutoff_due hrun hgroup hfirst
    refine ⟨fun hmuted => hdue.trans (congrArg _ (if_pos hmuted)), fun hsilent hmode hmember => ?_,
      fun hsilent hmode hlead hopen => ?_⟩
    · rw [hdue, if_neg (by simp [hsilent, hmode]), decideIfAll_voteSent_member hmember, hsent]
    · rw [hdue, if_neg (by simp [hsilent, hmode]), decideIfAll_voteSent hsilent hmode hlead hopen, hsent]
  case lead =>
    intro owed
    have howed : owedVotes s = owed := owedVotes_eq s
    refine ⟨fun tick ready present hlead htick hopen htime => ?sum, fun hrun hlead hopen => exec_voteDeadline_lead hrun hlead hopen rfl,
      fun hrun hforming => exec_voteDeadline_forming hrun hforming,
      fun hlead hopen hmissed => exec_groupFault_due hlead hopen (howed ▸ hmissed), ?formed, fun d => ⟨_, sendDecision_eq d s⟩⟩
    case sum =>
      intro s'
      have howed' : owedVotes s' = owed := owedVotes_eq s'
      rw [htick, exec_voteSum_inTime ready present hlead hopen htime, ← howed']
      exact congrArg _ (decideIfAll_lead hlead hopen)
    case formed =>
      intro d
      have hverdict : d.verdict = if advances s then .advance else .slack := formDecision_verdict s
      have hslack : d.slackRun = if advances s then 0 else s.xng.slackRun.toNat + 1 := formDecision_slackRun s
      refine ⟨rfl, rfl, ?_, ?_, ?_, fun hrun => ?_, rfl, rfl, rfl, formDecision_members⟩
      · rw [← howed]
        exact hverdict.trans (if_congr (advances_iff s) rfl rfl)
      · rw [hverdict, hslack]
        cases advances s <;> simp
      · rw [hverdict, hslack]
        cases advances s <;> simp
      · rw [hverdict, show d.index = _ from formDecision_index hrun]
        cases advances s <;> simp
  case kept =>
    obtain ⟨formTick, joins, ttu, hexec⟩ := exec_decision_kept hrole hgroup htick htime
    exact ⟨_, hexec, rfl, rfl, rfl, rfl, rfl, rfl, rfl, rfl, rfl⟩
  case lost => exact if_pos ⟨hgroup, hmissed⟩

end Sys2Proof.Machine
end

section
/-! Loading, starting and switching a timetable (R82 to R84, R217, R220, R403): each command once its request has been taken. -/

namespace Sys2Proof.Machine

section
variable {m : Nat} {s u : State} {x : Mailbox}

/-! ### TT_LOAD (R82, R83) -/

/-- TT_LOAD names the shadow slot. -/
def loadsShadow (x : Mailbox) : Bool := mbArg x 0 == 1

/-- The slot that TT_LOAD fills, by TTU_STATUS.SLOT's numbering. -/
def loadSlot (x : Mailbox) (s : State) : Bool := s.ttu.active != loadsShadow x

/-- The state that TT_LOAD's admission is judged in: a load into the shadow slot takes what could be resumed there. -/
def loadBegun (x : Mailbox) (s : State) : State := { s with ttu := { s.ttu with resumable := s.ttu.resumable && !loadsShadow x } }

/-- The admission that TT_LOAD asks for. -/
def loadJudged (x : Mailbox) (s : State) : State × Except (Nat × Nat) Image :=
  admitImage (mbArg x 3) (mbArg x 1) (mbArg x 2) (bindingBases (mbPayload x))
    (slotCode (if loadSlot x s then (loadBegun x s).ttu.slotA else (loadBegun x s).ttu.slotB)) (loadBegun x s)

/-- What TT_LOAD answers to an admission, with the slot as it leaves it. -/
def loadAnswer (m : Nat) (x : Mailbox) (b : Bool) : State × Except (Nat × Nat) Image → State
  | (s, .error (code, entry)) => complete m (rejectStatus code) [code + entry * 2 ^ 32] [] (rejectLoad b code entry s)
  | (s, .ok i) => complete m stOk [0] [] (admitLoad b (mbArg x 3) (mbArg x 1) (mbArg x 2) (bindingBases (mbPayload x)) i s)

/-- TT_LOAD, taken: refused where its slot is in use, else answered as its image is judged. -/
theorem exec_ttLoad_entered (h : Entered 0x20 m s x u) :
    exec (.ttLoad m) s = .next (
      if (!loadsShadow x && u.ttu.func != .stopped) = true then finish m stState u
      else if (loadsShadow x && u.ttu.pending.isSome) = true then finish m stState u
      else loadAnswer m x (loadSlot x u) (loadJudged x u)) := by
  refine next_mbCommand h ?_
  unfold loadAnswer
  rfl

/-- The slot that TT_LOAD names is in use: it is active in a unit not STOPPED, or a switch to it is pending. -/
def LoadRefused (x : Mailbox) (s : State) : Prop :=
  (loadsShadow x = false ∧ s.ttu.func ≠ .stopped) ∨ (loadsShadow x = true ∧ s.ttu.pending.isSome = true)

theorem exec_ttLoad_refused (h : Entered 0x20 m s x u) (hused : LoadRefused x u) :
    exec (.ttLoad m) s = .next (finish m stState u) := by
  rw [exec_ttLoad_entered h]
  rcases hused with ⟨hactive, hfunc⟩ | ⟨hshadow, hpending⟩
  · rw [if_pos (by simp [hactive, hfunc])]
  · rw [if_neg (by simp [hshadow]), if_pos (by simp [hshadow, hpending])]

theorem exec_ttLoad_judged (h : Entered 0x20 m s x u) (hfree : ¬ LoadRefused x u) :
    exec (.ttLoad m) s = .next (loadAnswer m x (loadSlot x u) (loadJudged x u)) := by
  rw [exec_ttLoad_entered h, if_neg, if_neg]
  · exact fun hpending => hfree (.inr (by simpa using hpending))
  · exact fun hactive => hfree (.inl (by simpa using hactive))

theorem loadAnswer_error {b : Bool} {r : State × Except (Nat × Nat) Image} {code entry : Nat} (hr : r.2 = .error (code, entry)) :
    loadAnswer m x b r = complete m (rejectStatus code) [code + entry * 2 ^ 32] [] (rejectLoad b code entry r.1) := by
  obtain ⟨t, verdict⟩ := r
  obtain rfl : verdict = _ := hr
  rfl

theorem loadAnswer_ok {b : Bool} {r : State × Except (Nat × Nat) Image} {i : Image} (hr : r.2 = .ok i) :
    loadAnswer m x b r
      = complete m stOk [0] [] (admitLoad b (mbArg x 3) (mbArg x 1) (mbArg x 2) (bindingBases (mbPayload x)) i r.1) := by
  obtain ⟨t, verdict⟩ := r
  obtain rfl : verdict = _ := hr
  rfl

/-! ### TT_START (R84, R403) -/

/-- A start whose GROUP check fails answers with event 0x0208. -/
def startFails (m status : Nat) (s : State) : State := finish m status (raise 0x0208 noSubject [] s)

/-- The start of the active slot's image at index 0. -/
def startBegun (m : Nat) (x : Mailbox) (s : State) : State :=
  await m (.start 0) (beginStart none (setSlot s.ttu.active (freshRun (mbArg x 0) (mbArg x 1) (actSlot s)) s))

/-- TT_START of an admitted image in STOPPED: what is left of its checks, in their order. -/
theorem exec_ttStart_stopped {agree : Bool} {i : Image} (h : Entered 0x21 m s x u) (hstate : (actSlot u).state = .admitted)
    (himage : (actSlot u).image = some i) (hfunc : u.ttu.func = .stopped) (hstandby : u.hlt.standby = none)
    (hbase : stepBaseBad i (mbArg x 1) = false) :
    exec (.ttStart m agree) s = .next (
      if i.ranks ≠ rankCount u then startFails m stState u
      else if 1 < i.ranks ∧ u.hbr.exchange ≠ .running then finish m stState u
      else if (grouped u && !agree) = true then startFails m stIntegrity u
      else startBegun m x u) := by
  refine next_mbCommand h ?_
  dsimp only
  rw [if_neg (by simp [hfunc]), if_neg (by simp [hfunc, hstandby])]
  simp only [hstate, himage, hbase]
  rfl

/-! ### TT_SWITCH (R217, R220) -/

/-- The switch pending from index `k` on. -/
def switchTo (x : Mailbox) (k : Nat) (s : State) : State :=
  { s with ttu := { s.ttu with pending := some ⟨mbArg x 0 == 1, mbArg x 1, mbArg x 2, k⟩ } }

/-- TT_SWITCH of an admitted shadow image whose checks hold: a lead announces the index from which its group applies it. -/
theorem exec_ttSwitch_admitted {i : Image} (h : Entered 0x22 m s x u) (hstate : (shadowSlot u).state = .admitted)
    (himage : (shadowSlot u).image = some i) (hpending : u.ttu.pending = none) (hresume : mbArg x 0 = 1 → u.ttu.resumable = true)
    (hbase : mbArg x 0 ≠ 1 → stepBaseBad i (mbArg x 2) = false) :
    exec (.ttSwitch m) s = .next (finish m stOk (
      if u.xng.role = .lead then
        { switchTo x (u.xng.index.toNat + 8) u with xng := { u.xng with
          switchReq := some (u.xng.index.toNat + 8), switchAt := some (u.xng.index.toNat + 8) } }
      else switchTo x (u.xng.switchAt.getD 0) u)) := by
  refine next_mbCommand h ?_
  simp only [hstate, himage]
  rw [if_neg (by simpa using hresume), if_neg (by simp [hpending]), if_neg (by simpa using hbase)]
  by_cases hlead : u.xng.role = .lead
  · simp only [hlead, switchTo, beq_self_eq_true, if_true]
  · have hother : (u.xng.role == .lead) = false := by simpa using hlead
    simp only [hlead, hother, switchTo, Bool.false_eq_true, if_false]

end

/-- Settles O17: TT_LOAD by its slot and its image's verdict, TT_START and TT_SWITCH by what is left of their checks. -/
theorem timetableLoadsStartsSwitches : Obligations.TimetableLoadsStartsSwitches := by
  unfold Obligations.TimetableLoadsStartsSwitches
  refine ⟨fun m s u x h => ?load, fun m s u x agree i => ⟨fun h hstate himage hfunc hstandby hbase => ?start,
    fun h hstate himage hpending hresume hbase => exec_ttSwitch_admitted h hstate himage hpending hresume hbase⟩⟩
  case load =>
    refine ⟨fun hused => exec_ttLoad_refused h hused, fun hfree code entry hres => ?_, fun hfree i hres => ?_⟩
    · rw [exec_ttLoad_judged h hfree]
      exact congrArg _ (loadAnswer_error hres)
    · rw [exec_ttLoad_judged h hfree]
      exact congrArg _ (loadAnswer_ok hres)
  case start =>
    rw [exec_ttStart_stopped h hstate himage hfunc hstandby hbase]
    have exchanged (hrun : 1 < i.ranks → u.hbr.exchange = .running) : ¬ (1 < i.ranks ∧ u.hbr.exchange ≠ .running) :=
      fun hidle => hidle.2 (hrun hidle.1)
    refine ⟨fun hranks => by rw [if_pos hranks]; rfl, fun hranks hrun hagree => ?_, fun hranks hrun hgroup hagree => ?_⟩
    · rw [if_neg (not_not_intro hranks), if_neg (exchanged hrun), if_neg (by simpa using hagree)]
      rfl
    · rw [if_neg (not_not_intro hranks), if_neg (exchanged hrun), if_pos (by simp [hgroup, hagree])]
      rfl

end Sys2Proof.Machine
end

section
/-! What the accesses of a timetable step leave alone: the record of the steps that ran and completed, the group's clock and the
configuration flash, as long as no store word is uncorrectable. -/

namespace Sys2Proof.Machine

/-- The same steps have run and completed in two states, their XNG_ registers and their flash are the same, and a store free of errors
stays free of them. -/
structure RunKept (s t : State) : Prop where
  ran : t.ttu.ran = s.ttu.ran
  done : t.ttu.done = s.ttu.done
  xng : t.xng = s.xng
  flash : t.flash = s.flash
  flips : s.isl.flips = [] → t.isl.flips = []

namespace RunKept
variable {s t u : State}

theorem refl (s : State) : RunKept s s := ⟨rfl, rfl, rfl, rfl, id⟩

theorem trans (h : RunKept s t) (k : RunKept t u) : RunKept s u where
  ran := k.ran.trans h.ran
  done := k.done.trans h.done
  xng := k.xng.trans h.xng
  flash := k.flash.trans h.flash
  flips := k.flips ∘ h.flips

theorem of_memAside (h : MemAside s t) : RunKept s t where
  ran := by rw [h]
  done := by rw [h]
  xng := by rw [h]
  flash := by rw [h]
  flips := fun hclean => by rw [h]; exact hclean

theorem raised (h : RunKept s t) (c n : Nat) (fs : List (Nat × Nat)) : RunKept s (raise c n fs t) :=
  h.trans (of_memAside (memAside_raise c n fs t))

theorem foldl {α : Type} {f : State → α → State} (h : ∀ s x, RunKept s (f s x)) (l : List α) (s : State) :
    RunKept s (l.foldl f s) := by
  induction l generalizing s with
  | nil => exact refl s
  | cons x r ih => exact (h s x).trans (ih _)

/-- One thing after another, each of which needs a store free of errors. -/
theorem foldl_clean {α : Type} {f : State → α → State} (h : ∀ s x, s.isl.flips = [] → RunKept s (f s x)) (l : List α) (s : State)
    (hclean : s.isl.flips = []) : RunKept s (l.foldl f s) := by
  induction l generalizing s with
  | nil => exact refl s
  | cons x r ih =>
    have hx := h s x hclean
    exact hx.trans (ih _ (hx.flips hclean))

/-- Reads one after another, each of which goes on only where those before it delivered. -/
theorem foldl_delivered {α β : Type} {P : β → Prop} {f : State × β → α → State × β}
    (h : ∀ p x, P (f p x).2 → P p.2 ∧ RunKept p.1 (f p x).1) (l : List α) (p : State × β) (hl : P (l.foldl f p).2) :
    P p.2 ∧ RunKept p.1 (l.foldl f p).1 := by
  induction l generalizing p with
  | nil => exact ⟨hl, refl p.1⟩
  | cons x r ih =>
    obtain ⟨hx, hr⟩ := ih (f p x) hl
    obtain ⟨hp, hk⟩ := h p x hx
    exact ⟨hp, hk.trans hr⟩

end RunKept

/-- A step that takes effect after accesses that left the record alone counts as run, and nothing else of it moves. -/
theorem ranStep_after {s u : State} (h : RunKept s u) (k : Nat) :
    (ranStep k u).ttu.ran = s.ttu.ran ++ [k] ∧ (ranStep k u).ttu.done = s.ttu.done ∧ (ranStep k u).xng = s.xng
      ∧ (ranStep k u).flash = s.flash :=
  ⟨congrArg (· ++ [k]) h.ran, h.done, h.xng, h.flash⟩

/-- A step that met poison counts as run too, and the unit will stop (R388). -/
theorem ranPoisoned_ttu (k : Nat) (s : State) :
    (ranPoisoned k s).ttu = { s.ttu with ran := s.ttu.ran ++ [k], stopNext := true } := by
  rw [ranPoisoned, poisonStop, raise_ttu]
  rfl

/-! ### The store -/

/-- A word that is delivered has fenced nothing (R146). -/
theorem runKept_touchWord {n w : Nat} {s : State} (hok : (touchWord n w s).2 = true) : RunKept s (touchWord n w s).1 := by
  revert hok
  unfold touchWord
  extract_lets k fl syn
  split
  · exact fun _ => .refl s
  next hflip =>
    have hflips : s.isl.flips ≠ [] := fun hclean => hflip (by simp only [fl, hclean]; rfl)
    split
    · split
      · exact fun _ => .refl s
      · refine fun _ => .raised ?_ 0x0403 n []
        exact ⟨rfl, rfl, rfl, rfl, fun hclean => absurd hclean hflips⟩
    · exact fun hok => absurd hok Bool.false_ne_true

theorem runKept_touchWords {n : Nat} {ws : List Nat} {s : State} (hok : (touchWords n ws s).2 = true) :
    RunKept s (touchWords n ws s).1 := by
  refine (RunKept.foldl_delivered (P := (· = true)) (fun p w hp => ?_) ws (s, true) hok).2
  by_cases hsofar : p.2 = true
  · rw [if_pos hsofar] at hp ⊢
    exact ⟨hsofar, runKept_touchWord hp⟩
  · rw [if_neg hsofar] at hp
    exact absurd hp hsofar

theorem runKept_readPhys {n a len : Nat} {s : State} (hok : (readPhys n a len s).2.isSome = true) :
    RunKept s (readPhys n a len s).1 := by
  revert hok
  unfold readPhys
  dsimp only
  split
  next hdelivered => exact fun _ => runKept_touchWords hdelivered
  next => exact fun hok => absurd hok Bool.false_ne_true

theorem runKept_readStore {l a n : Nat} {s : State} (hok : (readStore l a n s).2.1.isSome = true) :
    RunKept s (readStore l a n s).1 := by
  revert hok
  unfold readStore
  dsimp only
  split
  · exact runKept_readPhys
  · exact fun _ => .of_memAside (memAside_readMem _ _ _ s)

/-- A store free of errors holds no word in error. -/
theorem badWords_clean {s : State} (hclean : s.isl.flips = []) (n a len : Nat) : badWords s n a len = [] := by
  rw [badWords, hclean]
  rfl

theorem runKept_writePhys {s : State} (hclean : s.isl.flips = []) (n a : Nat) (bs : List Byte) : RunKept s (writePhys n a bs s) := by
  unfold writePhys
  rw [badWords_clean hclean]
  split
  · exact .refl s
  · split
    · exact .refl s
    · refine ⟨rfl, rfl, rfl, rfl, fun _ => ?_⟩
      show s.isl.flips.filter _ = []
      rw [hclean, List.filter_nil]

theorem runKept_writeStore {s : State} (hclean : s.isl.flips = []) (l a : Nat) (bs : List Byte) : RunKept s (writeStore l a bs s) := by
  unfold writeStore
  split
  · exact runKept_writePhys hclean _ _ _
  · exact .of_memAside (memAside_writeMem _ _ _ s)

/-! ### Places -/

theorem runKept_readPlace {sl : ImgSlot} {i : Image} {l : Nat} {p : Place} {off n : Nat} {s : State}
    (hok : (readPlace sl i l p off n s).2.1.isSome = true) : RunKept s (readPlace sl i l p off n s).1 := by
  revert hok
  unfold readPlace
  split
  · exact runKept_readStore
  · split
    · exact runKept_readStore
    · split
      · exact fun _ => .of_memAside (memAside_readMem _ _ _ s)
      · exact fun _ => .refl s

theorem runKept_writePlace {s : State} (hclean : s.isl.flips = []) (sl : ImgSlot) (i : Image) (l : Nat) (p : Place) (off : Nat)
    (bs : List Byte) : RunKept s (writePlace sl i l p off bs s) := by
  unfold writePlace
  split
  · exact runKept_writeStore hclean _ _ _
  · split
    · exact runKept_writeStore hclean _ _ _
    · split
      · exact .of_memAside (memAside_writeMem _ _ _ s)
      · exact .refl s

/-- Rows that have all been read have fenced nothing (R147, R157). -/
theorem runKept_readRows {rd : Nat → State → State × Option (List Byte) × Bool}
    (hrd : ∀ off s, (rd off s).2.1.isSome = true → RunKept s (rd off s).1) {rows stride : Nat} {s : State}
    (hok : (readRows rd rows stride s).2.1.isSome = true) : RunKept s (readRows rd rows stride s).1 := by
  refine (RunKept.foldl_delivered (P := fun r => r.1.isSome = true) (fun p r hp => ?_) (List.range rows) (s, some [], false) hok).2
  obtain ⟨t, got, poison⟩ := p
  cases got with
  | none => exact absurd hp Bool.false_ne_true
  | some rs =>
    have hrow := hrd (r * stride) t
    dsimp only at hp ⊢
    generalize rd (r * stride) t = row at hp hrow ⊢
    obtain ⟨v, bytes, q⟩ := row
    cases bytes with
    | none => exact absurd hp Bool.false_ne_true
    | some bs => exact ⟨rfl, hrow rfl⟩

/-! ### Statistics (R72, R116) -/

theorem runKept_addTensorStats (t : Nat) (st : Stats) (s : State) : RunKept s (addTensorStats t st s) := ⟨rfl, rfl, rfl, rfl, id⟩

theorem runKept_settleCopies (t : Nat) (s : State) : RunKept s (settleCopies t s) := by
  unfold settleCopies
  dsimp only
  split
  · exact .refl s
  · exact ⟨rfl, rfl, rfl, rfl, id⟩

theorem runKept_overCopies (t off n : Nat) (s : State) : RunKept s (overCopies t off n s) := by
  unfold overCopies
  split
  · exact runKept_settleCopies t s
  · exact .refl s

theorem runKept_noteCopy (t off n : Nat) (s : State) : RunKept s (noteCopy t off n s) := ⟨rfl, rfl, rfl, rfl, id⟩

end Sys2Proof.Machine
end

section
/-! MOVE (R66, R157, R388): its rows read, and each of them written. -/

namespace Sys2Proof.Machine

/-! ### The rows -/

section
variable {k : Nat} {s s1 : State} {sl : ImgSlot} {i : Image} {st : StepEnt} {m : MoveOp}

/-- The rows of a MOVE's source, read in turn. -/
def moveRead (sl : ImgSlot) (i : Image) (l : Nat) (m : MoveOp) (s : State) : State × Option (List (List Byte)) × Bool :=
  readRows (fun off s => readPlace sl i l m.src off m.rowBytes s) m.rows m.srcStride s

/-- The scale exponent that a MOVE's source is decoded with. -/
def moveSrcScale (sl : ImgSlot) (i : Image) (m : MoveOp) (s : State) : Int :=
  if m.src.space = 2 then (i.tensors[m.src.addr]?).elim 0 fun te => scaleNow s sl m.src.addr te else 0

/-- The scale exponent that a MOVE's destination is encoded with. -/
def moveDstScale (sl : ImgSlot) (i : Image) (m : MoveOp) (s : State) : Int :=
  if m.dst.space = 2 then (i.tensors[m.dst.addr]?).elim 0 fun te => writeScale s sl i (openCrossing s i) m.dst.addr te else 0

/-- The rows of a MOVE written in turn. -/
def moveWritten (sl : ImgSlot) (i : Image) (l : Nat) (m : MoveOp) (rows : List (List Byte)) (s : State) : State :=
  rows.zipIdx.foldl (fun u p => moveRow sl i l s.ttu.runIdx m (moveSrcScale sl i m s) (moveDstScale sl i m s) p.2 p.1 u) s

theorem exec_move_ready (h : stepReady k s = some (sl, i, st)) (hop : st.op = .move m) :
    exec (.move k) s = .next (doMove k sl i st m s) := by
  show execMove k s = _
  simp only [execMove, h, hop]

/-- A row lost to a store error leaves the step to its replay (R157). -/
theorem doMove_lost {p : Bool} (h : moveRead sl i st.lislet m s = (s1, none, p)) : doMove k sl i st m s = s1 := by
  unfold moveRead at h
  simp only [doMove, h]

/-- A row that met poison stops the unit (R388). -/
theorem doMove_poisoned {rows : List (List Byte)} (h : moveRead sl i st.lislet m s = (s1, some rows, true)) :
    doMove k sl i st m s = ranPoisoned k s1 := by
  unfold moveRead at h
  simp only [doMove, h]

/-- Rows that are all read are written, and the step counts as run (R66). -/
theorem doMove_read {rows : List (List Byte)} (h : moveRead sl i st.lislet m s = (s1, some rows, false)) :
    doMove k sl i st m s = ranStep k (moveWritten sl i st.lislet m rows s1) := by
  unfold moveRead at h
  simp only [doMove, h, moveWritten, moveSrcScale, moveDstScale]
  cases i.tensors[m.src.addr]? <;> cases i.tensors[m.dst.addr]? <;> rfl

theorem runKept_moveRead {l : Nat} {rows : List (List Byte)} {p : Bool} (h : moveRead sl i l m s = (s1, some rows, p)) :
    RunKept s s1 := by
  have hread : RunKept s (moveRead sl i l m s).1 :=
    runKept_readRows (fun _ _ => runKept_readPlace) (by rw [show readRows _ _ _ s = _ from h]; rfl)
  rwa [h] at hread

end

/-! ### One row written (R66, R72) -/

section
variable {sl : ImgSlot} {i : Image} {l index r : Nat} {m : MoveOp} {srcS dstS : Int} {src : List Byte} {u : State}

/-- The encoded row that a fold joins from its blocks is their bytes, whatever their statistics. -/
theorem foldl_addStats_fst (l : List (List Byte × Stats)) (acc : List Byte × Stats) :
    (l.foldl (fun (acc : List Byte × Stats) p => (acc.1 ++ p.1, addStats acc.2 p.2)) acc).1 = acc.1 ++ (l.map (·.1)).flatten := by
  induction l generalizing acc with
  | nil => exact (List.append_nil _).symm
  | cons p r ih => rw [List.foldl_cons, ih, List.map_cons, List.flatten_cons, List.append_assoc]

/-- The bytes of an encoded row do not depend on which of its elements count. -/
theorem encodeRow_bytes (f : Fmt) (block : Nat) (S : Int) (modes : List Rounding) (xs : List Num) (c d : Nat → Bool) :
    (encodeRow f block S modes xs c).1 = (encodeRow f block S modes xs d).1 := by
  unfold encodeRow
  split
  · dsimp only
    rw [foldl_addStats_fst, foldl_addStats_fst, List.map_map, List.map_map]
    rfl
  · rfl

/-- The values of a converting MOVE's row. -/
def moveValues (i : Image) (m : MoveOp) (srcS : Int) (src : List Byte) : List Num :=
  decodeRow ((fmtOfCode m.srcFmt).getD .raw) (moveBlock i m m.src) srcS src

/-- The format that a MOVE's destination holds. -/
def moveFmt (m : MoveOp) : Fmt := (fmtOfCode m.dstFmt).getD .raw

/-- A converting MOVE's row encoded, its elements rounded as those of row `r`. -/
def moveEncoded (sl : ImgSlot) (i : Image) (l index : Nat) (m : MoveOp) (srcS dstS : Int) (r : Nat) (src : List Byte)
    (counts : Nat → Bool) : List Byte × Stats :=
  encodeRow (moveFmt m) (moveBlock i m m.dst) dstS
    ((List.range (moveValues i m srcS src).length).map fun e =>
      moveRounding sl i l m (moveFmt m) (moveBlock i m m.dst) (r * m.dstStride) index e sl.seed)
    (moveValues i m srcS src) counts

/-- The bytes of a converting MOVE's row. -/
def moveRowBytes (sl : ImgSlot) (i : Image) (l index : Nat) (m : MoveOp) (srcS dstS : Int) (r : Nat) (src : List Byte) : List Byte :=
  (moveEncoded sl i l index m srcS dstS r src fun _ => true).1

/-- A converting MOVE's row ends in the middle of a byte. -/
def endsInNibble (i : Image) (m : MoveOp) (srcS : Int) (src : List Byte) : Bool :=
  fmtBits (moveFmt m) = 4 && !fmtIsBlock (moveFmt m) && (moveValues i m srcS src).length % 2 == 1

/-- The last byte of a row takes its upper nibble from the byte that stood there. -/
def keepNibble (bs : List Byte) : State × Option (List Byte) × Bool → List Byte
  | (_, some old, _) => patch bs (bs.length - 1) [BitVec.ofNat 8 (fld bs (bs.length - 1) 1 % 16 + leNat old / 16 * 16)]
  | _ => bs

/-- A raw row outside a tensor is its bytes. -/
theorem moveRow_raw (hraw : m.srcFmt = 0) (hplace : m.dst.space ≠ 2) :
    moveRow sl i l index m srcS dstS r src u = writePlace sl i l m.dst (r * m.dstStride) src u := by
  unfold moveRow
  rw [if_pos hraw, if_neg hplace]

/-- A raw row in a tensor is its bytes, which count in the statistics. -/
theorem moveRow_raw_tensor (hraw : m.srcFmt = 0) (htensor : m.dst.space = 2) :
    moveRow sl i l index m srcS dstS r src u = noteCopy m.dst.addr (m.dst.offset + r * m.dstStride) src.length
      (writePlace sl i l m.dst (r * m.dstStride) src (overCopies m.dst.addr (m.dst.offset + r * m.dstStride) src.length u)) := by
  unfold moveRow
  rw [if_pos hraw, if_pos htensor]

/-- The bytes that a converting MOVE writes over its destination's row: an odd last element of four bits leaves the other nibble of
its byte as it stands. -/
def moveRowOver (sl : ImgSlot) (i : Image) (l index : Nat) (m : MoveOp) (srcS dstS : Int) (r : Nat) (src : List Byte) (u : State) :
    List Byte :=
  if endsInNibble i m srcS src then
    keepNibble (moveRowBytes sl i l index m srcS dstS r src)
      (readPlace sl i l m.dst (r * m.dstStride + (moveRowBytes sl i l index m srcS dstS r src).length - 1) 1 u)
  else moveRowBytes sl i l index m srcS dstS r src

/-- A converting row is its encoded values; in a tensor it adds to the statistics. -/
theorem moveRow_converting (sl : ImgSlot) (i : Image) (l index r : Nat) (srcS dstS : Int) (src : List Byte) (u : State)
    (hconv : m.srcFmt ≠ 0) :
    ∃ stats, moveRow sl i l index m srcS dstS r src u =
      (let bs := moveRowOver sl i l index m srcS dstS r src u
      if m.dst.space = 2 then addTensorStats m.dst.addr stats (writePlace sl i l m.dst (r * m.dstStride) bs
        (overCopies m.dst.addr (m.dst.offset + r * m.dstStride) bs.length u))
      else writePlace sl i l m.dst (r * m.dstStride) bs u) := by
  have hbytes := encodeRow_bytes (moveFmt m) (moveBlock i m m.dst) dstS
    ((List.range (moveValues i m srcS src).length).map fun e =>
      moveRounding sl i l m (moveFmt m) (moveBlock i m m.dst) (r * m.dstStride) index e sl.seed)
    (moveValues i m srcS src) (fun _ => true)
  unfold moveRow
  extract_lets off sf df at_ sb db xs modes counts bytes
  rw [if_neg hconv]
  refine ⟨(encodeRow df db dstS modes xs counts).2, ?_⟩
  dsimp only [bytes]
  rw [moveRowOver, moveRowBytes, moveEncoded, hbytes counts]
  rfl

theorem endsInNibble_iff : endsInNibble i m srcS src = true ↔
    fmtBits (moveFmt m) = 4 ∧ fmtIsBlock (moveFmt m) = false ∧ (moveValues i m srcS src).length % 2 = 1 := by
  simp [endsInNibble, and_assoc]

/-- A row of whole bytes is written as it is encoded. -/
theorem moveRowOver_whole
    (hwhole : fmtBits (moveFmt m) = 4 → fmtIsBlock (moveFmt m) = true ∨ (moveValues i m srcS src).length % 2 = 0) :
    moveRowOver sl i l index m srcS dstS r src u = moveRowBytes sl i l index m srcS dstS r src := by
  refine if_neg fun hends => ?_
  obtain ⟨hbits, hblock, hodd⟩ := endsInNibble_iff.1 hends
  rcases hwhole hbits with hyes | heven
  · exact absurd (hblock.symm.trans hyes) Bool.false_ne_true
  · omega

/-- A row that ends in the middle of a byte keeps the other nibble that was read there. -/
theorem moveRowOver_nibble {v : State} {old : List Byte} {q : Bool} (hends : endsInNibble i m srcS src = true)
    (hread : readPlace sl i l m.dst (r * m.dstStride + (moveRowBytes sl i l index m srcS dstS r src).length - 1) 1 u
      = (v, some old, q)) :
    moveRowOver sl i l index m srcS dstS r src u
      = keepNibble (moveRowBytes sl i l index m srcS dstS r src) (v, some old, q) := by
  rw [moveRowOver, if_pos hends, hread]

theorem runKept_moveRow (hclean : u.isl.flips = []) : RunKept u (moveRow sl i l index m srcS dstS r src u) := by
  have hover (off n : Nat) (bs : List Byte) :
      RunKept u (writePlace sl i l m.dst (r * m.dstStride) bs (overCopies m.dst.addr off n u)) := by
    have hcopies := runKept_overCopies m.dst.addr off n u
    exact hcopies.trans (runKept_writePlace (hcopies.flips hclean) sl i l m.dst _ bs)
  by_cases hconv : m.srcFmt = 0
  · by_cases htensor : m.dst.space = 2
    · rw [moveRow_raw_tensor hconv htensor]
      exact (hover _ _ _).trans (runKept_noteCopy _ _ _ _)
    · rw [moveRow_raw hconv htensor]
      exact runKept_writePlace hclean sl i l m.dst _ src
  · obtain ⟨stats, hrow⟩ := moveRow_converting sl i l index r srcS dstS src u hconv
    rw [hrow]
    dsimp only
    split
    · exact (hover _ _ _).trans (runKept_addTensorStats _ _ _)
    · exact runKept_writePlace hclean sl i l m.dst _ _

theorem runKept_moveWritten {rows : List (List Byte)} (hclean : u.isl.flips = []) : RunKept u (moveWritten sl i l m rows u) :=
  RunKept.foldl_clean (fun _ _ h => runKept_moveRow h) rows.zipIdx u hclean

/-- Raw rows written to the store are their bytes, row by row. -/
theorem moveWritten_raw_store {rows : List (List Byte)} (hraw : m.srcFmt = 0) (hstore : m.dst.space = 0) :
    moveWritten sl i l m rows u =
      rows.zipIdx.foldl (fun s p => writeStore l (m.dst.addr + p.2 * m.dstStride) p.1 s) u := by
  refine congrArg (fun f => rows.zipIdx.foldl f u) (funext fun s => funext fun p => ?_)
  rw [moveRow_raw hraw (by omega), writePlace, if_pos hstore]

end

end Sys2Proof.Machine
end

section
/-! The matrix modes (R67, R68, R127, R134): what each writes once its operands have been read. -/

namespace Sys2Proof.Machine

section
variable {k : Nat} {s s1 s2 : State} {sl : ImgSlot} {i : Image} {st : StepEnt} {m : MmaOp} {upset : Option Upset}

/-- FULL writes its tile, unless a residue does not match (R67, R134). -/
theorem exec_mmaFull_read {p : Partial} (h : stepReady k s = some (sl, i, st)) (hop : st.op = .mma m) (hmode : m.mode = 0)
    (hread : readOperands st.lislet m upset s = (s1, some p)) :
    exec (.mmaFull k upset) s = .next (
      if p.bad then residueFault st.lislet s1 else ranStep k (writeTile k sl st.lislet m p s1)) := by
  show execMmaFull k upset s = _
  simp only [execMmaFull, h, hop, hmode, hread, bne_self_eq_false, Bool.false_eq_true, if_false]
  split <;> rfl

/-- PARTIAL writes the accumulator block of its chunks, unless a residue does not match (R127, R134). -/
theorem exec_mmaPartial_read {p : Partial} (h : stepReady k s = some (sl, i, st)) (hop : st.op = .mma m) (hmode : m.mode = 1)
    (hread : readOperands st.lislet m upset s = (s1, some p)) :
    exec (.mmaPartial k upset) s = .next (
      if p.bad then residueFault st.lislet s1
      else ranStep k (writeStore st.lislet m.accAddr (accBlock m.chunkFirst m.chunkCount (mmaTotal m) p) s1)) := by
  show execMmaPartial k upset s = _
  simp only [execMmaPartial, h, hop, hmode, hread, bne_self_eq_false, Bool.false_eq_true, if_false]
  split <;> rfl

/-- COMBINE writes the parent of its two blocks, where their tags agree (R67, R68). -/
theorem exec_mmaCombine_read {a b : List Byte} {q r : Bool} {f1 c1 t1 f2 c2 t2 : Nat} {p1 p2 : Partial}
    (h : stepReady k s = some (sl, i, st)) (hop : st.op = .mma m) (hmode : m.mode = 2)
    (hfirst : readStore st.lislet m.accAddr accBytes s = (s1, some a, q))
    (hsecond : readStore st.lislet m.acc2Addr accBytes s1 = (s2, some b, r))
    (ha : parseAcc a = (f1, c1, t1, p1)) (hb : parseAcc b = (f2, c2, t2, p2)) :
    exec (.mmaCombine k) s = .next (
      if combineOk f1 c1 t1 f2 c2 t2 then
        ranStep k (writeStore st.lislet m.cAddr (accBlock f1 (c1 + c2) t1 (combine p1 p2)) s2)
      else treeMismatch k s2) := by
  show execMmaCombine k s = _
  simp only [execMmaCombine, h, hop, hmode, hfirst, hsecond, ha, hb, bne_self_eq_false, Bool.false_eq_true, if_false]
  split <;> rfl

/-- FINAL writes the tile of a block that covers every chunk (R67, R68). -/
theorem exec_mmaFinal_read {a : List Byte} {q : Bool} {f c t : Nat} {p : Partial} (h : stepReady k s = some (sl, i, st))
    (hop : st.op = .mma m) (hmode : m.mode = 3) (hread : readStore st.lislet m.accAddr accBytes s = (s1, some a, q))
    (ha : parseAcc a = (f, c, t, p)) :
    exec (.mmaFinal k) s = .next (
      if f = 0 ∧ c = t then ranStep k (writeTile k sl st.lislet m p s1) else treeMismatch k s1) := by
  show execMmaFinal k s = _
  simp only [execMmaFinal, h, hop, hmode, hread, ha, bne_self_eq_false, Bool.false_eq_true, if_false]
  split <;> rfl

end

/-- Settles O14: a MOVE by how its rows were read and how each is written, a matrix step by what its operands gave. -/
theorem stepMovesAndMatrixModes : Obligations.StepMovesAndMatrixModes := by
  unfold Obligations.StepMovesAndMatrixModes
  refine ⟨fun k s s1 sl i st m got poison hready hop hread => ?move, fun sl i l index r m srcS dstS src u => ?row,
    fun k s sl i st m upset hready hop => ⟨fun s1 p hread => ?tile, ?combine, ?final⟩⟩
  case move =>
    rw [exec_move_ready hready hop]
    refine ⟨fun hlost => ?lost, fun hgot hpoison => ?poisoned, fun rows hgot hpoison hraw hstore => ?raw,
      fun rows hgot hpoison hclean => ?ran, fun rows hgot hpoison => ?written⟩
    case lost =>
      subst hlost
      exact congrArg _ (doMove_lost hread)
    case poisoned =>
      obtain ⟨rows, rfl⟩ := Option.ne_none_iff_exists'.1 hgot
      subst hpoison
      exact congrArg _ (doMove_poisoned hread)
    case raw =>
      subst hgot hpoison
      rw [doMove_read hread, moveWritten_raw_store hraw hstore]
    case ran =>
      subst hgot hpoison
      rw [doMove_read hread]
      exact ⟨_, rfl, ranStep_after ((runKept_moveRead hread).trans (runKept_moveWritten hclean)) k⟩
    case written =>
      subst hgot hpoison
      exact congrArg _ (doMove_read hread)
  case row =>
    intro off at_ sf df db xs modes bs half row
    refine ⟨fun hraw hplace => moveRow_raw hraw hplace, fun hraw htensor => moveRow_raw_tensor hraw htensor,
      fun hconv hwhole => ?whole, fun v old q hconv hbits hblock hodd hread hplace => ?nibble⟩
    case whole =>
      obtain ⟨stats, hrow⟩ := moveRow_converting sl i l index r srcS dstS src u hconv
      rw [moveRowOver_whole hwhole] at hrow
      exact ⟨fun hplace => hrow.trans (if_neg hplace), fun htensor => ⟨stats, hrow.trans (if_pos htensor)⟩⟩
    case nibble =>
      obtain ⟨stats, hrow⟩ := moveRow_converting sl i l index r srcS dstS src u hconv
      rw [moveRowOver_nibble (endsInNibble_iff.2 ⟨hbits, hblock, hodd⟩) hread] at hrow
      exact hrow.trans (if_neg hplace)
  case tile =>
    exact ⟨fun hmode => exec_mmaFull_read hready hop hmode hread, fun hmode => exec_mmaPartial_read hready hop hmode hread⟩
  case combine =>
    exact fun s1 s2 a b q r f1 c1 t1 f2 c2 t2 p1 p2 hmode hfirst hsecond ha hb =>
      exec_mmaCombine_read hready hop hmode hfirst hsecond ha hb
  case final => exact fun s1 a q f c t p hmode hread ha => exec_mmaFinal_read hready hop hmode hread ha

end Sys2Proof.Machine
end

section
/-! KERNEL (R69, R176). -/

namespace Sys2Proof.Machine

section
variable {k : Nat} {s : State} {sl : ImgSlot} {i : Image} {st : StepEnt}

/-- The kernel that a KERNEL step starts: at its first instruction, with the step's arguments and ranges. -/
def stepKernel (k : Nat) (sl : ImgSlot) (i : Image) (l : Nat) (o : KernelOp) (s : State) : LaneKernel :=
  { code := (i.kernels[o.kernel]?).elim [] (·.code), ranges := kernelRanges i l o, uni := startThread o.args
    islet := physOf s l, step := k, mixStep := stepCounter sl s.ttu.runIdx, seed := sl.seed
    context := sl.context, lislet := l }

theorem exec_kernel_ready {o : KernelOp} (h : stepReady k s = some (sl, i, st)) (hop : st.op = .kernel o) :
    exec (.kernel k) s = .next { s with lnc := { s.lnc with
      steps := s.lnc.steps ++ [(st.lislet, stepKernel k sl i st.lislet o s)] } } := by
  show execKernel k s = _
  simp only [execKernel, h, hop]
  rfl

/-- g1 on hold the arguments (R176). -/
theorem getG_startThread {args : List Nat} {j : Nat} (hj : j < args.length) :
    getG (startThread args) (j + 1) = BitVec.ofNat 32 (args.getD j 0) := by
  have hmapped : j < (args.map (BitVec.ofNat 32)).length := by rwa [List.length_map]
  show List.getD (0 :: args.map (BitVec.ofNat 32) ++ _) (j + 1) 0 = _
  rw [List.cons_append, List.getD_cons_succ, List.getD_append _ _ _ _ hmapped]
  exact List.getD_map args 0 (BitVec.ofNat 32)

/-- The registers above the arguments start at zero (R176). -/
theorem getG_startThread_above {args : List Nat} {j : Nat} (hj : args.length < j) : getG (startThread args) j = 0 := by
  obtain ⟨n, rfl⟩ := Nat.exists_eq_succ_of_ne_zero (show j ≠ 0 by omega)
  have habove : (args.map (BitVec.ofNat 32)).length ≤ n := by
    rw [List.length_map]
    omega
  show List.getD (0 :: args.map (BitVec.ofNat 32) ++ _) (n + 1) 0 = _
  rw [List.cons_append, List.getD_cons_succ, List.getD_append_right _ _ _ _ habove]
  exact List.getElem?_getD_replicate_default_eq _ _ _

/-- Every predicate but p0 starts false (R176). -/
theorem getP_startThread (args : List Nat) {j : Nat} (hj : 1 ≤ j) : getP (startThread args) j = false := by
  obtain ⟨n, rfl⟩ := Nat.exists_eq_succ_of_ne_zero (show j ≠ 0 by omega)
  exact List.getElem?_getD_replicate_default_eq false 7 n

end

end Sys2Proof.Machine
end

section
/-! The exchanges (R70, R388). -/

namespace Sys2Proof.Machine

/-! ### What an exchange leaves alone -/

theorem runKept_overElems (t : Nat) (te : TensorEnt) (a n : Nat) (s : State) : RunKept s (overElems t te a n s) :=
  .foldl (fun u _ => runKept_overCopies _ _ _ u) _ s

theorem memAside_writeElems (sl : ImgSlot) (te : TensorEnt) (a n : Nat) (bs : List Byte) (s : State) :
    MemAside s (writeElems sl te a n bs s) := by
  unfold writeElems
  generalize elemSpans te a n = spans
  induction spans generalizing s bs with
  | nil => exact memAside_refl s
  | cons p r ih => exact memAside_trans (memAside_writeMem _ _ _ s) (ih _ _)

theorem memAside_readElems (sl : ImgSlot) (te : TensorEnt) (a n : Nat) (s : State) : MemAside s (readElems sl te a n s).1 := by
  unfold readElems
  generalize ([] : List Byte) = bs, false = q
  generalize elemSpans te a n = spans
  induction spans generalizing s bs q with
  | nil => exact memAside_refl s
  | cons p r ih => exact memAside_trans (memAside_readMem _ _ _ s) (ih _ _ _)

theorem runKept_logExch (sl : ImgSlot) (i : Image) (step : Nat) (bs : List Byte) (st : Stats) (s : State) :
    RunKept s (logExch sl i step bs st s) := by
  unfold logExch
  split
  · exact .refl s
  · split
    · exact .refl s
    next base size _ =>
      extract_lets at_ u
      split
      · exact .trans (.of_memAside (memAside_writeMem whoExch (base + at_) bs s)) ⟨rfl, rfl, rfl, rfl, id⟩
      · refine .raised ?_ 0x0B0E noSubject []
        exact ⟨rfl, rfl, rfl, rfl, id⟩

section
variable {k : Nat} {s s1 s2 : State} {sl : ImgSlot} {i : Image} {st : StepEnt} {x : ExchOp} {ts td : TensorEnt}
  {others : List (Nat × Int × List Byte)}

/-- DST takes its bytes and the step counts as run. -/
theorem finishExch_ran (h : RunKept s s1) (dn : Nat) (bs : List Byte) (stats : State → Stats) :
    (finishExch k sl i x td dn bs stats s1).ttu.ran = s.ttu.ran ++ [k] ∧ (finishExch k sl i x td dn bs stats s1).ttu.done = s.ttu.done
      ∧ (finishExch k sl i x td dn bs stats s1).flash = s.flash := by
  have hwritten := h.trans ((runKept_overElems x.dst td x.dstOffset dn s1).trans
    (.of_memAside (memAside_writeElems sl td x.dstOffset dn bs _)))
  obtain ⟨hran, hdone, -, hflash⟩ := ranStep_after (hwritten.trans ((runKept_addTensorStats x.dst _ _).trans
    (runKept_logExch sl i k bs (stats (writeElems sl td x.dstOffset dn bs (overElems x.dst td x.dstOffset dn s1))) _))) k
  exact ⟨hran, hdone, hflash⟩

/-! ### The command -/

/-- The command of an exchange's operation. -/
def exchInstr (op k : Nat) (others : List (Nat × Int × List Byte)) : Instr :=
  if op = 0 then .allreduce k others else if op = 1 then .reduceScatter k others
  else if op = 2 then .allgather k others else .broadcast k others

theorem exec_exchInstr {op : Nat} (hop : op ≤ 3) : exec (exchInstr op k others) s = .next (exchStep op k others s) := by
  obtain rfl | rfl | rfl | rfl : op = 0 ∨ op = 1 ∨ op = 2 ∨ op = 3 := by omega
  all_goals rfl

theorem exec_exch_ready (h : stepReady k s = some (sl, i, st)) (hop : st.op = .exch x) (hx : x.op ≤ 3) :
    exec (exchInstr x.op k others) s = .next (doExch k sl i x others s) := by
  rw [exec_exchInstr hx]
  simp only [exchStep, h, hop, if_true]

/-! ### What an exchange does -/

/-- The module's own number among the ranks. -/
def exchOwn (i : Image) (s : State) : Nat := if i.ranks = 1 then 0 else s.xng.rank.toNat

/-- The first element of SRC that the module gives: of REDUCE_SCATTER its own part. -/
def exchFrom (i : Image) (x : ExchOp) (s : State) : Nat := x.srcOffset + (if x.op = 1 then exchOwn i s * x.elems else 0)

/-- What the module reads of SRC: of REDUCE_SCATTER the parts of every rank. -/
def exchRead (sl : ImgSlot) (i : Image) (x : ExchOp) (ts : TensorEnt) (s : State) : State × List Byte × Bool :=
  readElems sl ts x.srcOffset (x.elems * (if x.op = 1 then i.ranks else 1)) s

theorem exchOwn_eq (i : Image) (s : State) : (if i.ranks = 1 then 0 else s.xng.rank.toNat) = exchOwn i s := by
  rw [exchOwn]

theorem exchFrom_eq (i : Image) (x : ExchOp) (s : State) :
    x.srcOffset + (if x.op = 1 then exchOwn i s * x.elems else 0) = exchFrom i x s := by
  rw [exchFrom]

theorem exchRead_eq : readElems sl ts (if x.op = 1 then x.srcOffset else exchFrom i x s)
    (x.elems * (if x.op = 1 then i.ranks else 1)) s = exchRead sl i x ts s := by
  unfold exchRead exchFrom
  split <;> rfl

/-- The part of SRC that the module gives, read after all that it reads. -/
def exchMine (sl : ImgSlot) (i : Image) (x : ExchOp) (ts : TensorEnt) (s : State) : State × List Byte × Bool :=
  readElems sl ts (exchFrom i x s) x.elems (exchRead sl i x ts s).1

theorem runKept_exchMine : RunKept s (exchMine sl i x ts s).1 :=
  .trans (.of_memAside (memAside_readElems sl ts _ _ s)) (.of_memAside (memAside_readElems sl ts _ _ _))

/-- DST takes the whole parts (R70). -/
def exchCopied (k : Nat) (sl : ImgSlot) (i : Image) (x : ExchOp) (ts td : TensorEnt) (sa dn : Nat) (parts : List (List Byte))
    (s : State) : State :=
  finishExch k sl i x td dn (copiedElems sl ts td x sa dn parts s) (fun u => elemStats sl td (scaleNow u sl x.dst td) x.dstOffset dn u) s

/-- DST takes the reduction of the parts, encoded (R70). -/
def exchReduced (k : Nat) (sl : ImgSlot) (i : Image) (x : ExchOp) (ts td : TensorEnt) (sa n : Nat) (parts : List (Int × List Byte))
    (s : State) : State :=
  let f := tensorFmt td
  let vals := parts.map fun p => (codesOf ts sa x.elems (padTo n p.2)).map fun z => scaleNum p.1 (decodeElem f z)
  let outs := (List.range x.elems).map fun e => reduceRanks x.redop (vals.map fun v => v.getD e .nan)
  let enc := outs.map fun v => (v, encodeElem f .rne (scaleNum (-writeScale s sl i (openCrossing s i) x.dst td) v))
  finishExch k sl i x td x.elems
    (overCodes td x.dstOffset x.elems (peekElems sl td x.dstOffset x.elems s) (enc.map (·.2.1)))
    (fun _ => enc.foldl (fun st p => countElem st p.1 p.2.2) {}) s

/-- The parts that an exchange works on, with their scale exponents: of BROADCAST the root's elements, of the others every rank's, in
rank order; none where one is missing (R70). -/
def exchGiven (i : Image) (x : ExchOp) (mine : Int × List Byte) (others : List (Nat × Int × List Byte)) (s : State) :
    Option (List (Int × List Byte)) :=
  if x.op = 3 then if exchOwn i s = x.root then some [mine] else (assoc x.root others).map fun p => [p]
  else rankParts i.ranks (exchOwn i s) mine others

section
variable (hs : i.tensors[x.src]? = some ts) (hd : i.tensors[x.dst]? = some td) (hreplay : s.ttu.replay = false)
include hs hd hreplay

/-- An exchange that meets poison writes nothing (R388). -/
theorem doExch_poisoned (hpoison : (exchRead sl i x ts s).2.2 = true) :
    doExch k sl i x others s = ranPoisoned k (exchRead sl i x ts s).1 := by
  generalize hread : exchRead sl i x ts s = first at hpoison ⊢
  obtain ⟨u, bs, q⟩ := first
  obtain rfl : q = true := hpoison
  simp only [doExch, hs, hd, hreplay, exchOwn_eq, exchFrom_eq, exchRead_eq, hread, Bool.false_eq_true, if_false]

/-- An exchange whose parts are all there takes effect on DST (R70). -/
theorem doExch_given {parts : List (Int × List Byte)} (hclean : (exchRead sl i x ts s).2.2 = false)
    (hgiven : exchGiven i x (scaleNow s sl x.src ts, (exchMine sl i x ts s).2.1) others s = some parts) :
    doExch k sl i x others s = (
      let mine := exchMine sl i x ts s
      if x.op = 2 ∨ x.op = 3 then
        exchCopied k sl i x ts td (exchFrom i x s) (x.elems * (if x.op = 2 then i.ranks else 1))
          (parts.map fun p => padTo mine.2.1.length p.2) mine.1
      else exchReduced k sl i x ts td (exchFrom i x s) mine.2.1.length parts mine.1) := by
  unfold exchMine at hgiven ⊢
  generalize hread : exchRead sl i x ts s = first at hclean hgiven ⊢
  obtain ⟨u, cs, q⟩ := first
  obtain rfl : q = false := hclean
  simp only [doExch, hs, hd, hreplay, exchOwn_eq, exchFrom_eq, exchRead_eq, hread, Bool.false_eq_true, if_false]
  unfold exchGiven at hgiven
  dsimp only at hgiven
  by_cases hroot : x.op = 3
  · rw [if_pos hroot] at hgiven
    rw [if_pos hroot, if_pos (Or.inr hroot)]
    split at hgiven
    next hown =>
      obtain rfl : _ = parts := Option.some.inj hgiven
      rw [if_pos hown]
      rfl
    next hother =>
      obtain ⟨p, hp, rfl⟩ := Option.map_eq_some_iff.1 hgiven
      rw [if_neg hother, hp]
      rfl
  · rw [if_neg hroot] at hgiven
    rw [if_neg hroot, hgiven]
    by_cases hgather : x.op = 2
    · rw [if_pos (Or.inl hgather)]
      refine (if_pos hgather).trans ?_
      rw [List.map_map]
      rfl
    · rw [if_neg (not_or_intro hgather hroot)]
      dsimp only
      rw [if_neg hgather, if_neg hgather, Nat.mul_one]
      rfl

end

/-! ### The parts that are there -/

theorem mapM_some {α β : Type} {f : α → Option β} {g : α → β} {l : List α} (h : ∀ a ∈ l, f a = some (g a)) :
    l.mapM f = some (l.map g) := by
  induction l with
  | nil => rfl
  | cons a r ih =>
    rw [List.mapM_cons, h a List.mem_cons_self, ih fun b hb => h b (List.mem_cons_of_mem _ hb)]
    rfl

/-- Every rank's part, the module's own among them. -/
def allParts (ranks own : Nat) (mine : Int × List Byte) (others : List (Nat × Int × List Byte)) : List (Int × List Byte) :=
  (List.range ranks).map fun r => if r = own then mine else (assoc r others).getD (0, [])

theorem rankParts_present {ranks own : Nat} {mine : Int × List Byte} (h : ∀ r < ranks, r ≠ own → (assoc r others).isSome = true) :
    rankParts ranks own mine others = some (allParts ranks own mine others) := by
  refine mapM_some fun r hr => ?_
  by_cases hown : r = own
  · rw [if_pos hown, if_pos hown]
  · obtain ⟨p, hp⟩ := Option.isSome_iff_exists.1 (h r (List.mem_range.1 hr) hown)
    rw [if_neg hown, if_neg hown, hp]
    rfl

theorem exchGiven_present {mine : Int × List Byte} (hop : x.op ≠ 3)
    (h : ∀ r < i.ranks, r ≠ exchOwn i s → (assoc r others).isSome = true) :
    exchGiven i x mine others s = some (allParts i.ranks (exchOwn i s) mine others) :=
  (if_neg hop).trans (rankParts_present h)

/-- The root's elements are there, with some scale exponent. -/
theorem exchGiven_root {S : Int} {mine bs : List Byte} (hop : x.op = 3)
    (h : exchOwn i s = x.root ∧ bs = mine ∨ exchOwn i s ≠ x.root ∧ ∃ e, assoc x.root others = some (e, bs)) :
    ∃ e, exchGiven i x (S, mine) others s = some [(e, bs)] := by
  unfold exchGiven
  rw [if_pos hop]
  rcases h with ⟨hown, rfl⟩ | ⟨hother, e, hsent⟩
  · exact ⟨S, if_pos hown⟩
  · refine ⟨e, (if_neg hother).trans ?_⟩
    rw [hsent]
    rfl

end

end Sys2Proof.Machine
end

section
/-! SNAP (R71, R210, R213 to R215, R388). -/

namespace Sys2Proof.Machine

theorem memAside_ttu {s t : State} (h : MemAside s t) : t.ttu = s.ttu := by rw [h]

theorem memAside_foldl_fst {α β : Type} {f : State × β → α → State × β} (h : ∀ p x, MemAside p.1 (f p x).1) (l : List α)
    (p : State × β) : MemAside p.1 (l.foldl f p).1 := by
  induction l generalizing p with
  | nil => exact memAside_refl p.1
  | cons x r ih => exact memAside_trans (h p x) (ih _)

section
variable {k : Nat} {s s1 : State} {sl : ImgSlot} {i : Image} {st : StepEnt} {o : SnapOp}

theorem exec_snapShip_ready (h : stepReady k s = some (sl, i, st)) (hop : st.op = .snap o) (hmode : o.mode = 0) :
    exec (.snapShip k) s = .next (doShip k sl i o s) := by
  show execSnapShip k s = _
  simp only [execSnapShip, h, hop, hmode, if_true]

theorem exec_snapPolicy_ready (h : stepReady k s = some (sl, i, st)) (hop : st.op = .snap o) (hmode : o.mode = 1) :
    exec (.snapPolicy k) s = .next (doPolicy k sl i o s) := by
  show execSnapPolicy k s = _
  simp only [execSnapPolicy, h, hop, hmode, if_true]

/-! ### SHIP (R71, R210, R213) -/

/-- The ranges that a SNAP takes. -/
def snapRanges (i : Image) (o : SnapOp) : List RangeEnt := (rangesAt i o.rangeFirst o.rangeCount).getD []

/-- The bytes of a SHIP's snapshot in its staging region. -/
def snapEnd (i : Image) (o : SnapOp) : Nat := (snapOffsets (snapDataOff (snapRanges i o).length) (snapRanges i o)).2

/-- A SHIP waits while its staging bytes hold an earlier snapshot that is still to be read (R213). -/
theorem doShip_busy (hbusy : snapBusy (regionBase sl o.staging) (snapEnd i o) s = true) : doShip k sl i o s = s := if_pos hbusy

/-- A SHIP that does not wait meets poison, or captures its snapshot (R71, R210, R388). -/
theorem doShip_free (hfree : snapBusy (regionBase sl o.staging) (snapEnd i o) s = false) :
    ∃ u, MemAside s u ∧ (doShip k sl i o s = ranPoisoned k u ∨ ∃ (keep : List Snapshot) (snap : Snapshot),
      doShip k sl i o s = ranStep k { u with ttu := { u.ttu with captured := keep ++ [snap] } }
        ∧ snap.slot = s.ttu.active ∧ snap.region = o.staging ∧ snap.stage = regionBase sl o.staging ∧ snap.index = s.ttu.runIdx
        ∧ snap.seq = countIndices i (shipsInto i o.staging) s.ttu.runIdx) := by
  have hnot : ¬ snapBusy (regionBase sl o.staging) (snapEnd i o) s = true := by rw [hfree]; exact Bool.false_ne_true
  generalize hship : doShip k sl i o s = t
  unfold snapEnd snapRanges at hnot
  unfold doShip at hship
  generalize (rangesAt i o.rangeFirst o.rangeCount).getD [] = rs at hnot hship
  dsimp only at hship
  generalize snapOffsets (snapDataOff rs.length) rs = at_ at hnot hship
  obtain ⟨offs, end_⟩ := at_
  dsimp only at hnot hship
  rw [if_neg hnot] at hship
  generalize hread : List.foldl _ (s, ([] : List (List Byte)), false) rs = read at hship
  have hmem : MemAside s read.1 := by
    rw [← hread]
    refine memAside_foldl_fst (fun p r => ?_) rs _
    split
    · exact memAside_readMem _ _ _ p.1
    · exact memAside_refl p.1
  clear hread
  obtain ⟨v, datas, poison⟩ := read
  cases poison with
  | true => exact ⟨v, hmem, .inl hship.symm⟩
  | false =>
    dsimp only at hship
    rw [if_neg Bool.false_ne_true] at hship
    generalize hhead : writeMem whoSnap _ _ v = w at hship
    generalize hdata : List.foldl _ w (offs.zip datas) = u at hship
    have hw : MemAside v w := hhead ▸ memAside_writeMem _ _ _ v
    have hu : MemAside w u := hdata ▸ memAside_foldl _ (fun x p => memAside_writeMem _ _ _ x) _ w
    have hall := memAside_trans (memAside_trans hmem hw) hu
    refine ⟨u, hall, .inr ⟨_, _, hship.symm, ?_, rfl, rfl, ?_, ?_⟩⟩
    · exact congrArg Ttu.active (memAside_ttu hall)
    · exact congrArg Ttu.runIdx (memAside_ttu hall)
    · exact congrArg (fun v : Ttu => countIndices i (shipsInto i o.staging) v.runIdx) (memAside_ttu hmem)

/-! ### POLICY (R71, R214, R215) -/

/-- One group of rows more is read. -/
def policyNext (sl : ImgSlot) (i : Image) (n : Nat) (acc : State × List (PolicyGroup × List Byte × Nat × Nat × Nat) × Bool)
    (g : PolicyGroup) : State × List (PolicyGroup × List Byte × Nat × Nat × Nat) × Bool :=
  let r := policyGroup sl i n g acc.1
  (r.1, acc.2.1 ++ [(g, r.2.1)], acc.2.2 || r.2.2)

/-- The groups of a POLICY, read in turn. -/
def policyRead (sl : ImgSlot) (i : Image) (o : SnapOp) (s : State) :
    State × List (PolicyGroup × List Byte × Nat × Nat × Nat) × Bool :=
  (policyGroups i o (snapRanges i o) 0 4096 []).foldl (policyNext sl i (blockElems o.block)) (s, [], false)

/-- Each group's bytes stand in the staging region and in the store of its logical islet. -/
def policyWritten (sl : ImgSlot) (o : SnapOp) (outs : List (PolicyGroup × List Byte × Nat × Nat × Nat)) (s : State) : State :=
  outs.foldl (fun u g => writeStore g.1.lislet g.1.addr g.2.1
    (writeMem whoSnap (regionBase sl o.staging + g.1.stage) g.2.1 u)) s

theorem memAside_policyGroup (n : Nat) (g : PolicyGroup) (s : State) : MemAside s (policyGroup sl i n g s).1 := by
  unfold policyGroup
  split
  · exact memAside_refl s
  · refine memAside_foldl_fst (fun p _ => ?_) g.rows (s, [], false)
    exact memAside_readMem _ _ _ p.1

theorem memAside_policyRead : MemAside s (policyRead sl i o s).1 :=
  memAside_foldl_fst (f := policyNext sl i (blockElems o.block)) (fun p g => memAside_policyGroup _ g p.1) _ (s, [], false)

theorem length_toLE (n v : Nat) : (toLE n v).length = n := by
  induction n generalizing v with
  | zero => rfl
  | succ n ih => exact congrArg (· + 1) (ih (v / 256))

/-- A POLICY that meets poison writes nothing (R388). -/
theorem doPolicy_poisoned (hpoison : (policyRead sl i o s).2.2 = true) :
    doPolicy k sl i o s = ranPoisoned k (policyRead sl i o s).1 := if_pos hpoison

/-- A POLICY writes its groups and then its report of 64 bytes (R214, R215). -/
theorem doPolicy_clean (hclean : (policyRead sl i o s).2.2 = false) :
    ∃ report : List Byte, report.length = 64 ∧ doPolicy k sl i o s = ranStep k (writeMem whoSnap (regionBase sl o.staging) report
      (policyWritten sl o (policyRead sl i o s).2.1 (policyRead sl i o s).1)) := by
  refine ⟨_, ?_, if_neg fun hpoison => absurd (hclean.symm.trans hpoison) Bool.false_ne_true⟩
  simp only [List.length_append, length_toLE, zeros, List.length_replicate]

theorem runKept_policyWritten {outs : List (PolicyGroup × List Byte × Nat × Nat × Nat)} (hclean : s.isl.flips = []) :
    RunKept s (policyWritten sl o outs s) := by
  refine RunKept.foldl_clean (fun u g hu => ?_) outs s hclean
  have hstaged : RunKept u (writeMem whoSnap (regionBase sl o.staging + g.1.stage) g.2.1 u) := .of_memAside (memAside_writeMem _ _ _ u)
  exact hstaged.trans (runKept_writeStore (hstaged.flips hu) _ _ _)

end

/-- Settles O15: a KERNEL by the kernel that it starts, an exchange by its parts, SHIP and POLICY by what they read. -/
theorem stepKernelsExchangesSnaps : Obligations.StepKernelsExchangesSnaps := by
  unfold Obligations.StepKernelsExchangesSnaps
  refine ⟨fun k s sl i st o hready hop hargs => ?kernel, fun k s sl i st x ts td others hready hop hts htd hreplay => ?exchange,
    fun k s sl i st o hready hop => ?snap⟩
  case kernel =>
    refine ⟨stepKernel k sl i st.lislet o s, exec_kernel_ready hready hop, rfl, rfl, rfl, rfl, rfl, rfl, rfl,
      fun j hj => getG_startThread (by omega), fun j hj _ => getG_startThread_above (by omega), fun j hj _ => getP_startThread _ hj⟩
  case exchange =>
    intro own sa first second c hx
    have hexec : exec c s = .next (doExch k sl i x others s) := exec_exch_ready hready hop hx
    rw [hexec]
    refine ⟨fun hpoison => ?poisoned, fun hclean hop hparts => ?ran, fun hclean hparts => ?ranks, fun hclean hop bs hroot => ?root⟩
    case poisoned => exact congrArg _ (doExch_poisoned hts htd hreplay hpoison)
    case ran =>
      rw [doExch_given hts htd hreplay hclean (exchGiven_present (by omega) hparts)]
      dsimp only
      split
      · exact ⟨_, rfl, finishExch_ran runKept_exchMine _ _ _⟩
      · exact ⟨_, rfl, finishExch_ran runKept_exchMine _ _ _⟩
    case ranks =>
      refine ⟨fun hgather => ?_, fun hreduce => ?_⟩
      · rw [doExch_given hts htd hreplay hclean (exchGiven_present (by omega) hparts)]
        dsimp only
        rw [if_pos (Or.inl hgather), if_pos hgather]
        rfl
      · rw [doExch_given hts htd hreplay hclean (exchGiven_present (by omega) hparts)]
        dsimp only
        rw [if_neg (by omega)]
        rfl
    case root =>
      obtain ⟨e, hgiven⟩ := exchGiven_root (S := scaleNow s sl x.src ts) hop hroot
      rw [doExch_given hts htd hreplay hclean hgiven]
      dsimp only
      rw [if_pos (Or.inr hop), if_neg (by omega), Nat.mul_one]
      rfl
  case snap =>
    intro n
    refine ⟨fun hmode hbusy => ?waits, fun hmode hfree => ?ships, fun hmode hclean => ?policyRan,
      fun s1 outs poison hmode hread => ?policy⟩
    case waits =>
      rw [exec_snapShip_ready hready hop hmode]
      exact congrArg _ (doShip_busy hbusy)
    case ships =>
      rw [exec_snapShip_ready hready hop hmode]
      obtain ⟨u, hmem, hpoisoned | ⟨keep, snap, hship, hslot, hregion, hstage, hindex, hseq⟩⟩ := doShip_free (k := k) hfree
      · refine ⟨_, congrArg _ hpoisoned, ?_⟩
        rw [ranPoisoned_ttu, memAside_ttu hmem]
        exact ⟨rfl, rfl, fun hgoesOn => absurd hgoesOn.symm Bool.false_ne_true⟩
      · refine ⟨_, congrArg _ hship, ?_, ?_,
          fun _ => ⟨snap, List.mem_append_right _ List.mem_cons_self, hslot, hregion, hstage, hindex, hseq⟩⟩
        · show u.ttu.ran ++ [k] = s.ttu.ran ++ [k]
          rw [memAside_ttu hmem]
        · show u.ttu.done = s.ttu.done
          rw [memAside_ttu hmem]
    case policyRan =>
      rw [exec_snapPolicy_ready hready hop hmode]
      have hread : RunKept s (policyRead sl i o s).1 := .of_memAside memAside_policyRead
      cases hpoison : (policyRead sl i o s).2.2 with
      | true =>
        rw [doPolicy_poisoned hpoison]
        refine ⟨_, rfl, ?_⟩
        rw [ranPoisoned_ttu]
        exact ⟨congrArg (· ++ [k]) hread.ran, hread.done⟩
      | false =>
        obtain ⟨report, -, hpolicy⟩ := doPolicy_clean (k := k) hpoison
        rw [hpolicy]
        obtain ⟨hran, hdone, -, -⟩ := ranStep_after ((hread.trans (runKept_policyWritten (hread.flips hclean))).trans
          (.of_memAside (memAside_writeMem whoSnap (regionBase sl o.staging) report _))) k
        exact ⟨_, rfl, hran, hdone⟩
    case policy =>
      rw [exec_snapPolicy_ready hready hop hmode]
      have hpolicy : policyRead sl i o s = (s1, outs, poison) := hread
      refine ⟨fun hpoison => ?_, fun hclean => ?_⟩
      · rw [doPolicy_poisoned (by rw [hpolicy]; exact hpoison), hpolicy]
      · obtain ⟨report, hlength, hdone⟩ := doPolicy_clean (k := k) (sl := sl) (i := i) (o := o) (s := s)
          (by rw [hpolicy]; exact hclean)
        rw [hpolicy] at hdone
        exact ⟨report, hlength, congrArg _ hdone⟩

end Sys2Proof.Machine
end

section
/-! Islets (R144 to R147, R161, R194): what a fence sets and what it leaves, and what the reads of the scrubber do with a row. -/

namespace Sys2Proof.Machine

/-! ### The table of islets -/

/-- An islet reads as it was set, and every other one as before. -/
theorem isletOf_setIslet (n m : Nat) (x : Islet) (s : State) : isletOf (setIslet n x s) m = if m = n then x else isletOf s m := by
  by_cases hm : m = n
  · subst hm
    rw [if_pos rfl]
    exact look_put_same _ _ _ _
  · rw [if_neg hm]
    exact look_put_other _ _ _ _ _ _ hm

/-- The islets are read from their table, over what the configuration starts them as. -/
theorem isletOf_congr {s t : State} (hcfg : t.cfg = s.cfg) (hislets : t.isl.islets = s.isl.islets) (n : Nat) :
    isletOf t n = isletOf s n := by
  simp only [isletOf, hcfg, hislets]

@[simp] theorem isletOf_raise (c m : Nat) (fs : List (Nat × Nat)) (s : State) (n : Nat) :
    isletOf (raise c m fs s) n = isletOf s n :=
  isletOf_congr (raise_cfg _ _ _ _) (congrArg Islets.islets (raise_isl _ _ _ _)) n

/-- The steps of an islet are those of the image whose logical islets lie on it. -/
theorem stepOn_congr {s t : State} (httu : t.ttu = s.ttu) (hslots : t.isl.slots = s.isl.slots) (n k : Nat) :
    stepOn t n k = stepOn s n k := by
  simp only [stepOn, actSlot, physOf, inService, httu, hslots]

/-! ### Fencing (R161) -/

/-- Launch queues set one after another are all that moves. -/
theorem setLncQ_foldl_only {α : Type} (q : α → Nat) (x : α → State → Queue) (l : List α) (s : State) :
    l.foldl (fun u a => setLncQ (q a) (x a u) u) s = { s with lnc := (l.foldl (fun u a => setLncQ (q a) (x a u) u) s).lnc } := by
  induction l generalizing s with
  | nil => rfl
  | cons a r ih =>
    rw [List.foldl_cons, ih]
    rfl

/-- The end of free-running work moves the ferry and launch queues, the kernels and the window commands alone. -/
theorem abortFree_only (n : Nat) (s : State) :
    abortFree n s = { s with zng := (abortFree n s).zng, fry := (abortFree n s).fry, lnc := (abortFree n s).lnc } := by
  unfold abortFree
  dsimp only
  rw [setLncQ_foldl_only]

/-- An islet as a fence leaves it: its cause is set and what it has counted stays. -/
def fencedIslet (cause : Nat) (x : Islet) : Islet := { x with state := .fenced, cause := BitVec.ofNat 4 cause }

/-- The islets as a fence leaves them: the one that is fenced and the list of those to be replaced change (R161, R162). -/
def fencedIslets (n cause : Nat) (s : State) : Islets :=
  { (setIslet n (fencedIslet cause (isletOf s n)) s).isl with
    faulted := if (isletOf s n).state = .active then s.isl.faulted ++ [n] else s.isl.faulted }

/-- A fence up to the end of the islet's work: the cause's event, the islet's new state, event 0x0401, and the islet among those to be
replaced (R161, R162). -/
def fenceMarked (n cause event : Nat) (s : State) : State :=
  let u := raise event (causeSubject event n) [] s
  let v := raise 0x0401 n [] (keepIslet n (fencedIslet cause (isletOf u n)) u)
  { v with isl := { v.isl with faulted := if (isletOf s n).state == .active then v.isl.faulted ++ [n] else v.isl.faulted } }

section
variable {n cause event : Nat} {s : State}

/-- A fault of an islet that is fenced or absent is nothing. -/
theorem fence_idle (hactive : (isletOf s n).state ≠ .active) (hspare : (isletOf s n).state ≠ .spare) :
    fence n cause event s = s := by
  refine if_neg ?_
  simp only [Bool.or_eq_true, beq_iff_eq, hactive, hspare, or_self, not_false_eq_true]

theorem fenceMarked_ttu : (fenceMarked n cause event s).ttu = s.ttu := (raise_ttu _ _ _ _).trans (raise_ttu _ _ _ _)
theorem fenceMarked_mem : (fenceMarked n cause event s).mem = s.mem := (raise_mem _ _ _ _).trans (raise_mem _ _ _ _)
theorem fenceMarked_cfg : (fenceMarked n cause event s).cfg = s.cfg := (raise_cfg _ _ _ _).trans (raise_cfg _ _ _ _)

theorem fenceMarked_isl : (fenceMarked n cause event s).isl = fencedIslets n cause s := by
  simp only [fenceMarked, fencedIslets, isletOf_raise, raise_isl, raise_cfg, keepIslet, setIslet, beq_iff_eq]

section
variable (h : (isletOf s n).state = .active ∨ (isletOf s n).state = .spare)
include h

/-- An ACTIVE or a SPARE islet is fenced, and its work ends (R161). -/
theorem fence_working : fence n cause event s = abortFree n (dropSteps n (fenceMarked n cause event s)) := by
  refine if_pos ?_
  simpa only [Bool.or_eq_true, beq_iff_eq] using h

theorem fence_mem : (fence n cause event s).mem = s.mem := by
  rw [fence_working h, abortFree_only]
  exact fenceMarked_mem (cause := cause)

theorem fence_isl : (fence n cause event s).isl = fencedIslets n cause s := by
  rw [fence_working h, abortFree_only]
  exact fenceMarked_isl

/-- The islet is fenced with its cause, and every other one is as it was. -/
theorem isletOf_fence (m : Nat) :
    isletOf (fence n cause event s) m = if m = n then fencedIslet cause (isletOf s n) else isletOf s m := by
  rw [← isletOf_setIslet]
  refine isletOf_congr ?_ (by rw [fence_isl h, fencedIslets]) m
  rw [fence_working h, abortFree_only]
  exact fenceMarked_cfg (cause := cause)

/-- The timetable loses the steps of the islet that had run there and had not completed (R161). -/
theorem fence_ttu : (fence n cause event s).ttu =
    { s.ttu with ran := s.ttu.ran.filter fun k => s.ttu.done.contains k || !stepOn s n k } := by
  have hsteps (k : Nat) : stepOn (fenceMarked n cause event s) n k = stepOn s n k :=
    stepOn_congr fenceMarked_ttu (by rw [fenceMarked_isl]; rfl) n k
  rw [fence_working h, abortFree_only]
  simp only [dropSteps, fenceMarked_ttu, hsteps]

end

end

/-! ### The code of the store (R144) -/

/-- Every column of the code is a correctable syndrome: a single flip, of a data or a check bit, is put right. -/
theorem secDecode_single : ∀ i < 39, syndrome (2 ^ i) ≠ 0 ∧ (secDecode (syndrome (2 ^ i))).isSome = true := by decide +kernel

/-- The sum of two columns, of even weight, is no column: two flips are detected. -/
theorem secDecode_double : ∀ i < 39, ∀ j < i, secDecode (syndrome (2 ^ i + 2 ^ j)) = none := by decide +kernel

/-! ### Reads of the store (R146, R147) -/

/-- A corrected error counted on an islet, up to the counter's end (Table 5.12). -/
def countedCe (x : Islet) : Islet := { x with ceCount := if x.ceCount = 0xFFFFFFFF then x.ceCount else x.ceCount + 1 }

theorem countedCe_toNat (x : Islet) : (countedCe x).ceCount.toNat = min 0xFFFFFFFF (x.ceCount.toNat + 1) := by
  obtain ⟨state, cause, c⟩ := x
  show (if c = 0xFFFFFFFF then c else c + 1).toNat = _
  split <;> bv_omega

/-- A word read with its correction: it is rewritten with the flips that the correction leaves, counted and noted (R144, R146). -/
def correctedWord (n w flips inv : Nat) (s : State) : State :=
  let a := n * 2 ^ 22 + 4 * w
  let v := leNat (getBytes s.isl.store a 4) ^^^ (flips % 2 ^ 32) ^^^ inv
  let u := { s with isl := { s.isl with
    store := setBytes s.isl.store a (toLE 4 v), flips := put 0 (n * 2 ^ 20 + w) 0 s.isl.flips } }
  islEccLast n false (syndrome flips) (4 * w) (setIslet n (countedCe (isletOf u n)) u)

section
variable {n w flips : Nat} {s : State}

theorem isletOf_correctedWord (inv : Nat) : isletOf (correctedWord n w flips inv s) n = countedCe (isletOf s n) := by
  show look _ (put (isletDefault s.cfg n) n (countedCe (isletOf s n)) s.isl.islets) n = _
  exact look_put_same _ _ _ _

/-- The one word with flips has none once it is corrected. -/
theorem correctedWord_flips {inv : Nat} (h : s.isl.flips = [(n * 2 ^ 20 + w, flips)]) :
    (correctedWord n w flips inv s).isl.flips = [] := by
  show put 0 (n * 2 ^ 20 + w) 0 s.isl.flips = []
  rw [h]
  simp only [put, if_true]

theorem correctedWord_eccLast (inv : Nat) : (correctedWord n w flips inv s).isl.eccLast
    = ⟨BitVec.ofNat 10 n, false, BitVec.ofNat 7 (syndrome flips), BitVec.ofNat 22 (4 * w)⟩ := by
  show IslEcc.mk _ _ _ (BitVec.ofNat 22 (4 * w / 4 * 4)) = _
  rw [Nat.mul_div_cancel_left w (by decide), Nat.mul_comm]

/-- A word without a flip is delivered as it is. -/
theorem touchWord_clean (h : look 0 s.isl.flips (n * 2 ^ 20 + w) = 0) : touchWord n w s = (s, true) := if_pos h

section
variable (h : look 0 s.isl.flips (n * 2 ^ 20 + w) = flips) (hflips : flips ≠ 0)
include h hflips

/-- A word whose syndrome names its flips is corrected and recorded (R144, R146). -/
theorem touchWord_corrected {inv : Nat} (hsyn : syndrome flips ≠ 0) (hdecode : secDecode (syndrome flips) = some inv) :
    touchWord n w s = (raise 0x0403 n [] (correctedWord n w flips inv s), true) := by
  subst h
  unfold touchWord
  dsimp only
  rw [if_neg hflips, hdecode]
  exact if_neg hsyn

/-- A word whose syndrome names nothing is uncorrectable, and its islet is fenced (R147, R161). -/
theorem touchWord_uncorrectable (hdecode : secDecode (syndrome flips) = none) :
    touchWord n w s = (fence n 2 0x0404 (islEccLast n true (syndrome flips) (4 * w) s), false) := by
  subst h
  unfold touchWord
  dsimp only
  rw [if_neg hflips, hdecode]

end

/-! ### The rows of the scrubber (R146) -/

/-- After an uncorrectable word nothing more is read. -/
theorem touchWords_stopped (ws : List Nat) :
    ws.foldl (fun (sp : State × Bool) w => if sp.2 then touchWord n w sp.1 else sp) (s, false) = (s, false) := by
  induction ws with
  | nil => rfl
  | cons w r ih => exact ih

/-- Words without a flip are delivered as they are. -/
theorem touchWords_clean {ws : List Nat} (h : ∀ w ∈ ws, look 0 s.isl.flips (n * 2 ^ 20 + w) = 0) : touchWords n ws s = (s, true) := by
  induction ws with
  | nil => rfl
  | cons w r ih =>
    have hrest := ih fun v hv => h v (List.mem_cons_of_mem w hv)
    unfold touchWords at hrest ⊢
    rw [List.foldl_cons, if_pos rfl, touchWord_clean (h w List.mem_cons_self), hrest]

/-- Words of which the first is to be read: the others follow where it is delivered. -/
theorem touchWords_cons (ws : List Nat) :
    touchWords n (w :: ws) s = if (touchWord n w s).2 then touchWords n ws (touchWord n w s).1 else touchWord n w s := by
  unfold touchWords
  rw [List.foldl_cons, if_pos rfl]
  generalize touchWord n w s = r
  obtain ⟨u, delivered⟩ := r
  cases delivered with
  | true => rfl
  | false => exact touchWords_stopped ws

theorem touchWords_append {as bs : List Nat} (h : touchWords n as s = (s, true)) : touchWords n (as ++ bs) s = touchWords n bs s := by
  unfold touchWords at h ⊢
  rw [List.foldl_append, h]

/-- Where one word alone has flips, and its correction clears them, a run that holds it is that word's read. -/
theorem touchWords_single {ws : List Nat} (hnodup : ws.Nodup) (hw : w ∈ ws) (hflips : s.isl.flips = [(n * 2 ^ 20 + w, flips)])
    (hcleared : (touchWord n w s).2 = true → (touchWord n w s).1.isl.flips = []) : touchWords n ws s = touchWord n w s := by
  obtain ⟨as, bs, rfl⟩ := List.append_of_mem hw
  have hbefore : touchWords n as s = (s, true) := by
    refine touchWords_clean fun v hv => ?_
    have hother : w ≠ v := fun hwv =>
      List.disjoint_of_nodup_append hnodup hv (hwv ▸ List.mem_cons_self)
    rw [hflips, look, if_neg (by omega), look]
  rw [touchWords_append hbefore, touchWords_cons]
  split
  next hdelivered =>
    rw [touchWords_clean fun v _ => by rw [hcleared hdelivered]; rfl]
    exact Prod.ext rfl hdelivered.symm
  next => rfl

/-- The words of a row of 32 bytes. -/
def rowWords (row : Nat) : List Nat := (List.range 8).map (8 * row + ·)

theorem mem_rowWords {row j : Nat} (hj : j < 8) : 8 * row + j ∈ rowWords row :=
  List.mem_map_of_mem (List.mem_range.2 hj)

theorem nodup_rowWords (row : Nat) : (rowWords row).Nodup :=
  List.nodup_range.map fun _ _ h => Nat.add_left_cancel h

/-- The scrubber reads a row of an islet that works. -/
theorem exec_storeScrub_working {row : Nat} (hen : s.isl.scrubEn = true)
    (h : (isletOf s n).state = .active ∨ (isletOf s n).state = .spare) (hrow : row < 2 ^ 17) :
    exec (.storeScrub n row) s = .next (touchWords n (rowWords row) s).1 := by
  refine if_pos ?_
  simpa only [hen, Bool.true_and, Bool.and_eq_true, Bool.or_eq_true, beq_iff_eq, decide_eq_true_eq] using ⟨h, hrow⟩

end

/-! ### The faults of an islet (R161, R194) -/

theorem exec_isletParity (n : Nat) (s : State) : exec (.isletParity n) s = .next (fence n 3 0x0405 s) := rfl
theorem exec_ferryInternal (n : Nat) (s : State) : exec (.ferryInternal n) s = .next (fence n 5 0x0408 s) := rfl
theorem exec_laneInternal (n : Nat) (s : State) : exec (.laneInternal n) s = .next (fence n 5 0x0503 s) := rfl

/-- Each fault of an islet is a fence with its cause and its event. -/
theorem exec_isletFault {n : Nat} {c : Instr} {cause : BitVec 4}
    (hc : (c, cause) ∈ [(Instr.isletParity n, 3#4), (.ferryInternal n, 5#4), (.laneInternal n, 5#4)]) (s : State) :
    ∃ k event, BitVec.ofNat 4 k = cause ∧ exec c s = .next (fence n k event s) := by
  simp only [List.mem_cons, Prod.mk.injEq, List.not_mem_nil, or_false] at hc
  obtain ⟨rfl, rfl⟩ | ⟨rfl, rfl⟩ | ⟨rfl, rfl⟩ := hc
  · exact ⟨3, 0x0405, rfl, exec_isletParity n s⟩
  · exact ⟨5, 0x0408, rfl, exec_ferryInternal n s⟩
  · exact ⟨5, 0x0503, rfl, exec_laneInternal n s⟩

/-- Settles O19: a fault by what its fence sets, the scrubber by the one word of the row that has flips. -/
theorem isletFaultsAndScrubbing : Obligations.IsletFaultsAndScrubbing := by
  unfold Obligations.IsletFaultsAndScrubbing
  refine ⟨fun n s c cause hc => ?fault, fun n row s hen hworks hrow => ?scrub⟩
  case fault =>
    obtain ⟨k, event, rfl, hexec⟩ := exec_isletFault hc s
    rw [hexec]
    refine ⟨fun hworks => ⟨_, rfl, ?_, fun m hm => ?_, ?_, ?_, ?_, fence_mem hworks, fence_xng _ _ _ _, fence_ttu hworks⟩,
      fun hactive hspare => congrArg _ (fence_idle hactive hspare)⟩
    · rw [isletOf_fence hworks, if_pos rfl, fencedIslet]
    · rw [isletOf_fence hworks, if_neg hm]
    · rw [fence_isl hworks, fencedIslets]
      rfl
    · rw [fence_isl hworks, fencedIslets]
      rfl
    · rw [fence_isl hworks, fencedIslets]
  case scrub =>
    rw [exec_storeScrub_working hen hworks hrow]
    have holds {j flips : Nat} (hflips : s.isl.flips = [(n * 2 ^ 20 + (8 * row + j), flips)]) :
        look 0 s.isl.flips (n * 2 ^ 20 + (8 * row + j)) = flips := by
      rw [hflips, look, if_pos rfl]
    refine ⟨fun hclean => ?clean, fun j hj i hi hflips => ?corrected, fun j hj i hi i' hi' hflips => ?uncorrectable⟩
    case clean => rw [touchWords_clean fun w _ => by rw [hclean]; rfl]
    case corrected =>
      obtain ⟨hsyn, hsome⟩ := secDecode_single i hi
      obtain ⟨inv, hdecode⟩ := Option.isSome_iff_exists.1 hsome
      have hword := touchWord_corrected (holds hflips) (by positivity) hsyn hdecode
      have hcleared := correctedWord_flips (inv := inv) hflips
      rw [touchWords_single (nodup_rowWords row) (mem_rowWords hj) hflips (fun _ => by rw [hword, raise_isl, hcleared]), hword]
      refine ⟨_, correctedWord n (8 * row + j) (2 ^ i) inv s, rfl, rfl, ?_, ?_, ?_, ?_, ?_⟩
      · rw [raise_isl, hcleared]
      · rw [isletOf_raise, isletOf_correctedWord]
        rfl
      · rw [isletOf_raise, isletOf_correctedWord]
        rfl
      · rw [isletOf_raise, isletOf_correctedWord, countedCe_toNat]
      · rw [raise_isl, correctedWord_eccLast]
    case uncorrectable =>
      have hword := touchWord_uncorrectable (holds hflips) (by positivity) (secDecode_double i hi i' hi')
      rw [touchWords_single (nodup_rowWords row) (mem_rowWords hj) hflips (fun hok => by rw [hword] at hok; cases hok), hword]

end Sys2Proof.Machine
end

section
/-! The registers of the free-running queues (R160, R197, Tables 5.15 and 6.13). -/

namespace Sys2Proof.Machine

/-! ### Queues set and read -/

@[simp] theorem fryQ_setFryQ (q : Nat) (x : Queue) (s : State) : fryQ (setFryQ q x s) q = x := look_put_same _ _ _ _
@[simp] theorem lncQ_setLncQ (q : Nat) (x : Queue) (s : State) : lncQ (setLncQ q x s) q = x := look_put_same _ _ _ _

@[simp] theorem lncHolds_setLncQ (q r : Nat) (x : Queue) (s : State) : lncHolds (setLncQ q x s) r = lncHolds s r := rfl

theorem lncHolds_eq_false {s : State} {q : Nat} (hfree : assoc q s.lnc.free = none) (hsuspended : assoc q s.lnc.suspended = none) :
    lncHolds s q = false := by
  rw [lncHolds, hfree, hsuspended]
  rfl

theorem lncBusy_eq_false {s : State} {q : Nat} (hholds : lncHolds s q = false) (hdrain : (lncQ s q).drain = false)
    (hfinished : (lncQ s q).finished = []) : lncBusy s q = false := by
  rw [lncBusy, hholds, hdrain, hfinished]
  rfl

theorem fryBusy_eq_true {x : Queue} (h : x.inProgress ≠ [] ∨ x.finished ≠ [] ∨ x.drain = true) : fryBusy x = true := by
  simpa [fryBusy, or_assoc] using h

theorem fryBusy_eq_false {x : Queue} (hstarted : x.inProgress = []) (hfinished : x.finished = []) (hdrain : x.drain = false) :
    fryBusy x = false := by
  rw [fryBusy, hstarted, hfinished, hdrain]
  rfl

/-! ### What QCFG takes (Tables 5.15, 6.13) -/

/-- IRQ_EN and STOP_ON_ERR of a write of QCFG. -/
def takesControl (v : Word64) (x : Queue) : Queue := { x with irqEn := v.getLsbD 2, stopOnErr := v.getLsbD 1 }

/-- A queue that a write of QCFG starts. -/
def takesStart (v : Word64) (x : Queue) : Queue :=
  { takesControl v x with
    context := v.extractLsb' 32 16, size := v.extractLsb' 16 4, enable := true, stopped := false, drain := false }

section
variable {x : Queue} {v : Word64}

theorem enableQueue_busy : enableQueue x true v = takesControl v x := rfl

theorem enableQueue_idle :
    enableQueue x false v = if x.enable then { takesControl v x with stopped := false } else takesStart v x := rfl

theorem disableQueue_enabled (h : x.enable = true) : disableQueue x v = { takesControl v x with enable := false, drain := true } :=
  if_pos h

end

/-! ### What a disabled queue leaves to its drain (R160, R197) -/

/-- A ferry queue that has work, or is not disabled, drains nothing. -/
theorem fryDrain_keeps {q : Nat} {s : State}
    (h : (fryQ s q).drain = true → (fryQ s q).inProgress ≠ [] ∨ (fryQ s q).finished ≠ []) : fryDrain q s = s := by
  refine if_neg fun hdrains => ?_
  simp only [Bool.and_eq_true, List.isEmpty_iff] at hdrains
  obtain ⟨⟨hdrain, hstarted⟩, hfinished⟩ := hdrains
  exact (h hdrain).elim (absurd hstarted) (absurd hfinished)

section
variable {q : Nat} {s : State} {x : Queue}

/-- A disabled ferry queue with nothing up to TAIL has drained. -/
theorem fryDrain_empty (hdrain : x.drain = true) (hstarted : x.inProgress = []) (hfinished : x.finished = []) (htail : x.tail = x.head) :
    fryDrain q (setFryQ q x s) = setFryQ q { x with drain := false, stopped := false } (setFryQ q x s) := by
  unfold fryDrain
  simp [hdrain, hstarted, hfinished, htail]

/-- A launch queue whose kernel runs or is suspended drains nothing. -/
theorem lncDrain_held (hfinished : x.finished = []) (hholds : lncHolds s q = true) : lncDrain q (setLncQ q x s) = setLncQ q x s := by
  unfold lncDrain
  simp [hfinished, hholds]

/-- A disabled launch queue with nothing up to TAIL has drained. -/
theorem lncDrain_empty (hfinished : x.finished = []) (hholds : lncHolds s q = false) (hdrain : x.drain = true) (htail : x.tail = x.head) :
    lncDrain q (setLncQ q x s) = setLncQ q { x with drain := false, stopped := false } (setLncQ q x s) := by
  unfold lncDrain
  simp [hfinished, hholds, hdrain, htail]

end

/-! ### The commands -/

section
variable {q : Nat} (s : State)

section
variable (hq : q < 256)
include hq

theorem exec_fryQtail (v : Word32) : exec (.fryQtail q v) s = .next (setFryQ q (ringTail (fryQ s q) v) s) :=
  congrArg _ (if_pos hq)

theorem exec_fryQcfgEnable (v : Word64) :
    exec (.fryQcfgEnable q v) s = .next (setFryQ q (enableQueue (fryQ s q) (fryBusy (fryQ s q)) v) s) :=
  congrArg _ (if_pos hq)

theorem exec_fryQcfgDisable (v : Word64) :
    exec (.fryQcfgDisable q v) s = .next (fryDrain q (setFryQ q (disableQueue (fryQ s q) v) s)) :=
  congrArg _ (if_pos hq)

end

section
variable (hq : q < 64)
include hq

theorem exec_lncQtail (v : Word32) : exec (.lncQtail q v) s = .next (setLncQ q (ringTail (lncQ s q) v) s) :=
  congrArg _ (if_pos hq)

theorem exec_lncQcfgEnable (v : Word64) :
    exec (.lncQcfgEnable q v) s = .next (setLncQ q (enableQueue (lncQ s q) (lncBusy s q) v) s) :=
  congrArg _ (if_pos hq)

theorem exec_lncQcfgDisable (v : Word64) :
    exec (.lncQcfgDisable q v) s = .next (lncDrain q (setLncQ q (disableQueue (lncQ s q) v) s)) :=
  congrArg _ (if_pos hq)

end

end

/-- Settles O20: a doorbell is `ringTail`, a start what `enableQueue` takes, a stop what `disableQueue` leaves to the drain. -/
theorem freeQueueRegisters : Obligations.FreeQueueRegisters := by
  unfold Obligations.FreeQueueRegisters
  intro s q v w f l rung ctl taken
  refine ⟨exec_fryQtail s (v := v), exec_lncQtail s (v := v), fun hq hstarted hfinished hdrain => ?fryStart, fun hq hbusy => ?fryBusy,
    fun hq hbusy => ?lncBusy, fun hq hfree hsuspended hdrain hfinished => ?lncStart, fun hq hen hwork => ?fryStop,
    fun hq hen hstarted hfinished htail => ?fryEmpty, fun hq hen hfinished hfree => ?lncStop,
    fun hq hen hfinished hfree hsuspended htail => ?lncEmpty⟩
  case fryStart =>
    rw [exec_fryQcfgEnable s hq, fryBusy_eq_false hstarted hfinished hdrain, enableQueue_idle]
    rfl
  case fryBusy =>
    rw [exec_fryQcfgEnable s hq, fryBusy_eq_true hbusy, enableQueue_busy]
    rfl
  case lncBusy =>
    rw [exec_lncQcfgEnable s hq, hbusy, enableQueue_busy]
    rfl
  case lncStart =>
    rw [exec_lncQcfgEnable s hq, lncBusy_eq_false (lncHolds_eq_false hfree hsuspended) hdrain hfinished, enableQueue_idle]
    rfl
  case fryStop =>
    rw [exec_fryQcfgDisable s hq, disableQueue_enabled hen, fryDrain_keeps (by rw [fryQ_setFryQ]; exact fun _ => hwork)]
    rfl
  case fryEmpty =>
    rw [exec_fryQcfgDisable s hq, disableQueue_enabled hen]
    exact congrArg _ (fryDrain_empty rfl hstarted hfinished htail)
  case lncStop =>
    have hholds : lncHolds s q = true := by rw [lncHolds, hfree, Bool.true_or]
    rw [exec_lncQcfgDisable s hq, disableQueue_enabled hen]
    exact ⟨_, congrArg _ (lncDrain_held hfinished hholds), lncQ_setLncQ _ _ _, rfl, rfl, rfl⟩
  case lncEmpty =>
    rw [exec_lncQcfgDisable s hq, disableQueue_enabled hen]
    exact congrArg _ (lncDrain_empty hfinished (lncHolds_eq_false hfree hsuspended) rfl htail)

end Sys2Proof.Machine
end

section
/-! The free-running ferries (R158 to R160, R254, R271): a descriptor read and judged, its movement, and its record. -/

namespace Sys2Proof.Machine

/-! ### A descriptor read (R159, R254, R271) -/

/-- FERRY_DESCRIPTOR's read of a queue's next descriptor, with the queue's CONTEXT. -/
def descriptorRead (q islet : Nat) (s : State) : State × OwnRead :=
  let x := fryQ s q
  ownRead (.ferry q (nextPos x)) x.context.toNat (whoFerry islet) (descAddr x (nextPos x)) 64 s

/-- What the read of queue x's next descriptor comes to: one that has come is judged, one that is refused is finished, and one on an
absent page faults. -/
def descriptorDone (q islet : Nat) (x : Queue) (r : State × OwnRead) : State :=
  let pos := nextPos x
  let c := x.context.toNat
  match r with
  | (s, .data d _) => startFerry q pos islet d (setBuf (.ferry q pos) none s)
  | (s, .bound) => finishFerry q pos islet 1 0 false s
  | (s, .denied p lock) => finishFerry q pos islet 2 0 false (refusePage c (max (descAddr x pos) (p * 2 ^ 21)) lock s)
  | (s, .fault p) => workFault (workFerry q) c p s
  | (s, .wait) => s

theorem exec_ferryDescriptor {q islet : Nat} {s : State} (hmay : ferryMay s q islet = true) :
    exec (.ferryDescriptor q islet) s = .next (descriptorDone q islet (fryQ s q) (descriptorRead q islet s)) := by
  refine (if_pos hmay).trans ?_
  unfold descriptorRead
  dsimp only
  generalize ownRead _ _ _ _ _ s = r
  obtain ⟨u, found⟩ := r
  cases found <;> rfl

/-! ### A descriptor judged (R159) -/

/-- A queue with one descriptor more in progress, whose reads from outside are asked for. -/
def ferryStarted (q pos islet : Nat) (d : List Byte) (s : State) : State :=
  let x := fryQ s q
  (srcRuns d).foldl (fun u r => fetchRun (.ferry q pos) r u)
    (checkedAgain x.context.toNat (workFerry q) (setFryQ q { x with inProgress := x.inProgress ++ [(pos, islet, d)] } s))

/-- What the verdict on a descriptor's ranges comes to. -/
def ferryJudged (q pos islet : Nat) (d : List Byte) (v : CheckVerdict) (s : State) : State :=
  let c := (fryQ s q).context.toNat
  let irq := (fld d 1 1).testBit 0
  match v with
  | .ok => ferryStarted q pos islet d s
  | .bound => finishFerry q pos islet 1 0 irq s
  | .denied p lock => finishFerry q pos islet 2 0 irq (refusePage c (p * 2 ^ 21) lock s)
  | .fault p => workFault (workFerry q) c p s
  | .wait => s

section
variable {q pos islet : Nat} {d : List Byte} {s : State}

theorem startFerry_badSeq (hseq : fld d 6 2 ≠ pos % 65536) :
    startFerry q pos islet d s = finishFerry q pos islet 4 0 ((fld d 1 1).testBit 0) s := if_pos hseq

theorem startFerry_badLayout (hseq : fld d 6 2 = pos % 65536) (hok : ferryOk d = false) :
    startFerry q pos islet d s = finishFerry q pos islet 3 0 ((fld d 1 1).testBit 0) s := by
  unfold startFerry
  dsimp only
  rw [if_neg (not_not_intro hseq), if_pos (by rw [hok]; rfl)]

/-- A descriptor of the right SEQ and layout, which need not wait for those before it, goes by its ranges and their pages. -/
theorem startFerry_judged (hseq : fld d 6 2 = pos % 65536) (hok : ferryOk d = true)
    (hfence : (fld d 1 1).testBit 1 = true → (fryQ s q).inProgress = [] ∧ (fryQ s q).finished = []) :
    startFerry q pos islet d s
      = ferryJudged q pos islet d (rangesVerdict s (fryQ s q).context.toNat (ferryRanges d)) s := by
  have halone : ¬ ((fld d 1 1).testBit 1 && !((fryQ s q).inProgress.isEmpty && (fryQ s q).finished.isEmpty)) = true := by
    intro hwaits
    simp only [Bool.and_eq_true, Bool.not_eq_true', Bool.and_eq_false_iff, List.isEmpty_eq_false_iff] at hwaits
    obtain ⟨hflag, hbusy⟩ := hwaits
    obtain ⟨hstarted, hfinished⟩ := hfence hflag
    exact hbusy.elim (absurd hstarted) (absurd hfinished)
  unfold startFerry
  dsimp only
  rw [if_neg (not_not_intro hseq), if_neg (by rw [hok]; decide), if_neg halone]
  rfl

end

/-! ### A descriptor's movement (R158) -/

/-- The opcodes of COPY, CONVERT and FILL. -/
theorem exec_ferryMove {q pos op : Nat} {c : Instr}
    (hc : (c, op) ∈ [(Instr.copy q pos, 1), (.convert q pos, 2), (.fill q pos, 3)]) (s : State) :
    exec c s = .next (ferryMove op q pos s) := by
  simp only [List.mem_cons, Prod.mk.injEq, List.not_mem_nil, or_false] at hc
  obtain ⟨rfl, rfl⟩ | ⟨rfl, rfl⟩ | ⟨rfl, rfl⟩ := hc
  · rfl
  · rfl
  · rfl

theorem moveAll_bytes (use : HostUse) (c who : Nat) (d : List Byte) (s : State) :
    (moveAll use c who d s).2.2 = dRows d * dDstRow d := rfl

section
variable {q pos islet op : Nat} {d : List Byte} {s : State}
  (hfind : ((fryQ s q).inProgress.find? fun e => e.1 == pos) = some (pos, islet, d))
include hfind

/-- The command of another opcode moves nothing. -/
theorem ferryMove_other (hop : fld d 0 1 ≠ op) : ferryMove op q pos s = s := by
  simp only [ferryMove, hfind, hop, false_and, if_false]

/-- A descriptor whose sources can be read moves its bytes, and its record waits. -/
theorem ferryMove_ready (hop : fld d 0 1 = op) (hready : sourcesReady s (.ferry q pos) d = true) :
    ferryMove op q pos s = (
      let r := moveAll (.ferry q pos) (fryQ s q).context.toNat (whoFerry islet) d s
      finishFerry q pos islet (if r.2.1 then 5 else 0) r.2.2 ((fld d 1 1).testBit 0) r.1) := by
  simp only [ferryMove, hfind, hop, hready, and_self, if_true]

end

/-! ### A descriptor's record (R159, R160) -/

/-- The record of a queue's position is written, unless it has left before. -/
def recordWritten (q pos islet : Nat) (rec : List Byte) (s : State) : State :=
  let x := fryQ s q
  if x.recOut then s else ownWrite (.ferry q pos) x.context.toNat (whoFerry islet) (recordAddr x pos) rec s

/-- A queue past a record that is visible, with its event and its interrupt (R159, R160). -/
def recordPassed (q pos islet : Nat) (rec : List Byte) (irq : Bool) (x : Queue) (s : State) : State :=
  let status := fld rec 2 1
  let u := setFryQ q (pastRecord pos status x) s
  let v := if status = 0 ∨ status = 6 then u else raise 0x0407 islet [] u
  if irq && x.irqEn then emit (.aplic (16 + q)) v else v

/-- A queue whose record is not visible yet. -/
def recordWaiting (pos islet : Nat) (rec : List Byte) (irq : Bool) (x : Queue) : Queue :=
  { x with recOut := true, finished := x.finished.filter (fun f => f.1 != pos) ++ [(pos, islet, rec, irq)] }

/-- A ferry queue is read from the ferry pool alone. -/
theorem fryQ_congr {s t : State} (h : t.fry = s.fry) (q : Nat) : fryQ t q = fryQ s q := by rw [fryQ, fryQ, h]

/-- Passing a record takes the queue past its position, and nothing else of it moves. -/
theorem fryQ_recordPassed (q pos islet : Nat) (rec : List Byte) (irq : Bool) (x : Queue) (s : State) :
    fryQ (recordPassed q pos islet rec irq x s) q = pastRecord pos (fld rec 2 1) x := by
  have hfry : (recordPassed q pos islet rec irq x s).fry = (setFryQ q (pastRecord pos (fld rec 2 1) x) s).fry := by
    unfold recordPassed
    dsimp only
    split_ifs
    · rfl
    · exact raise_fry _ _ _ _
    · rfl
    · exact raise_fry _ _ _ _
  rw [fryQ_congr hfry, fryQ_setFryQ]

/-- FERRY_COMPLETION's work on the queue's oldest descriptor: HEAD advances once its record is visible. -/
theorem completeFerry_eq (q pos islet : Nat) (rec : List Byte) (irq : Bool) (s : State) :
    completeFerry q pos islet rec irq s =
      if ownSeen (recordWritten q pos islet rec s) (.ferry q pos) (whoFerry islet) (recordAddr (fryQ s q) pos) then
        recordPassed q pos islet rec irq (fryQ s q) (recordWritten q pos islet rec s)
      else setFryQ q (recordWaiting pos islet rec irq (fryQ s q)) (recordWritten q pos islet rec s) := rfl

section
variable {q islet : Nat} {rec : List Byte} {irq : Bool} {s : State}

/-- A queue that is not disabled drains nothing after its record. -/
theorem fryDrain_completeFerry {pos : Nat} (hdrain : (fryQ s q).drain = false) :
    fryDrain q (completeFerry q pos islet rec irq s) = completeFerry q pos islet rec irq s := by
  have hstays : (fryQ (completeFerry q pos islet rec irq s) q).drain = false := by
    rw [completeFerry_eq]
    split
    · rw [fryQ_recordPassed]
      exact hdrain
    · rw [fryQ_setFryQ]
      exact hdrain
  exact fryDrain_keeps fun h => absurd (hstays.symm.trans h) Bool.false_ne_true

/-- FERRY_COMPLETION of a queue that is not disabled, whose oldest descriptor has ended and whose writes are visible. -/
theorem exec_ferryCompletion (hfind : ((fryQ s q).finished.find? fun f => f.1 == (fryQ s q).head.toNat)
      = some ((fryQ s q).head.toNat, islet, rec, irq)) (hdrain : (fryQ s q).drain = false)
    (hready : (fryQ s q).recOut = true
      ∨ openUses s (.ferry q (fryQ s q).head.toNat) = false ∧ ferryHeld s (fryQ s q).context.toNat = false) :
    exec (.ferryCompletion q) s = .next (advanceRegion (completeFerry q (fryQ s q).head.toNat islet rec irq s)) := by
  have hgoes : ¬ ((openUses s (.ferry q (fryQ s q).head.toNat) || ferryHeld s (fryQ s q).context.toNat) && !(fryQ s q).recOut) = true := by
    obtain hout | ⟨hopen, hheld⟩ := hready
    · rw [hout, Bool.not_true, Bool.and_false]
      exact Bool.false_ne_true
    · rw [hopen, hheld, Bool.or_self, Bool.false_and]
      exact Bool.false_ne_true
  show execFerryCompletion q s = _
  unfold execFerryCompletion
  dsimp only
  rw [hfind]
  dsimp only
  rw [if_neg hgoes, fryDrain_completeFerry hdrain]

end

end Sys2Proof.Machine
end

section
/-! LOCK_PAGES (R84, R268). -/

namespace Sys2Proof.Machine

/-- The pages of the active image are flushed and locked, and the start goes on (R268). -/
def locksTaken (s : State) : State :=
  let ps := slotPages (actSlot s)
  let u := lockPages ps (actSlot s).context (ps.foldl (fun v p => flushPage p v) s)
  { u with ttu := { u.ttu with locksWait := false, groupDue := false } }

/-- The GROUP check of a start that has one due (R84). -/
def dueCheck (agree : Bool) (s : State) : Option Nat := if s.ttu.groupDue then groupCheck agree s else none

theorem ringAside_flushPages (ps : List Nat) (s : State) : RingAside s (ps.foldl (fun v p => flushPage p v) s) := by
  induction ps generalizing s with
  | nil => rfl
  | cons p r ih => exact ringAside_trans (ringAside_flushPage p s) (ih _)

/-- Locks move the page tags and the timetable's hold on them alone. -/
theorem lockPages_only (ps : List Nat) (c : Nat) (s : State) : lockPages ps c s = { s with rgn := (lockPages ps c s).rgn } := by
  unfold lockPages
  dsimp only
  rw [setTags_only]

theorem locksTaken_keeps (s : State) :
    (locksTaken s).ttu = { s.ttu with locksWait := false, groupDue := false } ∧ (locksTaken s).xng = s.xng
      ∧ (locksTaken s).hbr = s.hbr := by
  unfold locksTaken
  dsimp only
  rw [lockPages_only, ringAside_flushPages]
  exact ⟨rfl, rfl, rfl⟩

/-- A unit that is not STARTING has no locks to set. -/
theorem exec_lockPages_idle {s : State} (h : s.ttu.func ≠ .starting) (agree : Bool) : exec (.lockPages agree) s = .next s :=
  if_neg fun ⟨hstarting, _⟩ => h hstarting

section
variable {agree : Bool} {s : State} (hstarting : s.ttu.func = .starting) (hwait : s.ttu.locksWait = true)
  (hfree : ∀ p ∈ slotPages (actSlot s), p ∉ pagesInUse s (· != (actSlot s).context) ∧ ringBusy s p = false)
include hstarting hwait hfree

/-- A start whose pages are free goes by its GROUP check. -/
theorem execLockPages_free : execLockPages agree s =
    (dueCheck agree s).elim (.next (locksTaken s)) fun status => .next (groupCheckFails status s) := by
  have hready : ((pagesInUse s (· != (actSlot s).context)).all fun p => !(slotPages (actSlot s)).contains p) = true
      ∧ ((slotPages (actSlot s)).all fun p => !ringBusy s p) = true := by
    simp only [List.all_eq_true, Bool.not_eq_true', List.contains_eq_mem, decide_eq_false_iff_not]
    exact ⟨fun p hused hp => (hfree p hp).1 hused, fun p hp => (hfree p hp).2⟩
  obtain ⟨hunused, hidle⟩ := hready
  unfold execLockPages dueCheck
  dsimp only
  rw [if_pos ⟨hstarting, hwait, by rw [hunused, hidle]; rfl⟩]
  generalize (if s.ttu.groupDue = true then groupCheck agree s else none) = check
  cases check with
  | none => rfl
  | some status => rfl

theorem exec_lockPages_taken (hcheck : s.ttu.groupDue = true → groupCheck agree s = none) :
    exec (.lockPages agree) s = .next (locksTaken s) := by
  have hdue : dueCheck agree s = none := by
    unfold dueCheck
    split
    next hdue => exact hcheck hdue
    next => rfl
  refine (execLockPages_free hstarting hwait hfree).trans ?_
  rw [hdue, Option.elim_none]

theorem exec_lockPages_fails {status : Nat} (hdue : s.ttu.groupDue = true) (hcheck : groupCheck agree s = some status) :
    exec (.lockPages agree) s = .next (groupCheckFails status s) := by
  refine (execLockPages_free hstarting hwait hfree).trans ?_
  rw [dueCheck, if_pos hdue, hcheck, Option.elim_some]

end

/-- Settles O21: a descriptor by what its read and its verdict come to, its movement by `moveAll`, its record by whether it is visible, the
locks by the GROUP check. -/
theorem freeRunningFerries : Obligations.FreeRunningFerries := by
  unfold Obligations.FreeRunningFerries
  refine ⟨fun q islet s s1 hmay => ?descriptor, fun q pos islet d s s1 bad n c op hc hfind => ?movement,
    fun s => ⟨fun q islet rec irq => ?completion, fun agree hstarting hwait hfree => ?locks,
      fun agree hidle => exec_lockPages_idle hidle agree⟩⟩
  case descriptor =>
    intro x c pos read
    have hexec {r : State × OwnRead} (hread : read = r) :
        exec (.ferryDescriptor q islet) s = .next (descriptorDone q islet x r) := by
      rw [← hread]
      exact exec_ferryDescriptor hmay
    refine ⟨fun hread => hexec hread, fun page lock hread => hexec hread, fun page hread => hexec hread, fun d p hread => ?_⟩
    intro s2 y irq v
    refine ⟨fun hseq => (hexec hread).trans (congrArg _ (startFerry_badSeq hseq)),
      fun hseq hok => (hexec hread).trans (congrArg _ (startFerry_badLayout hseq hok)), fun hseq hok hfence => ?_⟩
    have hverdict {v' : CheckVerdict} (hv : v = v') :
        exec (.ferryDescriptor q islet) s = .next (ferryJudged q pos islet d v' s2) := by
      rw [← hv]
      exact (hexec hread).trans (congrArg _ (startFerry_judged hseq hok hfence))
    exact ⟨fun hv => hverdict hv, fun page lock hv => hverdict hv, fun page hv => hverdict hv, fun hv => hverdict hv⟩
  case movement =>
    rw [exec_ferryMove hc]
    refine ⟨fun hop => congrArg _ (ferryMove_other hfind hop), fun hop hready hmove => ⟨?_, ?_⟩⟩
    · rw [ferryMove_ready hfind hop hready, hmove]
    · rw [← moveAll_bytes (.ferry q pos) (fryQ s q).context.toNat (whoFerry islet) d s, hmove]
  case completion =>
    intro x pos status a w s1 s2 hfind hdrain hready
    rw [exec_ferryCompletion hfind hdrain hready, completeFerry_eq]
    refine ⟨fun hseen => congrArg Host.Outcome.next (congrArg advanceRegion (if_pos hseen)), fun hunseen => ?_⟩
    exact congrArg Host.Outcome.next (congrArg advanceRegion (if_neg fun hseen => absurd (hunseen.symm.trans hseen) Bool.false_ne_true))
  case locks =>
    exact ⟨fun hcheck => ⟨_, exec_lockPages_taken hstarting hwait hfree hcheck, locksTaken_keeps s⟩,
      fun status => exec_lockPages_fails hstarting hwait hfree⟩

end Sys2Proof.Machine
end

section
/-! The words of lane instructions (R177, R178, Tables 6.2 and 6.3): the fields that a format packs are the fields read back. -/

namespace Sys2Proof.Machine

/-! ### What the five formats share -/

/-- The head of a word (Table 6.2) over its 22 low bits: pg in bits 31:29, Z in bit 28, the opcode in bits 27:22. -/
def headed (pg : BitVec 3) (z : Bool) (op low : Nat) : Nat := pg.toNat * 2 ^ 29 + b2n z * 2 ^ 28 + op * 2 ^ 22 + low

theorem b2n_lt (z : Bool) : b2n z < 2 := by cases z <;> decide

/-- Fields below bit `n` do not see what stands from there on. -/
theorem bits_mod {hi n : Nat} (h : hi < n) (v lo : Nat) : bits (v % 2 ^ n) hi lo = bits v hi lo := by
  refine Nat.eq_of_testBit_eq fun j => ?_
  simp only [bits, Nat.testBit_mod_two_pow, Nat.testBit_shiftRight]
  by_cases hj : j < hi + 1 - lo
  · simp [show lo + j < n by omega]
  · simp [hj]

section
variable {pg : BitVec 3} {z : Bool} {op low : Nat}

/-- Fields put side by side are a head over its low bits. -/
theorem headed_of_or (hop : op < 64) (hlow : low < 2 ^ 22) :
    pg.toNat <<< 29 ||| (b2n z <<< 28 ||| (op <<< 22 ||| low)) = headed pg z op low := by
  have hz := b2n_lt z
  rw [← Nat.shiftLeft_add_eq_or_of_lt (i := 22) (by omega), ← Nat.shiftLeft_add_eq_or_of_lt (i := 28) (by omega),
    ← Nat.shiftLeft_add_eq_or_of_lt (i := 29) (by omega)]
  simp only [Nat.shiftLeft_eq, headed, Nat.add_assoc]

section
variable (hlow : low < 2 ^ 22)
include hlow

theorem headed_bits {hi : Nat} (hhi : hi < 22) (lo : Nat) : bits (headed pg z op low) hi lo = bits low hi lo := by
  rw [← bits_mod hhi, headed, show (pg.toNat * 2 ^ 29 + b2n z * 2 ^ 28 + op * 2 ^ 22 + low) % 2 ^ 22 = low by omega]

variable (hop : op < 64)
include hop

theorem headed_lt : headed pg z op low < 2 ^ 32 := by
  have hz := b2n_lt z
  unfold headed
  omega

theorem headed_pg : BitVec.ofNat 3 (bits (headed pg z op low) 31 29) = pg := by
  have hz := b2n_lt z
  refine BitVec.eq_of_toNat_eq ?_
  simp only [headed, bits, Nat.shiftRight_eq_div_pow, BitVec.toNat_ofNat]
  omega

theorem headed_z : (headed pg z op low).testBit 28 = z := by
  rw [Nat.testBit_eq_decide_div_mod_eq, headed]
  cases z <;> simp only [b2n] <;> simp <;> omega

theorem headed_op : bits (headed pg z op low) 27 22 = op := by
  simp only [headed, bits, Nat.shiftRight_eq_div_pow]
  omega

end

end

/-! ### The low bits of each format -/

/-- The 22 low bits of format R. -/
def lowR (fn : Nat) (f : FR) : Nat := f.rd.toNat * 2 ^ 17 + f.rs1.toNat * 2 ^ 12 + f.rs2.toNat * 2 ^ 7 + fn
/-- The 22 low bits of format I. -/
def lowI (f : FI) : Nat := f.rd.toNat * 2 ^ 17 + f.rs1.toNat * 2 ^ 12 + f.imm.toNat
/-- The 22 low bits of format U. -/
def lowU (f : FU) : Nat := f.rd.toNat * 2 ^ 17 + f.imm.toNat
/-- The 22 low bits of format B. -/
def lowB (f : FB) : Nat := f.rs1.toNat * 2 ^ 17 + f.rs2.toNat * 2 ^ 12 + f.imm.toNat

theorem lowR_lt {fn : Nat} (hfn : fn < 128) (f : FR) : lowR fn f < 2 ^ 22 := by unfold lowR; omega
theorem lowI_lt (f : FI) : lowI f < 2 ^ 22 := by unfold lowI; omega
theorem lowU_lt (f : FU) : lowU f < 2 ^ 22 := by unfold lowU; omega
theorem lowB_lt (f : FB) : lowB f < 2 ^ 22 := by unfold lowB; omega

theorem wordR_eq {op fn : Nat} (hop : op < 64) (hfn : fn < 128) (f : FR) : wordR op fn f = headed f.pg f.z op (lowR fn f) := by
  have hlow : f.rd.toNat <<< 17 ||| (f.rs1.toNat <<< 12 ||| (f.rs2.toNat <<< 7 ||| fn)) = lowR fn f := by
    rw [← Nat.shiftLeft_add_eq_or_of_lt (i := 7) (by omega), ← Nat.shiftLeft_add_eq_or_of_lt (i := 12) (by omega),
      ← Nat.shiftLeft_add_eq_or_of_lt (i := 17) (by omega)]
    simp only [Nat.shiftLeft_eq, lowR, Nat.add_assoc]
  rw [← headed_of_or hop (lowR_lt hfn f), ← hlow]
  simp only [wordR, Nat.lor_assoc]

theorem wordI_eq {op : Nat} (hop : op < 64) (f : FI) : wordI op f = headed f.pg f.z op (lowI f) := by
  have hlow : f.rd.toNat <<< 17 ||| (f.rs1.toNat <<< 12 ||| f.imm.toNat) = lowI f := by
    rw [← Nat.shiftLeft_add_eq_or_of_lt (i := 12) (by omega), ← Nat.shiftLeft_add_eq_or_of_lt (i := 17) (by omega)]
    simp only [Nat.shiftLeft_eq, lowI, Nat.add_assoc]
  rw [← headed_of_or hop (lowI_lt f), ← hlow]
  simp only [wordI, Nat.lor_assoc]

theorem wordU_eq {op : Nat} (hop : op < 64) (f : FU) : wordU op f = headed f.pg f.z op (lowU f) := by
  have hlow : f.rd.toNat <<< 17 ||| f.imm.toNat = lowU f := by
    rw [← Nat.shiftLeft_add_eq_or_of_lt (i := 17) (by omega), Nat.shiftLeft_eq, lowU]
  rw [← headed_of_or hop (lowU_lt f), ← hlow]
  simp only [wordU, Nat.lor_assoc]

theorem wordB_eq {op : Nat} (hop : op < 64) (f : FB) : wordB op f = headed f.pg false op (lowB f) := by
  have hlow : f.rs1.toNat <<< 17 ||| (f.rs2.toNat <<< 12 ||| f.imm.toNat) = lowB f := by
    rw [← Nat.shiftLeft_add_eq_or_of_lt (i := 12) (by omega), ← Nat.shiftLeft_add_eq_or_of_lt (i := 17) (by omega)]
    simp only [Nat.shiftLeft_eq, lowB, Nat.add_assoc]
  rw [← headed_of_or hop (lowB_lt f), ← hlow]
  simp only [wordB, b2n, Nat.zero_shiftLeft, Nat.zero_or, Nat.lor_assoc, Bool.false_eq_true, if_false]

theorem wordJ_eq {op : Nat} (hop : op < 64) (f : FJ) : wordJ op f = headed f.pg false op f.imm.toNat := by
  rw [← headed_of_or hop f.imm.isLt]
  simp only [wordJ, b2n, Nat.zero_shiftLeft, Nat.zero_or, Nat.lor_assoc, Bool.false_eq_true, if_false]

/-! ### The fields read back -/

/-- A field is what its bits come to. -/
theorem ofNat_bits {n v hi lo : Nat} {x : BitVec n} (h : v / 2 ^ lo % 2 ^ (hi + 1 - lo) = x.toNat) : BitVec.ofNat n (bits v hi lo) = x := by
  refine BitVec.eq_of_toNat_eq ?_
  rw [bits, Nat.shiftRight_eq_div_pow, h, BitVec.toNat_ofNat, Nat.mod_eq_of_lt x.isLt]

section
variable {op : Nat} (hop : op < 64)
include hop

theorem fieldsR_wordR {fn : Nat} (hfn : fn < 128) (f : FR) : fieldsR (wordR op fn f) = f := by
  have hlow := lowR_lt hfn f
  simp only [wordR_eq hop hfn, fieldsR, headed_pg hlow hop, headed_z hlow hop, headed_bits hlow (hi := 21) (by decide),
    headed_bits hlow (hi := 16) (by decide), headed_bits hlow (hi := 11) (by decide)]
  congr 1 <;> exact ofNat_bits (by unfold lowR; omega)

theorem fieldsI_wordI (f : FI) : fieldsI (wordI op f) = f := by
  have hlow := lowI_lt f
  simp only [wordI_eq hop, fieldsI, headed_pg hlow hop, headed_z hlow hop, headed_bits hlow (hi := 21) (by decide),
    headed_bits hlow (hi := 16) (by decide), headed_bits hlow (hi := 11) (by decide)]
  congr 1 <;> exact ofNat_bits (by unfold lowI; omega)

theorem fieldsU_wordU (f : FU) : fieldsU (wordU op f) = f := by
  have hlow := lowU_lt f
  simp only [wordU_eq hop, fieldsU, headed_pg hlow hop, headed_z hlow hop, headed_bits hlow (hi := 21) (by decide),
    headed_bits hlow (hi := 16) (by decide)]
  congr 1 <;> exact ofNat_bits (by unfold lowU; omega)

theorem fieldsB_wordB (f : FB) : fieldsB (wordB op f) = f := by
  have hlow := lowB_lt f
  simp only [wordB_eq hop, fieldsB, headed_pg hlow hop, headed_bits hlow (hi := 21) (by decide),
    headed_bits hlow (hi := 16) (by decide), headed_bits hlow (hi := 11) (by decide)]
  congr 1 <;> exact ofNat_bits (by unfold lowB; omega)

theorem fieldsJ_wordJ (f : FJ) : fieldsJ (wordJ op f) = f := by
  simp only [wordJ_eq hop, fieldsJ, headed_pg f.imm.isLt hop, headed_bits f.imm.isLt (hi := 21) (by decide)]
  congr 1
  exact ofNat_bits (by omega)

end

/-! ### The instruction read back -/

/-- A word of 32 bits that reads as an instruction, before its unused fields are checked. -/
def Spells (v : Nat) (i : Instr) : Prop := v < 2 ^ 32 ∧ ∃ w, laneRead w v = some i

section
variable {op v : Nat} {w : LaneWho} {i : Instr}

/-- A word whose opcode and fields read back reads as what these say. -/
theorem spells_of_headed {α : Type} {fields : Nat → α} {f : α} {pg : BitVec 3} {z : Bool} {low word : Nat} (h : some word = some v)
    (heq : word = headed pg z op low) (hlow : low < 2 ^ 22) (hop : op < 64) (hfields : fields word = f)
    (hread : ∀ v, bits v 27 22 = op → fields v = f → laneRead w v = some i) : Spells v i := by
  obtain rfl : word = v := Option.some.inj h
  refine ⟨heq ▸ headed_lt hlow hop, w, hread word ?_ hfields⟩
  rw [heq, headed_op hlow hop]

theorem spells_wordR {fn : Nat} {f : FR} (h : some (wordR op fn f) = some v) (hop : op < 64) (hfn : fn < 128)
    (hread : ∀ v, bits v 27 22 = op → bits v 6 0 = fn → fieldsR v = f → laneRead w v = some i) : Spells v i := by
  have hfields : ((bits (wordR op fn f) 6 0, fieldsR (wordR op fn f)) : Nat × FR) = (fn, f) := by
    rw [fieldsR_wordR hop hfn, wordR_eq hop hfn, headed_bits (lowR_lt hfn f) (by decide), bits, lowR]
    exact congrArg (·, f) (by omega)
  exact spells_of_headed (fields := fun v => (bits v 6 0, fieldsR v)) h (wordR_eq hop hfn f) (lowR_lt hfn f) hop hfields
    fun v hop hsame => hread v hop (congrArg Prod.fst hsame) (congrArg Prod.snd hsame)

theorem spells_wordI {f : FI} (h : some (wordI op f) = some v) (hop : op < 64)
    (hread : ∀ v, bits v 27 22 = op → fieldsI v = f → laneRead w v = some i) : Spells v i :=
  spells_of_headed h (wordI_eq hop f) (lowI_lt f) hop (fieldsI_wordI hop f) hread

theorem spells_wordU {f : FU} (h : some (wordU op f) = some v) (hop : op < 64)
    (hread : ∀ v, bits v 27 22 = op → fieldsU v = f → laneRead w v = some i) : Spells v i :=
  spells_of_headed h (wordU_eq hop f) (lowU_lt f) hop (fieldsU_wordU hop f) hread

theorem spells_wordB {f : FB} (h : some (wordB op f) = some v) (hop : op < 64)
    (hread : ∀ v, bits v 27 22 = op → fieldsB v = f → laneRead w v = some i) : Spells v i :=
  spells_of_headed h (wordB_eq hop f) (lowB_lt f) hop (fieldsB_wordB hop f) hread

theorem spells_wordJ {f : FJ} (h : some (wordJ op f) = some v) (hop : op < 64)
    (hread : ∀ v, bits v 27 22 = op → fieldsJ v = f → laneRead w v = some i) : Spells v i :=
  spells_of_headed h (wordJ_eq hop f) f.imm.isLt hop (fieldsJ_wordJ hop f) hread

end

/-- SEL keeps its predicate in the low three bits of fn7, whose other four are zero. -/
theorem spells_sel {w : LaneWho} {f : FR} {pq : BitVec 3} {v : Nat} (h : some (wordR 0x14 pq.toNat f) = some v) :
    Spells v (.laneSel w f pq) := by
  refine spells_wordR (w := w) h (by decide) (by omega) fun u hop hfn hf => ?_
  have hhigh : bits u 6 3 = 0 := by
    simp only [bits, Nat.shiftRight_eq_div_pow] at hfn ⊢
    omega
  have hpq : BitVec.ofNat 3 u = pq := by
    refine BitVec.eq_of_toNat_eq ?_
    simp only [bits, Nat.shiftRight_eq_div_pow] at hfn
    rw [BitVec.toNat_ofNat]
    omega
  unfold laneRead laneOfWordR laneOfWordO
  rw [hop, hf, hpq]
  exact if_pos hhigh

/-- The word of an instruction reads as that instruction. -/
theorem spells_of_laneWord {i : Instr} {v : Nat} (h : laneWord i = some v) : Spells v i := by
  cases i
  case laneAdd w f | laneSub w f | laneAnd w f | laneOr w f | laneXor w f | laneSll w f | laneSrl w f | laneSra w f | laneMul w f
    | laneMulhu w f | laneMulh w f | laneMin w f | laneMax w f | laneMinu w f | laneMaxu w f | laneDivu w f | laneRemu w f |
    laneAddB4 w f | laneSubB4 w f | laneAddsB4 w f | laneMinB4 w f | laneMaxB4 w f | laneDotB4 w f | laneAddH2 w f | laneSubH2 w f
    | laneAddsH2 w f | laneMinH2 w f | laneMaxH2 w f | laneMulH2 w f | laneFadd w f | laneFsub w f | laneFmul w f | laneFdiv w f |
    laneFmin w f | laneFmax w f | laneFsqrt w f | laneFexp2 w f | laneFlog2 w f | laneFneg w f | laneFabs w f | laneFmac w f |
    laneF2i w f | laneI2f w f | laneF2f16 w f | laneF162f w f | laneF2w16 w f | laneW162f w f | laneF2e4m3 w f | laneE4m32f w f |
    laneF2e5m2 w f | laneE5m22f w f | laneF2i8 w f | laneI82f w f | laneFeq w f | laneFlt w f | laneFle w f | laneFun w f | laneEq
    w f | laneNe w f | laneLt w f | laneLtu w f | laneGe w f | laneGeu w f | lanePlogAnd w f | lanePlogOr w f | lanePlogXor w f |
    lanePlogAndn w f | laneRedFsum w f | laneRedFprod w f | laneRedFmax w f | laneRedFmin w f | laneRedFargmax w f |
    laneRedFargmin w f | laneRedIsum w f | laneRedImax w f | laneRedImin w f | laneLdmB w f | laneLdmH w f | laneLdmW w f |
    laneStmB w f | laneStmH w f | laneStmW w f | laneLde w f | laneSte w f | laneLdod w f | laneEndvl w f | laneGetred w f |
    laneHalt w f =>
    exact spells_wordR (w := w) h (by decide) (by decide) fun u hop hfn hf => by
      unfold laneRead laneOfWordR
      rw [hop, hfn, hf]
      rfl
  case laneSel w f pq => exact spells_sel h
  case laneAddi w f | laneAndi w f | laneOri w f | laneXori w f | laneSlli w f | laneSrli w f | laneSrai w f | laneLdsB w f |
    laneLdsH w f | laneLdsW w f | laneStsB w f | laneStsH w f | laneStsW w f | laneSetvl w f | laneMfsr w f =>
    exact spells_wordI (w := w) h (by decide) fun u hop hf => by
      unfold laneRead laneOfWordR laneOfWordO
      rw [hop, hf]
      rfl
  case laneLui w f | laneLli w f | laneBrk w f =>
    exact spells_wordU (w := w) h (by decide) fun u hop hf => by
      unfold laneRead laneOfWordR laneOfWordO
      rw [hop, hf]
      rfl
  case laneBeq w f | laneBne w f | laneBlt w f | laneBge w f | laneBltu w f | laneBgeu w f | laneBp w f =>
    exact spells_wordB (w := w) h (by decide) fun u hop hf => by
      unfold laneRead laneOfWordR laneOfWordO
      rw [hop, hf]
      rfl
  case laneJ w f =>
    exact spells_wordJ (w := w) h (by decide) fun u hop hf => by
      unfold laneRead laneOfWordR laneOfWordO
      rw [hop, hf]
      rfl
  all_goals exact absurd h nofun

/-- Settles O60: a word reads as the instruction that it is the word of, and the decoder itself compares the word with that of what it
has read. -/
theorem laneWordsRoundTrip : Obligations.LaneWordsRoundTrip := by
  unfold Obligations.LaneWordsRoundTrip
  refine ⟨fun i v hword hunused => ?_, fun w v i _ hspelt => ?_⟩
  · obtain ⟨hlt, w, hread⟩ := spells_of_laneWord hword
    refine ⟨hlt, w, ?_⟩
    rw [laneOfWord, hread]
    exact if_pos (by rw [hunused, hword, beq_self_eq_true, Bool.and_self])
  · unfold laneOfWord at hspelt
    split at hspelt
    · next hread =>
      obtain ⟨hsame, hspelt⟩ := Option.ite_none_right_eq_some.1 hspelt
      obtain rfl := Option.some.inj hspelt
      obtain ⟨hunused, hword⟩ := Bool.and_eq_true_iff.1 hsame
      exact ⟨eq_of_beq hword, hunused⟩
    · exact absurd hspelt nofun

end Sys2Proof.Machine
end

section
/-! What a lane instruction whose guard is true does with the thread that it runs on (R167, R182, R192, R193). -/

namespace Sys2Proof.Machine

/-- What a lane instruction does with its kernel, its thread and the state. -/
abbrev LaneAct := LaneKernel → LaneThread → State → State × LaneKernel × LaneThread

section
variable {w : LaneWho} {s : State} {k : LaneKernel} {th th' : LaneThread} {c : Instr} {pg : BitVec 3}

theorem laneRuns_kernel (hrun : laneRuns c w pg s k th) : laneKernel s w.run = some k := by
  obtain ⟨⟨hkernel, _⟩, _⟩ := hrun
  exact hkernel

theorem laneRuns_thread (hrun : laneRuns c w pg s k th) : threadAt k w.t = some th := by
  obtain ⟨⟨_, hthread, _⟩, _⟩ := hrun
  exact hthread

theorem laneRuns_trap (hrun : laneRuns c w pg s k th) : th.trap = none := by
  obtain ⟨⟨_, _, hready, _⟩, _⟩ := hrun
  exact ready_trap hready

theorem laneRuns_isSome (hrun : laneRuns c w pg s k th) : (laneKernel s w.run).isSome = true :=
  Option.isSome_of_eq_some (laneRuns_kernel hrun)

theorem goesOn_before {pc : Nat} (h : goesOn k (pc + 1)) : goesOn k pc := h.imp id (Nat.lt_of_succ_lt ·)

section
variable {off : LaneThread → LaneThread} {act : LaneAct} (hrun : laneRuns c w pg s k th)
  (hexec : exec c s = .next (laneGo w c pg off act s))
include hrun hexec

/-- A thread that neither traps nor leaves its code moves, and nothing else does. -/
theorem exec_moves (hact : act k th s = (s, k, th')) (htrap : th'.trap = none) (hgo : goesOn k th'.pc) :
    exec c s = .next (movedTo w k th' s) := by
  rw [hexec, laneGo_runs hrun, hact]
  exact congrArg _ (settle_goes (laneRuns_isSome hrun) htrap hgo)

/-- In an element loop a thread moves whether or not it traps: its pass reports the trap (R193). -/
theorem exec_moves_inLoop (hloop : k.loop.isSome = true) (hact : act k th s = (s, k, th')) :
    exec c s = .next (movedTo w k th' s) := by
  rw [hexec, laneGo_runs hrun, hact]
  simp only [settle, laneRuns_kernel hrun, if_pos hloop, movedTo]

/-- A thread goes to a target or to its next word. -/
theorem exec_jumps {taken : Bool} {o : Int} (hact : act k th s = (s, k, if taken then jumpBy th o else stepPc th))
    (hgo : goesOn k (if taken then ((th.pc : Int) + o).toNat else th.pc + 1)) :
    exec c s = .next (movedTo w k { th with pc := if taken then ((th.pc : Int) + o).toNat else th.pc + 1 } s) := by
  rw [hexec, laneGo_runs hrun, hact]
  exact congrArg _ (jump_goes (laneRuns_trap hrun) (laneRuns_kernel hrun) taken taken o rfl hgo)

end

/-- An instruction that computes a general register writes it, steps on and does nothing else. -/
theorem exec_laneReg {z : Bool} {rd : Nat} {val : LaneThread → Word32} {v : Word32} (hrun : laneRuns c w pg s k th)
    (hgo : goesOn k (th.pc + 1)) (hexec : exec c s = .next (laneReg w c pg z rd val s)) (hval : val th = v) :
    exec c s = .next (movedTo w k (stepPc (setG th rd v)) s) := by
  rw [hexec, laneReg_is hrun hgo hval]

/-- An instruction that computes a predicate writes it, steps on and does nothing else. -/
theorem exec_lanePredicate {off : LaneThread → LaneThread} {pd : Nat} {val : LaneThread → Bool} {v : Bool}
    (hrun : laneRuns c w pg s k th) (hgo : goesOn k (th.pc + 1))
    (hexec : exec c s = .next (laneGo w c pg off (fun k th s => (s, k, stepPc (setP th pd (val th)))) s)) (hval : val th = v) :
    exec c s = .next (movedTo w k (stepPc (setP th pd v)) s) :=
  exec_moves hrun hexec (by rw [hval]) (by simp [stepPc, laneRuns_trap hrun]) (by simpa [stepPc] using hgo)

/-- A branch goes to its target where its condition holds, and steps on where it does not. -/
theorem exec_laneBranch {f : FB} {op : Word32 → Word32 → Bool} {taken : Bool} (hrun : laneRuns c w f.pg s k th)
    (hexec : exec c s = .next (laneBranch w c f op s)) (hop : op (getG th f.rs1.toNat) (getG th f.rs2.toNat) = taken)
    (hgo : goesOn k (if taken then ((th.pc : Int) + f.imm.toInt).toNat else th.pc + 1)) :
    exec c s = .next (movedTo w k { th with pc := if taken then ((th.pc : Int) + f.imm.toInt).toNat else th.pc + 1 } s) := by
  rw [hexec, laneBranch_is hrun hop hgo]

end

end Sys2Proof.Machine
end

section
/-! The lane instructions that compute a register or a predicate (R171, R176 to R181, Tables 6.3 and 6.4). -/

namespace Sys2Proof.Machine

/-! ### Values as the tables write them -/

theorem bitVec_eq_zero_iff {n : Nat} (x : BitVec n) : x = 0 ↔ x.toNat = 0 := by
  rw [← BitVec.toNat_inj, BitVec.ofNat_eq_ofNat, BitVec.toNat_zero]

/-- The low 32 bits of a product. -/
theorem mul_val (a b : Word32) : a * b = BitVec.ofNat 32 (a.toNat * b.toNat) := rfl

theorem divu_val (a b : Word32) :
    (if b = 0 then 0xFFFFFFFF else a / b) = if b.toNat = 0 then BitVec.allOnes 32 else BitVec.ofNat 32 (a.toNat / b.toNat) := by
  have hzero := bitVec_eq_zero_iff b
  by_cases h : b.toNat = 0
  · rw [if_pos h, if_pos (hzero.2 h)]
    rfl
  · rw [if_neg h, if_neg (mt hzero.1 h), ← BitVec.toNat_udiv, BitVec.ofNat_toNat, BitVec.setWidth_eq]

theorem remu_val (a b : Word32) :
    (if b = 0 then a else a % b) = if b.toNat = 0 then a else BitVec.ofNat 32 (a.toNat % b.toNat) := by
  simp only [bitVec_eq_zero_iff b, ← BitVec.toNat_umod, BitVec.ofNat_toNat, BitVec.setWidth_eq]

theorem slt_val (a b : Word32) : a.slt b = decide (a.toInt < b.toInt) := rfl
theorem ult_val (a b : Word32) : a.ult b = decide (a.toNat < b.toNat) := rfl

theorem not_slt_val (a b : Word32) : (!a.slt b) = decide (b.toInt ≤ a.toInt) := by
  rw [slt_val, ← decide_not, decide_eq_decide, Int.not_lt]

theorem not_ult_val (a b : Word32) : (!a.ult b) = decide (b.toNat ≤ a.toNat) := by
  rw [ult_val, ← decide_not, decide_eq_decide, Nat.not_lt]

theorem bne_val (a b : Word32) : (a != b) = decide (a ≠ b) := by
  rw [bne, beq_eq_decide, decide_not]

/-- MFSR's selector is its whole immediate. -/
theorem mfsr_val (imm : BitVec 12) (vl ei : Nat) : (if imm = 0 then BitVec.ofNat 32 vl else BitVec.ofNat 32 ei)
    = BitVec.ofNat 32 (if imm.toNat = 0 then vl else ei) := by
  simp only [bitVec_eq_zero_iff imm, apply_ite (BitVec.ofNat 32)]

/-! ### Packed results (Table 6.4) -/

/-- A word whose bytes are those of an operation is its packed result. -/
theorem packB4_of_bytes {op op' : BitVec 8 → BitVec 8 → BitVec 8} {a b v : Word32} (hop : op' = op)
    (h : ∀ i < 4, v.extractLsb' (8 * i) 8 = op (a.extractLsb' (8 * i) 8) (b.extractLsb' (8 * i) 8)) : packB4 op' a b = v := by
  refine byte_eq fun i hi => ?_
  rw [hop, packB4_byte op a b i hi, h i hi]

/-- A word whose halves are those of an operation is its packed result. -/
theorem packH2_of_halves {op op' : BitVec 16 → BitVec 16 → BitVec 16} {a b v : Word32} (hop : op' = op)
    (h : ∀ i < 2, v.extractLsb' (16 * i) 16 = op (a.extractLsb' (16 * i) 16) (b.extractLsb' (16 * i) 16)) : packH2 op' a b = v := by
  refine half_eq fun i hi => ?_
  rw [hop, packH2_half op a b i hi, h i hi]

theorem addSat_byte : addSat (w := 8) = fun x y => BitVec.ofInt 8 (max (-128) (min (x.toInt + y.toInt) 127)) := rfl
theorem addSat_half : addSat (w := 16) = fun x y => BitVec.ofInt 16 (max (-32768) (min (x.toInt + y.toInt) 32767)) := rfl
theorem minS_fun (n : Nat) : minS (w := n) = fun x y => if x.toInt < y.toInt then x else y := funext fun x => funext (minS_eq x)
theorem maxS_fun (n : Nat) : maxS (w := n) = fun x y => if x.toInt < y.toInt then y else x := funext fun x => funext (maxS_eq x)

/-! ### The statements -/

/-- Settles O1: every form is one computed register, and its value that of Table 6.4. -/
theorem laneIntegerResults : Obligations.LaneIntegerResults := by
  unfold Obligations.LaneIntegerResults
  refine ⟨fun w f s k th c v => ?formR, fun w s k th c v pg rd f u => ?formsIU⟩
  case formR =>
    intro a b hmem hrun hgo
    simp only [List.mem_cons, Prod.mk.injEq, List.not_mem_nil, or_false] at hmem
    rcases hmem with h | h | h | h | h | h | h | h | h | h | h | h | h | h | h | h | h
    all_goals
      obtain ⟨rfl, rfl⟩ := h
      refine exec_laneReg hrun hgo rfl ?_
    exacts [rfl, rfl, rfl, rfl, rfl, rfl, rfl, rfl, mul_val a b, rfl, rfl, minS_eq a b, maxS_eq a b, rfl, rfl, divu_val a b,
      remu_val a b]
  case formsIU =>
    intro hmem hrun hgo
    simp only [List.mem_cons, Prod.mk.injEq, List.not_mem_nil, or_false] at hmem
    rcases hmem with h | h | h | h | h | h | h | h | h
    all_goals
      obtain ⟨rfl, rfl, rfl, rfl⟩ := h
      refine exec_laneReg hrun hgo rfl ?_
    exacts [rfl, rfl, rfl, rfl, rfl, rfl, rfl, lui_val u.imm, lli_val _ u.imm]

/-- Settles O3: every form is one computed register, whose value is the exact result rounded once, or the converted one. -/
theorem laneFloatResults : Obligations.LaneFloatResults := by
  unfold Obligations.LaneFloatResults
  intro w f s k th c v a b d code value hmem hrun hgo
  simp only [List.mem_cons, Prod.mk.injEq, List.not_mem_nil, or_false] at hmem
  rcases hmem with h | h | h | h | h | h | h | h | h | h | h | h | h | h | h | h | h | h | h | h | h | h | h | h
  all_goals
    obtain ⟨rfl, rfl⟩ := h
    exact exec_laneReg hrun hgo rfl rfl

/-- Settles O2: a packed result is fixed by its bytes or halves, a comparison and a predicate operation by their value. -/
theorem lanePackedAndPredicateResults : Obligations.LanePackedAndPredicateResults := by
  unfold Obligations.LanePackedAndPredicateResults
  refine ⟨fun w f s k th c v hrun hgo => ?packed, fun w f g pq s k th => ⟨fun c v => ?predicates, fun hrun hgo => ?sel,
    fun hrun hgo => ?mfsr⟩⟩
  case packed =>
    rintro (⟨op, hform, hbytes⟩ | ⟨op, hform, hhalves⟩ | ⟨rfl, hv⟩)
    · have hpacked {op' : BitVec 8 → BitVec 8 → BitVec 8} (h : op' = op) := packB4_of_bytes h hbytes
      rcases hform with h | h | h | h | h
      all_goals
        obtain ⟨rfl, hop⟩ := h
        refine exec_laneReg hrun hgo rfl (hpacked (.trans ?_ hop.symm))
      exacts [rfl, rfl, addSat_byte, minS_fun 8, maxS_fun 8]
    · have hpacked {op' : BitVec 16 → BitVec 16 → BitVec 16} (h : op' = op) := packH2_of_halves h hhalves
      rcases hform with h | h | h | h | h | h
      all_goals
        obtain ⟨rfl, hop⟩ := h
        refine exec_laneReg hrun hgo rfl (hpacked (.trans ?_ hop.symm))
      exacts [rfl, rfl, addSat_half, minS_fun 16, maxS_fun 16, rfl]
    · exact exec_laneReg hrun hgo rfl hv.symm
  case predicates =>
    intro x y hmem hrun hgo
    simp only [List.mem_cons, Prod.mk.injEq, List.not_mem_nil, or_false] at hmem
    rcases hmem with h | h | h | h | h | h | h | h | h | h | h | h | h | h
    all_goals
      obtain ⟨rfl, rfl⟩ := h
      refine exec_lanePredicate hrun hgo rfl ?_
    exacts [rfl, rfl, rfl, rfl, beq_eq_decide _ _, bne_val x y, slt_val x y, ult_val x y, not_slt_val x y, not_ult_val x y,
      rfl, rfl, rfl, rfl]
  case sel => exact exec_laneReg hrun hgo rfl rfl
  case mfsr =>
    refine exec_moves hrun rfl ?_ (by simp [stepPc, laneRuns_trap hrun]) (by simpa [stepPc] using hgo)
    rw [mfsr_val]

end Sys2Proof.Machine
end

section
/-! Branches and false guards (R177, R182). -/

namespace Sys2Proof.Machine

/-! ### False guards (R182) -/

@[simp] theorem zeroG_trap (z : Bool) (rd : Nat) (th : LaneThread) : (zeroG z rd th).trap = th.trap := by cases z <;> simp [zeroG]
@[simp] theorem zeroG_pc (z : Bool) (rd : Nat) (th : LaneThread) : (zeroG z rd th).pc = th.pc := by cases z <;> simp [zeroG]
@[simp] theorem zeroP_trap (z : Bool) (pd : Nat) (th : LaneThread) : (zeroP z pd th).trap = th.trap := by cases z <;> simp [zeroP]
@[simp] theorem zeroP_pc (z : Bool) (pd : Nat) (th : LaneThread) : (zeroP z pd th).pc = th.pc := by cases z <;> simp [zeroP]

/-- A lane command under guard `pg` that does `off`, and stays at its word with no trap, where the guard is false. -/
def Guarded (c : Instr) (w : LaneWho) (pg : BitVec 3) (off : LaneThread → LaneThread) : Prop :=
  (∃ act, ∀ s, exec c s = .next (laneGo w c pg off act s)) ∧ ∀ th, (off th).trap = th.trap ∧ (off th).pc = th.pc

section
variable {w : LaneWho} {s : State} {k : LaneKernel} {th : LaneThread} {c : Instr} {pg : BitVec 3} {z : Bool} {rd : Nat}
  {off : LaneThread → LaneThread} {act : LaneAct}

/-- A false guard leaves a thread with its destination cleared as its mask mode says, at the next word. -/
theorem exec_guardFalse (hguarded : Guarded c w pg off) (hnext : laneNext c w s k th) (hguard : getP th pg.toNat = false)
    (hgo : goesOn k (th.pc + 1)) : exec c s = .next (movedTo w k (stepPc (off th)) s) := by
  obtain ⟨⟨act, hexec⟩, hoff⟩ := hguarded
  obtain ⟨htrap, hpc⟩ := hoff th
  obtain ⟨hkernel, _, hready, _⟩ := id hnext
  rw [hexec, laneGo_off hnext hguard]
  exact congrArg _ (settle_goes (Option.isSome_of_eq_some hkernel) (htrap.trans (ready_trap hready)) (by rw [stepPc, hpc]; exact hgo))

/-- Nothing to clear. -/
theorem guarded_id (h : ∀ s, exec c s = .next (laneGo w c pg id act s)) : Guarded c w pg id := ⟨⟨act, h⟩, fun _ => ⟨rfl, rfl⟩⟩

/-- A general register to clear. -/
theorem guarded_zeroG (h : ∀ s, exec c s = .next (laneGo w c pg (zeroG z rd) act s)) : Guarded c w pg (zeroG z rd) :=
  ⟨⟨act, h⟩, fun th => ⟨zeroG_trap z rd th, zeroG_pc z rd th⟩⟩

theorem guarded_laneReg {val : LaneThread → Word32} (h : ∀ s, exec c s = .next (laneReg w c pg z rd val s)) :
    Guarded c w pg (zeroG z rd) := guarded_zeroG h

/-- A predicate to clear. -/
theorem guarded_zeroP (h : ∀ s, exec c s = .next (laneGo w c pg (zeroP z rd) act s)) : Guarded c w pg (zeroP z rd) :=
  ⟨⟨act, h⟩, fun th => ⟨zeroP_trap z rd th, zeroP_pc z rd th⟩⟩

/-- GETRED has a general register and a predicate to clear. -/
theorem guarded_getred (w : LaneWho) (f : FR) :
    Guarded (.laneGetred w f) w f.pg fun th => zeroP f.z f.rs2.toNat (zeroG f.z f.rd.toNat th) :=
  ⟨⟨_, fun _ => rfl⟩, fun th => by simp⟩

theorem zeroP_zeroG (pd : Nat) :
    zeroP z pd (zeroG z rd th) = if z then setP (setG th rd 0) pd false else th := by cases z <;> rfl

end

/-! Which forms clear what: in the order of the statement's lists. -/

theorem guarded_computedR (w : LaneWho) (f : FR) :
    ∀ i ∈ [Instr.laneAdd, .laneSub, .laneAnd, .laneOr, .laneXor, .laneSll, .laneSrl, .laneSra, .laneMul, .laneMulhu, .laneMulh,
        .laneMin, .laneMax, .laneMinu, .laneMaxu, .laneDivu, .laneRemu, .laneAddB4, .laneSubB4, .laneAddsB4, .laneMinB4, .laneMaxB4,
        .laneDotB4, .laneAddH2, .laneSubH2, .laneAddsH2, .laneMinH2, .laneMaxH2, .laneMulH2, .laneFadd, .laneFsub, .laneFmul, .laneFdiv,
        .laneFmin, .laneFmax, .laneFsqrt, .laneFexp2, .laneFlog2, .laneFneg, .laneFabs, .laneFmac, .laneF2i, .laneI2f, .laneF2f16,
        .laneF162f, .laneF2w16, .laneW162f, .laneF2e4m3, .laneE4m32f, .laneF2e5m2, .laneE5m22f, .laneF2i8, .laneI82f],
      Guarded (i w f) w f.pg (zeroG f.z f.rd.toNat) := by
  intro i hi
  fin_cases hi
  all_goals exact guarded_laneReg fun _ => rfl

theorem guarded_loadedR (w : LaneWho) (f : FR) :
    ∀ i ∈ [Instr.laneLdmB, .laneLdmH, .laneLdmW, .laneLde], Guarded (i w f) w f.pg (zeroG f.z f.rd.toNat) := by
  intro i hi
  fin_cases hi
  all_goals exact guarded_zeroG fun _ => rfl

theorem guarded_computedI (w : LaneWho) (f : FI) :
    ∀ i ∈ [Instr.laneAddi, .laneAndi, .laneOri, .laneXori, .laneSlli, .laneSrli, .laneSrai],
      Guarded (i w f) w f.pg (zeroG f.z f.rd.toNat) := by
  intro i hi
  fin_cases hi
  all_goals exact guarded_laneReg fun _ => rfl

theorem guarded_loadedI (w : LaneWho) (f : FI) :
    ∀ i ∈ [Instr.laneLdsB, .laneLdsH, .laneLdsW, .laneMfsr], Guarded (i w f) w f.pg (zeroG f.z f.rd.toNat) := by
  intro i hi
  fin_cases hi
  all_goals exact guarded_zeroG fun _ => rfl

theorem guarded_computedU (w : LaneWho) (f : FU) : ∀ i ∈ [Instr.laneLui, .laneLli], Guarded (i w f) w f.pg (zeroG f.z f.rd.toNat) := by
  intro i hi
  fin_cases hi
  all_goals exact guarded_laneReg fun _ => rfl

theorem guarded_predicateR (w : LaneWho) (f : FR) :
    ∀ i ∈ [Instr.laneFeq, .laneFlt, .laneFle, .laneFun, .laneEq, .laneNe, .laneLt, .laneLtu, .laneGe, .laneGeu, .lanePlogAnd,
        .lanePlogOr, .lanePlogXor, .lanePlogAndn], Guarded (i w f) w f.pg (zeroP f.z f.rd.toNat) := by
  intro i hi
  fin_cases hi
  all_goals exact guarded_zeroP fun _ => rfl

theorem guarded_effectR (w : LaneWho) (f : FR) :
    ∀ i ∈ [Instr.laneStmB, .laneStmH, .laneStmW, .laneSte, .laneLdod, .laneRedFsum, .laneRedFprod, .laneRedFmax, .laneRedFmin,
        .laneRedFargmax, .laneRedFargmin, .laneRedIsum, .laneRedImax, .laneRedImin, .laneEndvl, .laneHalt],
      Guarded (i w f) w f.pg id := by
  intro i hi
  fin_cases hi
  all_goals exact guarded_id fun _ => rfl

theorem guarded_effectI (w : LaneWho) (f : FI) :
    ∀ i ∈ [Instr.laneStsB, .laneStsH, .laneStsW, .laneSetvl], Guarded (i w f) w f.pg id := by
  intro i hi
  fin_cases hi
  all_goals exact guarded_id fun _ => rfl

theorem guarded_branch (w : LaneWho) (f : FB) :
    ∀ i ∈ [Instr.laneBeq, .laneBne, .laneBlt, .laneBge, .laneBltu, .laneBgeu, .laneBp], Guarded (i w f) w f.pg id := by
  intro i hi
  fin_cases hi
  all_goals exact guarded_id fun _ => rfl

/-- Settles O4: a branch by its condition; a false guard by which destination the form has to clear. -/
theorem laneBranchesAndGuards : Obligations.LaneBranchesAndGuards := by
  unfold Obligations.LaneBranchesAndGuards
  refine ⟨fun w f j s k th c taken pg off => ?branches, fun w f g u b j pq s k th c pg th' hmem hnext hguard hgo => ?guards⟩
  case branches =>
    intro x y hmem hrun pc hgo
    simp only [List.mem_cons, Prod.mk.injEq, List.not_mem_nil, or_false] at hmem
    rcases hmem with h | h | h | h | h | h | h | h
    all_goals obtain ⟨rfl, rfl, rfl, rfl⟩ := h
    · exact exec_laneBranch hrun rfl (beq_eq_decide _ _) hgo
    · exact exec_laneBranch hrun rfl (bne_val x y) hgo
    · exact exec_laneBranch hrun rfl (slt_val x y) hgo
    · exact exec_laneBranch hrun rfl (not_slt_val x y) hgo
    · exact exec_laneBranch hrun rfl (ult_val x y) hgo
    · exact exec_laneBranch hrun rfl (not_ult_val x y) hgo
    · exact exec_jumps hrun rfl rfl hgo
    · exact exec_jumps hrun rfl rfl hgo
  case guards =>
    have hfalse {c' : Instr} {pg' : BitVec 3} {off : LaneThread → LaneThread} (hguarded : Guarded c' w pg' off)
        (h : (c', pg', off th) = (c, pg, th')) : exec c s = .next (movedTo w k (stepPc th') s) := by
      obtain ⟨rfl, rfl, rfl⟩ := by simpa only [Prod.mk.injEq] using h
      exact exec_guardFalse hguarded hnext hguard hgo
    simp only [List.mem_append, List.mem_map, or_assoc] at hmem
    rcases hmem with h | ⟨i, hi, h⟩ | ⟨i, hi, h⟩ | ⟨i, hi, h⟩ | ⟨i, hi, h⟩ | ⟨i, hi, h⟩ | ⟨i, hi, h⟩ | ⟨i, hi, h⟩
    · simp only [List.mem_cons, List.not_mem_nil, or_false] at h
      rcases h with h | h | h | h
      · exact hfalse (off := zeroG f.z f.rd.toNat) (guarded_laneReg fun _ => rfl) h.symm
      · exact hfalse (guarded_getred w f) (by rw [zeroP_zeroG]; exact h.symm)
      · exact hfalse (guarded_id fun _ => rfl) h.symm
      · exact hfalse (guarded_id fun _ => rfl) h.symm
    · exact hfalse (List.forall_mem_append.2 ⟨guarded_computedR w f, guarded_loadedR w f⟩ i hi) h
    · exact hfalse (List.forall_mem_append.2 ⟨guarded_computedI w g, guarded_loadedI w g⟩ i hi) h
    · exact hfalse (guarded_computedU w u i hi) h
    · exact hfalse (guarded_predicateR w f i hi) h
    · exact hfalse (guarded_effectR w f i hi) h
    · exact hfalse (guarded_effectI w g i hi) h
    · exact hfalse (guarded_branch w b i hi) h

end Sys2Proof.Machine
end

section
/-! Loads (R168, R173, R183 to R187). -/

namespace Sys2Proof.Machine

section
variable {w : LaneWho} {s t : State} {k k' : LaneKernel} {th th' : LaneThread} {c : Instr} {pg : BitVec 3}
  {off : LaneThread → LaneThread} {act : LaneAct}

/-- A load that leaves the own store waits; every other goes on (R168). -/
def loaded (leaves : Bool) (th : LaneThread) : LaneThread := if leaves then { th with waiting := some .near } else stepPc th

/-- A load whose bytes are there leaves its thread waiting or at the next word. -/
theorem exec_loaded {leaves : Bool} (hrun : laneRuns c w pg s k th) (hexec : exec c s = .next (laneGo w c pg off act s))
    (hact : act k th s = (t, k', loaded leaves th')) (hkernel : (laneKernel t w.run).isSome = true) (hgo : goesOn k' (th'.pc + 1))
    (htrap : th'.trap = none) : exec c s = .next (movedTo w k' (loaded leaves th') t) := by
  rw [hexec, laneGo_runs hrun, hact]
  refine congrArg _ (settle_goes hkernel ?_ ?_)
  · cases leaves <;> exact htrap
  · cases leaves
    · exact hgo
    · exact goesOn_before hgo

/-- The same, of a load that puts a value in a register. -/
theorem exec_loads {leaves : Bool} {rd : Nat} {v : Word32} (hrun : laneRuns c w pg s k th)
    (hexec : exec c s = .next (laneGo w c pg off act s)) (hact : act k th s = (t, k, loaded leaves (setG th rd v)))
    (hkernel : (laneKernel t w.run).isSome = true) (hgo : goesOn k (th.pc + 1)) :
    exec c s = .next (movedTo w k (loaded leaves (setG th rd v)) t) :=
  exec_loaded hrun hexec hact hkernel (by rwa [setG_pc]) ((setG_trap th rd v).trans (laneRuns_trap hrun))

end

theorem leavesStore_own (k : LaneKernel) (a : Nat) : leavesStore k (.store k.lislet a) = false := bne_self_eq_false _

/-- What a load leaves depends on the kernel's own store alone. -/
theorem leavesStore_ods (k : LaneKernel) (ods : List (Option OpDesc)) (t : RangeBase) :
    leavesStore { k with ods := ods } t = leavesStore k t := rfl

/-- Settles O5: each load's checks pass, so that it comes to its bytes; LDS in a loop traps by its first failed check. -/
theorem laneLoads : Obligations.LaneLoads := by
  unfold Obligations.LaneLoads
  intro w g f s t k th bs hkernel hgo
  refine ⟨fun c n hmem hrun hfault hget => ?lds, fun c n kr hmem hrun hrange hfault hget => ?ldm,
    fun d kr hrun hod hrange hfault hget => ?lde, fun d kr hrun hrange hfault hget hparse => ?ldod,
    fun c n cause hmem hloop hrun hfault => ?trap⟩
  case lds =>
    have hload (hexec : exec c s = .next (laneLds w c g n s)) :
        exec c s = .next (movedTo w k (stepPc (setG th g.rd.toNat (wordOf bs))) t) := by
      refine exec_loads (leaves := false) hrun hexec ?_ hkernel hgo
      simp only [ldsAddr, hfault, laneLoad_data hget, leavesStore_own, loaded]
    simp only [List.mem_cons, Prod.mk.injEq, List.not_mem_nil, or_false] at hmem
    rcases hmem with ⟨rfl, rfl⟩ | ⟨rfl, rfl⟩ | ⟨rfl, rfl⟩
    all_goals exact hload rfl
  case ldm =>
    have hload (hexec : exec c s = .next (laneLdm w c f n s)) : exec c s = .next (movedTo w k
        (loaded (leavesStore k kr.base) (setG th f.rd.toNat (wordOf bs))) t) := by
      refine exec_loads hrun hexec ?_ hkernel hgo
      simp only [hfault, hrange, laneLoad_data hget, leaves_base, loaded]
    simp only [List.mem_cons, Prod.mk.injEq, List.not_mem_nil, or_false] at hmem
    rcases hmem with ⟨rfl, rfl⟩ | ⟨rfl, rfl⟩ | ⟨rfl, rfl⟩
    all_goals exact hload rfl
  case lde =>
    have hslot : k.ods.getD (f.rs1.toNat % 8) none = some d := by rw [List.getD_eq_getElem?_getD, hod]; rfl
    refine exec_loads (leaves := leavesStore k kr.base) hrun rfl ?_ hkernel hgo
    simp only [hslot, hfault, hrange, laneLoad_data hget, leaves_base, loaded]
  case ldod =>
    refine exec_loaded (leaves := leavesStore k kr.base) (th' := th) hrun rfl ?_ hkernel hgo (laneRuns_trap hrun)
    simp only [hfault, hrange, hget, hparse, leaves_base, leavesStore_ods, loaded]
    cases leavesStore k kr.base <;> rfl
  case trap =>
    have htraps (hexec : exec c s = .next (laneLds w c g n s)) :
        exec c s = .next (movedTo w k { th with trap := some ⟨cause, th.pc, 0⟩ } s) := by
      refine exec_moves_inLoop hrun hexec hloop ?_
      simp only [ldsAddr, hfault, trapWith]
    simp only [List.mem_cons, Prod.mk.injEq, List.not_mem_nil, or_false] at hmem
    rcases hmem with ⟨rfl, rfl⟩ | ⟨rfl, rfl⟩ | ⟨rfl, rfl⟩
    all_goals exact htraps rfl

end Sys2Proof.Machine
end

section
/-! Stores (R173 to R175, R183 to R187). -/

namespace Sys2Proof.Machine

section
variable {w : LaneWho} {s : State} {k : LaneKernel} {th : LaneThread} {c : Instr} {pg : BitVec 3} {st : LaneStore}

/-- The three ways that a store ends: it joins the pass, it is the 33rd, or it takes effect at once. -/
def StoreEnds (w : LaneWho) (s : State) (k : LaneKernel) (th : LaneThread) (st : LaneStore) (r : Host.Outcome State Fault Refusal) : Prop :=
  (k.loop.isSome = true → th.stores.length < 32 → r = .next (movedTo w k (stepPc { th with stores := th.stores ++ [st] }) s))
  ∧ (k.loop.isSome = true → 32 ≤ th.stores.length → r = .next (movedTo w k { th with trap := some ⟨3, th.pc, 0⟩ } s))
  ∧ (k.loop = none → storeVerdict s k st = .served → (laneKernel (commitStore k s st) w.run).isSome = true →
    goesOn k (th.pc + 1) → r = .next (movedTo w k (stepPc th) (commitStore k s st)))

theorem storeEnds_of_act {off : LaneThread → LaneThread} {act : LaneAct}
    (hrun : laneRuns c w pg s k th) (hexec : exec c s = .next (laneGo w c pg off act s)) (hact : act k th s = laneStore k th st s) :
    StoreEnds w s k th st (exec c s) := by
  obtain ⟨hjoins, hfull, huniform⟩ := laneGo_store (off := off) hrun hact
  rw [hexec]
  exact ⟨fun hloop hroom => congrArg _ (hjoins hloop hroom), fun hloop hmany => congrArg _ (hfull hloop hmany),
    fun hloop hserved hkernel hgo => congrArg _ (huniform hloop hserved hkernel hgo)⟩

theorem storeEnds_sts {f : FI} {n : Nat} (hrun : laneRuns c w f.pg s k th) (hexec : exec c s = .next (laneSts w c f n s))
    (hst : stsStore k th f n = some st) : StoreEnds w s k th st (exec c s) := by
  obtain ⟨hfault, hst⟩ := Option.ite_none_right_eq_some.1 hst
  obtain rfl := Option.some.inj hst
  refine storeEnds_of_act hrun hexec ?_
  simp only [ldsAddr, hfault]

theorem storeEnds_stm {f : FR} {n : Nat} (hrun : laneRuns c w f.pg s k th) (hexec : exec c s = .next (laneStm w c f n s))
    (hst : stmStore s k th f n = some st) : StoreEnds w s k th st (exec c s) := by
  unfold stmStore at hst
  dsimp only at hst
  split at hst
  · next kr hrange =>
    obtain ⟨hfault, hst⟩ := Option.ite_none_right_eq_some.1 hst
    obtain rfl := Option.some.inj hst
    refine storeEnds_of_act hrun hexec ?_
    simp only [hfault, hrange]
  · exact absurd hst nofun

theorem storeEnds_ste {f : FR} (hrun : laneRuns (.laneSte w f) w f.pg s k th) (hst : steStore s k th f = some st) :
    StoreEnds w s k th st (exec (.laneSte w f) s) := by
  unfold steStore at hst
  split at hst
  · exact absurd hst nofun
  · next d hslot =>
    dsimp only at hst
    split at hst
    · next kr hrange =>
      obtain ⟨⟨hmode, hfault⟩, hst⟩ := Option.ite_none_right_eq_some.1 hst
      obtain rfl := Option.some.inj hst
      refine storeEnds_of_act hrun rfl ?_
      simp only [hslot, hmode, hfault, hrange, bne_self_eq_false, Bool.false_eq_true, if_false]
      split <;> rfl
    · exact absurd hst nofun

end

/-- Settles O6: STS, STM and STE each come to one store, which ends in one of three ways. -/
theorem laneStores : Obligations.LaneStores := by
  unfold Obligations.LaneStores
  intro w g f s k th c pg st hmem hrun
  show StoreEnds w s k th st (exec c s)
  simp only [List.mem_cons, Prod.mk.injEq, List.not_mem_nil, or_false] at hmem
  rcases hmem with h | h | h | h | h | h | h
  all_goals obtain ⟨rfl, rfl, hst⟩ := h
  · exact storeEnds_sts hrun rfl hst.symm
  · exact storeEnds_sts hrun rfl hst.symm
  · exact storeEnds_sts hrun rfl hst.symm
  · exact storeEnds_stm hrun rfl hst.symm
  · exact storeEnds_stm hrun rfl hst.symm
  · exact storeEnds_stm hrun rfl hst.symm
  · exact storeEnds_ste hrun hst.symm

end Sys2Proof.Machine
end

section
/-! What a queue's own writes leave alone: they reach no further than module memory, the pages, the link and what an event moves. -/

namespace Sys2Proof.Machine

/-- Two states differ at most in module memory, the regions and pages, and what an event, an answer or a host access moves. -/
def Paged (s t : State) : Prop :=
  t = { s with
    mem := t.mem, rgn := t.rgn, log := t.log, hlt := t.hlt, zng := t.zng, hbr := t.hbr, mode := t.mode, out := t.out, freeCtr := t.freeCtr }

namespace Paged
variable {s t u : State}

theorem refl (s : State) : Paged s s := rfl

theorem trans (h : Paged s t) (k : Paged t u) : Paged s u := by
  unfold Paged at *
  rw [k, h]

/-- What comes after a plain update. -/
theorem after (k : Paged t u) (h : Paged s t) : Paged s u := h.trans k

theorem of_outward (h : Outward s t) : Paged s t := by
  unfold Paged
  rw [h]

theorem of_memAside (h : MemAside s t) : Paged s t := by
  unfold Paged
  rw [h]

/-- One thing after another, over a list. -/
theorem foldl {α : Type} {f : State → α → State} (h : ∀ s x, Paged s (f s x)) (l : List α) (s : State) : Paged s (l.foldl f s) := by
  induction l generalizing s with
  | nil => exact refl s
  | cons x r ih => exact (h s x).trans (ih _)

theorem lnc (h : Paged s t) : t.lnc = s.lnc := by rw [h]

end Paged

theorem paged_raise (c n : Nat) (fs : List (Nat × Nat)) (s : State) : Paged s (raise c n fs s) := .of_outward (outward_raise c n fs s)

theorem paged_hostRead (off len : Nat) (use : HostUse) (s : State) : Paged s (hostRead off len use s) :=
  .of_outward (outward_hostRead off len use s)

theorem paged_hostWrite (off : Nat) (data : List Byte) (use : HostUse) (s : State) : Paged s (hostWrite off data use s) :=
  .of_outward (outward_hostWrite off data use s)

theorem paged_refusePage (c a : Nat) (lock : Bool) (s : State) : Paged s (refusePage c a lock s) := by
  unfold refusePage
  exact (paged_raise _ _ _ _).after rfl

theorem paged_beginMigrations (s : State) : Paged s (beginMigrations s) := by
  refine .foldl (fun u x => ?_) _ s
  split
  · extract_lets off
    split_ifs
    · exact .refl u
    · exact .after (.of_memAside (memAside_poisonMem _ _ _)) (.after (t := hostLost off u) rfl (paged_raise _ _ _ u))
    · exact .refl u
    · exact (paged_hostRead _ _ _ _).after rfl
  · exact .refl u

theorem paged_startMigration (e p : Nat) (s : State) : Paged s (startMigration e p s) := by
  unfold startMigration
  exact (paged_beginMigrations _).after rfl

theorem paged_remoteTouch (p : Nat) (s : State) : Paged s (remoteTouch p s) := by
  unfold remoteTouch
  extract_lets t t' u
  refine .trans (t := u) rfl ?_
  split
  · split
    · exact paged_startMigration _ _ u
    · exact .refl u
  · exact .refl u

theorem paged_joinEntry (c p : Nat) (s : State) : Paged s (joinEntry c p s) := by
  unfold joinEntry
  split
  · exact .refl s
  · split
    · exact (paged_startMigration _ _ s).trans (paged_raise _ _ _ _)
    · exact .refl s

theorem paged_writeRun (use : HostUse) (c who a : Nat) (bs : List Byte) (s : State) : Paged s (writeRun use c who a bs s) := by
  unfold writeRun
  split
  · exact paged_hostWrite _ _ _ s
  · refine .foldl (fun u l => ?_) _ s
    extract_lets part hold
    have hheld (v : State) : Paged v (hold v) := rfl
    split
    · split
      · exact (paged_hostWrite _ _ _ u).trans (paged_remoteTouch _ _)
      · exact (paged_joinEntry _ _ u).trans (hheld _)
    · exact hheld u
    · exact hheld u
    · exact .of_memAside (memAside_writeMem _ _ _ u)

theorem paged_ownWrite (use : HostUse) (c who a : Nat) (bs : List Byte) (s : State) : Paged s (ownWrite use c who a bs s) := by
  unfold ownWrite
  split
  · exact .refl s
  · split
    · exact paged_refusePage _ _ _ s
    · exact paged_writeRun _ _ _ _ _ s

theorem paged_queueRecord (use : HostUse) (x : Queue) (who pos : Nat) (rec : List Byte) (s : State) :
    Paged s (queueRecord use x who pos rec s).1 := by
  unfold queueRecord
  dsimp only
  split
  · exact .refl s
  · exact paged_ownWrite _ _ _ _ _ s

/-- A launch that completes changes which queues there are, not which kernels run. -/
theorem completeLaunch_free (q pos islet : Nat) (rec : List Byte) (irq : Bool) (s : State) :
    (completeLaunch q pos islet rec irq s).lnc.free = s.lnc.free := by
  have hrecord := (paged_queueRecord (.launch q) (lncQ s q) (whoLane islet) pos rec s).lnc
  have hqueue (x : Queue) (v : State) : (setLncQ q x v).lnc.free = v.lnc.free := rfl
  unfold completeLaunch
  dsimp only
  split_ifs <;> simp [hqueue, hrecord]

end Sys2Proof.Machine
end

section
/-! Reductions and the ends of kernels (R168, R174, R188 to R190, R192, R197, R273). -/

namespace Sys2Proof.Machine

section
variable {w : LaneWho} {s : State} {k : LaneKernel} {th : LaneThread} {c : Instr}

/-! ### RED and BRK -/

theorem contributed_iff (reds : List (Nat × Word32)) (slot : Nat) :
    (reds.any fun r => r.1 == slot) = true ↔ ∃ v, (slot, v) ∈ reds := by
  simp

section
variable {f : FR} (hloop : k.loop.isSome = true) (hrun : laneRuns c w f.pg s k th) (hexec : exec c s = .next (laneRed w c f s))
include hloop hrun hexec

theorem exec_laneRed_first (hfirst : ∀ v, (f.rd.toNat % 4, v) ∉ th.reds) :
    exec c s = .next (movedTo w k (stepPc { th with reds := th.reds ++ [(f.rd.toNat % 4, getG th f.rs1.toNat)] }) s) :=
  exec_moves_inLoop hrun hexec hloop (if_neg (mt (contributed_iff _ _).1 (not_exists.2 hfirst)))

theorem exec_laneRed_twice (htwice : ∃ v, (f.rd.toNat % 4, v) ∈ th.reds) :
    exec c s = .next (movedTo w k { th with trap := some ⟨4, th.pc, 0⟩ } s) :=
  exec_moves_inLoop hrun hexec hloop (if_pos ((contributed_iff _ _).2 htwice))

end

/-- A trap in uniform code ends the kernel as it occurs (R193). -/
theorem settle_uniformTrap {k' : LaneKernel} {tr : LaneTrap} (hkernel : laneKernel s w.run = some k') (hloop : ¬ k.loop.isSome = true)
    (htrap : th.trap = some tr) : settle w k th s = endTrap w.run k eiUniform tr s := by
  simp only [settle, hkernel, if_neg hloop, htrap]

theorem exec_laneBrk {f : FU} (hrun : laneRuns (.laneBrk w f) w f.pg s k th) : exec (.laneBrk w f) s = .next (if k.loop.isSome
    then movedTo w k { th with trap := some ⟨8, th.pc, f.imm.toNat⟩ } s
    else endTrap w.run k eiUniform ⟨8, th.pc, f.imm.toNat⟩ s) := by
  by_cases hloop : k.loop.isSome = true
  · rw [if_pos hloop]
    exact exec_moves_inLoop hrun rfl hloop rfl
  · rw [if_neg hloop]
    exact congrArg _ ((laneGo_runs hrun).trans (settle_uniformTrap (laneRuns_kernel hrun) hloop rfl))

/-! ### HALT -/

/-- The kernel of a run that is gone stays gone. -/
theorem settle_gone (h : laneKernel s w.run = none) : settle w k th s = s := by simp only [settle, h]

theorem exec_laneHalt_step {l t : Nat} {f : FR} (hrun : laneRuns (.laneHalt ⟨.step l, t⟩ f) ⟨.step l, t⟩ f.pg s k th) :
    exec (.laneHalt ⟨.step l, t⟩ f) s = .next { s with
      lnc := { s.lnc with steps := assocDel l s.lnc.steps }, ttu := { s.ttu with ran := s.ttu.ran ++ [k.step] } } :=
  congrArg _ ((laneGo_runs hrun).trans (settle_gone (laneKernel_drop (.step l) s)))

section
variable {q t : Nat} {f : FR} (hrun : laneRuns (.laneHalt ⟨.queue q, t⟩ f) ⟨.queue q, t⟩ f.pg s k th)
include hrun

/-- A thread that halts stands at a word of the code. -/
theorem laneHalt_pc : goesOn k th.pc := by
  obtain ⟨⟨_, _, _, _, hcode⟩, _⟩ := hrun
  exact .inr (List.getElem?_eq_some_iff.1 (hcode.trans rfl)).1

theorem exec_laneHalt_waits (hwrites : kernelWrites s k = true) :
    exec (.laneHalt ⟨.queue q, t⟩ f) s = .next (movedTo ⟨.queue q, t⟩ k th s) :=
  exec_moves hrun rfl (if_pos hwrites) (laneRuns_trap hrun) (laneHalt_pc hrun)

theorem exec_laneHalt_queue (hwrites : kernelWrites s k = false) :
    exec (.laneHalt ⟨.queue q, t⟩ f) s = .next (completeLaunch q k.pos k.islet (laneRecord k.pos 0 0 0 0 0) k.irq
      { s with lnc := { s.lnc with free := assocDel q s.lnc.free } }) := by
  refine congrArg _ ((laneGo_runs hrun).trans ?_)
  simp only [hwrites, Bool.false_eq_true, if_false]
  refine settle_gone ?_
  exact (congrArg (assoc q) (completeLaunch_free _ _ _ _ _ _)).trans (laneKernel_drop (.queue q) s)

end

/-! ### LANE_LOAD_RETURN -/

section
variable (hkernel : laneKernel s w.run = some k) (hthread : threadAt k w.t = some th) (htrap : th.trap = none)
  (hgo : goesOn k (th.pc + 1)) (data : List Byte)
include hkernel hthread htrap hgo

theorem exec_laneLoadReturn_near (hwait : th.waiting = some .near) :
    exec (.laneLoadReturn w data false) s = .next (movedTo w k (stepPc { th with waiting := none }) s) := by
  show execLaneLoadReturn w data false s = _
  simp only [execLaneLoadReturn, hkernel, hthread, hwait]
  exact congrArg _ (settle_goes (Option.isSome_of_eq_some hkernel) htrap hgo)

theorem exec_laneLoadReturn_remote {rd n a : Nat} (hwait : th.waiting = some (.remoteReg rd n a none)) :
    exec (.laneLoadReturn w data false) s = .next (movedTo w k (stepPc (setG { th with waiting := none } rd
      (wordOf (overStores th.stores (.phys a) (padTo n data))))) s) := by
  show execLaneLoadReturn w data false s = _
  simp only [execLaneLoadReturn, hkernel, hthread, hwait, Bool.false_eq_true, if_false]
  exact congrArg _ (settle_goes (Option.isSome_of_eq_some hkernel) (by simpa [stepPc] using htrap) (by simpa [stepPc] using hgo))

end

end

/-- Settles O7: each form by its own law; the kernel of a HALT is gone before its thread would move on. -/
theorem laneReductionsAndEnds : Obligations.LaneReductionsAndEnds := by
  unfold Obligations.LaneReductionsAndEnds
  refine ⟨fun w f s k th => ⟨fun c hc hrun hloop => ?red, fun hrun hgo => ?getred⟩, fun w f r s k th => ⟨exec_laneBrk, ?step, ?queue,
    fun data rd n a hkernel hthread htrap hgo => ⟨exec_laneLoadReturn_near hkernel hthread htrap hgo data,
      exec_laneLoadReturn_remote hkernel hthread htrap hgo data⟩⟩⟩
  case red =>
    have hred (hexec : exec c s = .next (laneRed w c f s)) := And.intro (exec_laneRed_first hloop hrun hexec)
      (exec_laneRed_twice hloop hrun hexec)
    simp only [List.mem_cons, List.not_mem_nil, or_false] at hc
    rcases hc with rfl | rfl | rfl | rfl | rfl | rfl | rfl | rfl | rfl
    all_goals exact hred rfl
  case getred => exact exec_moves hrun rfl rfl (by simpa [stepPc] using laneRuns_trap hrun) (by simpa [stepPc] using hgo)
  case step =>
    obtain ⟨run, t⟩ := w
    rintro l rfl hrun
    exact exec_laneHalt_step hrun
  case queue =>
    obtain ⟨run, t⟩ := w
    rintro q rfl hrun
    exact ⟨exec_laneHalt_waits hrun, exec_laneHalt_queue hrun⟩

end Sys2Proof.Machine
end

section
/-! Element loops and passes (R170 to R174). -/

namespace Sys2Proof.Machine

/-! ### Association lists -/

theorem assoc_assocPut {α : Type} (t u : Nat) (v : α) (l : List (Nat × α)) :
    assoc t (assocPut u v l) = if t = u then some v else assoc t l := by
  rw [assocPut, assoc, assoc_del]
  by_cases h : t = u
  · rw [if_pos h.symm, if_pos h]
  · rw [if_neg (Ne.symm h)]
    simp only [if_neg h]

theorem assoc_assocDel {α : Type} (t u : Nat) (l : List (Nat × α)) : assoc t (assocDel u l) = if t = u then none else assoc t l :=
  assoc_del t u l

/-- The iterations of a pass start with the registers of SETVL, up to VL (R171, R172). -/
theorem assoc_passThreads (t : Nat) (k : LaneKernel) (start pass : Nat) : assoc t (passThreads k start pass) =
    if t < min 256 (k.vl - 256 * pass) then some { g := k.uni.g, p := k.uni.p, pc := start + 1, ei := 256 * pass + t } else none := by
  simp only [passThreads, assoc_map, List.mem_range]

/-! ### SETVL and ENDVL -/

/-- The kernel as SETVL leaves it before its loop opens: VL, the registers that iterations start with, and the slots cleared. -/
def setvlKernel (k : LaneKernel) (th : LaneThread) (vl : Nat) : LaneKernel :=
  { k with vl := vl, uni := th, slots := clearSlots { k with vl := vl, uni := th } th.pc }

/-- The first pass of the loop that SETVL opens. -/
def firstPass (k : LaneKernel) (th : LaneThread) (vl t : Nat) : LaneLoop :=
  { start := th.pc, pass := 0
    threads := assocPut t { g := th.g, p := th.p, pc := th.pc + 1, ei := 0 } (assocDel t (passThreads (setvlKernel k th vl) th.pc 0)) }

theorem assoc_firstPass {k : LaneKernel} {th : LaneThread} {vl : Nat} (hvl : vl ≠ 0) (t : Nat) :
    assoc t (firstPass k th vl 0).threads =
      if t < min 256 vl then some { g := th.g, p := th.p, pc := th.pc + 1, ei := t } else none := by
  rw [firstPass, assoc_assocPut, assoc_assocDel, assoc_passThreads]
  by_cases ht : t = 0
  · subst ht
    rw [if_pos rfl, if_pos (by omega)]
  · simp only [if_neg ht, Nat.mul_zero, Nat.sub_zero, Nat.zero_add, setvlKernel]

section
variable {w : LaneWho} {s : State} {k : LaneKernel} {th : LaneThread} {f : FI}

theorem exec_laneSetvl_waits (hrun : laneRuns (.laneSetvl w f) w f.pg s k th) (hqueue : k.queue = true)
    (hwrites : kernelWrites s k = true) (hgo : goesOn k th.pc) : exec (.laneSetvl w f) s = .next (movedTo w k th s) :=
  exec_moves hrun rfl (if_pos (by rw [hqueue, hwrites, Bool.and_self])) (laneRuns_trap hrun) hgo

/-- Uniform code runs as thread 0 (R170). -/
theorem uniform_thread {t : Nat} (hloop : k.loop = none) (hthread : threadAt k t = some th) : t = 0 := by
  simp only [threadAt, hloop] at hthread
  exact (Option.ite_none_right_eq_some.1 hthread).1

section
variable (hrun : laneRuns (.laneSetvl w f) w f.pg s k th) (hvisible : k.queue = true → kernelWrites s k = false) (hloop : k.loop = none)
include hrun hvisible

theorem exec_laneSetvl_visible : exec (.laneSetvl w f) s =
    .next (if (getG th f.rs1.toNat).toNat = 0 then
      settle w (setvlKernel k th (getG th f.rs1.toNat).toNat) { th with pc := loopEnd k.code th.pc + 1 } s
    else setKernel w.run { setvlKernel k th (getG th f.rs1.toNat).toNat with
      loop := some (firstPass k th (getG th f.rs1.toNat).toNat w.t) } s) := by
  have hgoes : ¬ (k.queue && kernelWrites s k) = true := by
    rw [Bool.and_eq_true]
    rintro ⟨hqueue, hwrites⟩
    exact absurd (hwrites.symm.trans (hvisible hqueue)) nofun
  refine congrArg _ ((laneGo_runs hrun).trans ?_)
  simp only [if_neg hgoes]
  split
  · rfl
  · simp only [settle, laneRuns_kernel hrun]
    rfl

include hloop

theorem exec_laneSetvl_opens (hvl : getG th f.rs1.toNat ≠ 0) : ∃ k' lp, exec (.laneSetvl w f) s = .next (setKernel w.run k' s)
    ∧ k'.loop = some lp ∧ k'.vl = (getG th f.rs1.toNat).toNat ∧ k'.code = k.code ∧ k'.ranges = k.ranges ∧ k'.ods = k.ods
    ∧ lp.start = th.pc ∧ lp.pass = 0
    ∧ ∀ t, assoc t lp.threads = if t < min 256 k'.vl then some { g := th.g, p := th.p, pc := th.pc + 1, ei := t } else none := by
  have hsome : (getG th f.rs1.toNat).toNat ≠ 0 := fun h => hvl (BitVec.eq_of_toNat_eq h)
  have hexec := exec_laneSetvl_visible hrun hvisible
  rw [if_neg hsome, uniform_thread hloop (laneRuns_thread hrun)] at hexec
  exact ⟨_, _, hexec, rfl, rfl, rfl, rfl, rfl, rfl, rfl, assoc_firstPass hsome⟩

theorem exec_laneSetvl_skips (hvl : getG th f.rs1.toNat = 0) (hgo : goesOn k (loopEnd k.code th.pc + 1)) :
    ∃ k', exec (.laneSetvl w f) s = .next (setKernel w.run k' s) ∧ k'.loop = none ∧ k'.vl = 0
      ∧ k'.uni = { th with pc := loopEnd k.code th.pc + 1 } := by
  have hnone : (getG th f.rs1.toNat).toNat = 0 := congrArg BitVec.toNat hvl
  have htrap := laneRuns_trap hrun
  have hexec := exec_laneSetvl_visible hrun hvisible
  rw [if_pos hnone, settle_goes (k := setvlKernel k th _) (th := { th with pc := loopEnd k.code th.pc + 1 })
    (laneRuns_isSome hrun) htrap hgo] at hexec
  refine ⟨_, hexec, ?_⟩
  simp only [setThread, setvlKernel, hloop, hnone, and_self]

end

end

/-! ### PASS_COMMIT -/

/-- The iterations of a pass, by element (R172). -/
def passIterations (lp : LaneLoop) : List LaneThread := (List.range 256).filterMap fun t => assoc t lp.threads

/-- The stores of a pass in the order in which they take effect, each with its element (R173). -/
def passStores (ths : List LaneThread) : List (Nat × LaneStore) := ths.flatMap fun th => th.stores.map fun st => (th.ei, st)

theorem passStores_snd (ths : List LaneThread) : (passStores ths).map Prod.snd = ths.flatMap (·.stores) := by
  simp [passStores, List.map_flatMap, Function.comp_def]

theorem foldl_passStores (k : LaneKernel) (ths : List LaneThread) (s : State) :
    (passStores ths).foldl (fun s p => commitStore k s p.2) s = (ths.flatMap (·.stores)).foldl (commitStore k) s := by
  rw [← passStores_snd, List.foldl_map]

section
variable {run : LaneRun} {s : State} {k : LaneKernel} {lp : LaneLoop}

/-- What PASS_COMMIT looks for among the stores of a pass, none of which finds anything in its way. -/
theorem passStores_served {ths : List LaneThread} (hserved : ∀ st ∈ ths.flatMap (·.stores), storeVerdict s k st = .served)
    {bad : PageVerdict → Bool} (hbad : bad .served = false) : ∀ p ∈ passStores ths, ¬ bad (storeVerdict s k p.2) = true := by
  intro p hp
  rw [hserved p.2 (passStores_snd ths ▸ List.mem_map_of_mem hp), hbad]
  exact Bool.false_ne_true

theorem passTrap_none (h : ∀ x ∈ passIterations lp, x.done = true ∧ x.trap = none) : passTrap lp = none := by
  have hended : (passIterations lp).dropWhile (fun th => th.done && th.trap.isNone) = [] := by
    rw [List.dropWhile_eq_nil_iff]
    intro x hx
    obtain ⟨hdone, htrap⟩ := h x hx
    rw [hdone, htrap]
    rfl
  rw [passIterations] at hended
  simp only [passTrap, hended]

/-- A pass whose iterations have ended without a trap and whose stores all find their page takes them to memory and goes on. -/
theorem passCommit_served (hkernel : laneKernel s run = some k) (hloop : k.loop = some lp) (hactive : (isletOf s k.islet).state = .active)
    (hended : ∀ x ∈ passIterations lp, x.done = true ∧ x.trap = none)
    (hserved : ∀ st ∈ (passIterations lp).flatMap (·.stores), storeVerdict s k st = .served)
    (hstays : (laneKernel (((passIterations lp).flatMap (·.stores)).foldl (commitStore k) s) run).isSome = true)
    (hgo : goesOn (nextPass k lp) (nextPass k lp).uni.pc) :
    passCommit run s = setKernel run (nextPass k lp) (((passIterations lp).flatMap (·.stores)).foldl (commitStore k) s) := by
  have hdone : ((passIterations lp).all fun th => th.done) = true := List.all_eq_true.2 fun x hx => (hended x hx).1
  have hrefused := List.find?_eq_none.2 (passStores_served hserved (bad := fun v => v == .denied || v == .locked) rfl)
  have habsent := List.filter_eq_nil_iff.2 (passStores_served hserved (bad := fun v => v == .absent) rfl)
  have hheld := List.any_eq_false.2 (passStores_served hserved (bad := fun v => v == .held) rfl)
  have hcode : ¬ ((nextPass k lp).loop.isNone && (nextPass k lp).code.length ≤ (nextPass k lp).uni.pc) = true := by
    rw [Bool.and_eq_true, decide_eq_true_eq, Option.isNone_iff_eq_none]
    rintro ⟨hclosed, hpast⟩
    exact hgo.elim (fun hopen => absurd hopen (by rw [hclosed]; exact Bool.false_ne_true)) (Nat.not_lt.2 hpast)
  obtain ⟨k', hstays⟩ := Option.isSome_iff_exists.1 hstays
  rw [← foldl_passStores] at hstays ⊢
  unfold passStores passIterations at *
  simp only [passCommit, hkernel, hloop, hactive, bne_self_eq_false, Bool.false_eq_true, if_false, passTrap_none hended, hdone,
    Bool.not_true, hrefused, habsent, List.map_nil, hheld, hstays, if_neg hcode]

end

/-- Settles O8: SETVL waits, opens its loop or skips it; ENDVL ends its iteration; a pass with nothing in its way commits. -/
theorem laneLoops : Obligations.LaneLoops := by
  unfold Obligations.LaneLoops
  intro w f r s k th
  exact ⟨exec_laneSetvl_waits, exec_laneSetvl_opens, exec_laneSetvl_skips, fun hrun hloop => exec_moves_inLoop hrun rfl hloop rfl,
    fun lp run hkernel hloop hactive hended hserved hstays hgo =>
      congrArg _ (passCommit_served hkernel hloop hactive hended hserved hstays hgo)⟩

end Sys2Proof.Machine
end

section
/-! Cursors and ship targets (R207, R212): the two paths of a cursor are one table entry; a shipment by its target. -/

namespace Sys2Proof.Machine

/-! ### Cursors (R207) -/

/-- STATUS of a cursor of the active slot with this tag (Table 7.10). -/
def cursorStatus (s : State) (tag : Nat) : Nat :=
  if s.ttu.func ≠ .running then 3
  else if 2 ^ 40 ≤ tag ∨ (∃ c ∈ (actSlot s).cursors, tag ≤ c.tag) then 1
  else if 16 ≤ (actSlot s).cursors.length then 2 else 0

/-- The table and STATUS once a cursor has been posted, or refused. -/
def cursorPosted (tag : Nat) (data : List Byte) (s : State) : State :=
  let u := { s with ttu := { s.ttu with postStatus := BitVec.ofNat 2 (cursorStatus s tag) } }
  if cursorStatus s tag = 0 then
    setSlot s.ttu.active { actSlot s with cursors := (actSlot s).cursors ++ [⟨tag, data⟩] } u
  else u

theorem postCursor_eq (tag : Nat) (data : List Byte) (s : State) :
    postCursor tag data s = (cursorPosted tag data s, cursorStatus s tag) := by
  have hascends : ((actSlot s).cursors.any fun c => decide (tag ≤ c.tag)) = true ↔ ∃ c ∈ (actSlot s).cursors, tag ≤ c.tag := by
    simp only [List.any_eq_true, decide_eq_true_eq]
  unfold postCursor cursorPosted cursorStatus
  simp only [hascends]

/-- TTU_CURSOR_POST posts TTU_CURSOR_DATA under its tag. -/
theorem exec_ttuCursorPost (tag : BitVec 40) (s : State) :
    exec (.ttuCursorPost tag) s =
      .next (cursorPosted tag.toNat (s.ttu.cursorData.flatMap fun w => toLE 8 w.toNat) s) := by
  show execTtuCursorPost tag s = _
  rw [execTtuCursorPost, postCursor_eq]

section
variable {m : Nat} {s u : State} {x : Mailbox}

/-- A request that has passed its checks has moved the mailboxes alone. -/
theorem entered_hbr {op : Nat} (h : Entered op m s x u) : ∃ hbr, u = { s with hbr := hbr } := by
  obtain ⟨_, _, _, h⟩ := h
  rcases h with ⟨_, _, _, _, _, rfl⟩ | ⟨_, _, _, _, rfl⟩
  · exact ⟨_, rfl⟩
  · exact ⟨_, rfl⟩

/-- TT_CURSOR, taken: OK, with the cursor's STATUS in RES0. -/
theorem exec_ttCursor_entered (h : Entered 0x23 m s x u) :
    exec (.ttCursor m) s =
      .next (complete m stOk [cursorStatus u (mbArg x 0)] [] (cursorPosted (mbArg x 0) (mbPayload x) u)) := by
  refine next_mbCommand h ?_
  dsimp only
  rw [postCursor_eq]

/-! ### Ship targets (R212) -/

/-- A target in place of the earlier one of its region of the active slot. -/
def targetSet (r base bytes : Nat) (s : State) : State :=
  { s with ttu := { s.ttu with
    targets := s.ttu.targets.filter (fun t => t.slot != s.ttu.active || t.region != r) ++ [⟨s.ttu.active, r, base, bytes⟩] } }

/-- TT_SHIP_TARGET of a region of the active image, taken: by the region's kind and the context's host regions. -/
theorem exec_ttShipTarget_entered {i : Image} {e : RegionEnt} (h : Entered 0x24 m s x u) (himage : (actSlot u).image = some i)
    (hregion : i.regions[mbArg x 0]? = some e) :
    exec (.ttShipTarget m) s = .next (
      if e.kind ≠ 3 then finish m stBadArg u
      else if hostHeld u (actSlot u).context (mbArg x 1) (mbArg x 2) then
        finish m stOk (targetSet (mbArg x 0) (mbArg x 1) (mbArg x 2) u)
      else finish m stDenied u) := by
  refine next_mbCommand h ?_
  cases hheld : hostHeld u (actSlot u).context (mbArg x 1) (mbArg x 2) <;>
    simp only [himage, Option.bind_some, hregion, hheld, targetSet, Bool.not_false, Bool.not_true, Bool.false_eq_true, if_true,
      if_false]

end

/-! ### Shipments (R212) -/

/-- A shipment that goes on changes no more of the unit than its own progress. -/
theorem advanceShip_ttu (s : State) :
    ∃ shipping seq err, (advanceShip s).ttu = { s.ttu with shipping := shipping, shipSeq := seq, shipErr := err } := by
  unfold advanceShip
  split
  · exact ⟨_, _, _, rfl⟩
  next sh _ =>
    split
    · exact ⟨none, _, true, raise_ttu _ _ _ _⟩
    · split_ifs
      · exact ⟨_, _, _, rfl⟩
      · exact ⟨none, _, _, (eventIrq_ttu _ _ _).trans (raise_ttu _ _ _ _)⟩
      · have hread := readMem_ttu whoSnap sh.snap.stage sh.snap.manifest s
        generalize readMem whoSnap sh.snap.stage sh.snap.manifest s = r at hread ⊢
        refine ⟨some { sh with manifest := true }, s.ttu.shipSeq, s.ttu.shipErr, (outward_hostWrite _ _ _ _).ttu.trans ?_⟩
        rw [hread]

section
variable {s : State} {c : Snapshot} {rest : List Snapshot}

/-- The oldest released snapshot is taken up to ship. -/
def shipTaken (c : Snapshot) (rest : List Snapshot) (s : State) : State :=
  { s with ttu := { s.ttu with released := rest, shipRegion := BitVec.ofNat 8 c.region } }

/-- The data of a snapshot go to its target, at their own offset (R212). -/
def shipSends (c : Snapshot) (t : ShipTarget) (r : State × List Byte × Bool) : State :=
  advanceShip (hostWrite (t.base + c.dataOff) r.2.1 (.ship false)
    { r.1 with ttu := { r.1.ttu with shipping := some { snap := c, target := some (t.base, t.bytes), manifest := false } } })

theorem shipSends_ttu (c : Snapshot) (t : ShipTarget) (r : State × List Byte × Bool) :
    (shipSends c t r).ttu.released = r.1.ttu.released ∧ (shipSends c t r).ttu.shipRegion = r.1.ttu.shipRegion := by
  unfold shipSends
  obtain ⟨shipping, seq, err, hship⟩ := advanceShip_ttu (hostWrite (t.base + c.dataOff) r.2.1 (.ship false)
    { r.1 with ttu := { r.1.ttu with shipping := some { snap := c, target := some (t.base, t.bytes), manifest := false } } })
  rw [hship, (outward_hostWrite _ _ _ _).ttu]
  exact ⟨rfl, rfl⟩

variable (hidle : s.ttu.shipping = none) (hreleased : s.ttu.released = c :: rest)
include hidle hreleased

/-- SHIPMENT_START of a released snapshot, by its target. -/
theorem exec_shipmentStart_released : exec .shipmentStart s = .next (
    (shipTarget s c.slot c.region).elim (shipFails (shipTaken c rest s)) fun t =>
      if t.bytes < c.total then shipFails (shipTaken c rest s)
      else shipSends c t (readMem whoSnap (c.stage + c.dataOff) (c.total - c.dataOff) (shipTaken c rest s))) := by
  show execShipmentStart s = _
  unfold execShipmentStart
  rw [hidle, hreleased]
  have htaken : shipTarget (shipTaken c rest s) c.slot c.region = shipTarget s c.slot c.region := rfl
  rw [shipTaken] at htaken
  dsimp only
  rw [htaken]
  cases shipTarget s c.slot c.region with
  | none => rfl
  | some t => exact (apply_ite Host.Outcome.next _ _ _).symm

theorem exec_shipmentStart_ships {t : ShipTarget} (htarget : shipTarget s c.slot c.region = some t) (hfits : c.total ≤ t.bytes) :
    exec .shipmentStart s =
      .next (shipSends c t (readMem whoSnap (c.stage + c.dataOff) (c.total - c.dataOff) (shipTaken c rest s))) := by
  rw [exec_shipmentStart_released hidle hreleased, htarget]
  exact congrArg _ (if_neg hfits.not_gt)

theorem exec_shipmentStart_fails (hshort : ∀ t, shipTarget s c.slot c.region = some t → t.bytes < c.total) :
    exec .shipmentStart s = .next (shipFails (shipTaken c rest s)) := by
  rw [exec_shipmentStart_released hidle hreleased]
  cases htarget : shipTarget s c.slot c.region with
  | none => rfl
  | some t => exact congrArg _ (if_pos (hshort t htarget))

end

/-- Settles O18: a cursor by its STATUS on either path, a target by its region's kind, a shipment by whether its target holds it. -/
theorem cursorsAndShipments : Obligations.CursorsAndShipments := by
  unfold Obligations.CursorsAndShipments
  refine ⟨fun s => ⟨fun tag => exec_ttuCursorPost tag s, fun m x u h => ?cursor⟩,
    fun s => ⟨fun m x u i e h himage hregion => exec_ttShipTarget_entered h himage hregion,
      fun c rest hidle hreleased => ⟨fun t htarget hfits => ?ships, exec_shipmentStart_fails hidle hreleased⟩⟩⟩
  case cursor =>
    rw [exec_ttCursor_entered h]
    obtain ⟨hbr, rfl⟩ := entered_hbr h
    rfl
  case ships =>
    have hexec := exec_shipmentStart_ships hidle hreleased htarget hfits
    obtain ⟨hrest, hregion⟩ :=
      shipSends_ttu c t (readMem whoSnap (c.stage + c.dataOff) (c.total - c.dataOff) (shipTaken c rest s))
    rw [readMem_ttu] at hrest hregion
    refine ⟨⟨_, hexec, hrest, hregion⟩, fun v data q hread => ?_⟩
    exact hexec.trans (congrArg (fun r => Host.Outcome.next (shipSends c t r)) hread)

end Sys2Proof.Machine
end

section
/-! The registration of host regions, placement handles, window queues and margin scans (R242, R338, R358, R369): what each command
does once it is taken. -/

namespace Sys2Proof.Machine

section
variable {m : Nat} {s u : State} {x : Mailbox}

/-! ### Host regions -/

/-- The indices under which no host region is registered. -/
def freeHosts (s : State) : List Nat := (List.range 64).filter fun k => (look none s.zng.hosts k).isNone

theorem mem_freeHosts {k : Nat} : k ∈ freeHosts s ↔ k < 64 ∧ look none s.zng.hosts k = none := by
  simp [freeHosts]

/-- A run of the host window is registered under an index that a free value named. -/
def hostRegistered (m : Nat) (x : Mailbox) (k : Nat) (s : State) : State :=
  complete m stOk [k] [] { drawn s with zng := { s.zng with hosts := put none k (some (mbArg x 0, mbArg x 1)) s.zng.hosts } }

/-- The host regions that the request's run overlaps. -/
def hostOverlap (x : Mailbox) (s : State) : Bool := (hostRegions s).any fun h => overlaps (mbArg x 0) (mbArg x 1) h.1 h.2

theorem exec_hostRegister_entered (h : Entered 0x49 m s x u) :
    exec (.hostRegister m) s = .next (
      if hostOverlap x u = true then finish m stBadArg u
      else (pickFree u (freeHosts u)).elim (finish m stNoResource u) fun k => hostRegistered m x k u) := by
  refine next_mbCommand h (ite_congr rfl (fun _ => rfl) fun _ => ?_)
  rw [← freeHosts]
  cases pickFree u (freeHosts u) <;> rfl

theorem exec_hostRegister_free (h : Entered 0x49 m s x u) (hclear : hostOverlap x u = false)
    (hfree : ∃ k < 64, look none u.zng.hosts k = none) :
    ∃ k < 64, look none u.zng.hosts k = none ∧ exec (.hostRegister m) s = .next (hostRegistered m x k u) := by
  obtain ⟨j, hj⟩ := hfree
  obtain ⟨k, hk, hpick⟩ := pickFree_some u (freeHosts u) (List.ne_nil_of_mem (mem_freeHosts.2 hj))
  obtain ⟨hlt, hnone⟩ := mem_freeHosts.1 hk
  refine ⟨k, hlt, hnone, ?_⟩
  rw [exec_hostRegister_entered h, hclear, hpick]
  rfl

theorem exec_hostRegister_full (h : Entered 0x49 m s x u) (hclear : hostOverlap x u = false)
    (hfull : ∀ k < 64, look none u.zng.hosts k ≠ none) : exec (.hostRegister m) s = .next (finish m stNoResource u) := by
  have hnone : freeHosts u = [] := List.eq_nil_iff_forall_not_mem.2 fun k hk => hfull k (mem_freeHosts.1 hk).1 (mem_freeHosts.1 hk).2
  rw [exec_hostRegister_entered h, hclear, hnone]
  rfl

theorem exec_hostRelease_entered {r : Nat × Nat} (h : Entered 0x4A m s x u) (hreg : look none u.zng.hosts (mbArg x 0) = some r) :
    exec (.hostRelease m) s = .next (if hostUsed u r.1 r.2 then finish m stState u
      else finish m stOk { u with zng := { u.zng with hosts := put none (mbArg x 0) none u.zng.hosts } }) := by
  refine next_mbCommand h ?_
  simp only [hreg]

/-! ### Placement handles -/

/-- The handle that PLACE_REGISTER gives: the one that ARG2 asks for, or the lowest that is free. -/
def handleFor (x : Mailbox) (s : State) : Option Nat :=
  if (mbArg x 2).testBit 16 then (if (placed s (mbArg x 2 % 4096)).isNone then some (mbArg x 2 % 4096) else none)
  else lowestFree 4096 s.zng.handles

/-- A PLACE region of the context is registered under a handle. -/
def placeRegistered (m : Nat) (x : Mailbox) (r : RegionD) (h : Nat) (s : State) : State :=
  complete m stOk [h] [] { s with zng := { s.zng with handles := put none h (some ⟨mbArg x 0, r.base, r.bytes⟩) s.zng.handles } }

theorem exec_placeRegister_entered {r : RegionD} (h : Entered 0x4B m s x u) (hregion : regionAt u (mbArg x 0) (mbArg x 1) = some r) :
    exec (.placeRegister m) s = .next (
      if r.flags.testBit 2 = false then finish m stBadArg u
      else (handleFor x u).elim (finish m stNoResource u) fun k => placeRegistered m x r k u) := by
  refine next_mbCommand h ?_
  simp only [hregion]
  rw [← handleFor]
  cases r.flags.testBit 2
  · rfl
  · cases handleFor x u <;> rfl

theorem handleFor_asked (hask : (mbArg x 2).testBit 16 = true) (hnone : look none u.zng.handles (mbArg x 2 % 4096) = none) :
    handleFor x u = some (mbArg x 2 % 4096) := by
  simp [handleFor, hask, placed, hnone]

theorem handleFor_taken (hask : (mbArg x 2).testBit 16 = true) (hsome : look none u.zng.handles (mbArg x 2 % 4096) ≠ none) :
    handleFor x u = none := by
  simp [handleFor, hask, placed, hsome]

theorem handleFor_lowest {k : Nat} (hany : (mbArg x 2).testBit 16 = false) (hk : k < 4096) (hnone : look none u.zng.handles k = none)
    (hbelow : ∀ j < k, look none u.zng.handles j ≠ none) : handleFor x u = some k := by
  rw [handleFor, hany, if_neg Bool.false_ne_true, lowestFree]
  exact find_least _ 4096 k hk (by simp [hnone]) fun j hj => by simpa [Option.isSome_iff_ne_none] using hbelow j hj

theorem exec_placeRelease_entered (h : Entered 0x4C m s x u) :
    exec (.placeRelease m) s = .next (if look none u.zng.handles (mbArg x 0) = none then finish m stBadArg u
      else startFlush (.release m (mbArg x 0)) (await m (.release (mbArg x 0)) u)) := by
  refine next_mbCommand h ?_
  simp only [placed, Option.isNone_iff_eq_none]

/-! ### Window queues and margin scans -/

/-- The window queue that QUEUE_CONFIG names. -/
def namedQueue (x : Mailbox) (s : State) : WinQ := winQ s (bits (mbArg x 0) 2 0) (bits (mbArg x 0) 10 8)

/-- The ring that QUEUE_CONFIG names lies in a host region. -/
def ringRegistered (x : Mailbox) (s : State) : Bool :=
  inHostRegion s (hostBase + mbArg x 2) (queueRing (bits (mbArg x 0) 10 8))

/-- The window queue that QUEUE_CONFIG names, bound to its ring. -/
def queueBound (x : Mailbox) (s : State) : State :=
  setWinQ (bits (mbArg x 0) 2 0) (bits (mbArg x 0) 10 8) (if bits (mbArg x 0) 10 8 = 0
    then { namedQueue x s with ring := mbArg x 2 }
    else { namedQueue x s with configured := true, context := mbArg x 1, ring := mbArg x 2 }) s

theorem exec_queueConfig_entered (h : Entered 0x4D m s x u) :
    exec (.queueConfig m) s = .next (
      if ringRegistered x u = false then finish m stBadArg u
      else if (namedQueue x u).head ≠ (namedQueue x u).tail then finish m stBusy u
      else finish m stOk (queueBound x u)) := by
  refine next_mbCommand h (ite_congr rfl (fun _ => rfl) fun _ => ite_congr rfl (fun _ => rfl) fun _ => ?_)
  unfold queueBound
  dsimp only
  split <;> rfl

theorem exec_queueConfig_unregistered (h : Entered 0x4D m s x u) (hout : ringRegistered x u = false) :
    exec (.queueConfig m) s = .next (finish m stBadArg u) := by
  rw [exec_queueConfig_entered h, if_pos hout]

theorem exec_queueConfig_busy (h : Entered 0x4D m s x u) (hin : ringRegistered x u = true)
    (hbusy : (namedQueue x u).head ≠ (namedQueue x u).tail) : exec (.queueConfig m) s = .next (finish m stBusy u) := by
  rw [exec_queueConfig_entered h, if_neg (by simp [hin]), if_pos hbusy]

theorem exec_queueConfig_idle (h : Entered 0x4D m s x u) (hin : ringRegistered x u = true)
    (hidle : (namedQueue x u).head = (namedQueue x u).tail) :
    exec (.queueConfig m) s = .next (finish m stOk (queueBound x u)) := by
  rw [exec_queueConfig_entered h, if_neg (by simp [hin]), if_neg (not_not_intro hidle)]

theorem exec_margin_entered (h : Entered 0x50 m s x u) :
    exec (.margin m) s = .next (
      if u.mode ≠ .train ∧ spareTaken u (mbArg x 0) (mbArg x 1) = true then finish m stNoResource u
      else
        let v := await m .margin u
        nextScan { v with mem := { v.mem with scans := u.mem.scans ++ [⟨mbArg x 0, mbArg x 2, mbArg x 1, m⟩] } }) :=
  next_mbCommand h rfl

end

/-- Settles O39: each command's effect once it is taken, by what is registered already. -/
theorem registrationCommands : Obligations.RegistrationCommands := by
  unfold Obligations.RegistrationCommands
  intro m x s u
  refine ⟨fun h => ?hostRegister, fun h r hreg => exec_hostRelease_entered h hreg, fun h r hregion => ?placeRegister,
    fun h => ?placeRelease, fun h => ?queueConfig, fun h => ?margin⟩
  case hostRegister =>
    refine ⟨fun hover => ?_, fun hclear => ?_⟩
    · rw [exec_hostRegister_entered h, if_pos (show hostOverlap x u = true from List.any_eq_true.2 hover)]
    · have hclear : hostOverlap x u = false := List.any_eq_false.2 fun r hr => by simpa using hclear r hr
      exact ⟨exec_hostRegister_free h hclear, exec_hostRegister_full h hclear⟩
  case placeRegister =>
    rw [exec_placeRegister_entered h hregion]
    refine ⟨fun hplain => if_pos hplain ▸ rfl, fun k hplace hnone hk hwhich => ?_, fun hplace hask hsome => ?_⟩
    · have hhandle : handleFor x u = some k := by
        rcases hwhich with ⟨hask, rfl⟩ | ⟨hany, hbelow⟩
        · exact handleFor_asked hask hnone
        · exact handleFor_lowest hany hk hnone hbelow
      rw [hplace, hhandle]
      rfl
    · rw [hplace, handleFor_taken hask hsome]
      rfl
  case placeRelease =>
    rw [exec_placeRelease_entered h]
    exact ⟨fun hnone => if_pos hnone ▸ rfl, fun hsome => if_neg hsome ▸ rfl⟩
  case queueConfig =>
    refine ⟨exec_queueConfig_unregistered h, exec_queueConfig_busy h, fun hq hin hidle => ?_, fun hq hin hidle => ?_⟩
    · refine (exec_queueConfig_idle h hin hidle).trans ?_
      rw [queueBound, if_pos hq]
      rfl
    · refine (exec_queueConfig_idle h hin hidle).trans ?_
      rw [queueBound, if_neg hq]
      rfl
  case margin =>
    refine ⟨fun hmode htaken => (exec_margin_entered h).trans (congrArg _ (if_pos ⟨hmode, htaken⟩)), fun hfree => ?_⟩
    refine (exec_margin_entered h).trans (congrArg _ (if_neg ?_))
    rintro ⟨hmode, htaken⟩
    rcases hfree with htrain | hspare
    · exact hmode htrain
    · exact Bool.false_ne_true (hspare ▸ htaken)

end Sys2Proof.Machine
end

section
/-! Byte memories and lines of module memory (R226, R233, R235): a run read within a longer one, a run written back as it was read, the
one block and the one channel of a line, and the read of a clean block. -/

namespace Sys2Proof.Machine

/-! ### Runs of a byte memory -/

theorem expand_length (n a : Nat) (m : SMap Byte) : (expand n a m).length = n := by
  induction n generalizing a m with
  | zero => rfl
  | succ n ih =>
    cases m with
    | nil => simp [expand, ih]
    | cons p r => unfold expand; split <;> simp [ih]

@[simp] theorem getBytes_length (m : SMap Byte) (a n : Nat) : (getBytes m a n).length = n := expand_length _ _ _

theorem expand_take {k n : Nat} (hk : k ≤ n) (a : Nat) (m : SMap Byte) : (expand n a m).take k = expand k a m := by
  induction k generalizing n a m with
  | zero => rfl
  | succ k ih =>
    obtain ⟨n, rfl⟩ : ∃ j, n = j + 1 := ⟨n - 1, by omega⟩
    cases m with
    | nil => simp [expand, ih (Nat.le_of_succ_le_succ hk)]
    | cons p r => unfold expand; split <;> simp [ih (Nat.le_of_succ_le_succ hk)]

/-- A memory whose addresses strictly rise from `a` on. -/
def RisesFrom (a : Nat) (m : SMap Byte) : Prop := m.Pairwise (fun p q => p.1 < q.1) ∧ ∀ p ∈ m, a ≤ p.1

theorem risesFrom_filter {m : SMap Byte} (hm : Memory.wf m = true) (a : Nat) : RisesFrom a (m.filter fun p => decide (a ≤ p.1)) :=
  ⟨((memWf_iff m).1 hm).2.filter _, fun p hp => by simpa using (List.mem_filter.1 hp).2⟩

theorem risesFrom_tail {a i : Nat} {b : Byte} {r : SMap Byte} (h : RisesFrom a ((i, b) :: r)) : RisesFrom (i + 1) r :=
  ⟨(List.pairwise_cons.1 h.1).2, fun p hp => (List.pairwise_cons.1 h.1).1 p hp⟩

theorem risesFrom_later {a i : Nat} {b : Byte} {r : SMap Byte} (h : RisesFrom a ((i, b) :: r)) (hi : i ≠ a) :
    RisesFrom (a + 1) ((i, b) :: r) := by
  have hai : a ≤ i := h.2 (i, b) (List.mem_cons_self ..)
  refine ⟨h.1, fun p hp => ?_⟩
  rcases List.mem_cons.1 hp with rfl | hp
  · exact Nat.lt_of_le_of_ne hai hi.symm
  · exact Nat.lt_of_le_of_lt hai ((List.pairwise_cons.1 h.1).1 p hp)

theorem filter_from_self {a c : Nat} {m : SMap Byte} (h : RisesFrom a m) (hc : c ≤ a) : (m.filter fun p => decide (c ≤ p.1)) = m :=
  List.filter_eq_self.2 fun p hp => by simpa using hc.trans (h.2 p hp)

theorem expand_drop {k n : Nat} (hk : k ≤ n) {a : Nat} {m : SMap Byte} (hm : RisesFrom a m) :
    (expand n a m).drop k = expand (n - k) (a + k) (m.filter fun p => decide (a + k ≤ p.1)) := by
  induction k generalizing n a m with
  | zero => simp [filter_from_self hm]
  | succ k ih =>
    obtain ⟨n, rfl⟩ : ∃ j, n = j + 1 := ⟨n - 1, by omega⟩
    have hk := Nat.le_of_succ_le_succ hk
    have shift : a + 1 + k = a + (k + 1) := by omega
    rw [Nat.add_sub_add_right]
    match m, hm with
    | [], _ =>
      rw [expand, List.drop_succ_cons, ih hk (a := a + 1) (m := []) ⟨.nil, by simp⟩, shift]
    | (i, b) :: r, hm =>
      by_cases hi : i = a
      · subst hi
        have hout : ¬ i + (k + 1) ≤ i := by omega
        rw [expand, if_pos rfl, List.drop_succ_cons, ih hk (risesFrom_tail hm), shift]
        simp [hout]
      · rw [expand, if_neg hi, List.drop_succ_cons, ih hk (risesFrom_later hm hi), shift]

/-- A run of bytes read within a longer run. -/
theorem slice_getBytes {m : SMap Byte} (hm : Memory.wf m = true) (a : Nat) {n k j : Nat} (h : k + j ≤ n) :
    slice (getBytes m a n) k j = getBytes m (a + k) j := by
  have hsame : ((m.filter fun p => decide (a ≤ p.1)).filter fun p => decide (a + k ≤ p.1))
      = m.filter fun p => decide (a + k ≤ p.1) := by
    rw [List.filter_filter]
    congr 1
    funext p
    by_cases hp : a + k ≤ p.1
    · simp [hp, (Nat.le_add_right a k).trans hp]
    · simp [hp]
  rw [slice, getBytes, expand_drop (by omega) (risesFrom_filter hm a), expand_take (by omega), hsame, getBytes]

theorem entriesOf_expand (n : Nat) {a : Nat} {m : SMap Byte} (hm : RisesFrom a m) (hz : ∀ p ∈ m, p.2 ≠ 0) :
    entriesOf a (expand n a m) = m.filter fun p => decide (p.1 < a + n) := by
  induction n generalizing a m with
  | zero =>
    refine (List.filter_eq_nil_iff.2 fun p hp => ?_).symm
    simpa using hm.2 p hp
  | succ n ih =>
    have shift : a + 1 + n = a + (n + 1) := by omega
    match m, hm, hz with
    | [], _, _ => rw [expand, entriesOf, if_pos rfl, ih (m := []) ⟨.nil, by simp⟩ (by simp)]; rfl
    | (i, b) :: r, hm, hz =>
      by_cases hi : i = a
      · subst hi
        have hb : b ≠ 0 := hz (i, b) (List.mem_cons_self ..)
        rw [expand, if_pos rfl, entriesOf, if_neg hb, ih (risesFrom_tail hm) fun p hp => hz p (List.mem_cons_of_mem _ hp), shift]
        simp
      · rw [expand, if_neg hi, entriesOf, if_pos rfl, ih (risesFrom_later hm hi) hz, shift]

/-- A rising memory is its part below an address and its part from it on. -/
theorem filter_below_append {m : SMap Byte} (hm : m.Pairwise fun p q => p.1 < q.1) (a : Nat) :
    (m.filter fun p => decide (p.1 < a)) ++ (m.filter fun p => decide (a ≤ p.1)) = m := by
  induction m with
  | nil => rfl
  | cons p r ih =>
    obtain ⟨hp, hr⟩ := List.pairwise_cons.1 hm
    by_cases h : p.1 < a
    · simp [h, h.not_ge, ih hr]
    · have hlow : (r.filter fun q => decide (q.1 < a)) = [] :=
        List.filter_eq_nil_iff.2 fun q hq => by have := hp q hq; simp only [decide_eq_true_eq]; omega
      have hhigh : (r.filter fun q => decide (a ≤ q.1)) = r :=
        List.filter_eq_self.2 fun q hq => by have := hp q hq; simp only [decide_eq_true_eq]; omega
      simp [h, Nat.not_lt.1 h, hlow, hhigh]

/-- A run of bytes written back as it was read changes nothing. -/
theorem setBytes_getBytes {m : SMap Byte} (hm : Memory.wf m = true) (a n : Nat) : setBytes m a (getBytes m a n) = m := by
  obtain ⟨hz, hrise⟩ := (memWf_iff m).1 hm
  have hentries := entriesOf_expand n (risesFrom_filter hm a) fun p hp => hz p (List.mem_filter.1 hp).1
  have hafter : (m.filter fun p => decide (a + n ≤ p.1))
      = (m.filter fun p => decide (a ≤ p.1)).filter fun p => decide (a + n ≤ p.1) := by
    rw [List.filter_filter]
    congr 1
    funext p
    by_cases hp : a + n ≤ p.1
    · simp [hp, (Nat.le_add_right a n).trans hp]
    · simp [hp]
  rw [setBytes, getBytes_length, getBytes, hentries, hafter, List.append_assoc, filter_below_append (hrise.filter _) (a + n),
    filter_below_append hrise a]

/-! ### The block and the channel of an address -/

theorem homeOf_block (a : Nat) : homeOf (256 * (a / 256)) = homeOf a := by unfold homeOf; omega

theorem homeOf_line (a : Nat) : homeOf (a / 64 * 64) = homeOf a := by unfold homeOf; omega

/-- Memory backs the start of a home's window up to some address. -/
theorem backed_below {c : Cfg} {a b : Nat} (h : backed c a = true) (hhome : homeOf b = homeOf a) (hle : b ≤ a) : backed c b = true := by
  simp only [backed, hhome, decide_eq_true_eq] at h ⊢
  unfold homeOf at hhome
  omega

theorem backed_block {c : Cfg} {a : Nat} (h : backed c a = true) : backed c (256 * (a / 256)) = true :=
  backed_below h (homeOf_block a) (by omega)

theorem backed_line {c : Cfg} {a : Nat} (h : backed c a = true) : backed c (a / 64 * 64) = true :=
  backed_below h (homeOf_line a) (by omega)

theorem slotOf_block (c : Cfg) (a : Nat) : slotOf c (256 * (a / 256)) = slotOf c a := by
  have hgranule : 256 * (a / 256) % 2 ^ 41 / 4096 = a % 2 ^ 41 / 4096 := by omega
  have hwindow : bits (256 * (a / 256)) 42 41 = bits a 42 41 := by
    simp only [bits, Nat.shiftRight_eq_div_pow]
    omega
  simp only [slotOf, homeOf_block, hgranule, hwindow]

/-- An address lies in the channel of its block (R226). -/
theorem chanOf_block (s : State) (a : Nat) : chanOf s (256 * (a / 256)) = chanOf s a := by
  simp only [chanOf, homeOf_block, slotOf_block]

theorem blocksOf_line {l : Nat} (hl : l % 64 = 0) : blocksOf l 64 = [l / 256] := by
  have hone : (l + 64 - 1) / 256 + 1 - l / 256 = 1 := by omega
  rw [blocksOf, if_neg (by decide), hone]
  simp

theorem linesOf_line {l : Nat} (hl : l % 64 = 0) : linesOf l 64 = [l] := by
  have hone : (l + 64 - 1) / 64 + 1 - l / 64 = 1 := by omega
  have hself : l / 64 * 64 = l := by omega
  rw [linesOf, if_neg (by decide), hone]
  simp [hself]

theorem peek_line {l : Nat} (hl : l % 64 = 0) (s : State) : peek s l 64 = slice (blockBytesOf s (l / 256)) (l % 256) 64 := by
  have hoff : l - 256 * (l / 256) = l % 256 := by omega
  simp [peek, blocksOf_line hl, hoff]

/-! ### Clean blocks -/

/-- A block without a symbol in error and without poison, in a channel that answers. -/
structure CleanBlock (s : State) (b : Nat) : Prop where
  answers : (chan s (chanOf s (256 * b))).state ≠ .lost
  errs : look [] s.mem.errs b = []
  poison : look false s.mem.poison b = false

theorem decodeBlock_clean : decodeBlock [] false = (0, false, 0, 0) := rfl

theorem readBlock_clean {s : State} {b : Nat} (h : CleanBlock s b) : readBlock b s = (s, false) := by
  rw [readBlock, if_neg (by simpa using h.answers), h.errs, h.poison, decodeBlock_clean]
  rfl

theorem rawBlock_clean {s : State} {b : Nat} (h : look [] s.mem.errs b = []) : rawBlock s b = getBytes s.mem.cells (256 * b) 256 := by
  rw [rawBlock, h]
  rfl

theorem goodBlock_clean {s : State} {b : Nat} (h : CleanBlock s b) : goodBlock s b = getBytes s.mem.cells (256 * b) 256 := by
  rw [goodBlock, h.errs, h.poison, decodeBlock_clean]
  exact rawBlock_clean h.errs

/-- A backed line is read from its entry, where that holds every byte of it, else with its block (R233, R236). -/
theorem readMem_line {l : Nat} (hl : l % 64 = 0) {s : State} (hbacked : backed s.cfg l = true) (who : Nat) :
    readMem who l 64 s =
      let r := if (wcEntry s (l / 256)).any (fun e => lineValid e (l % 256)) then (s, false) else readBlock (l / 256) s
      (r.1, peek r.1 l 64, r.2) := by
  have hlo : max l (256 * (l / 256)) = l := by omega
  have hlen : min (l + 64) (256 * (l / 256) + 256) - l = 64 := by omega
  simp only [readMem, blocksOf_line hl, List.foldl_cons, List.foldl_nil, readNext, hlo, hlen, linesOf_line hl, List.all_cons,
    List.all_nil, Bool.and_true, backed_block hbacked, if_true, Bool.false_or]

/-- A line of a clean block that no entry holds is read as the array's bytes, and nothing changes. -/
theorem readMem_cleanLine {l : Nat} (hl : l % 64 = 0) {s : State} (hbacked : backed s.cfg l = true) (hcells : Memory.wf s.mem.cells = true)
    (hentry : wcEntry s (l / 256) = none) (hclean : CleanBlock s (l / 256)) (who : Nat) :
    readMem who l 64 s = (s, getBytes s.mem.cells l 64, false) := by
  have hwithin : l % 256 + 64 ≤ 256 := by omega
  have haddr : 256 * (l / 256) + l % 256 = l := by omega
  have hpeek : peek s l 64 = getBytes s.mem.cells l 64 := by
    rw [peek_line hl, blockBytesOf, hentry, overlay, goodBlock_clean hclean, slice_getBytes hcells _ hwithin, haddr]
  rw [readMem_line hl hbacked, hentry, readBlock_clean hclean]
  exact Prod.ext rfl (Prod.ext hpeek rfl)

end Sys2Proof.Machine
end

section
/-! Requests of lines (R224, R231, R233, R240, R260): what a request is decided to be at its home, and what its controller does with
one that arrives. -/

namespace Sys2Proof.Machine

/-- The request that LINE_READ makes. -/
def readRequest (c who a : Nat) : HeldReq := { ctx := c, who := who, addr := a, write := none }

section
variable {s : State} {h : HeldReq}

/-! ### At the controller -/

theorem arriveLine_served (hfree : chanWaits s (chanOf s h.addr) = false) : arriveLine h s = serveLine h s := by
  rw [arriveLine, hfree]
  simp

theorem arriveLine_waits (hbacked : backed s.cfg h.addr = true) (hwaits : chanWaits s (chanOf s h.addr) = true) :
    arriveLine h s = { s with mem := match freeTracker s (chanOf s h.addr) (timedReq s h) with
      | some shared => { s.mem with tracked := s.mem.tracked ++ [⟨h, timedReq s h, shared⟩] }
      | none => { s.mem with untracked := s.mem.untracked ++ [h] } } := by
  rw [arriveLine, if_pos (by simp [hbacked, hwaits])]
  dsimp only
  cases freeTracker s (chanOf s h.addr) (timedReq s h) <;> rfl

/-- A read delivers the bytes that its line is read as, or the tables that it holds (R255). -/
theorem serveLine_read {c who a : Nat} {t : State} {bs : List Byte} {poison : Bool}
    (hread : readMem who (a / 64 * 64) 64 s = (t, bs, poison)) : serveLine (readRequest c who a) s =
      emit (.line who a (if inTables (a / 64 * 64) then tableLine t (a / 64 * 64) else bs) poison) t := by
  have hpeek : peek (readMem who (a / 64 * 64) 64 s).1 (a / 64 * 64) 64 = (readMem who (a / 64 * 64) 64 s).2.1 := rfl
  rw [hread] at hpeek
  simp only [serveLine, readRequest, hread, lineData, hpeek]

/-! ### At the home -/

/-- A request that its home passes on: an engine's that writes no table, or one of a backed page whose check serves it. -/
def PassesHome (s : State) (h : HeldReq) : Prop :=
  h.who / 4096 = 6 ∧ (h.write.isSome && inTables h.addr) = false
    ∨ h.who / 4096 ≠ 6 ∧ backed s.cfg h.addr = true ∧ pageCheck s h.ctx (pageOf h.addr) h.write.isSome = .served

theorem decideLine_passed (hpass : PassesHome s h) : decideLine h s = arriveLine h s := by
  rcases hpass with ⟨hengine, hdata⟩ | ⟨hother, hbacked, hserved⟩
  · rw [decideLine, if_pos hengine, hdata, if_neg Bool.false_ne_true]
  · rw [decideLine, if_neg hother, if_neg (by simp [hbacked])]
    simp only [hserved]

theorem decideLine_unbacked (hbacked : backed s.cfg h.addr = false) (hother : h.who / 4096 ≠ 6) (hread : h.write = none) :
    decideLine h s = emit (.line h.who h.addr (zeros 64) true) (unbacked h.who h.addr s) := by
  rw [decideLine, if_neg hother, if_pos (by simp [hbacked]), hread]

theorem decideLine_refused {lock : Bool} (hbacked : backed s.cfg h.addr = true) (hother : h.who / 4096 ≠ 6) (hring : h.ring = false)
    (hverdict : pageCheck s h.ctx (pageOf h.addr) h.write.isSome = if lock then .locked else .denied) :
    decideLine h s = if h.write.isSome then refusePage h.ctx h.addr lock s
      else emit (.line h.who h.addr (zeros 64) true) (refusePage h.ctx h.addr lock s) := by
  rw [decideLine, if_neg hother, if_neg (by simp [hbacked])]
  have hdenied : (PageVerdict.denied == PageVerdict.locked) = false := by decide
  cases lock <;> simp [hverdict, hring, hdenied]

end

/-! ### The commands -/

theorem exec_lineRead_powered {s : State} (hpower : s.pwr.good = true) (c who a : Nat) :
    exec (.lineRead c who a) s = .next (decideLine (readRequest c who a) s) := by
  show execLineRead c who a s = _
  rw [execLineRead, if_pos hpower]
  rfl

/-- The request that LINE_WRITE makes. -/
def writeRequest (c who a : Nat) (data : List Byte) (mask : BitVec 64) (bad : Bool) : HeldReq :=
  { ctx := c, who := who, addr := a / 64 * 64, write := some (padTo 64 data, mask.toNat), bad := bad }

theorem exec_lineWrite_powered {s : State} (hpower : s.pwr.good = true) (c who a : Nat) (data : List Byte) (mask : BitVec 64) (bad : Bool) :
    exec (.lineWrite c who a data mask bad) s = .next (decideLine (writeRequest c who a data mask bad) s) := by
  show execLineWrite c who a data mask bad s = _
  rw [execLineWrite, if_pos hpower]
  rfl

theorem passesHome_read {c who a : Nat} {s : State} (hbacked : backed s.cfg a = true)
    (h : who / 4096 = 6 ∨ pageCheck s c (pageOf a) false = .served) : PassesHome s (readRequest c who a) := by
  by_cases hengine : who / 4096 = 6
  · exact .inl ⟨hengine, rfl⟩
  · exact .inr ⟨hengine, hbacked, h.resolve_left hengine⟩

/-- Settles O22: a read by what its home decides, and by the channel of a clean block or one that makes its requests wait. -/
theorem lineReads : Obligations.LineReads := by
  unfold Obligations.LineReads
  intro c who a data mask s hpower hcanon
  have hcells : Memory.wf s.mem.cells = true := (Bool.and_eq_true_iff.1 hcanon).1
  refine ⟨fun hbacked hpage hanswers hentry herrs hpoison hfree => ?clean, fun hbacked hpage hwaits => ?waits,
    fun hbacked hother => ?unbacked, fun hbacked hother hdenied => ?denied, fun v hbacked hother hline hverdict => ?refusedWrite⟩
  case clean =>
    have hline : a / 64 * 64 % 64 = 0 := by omega
    have hblock : a / 64 * 64 / 256 = a / 256 := by omega
    have hclean : CleanBlock s (a / 64 * 64 / 256) := by
      rw [hblock]
      exact ⟨by rwa [chanOf_block], herrs, hpoison⟩
    have hentry : wcEntry s (a / 64 * 64 / 256) = none := by rwa [hblock]
    rw [exec_lineRead_powered hpower, decideLine_passed (passesHome_read hbacked hpage),
      arriveLine_served (h := readRequest c who a) hfree,
      serveLine_read (readMem_cleanLine hline (backed_line hbacked) hcells hentry hclean who)]
  case waits =>
    rw [exec_lineRead_powered hpower, decideLine_passed (passesHome_read hbacked hpage)]
    rw [arriveLine_waits (h := readRequest c who a) hbacked hwaits]
    rfl
  case unbacked =>
    rw [exec_lineRead_powered hpower]
    exact congrArg _ (decideLine_unbacked (h := readRequest c who a) hbacked hother rfl)
  case denied =>
    rw [exec_lineRead_powered hpower]
    exact congrArg _ (decideLine_refused (h := readRequest c who a) (lock := false) hbacked hother rfl hdenied)
  case refusedWrite =>
    have haddr : a / 64 * 64 = a := by omega
    rw [exec_lineWrite_powered hpower, writeRequest, haddr]
    exact congrArg _ (decideLine_refused (lock := v) hbacked hother rfl hverdict)

end Sys2Proof.Machine
end

section
/-! Write combining (R231, R234 to R236): a line written whole is what its entry holds of that line, and what a read of it returns. -/

namespace Sys2Proof.Machine

/-! ### Lists of bytes -/

theorem padTo_self {n : Nat} {bs : List Byte} (h : bs.length = n) : padTo n bs = bs := by
  simp [padTo, zeros, ← h]

theorem getElem?_slice (bs : List Byte) (off n i : Nat) : (slice bs off n)[i]? = if i < n then bs[off + i]? else none := by
  rw [slice, List.getElem?_take, List.getElem?_drop]

theorem patch_eq_set {bs : List Byte} {i : Nat} (hi : i < bs.length) (v : Byte) : patch bs i [v] = bs.set i v := by
  rw [List.set_eq_take_append_cons_drop, if_pos hi, patch, List.append_assoc]
  rfl

theorem patch_getElem? {bs : List Byte} {j : Nat} (hj : j < bs.length) (i : Nat) (v : Byte) :
    (patch bs i [v])[j]? = if i = j then some v else bs[j]? := by
  by_cases hi : i < bs.length
  · rw [patch_eq_set hi, List.getElem?_set]
    split_ifs <;> rfl
  · have hend : patch bs i [v] = bs ++ [v] := by
      rw [patch, List.take_of_length_le (by omega), List.drop_eq_nil_of_le (by simp; omega), List.append_nil]
    rw [hend, List.getElem?_append_left hj, if_neg (by omega)]

theorem length_le_patch (bs : List Byte) (i : Nat) (v : Byte) : bs.length ≤ (patch bs i [v]).length := by
  simp only [patch, List.length_append, List.length_take, List.length_drop, List.length_singleton]
  omega

theorem patch_length {bs : List Byte} {i : Nat} (hi : i < bs.length) (v : Byte) : (patch bs i [v]).length = bs.length := by
  rw [patch_eq_set hi, List.length_set]

theorem applyErrs_length (es : List SymErr) {bs : List Byte} (h : bs.length = 256) : (applyErrs es bs).length = 256 := by
  induction es generalizing bs with
  | nil => exact h
  | cons e es ih =>
    refine ih ?_
    dsimp only
    split
    · have hlow : 2 * e.symbol + b2n e.half < bs.length := by unfold b2n; split <;> omega
      rw [patch_length hlow, h]
    · exact h

theorem goodBlock_length (s : State) (b : Nat) : (goodBlock s b).length = 256 := by
  have hraw : (rawBlock s b).length = 256 := applyErrs_length _ (getBytes_length _ _ _)
  unfold goodBlock
  split
  · exact applyErrs_length _ hraw
  · exact hraw

/-! ### What an entry holds -/

/-- A byte goes to its place among an entry's bytes, and replaces what stood there. -/
def wcInsert (m : SMap Byte) (p : Nat × Byte) : SMap Byte :=
  (m.filter fun q => decide (q.1 < p.1)) ++ [p] ++ (m.filter fun q => decide (p.1 < q.1))

/-- The bytes of a run with their offsets from `o` on. -/
def runFrom (o : Nat) (data : List Byte) : SMap Byte := (data.zipIdx o).map fun p => (p.2, p.1)

theorem runFrom_cons (o : Nat) (d : Byte) (data : List Byte) : runFrom o (d :: data) = (o, d) :: runFrom (o + 1) data := rfl

theorem mem_runFrom {o : Nat} {data : List Byte} {p : Nat × Byte} :
    p ∈ runFrom o data ↔ o ≤ p.1 ∧ data[p.1 - o]? = some p.2 := by
  obtain ⟨i, v⟩ := p
  simp only [runFrom, List.mem_map, Prod.exists, Prod.mk.injEq]
  constructor
  · rintro ⟨w, j, h, rfl, rfl⟩
    exact List.mem_zipIdx_iff_le_and_getElem?_sub.1 h
  · exact fun h => ⟨v, i, List.mem_zipIdx_iff_le_and_getElem?_sub.2 h, rfl, rfl⟩

theorem mem_wcInsert {m : SMap Byte} {p q : Nat × Byte} : p ∈ wcInsert m q ↔ p = q ∨ p ∈ m ∧ p.1 ≠ q.1 := by
  simp only [wcInsert, List.mem_append, List.mem_filter, List.mem_singleton, decide_eq_true_eq, Nat.ne_iff_lt_or_gt]
  tauto

/-- The bytes that a run of writes leaves in an entry: those of the run, and what it does not replace. -/
theorem mem_foldl_wcInsert {o : Nat} {data : List Byte} {m : SMap Byte} {p : Nat × Byte} :
    p ∈ (runFrom o data).foldl wcInsert m ↔ p ∈ runFrom o data ∨ p ∈ m ∧ ¬ (o ≤ p.1 ∧ p.1 < o + data.length) := by
  induction data generalizing o m with
  | nil => simp [runFrom]
  | cons d data ih =>
    rw [runFrom_cons, List.foldl_cons, ih, mem_wcInsert, List.mem_cons, List.length_cons]
    have hlater : p ∈ runFrom (o + 1) data → o + 1 ≤ p.1 := fun h => (mem_runFrom.1 h).1
    by_cases hp : p = (o, d)
    · subst hp
      simp
    · simp only [hp, false_or]
      constructor
      · rintro (h | ⟨⟨hm, hne⟩, hout⟩)
        · exact .inl h
        · exact .inr ⟨hm, by omega⟩
      · rintro (h | ⟨hm, hout⟩)
        · exact .inl h
        · exact .inr ⟨⟨hm, by omega⟩, by omega⟩

/-- How many of an entry's bytes stand from offset `o` on and before `e`. -/
def heldBetween (o e : Nat) (m : SMap Byte) : Nat := (m.filter fun p => decide (o ≤ p.1) && decide (p.1 < e)).length

theorem heldBetween_wcInsert {o e : Nat} (h : o ≤ e) (m : SMap Byte) (v : Byte) :
    heldBetween o (e + 1) (wcInsert m (e, v)) = heldBetween o e m + 1 := by
  have hbelow : ((m.filter fun q => decide (q.1 < e)).filter fun p => decide (o ≤ p.1) && decide (p.1 < e + 1))
      = m.filter fun p => decide (o ≤ p.1) && decide (p.1 < e) := by
    rw [List.filter_filter]
    refine List.filter_congr fun p _ => ?_
    rw [Bool.eq_iff_iff]
    simp only [Bool.and_eq_true, decide_eq_true_eq]
    omega
  have habove : ((m.filter fun q => decide (e < q.1)).filter fun p => decide (o ≤ p.1) && decide (p.1 < e + 1)) = [] := by
    rw [List.filter_filter]
    refine List.filter_eq_nil_iff.2 fun p _ => ?_
    simp only [Bool.and_eq_true, decide_eq_true_eq]
    omega
  simp only [heldBetween, wcInsert, List.filter_append, hbelow, habove, List.length_append]
  simp [h]

theorem heldBetween_foldl_wcInsert {o e : Nat} (h : o ≤ e) (data : List Byte) (m : SMap Byte) :
    heldBetween o (e + data.length) ((runFrom e data).foldl wcInsert m) = heldBetween o e m + data.length := by
  induction data generalizing e m with
  | nil => rfl
  | cons d data ih =>
    have shift : e + (data.length + 1) = e + 1 + data.length := by omega
    rw [runFrom_cons, List.foldl_cons, List.length_cons, shift, ih (by omega), heldBetween_wcInsert h]
    omega

/-- A run written whole is held whole. -/
theorem lineValid_written {b o last : Nat} {data : List Byte} (hdata : data.length = 64) (m : SMap Byte) :
    lineValid ⟨b, (runFrom o data).foldl wcInsert m, last⟩ o = true := by
  have hall := heldBetween_foldl_wcInsert (le_refl o) data m
  have hnone : heldBetween o o m = 0 := by
    refine List.length_eq_zero_iff.2 (List.filter_eq_nil_iff.2 fun p _ => ?_)
    simp only [Bool.and_eq_true, decide_eq_true_eq]
    omega
  rw [hnone, hdata] at hall
  exact beq_iff_eq.2 hall

/-- Where an entry's bytes agree on an offset of the block, that is the byte that shows there. -/
theorem overlay_getElem? {l : SMap Byte} {j : Nat} {v : Byte} (hsame : ∀ p ∈ l, p.1 = j → p.2 = v) {bs : List Byte}
    (hj : j < bs.length) (hsome : (∃ p ∈ l, p.1 = j) ∨ bs[j]? = some v) :
    (l.foldl (fun bs p => patch bs p.1 [p.2]) bs)[j]? = some v := by
  induction l generalizing bs with
  | nil => simpa using hsome
  | cons q l ih =>
    refine ih (fun p hp => hsame p (List.mem_cons_of_mem _ hp)) (hj.trans_le (length_le_patch bs q.1 q.2)) ?_
    rw [patch_getElem? hj]
    by_cases hq : q.1 = j
    · rw [if_pos hq, hsame q (List.mem_cons_self ..) hq]
      exact .inr rfl
    · rw [if_neg hq]
      rcases hsome with ⟨p, hp, rfl⟩ | hbs
      · rcases List.mem_cons.1 hp with rfl | hp
        · exact absurd rfl hq
        · exact .inl ⟨p, hp, rfl⟩
      · exact .inr hbs

/-- A run written whole shows in its block. -/
theorem slice_overlay_written {b o last : Nat} {data : List Byte} (m : SMap Byte) {bs : List Byte} (hbs : o + data.length ≤ bs.length) :
    slice (overlay (some ⟨b, (runFrom o data).foldl wcInsert m, last⟩) bs) o data.length = data := by
  refine List.ext_getElem? fun i => ?_
  rw [getElem?_slice]
  split
  · rename_i hi
    have hmem : (o + i, data[i]) ∈ runFrom o data := mem_runFrom.2 ⟨by simp, by simp [hi]⟩
    rw [overlay, overlay_getElem? (v := data[i]) ?_ (by omega) (.inl ⟨_, mem_foldl_wcInsert.2 (.inl hmem), rfl⟩),
      List.getElem?_eq_getElem hi]
    rintro ⟨j, w⟩ hp rfl
    rcases mem_foldl_wcInsert.1 hp with hrun | ⟨_, hout⟩
    · have := (mem_runFrom.1 hrun).2
      simp only [Nat.add_sub_cancel_left, List.getElem?_eq_getElem hi, Option.some.injEq] at this
      exact this.symm
    · simp only at hout
      omega
  · rename_i hi
    rw [List.getElem?_eq_none (by omega)]

/-! ### The entries of a buffer -/

theorem look_putWc (b : Nat) (bytes : SMap Byte) (s : State) : look [] (putWc b bytes s).mem.wc (chanOf s (256 * b))
    = (look [] s.mem.wc (chanOf s (256 * b))).filter (fun e => e.block != b) ++ [⟨b, bytes, s.now⟩] := look_put_same _ _ _ _

theorem chanOf_putWc (b : Nat) (bytes : SMap Byte) (s : State) (a : Nat) : chanOf (putWc b bytes s) a = chanOf s a := rfl

theorem wcEntry_putWc_same (b : Nat) (bytes : SMap Byte) (s : State) : wcEntry (putWc b bytes s) b = some ⟨b, bytes, s.now⟩ := by
  have hgone : ((look [] s.mem.wc (chanOf s (256 * b))).filter fun e => e.block != b).find? (fun e => e.block == b) = none :=
    List.find?_eq_none.2 fun e he => by simpa using (List.mem_filter.1 he).2
  rw [wcEntry, chanOf_putWc, look_putWc, List.find?_append, hgone]
  simp

theorem wcEntry_putWc_other {b c : Nat} (h : c ≠ b) (bytes : SMap Byte) (s : State) : wcEntry (putWc b bytes s) c = wcEntry s c := by
  rw [wcEntry, wcEntry, chanOf_putWc]
  by_cases hsame : chanOf s (256 * c) = chanOf s (256 * b)
  · have hkept : (fun e : WcEntry => decide ((e.block != b) = true ∧ (e.block == c) = true)) = fun e => e.block == c := by
      funext e
      by_cases he : e.block = c <;> simp [he, h]
    rw [hsame, look_putWc, List.find?_append, List.find?_filter, hkept]
    simp [h.symm]
  · have hlook : look [] (putWc b bytes s).mem.wc (chanOf s (256 * c)) = look [] s.mem.wc (chanOf s (256 * c)) :=
      look_put_other _ _ _ _ _ _ hsame
    rw [hlook]

theorem blockBytesOf_putWc_other {b c : Nat} (h : c ≠ b) (bytes : SMap Byte) (s : State) :
    blockBytesOf (putWc b bytes s) c = blockBytesOf s c := by
  rw [blockBytesOf, wcEntry_putWc_other h]
  rfl

/-! ### A line written whole -/

/-- The bytes of a block's entry once a line has been written whole. -/
def lineWritten (l : Nat) (data : List Byte) (s : State) : SMap Byte :=
  (runFrom (l % 256) data).foldl wcInsert ((wcEntry s (l / 256)).elim [] (·.bytes))

/-- A line written whole goes to its block's entry (R234). -/
theorem wcWrite_whole {l : Nat} (hl : l % 64 = 0) (data : List Byte) (s : State) :
    wcWrite l data (BitVec.allOnes 64).toNat s = putWc (l / 256) (lineWritten l data s) s := by
  have hoff : l % 256 / 64 * 64 = l % 256 := by omega
  have hmask (i : Nat) : (BitVec.allOnes 64).toNat.testBit (i % 64) = true := by
    rw [BitVec.toNat_allOnes, Nat.testBit_two_pow_sub_one]
    simp [Nat.mod_lt]
  have hnew : ((data.zipIdx (l % 256)).filterMap fun p =>
      if (BitVec.allOnes 64).toNat.testBit (p.2 % 64) then some (p.2, p.1) else none) = runFrom (l % 256) data := by
    simp only [hmask, if_true]
    exact congrFun (List.filterMap_eq_map (f := fun p : Byte × Nat => (p.2, p.1))) _
  rw [wcWrite, hoff, hnew]
  rfl

section
variable {l : Nat} {data : List Byte} {s : State}

theorem readMem_written (hl : l % 64 = 0) (hbacked : backed s.cfg l = true) (hdata : data.length = 64) (who : Nat) :
    readMem who l 64 (putWc (l / 256) (lineWritten l data s) s) = (putWc (l / 256) (lineWritten l data s) s, data, false) := by
  have hentry := wcEntry_putWc_same (l / 256) (lineWritten l data s) s
  have hpeek : peek (putWc (l / 256) (lineWritten l data s) s) l 64 = data := by
    have hroom : l % 256 + data.length ≤ (goodBlock (putWc (l / 256) (lineWritten l data s) s) (l / 256)).length := by
      rw [goodBlock_length]
      omega
    have := slice_overlay_written (b := l / 256) (last := s.now) ((wcEntry s (l / 256)).elim [] (·.bytes)) hroom
    rw [peek_line hl, blockBytesOf, hentry]
    rwa [hdata] at this
  rw [readMem_line (s := putWc (l / 256) (lineWritten l data s) s) hl hbacked, hentry, lineWritten, Option.any_some,
    lineValid_written hdata]
  exact Prod.ext rfl (Prod.ext hpeek rfl)

theorem wcMakeRoom_room (h : (look [] s.mem.wc (chanOf s l)).length < 32) : wcMakeRoom l s = s := by
  rw [wcMakeRoom, if_pos (by simp [h])]

theorem acceptWrite_whole (hl : l % 64 = 0) (hbacked : backed s.cfg l = true) (hdata : data.length = 64)
    (hanswers : (chan s (chanOf s l)).state ≠ .lost) (hroom : (look [] s.mem.wc (chanOf s l)).length < 32) (who : Nat) :
    acceptWrite who l (padTo 64 data) (BitVec.allOnes 64).toNat false s = putWc (l / 256) (lineWritten l data s) s := by
  rw [acceptWrite, if_neg (by simp [hbacked]), if_neg hanswers, wcMakeRoom_room hroom, padTo_self hdata, wcWrite_whole hl]
  rfl

end

/-- Settles O23: the line goes to its block's entry, whose bytes of it are then those that were written. -/
theorem lineReadAfterWrite : Obligations.LineReadAfterWrite := by
  unfold Obligations.LineReadAfterWrite
  intro c who a data s hpower hbacked hline hdata hanswers hroom hfree hdataArea hpage
  have haddr : a / 64 * 64 = a := by omega
  have hwritten := acceptWrite_whole hline hbacked hdata hanswers hroom who
  have hwrite : PassesHome s (writeRequest c who a data (BitVec.allOnes 64) false) := by
    by_cases hengine : who / 4096 = 6
    · exact .inl ⟨hengine, by simp [writeRequest, haddr, hdataArea]⟩
    · exact .inr ⟨hengine, by simpa [writeRequest, haddr], by simpa [writeRequest, haddr] using (hpage.resolve_left hengine).1⟩
  have hread : PassesHome s (readRequest c who a) := passesHome_read hbacked (hpage.imp_right And.right)
  refine ⟨putWc (a / 256) (lineWritten a data s) s, ?write, rfl, rfl, rfl, rfl, rfl,
    fun b hb => blockBytesOf_putWc_other hb _ s, ?read⟩
  case write =>
    rw [exec_lineWrite_powered hpower, decideLine_passed hwrite, arriveLine_served (by simpa [writeRequest, haddr])]
    simp only [serveLine, writeRequest, haddr, hwritten]
    rfl
  case read =>
    have hreadWritten := readMem_written hline hbacked hdata who
    generalize ht : putWc (a / 256) (lineWritten a data s) s = t at hreadWritten ⊢
    have hpowered : t.pwr.good = true := by rw [← ht]; exact hpower
    have hpasses : PassesHome t (readRequest c who a) := by rw [← ht]; exact hread
    have hserves : chanWaits t (chanOf t a) = false := by rw [← ht]; exact hfree
    have hline64 : readMem who (a / 64 * 64) 64 t = (t, data, false) := by rw [haddr]; exact hreadWritten
    rw [exec_lineRead_powered hpowered, decideLine_passed hpasses,
      arriveLine_served (h := readRequest c who a) hserves, serveLine_read hline64, haddr, hdataArea]
    rfl

end Sys2Proof.Machine
end

section
/-! The inline code of a block (R228 to R230): the field GF(2^8), the one symbol that a syndrome names, and the correction of it. -/

namespace Sys2Proof.Machine

/-! ### The field -/

theorem iter_eq_iterate {α : Type} (f : α → α) (n : Nat) (x : α) : iter f n x = f^[n] x := by
  induction n generalizing x with
  | zero => rfl
  | succ n ih => exact ih (f x)

theorem iter_succ_apply {α : Type} (f : α → α) (n : Nat) (x : α) : iter f (n + 1) x = f (iter f n x) := by
  rw [iter_eq_iterate, iter_eq_iterate, Function.iterate_succ_apply']

theorem gfDouble_lt : ∀ x < 256, gfDouble x < 256 := by decide +kernel

theorem gfDouble_eq : ∀ x < 256, gfDouble x = 2 * x ^^^ (if x.testBit 7 then 0x11D else 0) := by decide +kernel

theorem gfDouble_eq_zero : ∀ x < 256, gfDouble x = 0 → x = 0 := by decide +kernel

theorem xor_lt_256 {x y : Nat} (hx : x < 256) (hy : y < 256) : x ^^^ y < 256 := Nat.xor_lt_two_pow (n := 8) hx hy

/-- Doubling is linear. -/
theorem gfDouble_xor {x y : Nat} (hx : x < 256) (hy : y < 256) : gfDouble (x ^^^ y) = gfDouble x ^^^ gfDouble y := by
  have hshift : 2 * (x ^^^ y) = 2 * x ^^^ 2 * y := by
    have := Nat.shiftLeft_xor_distrib (i := 1) (a := x) (b := y)
    simpa [Nat.shiftLeft_eq, Nat.mul_comm] using this
  rw [gfDouble_eq _ (xor_lt_256 hx hy), gfDouble_eq x hx, gfDouble_eq y hy, hshift, Nat.testBit_xor]
  cases x.testBit 7 <;> cases y.testBit 7 <;>
    simp [Nat.xor_assoc, Nat.xor_left_comm, Nat.xor_comm (2 * y)]

theorem gfDouble_injective {x y : Nat} (hx : x < 256) (hy : y < 256) (h : gfDouble x = gfDouble y) : x = y := by
  have hzero := gfDouble_eq_zero _ (xor_lt_256 hx hy) (by rw [gfDouble_xor hx hy, h, Nat.xor_self])
  exact Nat.xor_eq_zero_iff.1 hzero

theorem iter_gfDouble_lt (n : Nat) {x : Nat} (hx : x < 256) : iter gfDouble n x < 256 := by
  induction n generalizing x with
  | zero => exact hx
  | succ n ih => exact ih (gfDouble_lt x hx)

theorem iter_gfDouble_injective {n : Nat} {x y : Nat} (hx : x < 256) (hy : y < 256) (h : iter gfDouble n x = iter gfDouble n y) :
    x = y := by
  induction n generalizing x y with
  | zero => exact h
  | succ n ih => exact gfDouble_injective hx hy (ih (gfDouble_lt x hx) (gfDouble_lt y hy) h)

theorem gfPow_lt (n : Nat) : gfPow n < 256 := iter_gfDouble_lt n (by decide)

theorem gfMulAux_gfDouble {x : Nat} (hx : x < 256) (n y : Nat) {acc : Nat} (hacc : acc < 256) :
    gfMulAux (gfDouble x) n y (gfDouble acc) = gfDouble (gfMulAux x n y acc) := by
  induction n generalizing acc with
  | zero => rfl
  | succ n ih =>
    have hstep (z : Nat) (hz : z < 256) : gfDouble (gfDouble acc) ^^^ gfDouble z = gfDouble (gfDouble acc ^^^ z) :=
      (gfDouble_xor (gfDouble_lt acc hacc) hz).symm
    simp only [gfMulAux]
    split
    · rw [hstep x hx, ih (xor_lt_256 (gfDouble_lt acc hacc) hx)]
    · rw [Nat.xor_zero, Nat.xor_zero, ih (gfDouble_lt acc hacc)]

theorem gfMul_gfDouble {x : Nat} (hx : x < 256) (y : Nat) : gfMul (gfDouble x) y = gfDouble (gfMul x y) :=
  gfMulAux_gfDouble hx 8 y (acc := 0) (by decide)

theorem one_gfMul : ∀ y < 256, gfMul 1 y = y := by decide +kernel

/-- A product by a power of α is that many doublings. -/
theorem gfPow_gfMul (n : Nat) {y : Nat} (hy : y < 256) : gfMul (gfPow n) y = iter gfDouble n y := by
  induction n with
  | zero => exact one_gfMul y hy
  | succ n ih =>
    have hpow : gfPow (n + 1) = gfDouble (gfPow n) := iter_succ_apply gfDouble n 1
    rw [hpow, gfMul_gfDouble (gfPow_lt n), ih, iter_succ_apply]

theorem mem_iterate_gfDouble : ∀ e < 256, e ≠ 0 → e ∈ List.iterate gfDouble 1 255 := by decide +kernel

/-- Every symbol but zero is a power of α. -/
theorem exists_gfPow {e : Nat} (he : e < 256) (hz : e ≠ 0) : ∃ n, e = gfPow n := by
  obtain ⟨n, -, hn⟩ := List.mem_iterate.1 (mem_iterate_gfDouble e he hz)
  exact ⟨n, by rw [hn, gfPow, iter_eq_iterate]⟩

theorem gfPow_eq_one : ∀ n < 132, gfPow n = 1 → n = 0 := by decide +kernel

theorem gfPow_injective_le {j k : Nat} (hjk : j ≤ k) (hk : k < 132) (h : gfPow j = gfPow k) : j = k := by
  have hsplit : gfPow k = iter gfDouble j (gfPow (k - j)) := by
    rw [gfPow, gfPow, iter_eq_iterate, iter_eq_iterate, iter_eq_iterate, ← Function.iterate_add_apply, Nat.add_sub_cancel' hjk]
  have hone : 1 = gfPow (k - j) := iter_gfDouble_injective (n := j) (by decide) (gfPow_lt _) (h.trans hsplit)
  have := gfPow_eq_one (k - j) (by omega) hone.symm
  omega

/-- The powers of α that belong to the symbols of a codeword all differ. -/
theorem gfPow_injective {j k : Nat} (hj : j < 132) (hk : k < 132) (h : gfPow j = gfPow k) : j = k := by
  rcases Nat.le_total j k with hjk | hkj
  · exact gfPow_injective_le hjk hk h
  · exact (gfPow_injective_le hkj hj h.symm).symm

/-! ### One symbol in error -/

/-- A wrong value's syndrome tells at which symbol it stands. -/
theorem synOf_injective {e i j : Nat} (he : e < 256) (hz : e ≠ 0) (hi : i < 132) (hj : j < 132) (h : synOf e i = synOf e j) : i = j := by
  obtain ⟨n, rfl⟩ := exists_gfPow he hz
  have hsecond : gfMul (gfPow n) (gfPow (131 - i)) = gfMul (gfPow n) (gfPow (131 - j)) := congrArg (·.2.1) h
  rw [gfPow_gfMul n (gfPow_lt _), gfPow_gfMul n (gfPow_lt _)] at hsecond
  have hpow := gfPow_injective (by omega) (by omega) (iter_gfDouble_injective (gfPow_lt _) (gfPow_lt _) hsecond)
  omega

theorem oneSymbol_synOf {e i : Nat} (he : e < 256) (hz : e ≠ 0) (hi : i < 132) : oneSymbol (synOf e i) = some (i, e) := by
  have hvalue : (synOf e i).1 = e := rfl
  have hfind : (List.range 132).find? (fun j => synOf e j == synOf e i) = some i :=
    find_least _ 132 i hi (by simp) fun j hj => by
      simpa using fun heq => absurd (synOf_injective he hz (by omega) hi heq) (by omega)
  rw [oneSymbol, hvalue, if_neg hz, hfind]
  rfl

theorem synAdd_synZero (y : Nat × Nat × Nat × Nat) : synAdd synZero y = y := by
  simp [synAdd, synZero]

theorem synHalf_one (half other : Bool) (i e : Nat) :
    synHalf [⟨half, i, e⟩] false other = if half == other then synOf e i else synZero := by
  simp only [synHalf, List.foldl_cons, List.foldl_nil, Bool.false_eq_true, if_false, synAdd_synZero]

theorem synOf_ne_synZero {e : Nat} (hz : e ≠ 0) (i : Nat) : (synOf e i == synZero) = false :=
  beq_false_of_ne fun h => hz (congrArg (·.1) h)

theorem synZero_ne_synPoison : (synZero == synPoison) = false := by decide +kernel

/-- One wrong symbol of a block, data or check, is found with its value (R229). -/
theorem decodeBlock_one {e i : Nat} (half : Bool) (he : e < 256) (hz : e ≠ 0) (hi : i < 132) :
    decodeBlock [⟨half, i, e⟩] false = (2, half, i, e) := by
  cases half with
  | false => simp [decodeBlock, synHalf_one, synOf_ne_synZero hz, synZero_ne_synPoison, oneSymbol_synOf he hz hi]
  | true => simp [decodeBlock, synHalf_one, synOf_ne_synZero hz, synZero_ne_synPoison, oneSymbol_synOf he hz hi]

/-- An error applied twice is none. -/
theorem applyErrs_twice (x : SymErr) {bs : List Byte} (h : bs.length = 256) : applyErrs [x] (applyErrs [x] bs) = bs := by
  simp only [applyErrs, List.foldl_cons, List.foldl_nil]
  split
  · have hlow : 2 * x.symbol + b2n x.half < bs.length := by unfold b2n; split <;> omega
    generalize 2 * x.symbol + b2n x.half = k at hlow
    have hback : (bs.getD k 0 ^^^ BitVec.ofNat 8 x.flip) ^^^ BitVec.ofNat 8 x.flip = bs[k] := by
      rw [BitVec.xor_assoc, BitVec.xor_self, BitVec.xor_zero, List.getD_eq_getElem _ _ hlow]
    rw [patch_eq_set hlow, patch_eq_set (by rwa [List.length_set]), List.set_set, List.getD_eq_getElem _ _ (by rwa [List.length_set]),
      List.getElem_set_self, hback, List.set_getElem_self]
  · rfl

end Sys2Proof.Machine
end

section
/-! Eviction and patrol scrubbing (R228 to R234): a whole entry is written, a part is merged into its clean block, and a block with one
wrong symbol is written back as it was. -/

namespace Sys2Proof.Machine

/-! ### Eviction -/

theorem chanOf_passNow (n : Nat) (s : State) (a : Nat) : chanOf (passNow n s) a = chanOf s a := by
  unfold passNow pass
  split <;> rfl

theorem chan_passNow (n : Nat) (s : State) (k : Nat) : chan (passNow n s) k = chan s k := by
  rw [chan, passNow_cfg, passNow_mem, chan]

theorem cleanBlock_passNow {n b : Nat} {s : State} (h : CleanBlock s b) : CleanBlock (passNow n s) b :=
  ⟨by rw [chanOf_passNow, chan_passNow]; exact h.answers, by rw [passNow_mem]; exact h.errs, by rw [passNow_mem]; exact h.poison⟩

theorem cleanBlock_dropWc {b c : Nat} {s : State} (h : CleanBlock s b) : CleanBlock (dropWc c s) b := ⟨h.answers, h.errs, h.poison⟩

theorem dropWc_passNow (b n : Nat) (s : State) : dropWc b (passNow n s) =
    setWc (chanOf s (256 * b)) ((look [] s.mem.wc (chanOf s (256 * b))).filter fun x => x.block != b) (passNow n s) := by
  rw [dropWc, chanOf_passNow, passNow_mem]

section
variable {e : WcEntry} {s : State}

theorem evictEntry_whole (hanswers : (chan s (chanOf s (256 * e.block))).state ≠ .lost) (hwhole : e.bytes.length = 256) :
    evictEntry e s = writeBlock e.block (e.bytes.map (·.2)) false (dropWc e.block s) := by
  have hafter : (chan (dropWc e.block s) (chanOf s (256 * e.block))).state ≠ .lost := hanswers
  rw [evictEntry, if_neg (by simpa using hafter), if_pos hwhole]

theorem evictEntry_part (hclean : CleanBlock s e.block) (hpart : e.bytes.length ≠ 256) :
    evictEntry e s =
      writeBlock e.block (overlay (some e) (getBytes s.mem.cells (256 * e.block) 256)) false (dropWc e.block s) := by
  have hafter : (chan (dropWc e.block s) (chanOf s (256 * e.block))).state ≠ .lost := hclean.answers
  rw [evictEntry, if_neg (by simpa using hafter), if_neg hpart, readBlock_clean (cleanBlock_dropWc hclean)]
  dsimp only
  rw [goodBlock_clean (cleanBlock_dropWc hclean)]
  rfl

theorem exec_wcEviction_held {k b : Nat} (hfind : ((look [] s.mem.wc k).find? fun x => x.block == b) = some e) :
    exec (.wcEviction k b) s = .next (evictEntry e (if e.bytes.length = 256 then s else passNow (e.last + 512) s)) := by
  show execWcEviction k b s = _
  rw [execWcEviction, hfind]

end

/-! ### Patrol scrubbing -/

theorem chan_setChan_same (k : Nat) (ch : Channel) (s : State) : chan (setChan k ch s) k = ch := look_put_same _ _ _ _

theorem chan_raise (c n : Nat) (fs : List (Nat × Nat)) (s : State) (k : Nat) : chan (raise c n fs s) k = chan s k := by
  rw [chan, raise_cfg, raise_mem, chan]

theorem chan_eccLast (kind : Nat) (half : Bool) (i a : Nat) (s : State) (k : Nat) : chan (eccLast kind half i a s) k = chan s k := rfl

theorem chan_writeBlock (b : Nat) (bs : List Byte) (poison : Bool) (s : State) (k : Nat) :
    chan (writeBlock b bs poison s) k = chan s k := rfl

/-- A corrected error counts one, up to what the counter holds (R230). -/
theorem ceCount_countCe (k : Nat) (s : State) :
    (chan (countCe k s) k).ceCount.toNat = min 0xFFFFFF ((chan s k).ceCount.toNat + 1) := by
  rw [countCe, chan_setChan_same]
  dsimp only
  generalize (chan s k).ceCount = n
  split
  · rename_i h
    subst h
    rfl
  · rename_i h
    have hbelow : n.toNat ≠ 0xFFFFFF := fun heq => h (BitVec.eq_of_toNat_eq heq)
    bv_omega

theorem exec_patrolScrub_reads {b : Nat} {s : State} (hscrub : s.mem.scrubEn = true) (hbacked : backed s.cfg (256 * b) = true)
    (hanswers : (chan s (chanOf s (256 * b))).state ≠ .lost) : exec (.patrolScrub b) s = .next (readBlock b s).1 := by
  show execPatrolScrub b s = _
  rw [execPatrolScrub, if_pos (by simp [hscrub, hbacked, hanswers])]

/-- What the controller writes back of a block with one wrong symbol, and counts and remembers of it (R230). -/
def symbolCorrected (b i : Nat) (half : Bool) (s : State) : State :=
  eccLast 0 half i (256 * b) (countCe (chanOf s (256 * b)) (writeBlock b (getBytes s.mem.cells (256 * b) 256) false s))

section
variable {b i e : Nat} {half : Bool} {s : State}

theorem goodBlock_one (herrs : look [] s.mem.errs b = [⟨half, i, e⟩]) (hpoison : look false s.mem.poison b = false)
    (hi : i < 132) (hz : e ≠ 0) (he : e < 256) : goodBlock s b = getBytes s.mem.cells (256 * b) 256 := by
  rw [goodBlock, rawBlock, herrs, hpoison, decodeBlock_one half he hz hi]
  exact applyErrs_twice _ (getBytes_length _ _ _)

theorem readBlock_one (hanswers : (chan s (chanOf s (256 * b))).state ≠ .lost) (hentry : wcEntry s b = none)
    (herrs : look [] s.mem.errs b = [⟨half, i, e⟩]) (hpoison : look false s.mem.poison b = false)
    (hi : i < 132) (hz : e ≠ 0) (he : e < 256) :
    readBlock b s = (raise 0x0601 (chanOf s (256 * b)) [(8, 256 * b)] (symbolCorrected b i half s), false) := by
  have hgood := goodBlock_one herrs hpoison hi hz he
  rw [readBlock, if_neg (by simpa using hanswers), herrs, hpoison, decodeBlock_one half he hz hi, hentry]
  dsimp only
  rw [hgood]
  rfl

theorem symbolCorrected_cells (hcells : Memory.wf s.mem.cells = true) : (symbolCorrected b i half s).mem.cells = s.mem.cells := by
  show setBytes s.mem.cells (256 * b) (padTo 256 (getBytes s.mem.cells (256 * b) 256)) = _
  rw [padTo_self (getBytes_length _ _ _), setBytes_getBytes hcells]

theorem symbolCorrected_errs {es : List SymErr} (herrs : s.mem.errs = [(b, es)]) : (symbolCorrected b i half s).mem.errs = [] := by
  show put [] b [] s.mem.errs = []
  rw [herrs]
  simp [put]

theorem symbolCorrected_eccLast : (symbolCorrected b i half s).mem.eccLast = ⟨true, 0, half, BitVec.ofNat 8 i, BitVec.ofNat 40 b⟩ := by
  have hblock : 256 * b / 256 = b := by omega
  show (⟨true, BitVec.ofNat 2 0, half, BitVec.ofNat 8 i, BitVec.ofNat 40 (256 * b / 256)⟩ : MemEcc) = _
  rw [hblock]
  rfl

theorem symbolCorrected_ceCount : (chan (symbolCorrected b i half s) (chanOf s (256 * b))).ceCount.toNat =
    min 0xFFFFFF ((chan s (chanOf s (256 * b))).ceCount.toNat + 1) := by
  rw [symbolCorrected, chan_eccLast, ceCount_countCe, chan_writeBlock]

end

/-- Settles O24: an entry by whether it is whole, a scrubbed block by the one symbol that its syndrome names, if any. -/
theorem evictionAndPatrolScrub : Obligations.EvictionAndPatrolScrub := by
  unfold Obligations.EvictionAndPatrolScrub
  refine ⟨fun b e s hfind hanswers => ?eviction, fun b i e half s hscrub hcanon hbacked hanswers hentry hpoison => ?scrub⟩
  case eviction =>
    obtain rfl : e.block = b := by simpa using List.find?_some hfind
    rw [exec_wcEviction_held hfind]
    refine ⟨fun hwhole => ?_, fun hpart herrs hpoison => ?_⟩
    · rw [if_pos hwhole, evictEntry_whole hanswers hwhole]
      rfl
    · have hclean : CleanBlock s e.block := ⟨hanswers, herrs, hpoison⟩
      rw [if_neg hpart, evictEntry_part (cleanBlock_passNow hclean) hpart, dropWc_passNow, passNow_mem]
  case scrub =>
    have hcells : Memory.wf s.mem.cells = true := (Bool.and_eq_true_iff.1 hcanon).1
    have hclear : look false s.mem.poison b = false := by rw [hpoison]; rfl
    rw [exec_patrolScrub_reads hscrub hbacked hanswers]
    refine ⟨fun herrs => ?_, fun herrs hi hpos he => ?_⟩
    · rw [readBlock_clean ⟨hanswers, by rw [herrs]; rfl, hclear⟩]
    · have hone : look [] s.mem.errs b = [⟨half, i, e⟩] := by rw [herrs, look, if_pos rfl]
      rw [readBlock_one hanswers hentry hone hclear hi (by omega) he]
      refine ⟨_, symbolCorrected b i half s, rfl, rfl, ?_⟩
      rw [raise_mem, chan_raise]
      exact ⟨symbolCorrected_errs herrs, symbolCorrected_cells hcells, symbolCorrected_eccLast, symbolCorrected_ceCount⟩

end Sys2Proof.Machine
end

section
/-! The end of a margin scan of a strait lane (R242 to R244): its free verdict, and the record that answers the mailbox. A record that
leaves on a port takes a tag, which is one more free value (assumption log 61, 112). -/

namespace Sys2Proof.Machine

/-! ### A host write that leaves at once -/

/-- One free value is drawn; the module state and the placements that wait are as they were. -/
structure DrawsOne (s t : State) : Prop where
  freeCtr : t.freeCtr = s.freeCtr + 1
  mode : t.mode = s.mode
  placing : t.zng.placing = s.zng.placing

theorem pumpAux_placing (n p : Nat) (s : State) : (pumpAux n p s).zng.placing = s.zng.placing := by
  induction n generalizing s with
  | zero => rfl
  | succ n ih =>
    unfold pumpAux
    dsimp only
    split
    · rw [ih]
      rfl
    · rfl

theorem sendTxn_placing (p cls : Nat) (bs : List Byte) (s : State) : (sendTxn p cls bs s).zng.placing = s.zng.placing :=
  pumpAux_placing _ _ _

theorem drawsOne_issueOn (p : Nat) (r : HostReq) (s : State) : DrawsOne s (issueOn p r s) :=
  ⟨sendTxn_freeCtr _ _ _ _, sendTxn_mode _ _ _ _, sendTxn_placing _ _ _ _⟩

/-- No access to the host waits or is outstanding, and port 0 carries keys. -/
structure HostIdle (s : State) : Prop where
  queued : s.zng.queued = []
  issued : s.zng.issued = []
  port : portCarries s 0 = true

section
variable {s : State} {r : HostReq}

theorem portOfKey_first (hidle : HostIdle s) (hpeer : r.peer = none) (hpage : r.off < 2 ^ 21) : portOfKey s r = some 0 := by
  have hkey : keyOf r % 8 = 0 := by
    rw [keyOf, hpeer]
    dsimp only
    omega
  rw [portOfKey, hidle.issued, hkey, portOfHome]
  simp [hidle.port]

theorem hasRoom_idle (hidle : HostIdle s) (p : Nat) (write : Bool) : hasRoom s p write = true := by
  rw [hasRoom, hidle.issued]
  cases write <;> rfl

theorem issueAux_whole (hidle : HostIdle s) (hpeer : r.peer = none) (hpage : r.off < 2 ^ 21) (hlen : r.len ≠ 0)
    (hmax : r.len ≤ pieceMax r) (n : Nat) : ∃ r', issueAux (n + 2) r s = (issueOn 0 r' s, none) := by
  refine ⟨{ r with len := min r.len (pieceMax r), data := r.data.take (min r.len (pieceMax r)) }, ?_⟩
  have hrest : r.len - min r.len (pieceMax r) = 0 := by omega
  rw [issueAux, if_neg hlen, portOfKey_first hidle hpeer hpage]
  dsimp only
  rw [if_pos (hasRoom_idle hidle 0 r.write), issueAux, if_pos hrest]

theorem cutPages_one (hlen : r.len ≠ 0) (hpage : r.off % 2 ^ 21 + r.len ≤ 2 ^ 21) (n : Nat) :
    cutPages (n + 2) r = [{ r with data := r.data.take r.len }] := by
  have hmin : min r.len (2 ^ 21 - r.off % 2 ^ 21) = r.len := by omega
  rw [cutPages, if_neg hlen]
  dsimp only
  rw [hmin, cutPages, if_pos (Nat.sub_self _)]

theorem drawsOne_pumpHost (hqueued : s.zng.queued = [r]) (hidle : HostIdle { s with zng := { s.zng with queued := [] } })
    (hpeer : r.peer = none) (hpage : r.off < 2 ^ 21) (hlen : r.len ≠ 0) (hmax : r.len ≤ pieceMax r) : DrawsOne s (pumpHost s) := by
  obtain ⟨r', hissue⟩ := issueAux_whole hidle hpeer hpage hlen hmax 2048
  obtain ⟨hctr, hmode, hplacing⟩ := drawsOne_issueOn 0 r' { s with zng := { s.zng with queued := [] } }
  rw [pumpHost, hqueued]
  simp only [List.foldl_cons, List.foldl_nil, List.contains_nil, Bool.false_eq_true, if_false, hissue]
  exact ⟨hctr, hmode, hplacing⟩

/-- A short write in the first page of the host window leaves at once. -/
theorem drawsOne_hostWrite (hidle : HostIdle s) {off : Nat} {data : List Byte} (hdata : data.length ≠ 0) (hmax : data.length ≤ 1024)
    (hpage : off + data.length ≤ 2 ^ 21) (use : HostUse) : DrawsOne s (hostWrite off data use s) := by
  have hsmall : data.length / 2 ^ 21 + 2 = 0 + 2 := by omega
  have hcut := cutPages_one (r := { write := true, off := off, len := data.length, data := data, use := use }) hdata
    (by dsimp only; omega) 0
  rw [hostWrite, request, if_neg (by simp)]
  dsimp only
  rw [hsmall, hcut, hidle.queued]
  have hpumped := drawsOne_pumpHost (s := { s with zng := { s.zng with queued := [
    { write := true, off := off, len := data.length, data := data.take data.length, use := use }] } })
    rfl ⟨rfl, hidle.issued, hidle.port⟩ rfl (by dsimp only; omega) hdata hmax
  exact ⟨hpumped.freeCtr, hpumped.mode, hpumped.placing⟩

end

/-! ### A record that answers on the window path -/

theorem drawsOne_complete {m status : Nat} {res : List Nat} {payload : List Byte} {s : State} (hidle : HostIdle s) (hm : m < 8)
    (hring : (winQ s m 0).ring = 0) (hpay : payload.length ≠ 0) (hmax : payload.length ≤ 1024) :
    DrawsOne s (complete m status res payload s) := by
  have hlen : (payload.take 1984).length = payload.length := by
    rw [List.length_take]
    omega
  have delivered (x : Mailbox) : DrawsOne s (deliver m status payload.length (setMb m x s)) := by
    have hslot : responseSlot (setMb m x s) m = 2048 * (mbSeq (mbOf (setMb m x s) m) % 64) := by
      show (winQ s m 0).ring + _ = _
      rw [hring, Nat.zero_add]
    have hwrite := drawsOne_hostWrite (s := setMb m x s) ⟨hidle.queued, hidle.issued, hidle.port⟩
      (off := responseSlot (setMb m x s) m + 64) (data := getBytes (mbOf (setMb m x s) m).bytes 2112 payload.length)
      (by rwa [getBytes_length]) (by rwa [getBytes_length]) (by rw [hslot, getBytes_length]; omega) (.response m false)
    rw [deliver, if_pos hm, if_neg hpay]
    exact ⟨hwrite.freeCtr, hwrite.mode, hwrite.placing⟩
  rw [complete, hlen]
  exact delivered _

theorem marginRecord_length (x : MarginScan) (tl tr vl vh : Nat) (low : Bool) (cycle : Nat) :
    (marginRecord x tl tr vl vh low cycle).length = 32 := by
  simp [marginRecord, toLE_len, zeros]

/-! ### The end of the scan -/

/-- The scan in progress has ended. -/
def scanEnded (s : State) : State :=
  { s with mem := { s.mem with scanning := none, scanMoved := none, maintAt := s.xng.cycle.toNat } }

/-- The free verdict on a strait lane (R244, R323; assumption log 5). -/
def straitVerdict (s : State) : Bool := (Config.freeValue s.freeCtr).testBit 0

/-- A strait lane's scan has ended with its free verdict. -/
def straitJudged (x : MarginScan) (s : State) : State :=
  if straitVerdict s then marginLow x (scanEnded (drawn s)) else scanEnded (drawn s)

section
variable {x : MarginScan} {s : State}

theorem exec_marginScanDone_strait (hscan : s.mem.scanning = some x) (hidle : ∀ c ∈ s.mem.chans, c.2.busy = false)
    (hkind : x.kind = 2) (hbox : x.mailbox < 16) (tl tr vl vh : Nat) :
    exec (.marginScanDone tl tr vl vh) s = .next (channelsServe (nextScan (complete x.mailbox stOk []
      (marginRecord x tl tr vl vh (straitVerdict s) s.xng.cycle.toNat) (straitJudged x s)))) := by
  have hquiet : (s.mem.chans.any fun c => c.2.busy) = false := List.any_eq_false.2 fun c hc => by simp [hidle c hc]
  have hverdict : marginVerdict x.kind tl tr vl vh s = (drawn s, straitVerdict s) := by
    rw [marginVerdict, hkind]
    rfl
  show execMarginScanDone tl tr vl vh s = _
  rw [execMarginScanDone, hscan]
  dsimp only
  rw [if_neg (by simp [hquiet]), hverdict, if_pos hbox]
  rfl

theorem raise_weightless {code : Nat} (h : weight64 code = 0) (n : Nat) (fs : List (Nat × Nat)) (s : State) :
    raise code n fs s = logOnly code n fs s := if_pos h

/-- Outside TRAIN a strait lane's verdict records an event at most. -/
theorem straitJudged_eq (x : MarginScan) (hmode : s.mode ≠ .train) :
    ∃ log, straitJudged x s = { scanEnded (drawn s) with log := log } := by
  unfold straitJudged
  split
  · have hlow : marginLow x (scanEnded (drawn s)) = raise 0x060A x.target [] (scanEnded (drawn s)) := if_neg hmode
    rw [hlow, raise_weightless (by decide)]
    exact ⟨_, rfl⟩
  · exact ⟨_, rfl⟩

theorem nextScan_outside (hmode : s.mode ≠ .train) : nextScan s = s := if_neg hmode

/-- No request, ring transaction or placement waits for a channel. -/
structure NothingWaits (s : State) : Prop where
  tracked : s.mem.tracked = []
  untracked : s.mem.untracked = []
  txns : s.snd.txns = []
  placing : s.zng.placing = []

theorem channelsServe_freeCtr (h : NothingWaits s) : (channelsServe s).freeCtr = s.freeCtr := by
  have hreleased : releaseTracked s = { s with mem := { s.mem with tracked := [], untracked := [] } } := by
    rw [releaseTracked, h.tracked, h.untracked]
    rfl
  rw [channelsServe, hreleased, retryRing, h.txns, List.foldl_nil, retryPlaces, h.placing]
  rfl

/-- A strait lane's scan that a mailbox of the window path asked for draws its verdict and the tag of the record that answers. -/
theorem marginScanDone_drawsTwice (hscan : s.mem.scanning = some x) (hmode : s.mode ≠ .train)
    (hquiet : ∀ c ∈ s.mem.chans, c.2.busy = false) (hkind : x.kind = 2) (hbox : x.mailbox < 8)
    (hring : (winQ s x.mailbox 0).ring = 0) (hidle : HostIdle s) (hwaits : NothingWaits s) (tl tr vl vh : Nat) :
    ∃ t, exec (.marginScanDone tl tr vl vh) s = .next t ∧ t.freeCtr = s.freeCtr + 2 := by
  refine ⟨_, exec_marginScanDone_strait hscan hquiet hkind (by omega) tl tr vl vh, ?_⟩
  obtain ⟨log, hjudged⟩ := straitJudged_eq x hmode
  generalize hv : straitJudged x s = v at hjudged ⊢
  have hrecord := marginRecord_length x tl tr vl vh (straitVerdict s) s.xng.cycle.toNat
  generalize marginRecord x tl tr vl vh (straitVerdict s) s.xng.cycle.toNat = record at hrecord ⊢
  obtain ⟨hctr, hsame, hplacing⟩ := drawsOne_complete (status := stOk) (res := []) (payload := record) (s := v) (m := x.mailbox)
    (by rw [hjudged]; exact ⟨hidle.queued, hidle.issued, hidle.port⟩) hbox (by rw [hjudged]; exact hring) (by omega) (by omega)
  have hout := outward_complete x.mailbox stOk [] record v
  generalize complete x.mailbox stOk [] record v = w at hctr hsame hplacing hout ⊢
  have houtside : w.mode ≠ .train := by rw [hsame, hjudged]; exact hmode
  have hnothing : NothingWaits w := by
    have hmem : w.mem = v.mem := by rw [hout]
    have hsnd : w.snd = v.snd := by rw [hout]
    refine ⟨?_, ?_, ?_, ?_⟩
    · rw [hmem, hjudged]; exact hwaits.tracked
    · rw [hmem, hjudged]; exact hwaits.untracked
    · rw [hsnd, hjudged]; exact hwaits.txns
    · rw [hplacing, hjudged]; exact hwaits.placing
  rw [nextScan_outside houtside, channelsServe_freeCtr hnothing, hctr, hjudged]
  rfl

end

/-- A module in READY whose port 0 carries keys, with the scan of strait lane 0 that mailbox 0 of the window path asked for. -/
def windowScan : State :=
  { State.reset with
    mode := .ready
    mem := { scanning := some { kind := 2, dir := 0, target := 0, mailbox := 0 } }
    zng := { ports := [(0, { phase := .active })] } }

/-- Refutes O25: the end of a strait lane's scan is said to draw one free value, its verdict; in `windowScan` the record that answers
mailbox 0 leaves on port 0 under a tag, and that is a second one. -/
theorem not_channelsAndMargins : ¬ Obligations.ChannelsAndMargins := by
  unfold Obligations.ChannelsAndMargins
  intro h
  obtain ⟨-, -, hscans⟩ := h
  have hmode : windowScan.mode ≠ .train := by decide
  have hquiet : ∀ c ∈ windowScan.mem.chans, c.2.busy = false := fun c hc => absurd hc List.not_mem_nil
  obtain ⟨-, -, hstrait⟩ := hscans { kind := 2, dir := 0, target := 0, mailbox := 0 } 0 0 0 0 windowScan rfl hmode
  obtain ⟨t, hexec, hone, -⟩ := hstrait hquiet rfl
  obtain ⟨u, hexec', htwo⟩ := marginScanDone_drawsTwice (s := windowScan) rfl hmode hquiet rfl (by decide) rfl
    ⟨rfl, rfl, by decide⟩ ⟨rfl, rfl, rfl, rfl⟩ 0 0 0 0
  obtain rfl : t = u := Host.Outcome.next.inj (hexec.symm.trans hexec')
  omega

end Sys2Proof.Machine
end

section
/-! The context commands (R253, R261, R264, Table 9.5): what each does to its context once it is taken, on either path. -/

namespace Sys2Proof.Machine

/-- A region command that has been taken answers with its own effect (R261). -/
theorem next_regionCommand {op a b : Nat} {via : Via} {s u t : State} {act : RegionAct} (h : RgnEntered op via s a b u)
    (ht : act via a b u = t) : (Host.Outcome.next (regionCommand op via act s) : Host.Outcome State Fault Refusal) = .next t :=
  congrArg _ ((regionCommand_entered h).trans ht)

/-! ### The contexts given out and taken back -/

section
variable {via : Via} {a b : Nat} {s : State}

theorem allocCtx_zero : allocCtx via 0 b s = finishRgn via stDenied 0 s := by
  unfold allocCtx
  rw [if_neg (by decide), if_pos rfl]

/-- ALLOC_CTX of a context that it names. -/
theorem allocCtx_named (hmin : 1 ≤ a) (hmax : a < 65536) :
    allocCtx via a b s =
      if (ctx s a).state = .free then finishRgn via stOk a (setCtx a { state := .ready } s) else finishRgn via stState 0 s := by
  unfold allocCtx
  rw [if_neg (by omega), if_neg (by omega), if_neg (by omega), ite_not]

/-- The contexts that are FREE. -/
def freeCtxs (s : State) : List Nat := (List.range 65536).filter fun c => (ctx s c).state == .free

theorem mem_freeCtxs {c : Nat} : c ∈ freeCtxs s ↔ c < 65536 ∧ (ctx s c).state = .free := by
  rw [freeCtxs, List.mem_filter, List.mem_range, beq_iff_eq]

/-- ALLOC_CTX of any context takes the one that a free value picks. -/
theorem allocCtx_any : allocCtx via 0xFFFFFFFF b s =
    (pickFree s (freeCtxs s)).elim (finishRgn via stNoResource 0 s) fun c =>
      finishRgn via stOk c (setCtx c { state := .ready } (drawn s)) := by
  unfold allocCtx
  rw [if_pos rfl, ← freeCtxs]
  cases pickFree s (freeCtxs s) <;> rfl

theorem freeCtx_zero : freeCtx via 0 b s = finishRgn via stDenied 0 s := if_pos rfl

theorem freeCtx_notReady (hzero : a ≠ 0) (hstate : (ctx s a).state ≠ .ready) : freeCtx via a b s = finishRgn via stState 0 s :=
  (if_neg hzero).trans (if_pos (.inl hstate))

/-- FREE_CTX of a READY context that no queue and no image slot uses: its regions are dropped and it is as if never allocated. -/
theorem freeCtx_unused (hzero : a ≠ 0) (hstate : (ctx s a).state = .ready) (hqueue : queueOn s a = false)
    (hslotA : slotHolds s.ttu.slotA a = false) (hslotB : slotHolds s.ttu.slotB a = false) :
    freeCtx via a b s = finishRgn via stOk 0 (setCtx a (ctxDefault a)
      ((regionList s a).foldl (fun s r => dropRegion a r s) s)) := by
  unfold freeCtx
  rw [if_neg hzero, if_neg]
  simp [hstate, hqueue, hslotA, hslotB]

end

/-! ### The first place at which a list holds an element -/

section
variable {α : Type} [BEq α] [LawfulBEq α] {x : α}

theorem findIdx?_eq_none {l : List α} (h : x ∉ l) (n : Nat) : findIdx? (· == x) l n = none := by
  induction l generalizing n with
  | nil => rfl
  | cons y l ih =>
    obtain ⟨hne, hrest⟩ := List.ne_and_not_mem_of_not_mem_cons h
    rw [findIdx?, if_neg (by simpa using Ne.symm hne), ih hrest]

theorem findIdx?_append_cons {pre : List α} (h : x ∉ pre) (post : List α) (n : Nat) :
    findIdx? (· == x) (pre ++ x :: post) n = some (n + pre.length) := by
  induction pre generalizing n with
  | nil => rw [List.nil_append, findIdx?, if_pos (beq_self_eq_true x), List.length_nil, Nat.add_zero]
  | cons y pre ih =>
    obtain ⟨hne, hrest⟩ := List.ne_and_not_mem_of_not_mem_cons h
    rw [List.cons_append, findIdx?, if_neg (by simpa using Ne.symm hne), ih hrest, List.length_cons]
    congr 1
    omega

end

/-! ### The groups of a context -/

section
variable {via : Via} {c g : Nat} {s : State}

/-- JOIN_GROUP of a context that is not FREE: a group that it holds is held still, and another takes the first free slot. -/
theorem joinGroup_eq (hc : c < 65536) (hg : g < 1024) (hstate : (ctx s c).state ≠ .free) :
    joinGroup via c g s =
      if (groupsOf s c).contains g then finishRgn via stOk 0 s
      else (findIdx? (· == 0xFFFF#16) (ctx s c).groups 0).elim (finishRgn via stNoResource 0 s) fun i =>
        if (regionList s (65536 + g)).any fun r => (heldRegions s c).any fun x => overlaps r.base r.bytes x.base x.bytes then
          finishRgn via stBadArg 0 s
        else finishRgn via stOk 0 (setCtx c { ctx s c with groups := (ctx s c).groups.set i (BitVec.ofNat 16 g) } s) := by
  unfold joinGroup
  rw [if_neg (by omega), if_neg hstate]
  refine ite_congr rfl (fun _ => rfl) fun _ => ?_
  cases findIdx? (· == 0xFFFF#16) (ctx s c).groups 0 <;> rfl

variable (hc : c < 65536) (hg : g < 1024) (hstate : (ctx s c).state ≠ .free)
include hc hg hstate

theorem joinGroup_held (hheld : g ∈ groupsOf s c) : joinGroup via c g s = finishRgn via stOk 0 s := by
  rw [joinGroup_eq hc hg hstate, if_pos (List.contains_iff_mem.2 hheld)]

theorem joinGroup_full (hheld : g ∉ groupsOf s c) (hfull : 0xFFFF#16 ∉ (ctx s c).groups) :
    joinGroup via c g s = finishRgn via stNoResource 0 s := by
  rw [joinGroup_eq hc hg hstate, if_neg (by simpa using hheld), findIdx?_eq_none hfull]
  rfl

/-- The first free slot takes the group, where no region of the group overlaps one that the context holds. -/
theorem joinGroup_slot {pre post : List (BitVec 16)} (hheld : g ∉ groupsOf s c)
    (hslots : (ctx s c).groups = pre ++ 0xFFFF#16 :: post) (hpre : 0xFFFF#16 ∉ pre)
    (hclear : ∀ r ∈ regionList s (65536 + g), ∀ x ∈ heldRegions s c, overlaps r.base r.bytes x.base x.bytes = false) :
    joinGroup via c g s = finishRgn via stOk 0 (setCtx c { ctx s c with groups := pre ++ BitVec.ofNat 16 g :: post } s) := by
  have hnone : ¬ ((regionList s (65536 + g)).any fun r => (heldRegions s c).any fun x =>
      overlaps r.base r.bytes x.base x.bytes) = true := by
    simpa only [List.any_eq_true, not_exists, not_and, Bool.not_eq_true] using hclear
  have hset : (pre ++ 0xFFFF#16 :: post).set pre.length (BitVec.ofNat 16 g) = pre ++ BitVec.ofNat 16 g :: post := by
    rw [List.set_append_right _ _ (Nat.le_refl _), Nat.sub_self, List.set_cons_zero]
  rw [joinGroup_eq hc hg hstate, if_neg (by simpa using hheld), hslots, findIdx?_append_cons hpre, Nat.zero_add, Option.elim_some,
    if_neg hnone, hset]

end

/-- LEAVE_GROUP clears every slot that names the group, where none of its regions is busy. -/
theorem leaveGroup_idle {via : Via} {c g : Nat} {s : State} (hc : c < 65536) (hg : g < 1024)
    (hidle : ∀ r ∈ regionList s (65536 + g), regionBusy s (65536 + g) r = false) :
    leaveGroup via c g s = finishRgn via stOk 0 (setCtx c { ctx s c with
      groups := (ctx s c).groups.map fun x => if x.toNat = g then 0xFFFF#16 else x } s) := by
  have hnone : ¬ (regionList s (65536 + g)).any (regionBusy s (65536 + g)) = true := by simpa using hidle
  unfold leaveGroup
  rw [if_neg (by omega), if_neg hnone]
  rfl

/-- Settles O26: each command's effect on the context that its arguments name, by its checks. -/
theorem contextCommands : Obligations.ContextCommands := by
  unfold Obligations.ContextCommands
  intro via s u a b
  refine ⟨fun h => ⟨?zero, ?named, ?any, ?none⟩, fun h => ⟨?freeZero, ?notReady, ?unused⟩,
    fun h hc hg hstate => ⟨?held, ?full, ?slot⟩, fun h hc hg hidle => next_regionCommand h (leaveGroup_idle hc hg hidle)⟩
  case zero =>
    rintro rfl
    exact next_regionCommand h allocCtx_zero
  case named => exact fun hmin hmax => next_regionCommand h (allocCtx_named hmin hmax)
  case any =>
    rintro rfl ⟨c, hc, hfree⟩
    obtain ⟨d, hd, hpick⟩ := pickFree_some u (freeCtxs u) (List.ne_nil_of_mem (mem_freeCtxs.2 ⟨hc, hfree⟩))
    obtain ⟨hlt, hdfree⟩ := mem_freeCtxs.1 hd
    refine ⟨d, hlt, hdfree, next_regionCommand h ?_⟩
    rw [allocCtx_any, hpick, Option.elim_some]
  case none =>
    rintro rfl htaken
    have hempty : freeCtxs u = [] := List.eq_nil_iff_forall_not_mem.2 fun c hc =>
      absurd (mem_freeCtxs.1 hc).2 (htaken c (mem_freeCtxs.1 hc).1)
    refine next_regionCommand h ?_
    rw [allocCtx_any, hempty, pickFree_nil, Option.elim_none]
  case freeZero =>
    rintro rfl
    exact next_regionCommand h freeCtx_zero
  case notReady => exact fun hzero hnot => next_regionCommand h (freeCtx_notReady hzero hnot)
  case unused =>
    exact fun hzero hready hqueue hslotA hslotB => next_regionCommand h (freeCtx_unused hzero hready hqueue hslotA hslotB)
  case held => exact fun hheld => next_regionCommand h (joinGroup_held hc hg hstate hheld)
  case full => exact fun hheld hfull => next_regionCommand h (joinGroup_full hc hg hstate hheld hfull)
  case slot =>
    exact fun pre post hheld hslots hpre hclear =>
      next_regionCommand h (joinGroup_slot hc hg hstate hheld hslots hpre hclear)

end Sys2Proof.Machine
end

section
/-! ADD_REGION, REMOVE_REGION and UNPIN (R256, R257, R261 to R263). -/

namespace Sys2Proof.Machine

section
variable {via : Via} {owner base : Nat} {s : State}

/-! ### Adding -/

section
variable {bs : List Byte}

/-- A descriptor that keeps its layout, clashes with no region and whose pages may be claimed, of an owner that is there. -/
structure Addable (s : State) (owner : Nat) (bs : List Byte) : Prop where
  owned : owner < 65536 → (ctx s owner).state ≠ .free
  layout : descriptorOk s owner bs = true
  apart : regionClash s owner (parseRegionD bs) = false
  pages : ∀ p ∈ (if (parseRegionD bs).kind = 1 then [] else pagesOf (parseRegionD bs).base (parseRegionD bs).bytes),
    claimable s owner p = true

/-- What is left to an addable descriptor: the list is full, or it enters the list, pinned afterwards if BACKED and PINNED. -/
theorem addRegionD_addable (h : Addable s owner bs) :
    addRegionD via owner bs false s =
      if 256 ≤ (regionList s owner).length then finishRgn via stNoResource 0 s
      else
        let pin := (parseRegionD bs).kind == 2 && (parseRegionD bs).flags.testBit 0
        let r := if pin then { parseRegionD bs with flags := (parseRegionD bs).flags - 1 } else parseRegionD bs
        let t := regionChanged owner 3 r.base (claimPages owner r (setList owner (insertRegion r (regionList s owner)) s))
        if pin then advanceRegion { t with rgn := { t.rgn with job := some ⟨via, 5, owner, r.base, t.now⟩ } }
        else finishRgn via stOk 0 t := by
  obtain ⟨howned, hlayout, hapart, hpages⟩ := h
  unfold addRegionD
  rw [if_neg fun hfree => howned hfree.1 hfree.2, if_neg (by simp [hlayout, hapart]),
    if_neg (by simpa only [Bool.not_eq_true', Bool.not_eq_false, List.all_eq_true] using hpages)]

theorem addRegionD_full (h : Addable s owner bs) (hfull : 256 ≤ (regionList s owner).length) :
    addRegionD via owner bs false s = finishRgn via stNoResource 0 s :=
  (addRegionD_addable h).trans (if_pos hfull)

theorem addRegionD_entered (h : Addable s owner bs) (hroom : (regionList s owner).length < 256)
    (hplain : (parseRegionD bs).kind = 2 → (parseRegionD bs).flags.testBit 0 = false) :
    addRegionD via owner bs false s = finishRgn via stOk 0 (regionChanged owner 3 (parseRegionD bs).base
      (claimPages owner (parseRegionD bs) (setList owner (insertRegion (parseRegionD bs) (regionList s owner)) s))) := by
  have hpin : ((parseRegionD bs).kind == 2 && (parseRegionD bs).flags.testBit 0) = false := by
    by_cases hkind : (parseRegionD bs).kind = 2
    · rw [hplain hkind, Bool.and_false]
    · rw [beq_false_of_ne hkind, Bool.false_and]
  rw [addRegionD_addable h, if_neg (Nat.not_le.2 hroom), hpin]
  rfl

/-- ADD_REGION judges the descriptor that its path carries: the mailbox's own bytes, or those read at its address. -/
theorem addRegion_eq {u v : State} {b : Nat}
    (hread : (∃ m, via = .mailbox m ∧ v = u ∧ bs = getBytes (mbOf u m).bytes 16 32)
      ∨ (via = .register ∧ readMem whoEngine b 32 u = (v, bs, false))) :
    addRegion via owner b u = addRegionD via owner bs false v := by
  rcases hread with ⟨m, rfl, rfl, rfl⟩ | ⟨rfl, hread⟩
  · rfl
  · unfold addRegion
    rw [hread]

end

/-! ### Removing and unpinning -/

theorem removeRegion_absent (h : regionAt s owner base = none) : removeRegion via owner base s = finishRgn via stBadArg 0 s := by
  unfold removeRegion
  rw [h]

theorem removeRegion_present {r : RegionD} (h : regionAt s owner base = some r) :
    removeRegion via owner base s =
      if regionBusy s owner r then finishRgn via stState 0 s else finishRgn via stOk 0 (dropRegion owner r s) := by
  unfold removeRegion
  rw [h]

theorem unpinRegion_present {r : RegionD} (h : regionAt s owner base = some r) :
    unpinRegion via owner base s =
      if regionBusy s owner r ∨ r.flags.testBit 2 = true then finishRgn via stState 0 s
      else finishRgn via stOk 0 (regionChanged owner 6 base (setPinned owner r false s)) := by
  unfold unpinRegion
  rw [h]
  exact ite_congr (Bool.or_eq_true _ _) (fun _ => rfl) fun _ => rfl

end

/-- Settles O27: the descriptor that ADD_REGION was given enters the list of an owner with room in it, and REMOVE_REGION and UNPIN
answer by the region that stands at BASE. -/
theorem regionCommands : Obligations.RegionCommands := by
  unfold Obligations.RegionCommands
  intro via s u a b
  refine ⟨?add, fun h => ⟨fun habsent => ?absent, fun r hpresent => ?present⟩, fun h r hpresent => ?unpin⟩
  case add =>
    intro v bs h hread r howned hlayout hapart hpages
    have haddable : Addable v a bs := ⟨howned, hlayout, hapart, hpages⟩
    exact ⟨fun hfull => next_regionCommand h ((addRegion_eq hread).trans (addRegionD_full haddable hfull)),
      fun hroom hplain => next_regionCommand h ((addRegion_eq hread).trans (addRegionD_entered haddable hroom hplain))⟩
  case absent => exact next_regionCommand h (removeRegion_absent habsent)
  case present => exact next_regionCommand h (removeRegion_present hpresent)
  case unpin => exact next_regionCommand h (unpinRegion_present hpresent)

end Sys2Proof.Machine
end

section
/-! Pages that move (R261, R267, R269, R270, R274, R276): PIN and EVICT by the residency of their pages, the end of a migration, and
the decay of the counts of absent pages. -/

namespace Sys2Proof.Machine

section
variable {via : Via} {owner base : Nat} {s : State} {r : RegionD}

/-- A region command in progress (R261). -/
def withJob (j : RgnJob) (s : State) : State := { s with rgn := { s.rgn with job := some j } }

/-! ### PIN -/

theorem regionAt_base (h : regionAt s owner base = some r) : r.base = base := by
  simpa using List.find?_some h

/-- Pages that are all RESIDENT start no migration. -/
theorem pinPages_resident (h : ∀ p ∈ pagesOf r.base r.bytes, (tag s p).res = .resident) : pinPages r s = s := by
  unfold pinPages
  generalize pagesOf r.base r.bytes = pages at h ⊢
  induction pages with
  | nil => rfl
  | cons p ps ih =>
    obtain ⟨hp, hps⟩ := List.forall_mem_cons.1 h
    rw [List.foldl_cons, if_neg fun habsent => absurd (hp.symm.trans habsent.1) (by decide)]
    exact ih hps

/-- A PIN ends where every page is RESIDENT. -/
theorem pinStep_resident {j : RgnJob} (hregion : regionAt s j.owner j.base = some r)
    (h : ∀ p ∈ pagesOf r.base r.bytes, (tag s p).res = .resident) :
    pinStep j s = finishRgn j.via stOk 0 (regionChanged j.owner 5 j.base (setPinned j.owner r true s)) := by
  have hall : ((pagesOf r.base r.bytes).all fun p => (tag s p).res == .resident) = true := by simpa using h
  unfold pinStep
  rw [hregion]
  dsimp only
  rw [pinPages_resident h, if_pos hall, regionAt_base hregion]

/-- PIN of a region of module memory is a job, which goes on at once. -/
theorem pinRegion_present (hregion : regionAt s owner base = some r) (hkind : r.kind ≠ 1) :
    pinRegion via owner base s = pinStep ⟨via, 5, owner, base, s.now⟩ (withJob ⟨via, 5, owner, base, s.now⟩ s) := by
  unfold pinRegion
  rw [hregion]
  exact if_neg hkind

/-! ### EVICT -/

/-- A MIGRATING region of the owner, not pinned, that holds the address. -/
def evictable (s : State) (owner a : Nat) : Option RegionD :=
  (regionList s owner).find? fun r => r.kind == 2 && !r.flags.testBit 0 && within a 1 r.base r.bytes

/-- EVICT in an evictable region: a locked page refuses it, and of another it is a job, which goes on at once. -/
theorem evictPage_evictable (h : evictable s owner base = some r) :
    evictPage via owner base s =
      if (tag s (pageOf base)).lock then finishRgn via stState 0 s
      else evictStep ⟨via, 7, owner, base, s.now⟩ (withJob ⟨via, 7, owner, base, s.now⟩ s) := by
  unfold evictPage
  rw [← evictable, h]
  rfl

variable {j : RgnJob} (hentry : entryOf s (pageOf j.base) = none)
include hentry

/-- An EVICT of an ABSENT page is at its end. -/
theorem evictStep_absent (h : (tag s (pageOf j.base)).res = .absent) : evictStep j s = finishRgn j.via stOk 0 s := by
  unfold evictStep
  dsimp only
  rw [hentry]
  exact if_pos h

/-- An EVICT of a page that no work covers starts its write-back in the entry that is picked. -/
theorem evictStep_starts {e : Nat} (hres : (tag s (pageOf j.base)).res ≠ .absent)
    (huse : pageOf j.base ∉ pagesInUse s fun _ => true) (hring : ringBusy s (pageOf j.base) = false) (hfree : freeEntry s = some e) :
    evictStep j s = startEvict e (pageOf j.base) s := by
  have hidle : ¬ ((pagesInUse s fun _ => true).contains (pageOf j.base) || ringBusy s (pageOf j.base)) = true := by
    simpa [hring] using huse
  unfold evictStep
  dsimp only
  rw [hentry]
  dsimp only
  rw [if_neg hres, if_neg hidle, hfree]

end

/-! ### PAGE_MIGRATED -/

/-- PAGE_MIGRATED ends a migration whose bytes have all come, and does nothing to another entry in use. -/
theorem exec_pageMigrated_entry {e : Nat} {c : CoEntry} {s : State} (h : coEntry s e = some c) :
    exec (.pageMigrated e) s =
      if c.evict = false ∧ c.begun = true ∧ 2 ^ 21 ≤ c.moved then .next (afterPage (endMigration e c s)) else .next s := by
  change execPageMigrated e s = _
  unfold execPageMigrated
  rw [h]

/-! ### COUNT_DECAY -/

theorem nodup_eraseDups (l : List Nat) : l.eraseDups.Nodup := by
  match l with
  | [] => exact List.nodup_nil
  | a :: l =>
    rw [List.eraseDups_cons, List.nodup_cons]
    exact ⟨by simp [List.mem_eraseDups], nodup_eraseDups _⟩
termination_by l.length
decreasing_by exact Nat.lt_succ_of_le (List.length_filter_le _ _)

/-- A sparse array reads as its default under a key that it does not list. -/
theorem look_unlisted {α : Type} (d : α) {m : SMap α} {k : Nat} (h : k ∉ m.map (·.1)) : look d m k = d := by
  induction m with
  | nil => rfl
  | cons p m ih =>
    obtain ⟨hne, hrest⟩ := List.ne_and_not_mem_of_not_mem_cons h
    exact (if_neg (Ne.symm hne)).trans (ih hrest)

theorem tagDefault_res (p : Nat) : (tagDefault p).res ≠ .absent := by
  unfold tagDefault
  split <;> decide

section
variable {s : State}

/-- The pages that are ABSENT. -/
def absentPages (s : State) : List Nat := ((s.rgn.tags.map (·.1)).eraseDups).filter fun p => (tag s p).res == .absent

/-- A page is ABSENT only by a tag that is listed. -/
theorem mem_absentPages {p : Nat} : p ∈ absentPages s ↔ (tag s p).res = .absent := by
  have hlisted (habsent : (tag s p).res = .absent) : p ∈ s.rgn.tags.map (·.1) := by
    by_contra hnone
    exact tagDefault_res p (look_unlisted (tagDefault p) hnone ▸ habsent)
  rw [absentPages, List.mem_filter, List.mem_eraseDups, beq_iff_eq]
  exact ⟨fun h => h.2, fun h => ⟨hlisted h, h⟩⟩

theorem nodup_absentPages : (absentPages s).Nodup := (nodup_eraseDups _).filter _

/-- Time passes to the interval's end, and the decay is noted there. -/
def decayNoted (s : State) : State :=
  let t := passNow (s.rgn.lastDecay + 2 ^ (s.rgn.decay.toNat + 20)) s
  { t with rgn := { t.rgn with lastDecay := t.now } }

/-- The tags are as they were when the decay is noted. -/
theorem decayNoted_eq (s : State) : decayNoted s =
    { passNow (s.rgn.lastDecay + 2 ^ (s.rgn.decay.toNat + 20)) s with
      rgn := { s.rgn with lastDecay := max s.now (s.rgn.lastDecay + 2 ^ (s.rgn.decay.toNat + 20)) } } := by
  unfold decayNoted
  dsimp only
  rw [passNow_rgn, passNow_now]

/-- A tag's count halved (R274). -/
def halveCount (t : Tag) : Tag := { t with count := t.count / 2 }

theorem exec_countDecay_on (h : s.rgn.decay ≠ 0) :
    exec .countDecay s = .next (setTags halveCount (absentPages s) (decayNoted s)) := by
  have htags : absentPages (passNow (s.rgn.lastDecay + 2 ^ (s.rgn.decay.toNat + 20)) s) = absentPages s := by
    simp only [absentPages, tag, passNow_rgn]
  rw [← htags]
  exact if_neg h

end

/-- Settles O28: PIN and EVICT go on at once from what their pages' tags say, and the decay reaches exactly the absent pages. -/
theorem pagesMove : Obligations.PagesMove := by
  unfold Obligations.PagesMove
  refine ⟨fun via s u a b r => ⟨fun h hregion hkind hres => ?pin, fun h hregion => ⟨fun hlock => ?locked,
    fun hlock hentry hres => ?absent, fun e hlock hentry hres huse hring hfree => ?starts⟩⟩,
    fun s => ⟨fun e c hc hevict hbegun hmoved => ?migrated, fun e c hc hwaits => ?waits, fun hdecay => if_pos hdecay,
      fun hdecay => ?decay⟩⟩
  case pin => exact next_regionCommand h ((pinRegion_present hregion hkind).trans (pinStep_resident hregion hres))
  case locked => exact next_regionCommand h ((evictPage_evictable hregion).trans (if_pos hlock))
  case absent =>
    refine next_regionCommand h ((evictPage_evictable hregion).trans ?_)
    rw [if_neg (by rw [hlock]; decide)]
    exact evictStep_absent hentry hres
  case starts =>
    refine next_regionCommand h ((evictPage_evictable hregion).trans ?_)
    rw [if_neg (by rw [hlock]; decide)]
    exact evictStep_starts hentry (by intro habsent; cases hres.symm.trans habsent) huse hring hfree
  case migrated => rw [exec_pageMigrated_entry hc, if_pos ⟨hevict, hbegun, hmoved⟩]
  case waits =>
    rw [exec_pageMigrated_entry hc, if_neg]
    rintro ⟨hevict, hbegun, hmoved⟩
    rcases hwaits with h | h | h
    · exact absurd (hevict.symm.trans h) (by decide)
    · exact absurd (hbegun.symm.trans h) (by decide)
    · omega
  case decay =>
    have hkeeps := setTags_only halveCount (absentPages s) (decayNoted s)
    have hnoted (p : Nat) : tag (decayNoted s) p = tag s p := by rw [decayNoted_eq]; rfl
    refine ⟨_, exec_countDecay_on hdecay, ?_, fun p => ?_, ?_, ?_⟩
    · rw [hkeeps, decayNoted_eq]
    · rw [tag_setTags _ _ _ nodup_absentPages, hnoted]
      simp only [mem_absentPages]
      rfl
    · rw [hkeeps, decayNoted_eq]
      exact passNow_mem _ _
    · rw [hkeeps, decayNoted_eq]
      exact passNow_log _ _

end Sys2Proof.Machine
end

section
/-! Accesses of the mainland's harts outside the homes (R275, R282 to R284, R288): which part of Table 10.3 an access falls in, what
that part does with it, and the order of a hart's uncached accesses. -/

namespace Sys2Proof.Machine

/-- A hart runs where the module has power, has ended bring-up stage 6 and has the hart (R279, R431, R444). -/
theorem hartRuns_released {s : State} {h : Nat} (hpower : s.pwr.good = true) (hstage : 7 ≤ s.hbr.stage) (hmember : h < 128) :
    hartRuns s h = true := by
  simp [hartRuns, hpower, hstage, hmember]

/-- The access as it leaves its hart: under the context that the hart's requests carry (R284). -/
def inContext (acc : CAccess) (s : State) : CAccess := { acc with ctx := hartCtx s acc.hart }

/-- No uncached access of the hart has still to be performed (R283). -/
def ioFree (s : State) (h : Nat) : Prop := hartStalled s h = false ∧ (hartOf s h).io = []

/-! ### Commands and the accesses that they make -/

section
variable (h a n : Nat) (bs : List Byte) (k : AccKind) (va : Word64) (victim : Option Nat) (s : State)

theorem exec_load : exec (.load h a n k va victim) s =
    .next (coreAccess { hart := h, ctx := 0, addr := a, write := none, size := n, kind := k, va := va } victim s) := rfl

theorem exec_store : exec (.store h a bs k va victim) s =
    .next (coreAccess { hart := h, ctx := 0, addr := a, write := some bs, size := bs.length, kind := k, va := va } victim s) := rfl

theorem exec_cboClean : exec (.cboClean h a va) s = .next (cboLine h a .clean va s) := rfl
theorem exec_cboFlush : exec (.cboFlush h a va) s = .next (cboLine h a .flush va s) := rfl
theorem exec_cboInval (permit : Bool) :
    exec (.cboInval h a va permit) s = .next (cboLine h a (if permit then .inval else .flush) va s) := rfl

variable {a} in
theorem exec_hostWindowAccess_load (ha : isHost a = true) : exec (.hostWindowAccess h a n va none) s =
    .next (coreAccess { hart := h, ctx := 0, addr := a, write := none, size := n, va := va } none s) := if_pos ha

end

section
variable {acc : CAccess} {victim : Option Nat} {s : State}

theorem isPrefetch_eq_false (h : ∀ trigger, acc.kind ≠ .prefetch trigger) : isPrefetch acc = false := by
  unfold isPrefetch
  split
  · exact absurd ‹_› (h _)
  · rfl

/-! ### The order of a hart's uncached accesses (R283) -/

theorem ioAccess_free (hfree : ioFree s acc.hart) : ioAccess acc s = ioPerform acc s := by
  obtain ⟨hstalled, hio⟩ := hfree
  simp [ioAccess, hstalled, hio]

theorem ioAccess_behind (hbusy : ¬ ioFree s acc.hart) :
    ioAccess acc s = drainIo ((hartOf s acc.hart).io.length + 1) acc.hart
      (setHart acc.hart { hartOf s acc.hart with io := (hartOf s acc.hart).io ++ [acc] } s) := by
  refine if_neg fun hnow => hbusy ?_
  simpa [ioFree, and_comm] using hnow

@[simp] theorem hartStalled_setHart (g h : Nat) (x : Hart) (s : State) : hartStalled (setHart g x s) h = hartStalled s h := rfl

theorem drainIo_stalled {h : Nat} (hstalled : hartStalled s h = true) (n : Nat) : drainIo (n + 1) h s = s := if_pos hstalled

/-! ### The parts of the address map (Table 10.3) -/

theorem isHome_eq_false {a : Nat} (ha : 0xA0000000000 ≤ a) : isHome a = false := decide_eq_false (by omega)

theorem home_le_of_isHost {a : Nat} (ha : isHost a = true) : 0xA0000000000 ≤ a := by
  simp only [isHost, Bool.and_eq_true, decide_eq_true_eq] at ha
  omega

theorem isRegSpace_eq_true {a : Nat} (hlow : 0xF00000000000 ≤ a) (hhigh : a < 0x1000000000000) : isRegSpace a = true := by
  simp [isRegSpace, hlow, hhigh]

theorem isRegSpace_eq_false {a : Nat} (ha : a < 0xF00000000000) : isRegSpace a = false := by
  simp only [isRegSpace, Bool.and_eq_false_iff, decide_eq_false_iff_not]
  omega

theorem isHost_eq_false_of_regSpace {a : Nat} (ha : 0xF00000000000 ≤ a) : isHost a = false := by
  simp only [isHost, Bool.and_eq_false_iff, decide_eq_false_iff_not]
  omega

/-- What a running hart's access outside the homes does. -/
theorem coreAccess_outside (hruns : hartRuns s acc.hart = true) (ha : 0xA0000000000 ≤ acc.addr) :
    coreAccess acc victim s =
      if isPrefetch acc then s
      else if isHost acc.addr || isRegSpace acc.addr then ioAccess (inContext acc s) s else hartFault (inContext acc s) 0 s := by
  simp only [coreAccess, hruns, isHome_eq_false ha, if_true, Bool.false_eq_true, if_false]
  rfl

section
variable (hruns : hartRuns s acc.hart = true)
include hruns

theorem coreAccess_prefetch_outside (ha : 0xA0000000000 ≤ acc.addr) (hpre : isPrefetch acc = true) : coreAccess acc victim s = s :=
  (coreAccess_outside hruns ha).trans (if_pos hpre)

variable (hdemand : isPrefetch acc = false)
include hdemand

theorem coreAccess_unmapped (ha : 0xA0000000000 ≤ acc.addr) (hhost : isHost acc.addr = false) (hregs : acc.addr < 0xF00000000000) :
    coreAccess acc victim s = hartFault (inContext acc s) 0 s := by
  simp [coreAccess_outside hruns ha, hdemand, hhost, isRegSpace_eq_false hregs]

theorem coreAccess_window (ha : isHost acc.addr = true) : coreAccess acc victim s = ioAccess (inContext acc s) s := by
  simp [coreAccess_outside hruns (home_le_of_isHost ha), hdemand, ha]

theorem coreAccess_window_free (ha : isHost acc.addr = true) (hfree : ioFree s acc.hart) :
    coreAccess acc victim s = windowAccess (inContext acc s) s :=
  (coreAccess_window hruns hdemand ha).trans ((ioAccess_free (acc := inContext acc s) hfree).trans (if_pos ha))

theorem coreAccess_window_behind (ha : isHost acc.addr = true) (hbusy : ¬ ioFree s acc.hart) :
    coreAccess acc victim s = drainIo ((hartOf s acc.hart).io.length + 1) acc.hart
      (setHart acc.hart { hartOf s acc.hart with io := (hartOf s acc.hart).io ++ [inContext acc s] } s) :=
  (coreAccess_window hruns hdemand ha).trans (ioAccess_behind (acc := inContext acc s) hbusy)

theorem coreAccess_registers_free (hlow : 0xF00000000000 ≤ acc.addr) (hhigh : acc.addr < 0x1000000000000)
    (hfree : ioFree s acc.hart) : coreAccess acc victim s = regAccess (inContext acc s) s := by
  have hnotHost : isHost acc.addr = false := isHost_eq_false_of_regSpace hlow
  have hio : coreAccess acc victim s = ioAccess (inContext acc s) s := by
    simp [coreAccess_outside hruns (by omega), hdemand, isRegSpace_eq_true hlow hhigh]
  exact hio.trans ((ioAccess_free (acc := inContext acc s) hfree).trans (if_neg (by simp [inContext, hnotHost])))

end

/-! ### Register space: 8 bytes, naturally aligned (R282, R283) -/

theorem regAccess_notPlain (hplain : plainAccess acc = false) : regAccess acc s = hartFault acc 0 s := by
  simp [regAccess, hplain]

theorem regAccess_misshapen (hplain : plainAccess acc = true) (hshape : acc.size ≠ 8 ∨ acc.addr % 8 ≠ 0) :
    regAccess acc s = hartFault acc 6 s := by
  simp [regAccess, hplain, hshape]

section
variable (hplain : plainAccess acc = true) (hsize : acc.size = 8) (halign : acc.addr % 8 = 0)
include hplain hsize halign

theorem regAccess_load (hload : acc.write = none) : regAccess acc s =
    emit (.loaded acc.hart acc.addr (toLE 8 (readReg s (acc.addr - 0xF00000000000)).toNat)) s := by
  simp [regAccess, hplain, hsize, halign, hload]

theorem regAccess_store {bs : List Byte} (hstore : acc.write = some bs) :
    regAccess acc s = writeReg (acc.addr - 0xF00000000000) (BitVec.ofNat 64 (leNat bs)) s := by
  simp [regAccess, hplain, hsize, halign, hstore]

end

/-! ### The host window: a naturally aligned load or store under the region check (R254, R282, R283) -/

/-- A load or store of a size and alignment that the host window permits. -/
structure WindowShaped (acc : CAccess) : Prop where
  plain : plainAccess acc = true
  size : acc.size ∈ [1, 2, 4, 8]
  aligned : acc.addr % acc.size = 0

theorem WindowShaped.passes (hshape : WindowShaped acc) :
    (!plainAccess acc || !([1, 2, 4, 8].contains acc.size) || acc.addr % acc.size != 0) = false := by
  have hsize : [1, 2, 4, 8].contains acc.size = true := List.contains_iff_mem.2 hshape.size
  rw [hshape.plain, hsize, hshape.aligned]
  rfl

section
variable (hshape : WindowShaped acc)
include hshape

theorem windowAccess_denied (hregion : regionOk s acc.ctx acc.addr acc.size acc.write.isSome = false) :
    windowAccess acc s = hartFault acc 5 s := by
  simp only [windowAccess, hshape.passes, hregion, Bool.not_false, Bool.false_eq_true, if_false, if_true]

theorem windowAccess_store {bs : List Byte} (hstore : acc.write = some bs)
    (hregion : regionOk s acc.ctx acc.addr acc.size true = true) :
    windowAccess acc s = hostWrite (acc.addr - hostBase) bs (.hart acc.hart acc.ctx acc.addr acc.va) s := by
  simp only [windowAccess, hshape.passes, hstore, hregion, Option.isSome_some, Bool.not_true, Bool.false_eq_true, if_false]

theorem windowAccess_load (hload : acc.write = none) (hregion : regionOk s acc.ctx acc.addr acc.size false = true) :
    windowAccess acc s = if allLost s then hartFault acc 3 (hostLost (acc.addr - hostBase) s)
      else hostRead (acc.addr - hostBase) acc.size (.hart acc.hart acc.ctx acc.addr acc.va) s := by
  simp only [windowAccess, hshape.passes, hload, hregion, Option.isSome_none, Bool.not_true, Bool.false_eq_true, if_false]

end

/-! ### Cache-block operations outside the homes, and skctx (R284, R287) -/

theorem cboLine_unmapped {h a : Nat} (hruns : hartRuns s h = true) (ha : 0xA0000000000 ≤ a) (hhost : isHost a = false)
    (hregs : a < 0xF00000000000) (op : CboOp) (va : Word64) : cboLine h a op va s =
      hartFault { hart := h, ctx := hartCtx s h, addr := a, write := none, size := 0, cbo := some op, va := va } 0 s := by
  simp [cboLine, hruns, isHome_eq_false ha, hhost, isRegSpace_eq_false hregs]

section
variable {h : Nat} (hruns : hartRuns s h = true)
include hruns

theorem exec_skctxWrite_permitted {mode : Priv} (hmode : mode ∈ [Priv.m, .s]) (w : Word64) :
    exec (.skctxWrite h mode w) s = .next (setHart h { hartOf s h with ctx := w.truncate 16 } s) := by
  refine (if_pos hruns).trans ?_
  simp only [List.mem_cons, List.not_mem_nil, or_false] at hmode
  rcases hmode with rfl | rfl <;> rfl

theorem exec_skctxWrite_user (w : Word64) : exec (.skctxWrite h .u w) s = .next (emit (.trap h false) s) := if_pos hruns

theorem exec_skctxWrite_virtual {mode : Priv} (hmode : mode ∈ [Priv.vs, .vu]) (w : Word64) :
    exec (.skctxWrite h mode w) s = .next (emit (.trap h true) s) := by
  refine (if_pos hruns).trans ?_
  simp only [List.mem_cons, List.not_mem_nil, or_false] at hmode
  rcases hmode with rfl | rfl <;> rfl

end

end

/-! ### The commands of a free hart -/

section
variable {h a : Nat} {s : State} (hruns : hartRuns s h = true) (hfree : ioFree s h)
include hruns hfree

section
variable (hlow : 0xF00000000000 ≤ a) (hhigh : a < 0x1000000000000) (k : AccKind) {va : Word64} {victim : Option Nat}
include hlow hhigh

theorem exec_load_registers (n : Nat) (hdemand : ∀ trigger, k ≠ .prefetch trigger) : exec (.load h a n k va victim) s =
    .next (regAccess { hart := h, ctx := hartCtx s h, addr := a, write := none, size := n, kind := k, va := va } s) :=
  (exec_load h a n k va victim s).trans
    (congrArg _ (coreAccess_registers_free hruns (isPrefetch_eq_false hdemand) hlow hhigh hfree))

theorem exec_store_registers (bs : List Byte) (hdemand : ∀ trigger, k ≠ .prefetch trigger) : exec (.store h a bs k va victim) s =
    .next (regAccess { hart := h, ctx := hartCtx s h, addr := a, write := some bs, size := bs.length, kind := k, va := va } s) :=
  (exec_store h a bs k va victim s).trans
    (congrArg _ (coreAccess_registers_free hruns (isPrefetch_eq_false hdemand) hlow hhigh hfree))

end

theorem exec_hostWindowAccess_free (ha : isHost a = true) (n : Nat) (va : Word64) (data : Option (List Byte)) :
    exec (.hostWindowAccess h a n va data) s = .next (windowAccess
      { hart := h, ctx := hartCtx s h, addr := a, write := data, size := (data.map (·.length)).getD n, va := va
        kind := if data.isSome then .store else .load } s) := by
  refine (if_pos ha).trans (congrArg Host.Outcome.next (coreAccess_window_free hruns ?_ ha hfree))
  cases data <;> rfl

end

/-- Settles O29: a free hart's uncached access is performed where the map sends it, a hart with one still to be performed waits, and
an address of no part of the map faults. -/
theorem coreAccesses : Obligations.CoreAccesses := by
  unfold Obligations.CoreAccesses
  intro h a n bs v va w s hpower hstage hmember x c deny free
  have hruns : hartRuns s h = true := hartRuns_released hpower hstage hmember
  refine ⟨fun hlow hhigh hfree => ?registers, fun hhost hsize halign hfree => ?window, fun hhost hbusy => ?waits,
    fun hlow hhost hhigh => ?unmapped, fun hlow trigger => ?prefetch,
    fun _ hmode => exec_skctxWrite_permitted hruns hmode w, exec_skctxWrite_user hruns w,
    fun _ hmode => exec_skctxWrite_virtual hruns hmode w⟩
  case registers =>
    refine ⟨fun hn halign => ?load, fun hn halign => ?store, fun hshape => ?misshapen, ?fetch, fun op => ?amo⟩
    case load => rw [exec_load_registers hruns hfree hlow hhigh .load n nofun, regAccess_load rfl hn halign rfl]
    case store => rw [exec_store_registers hruns hfree hlow hhigh .store bs nofun, regAccess_store rfl hn halign rfl]
    case misshapen => rw [exec_load_registers hruns hfree hlow hhigh .load n nofun, regAccess_misshapen rfl hshape]; rfl
    case fetch => rw [exec_load_registers hruns hfree hlow hhigh .fetch n nofun, regAccess_notPlain rfl]; rfl
    case amo => rw [exec_store_registers hruns hfree hlow hhigh (.amo op) bs nofun, regAccess_notPlain rfl]; rfl
  case window =>
    have hexec (data : Option (List Byte)) := exec_hostWindowAccess_free hruns hfree hhost n va data
    have hload := windowAccess_load (s := s)
      (acc := { hart := h, ctx := hartCtx s h, addr := a, write := none, size := n, va := va }) ⟨rfl, hsize, halign⟩ rfl
    refine ⟨fun hregion hport => ?load, fun hregion hlost => ?lost, fun hregion => ?denied, fun hlength hregion => ?store⟩
    case load => rw [hexec]; exact congrArg _ ((hload hregion).trans (if_neg (by simp [hport])))
    case lost => rw [hexec]; exact congrArg _ ((hload hregion).trans (if_pos hlost))
    case denied => rw [hexec]; exact congrArg _ (windowAccess_denied ⟨rfl, hsize, halign⟩ hregion)
    case store =>
      subst hlength
      rw [hexec]; exact congrArg _ (windowAccess_store ⟨rfl, hsize, halign⟩ rfl hregion)
  case waits =>
    have hexec := (exec_hostWindowAccess_load h n va s hhost).trans
      (congrArg _ (coreAccess_window_behind hruns rfl hhost hbusy))
    exact ⟨hexec, fun hstalled => hexec.trans (congrArg _ (drainIo_stalled ((hartStalled_setHart _ _ _ _).trans hstalled) _))⟩
  case unmapped =>
    refine ⟨(exec_load h a n .load va v s).trans (congrArg _ (coreAccess_unmapped hruns rfl hlow hhost hhigh)), ?_⟩
    exact (exec_cboClean h a va s).trans (congrArg _ (cboLine_unmapped hruns hlow hhost hhigh _ _))
  case prefetch => exact (exec_load h a n _ va v s).trans (congrArg _ (coreAccess_prefetch_outside hruns hlow rfl))

end Sys2Proof.Machine
end

section
/-! Accesses of the mainland's harts that meet one line of the homes (R281, R285 to R289, R297, R304, R309, R310): what a
hit does, and what a miss sends. -/

namespace Sys2Proof.Machine

/-! ### Commands that meet one line -/

section
variable {h a n : Nat} {s : State} (hruns : hartRuns s h = true) (ha : a < 0xA0000000000)
include hruns ha

section
variable (hsize : 1 ≤ n) (hline : a % 64 + n ≤ 64) (va : Word64)
include hsize hline

theorem exec_load_line (k : AccKind) : exec (.load h a n k va none) s =
    .next (lineAccess { hart := h, ctx := hartCtx s h, addr := a, write := none, size := n, kind := k, va := va } s) :=
  (exec_load h a n k va none s).trans (congrArg _ (coreAccess_line _ s hruns ha hsize hline nofun))

theorem exec_store_line {bs : List Byte} (hlength : bs.length = n) (k : AccKind) : exec (.store h a bs k va none) s =
    .next (lineAccess { hart := h, ctx := hartCtx s h, addr := a, write := some bs, size := n, kind := k, va := va } s) := by
  subst hlength
  exact (exec_store h a bs k va none s).trans
    (congrArg _ (coreAccess_line _ s hruns ha hsize hline fun _ hdata => congrArg _ (Option.some.inj hdata).symm))

end

theorem exec_cboZero_line (va : Word64) : exec (.cboZero h a va none) s = .next (lineAccess
    { hart := h, ctx := hartCtx s h, addr := a / 64 * 64, write := some (zeros 64), size := 64, kind := .store, va := va } s) :=
  exec_store_line (n := 64) hruns (by omega) (by decide) (by omega) va rfl .store

theorem cboLine_home (op : CboOp) (va : Word64) : cboLine h a op va s = lineAccess
    { hart := h, ctx := hartCtx s h, addr := a / 64 * 64, write := none, size := 0, cbo := some op, va := va } s := by
  simp [cboLine, hruns, isHome, ha]

end

/-! ### An access meets its line (Table 11.5) -/

/-- A demand access meets its line, on which no CHK and no CBO is open. -/
structure Meets (acc : CAccess) (x : CLine) (s : State) : Prop where
  line : cline s acc.hart (acc.addr / 64) = x
  noChk : x.chk = false
  noCbo : x.cbo = none
  demand : isPrefetch acc = false

section
variable {acc : CAccess} {x : CLine} {s : State}

section
variable (hmeets : Meets acc x s)
include hmeets

theorem lineAccess_hit (hcbo : acc.cbo = none) (hctx : x.ctx = acc.ctx)
    (hst : x.st ∈ [CState.e, .m] ∨ (acc.write = none ∧ x.st ∈ [CState.s, .e, .o, .m])) :
    lineAccess acc s = performHit acc x s := by
  obtain ⟨hline, hchk, hopen, hdemand⟩ := hmeets
  simp only [List.mem_cons, List.not_mem_nil, or_false] at hst
  rcases hst with (hst | hst) | ⟨hload, hst | hst | hst | hst⟩ <;> simp [lineAccess, *]

theorem lineAccess_foreign (hcbo : acc.cbo = none) (hctx : x.ctx ≠ acc.ctx) (hst : x.st ∈ [CState.s, .e, .o, .m]) :
    lineAccess acc s = if reqRoom s acc.hart then sendChk acc x s else parkAccess acc x s := by
  obtain ⟨hline, hchk, hopen, hdemand⟩ := hmeets
  simp only [List.mem_cons, List.not_mem_nil, or_false] at hst
  rcases hst with hst | hst | hst | hst <;> simp [lineAccess, *]

theorem lineAccess_cbo (hcbo : acc.cbo.isSome = true) (hst : x.st ∈ [CState.i, .s, .e, .o, .m]) :
    lineAccess acc s = if reqRoom s acc.hart then sendCbo acc x s else parkAccess acc x s := by
  obtain ⟨hline, hchk, hopen, hdemand⟩ := hmeets
  simp only [List.mem_cons, List.not_mem_nil, or_false] at hst
  rcases hst with hst | hst | hst | hst | hst <;> simp [lineAccess, *]

/-- The request that a miss calls for by the line's state and the access (Table 11.5). -/
theorem lineAccess_miss {k : RKind} {st st' : CState} {wr : Bool} (hcbo : acc.cbo = none)
    (hrow : (k, st, st', wr) ∈ [(RKind.rds, CState.i, CState.isu, false), (.rdx, .i, .imu, true), (.upg, .s, .smu, true),
      (.upg, .o, .omu, true)])
    (hst : x.st = st) (hwrite : acc.write.isSome = wr) (hctx : st ≠ .i → x.ctx = acc.ctx) :
    lineAccess acc s = askLine k st' acc x s := by
  obtain ⟨hline, hchk, hopen, hdemand⟩ := hmeets
  simp only [List.mem_cons, List.not_mem_nil, or_false, Prod.mk.injEq] at hrow
  rcases hrow with ⟨rfl, rfl, rfl, rfl⟩ | ⟨rfl, rfl, rfl, rfl⟩ | ⟨rfl, rfl, rfl, rfl⟩ | ⟨rfl, rfl, rfl, rfl⟩ <;>
    simp_all [lineAccess]

end

/-! ### Hits (R286, R289, R310) -/

theorem performHit_load (hload : acc.write = none) (hplain : acc.kind ≠ .lr) (hclean : x.poison = false) :
    performHit acc x s = emit (.loaded acc.hart acc.addr (slice x.bytes (acc.addr % 64) acc.size)) s := by
  simp [performHit, loadDone, reserve, hload, hplain, hclean]

theorem performHit_poisoned (hload : acc.write = none) (hpoison : x.poison = true) : performHit acc x s = hartFault acc 3 s := by
  simp [performHit, hload, hpoison]

/-- The line after a store to it in E or M (R289): every byte of it written since the grant clears its poison. -/
def storedLine (x : CLine) (off : Nat) (bs : List Byte) : CLine :=
  let written := x.written ||| ((2 ^ bs.length - 1) * 2 ^ off)
  { x with st := .m, bytes := patch x.bytes off bs, written := written, poison := x.poison && !decide (written = 2 ^ 64 - 1) }

theorem performHit_store {bs : List Byte} (hstore : acc.write = some bs) (hkind : acc.kind = .store) (hst : x.st ∈ [CState.e, .m]) :
    performHit acc x s = setCline acc.hart (acc.addr / 64) (storedLine x (acc.addr % 64) bs) s := by
  simp only [List.mem_cons, List.not_mem_nil, or_false] at hst
  rcases hst with hst | hst <;> simp [performHit, storeBytes, isAmo, storedLine, hstore, hkind, hst]

theorem storedLine_clean (hclean : x.poison = false) (off : Nat) (bs : List Byte) : storedLine x off bs =
    { x with st := .m, bytes := patch x.bytes off bs, written := x.written ||| ((2 ^ bs.length - 1) * 2 ^ off) } := by
  simp [storedLine, hclean]

theorem or_allOnes_of_lt {w n : Nat} (h : w < 2 ^ n) : w ||| (2 ^ n - 1) = 2 ^ n - 1 := by
  refine Nat.eq_of_testBit_eq fun i => ?_
  rw [Nat.testBit_or, Nat.testBit_two_pow_sub_one]
  by_cases hi : i < n
  · simp [hi]
  · simp [hi, Nat.testBit_lt_two_pow (h.trans_le (Nat.pow_le_pow_right (by decide) (Nat.le_of_not_lt hi)))]

theorem storedLine_whole (hwritten : x.written < 2 ^ 64) : storedLine x 0 (zeros 64) =
    { x with st := .m, bytes := patch x.bytes 0 (zeros 64), written := 2 ^ 64 - 1, poison := false } := by
  have hfull : x.written ||| ((2 ^ (zeros 64).length - 1) * 2 ^ 0) = 2 ^ 64 - 1 := or_allOnes_of_lt hwritten
  simp only [storedLine, hfull, decide_true, Bool.not_true, Bool.and_false]

/-- A fault of Table 10.5 names the context of the hart's own requests (R284, R288). -/
theorem hartFault_inContext {kind : Nat} (hctx : acc.ctx = hartCtx s acc.hart) (hkind : kind ≠ 0) : hartFault acc kind s =
    emit (.fault acc.hart (faultOf acc) acc.addr kind) (setHart acc.hart { hartOf s acc.hart with
      tval := acc.va, faultCtx := (hartOf s acc.hart).ctx, faultKind := BitVec.ofNat 3 kind } s) := by
  simp only [hartFault, if_neg hkind, hctx, hartCtx, BitVec.ofNat_toNat, BitVec.setWidth_eq]

theorem plain_of_load_or_fetch {k : AccKind} (hk : k ∈ [AccKind.load, .fetch]) : k ≠ .lr ∧ ∀ trigger, k ≠ .prefetch trigger := by
  simp only [List.mem_cons, List.not_mem_nil, or_false] at hk
  rcases hk with rfl | rfl <;> exact ⟨nofun, nofun⟩

/-! ### Requests (R281, R297, R304, R309) -/

/-- With a way for its line, a request goes out where its agent has one to spare. -/
theorem askLine_roomInSet {k : RKind} {st : CState} (hway : x.st = .i → (l2Ways s acc.hart (acc.addr / 64)).length < 16) :
    askLine k st acc x s = if reqRoom s acc.hart then sendReq k st acc x s else parkAccess acc x s := by
  have htaken : (if x.st = .i then takeWay acc.hart (acc.addr / 64) s else some s) = some s := by
    split
    next hst => exact if_pos (hway hst)
    next => rfl
  rw [askLine, htaken]

section
variable (hdemand : isPrefetch acc = false)
include hdemand

theorem sendReq_flight (k : RKind) (st : CState) : (sendReq k st acc x s).snd.flight = s.snd.flight ++
    [{ kind := k, line := acc.addr / 64, agent := acc.hart, ctx := acc.ctx, stamp := s.xng.cycle.toNat % 2 ^ 32 }] := by
  simp only [sendReq, hdemand]
  rfl

theorem parkAccess_demand :
    parkAccess acc x s = setCline acc.hart (acc.addr / 64) { x with waiting := x.waiting ++ [acc] } s :=
  if_neg (by simp [hdemand])

end

section
variable {line : Nat} (hline : acc.addr / 64 = line)
include hline

theorem sendChk_line : (cline (sendChk acc x s) acc.hart line).st = x.st ∧ (cline (sendChk acc x s) acc.hart line).chk = true := by
  subst hline
  simp [sendChk]

theorem sendChk_flight (hload : acc.write = none) : (sendChk acc x s).snd.flight = s.snd.flight ++
    [{ kind := .chk, line := line, agent := acc.hart, ctx := acc.ctx, stamp := s.xng.cycle.toNat % 2 ^ 32 }] := by
  simp only [sendChk, hline, hload]
  rfl

theorem sendCbo_line {op : CboOp} (hop : acc.cbo = some op) :
    (cline (sendCbo acc x s) acc.hart line).st = x.st ∧ (cline (sendCbo acc x s) acc.hart line).cbo = some op := by
  subst hline
  simp [sendCbo, hop]

theorem sendCbo_flight {op : CboOp} (hop : acc.cbo = some op) : (sendCbo acc x s).snd.flight = s.snd.flight ++
    [{ kind := .cbo, line := line, agent := acc.hart, ctx := acc.ctx, cboOp := op, stamp := s.xng.cycle.toNat % 2 ^ 32 }] := by
  simp only [sendCbo, hline, hop]
  rfl

end

@[simp] theorem sendReq_line_st (k : RKind) (st : CState) :
    (cline (sendReq k st acc x s) acc.hart (acc.addr / 64)).st = st := by
  simp [sendReq]

end

/-! ### What a command that meets one line does -/

/-- A running hart's access of `n` bytes lies within one line of the homes, on which it has no CHK and no CBO open. -/
structure AtLine (s : State) (h a n : Nat) : Prop where
  runs : hartRuns s h = true
  home : a < 0xA0000000000
  nonempty : 1 ≤ n
  fits : a % 64 + n ≤ 64
  noChk : (cline s h (a / 64)).chk = false
  noCbo : (cline s h (a / 64)).cbo = none

/-- A demand load or store of a hart, under its context. -/
def demandAccess (wr : Bool) (h a n : Nat) (bs : List Byte) (va : Word64) (s : State) : CAccess :=
  { hart := h, ctx := hartCtx s h, addr := a, write := if wr then some bs else none, size := n
    kind := if wr then .store else .load, va := va }

section
variable {h a n : Nat} {bs : List Byte} {va : Word64} {s : State} (hat : AtLine s h a n)
include hat

theorem AtLine.meets {acc : CAccess} (hhart : acc.hart = h) (hline : acc.addr / 64 = a / 64) (hdemand : isPrefetch acc = false) :
    Meets acc (cline s h (a / 64)) s :=
  ⟨by rw [hhart, hline], hat.noChk, hat.noCbo, hdemand⟩

theorem exec_load_hit {k : AccKind} (hdemand : ∀ trigger, k ≠ .prefetch trigger) (hctx : (cline s h (a / 64)).ctx = hartCtx s h)
    (hst : (cline s h (a / 64)).st ∈ [CState.s, .e, .o, .m]) : exec (.load h a n k va none) s = .next (performHit
      { hart := h, ctx := hartCtx s h, addr := a, write := none, size := n, kind := k, va := va } (cline s h (a / 64)) s) := by
  rw [exec_load_line hat.runs hat.home hat.nonempty hat.fits,
    lineAccess_hit (hat.meets rfl rfl (isPrefetch_eq_false hdemand)) rfl hctx (.inr ⟨rfl, hst⟩)]

theorem exec_store_hit (hlength : bs.length = n) (hctx : (cline s h (a / 64)).ctx = hartCtx s h)
    (hst : (cline s h (a / 64)).st ∈ [CState.e, .m]) :
    exec (.store h a bs .store va none) s = .next (setCline h (a / 64) (storedLine (cline s h (a / 64)) (a % 64) bs) s) := by
  rw [exec_store_line hat.runs hat.home hat.nonempty hat.fits va hlength,
    lineAccess_hit (hat.meets rfl rfl rfl) rfl hctx (.inl hst), performHit_store rfl rfl hst]

theorem exec_cboZero_hit (hctx : (cline s h (a / 64)).ctx = hartCtx s h) (hst : (cline s h (a / 64)).st ∈ [CState.e, .m]) :
    exec (.cboZero h a va none) s = .next (setCline h (a / 64) (storedLine (cline s h (a / 64)) 0 (zeros 64)) s) := by
  have hline : a / 64 * 64 / 64 = a / 64 := Nat.mul_div_cancel _ (by decide)
  have hoff : a / 64 * 64 % 64 = 0 := Nat.mul_mod_left _ _
  rw [exec_cboZero_line hat.runs hat.home, lineAccess_hit (hat.meets rfl hline rfl) rfl hctx (.inl hst),
    performHit_store rfl rfl hst, hline, hoff]

theorem exec_miss {k : RKind} {st st' : CState} {wr : Bool} (hlength : bs.length = n)
    (hrow : (k, st, st', wr) ∈ [(RKind.rds, CState.i, CState.isu, false), (.rdx, .i, .imu, true), (.upg, .s, .smu, true),
      (.upg, .o, .omu, true)])
    (hst : (cline s h (a / 64)).st = st) (hctx : st ≠ .i → (cline s h (a / 64)).ctx = hartCtx s h)
    (hway : st = .i → (l2Ways s h (a / 64)).length < 16) :
    exec (if wr then .store h a bs .store va none else .load h a n .load va none) s = .next (if reqRoom s h then
        sendReq k st' (demandAccess wr h a n bs va s) (cline s h (a / 64)) s
      else parkAccess (demandAccess wr h a n bs va s) (cline s h (a / 64)) s) := by
  have hexec : exec (if wr then .store h a bs .store va none else .load h a n .load va none) s =
      .next (lineAccess (demandAccess wr h a n bs va s) s) := by
    cases wr with
    | false => exact exec_load_line hat.runs hat.home hat.nonempty hat.fits va .load
    | true => exact exec_store_line hat.runs hat.home hat.nonempty hat.fits va hlength .store
  have hmeets : Meets (demandAccess wr h a n bs va s) (cline s h (a / 64)) s := hat.meets rfl rfl (by cases wr <;> rfl)
  have hroom : (cline s h (a / 64)).st = .i →
      (l2Ways s (demandAccess wr h a n bs va s).hart ((demandAccess wr h a n bs va s).addr / 64)).length < 16 :=
    fun hi => hway (hst.symm.trans hi)
  rw [hexec, lineAccess_miss hmeets rfl hrow hst (by cases wr <;> rfl) hctx, askLine_roomInSet hroom]
  rfl

theorem exec_load_foreign (hctx : (cline s h (a / 64)).ctx ≠ hartCtx s h)
    (hst : (cline s h (a / 64)).st ∈ [CState.s, .e, .o, .m]) (hroom : reqRoom s h = true) :
    exec (.load h a n .load va none) s = .next (sendChk
      { hart := h, ctx := hartCtx s h, addr := a, write := none, size := n, va := va } (cline s h (a / 64)) s) := by
  rw [exec_load_line hat.runs hat.home hat.nonempty hat.fits, lineAccess_foreign (hat.meets rfl rfl rfl) rfl hctx hst, if_pos hroom]

theorem cboLine_sends (op : CboOp) (hst : (cline s h (a / 64)).st ∈ [CState.i, .s, .e, .o, .m]) (hroom : reqRoom s h = true) :
    cboLine h a op va s = sendCbo { hart := h, ctx := hartCtx s h, addr := a / 64 * 64, write := none, size := 0, cbo := some op,
                                    va := va } (cline s h (a / 64)) s := by
  have hline : a / 64 * 64 / 64 = a / 64 := Nat.mul_div_cancel _ (by decide)
  rw [cboLine_home hat.runs hat.home, lineAccess_cbo (hat.meets rfl hline rfl) rfl hst, if_pos hroom]

end

/-- The cache-block operation that a command of the hart is (R287, R304). -/
theorem exec_cboCommand {h a : Nat} {va : Word64} {i : Instr} {op : CboOp} (s : State)
    (hi : (i, op) ∈ [(Instr.cboClean h a va, CboOp.clean), (.cboFlush h a va, .flush), (.cboInval h a va true, .inval),
      (.cboInval h a va false, .flush)]) : exec i s = .next (cboLine h a op va s) := by
  simp only [List.mem_cons, List.not_mem_nil, or_false, Prod.mk.injEq] at hi
  rcases hi with ⟨rfl, rfl⟩ | ⟨rfl, rfl⟩ | ⟨rfl, rfl⟩ | ⟨rfl, rfl⟩
  · exact exec_cboClean h a va s
  · exact exec_cboFlush h a va s
  · exact exec_cboInval h a va s true
  · exact exec_cboInval h a va s false

/-- Settles O30: each access is one that meets one line, and the line's state, context and permission choose among the hit, the CHK,
and the request of the miss, which waits where there is no room for it. -/
theorem coreHitsAndMisses : Obligations.CoreHitsAndMisses := by
  unfold Obligations.CoreHitsAndMisses
  refine ⟨fun h a n bs va s hpower hstage hmember ha hsize hline hlength => ?hits,
    fun h a n bs va s hpower hstage hmember ha hsize hline hlength => ?misses⟩
  case hits =>
    intro x c hchk hcbo hctx
    have hat : AtLine s h a n := ⟨hartRuns_released hpower hstage hmember, ha, hsize, hline, hchk, hcbo⟩
    refine ⟨fun k hk hst hclean => ?load, fun k exc hk hst hpoison => ?poisoned, fun hst hclean => ?store,
      fun hst hwritten => ?zero⟩
    case load =>
      obtain ⟨hplain, hdemand⟩ := plain_of_load_or_fetch hk
      exact (exec_load_hit hat hdemand hctx hst).trans (congrArg _ (performHit_load rfl hplain hclean))
    case poisoned =>
      have hexec (hk : k ∈ [AccKind.load, .fetch]) := (exec_load_hit (va := va) hat (plain_of_load_or_fetch hk).2 hctx hst).trans
        (congrArg _ ((performHit_poisoned rfl hpoison).trans (hartFault_inContext rfl (kind := 3) (by decide))))
      simp only [List.mem_cons, List.not_mem_nil, or_false, Prod.mk.injEq] at hk
      rcases hk with ⟨rfl, rfl⟩ | ⟨rfl, rfl⟩
      · exact hexec (.head _)
      · exact hexec (.tail _ (.head _))
    case store => rw [exec_store_hit hat hlength hctx hst, storedLine_clean hclean, hlength]
    case zero => rw [exec_cboZero_hit hat hctx hst, storedLine_whole hwritten]
  case misses =>
    intro x c stamp hchk hcbo
    have hat : AtLine s h a n := ⟨hartRuns_released hpower hstage hmember, ha, hsize, hline, hchk, hcbo⟩
    refine ⟨fun k st st' wr hrow hst hctx hway => ?asks, fun hst hctx hroom => ?checks, fun i op hi hst hroom => ?operates⟩
    case asks =>
      have hexec := exec_miss hat (va := va) hlength hrow hst hctx hway
      have hdemand : isPrefetch (demandAccess wr h a n bs va s) = false := by cases wr <;> rfl
      refine ⟨fun hroom => ?sends, fun hroom => ?waits⟩
      case sends =>
        exact ⟨_, hexec.trans (congrArg _ (if_pos hroom)), sendReq_flight hdemand _ _, sendReq_line_st _ _, rfl, rfl⟩
      case waits =>
        have hnone : ¬ reqRoom s h = true := by simp [hroom]
        have hparked := cline_setCline_same s h (a / 64) { x with waiting := x.waiting ++ [demandAccess wr h a n bs va s] }
        exact ⟨_, hexec.trans (congrArg _ ((if_neg hnone).trans (parkAccess_demand hdemand))), rfl,
          (congrArg CLine.st hparked).trans hst, (congrArg (·.waiting.length) hparked).trans List.length_append, rfl, rfl⟩
    case checks =>
      exact ⟨_, exec_load_foreign hat hctx hst hroom, (sendChk_line rfl).1, (sendChk_line rfl).2, sendChk_flight rfl rfl⟩
    case operates =>
      have hline : a / 64 * 64 / 64 = a / 64 := Nat.mul_div_cancel _ (by decide)
      exact ⟨_, (exec_cboCommand s hi).trans (congrArg _ (cboLine_sends hat op hst hroom)),
        (sendCbo_line hline rfl).1, (sendCbo_line hline rfl).2, sendCbo_flight hline rfl⟩

end Sys2Proof.Machine
end

section
/-! The ring's messages arrive (R294, R308, R313), and a request at its home agent (R300, R305 to R308). -/

namespace Sys2Proof.Machine

/-! ### Arrival: a message in its turn whose header is intact is acted on -/

section
variable {m : RMsg} {home : Bool} {act : State → State} {s : State}

theorem arrive_stays (h : firstOnWay s m = false ∨ (classOf m.kind = 0 ∧ s.snd.mode = true ∧ conflictFull s m.line = true)) :
    arrive m home act s = s := by
  rcases h with hturn | ⟨hclass, hmode, hfull⟩
  · simp [arrive, hturn]
  · simp [arrive, hclass, hmode, hfull]

theorem arrive_inTurn (hparity : m.parity = true) (hturn : firstOnWay s m = true)
    (hroom : classOf m.kind = 0 → s.snd.mode = true → conflictFull s m.line = false) : arrive m home act s = act (takeR m s) := by
  have hhere : (!firstOnWay s m || (classOf m.kind == 0 && s.snd.mode && conflictFull s m.line)) = false := by
    simpa [hturn, and_imp] using hroom
  simp only [arrive, hhere, hparity, Bool.false_eq_true, if_false, if_true]

/-- No queue of the home agent holds back a message that is not a request (R308). -/
theorem arrive_answer (hparity : m.parity = true) (hclass : classOf m.kind ≠ 0) (hturn : firstOnWay s m = true) :
    arrive m home act s = act (takeR m s) :=
  arrive_inTurn hparity hturn fun h => absurd h hclass

end

/-- The commands that are a request at its home agent, with the messages that arrive. -/
def requestCommands (x : RMsg) : List (Instr × RMsg) :=
  [(.rds x, { x with kind := .rds }), (.rdx x, { x with kind := .rdx }), (.upg x, { x with kind := .upg }),
    (.cbo x, { x with kind := .cbo }), (.vic x, { x with kind := .vic }), (.chk x, { x with kind := .chk })]

theorem exec_requestCommand {x m : RMsg} {c : Instr} (h : (c, m) ∈ requestCommands x) :
    ∃ k, m = { x with kind := k } ∧ classOf k = 0 ∧ ∀ s, exec c s = .next (arrive m true (reqArrives m) s) := by
  simp only [requestCommands, List.mem_cons, List.not_mem_nil, or_false, Prod.mk.injEq] at h
  rcases h with ⟨rfl, rfl⟩ | ⟨rfl, rfl⟩ | ⟨rfl, rfl⟩ | ⟨rfl, rfl⟩ | ⟨rfl, rfl⟩ | ⟨rfl, rfl⟩ <;>
    exact ⟨_, rfl, rfl, fun _ => rfl⟩

/-! ### What decides a request (R300, R305, R307, R308) -/

section
variable {m : RMsg} {s : State}

/-- A request that is taken in retry mode ends the reservation of its line for its own agent (R307). -/
def endReserved (m : RMsg) (s : State) : State :=
  if s.snd.mode then s
  else { s with snd := { s.snd with reserved := s.snd.reserved.filter fun r => !(r.line == m.line && r.agent == m.agent) } }

@[simp] theorem endReserved_cfg : (endReserved m s).cfg = s.cfg := by unfold endReserved; split <;> rfl
@[simp] theorem filterRoom_endReserved (line : Nat) : filterRoom (endReserved m s) line = filterRoom s line := by
  unfold endReserved; split <;> rfl
@[simp] theorem prefetchPage_endReserved (c a : Nat) : prefetchPage (endReserved m s) c a = prefetchPage s c a := by
  unfold endReserved; split <;> rfl
@[simp] theorem pageCheck_endReserved (c p : Nat) (write : Bool) : pageCheck (endReserved m s) c p write = pageCheck s c p write := by
  unfold endReserved; split <;> rfl

@[simp] theorem takeR_cfg : (takeR m s).cfg = s.cfg := rfl
@[simp] theorem filterRoom_takeR (line : Nat) : filterRoom (takeR m s) line = filterRoom s line := rfl
@[simp] theorem prefetchPage_takeR (c a : Nat) : prefetchPage (takeR m s) c a = prefetchPage s c a := rfl
@[simp] theorem pageCheck_takeR (c p : Nat) (write : Bool) : pageCheck (takeR m s) c p write = pageCheck s c p write := rfl

theorem reqArrives_nacked {t : HTxn} (hopen : openTxn s m.line = some t) (hmode : s.snd.mode = false) :
    reqArrives m s = sendR { m with kind := .nack } (setTxn (noteAged t m) s) := by
  simp [reqArrives, hopen, hmode]

theorem reqArrives_queued (hmode : s.snd.mode = true)
    (hbusy : (openTxn s m.line).isSome = true ∨ ∃ w ∈ s.snd.conflict, w.line = m.line) : reqArrives m s = queueReq m s := by
  unfold reqArrives
  split
  next => exact if_pos hmode
  next hopen =>
    have hwaits : (s.snd.conflict.any fun w => w.line == m.line) = true := by simpa [hopen] using hbusy
    rw [if_pos hmode, if_pos hwaits]

theorem reqArrives_reserved (hopen : openTxn s m.line = none) (hmode : s.snd.mode = false)
    (hreserved : reservedFor s m.line m.agent = true) : reqArrives m s = sendR { m with kind := .nack } s := by
  simp [reqArrives, hopen, hmode, hreserved]

/-- A request that meets no open transaction, no reservation and no other that waits is taken. -/
theorem reqArrives_taken {u : State} (hopen : openTxn s m.line = none) (hreserved : reservedFor s m.line m.agent = false)
    (hfirst : ∀ w ∈ s.snd.conflict, w.line ≠ m.line) (htake : takeReq m (endReserved m s) = (u, true)) : reqArrives m s = u := by
  have hnone : (s.snd.conflict.any fun w => w.line == m.line) = false := by simpa using hfirst
  rw [endReserved] at htake
  simp only [reqArrives, hopen, hreserved, hnone, Bool.false_eq_true, if_false]
  split
  next hmode =>
    rw [if_pos hmode] at htake
    simp only [htake]
  next hmode =>
    rw [if_neg hmode] at htake
    exact congrArg Prod.fst htake

/-! ### What a request that is taken comes to (R275, R286, R300, R312) -/

theorem takeReq_serves (hroom : m.kind = .vic → filterRoom s m.line = true)
    (hpre : m.pre = true → prefetchPage s m.ctx (m.line * 64) = true)
    (hpage : m.kind = .vic ∨ (backed s.cfg (m.line * 64) = true ∧ pageCheck s m.ctx (pageOf (m.line * 64)) (reqWrites m) ≠ .denied
      ∧ pageCheck s m.ctx (pageOf (m.line * 64)) (reqWrites m) ≠ .locked)) :
    takeReq m s = (if m.kind = .chk then sendR (grantMsg m 0 .s 0) s else openReq m s, true) := by
  have hplace : ¬ (m.kind = .vic ∧ filterRoom s m.line = false) := by rintro ⟨hvic, hnone⟩; simp [hroom hvic] at hnone
  have hkept : (m.pre && !prefetchPage s m.ctx (m.line * 64)) = false := by simpa using hpre
  have hpermitted : reqDenied m s = (s, none) := by
    rcases hpage with hvic | ⟨hbacked, hdenied, hlocked⟩
    · exact if_pos hvic
    · simp [reqDenied, hbacked]
  simp only [takeReq, if_neg hplace, hkept, hpermitted, Bool.false_eq_true, if_false]
  split <;> rfl

section
variable (hvic : m.kind ≠ .vic)
include hvic

theorem takeReq_denied (hpre : m.pre = false) (hbacked : backed s.cfg (m.line * 64) = true)
    (hdenied : pageCheck s m.ctx (pageOf (m.line * 64)) (reqWrites m) = .denied) :
    takeReq m s = (sendR (grantMsg m 0 (.deny 1) 0) (refusePage m.ctx (m.line * 64) false s), true) := by
  simp [takeReq, reqDenied, hvic, hpre, hbacked, hdenied]

theorem takeReq_prefetchDropped (hpre : m.pre = true) (hpage : prefetchPage s m.ctx (m.line * 64) = false) :
    takeReq m s = (sendR (grantMsg m 0 (.deny 1) 0) s, true) := by
  simp [takeReq, hvic, hpre, hpage]

end

end

/-- Settles O31: a request by whether its turn has come, then by what its line and its page allow. -/
theorem ringRequests : Obligations.RingRequests := by
  unfold Obligations.RingRequests
  intro x m c s hcommand hparity hline
  obtain ⟨k, rfl, hclass, hexec⟩ := exec_requestCommand hcommand
  refine ⟨fun hstays => ?stays, fun hturn hroom => ?arrives⟩
  case stays =>
    rw [hexec, arrive_stays (hstays.imp_right fun hfull => ⟨hclass, hfull⟩)]
  case arrives =>
    intro u v pass
    have hact : exec c s = .next (reqArrives { x with kind := k } u) :=
      (hexec s).trans (congrArg _ (arrive_inTurn hparity hturn fun _ => hroom))
    refine ⟨fun t hopen hmode => ?nacked, fun hmode hbusy => ?queued, fun hopen hmode hreserved => ?reserved,
      fun hopen hreserved hpass hfirst hplace => ?serves, fun hopen hreserved hfirst hvic => ⟨fun hpre hbacked hdenied => ?denied,
      fun hpre hpage => ?dropped⟩⟩
    case nacked => exact hact.trans (congrArg _ (reqArrives_nacked hopen hmode))
    case queued => exact hact.trans (congrArg _ (reqArrives_queued hmode hbusy))
    case reserved => exact hact.trans (congrArg _ (reqArrives_reserved hopen hmode hreserved))
    case serves =>
      obtain ⟨hpre, hpage⟩ := hpass
      refine hact.trans (congrArg _ (reqArrives_taken hopen hreserved hfirst (takeReq_serves ?_ ?_ ?_)))
      · simpa [u] using hplace
      · simpa [u] using hpre
      · simpa [u] using hpage
    case denied =>
      refine hact.trans (congrArg _ (reqArrives_taken hopen hreserved hfirst (takeReq_denied hvic hpre ?_ ?_)))
      · simpa [u] using hbacked
      · simpa [u] using hdenied
    case dropped =>
      refine hact.trans (congrArg _ (reqArrives_taken hopen hreserved hfirst (takeReq_prefetchDropped hvic hpre ?_)))
      simpa [u] using hpage

end Sys2Proof.Machine
end

section
/-! A snoop at a stop that holds nothing and at one whose one cache holds the line in a stable state (Table 11.5, R300, R301, R304,
R310), and the ring's timers and LOCK (R305, R307, R313). -/

namespace Sys2Proof.Machine

/-! ### The snoops (R300, R301, R304) -/

/-- The commands that are a snoop at a stop other than a victim's, with the messages that arrive. -/
def snoopCommands (x : RMsg) : List (Instr × RMsg) :=
  [(.snps x, { x with kind := .snps }), (.snpx x, { x with kind := .snpx }), (.snpw x, { x with kind := .snpw })]

theorem exec_snoopCommand {x m : RMsg} {c : Instr} (h : (c, m) ∈ snoopCommands x) :
    ∃ k, m = { x with kind := k } ∧ classOf k ≠ 0 ∧ ∀ s, exec c s = .next (arrive m false (snoopArrives m) s) := by
  simp only [snoopCommands, List.mem_cons, List.not_mem_nil, or_false, Prod.mk.injEq] at h
  rcases h with ⟨rfl, rfl⟩ | ⟨rfl, rfl⟩ | ⟨rfl, rfl⟩ <;> exact ⟨_, rfl, by decide, fun _ => rfl⟩

/-! ### A cache that is snooped in a stable state (Table 11.5) -/

section
variable {a line : Nat} {x : CLine} {m : RMsg} {s : State}

@[simp] theorem leaveFilter_mem : (leaveFilter a line s).mem = s.mem := by unfold leaveFilter; split <;> rfl
@[simp] theorem supply_mem (dst : SnpDst) : (supply a x m dst s).mem = s.mem := by cases dst <;> rfl
@[simp] theorem cline_supply (b l : Nat) (dst : SnpDst) : cline (supply a x m dst s) b l = cline s b l := by cases dst <;> rfl

/-- The rows of Table 11.5 for a foreign snoop of a line in a stable state: the snoop, the state before and after, and the bits OWNER
and SHARED. -/
def stableSnoops : List (RKind × CState × CState × Bool × Bool) :=
  [(.snps, .s, .s, false, true), (.snps, .e, .s, true, true), (.snps, .o, .o, true, true), (.snps, .m, .o, true, true),
    (.snpx, .s, .i, false, false), (.snpx, .e, .i, true, false), (.snpx, .o, .i, true, false), (.snpx, .m, .i, true, false),
    (.snpw, .s, .s, false, true), (.snpw, .e, .e, false, true), (.snpw, .o, .s, false, true), (.snpw, .m, .e, false, true)]

theorem snoopLine_stable {st st' : CState} {ow sh : Bool} (hrow : (m.kind, st, st', ow, sh) ∈ stableSnoops)
    (hline : cline s a m.line = x) (hst : x.st = st) :
    ∃ u, snoopLine a x m s = (u, ow, sh) ∧ (cline u a m.line).st = st' ∧ u.mem = s.mem := by
  simp only [stableSnoops, List.mem_cons, List.not_mem_nil, or_false, Prod.mk.injEq] at hrow
  rcases hrow with ⟨hk, rfl, rfl, rfl, rfl⟩ | ⟨hk, rfl, rfl, rfl, rfl⟩ | ⟨hk, rfl, rfl, rfl, rfl⟩ | ⟨hk, rfl, rfl, rfl, rfl⟩ |
    ⟨hk, rfl, rfl, rfl, rfl⟩ | ⟨hk, rfl, rfl, rfl, rfl⟩ | ⟨hk, rfl, rfl, rfl, rfl⟩ | ⟨hk, rfl, rfl, rfl, rfl⟩ |
    ⟨hk, rfl, rfl, rfl, rfl⟩ | ⟨hk, rfl, rfl, rfl, rfl⟩ | ⟨hk, rfl, rfl, rfl, rfl⟩ | ⟨hk, rfl, rfl, rfl, rfl⟩ <;>
    simp [snoopLine, hk, hst, hline, apply_ite CLine.st, apply_ite State.mem]

end

/-! ### A stop's answer (R300) -/

/-- The answer of a stop other than the requester's to a snoop of `x`'s line, with its bits OWNER and SHARED. -/
def foreignAnswer (x : RMsg) (s : State) (ow sh : Bool) : RMsg :=
  { kind := .srsp, line := x.line, agent := x.agent, stop := x.stop, txn := x.txn, owner := ow, shared := sh
    keep := (cline s x.agent x.line).st }

section
variable {x : RMsg} {k : RKind} {s : State} (hforeign : stopOf x.agent ≠ x.stop)
include hforeign

theorem snoopArrives_nowhere (hnone : agentsAt s x.stop x.line = []) :
    (snoopArrives { x with kind := k } s).snd.lines = s.snd.lines
      ∧ (snoopArrives { x with kind := k } s).snd.flight = s.snd.flight ++ [foreignAnswer x s false false] := by
  obtain ⟨u, hlines, hflight, -, -, harrives⟩ := snoopArrives_foreign { x with kind := k } s hforeign (by simp [hnone])
  rw [harrives]
  simp only [hnone]
  exact ⟨hlines, congrArg (· ++ _) hflight⟩

theorem snoopArrives_stable {a : Nat} {st st' : CState} {ow sh : Bool} (hone : agentsAt s x.stop x.line = [a])
    (hst : (cline s a x.line).st = st) (hrow : (k, st, st', ow, sh) ∈ stableSnoops) :
    (cline (snoopArrives { x with kind := k } s) a x.line).st = st'
      ∧ (∃ pre, (snoopArrives { x with kind := k } s).snd.flight = pre ++ [foreignAnswer x s ow sh])
      ∧ (snoopArrives { x with kind := k } s).mem = s.mem := by
  have hnotWaiting : st ≠ .iso ∧ st ≠ .imo := by
    refine ⟨?_, ?_⟩ <;> rintro rfl <;> simp [stableSnoops] at hrow
  obtain ⟨u, hlines, -, hmem, -, harrives⟩ := snoopArrives_foreign { x with kind := k } s hforeign (by simp [hone, hst, hnotWaiting])
  have hsame : cline u a x.line = cline s a x.line := by simp only [cline, hlines]
  obtain ⟨w, hsnoop, hnow, hkept⟩ :=
    snoopLine_stable (m := { x with kind := k }) (s := u) hrow rfl ((congrArg CLine.st hsame).trans hst)
  rw [harrives]
  simp only [hone, List.foldl_cons, List.foldl_nil, hsnoop, Bool.false_or]
  exact ⟨hnow, ⟨w.snd.flight, rfl⟩, hkept.trans hmem⟩

end

/-! ### Backoff, reservation, timeout (R307, R313) and LOCK (R305) -/

section
variable {agent line num : Nat} {s : State}

theorem exec_requestResend {t : Nat} {m : RMsg} (hbackoff : (cline s agent line).backoff = some t)
    (hreq : (cline s agent line).req = some m) :
    ∃ u, exec (.requestResend agent line) s = .next u ∧ u.now = max s.now t
      ∧ u.snd.flight = s.snd.flight ++ [{ m with
        kind := if m.kind = .upg ∧ (cline s agent line).st = .imu then .rdx else m.kind
        aged := m.aged || decide (8 ≤ (cline s agent line).tries) }] := by
  have hexec : exec (.requestResend agent line) s = execRequestResend agent line s := rfl
  simp only [execRequestResend, hbackoff, hreq] at hexec
  exact ⟨_, hexec, passNow_now _ _, congrArg (·.flight ++ _) (passNow_snd _ _)⟩

theorem exec_reservationExpiry {r : Reserve} (hfind : (s.snd.reserved.find? fun r => r.line == line) = some r) :
    exec (.reservationExpiry line) s = .next { passNow r.until_ s with
      snd := { s.snd with reserved := dropFirst r s.snd.reserved } } := by
  have hexec : exec (.reservationExpiry line) s = execReservationExpiry line s := rfl
  simpa only [execReservationExpiry, hfind, passNow_snd] using hexec

theorem exec_transactionTimeout {t : HTxn} (hfind : (s.snd.txns.find? fun t => t.num == num) = some t) :
    exec (.transactionTimeout num) s = .next (protocolError 0x0802 3 (homeStop s.cfg t.req.line) 0xFF { t.req with txn := num } .i
      (passNow (t.start + 4096 * max 1 s.snd.timeout.toNat) s)) := by
  have hexec : exec (.transactionTimeout num) s = execTransactionTimeout num s := rfl
  simpa only [execTransactionTimeout, hfind, passNow_cfg] using hexec

theorem lockRing_locked (hlock : s.snd.lock = true) : lockRing s = s := if_pos hlock

theorem lockRing_open (hlock : s.snd.lock = false) :
    (lockRing s).snd = { s.snd with
        lock := true, filters := [], lines := s.snd.lines.filter fun l => decide (l.1 / 2 ^ 42 < 128) }
      ∧ (lockRing s).mem = s.mem := by
  rw [lockRing, if_neg (by simp [hlock])]
  exact ⟨raise_snd _ _ _ _, raise_mem _ _ _ _⟩

theorem exec_sndLock_inStage (hstage : inStage s 5 = true) (hlock : s.snd.lock = false) :
    ∃ t, exec .sndLock s = .next t ∧ t.snd.lock = true ∧ t.snd.mode = (configValue s 1 == 1) ∧ t.snd.filters = []
      ∧ t.hbr.stage = 6 ∧ t.mem = s.mem := by
  obtain ⟨hsnd, hmem⟩ := lockRing_open
    (s := { s with snd := { s.snd with mode := configValue s 1 == 1, timeout := BitVec.ofNat 16 (configValue s 2) } }) hlock
  exact ⟨_, congrArg Host.Outcome.next (if_pos hstage), congrArg Ring.lock hsnd, congrArg Ring.mode hsnd,
    congrArg Ring.filters hsnd, rfl, hmem⟩

theorem exec_sndLock_locked (hstage : inStage s 5 = false) (hlock : s.snd.lock = true) : exec .sndLock s = .next s :=
  congrArg Host.Outcome.next ((if_neg (by simp [hstage])).trans (lockRing_locked hlock))

end

/-- Settles O32: a snoop by the one cache that has its line, in a row of Table 11.5, and each timer by what it finds due. -/
theorem ringSnoopsAndTimers : Obligations.RingSnoopsAndTimers := by
  unfold Obligations.RingSnoopsAndTimers
  refine ⟨fun x m c a s hparity hline ha hcommand hforeign hturn => ?snoops, fun agent line num s => ?timers⟩
  case snoops =>
    obtain ⟨k, rfl, hclass, hexec⟩ := exec_snoopCommand hcommand
    have hact := (hexec s).trans (congrArg _ (arrive_answer hparity hclass hturn))
    refine ⟨fun hnone => ?nowhere, fun st st' ow sh hone hst hrow => ?stable⟩
    case nowhere =>
      exact ⟨_, hact, snoopArrives_nowhere (s := takeR { x with kind := k } s) hforeign hnone⟩
    case stable =>
      obtain ⟨hnow, ⟨pre, hflight⟩, hmem⟩ :=
        snoopArrives_stable (s := takeR { x with kind := k } s) hforeign hone hst hrow
      exact ⟨_, pre, hact, hnow, hflight, hmem⟩
  case timers =>
    exact ⟨fun t m hbackoff hreq => exec_requestResend hbackoff hreq, fun r hfind => exec_reservationExpiry hfind,
      fun t hfind => exec_transactionTimeout hfind, exec_sndLock_inStage, exec_sndLock_locked⟩

end Sys2Proof.Machine
end

section
/-! What reaches a requester (R285, R302, R303, R304, R307, R310, R313), and what reaches the home agent of an open transaction (R296,
R300, R302, R303, R306). -/

namespace Sys2Proof.Machine

/-! ### Lines on which no access waits: they meet nothing again (R281, R309) -/

theorem mem_put {α : Type} [DecidableEq α] {d v : α} {k : Nat} {l : SMap α} {p : Nat × α} (h : p ∈ put d k v l) :
    p = (k, v) ∨ p ∈ l := by
  induction l with
  | nil => unfold put at h; split at h <;> simp_all
  | cons q r ih =>
    obtain ⟨i, x⟩ := q
    have hrest (h : p ∈ r.filter fun q => q.1 != k) : p ∈ (i, x) :: r := .tail _ (List.mem_filter.1 h).1
    unfold put at h
    split at h
    next => exact (ih h).imp_right (.tail _)
    next =>
      split at h
      next =>
        split at h <;> simp only [List.mem_cons] at h hrest ⊢ <;> tauto
      next =>
        simp only [List.mem_cons] at h ⊢
        tauto

theorem look_eq_default_or_mem {α : Type} (d : α) (l : SMap α) (k : Nat) : look d l k = d ∨ (k, look d l k) ∈ l := by
  induction l with
  | nil => exact .inl rfl
  | cons q r ih =>
    obtain ⟨i, x⟩ := q
    unfold look
    split
    next hi => exact .inr (hi ▸ .head _)
    next => exact ih.imp_right (.tail _)

/-- An agent goes on at a line, and then at those that waited for it to have a request to spare (R281, R309). -/
def lineGoesOn (agent line : Nat) (s : State) : State := restart agent (performWaiting agent line s)

/-- No access waits for a line of any agent. -/
def NoneWaits (s : State) : Prop := ∀ p ∈ s.snd.lines, p.2.waiting = []

section
variable {agent line : Nat} {s : State} (hnone : NoneWaits s)
include hnone

theorem NoneWaits.cline : (cline s agent line).waiting = [] := by
  rcases look_eq_default_or_mem {} s.snd.lines (clKey agent line) with hunlisted | hlisted
  · exact congrArg CLine.waiting hunlisted
  · exact hnone _ hlisted

theorem NoneWaits.setCline {x : CLine} (hx : x.waiting = []) : NoneWaits (setCline agent line x s) := by
  intro p hp
  rcases mem_put hp with rfl | hold
  · exact hx
  · exact hnone p hold

theorem NoneWaits.restart : restart agent s = s := by
  have hempty : (s.snd.lines.filter fun p => p.1 / 2 ^ 42 == agent && p.2.req.isNone && !p.2.waiting.isEmpty) = [] :=
    List.filter_eq_nil_iff.2 fun p hp => by simp [hnone p hp]
  rw [Machine.restart, hempty]
  rfl

/-- Setting a line on which nothing waits brings no message as its agent goes on. -/
theorem NoneWaits.lineGoesOn_flight (x : CLine) (hx : x.waiting = []) :
    (lineGoesOn agent line (Machine.setCline agent line x s)).snd.flight = s.snd.flight := by
  have hperform : performWaiting agent line (Machine.setCline agent line x s) =
      Machine.setCline agent line { x with waiting := [] } (Machine.setCline agent line x s) := by
    simp [performWaiting, hx]
  rw [lineGoesOn, hperform, ((hnone.setCline hx).setCline rfl).restart]
  rfl

end

/-! ### A grant at its requester (Table 11.5, R285, R303, R304, R310) -/

/-- The line of a cache-block operation that has ended. -/
def endCbo (agent line : Nat) (s : State) : State :=
  setCline agent line { cline s agent line with cbo := none, req := none, tries := 0 } s

section
variable {m : RMsg} {y : CLine} {s : State} (hline : cline s m.agent m.line = y)
include hline

section
variable (hcbo : y.cbo = none)
include hcbo

section
variable (hchk : y.chk = false)
include hchk

theorem gntArrives_installs (hst : y.st = .iso ∨ y.st = .imo) (hgrant : ∀ r, m.grant ≠ .deny r) :
    gntArrives m s = install m.agent m.line (setCline m.agent m.line { y with gnt := some m } s) := by
  cases hg : m.grant with
  | deny r => exact absurd hg (hgrant r)
  | _ => rcases hst with hst | hst <;> simp [gntArrives, hline, hcbo, hchk, hst, hg]

theorem gntArrives_denied {r : Nat} {st back : CState} (hdeny : m.grant = .deny r) (hst : y.st = st)
    (hback : (st, back) ∈ [(CState.isu, CState.i), (.imu, .i), (.smu, .s), (.omu, .o)]) :
    gntArrives m s = denyReq m.agent m.line r back s := by
  simp only [List.mem_cons, List.not_mem_nil, or_false, Prod.mk.injEq] at hback
  rcases hback with ⟨rfl, rfl⟩ | ⟨rfl, rfl⟩ | ⟨rfl, rfl⟩ | ⟨rfl, rfl⟩ <;> simp [gntArrives, hline, hcbo, hchk, hdeny, hst]

end

section
variable (hchk : y.chk = true)
include hchk

theorem gntArrives_chkGranted (hgrant : ∀ r, m.grant ≠ .deny r) : gntArrives m s =
    lineGoesOn m.agent m.line (setCline m.agent m.line { y with
      chk := false, ctx := (y.req.map (·.ctx)).getD y.ctx, req := none, starter := none, tries := 0 } s) := by
  cases hg : m.grant with
  | deny r => exact absurd hg (hgrant r)
  | _ => simp [gntArrives, hline, hcbo, hchk, hg, lineGoesOn]

theorem gntArrives_chkDenied {r : Nat} (hdeny : m.grant = .deny r) : gntArrives m s = denyReq m.agent m.line r y.st s := by
  simp [gntArrives, hline, hcbo, hchk, hdeny]

end

end

section
variable (hcbo : y.cbo.isSome = true)
include hcbo

theorem gntArrives_cboDenied {r : Nat} (hdeny : m.grant = .deny r) : gntArrives m s =
    lineGoesOn m.agent m.line (hartFault { hart := m.agent, ctx := (y.req.map (·.ctx)).getD 0, addr := m.line * 64
                                           write := none, size := 0, cbo := y.cbo, va := y.cboVa } r (endCbo m.agent m.line s)) := by
  simp [gntArrives, hline, hcbo, hdeny, lineGoesOn, endCbo]

theorem gntArrives_cboGranted (hgrant : ∀ r, m.grant ≠ .deny r) : gntArrives m s =
    advanceRegion (lineGoesOn m.agent m.line (if s.snd.mode then endCbo m.agent m.line s
      else sendR { kind := .cack, line := m.line, agent := m.agent, txn := m.txn } (endCbo m.agent m.line s))) := by
  have hmode (x : CLine) : (setCline m.agent m.line x s).snd.mode = s.snd.mode := rfl
  cases hg : m.grant with
  | deny r => exact absurd hg (hgrant r)
  | _ => simp [gntArrives, hline, hcbo, hg, lineGoesOn, endCbo, hmode]

end

/-! ### Data, a NACK and SNPV at the requester (Table 11.5, R302, R307, R313) -/

theorem dataArrives_kept (hst : y.st ∈ [CState.isu, .imu, .smu, .omu]) : dataArrives m s =
    setCline m.agent m.line { y with data := some (m.bytes, m.poison || !m.dataOk) } s := by
  simp only [List.mem_cons, List.not_mem_nil, or_false] at hst
  rcases hst with hst | hst | hst | hst <;> simp [dataArrives, hline, hst]

theorem nackArrives_backsOff (hopen : y.cbo.isSome = true ∨ y.chk = true ∨ y.st ∈ [CState.isu, .imu, .smu, .omu, .wb]) :
    nackArrives m s = setCline m.agent m.line { y with
      tries := y.tries + 1, backoff := some (s.now + 32 * 2 ^ min y.tries 3 + 4 * (m.agent % 8)) } s := by
  subst hline
  simp only [List.mem_cons, List.not_mem_nil, or_false] at hopen
  rcases hopen with hcbo | hchk | hst
  · simp [nackArrives, hcbo]
  · simp [nackArrives, hchk]
  · rcases hst with hst | hst | hst | hst | hst <;> simp [nackArrives, hst]

theorem nackArrives_victimGone (hcbo : y.cbo = none) (hchk : y.chk = false) (hst : y.st = .wbn) : nackArrives m s =
    lineGoesOn m.agent m.line (setCline m.agent m.line { waiting := y.waiting } s) := by
  simp [nackArrives, hline, hcbo, hchk, hst, lineGoesOn]

section
variable (hnone : NoneWaits s)
include hnone

theorem snpvArrives_supplies (hst : y.st = .wb) : (snpvArrives m s).snd.flight = s.snd.flight ++
    [{ kind := .wdata, line := m.line, agent := m.agent, txn := m.txn, bytes := y.bytes, poison := y.poison
       dirty := if y.wbM then .m else .o }] := by
  subst hline
  have hsupplied : NoneWaits (supply m.agent (cline s m.agent m.line) m .home s) := hnone
  simp only [snpvArrives, hst]
  refine (hsupplied.lineGoesOn_flight { waiting := _ } hnone.cline).trans ?_
  simp [supply, sendR, hst]

theorem snpvArrives_cancels (hst : y.st = .wbn) :
    (snpvArrives m s).snd.flight = s.snd.flight ++ [{ kind := .wcan, line := m.line, agent := m.agent, txn := m.txn }] := by
  subst hline
  have hcancelled : NoneWaits (sendR { kind := .wcan, line := m.line, agent := m.agent, txn := m.txn } s) := hnone
  simp only [snpvArrives, hst]
  exact hcancelled.lineGoesOn_flight { waiting := _ } hnone.cline

end

end

/-! ### Answers at the home agent of an open transaction (R296, R300, R302, R303, R306) -/

theorem find?_and_of_find? {α : Type} {p q : α → Bool} {l : List α} {a : α} (h : l.find? p = some a) (hq : q a = true) :
    (l.find? fun b => p b && q b) = some a := by
  obtain ⟨hp, before, after, rfl, hbefore⟩ := List.find?_eq_some_iff_append.1 h
  have hskipped (b : α) (hb : b ∈ before) : (!(p b && q b)) = true := by
    have hpb : p b = false := by simpa using hbefore b hb
    simp [hpb]
  exact List.find?_eq_some_iff_append.2 ⟨by simp [hp, hq], before, after, rfl, hskipped⟩

/-- A home cache with room in the filter and in the line's set takes the line (R296, R312). -/
theorem allocHome_room {line : Nat} {s : State} (st : CState) (bs : List Byte) (poison : Bool) (c : Nat)
    (hfilter : filterRoom s line = true) (hway : homeOf (line * 64) ≠ 0 ∨ (sliceWays s line).length < 12) :
    (allocHome line st bs poison c s).2 = true := by
  have htaken : takeSliceWay line s = some s := if_pos hway
  simp only [allocHome, hfilter, htaken, if_true]

section
variable {m : RMsg} {t : HTxn} {s : State}
  (hfind : (s.snd.txns.find? fun t => t.num == m.txn && t.req.line == m.line) = some t)
include hfind

/-- A transaction with one stop's answer to its snoop taken in (R300). -/
def answered (t : HTxn) (m : RMsg) : HTxn :=
  { t with left := t.left.filter (· != m.stop), owner := t.owner || m.owner, shared := t.shared || m.shared
           holds := t.holds || m.holds, keep := if m.holds then m.keep else t.keep }

theorem srspArrives_awaited (victim : Option Nat) (hstop : m.stop ∈ t.left) (howner : (t.owner && m.owner) = false) :
    srspArrives m victim s = tryGrant t.num victim (setTxn (answered t m) s) := by
  simp [srspArrives, hfind, hstop, howner, answered]

theorem wcanArrives_victim (hvic : t.req.kind = .vic) : wcanArrives m s = closeTxn t s := by
  have hfound := find?_and_of_find? (q := fun t => t.req.kind == .vic) hfind (by simp [hvic])
  simp only [wcanArrives, hfound]

theorem cackArrives_awaited (hcack : t.waitCack = true) :
    cackArrives m s = settleTxn t.num (setTxn { t with waitCack := false } s) := by
  have hfound := find?_and_of_find? (q := fun t => t.waitCack) hfind hcack
  simp only [cackArrives, hfound]

theorem udataArrives_awaited (hdata : t.waitData = true) : udataArrives m s =
    let w := decideLine { ctx := m.ctx, who := m.agent, addr := m.line * 64, write := some (padTo 64 m.bytes, m.mask)
                          bad := !m.dataOk, poison := m.poison, ring := true } s
    if storeHeld w m.line then setTxn { t with stored := true } w else settleTxn t.num (setTxn { t with waitData := false } w) := by
  have hfound := find?_and_of_find? (q := fun t => t.waitData) hfind hdata
  simp only [udataArrives, hfound]

theorem wdataArrives_victim (hvic : t.req.kind = .vic) (hfilter : filterRoom s m.line = true)
    (hway : homeOf (m.line * 64) ≠ 0 ∨ (sliceWays s m.line).length < 12) : wdataArrives m none s =
      closeTxn t (allocHome m.line m.dirty m.bytes (m.poison || !m.dataOk) t.req.ctx s).1 := by
  have hroom := allocHome_room m.dirty m.bytes (m.poison || !m.dataOk) t.req.ctx hfilter hway
  simp only [wdataArrives, hfind, hvic, replaceHome, if_true]
  split
  next halloc => rw [halloc]
  next halloc => rw [halloc] at hroom; contradiction

end

/-- A message that is not a request, in its turn and with an intact header, ends in the state that it leads to. -/
theorem next_arrive {x : RMsg} {k : RKind} {home : Bool} {act : State → State} {s t : State} (hclass : classOf k ≠ 0)
    (hparity : x.parity = true) (hturn : firstOnWay s { x with kind := k } = true)
    (hact : act (takeR { x with kind := k } s) = t) :
    (Host.Outcome.next (arrive { x with kind := k } home act s) : Host.Outcome State Fault Refusal) = .next t :=
  congrArg _ ((arrive_answer (m := { x with kind := k }) hparity hclass hturn).trans hact)

/-- Settles O33: each message by the state that its line or its transaction is in as it arrives in its turn. -/
theorem ringAnswers : Obligations.RingAnswers := by
  unfold Obligations.RingAnswers
  refine ⟨fun x s hparity => ?requester, fun x v t s hparity hnum hreq hfind => ?home⟩
  case requester =>
    intro y
    refine ⟨fun m hm hturn hcbo hchk => ⟨fun hst hgrant => ?installs, fun r st back hdeny hst hback => ?denied⟩,
      fun m hm hturn => ⟨fun hcbo hchk hgrant => ?chkGranted, fun r hcbo hchk hdeny => ?chkDenied, fun r hcbo hdeny => ?cboDenied,
        fun hcbo hgrant => ?cboGranted⟩,
      fun m hm hturn hst => ?data, fun m hm hturn => ⟨fun hopen => ?backsOff, fun hcbo hchk hst => ?victimGone⟩,
      fun m hm hturn hnone => ⟨fun hst => ?supplies, fun hst => ?cancels⟩⟩ <;> subst hm
    case installs => exact next_arrive (by decide) hparity hturn (gntArrives_installs rfl hcbo hchk hst hgrant)
    case denied =>
      refine next_arrive (by decide) hparity hturn ?_
      exact gntArrives_denied (m := { x with kind := .gnt }) (s := takeR _ s) rfl hcbo hchk hdeny hst hback
    case chkGranted => exact next_arrive (by decide) hparity hturn (gntArrives_chkGranted rfl hcbo hchk hgrant)
    case chkDenied =>
      refine next_arrive (by decide) hparity hturn ?_
      exact gntArrives_chkDenied (m := { x with kind := .gnt }) (s := takeR _ s) rfl hcbo hchk hdeny
    case cboDenied =>
      refine next_arrive (by decide) hparity hturn ?_
      exact gntArrives_cboDenied (m := { x with kind := .gnt }) (s := takeR _ s) rfl hcbo hdeny
    case cboGranted => exact next_arrive (by decide) hparity hturn (gntArrives_cboGranted rfl hcbo hgrant)
    case data => exact next_arrive (by decide) hparity hturn (dataArrives_kept rfl hst)
    case backsOff => exact next_arrive (by decide) hparity hturn (nackArrives_backsOff rfl hopen)
    case victimGone => exact next_arrive (by decide) hparity hturn (nackArrives_victimGone rfl hcbo hchk hst)
    case supplies => exact ⟨_, next_arrive (by decide) hparity hturn rfl, snpvArrives_supplies rfl hnone hst⟩
    case cancels => exact ⟨_, next_arrive (by decide) hparity hturn rfl, snpvArrives_cancels rfl hnone hst⟩
  case home =>
    refine ⟨fun hturn hstop howner => ?srsp, fun hvic => ⟨fun hturn => ?wcan, fun hturn hfilter hway hv => ?wdata⟩,
      fun hcack hturn => ?cack, fun hdata hturn => ?udata⟩
    case srsp =>
      refine next_arrive (by decide) hparity hturn ?_
      exact srspArrives_awaited (m := { x with kind := .srsp }) (s := takeR _ s) hfind v hstop howner
    case wcan => exact next_arrive (by decide) hparity hturn (wcanArrives_victim hfind hvic)
    case wdata =>
      subst hv
      exact next_arrive (by decide) hparity hturn (wdataArrives_victim hfind hvic hfilter hway)
    case cack => exact next_arrive (by decide) hparity hturn (cackArrives_awaited hfind hcack)
    case udata => exact next_arrive (by decide) hparity hturn (udataArrives_awaited hfind hdata)

end Sys2Proof.Machine
end

section
/-! Answers, folds and ports shared by the statements about the Zuong link (R318 to R350). -/

namespace Sys2Proof.Machine

/-! ### Answers -/

/-- What a command comes to is its answer. -/
theorem next_congr {s t : State} (h : s = t) : (Host.Outcome.next s : Host.Outcome State Fault Refusal) = .next t := congrArg _ h

/-! ### Folds in which little happens -/

/-- A fold each of whose steps leaves the start as it is. -/
theorem foldl_fixed_of_mem {α β : Type} {f : β → α → β} {l : List α} {b : β} (h : ∀ a ∈ l, f b a = b) : l.foldl f b = b := by
  induction l with
  | nil => rfl
  | cons a l ih =>
    rw [List.foldl_cons, h a List.mem_cons_self]
    exact ih fun c hc => h c (List.mem_cons_of_mem a hc)

/-- A fold in which one element alone acts. -/
theorem foldl_once {α β : Type} {f : β → α → β} {l : List α} {m : α} {b : β} (hnodup : l.Nodup) (hm : m ∈ l)
    (hbefore : ∀ k ∈ l, k ≠ m → f b k = b) (hafter : ∀ k ∈ l, k ≠ m → f (f b m) k = f b m) : l.foldl f b = f b m := by
  obtain ⟨before, after, rfl⟩ := List.append_of_mem hm
  obtain ⟨-, htail, hdisjoint⟩ := List.nodup_append.1 hnodup
  rw [List.foldl_append, List.foldl_cons,
    foldl_fixed_of_mem fun k hk => hbefore k (List.mem_append_left _ hk) (hdisjoint k hk m List.mem_cons_self)]
  refine foldl_fixed_of_mem fun k hk => hafter k (List.mem_append_right _ (List.mem_cons_of_mem _ hk)) ?_
  rintro rfl
  exact (List.nodup_cons.1 htail).1 hk

/-- A test that one number alone passes filters that number out of a range. -/
theorem range_filter_single {n l : Nat} {f : Nat → Bool} (hl : l < n) (h : ∀ k < n, (f k = true ↔ k = l)) :
    (List.range n).filter f = [l] := by
  have hcongr : (List.range n).filter f = (List.range n).filter (· == l) :=
    List.filter_congr fun k hk => Bool.eq_iff_iff.2 ((h k (List.mem_range.1 hk)).trans beq_iff_eq.symm)
  rw [hcongr, List.filter_beq, List.count_eq_one_of_mem List.nodup_range (List.mem_range.2 hl)]
  rfl

/-! ### Ports -/

@[simp] theorem portOf_setPort_same (p : Nat) (x : Port) (s : State) : portOf (setPort p x s) p = x := look_put_same _ _ _ _

theorem portOf_setPort_other {p k : Nat} (h : k ≠ p) (x : Port) (s : State) : portOf (setPort p x s) k = portOf s k :=
  look_put_other _ _ _ _ _ _ h

theorem portActive_iff {s : State} {p : Nat} : portActive s p = true ↔ (portOf s p).phase = .active := beq_iff_eq

theorem portActive_eq_false {s : State} {p : Nat} (h : (portOf s p).phase ≠ .active) : portActive s p = false :=
  beq_eq_false_iff_ne.2 h

theorem portCarries_iff {s : State} {p : Nat} :
    portCarries s p = true ↔ (portOf s p).phase = .active ∨ (portOf s p).phase = .retrain := by
  simp only [portCarries, Bool.or_eq_true, beq_iff_eq]

end Sys2Proof.Machine
end

section
/-! Training and retraining of a Zuong port (R321 to R327, R329, R352). -/

namespace Sys2Proof.Machine

/-! ### The choice of the spare lane (R322) -/

section
variable {bad : BitVec 5} {x : Port} {l : Nat}

/-- Two bad data lanes are one too many. -/
theorem selectSpare_two {k : Nat} (hl : l < 4) (hk : k < 4) (hne : l ≠ k) (hbadl : bad.getLsbD (physLane x l) = true)
    (hbadk : bad.getLsbD (physLane x k) = true) : selectSpare bad x = none := by
  have hhitl : l ∈ (List.range 4).filter fun l => bad.getLsbD (physLane x l) := List.mem_filter.2 ⟨List.mem_range.2 hl, hbadl⟩
  have hhitk : k ∈ (List.range 4).filter fun l => bad.getLsbD (physLane x l) := List.mem_filter.2 ⟨List.mem_range.2 hk, hbadk⟩
  unfold selectSpare
  dsimp only
  split
  next hnone => rw [hnone] at hhitl; cases hhitl
  next hone =>
    rw [hone, List.mem_singleton] at hhitl hhitk
    exact absurd (hhitl.trans hhitk.symm) hne
  next => rfl

theorem selectSpare_zero : selectSpare 0 x = some (x, false) := by
  simp [selectSpare]

/-- One bad data lane moves to a spare that is free and good. -/
theorem selectSpare_takes (hhit : (List.range 4).filter (fun l => bad.getLsbD (physLane x l)) = [l]) (hfree : x.spare = false)
    (hgood : bad.getLsbD 4 = false) : selectSpare bad x = some ({ x with
      spare := true, failed := x.failed ||| BitVec.ofNat 5 (2 ^ physLane x l)
      map := BitVec.ofNat 12 (x.map.toNat - physLane x l * 8 ^ l + 4 * 8 ^ l) }, true) := by
  simp only [selectSpare, hhit, hfree, hgood, Bool.or_self, Bool.false_eq_true, if_false]

/-- A bad data lane without a spare is one too many. -/
theorem selectSpare_taken (hhit : (List.range 4).filter (fun l => bad.getLsbD (physLane x l)) = [l]) (htaken : x.spare = true) :
    selectSpare bad x = none := by
  simp [selectSpare, hhit, htaken]

end

/-- A mask of one bit holds that bit alone. -/
theorem getLsbD_single {n : Nat} (hn : n < 5) (k : Nat) : (BitVec.ofNat 5 (2 ^ n)).getLsbD k = true ↔ k = n := by
  rw [BitVec.getLsbD_ofNat, Bool.and_eq_true, decide_eq_true_eq, Nat.testBit_two_pow, decide_eq_true_eq]
  omega

/-! ### The scans of ALIGN (R321, R323) -/

theorem laneVerdict_wide {e : Nat × Nat × Nat × Nat} (h : 8 ≤ e.1 ∧ 8 ≤ e.2.1 ∧ 3 ≤ e.2.2.1 ∧ 3 ≤ e.2.2.2) :
    laneVerdict e = false := by
  obtain ⟨hleft, hright, hlow, hhigh⟩ := h
  simp [laneVerdict, hleft, hright, hlow, hhigh]

theorem scanBad_wide {s : State} {scans : List (Nat × Nat × Nat × Nat)}
    (h : s.mode = .train → ∀ e ∈ scans, 8 ≤ e.1 ∧ 8 ≤ e.2.1 ∧ 3 ≤ e.2.2.1 ∧ 3 ≤ e.2.2.2) : scanBad s scans = 0 := by
  unfold scanBad
  split
  next htrain =>
    rw [foldl_fixed_of_mem]
    · rfl
    · rintro ⟨e, i⟩ he
      have hmem : e ∈ scans := List.mem_of_mem_take (List.fst_mem_of_mem_zipIdx he)
      simp [laneVerdict_wide (h htrain e hmem)]
  next => rfl

/-! ### The commands of training (R321, R322, R324) -/

section
variable {p : Nat} {s : State}

theorem exec_detect (h : (portOf s p).phase = .detect) :
    exec (.detect p) s = .next (setPort p { portOf s p with phase := .equalise, present := some true } s) := congrArg _ (if_pos h)

theorem exec_detect_other (h : (portOf s p).phase ≠ .detect) : exec (.detect p) s = .next s := congrArg _ (if_neg h)

theorem exec_equalise (h : (portOf s p).phase = .equalise) :
    exec (.equalise p) s = .next (setPort p { portOf s p with phase := .align } s) := congrArg _ (if_pos h)

theorem exec_equalise_other (h : (portOf s p).phase ≠ .equalise) : exec (.equalise p) s = .next s := congrArg _ (if_neg h)

section
variable {bad : BitVec 5} {scans : List (Nat × Nat × Nat × Nat)} (halign : (portOf s p).phase = .align)
include halign

theorem exec_align_fails (h : selectSpare (bad ||| scanBad s scans) (portOf s p) = none) :
    exec (.align p bad scans) s = .next (failAttempt p s) := by
  change execAlign p bad scans s = _
  simp only [execAlign, halign, h, ne_eq, not_true_eq_false, if_false]

theorem exec_align_goesOn {y : Port} {took : Bool}
    (h : selectSpare (bad ||| scanBad s scans) (portOf s p) = some (y, took)) : exec (.align p bad scans) s =
      .next (if took then raise 0x0903 p [] (setPort p { y with phase := .linkup } s) else setPort p { y with phase := .linkup } s) := by
  change execAlign p bad scans s = _
  simp only [execAlign, halign, h, ne_eq, not_true_eq_false, if_false]

end

section
variable {peer req ctl trip : Nat} (hlinkup : (portOf s p).phase = .linkup)
include hlinkup

theorem linkUp_fewCredits (hkeep : (portOf s p).keep = false) (hfew : req < 64 ∨ ctl < 16) :
    linkUp p peer req ctl trip s = failAttempt p s := by
  simp [linkUp, hlinkup, hkeep, hfew]

section
variable (hreq : 64 ≤ req) (hctl : 16 ≤ ctl)
include hreq hctl

theorem linkUp_anyPeer (hany : expectedPeer s = none) :
    linkUp p peer req ctl trip s = endTakeover (portUp p (trip / 2) (some (req, ctl))
      (if s.zng.peerSet then s else { s with zng := { s.zng with peerId := BitVec.ofNat 32 peer, peerSet := true } })) := by
  simp [linkUp, hlinkup, hany, Nat.not_lt.2 hreq, Nat.not_lt.2 hctl]

theorem linkUp_wrongPeer {other : Nat} (hother : expectedPeer s = some other) (hne : peer ≠ other) :
    linkUp p peer req ctl trip s = endTakeover (failAttempt p (raise 0x090C p [] s)) := by
  simp [linkUp, hlinkup, hother, hne.symm, Nat.not_lt.2 hreq, Nat.not_lt.2 hctl]

end

end

theorem exec_trainingTimeout
    (h : (portOf s p).phase = .detect ∨ (portOf s p).phase = .equalise ∨ (portOf s p).phase = .align ∨ (portOf s p).phase = .linkup) :
    exec (.trainingTimeout p) s = .next (failAttempt p s) := congrArg _ (if_pos h)

section
variable (hkeep : (portOf s p).keep = false)
include hkeep

theorem failAttempt_again (hfew : (portOf s p).attempts < 2) : failAttempt p s = setPort p { portOf s p with
    attempts := (portOf s p).attempts + 1, phase := if s.zng.portEn.getLsbD p then .detect else .down } s := by
  have hleft : (portOf s p).attempts + 1 < 3 := by omega
  simp only [failAttempt, hkeep, Bool.false_eq_true, if_false, hleft, if_true]

theorem failAttempt_third (hmany : 2 ≤ (portOf s p).attempts) : failAttempt p s = losePort p false s := by
  have hleft : ¬ (portOf s p).attempts + 1 < 3 := by omega
  simp only [failAttempt, hkeep, Bool.false_eq_true, if_false, hleft]

end

/-! ### Retraining (R325, R327, R352) -/

/-- A retrain has begun on a port that was ACTIVE, with its cause and the lane that it is to replace. -/
def retrainBegun (p cause : Nat) (lane : Option Nat) (s : State) : State :=
  raise 0x0902 p [(1, Config.causeCode 0x0902 cause)] (setPort p { portOf s p with
    phase := .retrain, cause := cause, swap := lane, naks := 0
    retrains := if (portOf s p).retrains = 0xFF then (portOf s p).retrains else (portOf s p).retrains + 1 } s)

theorem startRetrain_active (h : (portOf s p).phase = .active) (cause : Nat) (lane : Option Nat) :
    startRetrain p cause lane s = retrainBegun p cause lane s := if_neg (not_not_intro h)

theorem startRetrain_other (h : (portOf s p).phase ≠ .active) (cause : Nat) (lane : Option Nat) :
    startRetrain p cause lane s = s := if_pos h

section
variable (hretrain : (portOf s p).phase = .retrain)
include hretrain

theorem retrainEnds_well {peer : Nat} (hswap : (portOf s p).swap = none) (trip : Nat) (hpeer : ∀ e, expectedPeer s = some e → e = peer) :
    retrainEnds p 0 peer trip s = pumpHost (pump p (resend p (raise 0x0901 p [] (setPort p { portOf s p with
      phase := .active, fails := 0, swap := none, latency := BitVec.ofNat 16 (min (trip / 2) 0xFFFF) } s)))) := by
  have hright : (expectedPeer s).any (· != peer) = false := by
    cases hexp : expectedPeer s with
    | none => rfl
    | some e => simp [hpeer e hexp]
  have hspare : selectSpare (0 ||| (portOf s p).swap.elim 0 fun n => BitVec.ofNat 5 (2 ^ n)) (portOf s p) = some (portOf s p, false) := by
    rw [hswap]
    exact selectSpare_zero
  simp only [retrainEnds, hretrain, hspare, hright, ne_eq, not_true_eq_false, Bool.false_eq_true, if_false]

theorem retrainEnds_third {bad : BitVec 5} (peer trip : Nat)
    (hspare : selectSpare (bad ||| (portOf s p).swap.elim 0 fun n => BitVec.ofNat 5 (2 ^ n)) (portOf s p) = none)
    (hmany : 2 ≤ (portOf s p).fails) : retrainEnds p bad peer trip s = losePort p false s := by
  have hleft : ¬ (portOf s p).fails + 1 < 3 := by omega
  simp only [retrainEnds, hretrain, hspare, ne_eq, not_true_eq_false, if_false, hleft]

end

theorem retrainEnds_other (h : (portOf s p).phase ≠ .retrain) (bad : BitVec 5) (peer trip : Nat) :
    retrainEnds p bad peer trip s = s := if_pos h

end

/-- Settles O49: each phase by its command, ALIGN by the lanes that `selectSpare` is given, a retrain by its start and its end. -/
theorem portTraining : Obligations.PortTraining := by
  unfold Obligations.PortTraining
  refine ⟨fun p s => ?training, fun p s => ?retraining⟩
  case training =>
    intro x
    refine ⟨exec_detect, exec_equalise, fun bad scans l hl k hk halign hne hbadl hbadk => ?two, exec_detect_other, exec_equalise_other,
      fun scans halign hwide => ?align, fun hlinkup hkeep peer req ctl trip hfew => ?fewCredits,
      fun hlinkup hkeep peer req ctl trip hreq hctl hany => ?up,
      fun hlinkup hkeep peer other req ctl trip hreq hctl hother hne => ?wrongPeer, exec_trainingTimeout, failAttempt_again,
      failAttempt_third⟩
    case two =>
      refine exec_align_fails halign (selectSpare_two hl hk hne ?_ ?_)
      · rw [BitVec.getLsbD_or, hbadl, Bool.true_or]
      · rw [BitVec.getLsbD_or, hbadk, Bool.true_or]
    case align =>
      have hscan (bad : BitVec 5) : bad ||| scanBad s scans = bad := by rw [scanBad_wide hwide]; exact BitVec.or_zero
      refine ⟨?_, fun l hl hfree hmap => ?_, fun l hl htaken hphys hapart => ?_⟩
      · exact exec_align_goesOn halign ((congrArg (selectSpare · x) (hscan 0)).trans selectSpare_zero)
      · have hhit : (List.range 4).filter (fun k => (BitVec.ofNat 5 (2 ^ l)).getLsbD (physLane x k)) = [l] :=
          range_filter_single hl fun k hk => by rw [hmap k hk]; exact getLsbD_single (by omega) k
        have hgood : (BitVec.ofNat 5 (2 ^ l)).getLsbD 4 = false := by
          rw [Bool.eq_false_iff, ne_eq, getLsbD_single (by omega)]
          omega
        have hspare := selectSpare_takes hhit hfree hgood
        rw [hmap l hl] at hspare
        exact exec_align_goesOn halign ((congrArg (selectSpare · x) (hscan _)).trans hspare)
      · have hhit : (List.range 4).filter (fun k => (BitVec.ofNat 5 (2 ^ physLane x l)).getLsbD (physLane x k)) = [l] :=
          range_filter_single hl fun k hk => (getLsbD_single hphys _).trans
            ⟨fun heq => by_contra fun hne => hapart k hk hne heq, fun heq => by rw [heq]⟩
        exact exec_align_fails halign ((congrArg (selectSpare · x) (hscan _)).trans (selectSpare_taken hhit htaken))
    case fewCredits => exact next_congr (congrArg drainHarts (linkUp_fewCredits hlinkup hkeep hfew))
    case up => exact next_congr (congrArg drainHarts (linkUp_anyPeer hlinkup hreq hctl hany))
    case wrongPeer => exact next_congr (congrArg drainHarts (linkUp_wrongPeer hlinkup hreq hctl hother hne))
  case retraining =>
    intro x begins
    refine ⟨fun hactive => ⟨next_congr (startRetrain_active hactive 1 none), next_congr (startRetrain_active hactive 2 none), fun lane => ?_⟩,
      fun hother => ⟨next_congr (startRetrain_other hother 1 none), next_congr (startRetrain_other hother 2 none)⟩,
      fun hretrain hswap peer trip hpeer => ?_, fun hretrain bad peer trip hspare hmany => ?_, fun hother bad peer trip => ?_⟩
    · exact next_congr (if_congr Iff.rfl (startRetrain_active hactive 3 (some lane)) rfl)
    · exact next_congr (congrArg drainHarts (retrainEnds_well hretrain hswap trip hpeer))
    · exact next_congr (congrArg drainHarts (retrainEnds_third hretrain peer trip hspare hmany))
    · exact next_congr (congrArg drainHarts (retrainEnds_other hother bad peer trip))

end Sys2Proof.Machine
end

section
/-! Flits of a Zuong port, their acknowledgements and its credits (R319, R325 to R329). -/

namespace Sys2Proof.Machine

section
variable {p : Nat} {s : State} (hactive : (portOf s p).phase = .active)
include hactive

/-! ### Flits that are bad, and good ones by their TYPE (R319, R326, R327) -/

section
variable {bytes : List Byte} {corr : List Nat} {uncorr : Nat}

theorem exec_dataFlit_bad (hbad : flitGood bytes uncorr = false) :
    exec (.dataFlit p bytes corr uncorr) s = .next (badFlit p (countFec p corr uncorr s)) := by
  change execDataFlit p bytes corr uncorr s = _
  simp only [execDataFlit, portActive_iff.2 hactive, hbad, Bool.not_false, if_true]

theorem exec_idleFlit_bad (hbad : flitGood bytes uncorr = false) :
    exec (.idleFlit p bytes corr uncorr) s = .next (badFlit p (countFec p corr uncorr s)) := by
  change execIdleFlit p bytes corr uncorr s = _
  simp only [execIdleFlit, portActive_iff.2 hactive, hbad, Bool.false_eq_true, if_true, if_false]

theorem exec_nak_bad (hbad : flitGood bytes uncorr = false) :
    exec (.nak p bytes corr uncorr) s = .next (badFlit p (countFec p corr uncorr s)) := by
  change execNak p bytes corr uncorr s = _
  simp only [execNak, portActive_iff.2 hactive, hbad, Bool.not_false, if_true]

section
variable (hgood : flitGood bytes uncorr = true)
include hgood

/-- How far ahead of the expected SEQ a flit is, modulo 4,096 (R327). -/
def flitAhead (p : Nat) (bytes : List Byte) (t : State) : Nat := (flitSeq bytes + 4096 - ((portOf t p).ack + 1) % 4096) % 4096

theorem exec_dataFlit_good (htype : flitType bytes = 1) :
    let t := takeAck p (flitAck bytes) (countFec p corr uncorr s)
    exec (.dataFlit p bytes corr uncorr) s = .next (
      if flitAhead p bytes t = 0 then
        drainHarts (takeBody p (slice bytes 4 248) (setPort p { portOf t p with ack := flitSeq bytes, nakAt := none } t))
      else if flitAhead p bytes t < 2048 then sendNak p t else t) := by
  intro t
  change execDataFlit p bytes corr uncorr s = _
  simp only [execDataFlit, portActive_iff.2 hactive, hgood, htype, Bool.not_true, Bool.false_eq_true, ne_eq, not_true_eq_false,
    if_true, if_false, apply_ite Host.Outcome.next]
  rfl

theorem exec_idleFlit_good (htype : flitType bytes = 0) :
    exec (.idleFlit p bytes corr uncorr) s = .next (takeAck p (flitAck bytes) (countFec p corr uncorr s)) := by
  change execIdleFlit p bytes corr uncorr s = _
  simp only [execIdleFlit, portActive_iff.2 hactive, hgood, htype, if_true]

/-- The state in which a NAK's ACK has been taken and the NAK counted (R327). -/
def nakCounted (p : Nat) (t : State) : State :=
  setPort p { portOf t p with naks := (portOf t p).naks + 1
                              replays := BitVec.ofNat 32 (min ((portOf t p).replays.toNat + 1) 0xFFFFFFFF) } t

theorem exec_nak_good (htype : flitType bytes = 2) :
    let t := dropAck p (flitAck bytes) (countFec p corr uncorr s)
    exec (.nak p bytes corr uncorr) s = .next (
      if 8 ≤ (portOf t p).naks + 1 then startRetrain p 0 none (nakCounted p t) else pump p (resend p (nakCounted p t))) := by
  intro t
  change execNak p bytes corr uncorr s = _
  simp only [execNak, portActive_iff.2 hactive, hgood, htype, Bool.not_true, Bool.false_eq_true, ne_eq, not_true_eq_false,
    if_true, if_false]
  rfl

end

end

/-! ### What an ACTIVE port keeps moving (R327, R329) -/

theorem exec_ackFlitInterval : exec (.ackFlitInterval p) s = .next { s with
    freeCtr := s.freeCtr + 1, out := .flit p (flitBytes (Config.freeValue s.freeCtr) (portOf s p).ack 0 []) :: s.out } :=
  congrArg _ (if_pos (portActive_iff.2 hactive))

theorem exec_creditStall_starved {t : Txn} (hstarved : starved (portOf s p) = some t) : exec (.creditStall p) s =
    .next (losePort p false (raise 0x0905 p [] (passNow (t.since + 4096 * max 1 s.zng.creditTo.toNat) s))) := by
  change execCreditStall p s = _
  simp only [execCreditStall, portActive_iff.2 hactive, hstarved, if_true]

end

/-! ### Where a flit's SEQ stands (R327) -/

section
variable {p : Nat} {bytes : List Byte} {t : State}

theorem flitSeq_lt (bytes : List Byte) : flitSeq bytes < 4096 := Nat.mod_lt _ (by decide)

theorem flitAhead_expected (h : flitSeq bytes = ((portOf t p).ack + 1) % 4096) : flitAhead p bytes t = 0 := by
  unfold flitAhead
  omega

theorem flitAhead_ahead {d : Nat} (hd : d < 4096) (h : flitSeq bytes = ((portOf t p).ack + 1 + d) % 4096) :
    flitAhead p bytes t = d := by
  unfold flitAhead
  omega

theorem flitAhead_behind {d : Nat} (hpos : 1 ≤ d) (hd : d ≤ 4096) (h : (flitSeq bytes + d) % 4096 = ((portOf t p).ack + 1) % 4096) :
    flitAhead p bytes t = 4096 - d := by
  have hseq := flitSeq_lt bytes
  unfold flitAhead
  omega

end

/-! ### Timers and credits (R327, R329) -/

section
variable {p : Nat} {s : State}

theorem exec_nakHoldoffExpiry_held {a : Nat} (h : (portOf s p).nakAt = some a) : exec (.nakHoldoffExpiry p) s =
    .next (setPort p { portOf s p with nakAt := none } (passNow (a + 2 * micro) s)) := by
  have hport : portOf (passNow (a + 2 * micro) s) p = portOf s p := by simp only [portOf, passNow_zng]
  change execNakHoldoffExpiry p s = _
  simp only [execNakHoldoffExpiry, h, hport]

theorem exec_nakHoldoffExpiry_none (h : (portOf s p).nakAt = none) : exec (.nakHoldoffExpiry p) s = .next s := by
  change execNakHoldoffExpiry p s = _
  simp only [execNakHoldoffExpiry, h]

theorem exec_ackFlitInterval_other (h : (portOf s p).phase ≠ .active) : exec (.ackFlitInterval p) s = .next s :=
  congrArg _ (if_neg (Bool.eq_false_iff.1 (portActive_eq_false h)))

theorem exec_creditStall_other (h : (portOf s p).phase ≠ .active) : exec (.creditStall p) s = .next s :=
  if_neg (Bool.eq_false_iff.1 (portActive_eq_false h))

theorem exec_creditStall_none (h : starved (portOf s p) = none) : exec (.creditStall p) s = .next s := by
  change execCreditStall p s = _
  simp only [execCreditStall, h, ite_self]

section
variable (hcarries : portCarries s p = true)
include hcarries

theorem exec_crd_req (n : Nat) :
    exec (.crd p 0 n) s = .next (pump p (setPort p { portOf s p with creditReq := (portOf s p).creditReq + n } s)) := by
  change execCrd p 0 n s = _
  simp only [execCrd, hcarries, Bool.not_true, Bool.false_eq_true, if_false, if_true]

theorem exec_crd_ctl (n : Nat) :
    exec (.crd p 2 n) s = .next (pump p (setPort p { portOf s p with creditCtl := (portOf s p).creditCtl + n } s)) := by
  change execCrd p 2 n s = _
  simp only [execCrd, hcarries, Bool.not_true, Bool.false_eq_true, if_false, if_true, OfNat.ofNat_ne_zero]

theorem exec_crd_otherClass {k : Nat} (hreq : k ≠ 0) (hctl : k ≠ 2) (n : Nat) :
    exec (.crd p k n) s = .next (losePort p false (raise 0x090D p [] s)) := by
  change execCrd p k n s = _
  simp only [execCrd, hcarries, Bool.not_true, Bool.false_eq_true, hreq, hctl, if_false, malformed]

end

end

/-- Settles O50: a flit by its CRC, its TYPE and where its SEQ stands, and each timer of an ACTIVE port. -/
theorem flitsAndCredits : Obligations.FlitsAndCredits := by
  unfold Obligations.FlitsAndCredits
  refine ⟨fun p bytes corr uncorr s hactive => ?flits, fun p s => ?moving⟩
  case flits =>
    intro c t
    refine ⟨fun hbad => ⟨exec_dataFlit_bad hactive hbad, exec_idleFlit_bad hactive hbad, exec_nak_bad hactive hbad⟩,
      fun hgood htype => ⟨fun hseq => ?_, fun d hpos hd hseq => ?_, fun d hpos hd hseq => ?_⟩,
      exec_idleFlit_good hactive, exec_nak_good hactive⟩ <;> refine (exec_dataFlit_good hactive hgood htype).trans (next_congr ?_)
    · exact if_pos (flitAhead_expected hseq)
    · have hahead : flitAhead p bytes t = d := flitAhead_ahead (by omega) hseq
      have hne : flitAhead p bytes t ≠ 0 := by omega
      have hnear : flitAhead p bytes t < 2048 := by omega
      exact (if_neg hne).trans (if_pos hnear)
    · have hahead : flitAhead p bytes t = 4096 - d := flitAhead_behind hpos (by omega) hseq
      have hne : flitAhead p bytes t ≠ 0 := by omega
      have hfar : ¬ flitAhead p bytes t < 2048 := by omega
      exact (if_neg hne).trans (if_neg hfar)
  case moving =>
    intro x
    refine ⟨fun a => exec_nakHoldoffExpiry_held, exec_nakHoldoffExpiry_none, exec_ackFlitInterval,
      fun hother => ⟨exec_ackFlitInterval_other hother, exec_creditStall_other hother⟩, fun hphase n => ?_,
      fun hactive t => exec_creditStall_starved hactive, exec_creditStall_none⟩
    have hcarries := portCarries_iff.2 hphase
    exact ⟨exec_crd_req hcarries n, exec_crd_ctl hcarries n, fun k hreq hctl => exec_crd_otherClass hcarries hreq hctl n⟩

end Sys2Proof.Machine
end

section
/-! The loss of a Zuong port, and the keys that come back to it (R342, R350, R453). -/

namespace Sys2Proof.Machine

section
variable {p : Nat} {s : State}

/-! ### A port is lost (R350, R453) -/

theorem losePort_lost (h : (portOf s p).phase = .lost) (stopped : Bool) : losePort p stopped s = s := if_pos h

theorem exec_linkDown (hp : p < 8) (h : (portOf s p).phase ≠ .down) : exec (.linkDown p) s = .next (losePort p false s) :=
  congrArg _ (if_pos ⟨hp, h⟩)

theorem exec_linkDown_down (h : (portOf s p).phase = .down) : exec (.linkDown p) s = .next s :=
  congrArg _ (if_neg fun hboth => hboth.2 h)

theorem exec_linkDown_lost (hp : p < 8) (h : (portOf s p).phase = .lost) : exec (.linkDown p) s = .next s := by
  rw [exec_linkDown hp (by rw [h]; decide), losePort_lost h]

section
variable (hp : p < 8) (hpower : s.pwr.good = true) {us : Nat}
include hp hpower

theorem exec_prsntNHigh_filtered (hlong : 1000 ≤ us) : exec (.prsntNHigh p us) s = .next (
    if portActive s p then losePort p false (setPort p { portOf s p with present := some false } s)
    else setPort p { portOf s p with present := some false } s) := by
  change execPrsntNHigh p us s = _
  simp only [execPrsntNHigh, hpower, Nat.not_le.2 hp, Nat.not_lt.2 hlong, Bool.not_true, decide_false, Bool.or_self,
    Bool.false_eq_true, if_false]

theorem exec_prsntNHigh_glitch (hshort : us < 1000) : exec (.prsntNHigh p us) s = .next (raise 0x0A06 noSubject [] s) := by
  change execPrsntNHigh p us s = _
  simp only [execPrsntNHigh, glitch, hpower, Nat.not_le.2 hp, hshort, Bool.not_true, decide_false, Bool.or_self,
    Bool.false_eq_true, if_false, if_true]

end

/-! ### Keys come back (R342, R350) -/

theorem keysReturn_last (hp : p < 8) (hactive : (portOf s p).phase = .active) (haway : (portOf s p).away = true)
    (hsubst : substOf s p = p) :
    keysReturn p s = pumpHost (raise 0x090A p [] (setPort p { portOf s p with away := false } s)) := by
  simp only [keysReturn, hp, portActive_iff.2 hactive, haway, hsubst, decide_true, beq_self_eq_true, Bool.and_self, if_true]

theorem keysReturn_not (h : (portOf s p).phase ≠ .active ∨ (portOf s p).away = false ∨ substOf s p ≠ p) : keysReturn p s = s := by
  refine if_neg fun hall => ?_
  simp only [Bool.and_eq_true, beq_iff_eq, portActive_iff] at hall
  obtain ⟨⟨⟨-, hactive⟩, haway⟩, hsubst⟩ := hall
  rcases h with h | h | h
  · exact h hactive
  · rw [haway] at h; cases h
  · exact h hsubst

/-- An access of a home port's keys that is outstanding elsewhere, on a port that carries (R350). -/
def heldAway (s : State) (h : Nat) (r : HostReq) : Bool :=
  r.port != h && portCarries s r.port && (match r.peer with
    | some (id, _) => id % 8 == h
    | none => r.off / 2 ^ 21 % 8 == h)

theorem heldAway_iff {r : HostReq} :
    heldAway s p r = true ↔ r.port ≠ p ∧ portCarries s r.port = true ∧ keyOf r % 8 = p := by
  unfold heldAway keyOf
  cases r.peer <;> simp only [Bool.and_eq_true, bne_iff_ne, beq_iff_eq, and_assoc]

/-- A port that carries has its keys, unless an access of theirs is held elsewhere (R350). -/
theorem substOf_carries (hcarries : portCarries s p = true) :
    substOf s p = ((s.zng.issued.find? (heldAway s p)).map (·.port)).getD p := by
  refine (if_pos hcarries).trans ?_
  change (match s.zng.issued.find? (heldAway s p) with
    | some r => r.port
    | none => p) = _
  cases s.zng.issued.find? (heldAway s p) <;> rfl

theorem substOf_home (hcarries : portCarries s p = true)
    (hhome : ∀ r ∈ s.zng.issued, keyOf r % 8 = p → r.port = p ∨ portCarries s r.port = false) : substOf s p = p := by
  have hnone : s.zng.issued.find? (heldAway s p) = none := by
    refine List.find?_eq_none.2 fun r hr haway => ?_
    obtain ⟨hport, hcarried, hkey⟩ := heldAway_iff.1 haway
    rcases hhome r hr hkey with h | h
    · exact hport h
    · rw [hcarried] at h; cases h
  rw [substOf_carries hcarries, hnone]
  rfl

theorem substOf_away (hcarries : portCarries s p = true) {r : HostReq} (hr : r ∈ s.zng.issued) (haway : heldAway s p r = true) :
    substOf s p ≠ p := by
  rw [substOf_carries hcarries]
  cases hfind : s.zng.issued.find? (heldAway s p) with
  | none => exact absurd haway (List.find?_eq_none.1 hfind r hr)
  | some q => exact (heldAway_iff.1 (List.find?_some hfind)).1

end

/-- Settles O51: a port is lost by the adapter's signal or by its presence pin, and its keys are back once none is held elsewhere. -/
theorem portsLost : Obligations.PortsLost := by
  unfold Obligations.PortsLost
  intro p s hp
  refine ⟨exec_linkDown hp, fun h => h.elim exec_linkDown_down (exec_linkDown_lost hp),
    fun us hpower hlong => ⟨_, exec_prsntNHigh_filtered hp hpower hlong, fun hother => ?_, fun hactive => ?_⟩,
    fun us hpower hshort => exec_prsntNHigh_glitch hp hpower hshort,
    fun hactive haway hsubst => next_congr (congrArg drainHarts (keysReturn_last hp hactive haway hsubst)),
    fun h => next_congr (congrArg drainHarts (keysReturn_not h)), substOf_home, fun hcarries r hr hkey hport hcarried => ?_⟩
  · exact if_neg (Bool.eq_false_iff.1 (portActive_eq_false hother))
  · exact if_pos (portActive_iff.2 hactive)
  · exact substOf_away hcarries hr (heldAway_iff.2 ⟨hport, hcarried, hkey⟩)

end Sys2Proof.Machine
end

section
/-! Window writes, doorbells and slots (R329, R331, R334 to R337, R358). -/

namespace Sys2Proof.Machine

/-! ### The areas of the window (Table 12.4) -/

theorem windowArea_bell {off q : Nat} (hq : q < 8) (hlow : 8 * q ≤ off) (hhigh : off < 8 * (q + 1)) :
    windowArea off = some q := by
  have hbell : off < 0x40 := by omega
  have harea : off / 8 = q := by omega
  rw [windowArea, if_pos hbell, harea]

theorem windowArea_reserved {off : Nat} (hlow : 0x40 ≤ off) (hhigh : off < 0x1000) : windowArea off = none := by
  rw [windowArea, if_neg (by omega), if_pos hhigh]

theorem windowArea_mailbox {off : Nat} (hlow : 0x1000 ≤ off) (hhigh : off < 0x2000) : windowArea off = some 8 := by
  rw [windowArea, if_neg (by omega), if_neg (by omega), if_pos hhigh]

theorem windowArea_ring {off q : Nat} (hmin : 1 ≤ q) (hmax : q < 8) (hlow : 0x2000 * q ≤ off) (hhigh : off < 0x2000 * (q + 1)) :
    windowArea off = some (8 + q) := by
  have harea : off / 0x2000 = q := by omega
  rw [windowArea, if_neg (by omega), if_neg (by omega), if_neg (by omega), if_pos (by omega), harea]

theorem windowArea_beyond {off : Nat} (h : 0x10000 ≤ off) : windowArea off = none := by
  rw [windowArea, if_neg (by omega), if_neg (by omega), if_neg (by omega), if_neg (by omega)]

/-! ### A window write (R331, R334) -/

section
variable {p off : Nat} {data : List Byte} {s : State} (hcarries : portCarries s p = true)
include hcarries

theorem winWrite_malformed (h : data.length = 0 ∨ 1024 < data.length ∨ data.length % 4 ≠ 0 ∨ off % 4 ≠ 0) :
    winWrite p off data s = malformed p s := by
  simp only [winWrite, hcarries, Bool.not_true, Bool.false_eq_true, if_false, h, if_true]

section
variable (hshape : ¬ (data.length = 0 ∨ 1024 < data.length ∨ data.length % 4 ≠ 0 ∨ off % 4 ≠ 0))
include hshape

theorem winWrite_outside (hout : windowArea off = none) : winWrite p off data s = raise 0x0907 p [] s := by
  simp only [winWrite, hcarries, Bool.not_true, Bool.false_eq_true, if_false, hshape, hout]

theorem winWrite_ring {a : Nat} (hring : 8 ≤ a) (hfirst : windowArea off = some a)
    (hlast : windowArea (off + data.length - 1) = some a) :
    winWrite p off data s = setPort p { portOf s p with window := setBytes (portOf s p).window off data } s := by
  have hnotBell : ¬ a < 8 := by omega
  simp only [winWrite, hcarries, Bool.not_true, Bool.false_eq_true, if_false, hshape, hfirst, hlast, ne_eq, not_true_eq_false,
    hnotBell, false_and, or_self]

theorem winWrite_bell {q : Nat} (hq : q < 8) (hfirst : windowArea off = some q)
    (hlast : windowArea (off + data.length - 1) = some q) (hlength : data.length = 8) :
    winWrite p off data s = windowBell p q (leNat data) s := by
  have hwhole : ¬ (q ≠ q ∨ q < 8 ∧ data.length ≠ 8) := by simp [hlength]
  simp only [winWrite, hcarries, Bool.not_true, Bool.false_eq_true, if_false, hshape, hfirst, hlast]
  rw [if_neg hwhole, if_pos hq]

end

end

/-! ### Doorbells (R336) -/

section
variable {p q : Nat} {s : State}

/-- A doorbell takes the lower 32 bits of its 8 bytes. -/
theorem windowBell_word (v : Nat) : windowBell p q (BitVec.ofNat 64 v).toNat s = windowBell p q v s := by
  have hlow : BitVec.ofNat 32 (BitVec.ofNat 64 v).toNat = BitVec.ofNat 32 v := by
    apply BitVec.eq_of_toNat_eq
    simp only [BitVec.toNat_ofNat]
    omega
  simp only [windowBell, hlow]

theorem exec_windowDoorbell (hcarries : portCarries s p = true) (hq : q < 8) (v : Word64) :
    exec (.windowDoorbell p q v) s = .next (returnCredits p (some 0) 24 (windowBell p q v.toNat s)) := by
  change execWindowDoorbell p q v s = _
  simp only [execWindowDoorbell, hcarries, hq, decide_true, Bool.and_self, if_true]

theorem windowBell_refused {v : Word64}
    (h : (winQ s p q).configured = false ∨ winEntries q < (v.truncate 32 - (winQ s p q).head).toNat) :
    windowBell p q v.toNat s = raise 0x0907 p [] s := by
  refine if_pos ?_
  rw [BitVec.ofNat_toNat]
  simpa using h

theorem windowBell_rings {v : Word64} (hconfigured : (winQ s p q).configured = true)
    (hroom : (v.truncate 32 - (winQ s p q).head).toNat ≤ winEntries q) :
    windowBell p q v.toNat s = setWinQ p q { winQ s p q with
      tail := if ((winQ s p q).tail - (winQ s p q).head).toNat < (v.truncate 32 - (winQ s p q).head).toNat then v.truncate 32
        else (winQ s p q).tail
      halted := false } s := by
  simp only [windowBell, BitVec.ofNat_toNat, hconfigured, Nat.not_lt.2 hroom, Bool.not_true, decide_false, Bool.or_self,
    Bool.false_eq_true, if_false]

/-! ### Slots (R335, R337, R358) -/

/-- The slot at a queue's HEAD. -/
def slotAtHead (s : State) (p q : Nat) : List Byte :=
  getBytes (portOf s p).window (slotOff q (winQ s p q).head.toNat) 64

/-- A slot's SEQ is HEAD and its CRC matches (R337). -/
def SlotValid (s : State) (p q : Nat) : Prop :=
  fld (slotAtHead s p q) 4 4 = (winQ s p q).head.toNat ∧ fld (slotAtHead s p q) 60 4 = crc32c ((slotAtHead s p q).take 60)

@[simp] theorem portOf_pass (d : Nat) (s : State) (p : Nat) : portOf (pass d s) p = portOf s p := by
  simp only [portOf, pass_zng]

@[simp] theorem winQ_pass (d : Nat) (s : State) (p q : Nat) : winQ (pass d s) p q = winQ s p q := by
  simp only [winQ, portOf_pass]

@[simp] theorem slotAtHead_pass (d : Nat) (s : State) (p q : Nat) : slotAtHead (pass d s) p q = slotAtHead s p q := by
  simp only [slotAtHead, portOf_pass, winQ_pass]

@[simp] theorem slotValid_pass (d : Nat) (s : State) (p q : Nat) : SlotValid (pass d s) p q ↔ SlotValid s p q := by
  simp only [SlotValid, slotAtHead_pass, winQ_pass]

theorem readSlot_valid (hvalid : SlotValid s p q) : readSlot p q s = takeSlot p q (slotAtHead s p q) s := if_pos hvalid

section
variable (hinvalid : ¬ SlotValid s p q)
include hinvalid

theorem readSlot_again (hfew : (winQ s p q).tries < 8) :
    readSlot p q s = setWinQ p q { winQ s p q with tries := (winQ s p q).tries + 1 } s :=
  (if_neg hinvalid).trans (if_neg (by omega))

theorem readSlot_stale (hmany : 8 ≤ (winQ s p q).tries) : readSlot p q s = staleSlot p q (slotAtHead s p q) s :=
  (if_neg hinvalid).trans (if_pos (by omega))

end

section
variable (hread : mayRead s p q = true)
include hread

theorem exec_slotRead_first (hfirst : (winQ s p q).tries = 0) : exec (.slotRead p q) s = .next (readSlot p q s) := by
  change execSlotRead p q s = _
  simp only [execSlotRead, hread, hfirst, beq_self_eq_true, Bool.and_self, if_true]

theorem exec_slotReread_later (hlater : (winQ s p q).tries ≠ 0) :
    exec (.slotReread p q) s = .next (readSlot p q (pass 1000 s)) := by
  change execSlotReread p q s = _
  simp only [execSlotReread, hread, bne_iff_ne.2 hlater, Bool.and_self, if_true]

end

end

/-- Settles O52: a window write by the areas of its first and last bytes, a doorbell by the room of its ring, and a slot by its
SEQ, its CRC and the reads before. -/
theorem windowWritesAndSlots : Obligations.WindowWritesAndSlots := by
  unfold Obligations.WindowWritesAndSlots
  refine ⟨fun p off data s hcarries => ?writes, fun p q s hread => ?slots⟩
  case writes =>
    intro n back
    have hanswer {t : State} (h : winWrite p off data s = t) : exec (.winWr p off data) s = .next (back t) :=
      next_congr (congrArg back h)
    refine ⟨fun hbad => hanswer (winWrite_malformed hcarries hbad), fun hmin hmax hwords haligned => ?shaped,
      fun q v hq => ⟨fun hrefused => ?refused, fun hconfigured hroom => ?rings⟩⟩
    case shaped =>
      have hshape : ¬ (data.length = 0 ∨ 1024 < data.length ∨ data.length % 4 ≠ 0 ∨ off % 4 ≠ 0) := by omega
      have houtside (hout : windowArea off = none) := hanswer (winWrite_outside hcarries hshape hout)
      refine ⟨fun hlow hhigh => ?_, fun q hqmin hqmax hlow hhigh => ?_, fun q hq hoff hlength => ?_,
        fun hlow hhigh => houtside (windowArea_reserved hlow hhigh), fun hbeyond => houtside (windowArea_beyond hbeyond),
        fun hlow hcross => houtside (windowArea_reserved (by omega) hlow)⟩
      · exact hanswer (winWrite_ring hcarries hshape le_rfl (windowArea_mailbox hlow (by omega))
          (windowArea_mailbox (by omega) (by omega)))
      · exact hanswer (winWrite_ring hcarries hshape (by omega) (windowArea_ring hqmin hqmax hlow (by omega))
          (windowArea_ring hqmin hqmax (by omega) (by omega)))
      · have hbell := winWrite_bell hcarries hshape hq (windowArea_bell hq (by omega) (by omega))
          (windowArea_bell hq (by omega) (by omega)) hlength
        rw [hanswer hbell, exec_windowDoorbell hcarries hq, windowBell_word]
        simp only [back, n, hlength]
        rfl
    case refused => exact (exec_windowDoorbell hcarries hq v).trans (next_congr (congrArg _ (windowBell_refused hrefused)))
    case rings => exact (exec_windowDoorbell hcarries hq v).trans (next_congr (congrArg _ (windowBell_rings hconfigured hroom)))
  case slots =>
    intro w d valid
    refine ⟨fun hfirst => ⟨fun hvalid => ?_, fun hinvalid => ?_⟩, fun hlater => ⟨fun hvalid => ?_, fun hinvalid hfew => ?_,
      fun hinvalid hmany => ?_⟩⟩
    · exact (exec_slotRead_first hread hfirst).trans (next_congr (readSlot_valid hvalid))
    · refine (exec_slotRead_first hread hfirst).trans (next_congr ((readSlot_again hinvalid (hfirst.trans_lt (by decide))).trans ?_))
      rw [hfirst]
    · exact (exec_slotReread_later hread hlater).trans (next_congr
        ((readSlot_valid ((slotValid_pass ..).2 hvalid)).trans (by rw [slotAtHead_pass]; rfl)))
    · exact (exec_slotReread_later hread hlater).trans (next_congr
        ((readSlot_again (mt (slotValid_pass ..).1 hinvalid) (by rwa [winQ_pass])).trans (by rw [winQ_pass])))
    · exact (exec_slotReread_later hread hlater).trans (next_congr
        ((readSlot_stale (mt (slotValid_pass ..).1 hinvalid) (by rwa [winQ_pass])).trans (by rw [slotAtHead_pass]; rfl)))

end Sys2Proof.Machine
end

section
/-! The commands of the window queues and FLUSH (R335, R338 to R340, R345). -/

namespace Sys2Proof.Machine

/-- The check of a PULL or PUSH of a queue, as a COPY of the queue's context (R339). -/
def moveVerdict (s : State) (p q src dst n : Nat) : CheckVerdict :=
  rangesVerdict s (winQ s p q).context [(src, n, true, false), (dst, n, false, true)]

/-! ### A command found in its queue (R335, R337) -/

section
variable {p q seq : Nat} {s : State} {c : WinCmd} (hcmd : winCmd s p q seq = some c)
include hcmd

theorem winCmd_seq : c.seq = seq := by
  have hfound := List.find?_some hcmd
  simp only [Bool.and_eq_true, beq_iff_eq] at hfound
  exact hfound.1

theorem winCmd_status : c.status = none := by
  have hfound := List.find?_some hcmd
  simp only [Bool.and_eq_true, Option.isNone_iff_eq_none] at hfound
  exact hfound.2

theorem exec_nop_begins (hop : c.op = 4) (hmay : mayBegin (winQ s p q) c = true) : exec (.nop p q seq) s =
    .next (recordArises p q seq stOk (setWinCmd p q seq (fun c => { c with begun := true }) s)) := by
  change execNop p q seq s = _
  simp only [execNop, hcmd, hop, hmay, and_self, if_true]

theorem exec_flush_begins (hop : c.op = 3) (hmay : mayBegin (winQ s p q) c = true) : exec (.flush p q seq) s =
    .next (startFlush (.command p q seq) (setWinCmd p q seq (fun c => { c with begun := true }) s)) := by
  change execFlush p q seq s = _
  simp only [execFlush, hcmd, hop, hmay, and_self, if_true]

/-- A PULL or PUSH that has moved its bytes ends where nothing of it is outstanding or held (R340). -/
theorem settleWin_ends (hbegun : c.begun = true) (hmoved : c.bytes ≠ 0) (hclosed : openUses s (.command p q seq) = false)
    (hfree : ferryHeld s (winQ s p q).context = false) :
    settleWin p q seq s = advanceRegion (recordArises p q seq (if c.bad then stIntegrity else stOk) s) := by
  simp only [settleWin, hcmd, hbegun, winCmd_status hcmd, bne_iff_ne.2 hmoved, hclosed, hfree, Option.isNone_none, Bool.not_false,
    Bool.and_self, if_true]

/-! ### The stages of a PULL or PUSH (R161, R339) -/

variable {islet : Nat}

section
variable (hbegun : c.begun = false) (hmay : mayBegin (winQ s p q) c = true) (hrunning : s.fry.func = .running)
  (hwork : freeWork s = true) (hcheck : mayCheck s (winQ s p q).context (workWindow p q) = true)
  (hislet : (isletOf s islet).state = .active) (hready : moveReady s islet = false)
include hbegun hmay hrunning hwork hcheck hislet hready

theorem moveCommand_begins : moveCommand c.op p q seq islet s = beginMove p q islet c s := by
  simp only [moveCommand, hcmd, winCmd_status hcmd, hbegun, hmay, hrunning, hwork, hcheck, hislet, hready, bne_self_eq_false,
    Option.isSome_none, Bool.or_self, Bool.not_false, beq_self_eq_true, Bool.and_self, Bool.false_eq_true, if_true, if_false]

end

section
variable (hbegun : c.begun = true)
include hbegun

theorem moveCommand_fenced (haborted : c.aborted = true) :
    moveCommand c.op p q seq islet s = recordArises p q seq stState (setBuf (.command p q seq) none s) := by
  simp only [moveCommand, hcmd, winCmd_status hcmd, hbegun, haborted, bne_self_eq_false, Option.isSome_none, Bool.or_self,
    Bool.not_true, Bool.false_eq_true, if_true, if_false]

section
variable (hgoes : c.aborted = false)
include hgoes

theorem moveCommand_moves (hbytes : c.bytes = 0) : moveCommand c.op p q seq islet s = moveBytes p q c s := by
  simp only [moveCommand, hcmd, winCmd_status hcmd, hbegun, hgoes, hbytes, bne_self_eq_false, Option.isSome_none, Bool.or_self,
    Bool.not_true, Bool.false_eq_true, if_true, if_false]

theorem moveCommand_settles (hbytes : c.bytes ≠ 0) : moveCommand c.op p q seq islet s = settleWin p q seq s := by
  simp only [moveCommand, hcmd, winCmd_status hcmd, hbegun, hgoes, hbytes, bne_self_eq_false, Option.isSome_none, Bool.or_self,
    Bool.not_true, Bool.false_eq_true, if_false]

end

end

/-! ### The check of a PULL or PUSH and its move (R159, R254, R260, R271, R339) -/

variable {src dst : Nat} (hends : moveEnds c = (src, dst))
include hends

theorem beginMove_ok (hok : moveVerdict s p q src dst c.arg2 = .ok) : beginMove p q islet c s =
    fetchRun (.command p q seq) (src, c.arg2) (checkedAgain (winQ s p q).context (workWindow p q)
      (setWinCmd p q seq (fun c => { c with begun := true, islet := islet }) s)) := by
  unfold moveVerdict at hok
  simp only [beginMove, hends, hok, winCmd_seq hcmd]

theorem beginMove_bound (hbound : moveVerdict s p q src dst c.arg2 = .bound) : beginMove p q islet c s =
    recordArises p q seq stDenied (checkedAgain (winQ s p q).context (workWindow p q) s) := by
  unfold moveVerdict at hbound
  simp only [beginMove, hends, hbound, winCmd_seq hcmd]

omit hcmd in
theorem beginMove_fault {g : Nat} (hfault : moveVerdict s p q src dst c.arg2 = .fault g) :
    beginMove p q islet c s = workFault (workWindow p q) (winQ s p q).context g s := by
  unfold moveVerdict at hfault
  simp only [beginMove, hends, hfault]

theorem moveBytes_waits (hopen : openUses s (.command p q seq) = true) : moveBytes p q c s = s := by
  simp only [moveBytes, hends, winCmd_seq hcmd, hopen, Bool.true_or, if_true]

theorem moveBytes_moves (hclosed : openUses s (.command p q seq) = false)
    (hsource : ∀ l ∈ linePieces src c.arg2, pieceReady s (.command p q seq) l = true) (hsrc : memWaits s src c.arg2 = false)
    (hdst : memWaits s dst c.arg2 = false) :
    let use : HostUse := .command p q seq
    let r := readRun use (whoFerry c.islet) (src, c.arg2) s
    let v := setWinCmd p q seq (fun c => { c with bytes := c.arg2, bad := !r.2.2.isEmpty }) r.1
    moveBytes p q c s = settleWin p q seq (setBuf use none
      (poisonRun dst r.2.2 (writeRun use (winQ v p q).context (whoFerry c.islet) dst r.2.1 v))) := by
  have hall : (linePieces src c.arg2).all (pieceReady s (.command p q seq)) = true := List.all_eq_true.2 hsource
  simp only [moveBytes, hends, winCmd_seq hcmd, hclosed, hall, hsrc, hdst, Bool.not_true, Bool.or_self, Bool.false_eq_true, if_false]

end

/-! ### FLUSH (R345) -/

section
variable {s : State}

theorem exec_zngFlushStart_busy (h : s.zng.flBusy = true) : exec .zngFlushStart s = .next s := congrArg _ (if_pos h)

theorem exec_zngFlushStart_free (h : s.zng.flBusy = false) :
    exec .zngFlushStart s = .next (startFlush .register { s with zng := { s.zng with flBusy := true } }) :=
  congrArg _ (if_neg (Bool.eq_false_iff.1 h))

theorem exec_flushAck_found {p num : Nat} {j : FlushJob} (h : (s.zng.flushes.find? fun k => k.num == num) = some j) :
    exec (.flushAck p num) s = .next (setFlush { j with left := j.left.filter (· != p) } s) := by
  change execFlushAck p num s = _
  simp only [execFlushAck, h]

theorem setFlush_ended {j : FlushJob} (h : j.left = []) : setFlush j s =
    flushDone j true 0 { s with zng := { s.zng with flushes := s.zng.flushes.filter fun k => k.num != j.num } } := by
  simp only [setFlush, h, List.isEmpty_nil, if_true]

theorem setFlush_goesOn {j : FlushJob} (h : j.left ≠ []) : setFlush j s =
    { s with zng := { s.zng with flushes := (s.zng.flushes.filter fun k => k.num != j.num) ++ [j] } } := by
  simp only [setFlush, List.isEmpty_eq_false_iff.2 h, Bool.false_eq_true, if_false]

/-- A FLUSH that is the only one in progress ends with TIMEOUT, by the first port that has not answered (R345). -/
theorem exec_flushTimeout_only {num : Nat} {j : FlushJob} (hone : s.zng.flushes = [j]) (hnum : j.num = num) :
    exec (.flushTimeout num) s = .next (flushDone j false (j.left.headD 0)
      { passNow (j.start + second / 100) s with zng := { s.zng with flushes := [] } }) := by
  change execFlushTimeout num s = _
  simp [execFlushTimeout, failFlushes, hone, hnum]

/-- FLUSH_REQ has left on every ACTIVE port, with the FLUSH's number (R345). -/
def flushSent (s : State) : State :=
  ((List.range 8).filter (portActive s)).foldl (fun t p => sendTxn p 0 (txnHead 0x0A 0 0 16 [(4, 4, (s.zng.flushNo + 1) % 2 ^ 32)]) t)
    { s with zng := { s.zng with flushNo := (s.zng.flushNo + 1) % 2 ^ 32 } }

theorem startFlush_eq (b : FlushBy) (s : State) : startFlush b s =
    setFlush ⟨(s.zng.flushNo + 1) % 2 ^ 32, (List.range 8).filter (portActive s), b, (flushSent s).now⟩ (flushSent s) := rfl

theorem flushDone_register {j : FlushJob} (hby : j.by_ = .register) (port : Nat) :
    flushDone j true port s = { s with zng := { s.zng with flBusy := false, flDone := s.zng.flDone + 1 } } := by
  simp only [flushDone, hby, Bool.not_true, Bool.or_false, if_true]

section
variable {j : FlushJob} {p q seq : Nat} (hby : j.by_ = .command p q seq) (port : Nat)
include hby

theorem flushDone_command : flushDone j true port s = recordArises p q seq stOk s := by
  simp only [flushDone, hby, if_true]

theorem flushDone_commandTimeout :
    flushDone j false port s = recordArises p q seq stTimeout (raise 0x090B port [] s) := by
  simp only [flushDone, hby, Bool.false_eq_true, if_false]

end

end

/-- Settles O53: a PULL or PUSH by its stage and the verdict of its check, and a FLUSH by the ports that have not answered. -/
theorem windowCommandsAndFlushes : Obligations.WindowCommandsAndFlushes := by
  unfold Obligations.WindowCommandsAndFlushes
  refine ⟨fun p q seq s c hcmd => ⟨exec_nop_begins hcmd, exec_flush_begins hcmd, fun i op islet src dst hi hop _ => ?moves⟩,
    fun s => ⟨exec_zngFlushStart_busy, exec_zngFlushStart_free, fun p num j hj => ?acks,
      fun num j hone hnum => exec_flushTimeout_only hone hnum, fun b => ?starts, fun j port hby => flushDone_register hby port,
      fun j port p q seq hby => ⟨flushDone_command hby port, flushDone_commandTimeout hby port⟩⟩⟩
  case moves =>
    have hends : moveEnds c = (src, dst) := by
      rcases hi with ⟨-, rfl, rfl, rfl⟩ | ⟨-, rfl, rfl, rfl⟩ <;> simp [moveEnds, hop]
    have hanswer {t : State} (h : moveCommand c.op p q seq islet s = t) : exec i s = .next t := by
      rcases hi with ⟨rfl, rfl, -⟩ | ⟨rfl, rfl, -⟩ <;> rw [hop] at h <;> exact next_congr h
    intro use
    refine ⟨fun hbegun hmay hrunning hwork hcheck hislet hready => ?begins, fun hbegun haborted =>
      hanswer (moveCommand_fenced hcmd hbegun haborted), fun hbegun hgoes hbytes hopen => ?waits,
      fun hbegun hgoes hbytes hclosed hsource hsrc hdst => ?moved, fun hbegun hbytes hclosed hfree => ?ends⟩
    case begins =>
      have hbegins := moveCommand_begins hcmd hbegun hmay hrunning hwork hcheck hislet hready
      exact ⟨fun hok => hanswer (hbegins.trans (beginMove_ok hcmd hends hok)),
        fun hbound => hanswer (hbegins.trans (beginMove_bound hcmd hends hbound)),
        fun g hfault => hanswer (hbegins.trans (beginMove_fault hends hfault))⟩
    case waits => exact hanswer ((moveCommand_moves hcmd hbegun hgoes hbytes).trans (moveBytes_waits hcmd hends hopen))
    case moved =>
      exact hanswer ((moveCommand_moves hcmd hbegun hgoes hbytes).trans (moveBytes_moves hcmd hends hclosed hsource hsrc hdst))
    case ends =>
      have hended := settleWin_ends hcmd hbegun hbytes hclosed hfree
      exact ⟨hended, fun hgoes => hanswer ((moveCommand_settles hcmd hbegun hgoes hbytes).trans hended)⟩
  case acks =>
    intro rest u
    refine ⟨fun hlast => ?_, fun k hk hne => ?_⟩ <;> refine (exec_flushAck_found hj).trans (next_congr ?_)
    · have hnone : j.left.filter (· != p) = [] := by simp [hlast]
      rw [hnone]
      exact setFlush_ended rfl
    · exact setFlush_goesOn (List.ne_nil_of_mem (List.mem_filter.2 ⟨hk, bne_iff_ne.2 hne⟩))
  case starts =>
    intro n ps u v
    refine ⟨fun hsome => (startFlush_eq b s).trans (setFlush_goesOn hsome), fun hnone => (startFlush_eq b s).trans ?_⟩
    refine (setFlush_ended hnone).trans ?_
    simp only [v, List.append_nil]
    rfl

end Sys2Proof.Machine
end

section
/-! Placements, and the ends of host and peer accesses (R240, R260, R329, R331, R341, R343, R346, R352). -/

namespace Sys2Proof.Machine

/-! ### Bytes read where they were written -/

theorem expand_above {m : SMap Byte} {a : Nat} (h : ∀ p ∈ m, a < p.1) (n : Nat) : expand (n + 1) a m = 0 :: expand n (a + 1) m := by
  cases m with
  | nil => rfl
  | cons p r =>
    have hp : p.1 ≠ a := (h p List.mem_cons_self).ne'
    obtain ⟨i, b⟩ := p
    rw [expand, if_neg hp]

theorem expand_entriesOf (bs : List Byte) (a : Nat) : expand bs.length a (entriesOf a bs) = bs := by
  induction bs generalizing a with
  | nil => rfl
  | cons b r ih =>
    have habove (p : Nat × Byte) (hp : p ∈ entriesOf (a + 1) r) : a < p.1 := ((memWf_entriesOf r (a + 1)).2 p hp).1
    rw [List.length_cons, entriesOf]
    split
    next hzero => rw [expand_above habove, ih, hzero]
    next => rw [expand, if_pos rfl, ih]

/-- Bytes written into an empty memory are read back. -/
theorem getBytes_setBytes_nil (bs : List Byte) : getBytes (setBytes [] 0 bs) 0 bs.length = bs := by
  simp [getBytes, setBytes, expand_entriesOf]

/-! ### What a placement comes to (R343) -/

section
variable {s : State} {h off n : Nat}

theorem placeStatus_unknown (hplaced : placed s h = none) : placeStatus s h off n = 1 := by
  simp only [placeStatus, hplaced]

theorem recordRefused_unknown (hplaced : placed s h = none) : recordRefused s h off n = s := by
  simp only [recordRefused, hplaced]

section
variable {r : PlaceH} (hplaced : placed s h = some r)
include hplaced

theorem placeStatus_beyond (hbeyond : r.bytes < off + n) : placeStatus s h off n = 2 := by
  simp only [placeStatus, hplaced, hbeyond, if_true]

theorem recordRefused_beyond (hbeyond : r.bytes < off + n) : recordRefused s h off n = s := by
  simp only [recordRefused, hplaced, hbeyond, true_or, if_true]

section
variable (hwithin : off + n ≤ r.bytes)
include hwithin

theorem placeStatus_served (hserved : placeRefused s r off n = none) : placeStatus s h off n = 0 := by
  simp only [placeStatus, hplaced, Nat.not_lt.2 hwithin, hserved, Option.isNone_none, if_true, if_false]

section
variable {pg : Nat} (hrefused : placeRefused s r off n = some pg)
include hrefused

theorem placeStatus_refused : placeStatus s h off n = 3 := by
  simp only [placeStatus, hplaced, Nat.not_lt.2 hwithin, hrefused, Option.isNone_some, Bool.false_eq_true, if_false]

/-- R260's record is the registering context's; a group has none. -/
theorem recordRefused_refused : recordRefused s h off n = if r.owner < 65536 then
    refusePage r.owner (max (pg * 2 ^ 21) (r.base + off)) (pageCheck s r.owner pg true == .locked) s else s := by
  by_cases howner : r.owner < 65536
  · simp only [recordRefused, hplaced, Nat.not_lt.2 hwithin, Nat.not_le.2 howner, hrefused, or_self, howner, if_true, if_false]
  · simp only [recordRefused, hplaced, Nat.le_of_not_lt howner, howner, or_true, if_true, if_false]

end

end

end

theorem afterPlace_foreign (hforeign : ∀ pr, s.flash.pairing = some pr → h ≠ pr.mine ∧ h ≠ pr.mine + 3) :
    afterPlace h off n s = s := by
  unfold afterPlace ownGuest
  cases hpair : s.flash.pairing with
  | none => rfl
  | some pr =>
    obtain ⟨hrequest, hlanding⟩ := hforeign pr hpair
    simp only [Option.map_some, hrequest, hlanding, and_false, if_false]

end

theorem badPlace_eq (a : Nat) (s : State) : badPlace a s =
    if backed s.cfg a = true ∧ (chan s (chanOf s a)).state ≠ .lost then parityEvent (blockOf a) (poisonBlock (blockOf a) s) else s := by
  by_cases hbacked : backed s.cfg a = true <;> by_cases hlost : (chan s (chanOf s a)).state = .lost <;>
    simp [badPlace, hbacked, hlost]

theorem memAside_poisonBlock (b : Nat) (s : State) : MemAside s (poisonBlock b s) := rfl

theorem memAside_parityEvent (b : Nat) (s : State) : MemAside s (parityEvent b s) := by
  unfold parityEvent
  exact memAside_raised (memAside_eccLast (memAside_countUe (memAside_refl s) _) _ _ _ _) _ _ _

theorem memAside_badPlace (a : Nat) (s : State) : MemAside s (badPlace a s) := by
  unfold badPlace
  split
  · exact memAside_refl s
  · exact memAside_trans (memAside_poisonBlock _ s) (memAside_parityEvent _ _)

/-- A placement's bytes in memory, the block of one whose parity fails poisoned (R231, R343). -/
def landed (p a : Nat) (bad : Option Nat) (data : List Byte) (s : State) : State :=
  bad.elim (writeMem (whoPlace p) a data s) fun i => badPlace (a + i) (writeMem (whoPlace p) a data s)

theorem landed_none (p a : Nat) (data : List Byte) (s : State) : landed p a none data s = writeMem (whoPlace p) a data s := by
  rw [landed, Option.elim_none]

theorem landed_some (p a i : Nat) (data : List Byte) (s : State) :
    landed p a (some i) data s = badPlace (a + i) (writeMem (whoPlace p) a data s) := by
  rw [landed, Option.elim_some]

theorem memAside_landed (p a : Nat) (bad : Option Nat) (data : List Byte) (s : State) : MemAside s (landed p a bad data s) := by
  cases bad with
  | none =>
    rw [landed_none]
    exact memAside_writeMem _ _ _ s
  | some i =>
    rw [landed_some]
    exact memAside_trans (memAside_writeMem _ _ _ s) (memAside_badPlace _ _)

theorem memAside_flash {s t : State} (h : MemAside s t) : t.flash = s.flash := by rw [h]

@[simp] theorem landed_flash (p a : Nat) (bad : Option Nat) (data : List Byte) (s : State) :
    (landed p a bad data s).flash = s.flash := memAside_flash (memAside_landed p a bad data s)

section
variable {p h tag off : Nat} {ack : Bool} {bad : Option Nat} {data : List Byte} {s : State}

theorem placeNow_refused {status : Nat} (hstatus : placeStatus s h off data.length = status) (hne : status ≠ 0) :
    placeNow p h tag off ack bad data s =
      placeRsp p h tag status (raise 0x0908 p [] (recordRefused s h off data.length)) := by
  obtain ⟨k, rfl⟩ := Nat.exists_eq_succ_of_ne_zero hne
  simp only [placeNow, hstatus]

section
variable {r : PlaceH} (hplaced : placed s h = some r) (hstatus : placeStatus s h off data.length = 0)
include hplaced hstatus

theorem placeNow_waits (hwaits : memWaits s (r.base + off) data.length = true) : placeNow p h tag off ack bad data s =
    { s with zng := { s.zng with placing := s.zng.placing ++ [⟨p, h, tag, off, ack, bad, data⟩] } } := by
  simp only [placeNow, hplaced, hstatus, hwaits, if_true]

theorem placeNow_lands (hgoes : memWaits s (r.base + off) data.length = false)
    (hforeign : ∀ pr, s.flash.pairing = some pr → h ≠ pr.mine ∧ h ≠ pr.mine + 3) : placeNow p h tag off ack bad data s =
      if ack then placeRsp p h tag 0 (landed p (r.base + off) bad data s) else landed p (r.base + off) bad data s := by
  have hlands : placeNow p h tag off ack bad data s = afterPlace h off data.length
      (if ack then placeRsp p h tag 0 (landed p (r.base + off) bad data s) else landed p (r.base + off) bad data s) := by
    cases bad <;> simp only [placeNow, hplaced, hstatus, hgoes, landed_none, landed_some, Bool.false_eq_true, if_false]
  refine hlands.trans (afterPlace_foreign ?_)
  cases ack with
  | true => simpa only [placeRsp, sendTxn_flash, landed_flash, if_true] using hforeign
  | false => simpa only [landed_flash, Bool.false_eq_true, if_false] using hforeign

end

section
variable (hcarries : portCarries s p = true)
include hcarries

theorem place_malformed (hbad : data = [] ∨ 1024 < data.length) : place p h tag off ack bad data s = malformed p s := by
  have hsize : data.length = 0 ∨ 1024 < data.length := hbad.imp_left List.length_eq_zero_iff.2
  simp only [place, hcarries, Bool.not_true, Bool.false_eq_true, if_false, hsize, if_true]

theorem place_wellFormed (hsome : data ≠ []) (hfits : data.length ≤ 1024) :
    place p h tag off ack bad data s = placeNow p h tag off ack bad data s := by
  have hsize : ¬ (data.length = 0 ∨ 1024 < data.length) := by
    rw [List.length_eq_zero_iff]
    exact not_or.2 ⟨hsome, Nat.not_lt.2 hfits⟩
  simp only [place, hcarries, Bool.not_true, Bool.false_eq_true, if_false, hsize]

end

end

/-! ### The parts of a read (R341) -/

section
variable {p tag status off : Nat} {data : List Byte} {s : State}

theorem readAnswer_unknown (h : issuedAt s p tag false = none) : readAnswer p tag status off data s = s := by
  simp only [readAnswer, h]

theorem readAnswer_part {r : HostReq} (h : issuedAt s p tag false = some r) (hwithin : off + data.length ≤ r.len) :
    readAnswer p tag status off data s = afterAccess (readPart r status off data s) := by
  simp only [readAnswer, h, hwithin, if_true]

theorem writeAnswer_unknown (h : issuedAt s p tag true = none) : writeAnswer p tag status s = s := by
  simp only [writeAnswer, h]

end

section
variable {r : HostReq} {bs : List Byte} (s : State) (hwhole : wholeRead r.use = true)
include hwhole

/-- A part of a read that is answered whole, before its last. -/
theorem readPart_early {off : Nat} (hleft : r.got + bs.length < r.len) : readPart r 0 off bs s = { s with zng := { s.zng with
    issued := s.zng.issued.map fun x => if x = r then
      { r with got := r.got + bs.length, came := r.came ++ [(off, bs.length)], parts := setBytes r.parts off bs } else x } } := by
  simp only [readPart, hwhole, Nat.not_le.2 hleft, bne_self_eq_false, Bool.or_false, decide_false, Bool.not_true,
    Bool.false_eq_true, if_false, if_true]

/-- An access that has ended is outstanding no longer. -/
def withoutAccess (r : HostReq) (s : State) : State := { s with zng := { s.zng with issued := dropFirst r s.zng.issued } }

/-- A read answered whole by one part: its bytes reach the one that asked, poisoned with 0x0909 on an error. -/
theorem readPart_whole (status : Nat) (hgot : r.got = 0) (hparts : r.parts = []) (hbad : r.bad = false) (hall : bs.length = r.len) :
    readPart r status 0 bs s = deliverRead r.use r.off bs (status != 0)
      (if status = 0 then withoutAccess r s else raise 0x0909 r.port [] (withoutAccess r s)) := by
  have hback : getBytes (setBytes [] 0 bs) 0 r.len = bs := hall ▸ getBytes_setBytes_nil bs
  by_cases hok : status = 0
  · simp only [readPart, hwhole, hgot, hparts, hbad, hall, hok, hback, bne_self_eq_false, Bool.or_false, Nat.zero_add, le_refl,
      decide_true, Bool.not_true, Bool.false_eq_true, if_false, if_true]
    rfl
  · simp only [readPart, hwhole, hgot, hparts, hbad, hall, hok, hback, bne_iff_ne.2 hok, Bool.or_true, Nat.zero_add, le_refl,
      decide_true, Bool.not_true, Bool.false_eq_true, if_false, if_true]
    rfl

end

/-! ### The acknowledgement of a write (R341, R346, R358) -/

section
variable {p tag status : Nat} {r : HostReq} {s : State} (h : issuedAt s p tag true = some r)
include h

theorem writeAnswer_quiet (hquiet : status = 0 ∨ r.peer.isSome = true) :
    writeAnswer p tag status s = afterAccess (afterWrite r.use (status == 0) (withoutAccess r s)) := by
  simp only [writeAnswer, h, hquiet, if_true]
  rfl

theorem writeAnswer_recorded (hfailed : status ≠ 0) (hhost : r.peer = none) :
    writeAnswer p tag status s = afterAccess (afterWrite r.use false (raise 0x0909 p [] (withoutAccess r s))) := by
  simp only [writeAnswer, h, hhost, hfailed, beq_eq_false_iff_ne.2 hfailed, Option.isSome_none, Bool.false_eq_true, or_self, if_false]
  rfl

end

@[simp] theorem portOfHome_ackBox (m k : Nat) (s : State) : portOfHome (ackBox m s) k = portOfHome s k := by
  unfold ackBox
  dsimp only
  split <;> rfl

/-- Settles O54: a placement by the decision of R343 and its channels, a completion by the access of its port and tag. -/
theorem placementsAndAccessEnds : Obligations.PlacementsAndAccessEnds := by
  unfold Obligations.PlacementsAndAccessEnds
  refine ⟨fun p h tag off ack data s hcarries => ?placements, fun p tag status s => ?accesses⟩
  case placements =>
    intro back
    have hanswer {a : Bool} {bad : Option Nat} {t : State} (ht : place p h tag off a bad data s = t) :
        exec (.place p h tag off a bad data) s = .next (back t) := next_congr (congrArg back ht)
    refine ⟨fun hbad => hanswer (place_malformed hcarries hbad), fun r hsome hfits hplaced hwithin hserved hforeign => ?served,
      fun r pg hsome hfits hplaced hwithin hrefused => ?refused, fun hsome hfits hplaced => ?unknown,
      fun r hsome hfits hplaced hbeyond => ?beyond⟩
    case served =>
      have hstatus := placeStatus_served hplaced hwithin hserved
      refine ⟨fun hwaits bad => ?_, fun hgoes => ?_⟩
      · exact hanswer ((place_wellFormed hcarries hsome hfits).trans (placeNow_waits hplaced hstatus hwaits))
      · intro u spoilt
        have hacked (bad : Option Nat) : exec (.place p h tag off true bad data) s =
            .next (back (placeRsp p h tag 0 (landed p (r.base + off) bad data s))) :=
          hanswer ((place_wellFormed hcarries hsome hfits).trans
            ((placeNow_lands hplaced hstatus hgoes hforeign).trans (if_pos rfl)))
        have hplain (bad : Option Nat) : exec (.place p h tag off false bad data) s =
            .next (back (landed p (r.base + off) bad data s)) :=
          hanswer ((place_wellFormed hcarries hsome hfits).trans
            ((placeNow_lands hplaced hstatus hgoes hforeign).trans (if_neg Bool.false_ne_true)))
        have hwhole : landed p (r.base + off) none data s = u := landed_none ..
        have hspoilt (i : Nat) : landed p (r.base + off) (some i) data s = spoilt i := (landed_some ..).trans (badPlace_eq _ u)
        rw [← hwhole]
        refine ⟨hacked none, hplain none, fun i => ?_⟩
        rw [← hspoilt]
        exact ⟨hacked (some i), hplain (some i)⟩
    case refused =>
      have hstatus := placeStatus_refused hplaced hwithin hrefused
      refine hanswer ((place_wellFormed hcarries hsome hfits).trans ((placeNow_refused hstatus (by decide)).trans ?_))
      rw [recordRefused_refused hplaced hwithin hrefused]
    case unknown =>
      have hstatus := placeStatus_unknown (off := off) (n := data.length) hplaced
      refine hanswer ((place_wellFormed hcarries hsome hfits).trans ((placeNow_refused hstatus (by decide)).trans ?_))
      rw [recordRefused_unknown hplaced]
    case beyond =>
      have hstatus := placeStatus_beyond hplaced hbeyond
      refine hanswer ((place_wellFormed hcarries hsome hfits).trans ((placeNow_refused hstatus (by decide)).trans ?_))
      rw [recordRefused_beyond hplaced hbeyond]
  case accesses =>
    refine ⟨fun h off data => next_congr (congrArg drainHarts (readAnswer_unknown h)),
      fun h => next_congr (congrArg drainHarts (writeAnswer_unknown h)),
      fun r off bs h hwhole hwithin hleft => ?early, fun r bs h hgot hparts hbad hall hsome => ?whole, fun r h => ?writes,
      fun m => ?response⟩
    case early =>
      exact next_congr (congrArg drainHarts ((readAnswer_part h hwithin).trans (congrArg afterAccess (readPart_early s hwhole hleft))))
    case whole =>
      intro u ends
      have hends {use : HostUse} (huse : r.use = use) (hwhole : wholeRead use = true) : ends (deliverRead use r.off bs (status != 0)
          (if status = 0 then u else raise 0x0909 r.port [] u)) := by
        subst huse
        refine next_congr (congrArg drainHarts ((readAnswer_part h ?_).trans
          (congrArg afterAccess (readPart_whole s hwhole status hgot hparts hbad hall))))
        rw [hall, Nat.zero_add]
      refine ⟨fun hok who a huse => ?_, fun hfailed who a huse => ?_, fun hok hart cx a va huse => ?_,
        fun hfailed hart cx a va huse => ?_⟩ <;> have hend := hends huse rfl
      · rwa [hok] at hend
      · rwa [if_neg hfailed, bne_iff_ne.2 hfailed] at hend
      · rwa [hok] at hend
      · rwa [if_neg hfailed, bne_iff_ne.2 hfailed] at hend
    case writes =>
      intro u
      refine ⟨fun hok => ?_, fun hfailed hhost => ?_, fun hfailed hpeer => ?_⟩
      · subst hok
        exact next_congr (congrArg drainHarts (writeAnswer_quiet h (.inl rfl)))
      · exact next_congr (congrArg drainHarts (writeAnswer_recorded h hfailed hhost))
      · have hanswer := writeAnswer_quiet (status := status) h (.inr (Option.isSome_iff_ne_none.2 hpeer))
        rw [beq_eq_false_iff_ne.2 hfailed] at hanswer
        exact next_congr (congrArg drainHarts hanswer)
    case response =>
      -- The model's match and the statement's are two of their own where each stands in a file of its own.
      simp only [afterWrite, portOfHome_ackBox] <;> rfl

end Sys2Proof.Machine
end

section
/-! Pairings, hot spares and strait lane spares (R348, R398, R399, R403 to R405). -/

namespace Sys2Proof.Machine

/-! ### Answers leave the other mailboxes alone -/

section
variable (s : State)

theorem foldl_fst_hbr {α β : Type} {f : State × β → α → State × β} (h : ∀ p x, (f p x).1.hbr = p.1.hbr) (l : List α) (p : State × β) :
    (l.foldl f p).1.hbr = p.1.hbr := by
  induction l generalizing p with
  | nil => rfl
  | cons x r ih => exact (ih _).trans (h p x)

theorem issueOn_hbr (p : Nat) (r : HostReq) : (issueOn p r s).hbr = s.hbr := sendTxn_hbr ..

theorem issueAux_hbr (n : Nat) (r : HostReq) : (issueAux n r s).1.hbr = s.hbr := by
  induction n generalizing r s with
  | zero => rfl
  | succ n ih =>
    unfold issueAux
    split
    next => rfl
    next =>
      split
      next => rfl
      next =>
        split
        next => exact (ih _ _).trans (issueOn_hbr _ _ _)
        next => rfl

theorem pumpHost_hbr : (pumpHost s).hbr = s.hbr := by
  unfold pumpHost
  refine (foldl_fst_hbr (fun p r => ?_) _ _).trans (rfl : { s with zng := { s.zng with queued := [] } }.hbr = s.hbr)
  obtain ⟨t, rest, stuck⟩ := p
  have hissued := issueAux_hbr t 2050 r
  dsimp only
  split
  next => rfl
  next => split <;> (next hends => rw [hends] at hissued; exact hissued)

theorem hostWrite_hbr (off : Nat) (data : List Byte) (use : HostUse) : (hostWrite off data use s).hbr = s.hbr := pumpHost_hbr _

theorem deliver_hbr (m status len : Nat) : (deliver m status len s).hbr = s.hbr := by
  unfold deliver
  dsimp only
  split_ifs
  · exact hostWrite_hbr ..
  · exact hostWrite_hbr ..
  · rfl
  · rfl
  · rfl

theorem requestCheck_hbr (before : Nat) : (requestCheck before s).hbr = s.hbr := by
  rw [aside_requestCheck before s]

theorem mbOf_congr {s t : State} (h : t.hbr = s.hbr) (k : Nat) : mbOf t k = mbOf s k := by
  unfold mbOf
  rw [h]

theorem mbOf_await_same (m : Nat) (w : MbWait) : mbOf (await m w s) m = { mbOf s m with wait := w } := look_put_same _ _ _ _

variable {k m : Nat} (hne : k ≠ m)
include hne

theorem mbOf_await_other (w : MbWait) : mbOf (await m w s) k = mbOf s k := look_put_other _ _ _ _ _ _ hne

theorem mbOf_complete_other (status : Nat) (res : List Nat) (payload : List Byte) :
    mbOf (complete m status res payload s) k = mbOf s k := by
  unfold complete
  exact (mbOf_congr (deliver_hbr ..) k).trans (look_put_other _ _ _ _ _ _ hne)

theorem mbOf_finish_other (status : Nat) : mbOf (finish m status s) k = mbOf s k := mbOf_complete_other s hne status [] []

end

/-- A request that has been taken runs in one of the 16 mailboxes. -/
theorem entered_running {op m : Nat} {s u : State} {x : Mailbox} (h : Entered op m s x u) :
    m < 16 ∧ (mbOf u m).state = .running := by
  obtain ⟨hready, -, -, hfrom⟩ := h
  constructor
  · simp only [mbReady, Bool.and_eq_true, decide_eq_true_eq] at hready
    exact hready.1.1
  · rcases hfrom with ⟨-, -, -, -, -, rfl⟩ | ⟨hrunning, -, -, -, rfl⟩
    · rw [mbOf_mbTaken, if_pos rfl]
      rfl
    · rw [mbOf_await_same]
      exact hrunning

/-! ### PAIR, UNPAIR and FEED (R348, R398, R399) -/

section
variable {m : Nat} {s u : State} {x : Mailbox}

theorem exec_pair_entered (h : Entered 0x60 m s x u) : exec (.pair m) s = .next (
    if securingPartner u then finish m stState u
    else if !guestOk u (mbArg x 3) then finish m stNoResource u
    else sendKeyed (mbArg x 0) 0 (feedBytes false (mbArg x 0) u.zng.peerId.toNat u.zng.feed.toNat)
      (await m (.pair (mbArg x 0) (mbArg x 1) (mbArg x 2) (mbArg x 3)) u)) := next_mbCommand h rfl

theorem exec_unpair_entered (h : Entered 0x61 m s x u) : exec (.unpair m) s = .next (
    if securingPartner u then finish m stState u
    else finish m stOk { u with flash := { u.flash with pairing := none } }) := next_mbCommand h rfl

theorem three_le_modeCode_iff (mode : ModState) : 3 ≤ modeCode mode ↔ mode ≠ .boot ∧ mode ≠ .train := by
  cases mode <;> decide

theorem exec_feed_answered (dest src feed : Nat) (hboot : s.mode ≠ .boot) (htrain : s.mode ≠ .train) :
    exec (.feed false dest src feed) s =
      .next (sendKeyed src 0 (feedBytes true src s.zng.peerId.toNat s.zng.feed.toNat) s) :=
  if_pos ((three_le_modeCode_iff _).2 ⟨hboot, htrain⟩)

theorem exec_feed_early (dest src feed : Nat) (h : s.mode = .boot ∨ s.mode = .train) :
    exec (.feed false dest src feed) s = .next s :=
  if_neg fun hcode => h.elim ((three_le_modeCode_iff _).1 hcode).1 ((three_le_modeCode_iff _).1 hcode).2

/-- What a peer's FEED does to the command of one mailbox (R398). -/
def pairingStep (src feed : Nat) (s : State) (k : Nat) : State :=
  match (mbOf s k).state, (mbOf s k).wait with
  | .running, .pair peer cofed theirs mine => if peer = src then recordPairing k peer cofed theirs mine feed s else s
  | _, _ => s

theorem exec_feed_answer (dest src feed : Nat) (s : State) :
    exec (.feed true dest src feed) s = .next ((List.range 16).foldl (pairingStep src feed) s) := rfl

/-- A mailbox's command waits for no peer's FEED. -/
def NotPairing (s : State) (k : Nat) : Prop := (mbOf s k).state ≠ .running ∨ ∀ a b c d, (mbOf s k).wait ≠ .pair a b c d

theorem pairingStep_notPairing {src feed k : Nat} (h : NotPairing s k) : pairingStep src feed s k = s := by
  unfold pairingStep
  split
  next hstate hwait => exact h.elim (absurd hstate) fun hother => absurd hwait (hother _ _ _ _)
  next => rfl

section
variable {src cofed theirs mine : Nat} (feed : Nat)

theorem mbOf_recordPairing_other {k : Nat} (hne : k ≠ m) : mbOf (recordPairing m src cofed theirs mine feed s) k = mbOf s k := by
  unfold recordPairing
  dsimp only
  split
  next =>
    rw [mbOf_finish_other _ hne]
    exact mbOf_congr (raise_hbr ..) k
  next =>
    rw [mbOf_complete_other _ hne]
    exact mbOf_congr ((requestCheck_hbr ..).trans (raise_hbr ..)) k

/-- The one pairing that waits for the peer's FEED is recorded, and nothing else happens. -/
theorem exec_feed_pairing (dest : Nat) (hm : m < 16) (halone : ∀ k, k < 16 → k ≠ m → NotPairing s k)
    (hrunning : (mbOf s m).state = .running) (hwait : (mbOf s m).wait = .pair src cofed theirs mine) :
    exec (.feed true dest src feed) s = .next (recordPairing m src cofed theirs mine feed s) := by
  have hrecords : pairingStep src feed s m = recordPairing m src cofed theirs mine feed s := by
    simp only [pairingStep, hrunning, hwait, if_true]
  rw [exec_feed_answer, foldl_once List.nodup_range (List.mem_range.2 hm)
    (fun k hk hne => pairingStep_notPairing (halone k (List.mem_range.1 hk) hne)), hrecords]
  intro k hk hne
  rw [hrecords]
  refine pairingStep_notPairing ?_
  unfold NotPairing
  rw [mbOf_recordPairing_other feed hne]
  exact halone k (List.mem_range.1 hk) hne

/-- Two feeds agree, or one of them is unknown (R398). -/
def SameFeed (s : State) (feed : Nat) : Prop := feed = s.zng.feed.toNat ∨ feed = 0 ∨ s.zng.feed.toNat = 0

variable {feed}

theorem sameFeed_iff : SameFeed s feed ↔ (feed == s.zng.feed.toNat || feed == 0 || s.zng.feed.toNat == 0) = true := by
  simp only [SameFeed, Bool.or_eq_true, beq_iff_eq, or_assoc]

theorem recordPairing_sameFeed (hsame : SameFeed s feed) : recordPairing m src 0 theirs mine feed s =
    finish m stSameFeed (raise 0x0B08 noSubject [] s) := by
  simp only [recordPairing, sameFeed_iff.1 hsame, beq_self_eq_true, Bool.and_self, if_true]

theorem recordPairing_apart (happart : ¬ SameFeed s feed) : recordPairing m src cofed theirs mine feed s =
    complete m stOk [feed] [] (requestCheck (risk s) (raise 0x0B07 noSubject [(1, cofed)] { s with flash := { s.flash with
      pairing := some { peer := src, feed := feed, theirs := theirs, mine := mine, cofed := false, own := s.zng.feed.toNat } } })) := by
  simp only [recordPairing, Bool.eq_false_iff.2 (mt sameFeed_iff.2 happart), Bool.false_and, Bool.or_false, Bool.false_eq_true,
    if_false]

theorem recordPairing_cofed (hsame : SameFeed s feed) : recordPairing m src 1 theirs mine feed s =
    complete m stOk [feed] [] (requestCheck (risk s) (raise 0x0B07 noSubject [(1, 1)] { s with
      flash := { s.flash with cofed := true, pairing := some { peer := src, feed := feed, theirs := theirs, mine := mine
                                                               cofed := true, own := s.zng.feed.toNat } }
      hlt := { s.hlt with cofed := true } })) := by
  have hone : ((1 : Nat) == 0) = false := rfl
  simp only [recordPairing, sameFeed_iff.1 hsame, hone, beq_self_eq_true, Bool.and_false, Bool.and_true, Bool.or_true,
    Bool.false_eq_true, if_false]

end

/-! ### Hot spares (R403, R404) -/

theorem exec_standby_entered (h : Entered 0x65 m s x u) : exec (.standby m) s = .next (
    if u.mode = .ready ∧ u.xng.role = .solo ∧ u.ttu.func = .stopped then
      finish m stOk { u with hlt := { u.hlt with standby := some (mbArg x 0) } }
    else finish m stState u) := next_mbCommand h rfl

/-- A port runs LINKUP again, its link state kept. -/
def relinkedPort (x : Port) : Port := { x with phase := .linkup, keep := true, fails := 0 }

/-- A port that is ACTIVE runs LINKUP again (R404). -/
def relinkPort (s : State) (p : Nat) : State := if portActive s p then setPort p (relinkedPort (portOf s p)) s else s

/-- Every ACTIVE port runs LINKUP again (R404). -/
def relinked (s : State) : State := (List.range 8).foldl relinkPort s

theorem exec_takeover_entered (h : Entered 0x66 m s x u) : exec (.takeover m) s = .next (
    if u.hlt.standby.isNone then finish m stState u
    else endTakeover (await m (.takeover (mbArg x 0) (mbArg x 1)) (relinked u))) := next_mbCommand h rfl

theorem relinked_inactive (h : ∀ p < 8, portActive s p = false) : relinked s = s :=
  foldl_fixed_of_mem fun p hp => if_neg (Bool.eq_false_iff.1 (h p (List.mem_range.1 hp)))

theorem sent_relinkPort (s : State) (p : Nat) : Sent s (relinkPort s p) := by
  unfold relinkPort
  split
  · exact sent_setPort _ _ s
  · exact sent_refl s

theorem sent_foldl_relinkPort (l : List Nat) (s : State) : Sent s (l.foldl relinkPort s) := by
  induction l generalizing s with
  | nil => exact sent_refl s
  | cons p l ih => exact sent_trans (sent_relinkPort s p) (ih _)

theorem relinked_kept (s : State) : (relinked s).hbr = s.hbr ∧ (relinked s).hlt = s.hlt ∧ (relinked s).log = s.log := by
  have hsent : Sent s (relinked s) := sent_foldl_relinkPort _ s
  generalize relinked s = t at hsent
  rw [hsent]
  exact ⟨rfl, rfl, rfl⟩

theorem portOf_await (m : Nat) (w : MbWait) (s : State) (p : Nat) : portOf (await m w s) p = portOf s p := rfl

theorem portOf_relinkPort (s : State) (p k : Nat) :
    portOf (relinkPort s p) k = if k = p ∧ portActive s k = true then relinkedPort (portOf s k) else portOf s k := by
  unfold relinkPort
  by_cases hk : k = p
  · subst hk
    by_cases hactive : portActive s k = true <;> simp [hactive]
  · split
    · simp [portOf_setPort_other hk, hk]
    · simp [hk]

theorem portOf_foldl_relinkPort {l : List Nat} (hnodup : l.Nodup) (s : State) (k : Nat) :
    portOf (l.foldl relinkPort s) k = if k ∈ l ∧ portActive s k = true then relinkedPort (portOf s k) else portOf s k := by
  induction l generalizing s with
  | nil => simp
  | cons p l ih =>
    obtain ⟨hp, htail⟩ := List.nodup_cons.1 hnodup
    have hstep := portOf_relinkPort s p k
    rw [List.foldl_cons, ih htail]
    by_cases hk : k = p
    · subst hk
      simp [hp, hstep]
    · have hsame : portOf (relinkPort s p) k = portOf s k := hstep.trans (if_neg fun h => hk h.1)
      simp only [portActive, hsame, List.mem_cons, hk, false_or]

theorem portOf_relinked_active {p : Nat} (hp : p < 8) (hactive : portActive s p = true) :
    portOf (relinked s) p = relinkedPort (portOf s p) :=
  (portOf_foldl_relinkPort List.nodup_range s p).trans (if_pos ⟨List.mem_range.2 hp, hactive⟩)

theorem portOf_relinked_other {p : Nat} (hother : portActive s p = false) : portOf (relinked s) p = portOf s p :=
  (portOf_foldl_relinkPort List.nodup_range s p).trans (if_neg fun h => Bool.eq_false_iff.1 hother h.2)

/-- The takeover of one mailbox's command has completed: the module is its peer, and a spare no longer (R404). -/
def takenOver (k peer : Nat) (s : State) : State :=
  finish k stOk (raise 0x0B0C noSubject [] { s with
    zng := { s.zng with peerId := BitVec.ofNat 32 peer, peerSet := true }, hlt := { s.hlt with standby := none } })

/-- A mailbox's command that waits as a TAKEOVER completes (R404). -/
def takeoverStep (s : State) (k : Nat) : State :=
  match (mbOf s k).state, (mbOf s k).wait with
  | .running, .takeover _ peer => takenOver k peer s
  | _, _ => s

theorem endTakeover_waits {p : Nat} (hp : p < 8) (hkeep : (portOf s p).keep = true) : endTakeover s = s :=
  if_pos (List.any_eq_true.2 ⟨p, List.mem_range.2 hp, hkeep⟩)

theorem endTakeover_delivered (h : ∀ p < 8, (portOf s p).keep = false) : endTakeover s = (List.range 16).foldl takeoverStep s := by
  refine if_neg fun hany => ?_
  obtain ⟨p, hp, hkeep⟩ := List.any_eq_true.1 hany
  rw [h p (List.mem_range.1 hp)] at hkeep
  cases hkeep

/-- A mailbox's command is no TAKEOVER that waits. -/
def NotTakingOver (s : State) (k : Nat) : Prop := (mbOf s k).state ≠ .running ∨ ∀ a b, (mbOf s k).wait ≠ .takeover a b

theorem takeoverStep_notTakingOver {k : Nat} (h : NotTakingOver s k) : takeoverStep s k = s := by
  unfold takeoverStep
  split
  next hstate hwait => exact h.elim (absurd hstate) fun hother => absurd hwait (hother _ _)
  next => rfl

theorem mbOf_takenOver_other {k peer : Nat} (hne : k ≠ m) : mbOf (takenOver m peer s) k = mbOf s k := by
  rw [takenOver, mbOf_finish_other _ hne]
  exact mbOf_congr (raise_hbr ..) k

/-- The one TAKEOVER that waits completes, once every port has delivered the peer ID. -/
theorem endTakeover_once {group peer : Nat} (hm : m < 16) (hports : ∀ p < 8, (portOf s p).keep = false)
    (halone : ∀ k, k < 16 → k ≠ m → NotTakingOver s k) (hrunning : (mbOf s m).state = .running)
    (hwait : (mbOf s m).wait = .takeover group peer) : endTakeover s = takenOver m peer s := by
  have htakes : takeoverStep s m = takenOver m peer s := by
    simp only [takeoverStep, hrunning, hwait]
  rw [endTakeover_delivered hports, foldl_once List.nodup_range (List.mem_range.2 hm)
    (fun k hk hne => takeoverStep_notTakingOver (halone k (List.mem_range.1 hk) hne)), htakes]
  intro k hk hne
  rw [htakes]
  refine takeoverStep_notTakingOver ?_
  unfold NotTakingOver
  rw [mbOf_takenOver_other hne]
  exact halone k (List.mem_range.1 hk) hne

section
variable (h : Entered 0x66 m s x u)
include h

theorem exec_takeover_notSpare (hspare : u.hlt.standby = none) : exec (.takeover m) s = .next (finish m stState u) := by
  rw [exec_takeover_entered h, hspare, if_pos Option.isNone_none]

section
variable {g : Nat} (hspare : u.hlt.standby = some g)
include hspare

theorem exec_takeover_spare : exec (.takeover m) s =
    .next (endTakeover (await m (.takeover (mbArg x 0) (mbArg x 1)) (relinked u))) := by
  rw [exec_takeover_entered h, hspare, if_neg (by simp)]

/-- A spare without an ACTIVE port takes over at once. -/
theorem exec_takeover_atOnce (hports : ∀ p < 8, portActive u p = false ∧ (portOf u p).keep = false)
    (halone : ∀ k, k < 16 → k ≠ m → NotTakingOver u k) :
    exec (.takeover m) s = .next (takenOver m (mbArg x 1) (await m (.takeover (mbArg x 0) (mbArg x 1)) u)) := by
  obtain ⟨hm, hrunning⟩ := entered_running h
  rw [exec_takeover_spare h hspare, relinked_inactive fun p hp => (hports p hp).1]
  refine next_congr (endTakeover_once (group := mbArg x 0) hm (fun p hp => (hports p hp).2) (fun k hk hne => ?_) ?_ ?_)
  · unfold NotTakingOver
    rw [mbOf_await_other u hne]
    exact halone k hk hne
  · rw [mbOf_await_same]
    exact hrunning
  · rw [mbOf_await_same]

/-- A spare with an ACTIVE port waits for its LINKUP. -/
theorem exec_takeover_relinks {p : Nat} (hp : p < 8) (hactive : portActive u p = true) :
    exec (.takeover m) s = .next (await m (.takeover (mbArg x 0) (mbArg x 1)) (relinked u)) := by
  refine (exec_takeover_spare h hspare).trans (next_congr (endTakeover_waits hp ?_))
  rw [portOf_await, portOf_relinked_active hp hactive]
  rfl

end

end

end

/-! ### Strait lanes (R405) -/

section
variable {s : State} {k : Nat} (hserves : modeServes s = true) (hlane : marginTargetOk s.cfg 2 k = true)
include hserves hlane

theorem exec_straitLaneSpared_spare (hfree : spareUser s k = none) : exec (.straitLaneSpared k) s =
    .next (raise 0x060B k [] { s with mem := { s.mem with straitSpared := s.mem.straitSpared ++ [k] } }) := by
  change execStraitLaneSpared k s = _
  simp only [execStraitLaneSpared, spareStraitLane, hserves, hlane, hfree, Bool.not_true, Bool.or_self, Option.isSome_none,
    Bool.false_eq_true, if_false]

theorem exec_straitLaneSpared_dropped {r : Nat} (htaken : spareUser s k = some r) (hother : r ≠ k)
    (hnew : k / 32 ∉ s.mem.straitDropped) : exec (.straitLaneSpared k) s =
      .next { s with mem := { s.mem with straitDropped := s.mem.straitDropped ++ [k / 32] } } := by
  change execStraitLaneSpared k s = _
  simp only [execStraitLaneSpared, hserves, hlane, htaken, hother, List.contains_iff_mem, hnew, Bool.not_true, Bool.or_self,
    Bool.false_eq_true, or_self, if_false]

end

/-- Settles O48: each command's effect once it is taken, a FEED by the one pairing that waits for it, and a TAKEOVER by its ports. -/
theorem pairingAndSpares : Obligations.PairingAndSpares := by
  unfold Obligations.PairingAndSpares
  refine ⟨fun m x s u => ⟨fun h => ?pair, exec_unpair_entered, exec_feed_answered, exec_feed_early, ?feed⟩,
    fun m x s u => ⟨exec_standby_entered, fun h => ⟨exec_takeover_notSpare h, fun g hspare hports halone =>
      exec_takeover_atOnce h hspare hports halone, fun g hspare hactive => ?relinks⟩,
      fun k hserves hlane => ⟨exec_straitLaneSpared_spare hserves hlane, fun r => exec_straitLaneSpared_dropped hserves hlane⟩⟩⟩
  case pair =>
    rw [exec_pair_entered h]
    refine ⟨fun hsecuring => ?_, fun hsecuring hguest => ?_, fun hsecuring hguest => ?_⟩
    · simp only [hsecuring, if_true]
    · simp only [hsecuring, hguest, Bool.not_false, Bool.false_eq_true, if_true, if_false]
    · simp only [hsecuring, hguest, Bool.not_true, Bool.false_eq_true, if_false]
  case feed =>
    intro dest src feed cofed theirs mine hm halone hrunning hwait
    have hrecords := exec_feed_pairing feed dest hm halone hrunning hwait
    refine ⟨fun hsame hcofed => ?_, fun hown hzero hmine => ?_, fun hsame hcofed => ?_⟩ <;> refine hrecords.trans (next_congr ?_)
    · subst hcofed
      exact recordPairing_sameFeed hsame
    · exact recordPairing_apart fun hsame => hsame.elim hown fun hunknown => hunknown.elim hzero hmine
    · subst hcofed
      exact recordPairing_cofed hsame
  case relinks =>
    obtain ⟨p, hp, hactive⟩ := hactive
    obtain ⟨hhbr, hhlt, hlog⟩ := relinked_kept u
    refine ⟨_, exec_takeover_relinks h hspare hp hactive, ?_, ?_, fun k hk hup => ?_, fun k _ hother => ?_,
      (await_hlt ..).trans hhlt, (await_log ..).trans hlog⟩
    · rw [mbOf_await_same, mbOf_congr hhbr]
      exact (entered_running h).2
    · rw [mbOf_await_same]
    · rw [portOf_await, portOf_relinked_active hk hup]
      exact ⟨rfl, rfl⟩
    · rw [portOf_await, portOf_relinked_other hother]

end Sys2Proof.Machine
end

section
/-! The block, its queue and its commands (R5, R17, R47): a step, the idle block, the answer of every command, and the state after reset. -/

namespace Sys2Proof.Machine

/-- Settles O55: with a command in front of the queue the step is that command's. -/
theorem stepRunsFrontCommand : Obligations.StepRunsFrontCommand := by
  unfold Obligations.StepRunsFrontCommand
  intro c rest s
  exact step_of_front rfl

/-- One cycle passes: the clock counts where it runs, and the timetable's time where both do (R17, R47). -/
theorem pass_one (s : State) : pass 1 s = { s with
    now := s.now + 1
    xng := { s.xng with
      cycle := if s.xng.running then s.xng.cycle + 1 else s.xng.cycle
      ttTime := if s.xng.running && s.xng.ttRunning then s.xng.ttTime + 1 else s.xng.ttTime } } := by
  refine (if_neg one_ne_zero).trans ?_
  dsimp only
  congr 1
  by_cases hclock : s.xng.running = true
  · rw [if_pos hclock, if_pos hclock, hclock, Bool.true_and]
    rfl
  · rw [if_neg hclock, if_neg hclock, if_neg (fun h => hclock (Bool.and_eq_true_iff.1 h).1)]

/-- Settles O56: the step of an empty queue is the idle block's, which lets one cycle pass. -/
theorem emptyQueueIdles : Obligations.EmptyQueueIdles := by
  unfold Obligations.EmptyQueueIdles
  intro s hempty
  exact (step_of_empty hempty).trans (congrArg _ (pass_one s))

/-- A command answers a next state. -/
def Answers (o : Host.Outcome State Fault Refusal) : Prop := ∃ t, o = .next t

theorem Answers.next {s : State} : Answers (.next s) := ⟨s, rfl⟩

theorem Answers.ite {p : Prop} [Decidable p] {a b : Host.Outcome State Fault Refusal} (ha : Answers a) (hb : Answers b) :
    Answers (if p then a else b) := by
  split
  · exact ha
  · exact hb

/-- Most commands' meaning is a next state outright; the others choose one among several. -/
theorem exec_answers (c : Instr) (s : State) : Answers (exec c s) := by
  cases c with
  | tick | ringEn _ | windowWrite _ | overrun | voteSum _ _ _ _ | groupFault | leadLost | crossingMarker _ | holdover
    | alignLost | storeScrub _ _ | patrolScrub _ | primaryCalibration _ | calFallback _ | ceLimitReached _ | channelLost _
    | countDecay | idleFlit _ _ _ _ | minuteCount | warningSourceDeasserted _ _ | hostWindowAccess _ _ _ _ _ =>
    exact .ite .next .next
  | cutoff =>
    exact .ite (.ite .next .next) .next
  | voteDeadline =>
    exact .ite .next (.ite (.ite .next .next) .next)
  | decision _ | crd _ _ _ | moduleHalted =>
    exact .ite .next (.ite .next (.ite .next .next))
  | dataFlit _ _ _ _ =>
    exact .ite (.ite .next (.ite .next (.ite .next (.ite .next .next)))) .next
  | nak _ _ _ _ =>
    exact .ite (.ite .next (.ite .next .next)) .next
  | feed _ _ _ _ =>
    exact .ite .next (.ite .next .next)
  | periodChanged => change Answers (execPeriodChanged s); unfold execPeriodChanged; (repeat' split) <;> exact .next
  | probe _ _ _ _ _ _ => change Answers (execProbe _ _ _ _ _ _ s); unfold execProbe; dsimp only; (repeat' split) <;> exact .next
  | groupFormed => change Answers (execGroupFormed s); unfold execGroupFormed; (repeat' split) <;> exact .next
  | memberJoined _ => change Answers (execMemberJoined _ s); unfold execMemberJoined; (repeat' split) <;> exact .next
  | memberLeft _ => change Answers (execMemberLeft _ s); unfold execMemberLeft; dsimp only; (repeat' split) <;> exact .next
  | dissolve _ => change Answers (execDissolve _ s); unfold execDissolve; (repeat' split) <;> exact .next
  | lockPages _ => change Answers (execLockPages _ s); unfold execLockPages; dsimp only; (repeat' split) <;> exact .next
  | move _ => change Answers (execMove _ s); unfold execMove; (repeat' split) <;> exact .next
  | mmaFull _ _ => change Answers (execMmaFull _ _ s); unfold execMmaFull; (repeat' split) <;> exact .next
  | mmaPartial _ _ => change Answers (execMmaPartial _ _ s); unfold execMmaPartial; (repeat' split) <;> exact .next
  | mmaCombine _ => change Answers (execMmaCombine _ s); unfold execMmaCombine; (repeat' split) <;> exact .next
  | mmaFinal _ => change Answers (execMmaFinal _ s); unfold execMmaFinal; (repeat' split) <;> exact .next
  | kernel _ => change Answers (execKernel _ s); unfold execKernel; (repeat' split) <;> exact .next
  | snapShip _ => change Answers (execSnapShip _ s); unfold execSnapShip; (repeat' split) <;> exact .next
  | snapPolicy _ => change Answers (execSnapPolicy _ s); unfold execSnapPolicy; (repeat' split) <;> exact .next
  | shipmentStart => change Answers (execShipmentStart s); unfold execShipmentStart; dsimp only; (repeat' split) <;> exact .next
  | ferryDescriptor _ _ => change Answers (execFerryDescriptor _ _ s); unfold execFerryDescriptor; dsimp only; (repeat' split) <;> exact .next
  | ferryCompletion _ => change Answers (execFerryCompletion _ s); unfold execFerryCompletion; dsimp only; (repeat' split) <;> exact .next
  | laneLoadReturn _ _ _ => change Answers (execLaneLoadReturn _ _ _ s); unfold execLaneLoadReturn; (repeat' split) <;> exact .next
  | wcEviction _ _ => change Answers (execWcEviction _ _ s); unfold execWcEviction; (repeat' split) <;> exact .next
  | marginScanDone _ _ _ _ => change Answers (execMarginScanDone _ _ _ _ s); unfold execMarginScanDone; (repeat' split) <;> exact .next
  | pageMigrated _ => change Answers (execPageMigrated _ s); unfold execPageMigrated; (repeat' split) <;> exact .next
  | skctxWrite _ _ _ => change Answers (execSkctxWrite _ _ _ s); unfold execSkctxWrite; (repeat' split) <;> exact .next
  | requestResend _ _ => change Answers (execRequestResend _ _ s); unfold execRequestResend; dsimp only; (repeat' split) <;> exact .next
  | reservationExpiry _ => change Answers (execReservationExpiry _ s); unfold execReservationExpiry; (repeat' split) <;> exact .next
  | transactionTimeout _ => change Answers (execTransactionTimeout _ s); unfold execTransactionTimeout; (repeat' split) <;> exact .next
  | align _ _ _ => change Answers (execAlign _ _ _ s); unfold execAlign; dsimp only; (repeat' split) <;> exact .next
  | nakHoldoffExpiry _ => change Answers (execNakHoldoffExpiry _ s); unfold execNakHoldoffExpiry; (repeat' split) <;> exact .next
  | creditStall _ => change Answers (execCreditStall _ s); unfold execCreditStall; (repeat' split) <;> exact .next
  | flush _ _ _ => change Answers (execFlush _ _ _ s); unfold execFlush; (repeat' split) <;> exact .next
  | nop _ _ _ => change Answers (execNop _ _ _ s); unfold execNop; (repeat' split) <;> exact .next
  | flushAck _ _ => change Answers (execFlushAck _ _ s); unfold execFlushAck; (repeat' split) <;> exact .next
  | flushTimeout _ => change Answers (execFlushTimeout _ s); unfold execFlushTimeout; (repeat' split) <;> exact .next
  | commandTimeout _ => change Answers (execCommandTimeout _ s); unfold execCommandTimeout; (repeat' split) <;> exact .next
  | undefinedOpcode _ => change Answers (execUndefinedOpcode _ s); unfold execUndefinedOpcode; (repeat' split) <;> exact .next
  | _ => exact .next

/-- Settles O57: a command's meaning is a next state, or a choice among several. -/
theorem everyCommandAnswers : Obligations.EveryCommandAnswers := by
  unfold Obligations.EveryCommandAnswers
  exact exec_answers

/-- Settles O59: each conjunct is a value of the one state after reset. -/
theorem resetState : Obligations.ResetState := by
  unfold Obligations.ResetState
  refine ⟨rfl, rfl, rfl, rfl, by decide, ?_⟩
  intro off v h
  fin_cases h <;> rfl

end Sys2Proof.Machine
end

section
/-! The mailboxes (R356 to R363): the checks of a request in their order, the doorbells, the I3C target and the time limits. -/

namespace Sys2Proof.Machine

/-! ### A request that is to be taken -/

section
variable {op m : Nat} {act : Mailbox → State → State} {s : State}

theorem mbOf_mbTaken_same (s : State) (m : Nat) : mbOf (mbTaken m s) m = mbRunning s m := by
  rw [mbOf_mbTaken, if_pos rfl]

theorem mbCommand_kept (h : mbReady m s = false ∨ mbOp (mbOf s m) ≠ op) : mbCommand op m act s = s := by
  refine if_pos ?_
  rcases h with hnot | hother
  · simp [hnot]
  · simp [hother]

/-- A request's own effect begins, or the first check that is left fails (Table 13.4). -/
theorem laterChecks_eq (m : Nat) (act : Mailbox → State → State) (s : State) : laterChecks m act s =
    if (mbOf s m).bad = true then finish m stIntegrity s
    else if argsOk s.cfg (mbOp (mbOf s m)) m (mbOf s m) = false then finish m stBadArg s
    else if (mbOf s m).busy = true then finish m stBusy s
    else act (mbOf s m) (await m .nothing s) := by
  simp only [laterChecks, Bool.not_eq_true']

/-- The host has to be asked for the payload of a mailbox's request (R356). -/
def FetchesPayload (op m : Nat) (s : State) : Prop := m < 8 ∧ takesPayload op = true ∧ mbPayLen (mbOf s m) ≠ 0

section
variable (hready : mbReady m s = true) (hop : mbOp (mbOf s m) = op)
include hready hop

section
variable (hposted : (mbOf s m).state = .posted)
include hposted

/-- A POSTED request is taken, and meets the first four checks (R356, R357). -/
theorem mbCommand_posted : mbCommand op m act s = match firstChecks (mbTaken m s) m with
    | some st => finish m st (mbTaken m s)
    | none => if m < 8 ∧ takesPayload op = true ∧ mbPayLen (mbRunning s m) ≠ 0 then fetchPayload m act (mbTaken m s)
      else laterChecks m act (mbTaken m s) := by
  refine (if_neg ?_).trans (if_neg ?_)
  · simp [hready, hop]
  · simp [hposted]

theorem mbCommand_refused {st : Nat} (hfails : firstChecks s m = some st) : mbCommand op m act s = finish m st (mbTaken m s) := by
  rw [mbCommand_posted hready hop hposted, firstChecks_mbTaken, hfails]

variable (hpass : firstChecks s m = none)
include hpass

theorem mbCommand_fetches (hfetches : FetchesPayload op m s) : mbCommand op m act s = fetchPayload m act (mbTaken m s) := by
  rw [mbCommand_posted hready hop hposted, firstChecks_mbTaken, hpass]
  exact if_pos hfetches

theorem mbCommand_atOnce (hplain : ¬ FetchesPayload op m s) : mbCommand op m act s = laterChecks m act (mbTaken m s) := by
  rw [mbCommand_posted hready hop hposted, firstChecks_mbTaken, hpass]
  exact if_neg hplain

end

theorem mbCommand_running (hrunning : (mbOf s m).state = .running) : mbCommand op m act s = laterChecks m act s := by
  refine (if_neg ?_).trans (if_pos ?_)
  · simp [hready, hop]
  · simp [hrunning]

end

theorem fetchPayload_asks (hports : allLost s = false) : fetchPayload m act s =
    hostRead (mbPayOff (mbOf s m)) (min (mbPayLen (mbOf s m)) 1984) (.payload m) (await m .payload s) :=
  if_neg (by simp [hports])

/-- A payload that no port can bring comes poisoned (R341). -/
theorem fetchPayload_lost (hports : allLost s = true) :
    fetchPayload m act s = finish m stIntegrity (setMb m { mbOf s m with bad := true } s) := by
  have hset : mbOf (setMb m { mbOf s m with bad := true } s) m = { mbOf s m with bad := true } := look_put_same _ _ _ _
  refine (if_pos hports).trans ?_
  rw [laterChecks_eq, hset]
  exact if_pos rfl

end

/-! ### Table 13.4 -/

/-- A management command's row is a mailbox's command with an effect of its own. -/
theorem exec_mbCmd {c : Instr} {op m : Nat} (h : mbCmd c = some (op, m)) : ∃ act, ∀ s, exec c s = .next (mbCommand op m act s) := by
  unfold mbCmd at h
  split at h <;> cases h <;> exact ⟨_, fun _ => rfl⟩

section
variable {m : Nat} {s : State}

theorem exec_undefinedOpcode_mailbox (hnone : cmdClass (mbOp (mbOf s m)) = none) : exec (.undefinedOpcode (.mailbox m)) s =
    .next (mbCommand (mbOp (mbOf s m)) m (fun _ s => s) s) :=
  next_congr (if_pos (by rw [hnone]; rfl))

/-- An opcode that no table lists fails the second check, where its path's CRC is not wrong already (R361). -/
theorem firstChecks_undefined (hnone : cmdClass (mbOp (mbOf s m)) = none) : firstChecks s m = some
    (if 8 ≤ m ∧ mbField (mbOf s m) 60 4 ≠ crc32c (getBytes (mbOf s m).bytes 0 60) then stIntegrity else stBadOpcode) := by
  unfold firstChecks
  dsimp only
  split
  · rfl
  · exact if_pos (by rw [hnone]; rfl)

end

/-- Settles O34: every command of the table is `mbCommand`, whose request is taken, fetches its payload, or meets the later checks. -/
theorem mailboxChecks : Obligations.MailboxChecks := by
  unfold Obligations.MailboxChecks
  refine ⟨fun c op m s hc => ?listed, fun m s => ⟨fun hready hposted hnone => ?undefined, fun hidle => ?register, fun j hjob => ?refused⟩⟩
  case listed =>
    obtain ⟨act, hexec⟩ := exec_mbCmd hc
    simp only [hexec s]
    refine ⟨fun hnot => next_congr (mbCommand_kept hnot), fun hready hop hposted => ?posted, fun hready hop hrunning => ?running⟩
    case posted =>
      have hargs : argsOk (mbTaken m s).cfg (mbOp (mbRunning s m)) m (mbRunning s m) = argsOk s.cfg op m (mbOf s m) := by rw [← hop]; rfl
      have hbusy : (mbRunning s m).busy = classBusy s op m := by rw [← hop]; rfl
      refine ⟨fun st hfails => next_congr (mbCommand_refused hready hop hposted hfails), fun hpass hfetches hports => ?_,
        fun hpass hfetches hports => ?_, fun hpass hplain hbad => ?_, fun hpass hplain hargs' hbusy' => ?_, hbusy⟩
      · rw [mbCommand_fetches hready hop hposted hpass hfetches, fetchPayload_asks (s := mbTaken m s) hports, mbOf_mbTaken_same]
        rfl
      · rw [mbCommand_fetches hready hop hposted hpass hfetches, fetchPayload_lost (s := mbTaken m s) hports, mbOf_mbTaken_same]
      · rw [mbCommand_atOnce hready hop hposted hpass hplain, laterChecks_eq, mbOf_mbTaken_same, hargs, hbad]
        rfl
      · rw [mbCommand_atOnce hready hop hposted hpass hplain, laterChecks_eq, mbOf_mbTaken_same, hargs, hargs', hbusy, hbusy']
        rfl
    case running =>
      simp only [mbCommand_running hready hop hrunning, laterChecks_eq, hop]
      refine ⟨fun hbad => ?_, fun hbad hargs => ?_, fun hbad hargs hbusy => ?_⟩
      · simp only [hbad, if_true]
      · simp only [hbad, hargs, Bool.false_eq_true, if_false, if_true]
      · simp only [hbad, hargs, hbusy, Bool.false_eq_true, Bool.true_eq_false, if_false, if_true]
  case undefined =>
    rw [exec_undefinedOpcode_mailbox hnone]
    exact next_congr (mbCommand_refused hready rfl hposted (firstChecks_undefined hnone))
  case register => exact next_congr (if_neg (by simp [hidle]))
  case refused => exact next_congr (if_pos (by simp [hjob]))

/-! ### Doorbells (R357) -/

section
variable {m : Nat} {s : State}

theorem ringBell_idle (h : (mbOf s m).state = .idle) : ringBell m s =
    setMb m { mbOf s m with state := .posted, posted := s.now, wait := .nothing, bad := false } s := if_pos h

theorem ringBell_misused (h : (mbOf s m).state ≠ .idle) : ringBell m s =
    raise 0x0A05 noSubject [] (setMb m { mbOf s m with err := true } s) := if_neg h

theorem ackBox_done (h : (mbOf s m).state = .done) : ackBox m s = setMb m { mbOf s m with state := .idle } s := if_pos h

theorem ackBox_kept (h : (mbOf s m).state ≠ .done) : ackBox m s = s := if_neg h

theorem exec_mailboxDoorbell_open (h : boxOpen s m = true) : exec (.mailboxDoorbell m) s = .next (ringBell m s) :=
  next_congr (if_pos h)

theorem exec_mailboxAck_open (h : boxOpen s m = true) : exec (.mailboxAck m) s = .next (ackBox m s) := next_congr (if_pos h)

theorem exec_mailboxDoorbell_closed (h : boxOpen s m = false) : exec (.mailboxDoorbell m) s = .next s :=
  next_congr (if_neg (by simp [h]))

theorem exec_mailboxAck_closed (h : boxOpen s m = false) : exec (.mailboxAck m) s = .next s := next_congr (if_neg (by simp [h]))

/-! ### The I3C target (R359) -/

/-- The module with the offset of the last write that reached the I3C target. -/
def i3cAt (off : Nat) (s : State) : State := { s with hbr := { s.hbr with i3cOff := off } }

/-- A write over I3C lands byte by byte, from the offset that its first two bytes name. -/
theorem exec_i3cPrivateWrite_bytes (h : boxOpen s 8 = true) (lo hi : Byte) (bs : List Byte) :
    exec (.i3cPrivateWrite (lo :: hi :: bs)) s =
      .next ((bs.zipIdx (lo.toNat + 256 * hi.toNat)).foldl (fun s b => i3cByte (b.2 % 65536) b.1 s)
        (i3cAt (lo.toNat + 256 * hi.toNat) s)) := by
  have hoff : fld (lo :: hi :: bs) 0 2 = lo.toNat + 256 * hi.toNat := by simp [fld, slice, leNat]
  change execI3cPrivateWrite (lo :: hi :: bs) s = _
  simp only [execI3cPrivateWrite, hoff, h, List.length_cons]
  simp [i3cAt]

theorem writeBox_request (off : Nat) (b : Byte) (hoff : off < 4096) (h : (mbOf s m).state = .idle ∨ (mbOf s m).state = .done) :
    writeBox m off [b] s = setMb m { mbOf s m with bytes := setBytes (mbOf s m).bytes off [b] } s := by
  obtain ⟨n, hn⟩ : ∃ n, 4096 - off = n + 1 := ⟨4095 - off, by omega⟩
  refine (if_pos h).trans ?_
  rw [hn, List.take_succ_cons, List.take_nil]

theorem writeBox_kept (off : Nat) (bs : List Byte) (h : (mbOf s m).state = .posted ∨ (mbOf s m).state = .running) :
    writeBox m off bs s = s :=
  if_neg (by rcases h with h | h <;> simp [h])

/-- While a request is POSTED or RUNNING a write over I3C below the register changes no byte. -/
theorem i3cByte_kept {off : Nat} (hoff : off < 4096) (b : Byte) (h : (mbOf s 8).state = .posted ∨ (mbOf s 8).state = .running) :
    i3cByte off b s = s := (if_pos hoff).trans (writeBox_kept _ _ h)

/-- A read over I3C returns a mailbox's bytes as they stand. -/
theorem i3cRead_bytes {off n : Nat} (hwf : Memory.wf (mbOf s 8).bytes = true) (h : off + n ≤ 4096) :
    i3cRead (i3cAt off s) n = getBytes (mbOf s 8).bytes off n := by
  refine List.ext_getElem (by simp [i3cRead]) fun i hi hi' => ?_
  have hin : i < n := by simpa [i3cRead] using hi
  have hread : i3cReadByte (i3cAt off s) ((off + i) % 65536) = (getBytes (mbOf s 8).bytes (off + i) 1).headD 0 := by
    rw [Nat.mod_eq_of_lt (by omega)]
    exact if_pos (by omega)
  simp only [i3cRead, List.getElem_map, List.getElem_range]
  refine hread.trans ?_
  rw [← slice_getBytes hwf off (show i + 1 ≤ n by omega), slice, List.drop_eq_getElem_cons hi']
  rfl

/-- A read over I3C at the register returns the mailbox's state (R359). -/
theorem i3cRead_register : i3cRead (i3cAt 4096 s) 2 = [BitVec.ofNat 8 (mbStateCode (mbOf s 8).state), 0] := by
  simp [i3cRead, i3cReadByte, i3cAt, mbOf, List.range_succ]

theorem exec_i3cPrivateWrite_register (h : boxOpen s 8 = true) (b : Byte) : exec (.i3cPrivateWrite [0x00, 0x10, b]) s =
    .next (i3cByte 4096 b (i3cAt 4096 s)) := exec_i3cPrivateWrite_bytes h 0x00 0x10 [b]

theorem exec_i3cPrivateWrite_short (h : boxOpen s 8 = true) {bs : List Byte} (hshort : bs.length < 2) :
    exec (.i3cPrivateWrite bs) s = .next (raise 0x0A05 noSubject [] s) :=
  next_congr ((if_neg (by simp [h])).trans (if_pos hshort))

/-- A request byte is taken in IDLE and DONE (R357, R359). -/
theorem exec_i3cPrivateWrite_request (h : boxOpen s 8 = true) {lo hi : Byte} (b : Byte) (hoff : lo.toNat + 256 * hi.toNat < 4096)
    (hfree : (mbOf s 8).state = .idle ∨ (mbOf s 8).state = .done) : exec (.i3cPrivateWrite [lo, hi, b]) s =
      .next (setMb 8 { mbOf s 8 with bytes := setBytes (mbOf s 8).bytes (lo.toNat + 256 * hi.toNat) [b] }
        (i3cAt (lo.toNat + 256 * hi.toNat) s)) := by
  refine (exec_i3cPrivateWrite_bytes h lo hi [b]).trans (next_congr ?_)
  simp only [List.zipIdx_cons, List.zipIdx_nil, List.foldl_cons, List.foldl_nil, Nat.mod_eq_of_lt (hoff.trans (show 4096 < 65536 by decide))]
  exact (if_pos hoff).trans (writeBox_request _ _ hoff hfree)

/-- Request bytes are ignored while one is POSTED or RUNNING (R357, R359). -/
theorem exec_i3cPrivateWrite_ignored (h : boxOpen s 8 = true) {lo hi : Byte} {bs : List Byte}
    (hwithin : lo.toNat + 256 * hi.toNat + bs.length ≤ 4096) (hbusy : (mbOf s 8).state = .posted ∨ (mbOf s 8).state = .running) :
    exec (.i3cPrivateWrite (lo :: hi :: bs)) s = .next (i3cAt (lo.toNat + 256 * hi.toNat) s) := by
  refine (exec_i3cPrivateWrite_bytes h lo hi bs).trans (next_congr (foldl_fixed_of_mem fun b hb => ?_))
  have hbelow : b.2 % 65536 < 4096 := by
    have := List.snd_lt_add_of_mem_zipIdx hb
    omega
  exact i3cByte_kept hbelow b.1 hbusy

theorem exec_entdaa_free (h : boxOpen s 8 = true) (a : Nat) (hfree : s.hbr.i3cAddr = none) :
    exec (.entdaa a) s = .next { s with hbr := { s.hbr with i3cAddr := some a } } :=
  next_congr (if_pos (by simp [h, hfree]))

theorem exec_entdaa_addressed (a : Nat) {b : Nat} (hheld : s.hbr.i3cAddr = some b) : exec (.entdaa a) s = .next s :=
  next_congr (if_neg (by simp [hheld]))

theorem exec_setdasa_own (h : boxOpen s 8 = true) (a : Nat) (hfree : s.hbr.i3cAddr = none) :
    exec (.setdasa (8 + s.pwr.slotId.toNat) a) s = .next { s with hbr := { s.hbr with i3cAddr := some a } } :=
  next_congr (if_pos (by simp [h, hfree]))

theorem exec_setdasa_other (a : Nat) {t : Nat} (hother : t ≠ 8 + s.pwr.slotId.toNat) : exec (.setdasa t a) s = .next s :=
  next_congr (if_neg (by simp [hother]))

theorem exec_setdasa_addressed (t a : Nat) {b : Nat} (hheld : s.hbr.i3cAddr = some b) : exec (.setdasa t a) s = .next s :=
  next_congr (if_neg (by simp [hheld]))

/-! ### Time limits (R261, R363) -/

theorem timedOut_rgn (op m t : Nat) (s : State) : (timedOut op m (passNow t s)).rgn = s.rgn :=
  (raise_rgn ..).trans (pass_rgn ..)

/-- A command whose mailbox runs no region command ends with TIMEOUT, and what it was doing with it (R363). -/
theorem timeoutBox_ends {d : Nat} (hopen : (mbOf s m).state = .posted ∨ (mbOf s m).state = .running) (hlimit : timeLimit (mbOf s m) = some d)
    (hother : ∀ j, s.rgn.job = some j → j.via ≠ .mailbox m) : timeoutBox m s =
      finish m stTimeout (abandon m (mbOf s m).wait (timedOut (mbOp (mbOf s m)) m (passNow ((mbOf s m).posted + d) s))) := by
  unfold timeoutBox
  simp only [hopen, if_true, hlimit, timedOut_rgn]
  cases hjob : s.rgn.job with
  | none => rfl
  | some j => simp only [hother j hjob, if_false]

theorem timeoutBox_kept (h : (mbOf s m).state = .idle ∨ (mbOf s m).state = .done ∨ timeLimit (mbOf s m) = none) : timeoutBox m s = s := by
  have hnone : (if (mbOf s m).state = .posted ∨ (mbOf s m).state = .running then timeLimit (mbOf s m) else none) = none := by
    rcases h with h | h | h <;> simp [h]
  unfold timeoutBox
  simp only [hnone]

/-- A region command that takes no page away ends at its limit, and nothing else (R261). -/
theorem timeoutRegion_plain {j : RgnJob} (hjob : s.rgn.job = some j) (hop : j.op ≠ 7) :
    timeoutRegion s = afterPage (finishRgn j.via stTimeout 0 s) := by
  unfold timeoutRegion
  simp only [hjob, hop, if_false]

theorem exec_commandTimeout_register {j : RgnJob} (hjob : s.rgn.job = some j) (hvia : j.via = .register) :
    exec (.commandTimeout .register) s =
      .next (timeoutRegion (timedOut (j.op + 0x3F) 0xFF (passNow (j.start + 60 * second) s))) := by
  change execCommandTimeout .register s = _
  simp only [execCommandTimeout, hjob, hvia, if_true]

end

/-- Settles O35: a doorbell and an acknowledgement by the mailbox's state, an I3C write byte by byte, a command by its limit. -/
theorem mailboxDoorbellsAndTimeouts : Obligations.MailboxDoorbellsAndTimeouts := by
  unfold Obligations.MailboxDoorbellsAndTimeouts
  refine ⟨fun m s => ⟨fun hopen => ?doorbell, fun hclosed => ⟨exec_mailboxDoorbell_closed hclosed, exec_mailboxAck_closed hclosed⟩,
    fun hopen => ?i3c⟩, fun m s hm => ⟨fun d hopen hlimit hother => ?ends, fun hkept => ?kept, fun j hjob hvia hop => ?region⟩⟩
  case doorbell =>
    rw [exec_mailboxDoorbell_open hopen, exec_mailboxAck_open hopen]
    exact ⟨fun h => next_congr (ringBell_idle h), fun h => next_congr (ringBell_misused h), fun h => next_congr (ackBox_done h),
      fun h => next_congr (ackBox_kept h)⟩
  case i3c =>
    exact ⟨exec_i3cPrivateWrite_register hopen 0x01, exec_i3cPrivateWrite_register hopen 0x02,
      fun bs => exec_i3cPrivateWrite_short hopen, fun lo hi b => exec_i3cPrivateWrite_request hopen b,
      fun lo hi bs => exec_i3cPrivateWrite_ignored hopen, fun off n => i3cRead_bytes, i3cRead_register,
      fun a hfree => ⟨exec_entdaa_free hopen a hfree, exec_setdasa_own hopen a hfree, fun t => exec_setdasa_other a⟩,
      fun a b t hheld => ⟨exec_entdaa_addressed a hheld, exec_setdasa_addressed t a hheld⟩⟩
  case ends => exact (next_congr (if_pos hm)).trans (next_congr (timeoutBox_ends hopen hlimit hother))
  case kept => exact (next_congr (if_pos hm)).trans (next_congr (timeoutBox_kept hkept))
  case region =>
    refine (exec_commandTimeout_register hjob hvia).trans (next_congr ?_)
    rw [timeoutRegion_plain ((congrArg _ (timedOut_rgn ..)).trans hjob) hop, hvia]
    rfl

end Sys2Proof.Machine
end

section
/-! The information commands, ATTEST, the configuration and the firmware banks (R366, R367, R383, R420, R425 to R437): what each command
does once it is taken. -/

namespace Sys2Proof.Machine

section
variable {m : Nat} {s u : State} {x : Mailbox}

/-! ### Information (R366, R383, R420, R436) -/

/-- What GET_INFO returns by ARG0 (R366). -/
def infoWords (s : State) : Nat → List Nat
  | 0 => [codeOf s.cfg, s.flash.serial, s.zng.peerId.toNat, s.zng.feed.toNat]
  | 1 => [look 0 s.sec.version 1, look 0 s.sec.version 2, rollbackWord s % 65536, 0x0100]
  | _ => [inService s, sparesWord s, leNat ((List.range 5).map fun h => BitVec.ofNat 8 (homeChans s.cfg h))]

theorem exec_getInfo_entered (h : Entered 0x01 m s x u) : exec (.getInfo m) s = .next (complete m stOk (infoWords u (mbArg x 0)) [] u) :=
  next_mbCommand h rfl

theorem exec_getState_entered (h : Entered 0x02 m s x u) : exec (.getState m) s = .next (complete m stOk
    [modeCode u.mode + 2 ^ 8 * u.hbr.stage, functionIds.foldl (fun a f => a + funcCode (funcOf u f) * 4 ^ f) 0, u.xng.tick.toNat,
      u.xng.index.toNat] [] u) := next_mbCommand h rfl

theorem exec_getCert_entered (h : Entered 0x79 m s x u) : exec (.getCert m) s =
    .next (complete m stOk [u.flash.cert.length] ((u.flash.cert.drop (mbArg x 0)).take 1984) u) := next_mbCommand h rfl

theorem exec_recRead_entered (h : Entered 0x70 m s x u) : exec (.recRead m) s =
    .next (complete m stOk [] ((List.range (mbArg x 1)).flatMap fun i => recSlot u (mbArg x 0 + i)) u) := next_mbCommand h rfl

theorem exec_healthConfig_entered (h : Entered 0x64 m s x u) : exec (.healthConfig m) s =
    .next (finish m stOk { u with hlt := { u.hlt with
      secureAt := BitVec.ofNat 8 (mbArg x 0), mode := mbArg x 1 == 1, windowH := BitVec.ofNat 10 (mbArg x 2) } }) := next_mbCommand h rfl

/-! ### Attestation (R437) -/

/-- The report that a request forms, signed with a value that the spec leaves open. -/
def newReport (x : Mailbox) (s : State) : List Byte :=
  let body := reportBody s (mbPayload x)
  body ++ padTo 4627 (Config.mldsaSign s.sec.engine (sha3 body) (ascii "PRACOR-ATT") (Config.freeValue s.freeCtr))

/-- The mailbox keeps the report that its request forms. -/
def reportKept (m : Nat) (x : Mailbox) (s : State) : State :=
  { drawn s with sec := { s.sec with reports := put [] m (newReport x s) s.sec.reports } }

/-- A slice of a mailbox's last report is returned (R437). -/
def reportSlice (m off : Nat) (s : State) : State :=
  if (look [] s.sec.reports m).length ≤ off then finish m stBadArg s
  else complete m stOk [(look [] s.sec.reports m).length] (((look [] s.sec.reports m).drop off).take 1984) s

theorem exec_attest_entered (h : Entered 0x78 m s x u) : exec (.attest m) s = .next (
    if u.sec.identity = false then finish m stIntegrity u
    else reportSlice m (mbArg x 0) (if mbArg x 0 = 0 then reportKept m x u else u)) := by
  refine next_mbCommand h ?_
  dsimp only
  cases u.sec.identity
  · rfl
  · by_cases hoff : mbArg x 0 = 0 <;> simp only [hoff, if_true, if_false] <;> rfl

theorem newReport_length (hA : ∀ i, u.ttu.slotA.image = some i → i.digest.length = 64)
    (hB : ∀ i, u.ttu.slotB.image = some i → i.digest.length = 64) : (newReport x u).length = 5267 := by
  rw [newReport, List.length_append, reportBody_len _ _ hA hB, padTo_len]

theorem newReport_body (hA : ∀ i, u.ttu.slotA.image = some i → i.digest.length = 64)
    (hB : ∀ i, u.ttu.slotB.image = some i → i.digest.length = 64) : (newReport x u).take 640 = reportBody u (mbPayload x) :=
  List.take_left' (reportBody_len _ _ hA hB)

theorem look_reportKept (m : Nat) (x : Mailbox) (s : State) : look [] (reportKept m x s).sec.reports m = newReport x s :=
  look_put_same _ _ _ _

end

/-- Settles O36: each command's answer once it is taken; a report by the lengths of its parts. -/
theorem informationAndAttestation : Obligations.InformationAndAttestation := by
  unfold Obligations.InformationAndAttestation
  refine ⟨fun m x s u => ⟨fun h => ?info, exec_getState_entered, exec_getCert_entered, exec_recRead_entered, exec_healthConfig_entered⟩,
    fun m x s u h => ⟨fun hnone => ?unidentified, fun hidentity hoff => ?slice, fun hidentity hoff hA hB => ?report⟩⟩
  case info =>
    rw [exec_getInfo_entered h]
    refine ⟨fun harg => ?_, fun harg => ?_, fun harg => ?_⟩ <;> rw [harg]
    · rfl
    · rfl
    · exact ⟨_, _, rfl⟩
  case unidentified => rw [exec_attest_entered h, if_pos hnone]
  case slice =>
    rw [exec_attest_entered h, if_neg (by simp [hidentity]), if_neg hoff]
    rfl
  case report =>
    have hlength := newReport_length (x := x) hA hB
    refine ⟨reportKept m x u, newReport x u, ?_, hlength, newReport_body hA hB, look_reportKept m x u, rfl, rfl, rfl, rfl, rfl⟩
    rw [exec_attest_entered h, if_neg (by simp [hidentity]), if_pos hoff, hoff, reportSlice, look_reportKept, hlength]
    rfl

section
variable {m : Nat} {s u : State} {x : Mailbox}

/-! ### Configuration (R367, R377) -/

/-- A key's value is stored in the configuration flash where the request asks for it (R367). -/
def keyStored (x : Mailbox) (s : State) : State :=
  if mbArg x 2 = 1 then { s with flash := { s.flash with config := put 0 (mbArg x 0) (mbArg x 1 + 1) s.flash.config } } else s

theorem keyStored_hbr (x : Mailbox) (s : State) : (keyStored x s).hbr = s.hbr := by
  unfold keyStored
  split <;> rfl

/-- CONFIG_SET: a key is applied while the window is open, PORT_EN excepted, and recorded in any case (R367). -/
theorem exec_configSet_entered (h : Entered 0x03 m s x u) : exec (.configSet m) s = .next (finish m stOk (raise 0x0A04 noSubject []
    (if u.hbr.window = true ∧ mbArg x 0 ≠ 4 then
      { keyStored x u with hbr := { (keyStored x u).hbr with config := put 0 (mbArg x 0) (mbArg x 1 + 1) (keyStored x u).hbr.config } }
    else keyStored x u))) := by
  refine next_mbCommand h (congrArg (finish m stOk) ?_)
  rw [← keyStored, ← keyStored_hbr x u]
  by_cases hopen : (keyStored x u).hbr.window = true ∧ mbArg x 0 ≠ 4
  · rw [if_pos hopen, if_pos (by simpa using hopen)]
    rfl
  · rw [if_neg hopen, if_neg (by simpa using hopen)]

theorem exec_configDone_entered (h : Entered 0x04 m s x u) : exec (.configDone m) s =
    .next (finish m stOk { u with hbr := { u.hbr with window := false, stage := 5 } }) := next_mbCommand h rfl

/-! ### Firmware (R433, R434) -/

theorem exec_fwWrite_entered (h : Entered 0x7A m s x u) : exec (.fwWrite m) s = .next (
    if 33554432 < mbArg x 0 + mbPayLen x then finish m stBadArg u
    else finish m stOk { u with flash := { u.flash with staging := setBytes u.flash.staging (mbArg x 0) (mbPayload x) } }) :=
  next_mbCommand h rfl

theorem exec_fwCommit_begins (bad : Bool) (h : Entered 0x7B m s x u) (hfirst : x.wait ≠ .commit) :
    exec (.fwCommit m bad) s = .next (beginCommit m (mbArg x 0) u) := next_mbCommand h (if_neg hfirst)

theorem exec_fwCommit_ends (bad : Bool) (h : Entered 0x7B m s x u) (hsecond : x.wait = .commit) :
    exec (.fwCommit m bad) s = .next (endCommit m (mbArg x 0) bad u) := next_mbCommand h (if_pos hsecond)

theorem beginCommit_refused {kind r : Nat} (h : imageFail u kind u.flash.staging = some r) :
    beginCommit m kind u = commitFails m kind (commitStatus r) r u := by
  simp only [beginCommit, h]

theorem beginCommit_taken {kind : Nat} (h : imageFail u kind u.flash.staging = none) :
    beginCommit m kind u = await m .commit (setBank kind (stagedBody u) u) := by
  simp only [beginCommit, h]

/-- A counter that its running image's SVN exceeds is raised, once bring-up is over (R433). -/
theorem fusesDue_iff {kind : Nat} (hkind : kind = 1 ∨ kind = 2) (hstage : s.hbr.stage = 8) :
    fusesDue s kind = true ↔ look 0 s.flash.rollback kind < fuseGoal s kind := by
  rcases hkind with rfl | rfl <;> simp [fusesDue, hstage]

theorem exec_rollbackRaised {kind : Nat} (hkind : kind = 1 ∨ kind = 2) (hstage : s.hbr.stage = 8) :
    exec (.rollbackRaised kind) s = .next (if look 0 s.flash.rollback kind < fuseGoal s kind then
      raise 0x0D04 kind [] (setFuses kind (fuseGoal s kind) s) else s) :=
  next_congr (if_congr (fusesDue_iff hkind hstage) rfl rfl)

end

/-- Settles O37: each command's effect once it is taken, FW_COMMIT's by which of its two commands it is. -/
theorem configurationAndFirmware : Obligations.ConfigurationAndFirmware := by
  unfold Obligations.ConfigurationAndFirmware
  intro m x s u
  refine ⟨exec_configSet_entered, exec_configDone_entered, exec_fwWrite_entered, fun bad h => ⟨fun hfirst => ⟨fun r hfails => ?_, fun hpass => ?_⟩,
    fun hsecond => ⟨?_, ?_⟩⟩, fun kind => exec_rollbackRaised⟩
  · rw [exec_fwCommit_begins bad h hfirst, beginCommit_refused hfails]
    rfl
  · rw [exec_fwCommit_begins bad h hfirst, beginCommit_taken hpass]
    rfl
  · exact exec_fwCommit_ends true h hsecond
  · exact exec_fwCommit_ends false h hsecond

end Sys2Proof.Machine
end

section
/-! What events, answers, memory, the securing and the stops leave of where the module stands: its state and stage, the warning and the
emergency, the power pins, and a unit that is not running. -/

namespace Sys2Proof.Machine

-- One proof at a time: side by side they take more memory than a check of the whole text has.
set_option Elab.async false

/-! ### Events -/

/-- Two health monitors differ at most in the request of R383 and the securing that it arms. -/
def Requested (h k : Health) : Prop := k = { h with lastReq := k.lastReq, armed := k.armed }

theorem requested_trans {h k l : Health} (hk : Requested h k) (kl : Requested k l) : Requested h l := by
  unfold Requested at *
  rw [kl, hk]

theorem sent_hlt {s t : State} (h : Sent s t) : t.hlt = s.hlt := by rw [h]

theorem sent_eventIrq (c d : Nat) (s : State) : Sent s (eventIrq c d s) := by
  unfold eventIrq
  split
  · exact sent_sendTxn _ _ _ s
  · rfl

theorem requested_requestSecuring (s : State) : Requested s.hlt (requestSecuring s).hlt := by
  unfold requestSecuring
  split
  · rfl
  · unfold armSecuring
    split <;> rfl

theorem requested_requestCheck (b : Nat) (s : State) : Requested s.hlt (requestCheck b s).hlt := by
  have requests (u : State) (hu : Requested s.hlt u.hlt) (due : Bool) : Requested s.hlt (if due = true then
      requestSecuring (eventIrq 0x0B01 1 (logOnly 0x0B01 0xFFFFFFFF [(1, 1)] { u with hlt.lastReq := some (risk s) })) else u).hlt := by
    split
    · refine requested_trans ?_ (requested_requestSecuring _)
      rw [sent_hlt (sent_eventIrq _ _ _)]
      exact requested_trans hu rfl
    · exact hu
  unfold requestCheck
  dsimp only
  split
  · split
    · rfl
    · exact requests { s with hlt.lastReq := none } rfl _
  · split
    · rfl
    · exact requests s rfl _

/-- Two health monitors differ at most in E, the record of weighty events, and the request and securing that a change of RISK brings. -/
def Weighed (h k : Health) : Prop := k = { h with e64 := k.e64, weighty := k.weighty, lastReq := k.lastReq, armed := k.armed }

theorem weighed_raise (c n : Nat) (fs : List (Nat × Nat)) (s : State) : Weighed s.hlt (raise c n fs s).hlt := by
  have weighed (b : Nat) (g : Recorder) (h : Health) (hh : Weighed s.hlt h) : Weighed s.hlt (requestCheck b { s with log := g, hlt := h }).hlt := by
    have hcheck := requested_requestCheck b { s with log := g, hlt := h }
    unfold Weighed Requested at *
    rw [hcheck]
    show ({ h with lastReq := _, armed := _ } : Health) = _
    rw [hh]
  unfold raise
  dsimp only
  split
  · rfl
  · exact weighed _ _ _ rfl

theorem requestCheck_warning (b : Nat) (s : State) : (requestCheck b s).hlt.warning = s.hlt.warning := by
  rw [requested_requestCheck b s]

theorem requestCheck_emergency (b : Nat) (s : State) : (requestCheck b s).hlt.emergency = s.hlt.emergency := by
  rw [requested_requestCheck b s]

theorem raise_warning (c n : Nat) (fs : List (Nat × Nat)) (s : State) : (raise c n fs s).hlt.warning = s.hlt.warning := by
  rw [weighed_raise c n fs s]

theorem raise_emergency (c n : Nat) (fs : List (Nat × Nat)) (s : State) : (raise c n fs s).hlt.emergency = s.hlt.emergency := by
  rw [weighed_raise c n fs s]

/-! ### Where the module stands -/

/-- The module stands as it did: its state and stage, the warning and the emergency, and the power pins are the same, and a unit that was
not running or starting still is not. -/
structure Standing (s t : State) : Prop where
  mode : t.mode = s.mode
  stage : t.hbr.stage = s.hbr.stage
  warning : t.hlt.warning = s.hlt.warning
  emergency : t.hlt.emergency = s.hlt.emergency
  pwr : t.pwr = s.pwr
  func : t.ttu.func = .running ∨ t.ttu.func = .starting → t.ttu.func = s.ttu.func

namespace Standing
variable {s t u : State}

theorem of_eq (mode : t.mode = s.mode := by rfl) (stage : t.hbr.stage = s.hbr.stage := by rfl)
    (warning : t.hlt.warning = s.hlt.warning := by rfl) (emergency : t.hlt.emergency = s.hlt.emergency := by rfl)
    (pwr : t.pwr = s.pwr := by rfl) (func : t.ttu.func = s.ttu.func := by rfl) : Standing s t :=
  ⟨mode, stage, warning, emergency, pwr, fun _ => func⟩

theorem refl (s : State) : Standing s s := of_eq

theorem trans (h : Standing s t) (k : Standing t u) : Standing s u where
  mode := k.mode.trans h.mode
  stage := k.stage.trans h.stage
  warning := k.warning.trans h.warning
  emergency := k.emergency.trans h.emergency
  pwr := k.pwr.trans h.pwr
  func := fun hu => (k.func hu).trans (h.func (k.func hu ▸ hu))

/-- What comes after a plain update. -/
theorem after (k : Standing t u) (h : Standing s t) : Standing s u := h.trans k

theorem foldl {α : Type} {f : State → α → State} (h : ∀ s x, Standing s (f s x)) (l : List α) (s : State) : Standing s (l.foldl f s) := by
  induction l generalizing s with
  | nil => exact refl s
  | cons x r ih => exact (h s x).trans (ih _)

theorem foldl_fst {α β : Type} {f : State × β → α → State × β} (h : ∀ p x, Standing p.1 (f p x).1) (l : List α) (p : State × β) :
    Standing p.1 (l.foldl f p).1 := by
  induction l generalizing p with
  | nil => exact refl p.1
  | cons x r ih => exact (h p x).trans (ih _)

theorem of_sent (h : Sent s t) : Standing s t := by
  unfold Sent at h
  rw [h]
  exact of_eq

end Standing

theorem standing_logOnly (c n : Nat) (fs : List (Nat × Nat)) (s : State) : Standing s (logOnly c n fs s) := .of_eq

theorem standing_raise (c n : Nat) (fs : List (Nat × Nat)) (s : State) : Standing s (raise c n fs s) :=
  .of_eq (raise_mode ..) (by rw [raise_hbr]) (raise_warning ..) (raise_emergency ..) (raise_pwr ..) (by rw [raise_ttu])

theorem standing_requestCheck (b : Nat) (s : State) : Standing s (requestCheck b s) := by
  have h := aside_requestCheck b s
  exact .of_eq (by rw [h]) (by rw [h]) (requestCheck_warning ..) (requestCheck_emergency ..) (by rw [h]) (by rw [h])

/-! ### Host accesses and answers -/

theorem standing_issueOn (p : Nat) (r : HostReq) (s : State) : Standing s (issueOn p r s) := by
  unfold issueOn
  exact .after (.of_sent (sent_sendTxn _ _ _ _)) .of_eq

theorem standing_issueAux (n : Nat) (r : HostReq) (s : State) : Standing s (issueAux n r s).1 := by
  induction n generalizing r s with
  | zero => exact .refl s
  | succ n ih =>
    unfold issueAux
    split
    next => exact .refl s
    next =>
      split
      next => exact .refl s
      next =>
        split
        next => exact (standing_issueOn _ _ s).trans (ih _ _)
        next => exact .refl s

theorem standing_pumpHost (s : State) : Standing s (pumpHost s) := by
  unfold pumpHost
  extract_lets q
  refine .trans (.after (t := { s with zng := { s.zng with queued := [] } }) (Standing.foldl_fst (fun p r => ?_) q
    ({ s with zng := { s.zng with queued := [] } }, [], [])) .of_eq) .of_eq
  obtain ⟨t, rest, stuck⟩ := p
  have hissued := standing_issueAux 2050 r t
  dsimp only
  split
  next => exact .refl t
  next => split <;> (next hends => rw [hends] at hissued; exact hissued)

theorem standing_hostWrite (off : Nat) (data : List Byte) (use : HostUse) (s : State) : Standing s (hostWrite off data use s) :=
  .after (standing_pumpHost _) .of_eq

theorem standing_peerWrite (id handle off : Nat) (data : List Byte) (use : HostUse) (s : State) :
    Standing s (peerWrite id handle off data use s) := .after (standing_pumpHost _) .of_eq

theorem standing_deliver (m status len : Nat) (s : State) : Standing s (deliver m status len s) := by
  unfold deliver
  dsimp only
  split_ifs
  · exact standing_hostWrite _ _ _ s
  · exact standing_hostWrite _ _ _ s
  · exact .of_eq
  · exact .of_eq
  · exact .refl s

theorem standing_complete (m status : Nat) (res : List Nat) (payload : List Byte) (s : State) :
    Standing s (complete m status res payload s) := by
  unfold complete
  exact .after (standing_deliver _ _ _ _) .of_eq

theorem standing_finish (m status : Nat) (s : State) : Standing s (finish m status s) := standing_complete m status [] [] s

theorem standing_finishAll (w : MbWait) (status : Nat) (s : State) : Standing s (finishAll w status s) :=
  .foldl (fun u m => standing_finish m status u) _ s

/-! ### Module memory -/

theorem standing_uncorrectable (b : Nat) (s : State) : Standing s (uncorrectable b s) := by
  unfold uncorrectable
  refine .after (standing_raise _ _ _ _) ?_
  split <;> exact .of_eq

theorem standing_readBlock (b : Nat) (s : State) : Standing s (readBlock b s).1 := by
  unfold readBlock
  dsimp only
  split
  · exact standing_uncorrectable b s
  · split
    · exact .refl s
    · dsimp only
      exact .after (standing_raise _ _ _ _) .of_eq
    · dsimp only
      refine .after (standing_raise _ _ _ _) ?_
      split <;> exact .of_eq
    · exact standing_uncorrectable b s

theorem standing_readNext (who a n x : Nat) (p : State × Bool) : Standing p.1 (readNext who a n p x).1 := by
  unfold readNext
  extract_lets lo ls
  split
  · split
    · exact .refl p.1
    · exact standing_readBlock x p.1
  · exact .foldl (fun u l => standing_raise _ _ _ u) ls p.1

theorem standing_readMem (who a n : Nat) (s : State) : Standing s (readMem who a n s).1 :=
  .foldl_fst (fun p x => standing_readNext who a n x p) _ (s, false)

theorem standing_evictEntry (e : WcEntry) (s : State) : Standing s (evictEntry e s) := by
  unfold evictEntry
  dsimp only
  split
  · exact .of_eq
  · split
    · exact .of_eq
    · exact .trans (t := (readBlock e.block (dropWc e.block s)).1) (.after (standing_readBlock _ _) .of_eq) .of_eq

theorem standing_drainAll (s : State) : Standing s (drainAll s) := .foldl (fun u e => standing_evictEntry e u) _ s

/-! ### Securing (R389 to R397) -/

theorem standing_readSecured (sl : ImgSlot) (i : Image) (index tick : Nat) (emergency : Bool) (s : State) :
    Standing s (readSecured sl i index tick emergency s).1 := by
  unfold readSecured
  dsimp only
  refine Standing.trans ?_ (Standing.foldl_fst (fun p e => ?_) _ _)
  · exact standing_readMem _ _ _ s
  split
  · exact .refl p.1
  · exact standing_readMem _ _ _ p.1

theorem standing_secureWrite (j : Securing) (d : SecDest) (off : Nat) (bs : List Byte) (s : State) :
    Standing s (secureWrite j d off bs s) := by
  unfold secureWrite
  split
  · exact .refl s
  · split
    · split
      · exact standing_peerWrite _ _ _ _ _ s
      · exact .refl s
    · exact standing_hostWrite _ _ _ s

theorem standing_startStage (j : Securing) (d : SecDest) (s : State) : Standing s (startStage j d s) := by
  unfold startStage
  dsimp only
  split
  · exact standing_secureWrite _ _ _ _ s
  · split
    · exact standing_secureWrite _ _ _ _ s
    · exact .foldl (fun u w => standing_secureWrite _ _ _ _ u) _ s

theorem standing_setDest (d : SecDest) (s : State) : Standing s (setDest d s) := by
  unfold setDest
  split <;> exact .of_eq

theorem standing_destDone (j : Securing) (d : SecDest) (s : State) : Standing s (destDone j d s) := .after (standing_setDest _ _) .of_eq

theorem standing_advanceDest (d n : Nat) (s : State) : Standing s (advanceDest d n s) := by
  induction n generalizing s with
  | zero => exact .refl s
  | succ n ih =>
    unfold advanceDest
    split
    · exact .refl s
    · split
      · exact .refl s
      · split
        · exact .refl s
        · split
          · exact standing_destDone _ _ s
          · exact ((standing_setDest _ s).trans (standing_startStage _ _ _)).trans (ih _)

/-- In an emergency the end of a securing leaves the module where it stands (R397). -/
theorem standing_endSecuring {s : State} (hemergency : s.hlt.emergency = true) : Standing s (endSecuring s) := by
  unfold endSecuring
  split
  · exact .refl s
  · split
    · extract_lets ok health ended noted answered
      have hanswered : Standing s answered := by
        refine .after (.foldl (fun u m => ?_) _ noted) (.trans (t := ended) .of_eq ?_)
        · split
          · exact standing_complete _ _ _ _ u
          · exact standing_finish _ _ u
        · unfold noted
          split
          · exact standing_raise _ _ _ _
          · exact .refl ended
      rw [if_pos (by rw [hanswered.emergency, hemergency, Bool.or_true])]
      exact hanswered
    · exact .refl s

theorem standing_secureFails (s : State) : Standing s (secureRefused (finishAll .secure stIntegrity s)) :=
  (standing_finishAll _ _ s).trans .of_eq

/-- An emergency securing leaves the module where it stands. -/
theorem standing_startSecuring {s : State} (hemergency : s.hlt.emergency = true) (index tick : Nat) :
    Standing s (startSecuring index tick true s) := by
  have hread (sl : ImgSlot) (i : Image) : Standing s (readSecured sl i index tick true (drainAll s)).1 :=
    (standing_drainAll s).trans (standing_readSecured _ _ _ _ _ _)
  unfold startSecuring
  extract_lets sl fail
  split
  · exact standing_secureFails s
  · rename_i i _
    split
    · exact standing_secureFails s
    · specialize hread sl i
      generalize readSecured sl i index tick true (drainAll s) = r at hread
      obtain ⟨u, j⟩ := r
      dsimp only at hread
      dsimp -zeta only
      extract_lets size noted health begun waiting securing
      split
      · exact hread.trans (standing_secureFails u)
      · have hnoted : Standing s noted := by
          unfold noted
          rw [if_pos rfl]
          exact hread.trans (standing_raise _ _ _ u)
        have hwaiting : Standing s waiting :=
          .after (.foldl (fun v m => .of_eq) _ begun) (hnoted.trans .of_eq)
        have hgoes := (hwaiting.trans (.foldl (fun v d => standing_startStage j d v) j.dests waiting)).trans
          ((standing_advanceDest 0 6 _).trans (standing_advanceDest 1 6 _))
        exact hgoes.trans (standing_endSecuring (hgoes.emergency.trans hemergency))

theorem standing_abandonSecuring (s : State) : Standing s (abandonSecuring s) := by
  unfold abandonSecuring
  exact .after (standing_finishAll _ _ _) (.after (standing_finishAll _ _ _) .of_eq)

/-! ### Stops (R372, R373, R407) -/

theorem standing_cancelSwitch (s : State) : Standing s (cancelSwitch s) := by
  unfold cancelSwitch
  split
  · exact .after (standing_raise _ _ _ _) .of_eq
  · exact .refl s

/-- What leaves a unit that neither runs nor starts alone. -/
theorem Standing.unitIdle {s t : State} (h : Standing s t) (hs : s.ttu.func ≠ .running ∧ s.ttu.func ≠ .starting) :
    t.ttu.func ≠ .running ∧ t.ttu.func ≠ .starting :=
  ⟨fun hr => hs.1 ((h.func (.inl hr)).symm.trans hr), fun hst => hs.2 ((h.func (.inr hst)).symm.trans hst)⟩

/-- FUNC becomes STOPPING, and nothing that `Standing` speaks of changes beside it. -/
theorem Standing.of_stopping {s t : State} (mode : t.mode = s.mode := by rfl) (stage : t.hbr.stage = s.hbr.stage := by rfl)
    (warning : t.hlt.warning = s.hlt.warning := by rfl) (emergency : t.hlt.emergency = s.hlt.emergency := by rfl)
    (pwr : t.pwr = s.pwr := by rfl) (func : t.ttu.func = .stopping := by rfl) : Standing s t :=
  ⟨mode, stage, warning, emergency, pwr, fun h => by rw [func] at h; rcases h with h | h <;> cases h⟩

theorem standing_enterStopping (s : State) : Standing s (enterStopping s) := by
  unfold enterStopping
  split
  · exact .after (standing_cancelSwitch _) .of_stopping
  · exact .after (standing_finishAll _ _ _) (.after (standing_finishAll _ _ _) (.after (standing_cancelSwitch _) .of_stopping))
  · exact .of_eq

theorem stopping_idle : FuncState.stopping ≠ .running ∧ FuncState.stopping ≠ .starting := ⟨by decide, by decide⟩

/-- Whatever the unit did, it neither runs nor starts once it has been told to stop. -/
theorem enterStopping_func (s : State) : (enterStopping s).ttu.func ≠ .running ∧ (enterStopping s).ttu.func ≠ .starting := by
  unfold enterStopping
  split
  · exact (standing_cancelSwitch _).unitIdle stopping_idle
  · exact (standing_finishAll _ _ _).unitIdle ((standing_finishAll _ _ _).unitIdle ((standing_cancelSwitch _).unitIdle stopping_idle))
  next hrun hstart => exact ⟨hrun, hstart⟩

theorem standing_setFunc_stopping (f : Nat) (s : State) : Standing s (setFunc f .stopping s) := by
  unfold setFunc
  split_ifs
  · exact .of_stopping
  all_goals exact .of_eq

theorem standing_stopFunction (f : Nat) (s : State) : Standing s (stopFunction f s) := by
  unfold stopFunction
  split
  · exact standing_setFunc_stopping f s
  · exact (standing_setFunc_stopping f s).trans (standing_finishAll _ _ _)
  · exact .refl s

theorem standing_stopPort (p : Nat) (s : State) : Standing s (stopPort p s) := by
  unfold stopPort
  dsimp only
  split
  · exact .after (standing_stopFunction _ _) .of_eq
  · exact standing_stopFunction _ s

theorem standing_stopFunctions (s : State) : Standing s (stopFunctions s) := by
  unfold stopFunctions
  exact ((standing_enterStopping s).trans (.foldl (fun u f => standing_stopFunction f u) _ _)).trans
    (.foldl (fun u p => standing_stopPort p u) _ _)

/-! ### The module's state (R373, R407) -/

theorem setMode_self (s : State) : setMode s.mode s = s := if_pos rfl

theorem standing_setMode (k : ModState) (s : State) : Standing { s with mode := k } (setMode k s) := by
  unfold setMode
  split
  next hsame =>
    subst hsame
    exact .refl s
  next => exact standing_raise _ _ _ _

theorem standing_failModule {s : State} (hserves : s.mode ≠ .failed) (cause : Nat) :
    Standing { s with mode := .failed } (failModule cause s) := by
  unfold failModule
  rw [if_neg hserves]
  exact (((standing_setMode .failed s).trans (standing_raise _ _ _ _)).trans (standing_abandonSecuring _)).trans (standing_stopFunctions _)

end Sys2Proof.Machine
end

section
/-! SHUTDOWN, RESET and the functions (R350, R371 to R373, R397): what each command does once it is taken, and how a function's work and
the module's come to their ends. -/

namespace Sys2Proof.Machine

section
variable {m : Nat} {s u : State} {x : Mailbox}

theorem funcOf_await (m : Nat) (w : MbWait) (s : State) (f : Nat) : funcOf (await m w s) f = funcOf s f := rfl

theorem exec_shutdown_entered (h : Entered 0x05 m s x u) : exec (.shutdown m) s =
    .next (stopFunctions { await m .halt u with hbr := { (await m .halt u).hbr with pwrStop := true } }) := next_mbCommand h rfl

theorem exec_reset_entered (h : Entered 0x06 m s x u) : exec (.reset m) s = .next (reboot (finish m stOk u)) := next_mbCommand h rfl

/-! ### Starts and stops as they are asked for (R371, R372) -/

section
variable (h : Entered 0x10 m s x u)
include h

theorem exec_funcStart_running (hfunc : funcOf u (mbArg x 0) = .running) : exec (.funcStart m) s = .next (finish m stState u) :=
  next_mbCommand h (by simp only [hfunc])

theorem exec_funcStart_changing (hfunc : funcOf u (mbArg x 0) = .starting ∨ funcOf u (mbArg x 0) = .stopping) :
    exec (.funcStart m) s = .next (finish m stBusy u) :=
  next_mbCommand h (by rcases hfunc with hfunc | hfunc <;> simp only [hfunc])

theorem exec_funcStart_stopped (hfunc : funcOf u (mbArg x 0) = .stopped) : exec (.funcStart m) s =
    .next (startFunction (mbArg x 0) (await m (.start (mbArg x 0)) u)) :=
  next_mbCommand h (by simp only [hfunc])

end

theorem startFunction_unit {f : Nat} (hf : f < 8) : startFunction f s = setFunc f .starting s := if_pos hf

theorem startFunction_port {f : Nat} (hf : 8 ≤ f) : startFunction f s = setPort (f - 8) { portOf (setFunc f .starting s) (f - 8) with
      phase := if (setFunc f .starting s).zng.portEn.getLsbD (f - 8) then .detect else .down, attempts := 0, fails := 0 }
    (setFunc f .starting s) := if_neg (by omega)

/-- A port's FUNC leaves the enable bits of the ports alone. -/
theorem setFunc_portEn (f : Nat) (v : FuncState) (s : State) : (setFunc f v s).zng.portEn = s.zng.portEn := by
  unfold setFunc
  split_ifs <;> rfl

/-- The stop of the exchange unit that the timetable unit does not allow (R372). -/
def StopBarred (f : Nat) (s : State) : Prop := f = 2 ∧ s.ttu.func ≠ .stopped

section
variable (h : Entered 0x11 m s x u)
include h

theorem exec_funcStop_barred (hbarred : StopBarred (mbArg x 0) u) : exec (.funcStop m) s = .next (finish m stState u) :=
  next_mbCommand h (if_pos hbarred)

section
variable (hfree : ¬ StopBarred (mbArg x 0) u)
include hfree

theorem exec_funcStop_stopped (hfunc : funcOf u (mbArg x 0) = .stopped) : exec (.funcStop m) s = .next (finish m stOk u) :=
  next_mbCommand h ((if_neg hfree).trans (if_pos hfunc))

theorem exec_funcStop_requested (hfunc : funcOf u (mbArg x 0) ≠ .stopped) : exec (.funcStop m) s =
    .next (stopRequest (mbArg x 0) (await m (.stop (mbArg x 0)) u)) :=
  next_mbCommand h ((if_neg hfree).trans (if_neg hfunc))

end

end

section
variable {f : Nat}

theorem stopRequest_unit (hf : f = 1 ∨ f = 2 ∨ f = 3) : stopRequest f s = stopFunction f s :=
  (if_neg (by omega)).trans (if_pos (by omega))

theorem stopRequest_port (hf : 8 ≤ f) (hfunc : funcOf s f = .running ∨ funcOf s f = .starting) :
    stopRequest f s = losePort (f - 8) true s := by
  refine (if_neg (by omega)).trans ((if_neg (by omega)).trans ?_)
  rcases hfunc with hfunc | hfunc <;> simp only [hfunc]

theorem stopFunction_running (hfunc : funcOf s f = .running) : stopFunction f s = setFunc f .stopping s := by
  simp only [stopFunction, hfunc]

theorem stopFunction_starting (hfunc : funcOf s f = .starting) : stopFunction f s =
    finishAll (.start f) stState (setFunc f .stopping s) := by
  simp only [stopFunction, hfunc]

theorem stopFunction_stopping (hfunc : funcOf s f = .stopping) : stopFunction f s = s := by
  simp only [stopFunction, hfunc]

/-! ### The ends of STARTING and STOPPING -/

theorem exec_functionRunning_starting (hlow : 1 ≤ f) (hhigh : f ≤ 3) (hfunc : funcOf s f = .starting) : exec (.functionRunning f) s =
    .next (finishAll (.start f) stOk (if f = 3 then startReader (setFunc f .running s) else setFunc f .running s)) :=
  next_congr (if_pos ⟨hlow, hhigh, hfunc⟩)

theorem exec_functionRunning_kept (h : f = 0 ∨ 4 ≤ f ∨ funcOf s f ≠ .starting) : exec (.functionRunning f) s = .next s := by
  refine next_congr (if_neg ?_)
  rintro ⟨hlow, hhigh, hfunc⟩
  rcases h with h | h | h
  · omega
  · omega
  · exact h hfunc

theorem exec_functionStopped_unit (hf : f = 1 ∨ f = 2 ∨ f = 3) (hfunc : funcOf s f = .stopping) (hquiet : f = 1 → ferryQuiet s = true) :
    exec (.functionStopped f) s = .next (finishAll (.stop f) stOk (setFunc f .stopped s)) := by
  have hbelow : ¬ 8 ≤ f := by omega
  have hends : (functionIds.contains f && funcOf s f == .stopping && (f != 1 || ferryQuiet s)) = true := by
    rcases hf with rfl | rfl | rfl <;> simp [functionIds, hfunc, hquiet]
  refine next_congr ((if_neg (by omega)).trans ((if_pos hends).trans ?_))
  simp only [hbelow, false_and, if_false]

theorem exec_functionStopped_port {p : Nat} (hp : p < 8) (hfunc : funcOf s (8 + p) = .stopping) :
    let v := setFunc (8 + p) .stopped (if portCarries s p then losePort p true s else s)
    exec (.functionStopped (8 + p)) s = .next (finishAll (.stop (8 + p)) stOk (setPort p { portOf v p with phase := .down } v)) := by
  have hport : 8 + p - 8 = p := by omega
  have habove : 8 ≤ 8 + p := by omega
  have hends : (functionIds.contains (8 + p) && funcOf s (8 + p) == .stopping && (8 + p != 1 || ferryQuiet s)) = true := by
    have hone : 8 + p ≠ 1 := by omega
    have hlisted : 8 + p ∈ functionIds := by interval_cases p <;> decide
    simp [hlisted, hfunc, hone]
  refine next_congr ((if_neg (by omega)).trans ((if_pos hends).trans ?_))
  simp only [hport, habove, true_and, if_true]

end

/-- No descriptor is in progress where no queue has one, and no window command that moves data has begun and not ended (R372). -/
theorem ferryQuiet_of (hqueues : ∀ q ∈ s.fry.queues, q.2.inProgress = [])
    (hcmds : ∀ p ∈ s.zng.ports, ∀ w ∈ p.2.queues, ∀ c ∈ w.2.cmds, c.op = 1 ∨ c.op = 2 → c.begun = true → c.status ≠ none) :
    ferryQuiet s = true := by
  unfold ferryQuiet
  rw [Bool.and_eq_true]
  constructor
  · exact List.all_eq_true.2 fun q hq => by simp [hqueues q hq]
  · refine List.all_eq_true.2 fun p hp => List.all_eq_true.2 fun w hw => List.all_eq_true.2 fun c hc => ?_
    have hended := hcmds p hp w hw c hc
    cases hbegun : c.begun
    · simp
    · cases hstatus : c.status
      · have hother : ¬ (c.op = 1 ∨ c.op = 2) := fun hop => hended hop hbegun hstatus
        simpa [not_or] using hother
      · simp

/-! ### HALTED (R373, R397) -/

theorem exec_moduleHalted_shutDown (hmode : s.mode ≠ .halted) (hstop : s.hbr.pwrStop = true)
    (hall : ∀ f ∈ functionIds, funcOf s f = .stopped) : exec .moduleHalted s = .next (enterHalted
      { s with hbr := { s.hbr with pwrStop := false }, flash := { s.flash with minutes := s.log.minutes } }) := by
  have hstopped : allStopped s = true := List.all_eq_true.2 fun f hf => by simp [hall f hf]
  exact (if_neg hmode).trans (if_pos ⟨hstop, hstopped⟩)

theorem exec_moduleHalted_secured (hmode : s.mode = .securing) (hemergency : s.hlt.emergency = true) (hended : s.hlt.securing = none)
    (hfunc : s.ttu.func = .stopped) (hstop : s.hbr.pwrStop = false) : exec .moduleHalted s = .next (enterHalted s) :=
  (if_neg (by simp [hmode])).trans ((if_neg (by simp [hstop])).trans (if_pos ⟨hmode, hemergency, hended, hfunc⟩))

theorem exec_moduleHalted_kept (hmode : s.mode ≠ .securing) (hstop : s.hbr.pwrStop = false) : exec .moduleHalted s = .next s := by
  change execModuleHalted s = _
  simp only [execModuleHalted, hmode, hstop, Bool.false_eq_true, false_and, if_false, ite_self]

end

/-- Settles O38: each command's effect once it is taken, by the function's FUNC, and each end of STARTING, STOPPING and the module's
work by its own condition. -/
theorem functions : Obligations.Functions := by
  unfold Obligations.Functions
  refine ⟨fun m x s u => ⟨exec_shutdown_entered, exec_reset_entered, fun h => ?start, fun h => ?stop⟩, fun s => ⟨?running, ?reader,
    fun f => exec_functionRunning_kept, ?units, ?ferry, ?ports, fun h => if_pos h, exec_moduleHalted_shutDown, exec_moduleHalted_secured,
    exec_moduleHalted_kept⟩⟩
  case start =>
    intro f
    refine ⟨exec_funcStart_running h, exec_funcStart_changing h, fun hfunc hf => ?_, fun hfunc hf => ?_⟩
    · rw [exec_funcStart_stopped h hfunc, startFunction_unit hf]
    · intro v
      rw [exec_funcStart_stopped h hfunc, startFunction_port hf, setFunc_portEn]
      rfl
  case stop =>
    intro f
    have hfree (hunit : f = 2 → u.ttu.func = .stopped) : ¬ StopBarred f u := fun hbarred => hbarred.2 (hunit hbarred.1)
    have hunit (hf : f = 1 ∨ f = 2 ∨ f = 3) (hallowed : f = 2 → u.ttu.func = .stopped) (hfunc : funcOf u f ≠ .stopped) :
        exec (.funcStop m) s = .next (stopFunction f (await m (.stop f) u)) :=
      (exec_funcStop_requested h (hfree hallowed) hfunc).trans (next_congr (stopRequest_unit hf))
    refine ⟨fun hf hfunc => exec_funcStop_barred h ⟨hf, hfunc⟩, fun hallowed hfunc => exec_funcStop_stopped h (hfree hallowed) hfunc,
      fun hf hfunc => ?_, fun hf hallowed hfunc => ?_, fun hf hallowed hfunc => ?_, fun hf hallowed hfunc => ?_, fun hf hfunc => ?_⟩
    · rw [exec_funcStop_requested h (fun hbarred => absurd (hf.symm.trans hbarred.1) (by decide))
        (by rw [show mbArg x 0 = 0 from hf]; exact hfunc)]
      rw [show mbArg x 0 = 0 from hf]
      rfl
    · rw [hunit hf hallowed (by simp [hfunc]), stopFunction_running ((funcOf_await ..).trans hfunc)]
    · rw [hunit hf hallowed (by simp [hfunc]), stopFunction_stopping ((funcOf_await ..).trans hfunc)]
    · rw [hunit hf hallowed (by simp [hfunc]), stopFunction_starting ((funcOf_await ..).trans hfunc)]
    · have hnot : funcOf u f ≠ .stopped := by rcases hfunc with hfunc | hfunc <;> simp [hfunc]
      refine (exec_funcStop_requested h (fun hbarred => ?_) hnot).trans (next_congr (stopRequest_port hf hfunc))
      exact absurd hbarred.1 (show f ≠ 2 by omega)
  case running =>
    intro f hf hfunc
    rw [exec_functionRunning_starting (by omega) (by omega) hfunc, if_neg (by omega)]
  case reader => exact fun hfunc => exec_functionRunning_starting (by decide) (by decide) hfunc
  case units => exact fun f hf hfunc => exec_functionStopped_unit (.inr hf) hfunc (by omega)
  case ferry => exact fun hfunc hqueues hcmds => exec_functionStopped_unit (.inl rfl) hfunc fun _ => ferryQuiet_of hqueues hcmds
  case ports => exact fun p => exec_functionStopped_port

end Sys2Proof.Machine
end

section
/-! The risk estimate and survival (R381, R393 to R395, R401): the halving of E, the interval mode, SECURE and RESTORE. -/

namespace Sys2Proof.Machine

/-- The halving comes at the next multiple of 2^HALF cycles, which lies ahead. -/
theorem exec_eHalving (s : State) : ∃ t, exec .eHalving s = .next t ∧ t.hlt.e64 = s.hlt.e64 / 2
    ∧ t.now = (s.now / 2 ^ s.hlt.half.toNat + 1) * 2 ^ s.hlt.half.toNat ∧ t.hlt.temp = s.hlt.temp
    ∧ t.mode = s.mode ∧ t.mem = s.mem ∧ t.ttu = s.ttu ∧ t.flash = s.flash := by
  refine ⟨_, rfl, ?_⟩
  dsimp only
  generalize hn : 2 ^ s.hlt.half.toNat = n
  generalize hat : (s.now / n + 1) * n = c
  have hahead : s.now ≤ c := by
    have hpos : 0 < n := hn ▸ Nat.two_pow_pos _
    rw [← hat, Nat.mul_comm]
    exact (Nat.lt_mul_div_succ s.now hpos).le
  let u := passNow c s
  let v : State := { u with hlt := { u.hlt with e64 := u.hlt.e64 / 2 } }
  change (requestCheck (risk u) v).hlt.e64 = _ ∧ (requestCheck (risk u) v).now = _ ∧ (requestCheck (risk u) v).hlt.temp = _
    ∧ (requestCheck (risk u) v).mode = _ ∧ (requestCheck (risk u) v).mem = _ ∧ (requestCheck (risk u) v).ttu = _
    ∧ (requestCheck (risk u) v).flash = _
  rw [requested_requestCheck (risk u) v, aside_requestCheck (risk u) v]
  simp [v, u, hahead]

section
variable {s : State}

theorem exec_intervalExpiry_due (hmode : s.hlt.mode = true) (hfunc : s.ttu.func = .running) (hexpired : s.hlt.expired = false)
    (hpassed : s.hlt.lastBind + intervalTicks s ≤ s.xng.tick.toNat) : exec .intervalExpiry s =
      .next (requestSecuring (raise 0x0B01 noSubject [(1, 2)] { s with hlt := { s.hlt with expired := true } })) :=
  next_congr (if_pos (by simp [hmode, hfunc, hexpired, hpassed]))

theorem exec_intervalExpiry_kept (h : s.hlt.mode = false ∨ s.ttu.func ≠ .running ∨ s.hlt.expired = true
    ∨ s.xng.tick.toNat < s.hlt.lastBind + intervalTicks s) : exec .intervalExpiry s = .next s := by
  refine next_congr (if_neg ?_)
  rcases h with h | h | h | h <;> simp [h]

theorem intervalTicks_bounds (s : State) :
    min (4 * s.hlt.cost.toNat) (2 ^ 32 - 1) ≤ intervalTicks s ∧ intervalTicks s ≤ 2 ^ 32 - 1 := by
  unfold intervalTicks
  dsimp only
  omega

end

/-! ### SECURE (R395) -/

section
variable {m : Nat} {s u : State} {x : Mailbox} (h : Entered 0x62 m s x u)
include h

theorem exec_secure_barred (hbarred : u.ttu.func ≠ .running ∨ ((mbArg x 0).testBit 0 = true ∧ u.flash.pairing = none)) :
    exec (.secure m) s = .next (finish m stState u) :=
  next_mbCommand h (if_pos (by rcases hbarred with hfunc | ⟨hpartner, hpairing⟩ <;> simp [*]))

section
variable (hfunc : u.ttu.func = .running) (hpartner : (mbArg x 0).testBit 0 = true → u.flash.pairing ≠ none)
include hfunc hpartner

omit h in
theorem secure_allowed : ¬ (((mbArg x 0).testBit 0 && u.flash.pairing.isNone) || u.ttu.func != .running) = true := by
  simpa [hfunc, Option.isSome_iff_ne_none] using hpartner

theorem exec_secure_noRecovery (hrecovery : u.ttu.noRecovery = true) : exec (.secure m) s = .next (finish m stNoResource u) :=
  next_mbCommand h ((if_neg (secure_allowed hfunc hpartner)).trans (if_pos hrecovery))

theorem exec_secure_armed (hrecovery : u.ttu.noRecovery = false) : exec (.secure m) s =
    .next (armSecuring (await m .secure { u with hlt := { u.hlt with
      dest := BitVec.ofNat 2 (mbArg x 0)
      hostOff := if (mbArg x 0).testBit 1 then mbArg x 1 else u.hlt.hostOff, secureEver := true } })) :=
  next_mbCommand h ((if_neg (secure_allowed hfunc hpartner)).trans (if_neg (by simp [hrecovery])))

end

end

/-! ### RESTORE (R401) -/

/-- The restore that a request asks for. -/
def restoreAsked (m : Nat) (x : Mailbox) : Restoring :=
  { mb := m, host := mbArg x 0 == 1, off := mbArg x 1, step := mbArg x 2, cursor := mbPayload x }

/-- The module once the restore that a request asks for has begun. -/
def restoreBegun (m : Nat) (x : Mailbox) (u : State) : State :=
  await m .restore { u with hlt := { u.hlt with restoring := some (restoreAsked m x) } }

section
variable {m : Nat} {s u : State} {x : Mailbox} (h : Entered 0x63 m s x u)
include h

theorem exec_restore_host (hhost : mbArg x 0 = 1)
    (hregion : inHostRegion u (hostBase + mbArg x 1) (2 * 2 ^ u.hlt.slotLog2.toNat) = true) : exec (.restore m) s =
      .next (advanceRestore 3 (hostRead (mbArg x 1 + 2 ^ u.hlt.slotLog2.toNat) 512 .restore
        (hostRead (mbArg x 1) 512 .restore (restoreBegun m x u)))) :=
  next_mbCommand h ((if_pos (by simp [hhost])).trans (if_pos hregion))

theorem exec_restore_noRegion (hhost : mbArg x 0 = 1)
    (hregion : inHostRegion u (hostBase + mbArg x 1) (2 * 2 ^ u.hlt.slotLog2.toNat) = false) : exec (.restore m) s =
      .next (refuseRestore (restoreAsked m x) stNoResource u) :=
  next_mbCommand h ((if_pos (by simp [hhost])).trans (if_neg (by simp [hregion])))

section
variable (hhost : mbArg x 0 = 0)
include hhost

theorem exec_restore_unpaired (hpairing : u.flash.pairing = none) : exec (.restore m) s =
    .next (refuseRestore (restoreAsked m x) stNoResource u) :=
  next_mbCommand h ((if_neg (by simp [hhost])).trans (by simp only [hpairing, restoreAsked]))

theorem exec_restore_partner {pr : Pairing} (hpairing : u.flash.pairing = some pr) (hplaced : (placed u (pr.mine + 3)).isSome = true) :
    exec (.restore m) s =
      .next (peerWrite pr.peer pr.theirs 0 (restoreRequest u (mbArg x 2) (pr.mine + 3)) .restore (restoreBegun m x u)) :=
  next_mbCommand h ((if_neg (by simp [hhost])).trans (by simp only [hpairing]; exact if_pos hplaced))

end

end

/-- Settles O47. -/
theorem riskSecuringRestoring : Obligations.RiskSecuringRestoring := by
  refine ⟨fun s => ⟨exec_eHalving s, exec_intervalExpiry_due, exec_intervalExpiry_kept, intervalTicks_bounds s⟩,
    fun m x s u => ⟨fun h => ?_, fun h => ?_⟩⟩
  · exact ⟨exec_secure_barred h, exec_secure_noRecovery h, exec_secure_armed h⟩
  · exact ⟨exec_restore_host h, exec_restore_noRegion h, exec_restore_unpaired h,
      fun pr hhost hpairing => exec_restore_partner h hhost hpairing⟩

end Sys2Proof.Machine
end

section
/-! Power warnings and leaks (R364, R382, R397, R447): the filters, the deassertion of a source, and what an emergency does. -/

namespace Sys2Proof.Machine

/-! ### An emergency -/

section
variable {s : State}

/-- The module once a warning is known and its weight on RISK has been judged. -/
def warned (s : State) : State := requestCheck (risk s) { s with hlt := { s.hlt with warning := true } }

theorem standing_warned (s : State) : Standing { s with hlt := { s.hlt with warning := true } } (warned s) := standing_requestCheck _ _

/-- A module told to stop for an emergency. -/
def emergencyStopping (s : State) : State :=
  enterStopping (drainAll (setMode .securing (abandonSecuring { s with hlt := { s.hlt with emergency := true } })))

/-- The module as an emergency leaves it before its securing starts. -/
def emergencyStopped (s : State) : State :=
  { emergencyStopping s with xng := { (emergencyStopping s).xng with silent := grouped (emergencyStopping s) } }

/-- What an emergency does to a module that serves. -/
def emergencySecured (s : State) : State :=
  if (s.ttu.func == .running && s.hlt.anchored && !s.ttu.noRecovery) && !(secureDests (emergencyStopped s)).isEmpty then
    startSecuring ((actSlot (emergencyStopped s)).ranIndex.getD 0) (emergencyStopped s).hlt.anchorTick true (emergencyStopped s)
  else emergencyStopped s

theorem startEmergency_eq (hmode : s.mode ≠ .halted) : startEmergency s =
    if (warned s).mode = .failed ∨ (warned s).hlt.emergency = true then warned s
    else if (warned s).mode = .boot ∨ (warned s).mode = .train then setMode .halted (warned s)
    else emergencySecured (warned s) := by
  rw [startEmergency, if_neg hmode]
  extract_lets before _ w bound _ drained stopping _ stopped
  have hstopping : stopping = emergencyStopping w := by rw [emergencyStopping]
  have hstopped : stopped = emergencyStopped w := by rw [emergencyStopped, ← hstopping]
  have hw : w = warned s := rfl
  clear_value stopped
  rw [hstopped, ← hw, emergencySecured]

theorem startEmergency_halted (hmode : s.mode = .halted) :
    startEmergency s = { s with hlt := { s.hlt with warning := true } } := if_pos hmode

theorem startEmergency_failed (hmode : s.mode = .failed) : startEmergency s = warned s :=
  (startEmergency_eq (by simp [hmode])).trans (if_pos (.inl ((standing_warned s).mode.trans hmode)))

theorem warned_goes (hmode : s.mode ≠ .failed) (hemergency : s.hlt.emergency = false) :
    ¬ ((warned s).mode = .failed ∨ (warned s).hlt.emergency = true) := by
  rw [(standing_warned s).mode, (standing_warned s).emergency]
  simp [hmode, hemergency]

theorem startEmergency_bringUp (hmode : s.mode = .boot ∨ s.mode = .train) (hemergency : s.hlt.emergency = false) :
    startEmergency s = setMode .halted (warned s) := by
  have hfailed : s.mode ≠ .failed := by rcases hmode with hmode | hmode <;> simp [hmode]
  have hhalted : s.mode ≠ .halted := by rcases hmode with hmode | hmode <;> simp [hmode]
  rw [startEmergency_eq hhalted, if_neg (warned_goes hfailed hemergency), if_pos ((standing_warned s).mode ▸ hmode)]

/-- The module serves: it is neither in bring-up nor in a state that it no longer leaves. -/
def Serves (k : ModState) : Prop := k = .ready ∨ k = .run ∨ k = .degraded ∨ k = .securing

theorem serves_not {k : ModState} (h : Serves k) : k ≠ .halted ∧ k ≠ .failed ∧ k ≠ .boot ∧ k ≠ .train := by
  rcases h with rfl | rfl | rfl | rfl <;> decide

theorem startEmergency_serving (hmode : Serves s.mode) (hemergency : s.hlt.emergency = false) :
    startEmergency s = emergencyStopped (warned s)
      ∨ ∃ index tick, startEmergency s = startSecuring index tick true (emergencyStopped (warned s)) := by
  obtain ⟨hhalted, hfailed, hboot, htrain⟩ := serves_not hmode
  have hbringUp : ¬ ((warned s).mode = .boot ∨ (warned s).mode = .train) := by
    rw [(standing_warned s).mode]
    simp [hboot, htrain]
  rw [startEmergency_eq hhalted, if_neg (warned_goes hfailed hemergency), if_neg hbringUp, emergencySecured]
  split
  · exact .inr ⟨_, _, rfl⟩
  · exact .inl rfl

theorem Standing.withXng {t : State} (h : Standing s t) (x : Xng) : Standing s { t with xng := x } :=
  ⟨h.mode, h.stage, h.warning, h.emergency, h.pwr, h.func⟩

/-- Both modules pass to the same state. -/
theorem Standing.withMode {t : State} (h : Standing s t) (k : ModState) : Standing { s with mode := k } { t with mode := k } :=
  ⟨rfl, h.stage, h.warning, h.emergency, h.pwr, h.func⟩

theorem standing_emergencyStopped (s : State) :
    Standing { s with mode := .securing, hlt := { s.hlt with emergency := true } } (emergencyStopped s) := by
  have habandoned := (standing_abandonSecuring { s with hlt := { s.hlt with emergency := true } }).withMode .securing
  have hstopping : Standing { s with mode := .securing, hlt := { s.hlt with emergency := true } } (emergencyStopping s) := by
    rw [emergencyStopping]
    exact ((habandoned.trans (standing_setMode .securing _)).trans (standing_drainAll _)).trans (standing_enterStopping _)
  rw [emergencyStopped]
  exact hstopping.withXng _

theorem emergencyStopping_func (s : State) :
    (emergencyStopping s).ttu.func ≠ .running ∧ (emergencyStopping s).ttu.func ≠ .starting := by
  rw [emergencyStopping]
  exact enterStopping_func _

theorem emergencyStopped_func (s : State) :
    (emergencyStopped s).ttu.func ≠ .running ∧ (emergencyStopped s).ttu.func ≠ .starting := by
  rw [emergencyStopped]
  dsimp only
  exact emergencyStopping_func s

theorem cancelSwitch_role (s : State) : (cancelSwitch s).xng.role = s.xng.role := by
  unfold cancelSwitch
  split
  · rw [raise_xng]
  · rfl

theorem enterStopping_role (s : State) : (enterStopping s).xng.role = s.xng.role := by
  unfold enterStopping
  split
  · exact cancelSwitch_role _
  · rw [finishAll_xng, finishAll_xng]
    exact cancelSwitch_role _
  · rfl

theorem emergencyStopped_silent (s : State) : (emergencyStopped s).xng.silent = grouped s := by
  have hrole : (emergencyStopping s).xng.role = s.xng.role := by
    unfold emergencyStopping abandonSecuring
    rw [enterStopping_role, drainAll_xng, setMode_xng, finishAll_xng, finishAll_xng]
  rw [emergencyStopped, grouped, hrole]
  rfl

/-- What an emergency does to a module that serves (R397). -/
theorem startEmergency_securing (hmode : Serves s.mode) (hemergency : s.hlt.emergency = false) :
    Standing { s with mode := .securing, hlt := { s.hlt with emergency := true, warning := true } } (startEmergency s)
      ∧ (startEmergency s).ttu.func ≠ .running ∧ (startEmergency s).ttu.func ≠ .starting
      ∧ (startEmergency s).xng.silent = grouped s := by
  have hwarned : Standing { s with mode := .securing, hlt := { s.hlt with emergency := true, warning := true } }
      { warned s with mode := .securing, hlt := { (warned s).hlt with emergency := true } } := by
    have h := standing_warned s
    exact ⟨rfl, h.stage, h.warning, rfl, h.pwr, h.func⟩
  have hstopped := hwarned.trans (standing_emergencyStopped (warned s))
  have hsilent : (emergencyStopped (warned s)).xng.silent = grouped s := by
    rw [emergencyStopped_silent, grouped, warned, requestCheck_xng]
    rfl
  rcases startEmergency_serving hmode hemergency with h | ⟨index, tick, h⟩
  · rw [h]
    exact ⟨hstopped, (emergencyStopped_func _).1, (emergencyStopped_func _).2, hsilent⟩
  · have hsecuring := standing_startSecuring (s := emergencyStopped (warned s)) hstopped.emergency index tick
    have hidle := hsecuring.unitIdle (emergencyStopped_func (warned s))
    rw [h]
    exact ⟨hstopped.trans hsecuring, hidle.1, hidle.2, by rw [startSecuring_xng, hsilent]⟩

/-- An emergency leaves the power pins as they are, and the warning is known. -/
theorem startEmergency_warned (hemergency : s.hlt.emergency = false) :
    (startEmergency s).hlt.warning = true ∧ (startEmergency s).pwr = s.pwr := by
  have hwarned := standing_warned s
  have hbringUp (hmode : s.mode = .boot ∨ s.mode = .train) :
      (startEmergency s).hlt.warning = true ∧ (startEmergency s).pwr = s.pwr := by
    have hhalts := standing_setMode .halted (warned s)
    rw [startEmergency_bringUp hmode hemergency]
    exact ⟨hhalts.warning.trans hwarned.warning, hhalts.pwr.trans hwarned.pwr⟩
  have hserves (hmode : Serves s.mode) : (startEmergency s).hlt.warning = true ∧ (startEmergency s).pwr = s.pwr :=
    have h := (startEmergency_securing hmode hemergency).1
    ⟨h.warning, h.pwr⟩
  cases hmode : s.mode with
  | boot => exact hbringUp (.inl hmode)
  | train => exact hbringUp (.inr hmode)
  | ready => exact hserves (.inl hmode)
  | run => exact hserves (.inr (.inl hmode))
  | degraded => exact hserves (.inr (.inr (.inl hmode)))
  | securing => exact hserves (.inr (.inr (.inr hmode)))
  | halted =>
    rw [startEmergency_halted hmode]
    exact ⟨rfl, rfl⟩
  | failed =>
    rw [startEmergency_failed hmode]
    exact ⟨hwarned.warning, hwarned.pwr⟩

/-! ### The filters of the sources (R364, R447) -/

section
variable {us : Nat} (hgood : s.pwr.good = true)
include hgood

theorem glitch_good : glitch s = raise 0x0A06 noSubject [] s := if_pos hgood

theorem exec_powerWarning_pin (hlong : 10 ≤ us) (hpin : s.pwr.warnPin = false) : exec (.powerWarning false us) s =
    .next (startEmergency (raise 0x0C01 0 [] { s with pwr := { s.pwr with warnPin := true } })) := by
  refine next_congr ((if_neg (by simp [hgood])).trans ((if_neg ?_).trans (if_neg (by simp [hpin]))))
  exact Nat.not_lt.mpr hlong

theorem exec_powerWarning_undervoltage (hlong : 20 ≤ us) (huv : s.pwr.warnUv = false) : exec (.powerWarning true us) s =
    .next (startEmergency (raise 0x0C01 1 [] { s with pwr := { s.pwr with warnUv := true } })) := by
  refine next_congr ((if_neg (by simp [hgood])).trans ((if_neg ?_).trans (if_neg (by simp [huv]))))
  exact Nat.not_lt.mpr hlong

theorem exec_powerWarning_pin_short (hshort : us < 10) : exec (.powerWarning false us) s = .next (raise 0x0A06 noSubject [] s) :=
  next_congr ((if_neg (by simp [hgood])).trans ((if_pos hshort).trans (glitch_good hgood)))

theorem exec_powerWarning_undervoltage_short (hshort : us < 20) : exec (.powerWarning true us) s = .next s :=
  next_congr ((if_neg (by simp [hgood])).trans (if_pos hshort))

section
variable {src : Nat} (hsrc : src < 2)
include hsrc

theorem leak_known : ¬ (!s.pwr.good || decide (2 ≤ src)) = true := by
  simp [hgood, hsrc]

theorem exec_leakDetected_short (hshort : us < 100000) : exec (.leakDetected src us) s = .next (raise 0x0A06 noSubject [] s) :=
  next_congr ((if_neg (leak_known hgood hsrc)).trans ((if_pos hshort).trans (glitch_good hgood)))

theorem exec_leakDetected_new (hlong : 100000 ≤ us) (hdry : s.pwr.leak.getLsbD src = false) : exec (.leakDetected src us) s =
    .next (startEmergency (raise 0x0C07 src [] { s with pwr := { s.pwr with leak := s.pwr.leak ||| BitVec.ofNat 2 (2 ^ src) } })) :=
  next_congr ((if_neg (leak_known hgood hsrc)).trans ((if_neg (Nat.not_lt.mpr hlong)).trans (if_neg (by simp [hdry]))))

theorem exec_leakDetected_again (hlong : 100000 ≤ us) (hwet : s.pwr.leak.getLsbD src = true) : exec (.leakDetected src us) s = .next s :=
  next_congr ((if_neg (leak_known hgood hsrc)).trans ((if_neg (Nat.not_lt.mpr hlong)).trans (if_pos hwet)))

end

end

/-! ### The deassertion of a source -/

theorem exec_deasserted_short {src us : Nat} (hgood : s.pwr.good = true) (hsrc : src ≠ 1) (hshort : us < warnFilter src) :
    exec (.warningSourceDeasserted src us) s = .next (raise 0x0A06 noSubject [] s) :=
  (if_pos hshort).trans (next_congr ((if_neg hsrc).trans (glitch_good hgood)))

theorem exec_undervoltage_deasserted_short {us : Nat} (hshort : us < 20) : exec (.warningSourceDeasserted 1 us) s = .next s := if_pos hshort

/-- The sources of a warning with the power pins that the deassertion of each leaves. -/
def deassertions (p : Power) : List (Nat × Power) :=
  [(0, { p with warnPin := false }), (1, { p with warnUv := false }), (2, { p with leak := p.leak &&& 2 }),
    (3, { p with leak := p.leak &&& 1 })]

theorem exec_deasserted_long {src us : Nat} {p : Power} (hsrc : (src, p) ∈ deassertions s.pwr) (hlong : 100000 ≤ us) :
    ∃ t, exec (.warningSourceDeasserted src us) s = .next t ∧ t.pwr = p ∧ t.mode = s.mode
      ∧ t.hlt.warning = (s.hlt.warning && (p.warnPin || p.warnUv || p.leak != 0)) := by
  let u : State := { s with pwr := p, hlt := { s.hlt with warning := s.hlt.warning && (p.warnPin || p.warnUv || p.leak != 0) } }
  have hstands := standing_requestCheck (risk s) u
  refine ⟨requestCheck (risk s) u, ?_, hstands.pwr, hstands.mode, hstands.warning⟩
  have hfilter : ¬ us < warnFilter src := by
    unfold warnFilter
    split_ifs <;> omega
  refine (if_neg hfilter).trans ?_
  simp only [deassertions, List.mem_cons, Prod.mk.injEq, List.not_mem_nil, or_false] at hsrc
  rcases hsrc with ⟨rfl, rfl⟩ | ⟨rfl, rfl⟩ | ⟨rfl, rfl⟩ | ⟨rfl, rfl⟩ <;> rfl

/-! ### The warning of the pin -/

theorem powerWarning_does {t : State} {us : Nat} (hgood : s.pwr.good = true) (hlong : 10 ≤ us) (hpin : s.pwr.warnPin = false)
    (hemergency : s.hlt.emergency = false) (ht : exec (.powerWarning false us) s = .next t) :
    t.hlt.warning = true ∧ t.pwr.warnPin = true
      ∧ (s.mode = .boot ∨ s.mode = .train → t.mode = .halted)
      ∧ (s.mode = .halted ∨ s.mode = .failed → t.mode = s.mode ∧ t.hlt.emergency = false)
      ∧ (Serves s.mode → t.mode = .securing ∧ t.hlt.emergency = true ∧ t.ttu.func ≠ .running ∧ t.ttu.func ≠ .starting
        ∧ (s.xng.role = .member ∨ s.xng.role = .lead → t.xng.silent = true)) := by
  let pins : State := { s with pwr := { s.pwr with warnPin := true } }
  have hraised := standing_raise 0x0C01 0 [] pins
  have hrole : (raise 0x0C01 0 [] pins).xng.role = s.xng.role := by rw [raise_xng]
  cases ht.symm.trans (exec_powerWarning_pin hgood hlong hpin)
  change Standing pins (raise 0x0C01 0 [] pins) at hraised
  generalize raise 0x0C01 0 [] pins = r at *
  have hmode : r.mode = s.mode := hraised.mode
  have hcalm : r.hlt.emergency = false := hraised.emergency.trans hemergency
  obtain ⟨hwarning, hpwr⟩ := startEmergency_warned hcalm
  refine ⟨hwarning, by rw [hpwr, hraised.pwr], fun h => ?_, fun h => ?_, fun h => ?_⟩
  · rw [startEmergency_bringUp (by rwa [hmode]) hcalm, (standing_setMode _ _).mode]
  · rcases h with h | h
    · rw [startEmergency_halted (hmode.trans h)]
      exact ⟨hmode, hcalm⟩
    · rw [startEmergency_failed (hmode.trans h)]
      exact ⟨(standing_warned r).mode.trans hmode, (standing_warned r).emergency.trans hcalm⟩
  · obtain ⟨hstands, hrunning, hstarting, hsilent⟩ := startEmergency_securing (hmode ▸ h) hcalm
    refine ⟨hstands.mode, hstands.emergency, hrunning, hstarting, fun hgroup => ?_⟩
    rw [hsilent, grouped, hrole]
    rcases hgroup with hgroup | hgroup <;> rw [hgroup] <;> rfl

end

/-- Settles O44. -/
theorem powerWarnings : Obligations.PowerWarnings := by
  refine ⟨fun s hgood => ?_, fun s t us hgood hlong hpin hemergency ht => powerWarning_does hgood hlong hpin hemergency ht⟩
  exact ⟨fun _ => exec_powerWarning_pin_short hgood, fun _ => exec_powerWarning_undervoltage_short hgood,
    fun _ => exec_powerWarning_pin hgood, fun _ => exec_powerWarning_undervoltage hgood,
    fun _ _ => exec_leakDetected_short hgood, fun _ _ => exec_leakDetected_new hgood, fun _ _ => exec_leakDetected_again hgood,
    fun _ hshort => exec_deasserted_short hgood (by decide) hshort, fun _ => exec_undervoltage_deasserted_short,
    fun _ hshort => ⟨exec_deasserted_short hgood (by decide) hshort, exec_deasserted_short hgood (by decide) hshort⟩,
    fun _ _ _ => exec_deasserted_long⟩

end Sys2Proof.Machine
end

section
/-! Limits, rails, coolant, straps and temperatures (R364, R381, R443, R445, R449, R450, R454). -/

namespace Sys2Proof.Machine

/-! ### Samples and their responses -/

section
variable {s : State} (hgood : s.pwr.good = true)
include hgood

theorem exec_powerLimiting_within {vin iin : BitVec 12} {w : BitVec 16} (hamps : iin < s.pwr.iLimit) (hwatts : w < s.pwr.pLimit) :
    exec (.powerLimiting vin iin w) s = .next (inputSample vin iin w s) := by
  refine next_congr ((if_neg (by simp [hgood])).trans (if_neg ?_))
  change ¬ (decide (s.pwr.iLimit ≤ iin) || decide (s.pwr.pLimit ≤ w)) = true
  simp [hamps, hwatts]

theorem exec_gatingReleased_within {vin iin : BitVec 12} {w : BitVec 16} (hamps : iin < s.pwr.iLimit) (hwatts : w < s.pwr.pLimit) :
    exec (.gatingReleased vin iin w) s =
      .next { inputSample vin iin w s with pwr := { (inputSample vin iin w s).pwr with limI := false } } :=
  next_congr ((if_neg (by simp [hgood])).trans (if_pos ⟨hamps, hwatts⟩))

section
variable {vin iin : BitVec 12} {w : BitVec 16} (hlimit : s.pwr.iLimit ≤ iin ∨ s.pwr.pLimit ≤ w)
include hlimit

theorem exec_gatingReleased_over : exec (.gatingReleased vin iin w) s = .next (inputSample vin iin w s) := by
  refine next_congr ((if_neg (by simp [hgood])).trans (if_neg ?_))
  rintro ⟨hamps, hwatts⟩
  rcases hlimit with hlimit | hlimit
  · exact BitVec.not_lt.mpr hlimit hamps
  · exact BitVec.not_lt.mpr hlimit hwatts

/-- A sample that reaches a limit gates issue; what it records depends on the gating before it. -/
theorem exec_powerLimiting_over :
    let on : State := { inputSample vin iin w s with pwr := { (inputSample vin iin w s).pwr with limI := true } }
    exec (.powerLimiting vin iin w) s = .next
      (if s.pwr.limI || s.pwr.limT then on else raise 0x0C02 (if decide (s.pwr.iLimit ≤ iin) = true then 0 else 1) [] on) := by
  refine next_congr ((if_neg (by simp [hgood])).trans (if_pos ?_))
  change (decide (s.pwr.iLimit ≤ iin) || decide (s.pwr.pLimit ≤ w)) = true
  simpa using hlimit

theorem exec_powerLimiting_again (hgated : s.pwr.limI = true ∨ s.pwr.limT = true) : exec (.powerLimiting vin iin w) s =
    .next { inputSample vin iin w s with pwr := { (inputSample vin iin w s).pwr with limI := true } } :=
  (exec_powerLimiting_over hgood hlimit).trans (next_congr (if_pos (by simpa using hgated)))

theorem exec_powerLimiting_first (hcurrent : s.pwr.limI = false) (hheat : s.pwr.limT = false) : exec (.powerLimiting vin iin w) s =
    .next (raise 0x0C02 (if s.pwr.iLimit ≤ iin then 0 else 1) []
      { inputSample vin iin w s with pwr := { (inputSample vin iin w s).pwr with limI := true } }) := by
  rw [exec_powerLimiting_over hgood hlimit, if_neg (by simp [hcurrent, hheat])]
  simp only [decide_eq_true_eq]

end

/-! ### Rails, coolant and straps -/

theorem exec_regulatorWarning_fitted {rail us : Nat} (hlong : 10 ≤ us) (hfitted : (railsFitted s.cfg).testBit rail = true) :
    exec (.regulatorWarning rail us) s = .next (raise 0x0C03 rail [] { s with pwr := { s.pwr with
      railWarn := s.pwr.railWarn ||| BitVec.ofNat 12 (2 ^ rail), railOut := put 0 rail (s.now + 1) s.pwr.railOut } }) :=
  next_congr (if_pos (by simp [hgood, hfitted, hlong]))

omit hgood in
theorem exec_regulatorWarning_kept {rail us : Nat} (h : us < 10 ∨ (railsFitted s.cfg).testBit rail = false) :
    exec (.regulatorWarning rail us) s = .next s := by
  refine next_congr (if_neg ?_)
  rcases h with h | h
  · simp [h]
  · simp [h]

theorem exec_coolantWarning (ci co : BitVec 16) : exec (.coolantWarning ci co) s = .next (
    if 45 * 16 < ci.toInt ∨ 20 * 16 < co.toInt - ci.toInt then
      raise 0x0C06 noSubject [] { s with pwr := { s.pwr with coolIn := ci, coolOut := co } } else s) := by
  refine next_congr (if_congr ?_ rfl rfl)
  simp [hgood]

section
variable {feed : BitVec 12} {us : Nat}

theorem exec_feedIdChanged_short (hshort : us < 10000) : exec (.feedIdChanged feed us) s = .next (raise 0x0A06 noSubject [] s) :=
  next_congr ((if_pos hshort).trans (if_pos hgood))

section
variable (hlong : 10000 ≤ us) (hstage : 2 ≤ s.hbr.stage)
include hlong hstage

omit hlong in
theorem feed_watched : ¬ (!s.pwr.good || decide (s.hbr.stage < 2)) = true := by
  simp [hgood, Nat.not_lt.mpr hstage]

theorem exec_feedIdChanged_other (hfeed : s.pwr.feedPins ≠ feed) : exec (.feedIdChanged feed us) s =
    .next (raise 0x0C09 noSubject [] { s with pwr := { s.pwr with feedPins := feed } }) :=
  next_congr ((if_neg (Nat.not_lt.mpr hlong)).trans ((if_neg (feed_watched hgood hstage)).trans (if_neg hfeed)))

theorem exec_feedIdChanged_same (hfeed : s.pwr.feedPins = feed) : exec (.feedIdChanged feed us) s = .next s :=
  next_congr ((if_neg (Nat.not_lt.mpr hlong)).trans ((if_neg (feed_watched hgood hstage)).trans (if_pos hfeed)))

end

end

end

/-! ### The hottest die -/

/-- Place p holds the largest number of a list, and none before it is as large. -/
def FirstMax (l : List Int) (p : Nat × Int) : Prop :=
  l[p.1]? = some p.2 ∧ ∀ (k : Nat) (x : Int), l[k]? = some x → x ≤ p.2 ∧ (k < p.1 → x < p.2)

/-- One die's temperature is weighed against the hottest before it. -/
def hotter (b : Option (Nat × Int)) (d : Int × Nat) : Option (Nat × Int) :=
  match b with
  | some x => if x.2 < d.1 then some (d.2, d.1) else b
  | none => some (d.2, d.1)

theorem hottestDie_eq (dies : List Int) : hottestDie dies = (dies.zipIdx.foldl hotter none).getD (0, 0) := rfl

/-- The place after a list, where a number that is larger than all of them stands. -/
theorem firstMax_append_larger {l : List Int} {a : Int} (h : ∀ (k : Nat) (x : Int), l[k]? = some x → x < a) :
    FirstMax (l ++ [a]) (l.length, a) := by
  refine ⟨by simp, fun k x hk => ?_⟩
  rcases Nat.lt_or_ge k l.length with hlt | hge
  · rw [List.getElem?_append_left hlt] at hk
    exact ⟨(h k x hk).le, fun _ => h k x hk⟩
  · obtain ⟨hend, rfl⟩ : k - l.length = 0 ∧ a = x := by simpa [List.getElem?_append_right hge, List.getElem?_singleton] using hk
    exact ⟨le_refl _, fun hlt => absurd hlt (by simpa using hge)⟩

theorem FirstMax.append {l : List Int} {p : Nat × Int} (h : FirstMax l p) {a : Int} (ha : a ≤ p.2) : FirstMax (l ++ [a]) p := by
  obtain ⟨hp, hmax⟩ := h
  have hlt : p.1 < l.length := (List.getElem?_eq_some_iff.mp hp).1
  refine ⟨by rw [List.getElem?_append_left hlt, hp], fun k x hk => ?_⟩
  rcases Nat.lt_or_ge k l.length with hk' | hge
  · exact hmax k x (by rwa [List.getElem?_append_left hk'] at hk)
  · obtain ⟨-, rfl⟩ : k - l.length = 0 ∧ a = x := by simpa [List.getElem?_append_right hge, List.getElem?_singleton] using hk
    exact ⟨ha, fun hk => by omega⟩

theorem foldl_hotter (l : List Int) : (l = [] ∧ l.zipIdx.foldl hotter none = none)
    ∨ ∃ p, l.zipIdx.foldl hotter none = some p ∧ FirstMax l p := by
  induction l using List.reverseRecOn with
  | nil => exact .inl ⟨rfl, rfl⟩
  | append_singleton l a ih =>
    refine .inr ?_
    rw [List.zipIdx_append, List.foldl_append]
    rcases ih with ⟨rfl, hnone⟩ | ⟨p, hp, hmax⟩
    · exact ⟨(0, a), rfl, firstMax_append_larger (l := []) (by simp)⟩
    · rw [hp]
      rcases lt_or_ge p.2 a with hlarger | hsmaller
      · refine ⟨(l.length, a), ?_, firstMax_append_larger fun k x hk => (hmax.2 k x hk).1.trans_lt hlarger⟩
        simp [hotter, hlarger]
      · refine ⟨p, ?_, hmax.append hsmaller⟩
        simp [hotter, Int.not_lt.mpr hsmaller]

theorem firstMax_hottestDie {dies : List Int} (h : dies ≠ []) : FirstMax dies (hottestDie dies) := by
  rcases foldl_hotter dies with ⟨hnil, -⟩ | ⟨p, hp, hmax⟩
  · exact absurd hnil h
  · rw [hottestDie_eq, hp]
    exact hmax

/-- Die k is fitted (Table 17.4). -/
def Fitted (c : Cfg) (k : Nat) : Prop := c = .sk3_2a → k ≠ 2 ∧ k ≠ 4

theorem fittedDies_length (c : Cfg) {dies : List Int} (h : dies.length = 5) : (fittedDies c dies).length = 5 := by
  cases c <;> simp [fittedDies, h]

theorem fittedDies_fitted {c : Cfg} {dies : List Int} (h : dies.length = 5) {k : Nat} (hk : Fitted c k) :
    (fittedDies c dies)[k]? = dies[k]? := by
  have htake : dies.take 5 = dies := List.take_of_length_le h.le
  cases c with
  | sk3_4a => rw [fittedDies, htake]
  | sk3_2a =>
    have hplace : ¬ (k = 2 ∨ k = 4) := by
      obtain ⟨h2, h4⟩ := hk rfl
      simp [h2, h4]
    have hgiven : (fun d : Int × Nat => if d.2 = 2 ∨ d.2 = 4 then -32768 else d.1) ∘ (fun a => (a, k)) = id :=
      funext fun a => if_neg hplace
    simp [fittedDies, htake, hgiven]

/-- The hottest die of what is fitted is fitted, since a place without a die counts as the coldest. -/
theorem fitted_of_firstMax {c : Cfg} {dies : List Int} (h : dies.length = 5) (hcold : ∀ x ∈ dies, -32768 ≤ x) {p : Nat × Int}
    (hp : FirstMax (fittedDies c dies) p) : Fitted c p.1 := by
  rintro rfl
  by_contra hmissing
  have hplace : p.1 = 2 ∨ p.1 = 4 := by omega
  have hcoldest : p.2 = -32768 := by
    have hat := hp.1
    rcases hplace with hplace | hplace
    all_goals
      simp [fittedDies, hplace, h] at hat
      exact hat.symm
  have hmainland : dies[0]? = some dies[0] := List.getElem?_eq_getElem _
  have hbelow := (hp.2 0 dies[0] ((fittedDies_fitted h (by simp [Fitted])).trans hmainland)).2 (by omega)
  have := hcold dies[0] (List.getElem_mem _)
  omega

/-! ### Temperatures -/

/-- Events and the securing that a change of RISK requests: everything but the recorder, the health monitor, the ports and what leaves is
the same, and so is TEMP. -/
def Told (s t : State) : Prop := Aside s t ∧ t.hlt.temp = s.hlt.temp

theorem Told.trans {s t u : State} (h : Told s t) (k : Told t u) : Told s u := ⟨aside_trans h.1 k.1, k.2.trans h.2⟩

theorem told_requestCheck (b : Nat) (s : State) : Told s (requestCheck b s) := ⟨aside_requestCheck b s, by rw [requested_requestCheck b s]⟩

theorem told_raise (c n : Nat) (fs : List (Nat × Nat)) (s : State) : Told s (raise c n fs s) :=
  ⟨aside_raise c n fs s, by rw [weighed_raise c n fs s]⟩

theorem told_raise_if {p : Prop} [Decidable p] (c n : Nat) (fs : List (Nat × Nat)) (s : State) : Told s (if p then raise c n fs s else s) := by
  split
  · exact told_raise c n fs s
  · exact ⟨rfl, rfl⟩

/-- The module with a sample of its temperatures taken. -/
def heatSample (d : Nat) (t : Int) (ci co : BitVec 16) (s : State) : State :=
  let gate := decide (105 * 16 ≤ t) || (s.pwr.limT && decide (103 * 16 ≤ t))
  { s with
    pwr := { s.pwr with coolIn := ci, coolOut := co, hottest := BitVec.ofInt 16 t, hotDie := BitVec.ofNat 3 d
                        tstate := if gate then 2 else if 100 * 16 ≤ t then 1 else 0, limT := gate }
    hlt := { s.hlt with temp := tempTerm t } }

theorem exec_tempSample {s : State} (hgood : s.pwr.good = true) (dies : List Int) (ci co : BitVec 16) :
    ∃ t, exec (.tempSample dies ci co) s = .next t
      ∧ Told (heatSample (hottestDie (fittedDies s.cfg dies)).1 (hottestDie (fittedDies s.cfg dies)).2 ci co s) t := by
  refine ⟨_, next_congr (if_neg (by simp [hgood])), ?_⟩
  exact ((told_requestCheck _ _).trans (told_raise_if _ _ _ _)).trans (told_raise_if _ _ _ _)

theorem tempSample_does {s : State} {z n e so w : Int} {ci co : BitVec 16} (hgood : s.pwr.good = true)
    (hcold : ∀ x ∈ [z, n, e, so, w], -32768 ≤ x) :
    ∃ t d T, exec (.tempSample [z, n, e, so, w] ci co) s = .next t
      ∧ Fitted s.cfg d ∧ [z, n, e, so, w][d]? = some T
      ∧ (∀ k x, Fitted s.cfg k → [z, n, e, so, w][k]? = some x → x ≤ T ∧ (k < d → x < T))
      ∧ t.pwr.hottest = BitVec.ofInt 16 T ∧ t.pwr.hotDie = BitVec.ofNat 3 d ∧ t.pwr.coolIn = ci ∧ t.pwr.coolOut = co
      ∧ t.pwr.limT = (decide (1680 ≤ T) || (s.pwr.limT && decide (1648 ≤ T)))
      ∧ t.pwr.tstate = (if t.pwr.limT then 2 else if 1600 ≤ T then 1 else 0)
      ∧ t.hlt.temp = min 64 (max 0 ((T - 1440) / 4)).toNat
      ∧ t.mode = s.mode ∧ t.mem = s.mem ∧ t.xng = s.xng ∧ t.ttu = s.ttu := by
  obtain ⟨t, ht, haside, htemp⟩ := exec_tempSample hgood [z, n, e, so, w] ci co
  have hhottest : FirstMax (fittedDies s.cfg [z, n, e, so, w]) (hottestDie (fittedDies s.cfg [z, n, e, so, w])) :=
    firstMax_hottestDie (List.ne_nil_of_length_eq_add_one (fittedDies_length s.cfg rfl))
  generalize hottestDie (fittedDies s.cfg [z, n, e, so, w]) = p at haside htemp hhottest
  have hfitted := fitted_of_firstMax rfl hcold hhottest
  refine ⟨t, p.1, p.2, ht, hfitted, (fittedDies_fitted rfl hfitted).symm.trans hhottest.1,
    fun k x hk hx => hhottest.2 k x ((fittedDies_fitted rfl hk).trans hx), ?_⟩
  rw [haside, htemp]
  exact ⟨rfl, rfl, rfl, rfl, rfl, rfl, rfl, rfl, rfl, rfl, rfl⟩

/-- Settles O43. -/
theorem limitsAndTemperatures : Obligations.LimitsAndTemperatures := by
  refine ⟨fun s hgood => ⟨fun vin iin w => ⟨fun hamps hwatts => ?_, fun hlimit => ?_⟩, fun _ _ => exec_regulatorWarning_fitted hgood,
    fun _ _ => exec_regulatorWarning_kept, exec_coolantWarning hgood, fun feed us hstage => ?_⟩,
    fun s n e so w z ci co hgood hcold => tempSample_does hgood hcold⟩
  · exact ⟨exec_powerLimiting_within hgood hamps hwatts, exec_gatingReleased_within hgood hamps hwatts⟩
  · exact ⟨exec_gatingReleased_over hgood hlimit, exec_powerLimiting_again hgood hlimit, exec_powerLimiting_first hgood hlimit⟩
  · exact ⟨exec_feedIdChanged_short hgood, fun hlong => exec_feedIdChanged_other hgood hlong hstage,
      fun hlong => exec_feedIdChanged_same hgood hlong hstage⟩

end Sys2Proof.Machine
end

section
/-! The input switch (R237, R378, R417, R418, R433, R441 to R446): its pins, the rails, and what opening it leaves. -/

namespace Sys2Proof.Machine

section
variable {s : State}

/-! ### Closing (R441, R445) -/

theorem exec_enable_above {us : Nat} (hlong : 1000 ≤ us) : exec (.pwrEnNAsserted us true) s = .next { s with pwr :=
    if s.pwr.closed then { s.pwr with enable := true }
    else { s.pwr with enable := true, closed := true, good := false, step := 0 } } := by
  refine next_congr ((if_neg (Nat.not_lt.mpr hlong)).trans ?_)
  cases hclosed : s.pwr.closed <;> simp [hclosed, closeSwitch]

theorem exec_enable_below {us : Nat} (hlong : 1000 ≤ us) :
    exec (.pwrEnNAsserted us false) s = .next { s with pwr := { s.pwr with enable := true } } :=
  next_congr (if_neg (Nat.not_lt.mpr hlong))

theorem exec_enable_short {us : Nat} (above : Bool) (hshort : us < 1000) : exec (.pwrEnNAsserted us above) s =
    .next (if s.pwr.good then raise 0x0A06 noSubject [] s else s) := next_congr (if_pos hshort)

theorem exec_turnOnThreshold (s : State) : exec .turnOnThreshold s = .next (if s.pwr.enable = true ∧ s.pwr.closed = false then
    { s with pwr := { s.pwr with closed := true, good := false, step := 0 } } else s) :=
  next_congr (if_congr (by simp) rfl rfl)

section
variable (hclosed : s.pwr.closed = true) (hgood : s.pwr.good = false)
include hclosed hgood

theorem exec_railStep_early (hstep : s.pwr.step < 5) :
    exec .railStep s = .next { s with pwr := { s.pwr with step := s.pwr.step + 1 } } := by
  refine next_congr ((if_pos ?_).trans (if_neg ?_))
  · simp only [hclosed, hgood, Bool.not_false, Bool.and_self, Bool.true_and, decide_eq_true_eq]
    omega
  · change ¬ s.pwr.step + 1 = 6
    omega

theorem exec_railStep_last (hstep : s.pwr.step = 5) : exec .railStep s = .next { s with
    pwr := { s.pwr with step := 6, good := true }
    log := { s.log with powers := s.log.powers + 1, minutes := s.flash.minutes, minuteAt := s.now } } := by
  refine next_congr ((if_pos ?_).trans ((if_pos ?_).trans ?_))
  · simp [hclosed, hgood, hstep]
  · change s.pwr.step + 1 = 6
    omega
  · simp only [powerGood, hstep]

end

/-! ### The start of a power-down (R237, R442, R446) -/

theorem exec_disable {us : Nat} (hlong : 1000 ≤ us) (hclosed : s.pwr.closed = true) (hdown : s.pwr.down = false)
    (hwait : s.pwr.downWait = false) : exec (.pwrEnNDeasserted us) s = .next (
      if s.mode = .securing ∧ s.hlt.emergency = true then
        { s with pwr := { s.pwr with enable := false, downWait := true, downAt := s.now, downCause := 2 } }
      else { (if s.pwr.good then drainAll s else s) with pwr := { s.pwr with
        enable := false, down := true
        downCause := if s.mode = .halted ∨ s.mode = .failed ∨ s.pwr.good = false then 1 else 2 } }) := by
  refine next_congr ((if_neg (Nat.not_lt.mpr hlong)).trans ((if_neg ?_).trans (if_congr Iff.rfl rfl ?_)))
  · simp [hclosed, hdown, hwait]
  · have hoff : ((s.mode == .halted || s.mode == .failed || !s.pwr.good) = true) =
        (s.mode = .halted ∨ s.mode = .failed ∨ s.pwr.good = false) := by simp [or_assoc]
    simp only [hoff]

/-! ### The counters that a loss of power cuts short (R433) -/

theorem cutFuses_kept (kind : Nat) (s : State) : cutFuses kind s =
    { s with flash := { s.flash with rollback := (cutFuses kind s).flash.rollback }, freeCtr := (cutFuses kind s).freeCtr } := by
  unfold cutFuses
  split <;> rfl

theorem cutFuses_notDue {kind : Nat} (hdue : fusesDue s kind = false) : cutFuses kind s = s := if_neg (by simp [hdue])

theorem look_cutFuses_other {kind k : Nat} (hk : k ≠ kind) :
    look 0 (cutFuses kind s).flash.rollback k = look 0 s.flash.rollback k := by
  unfold cutFuses
  split
  · exact look_put_other _ _ _ _ _ _ hk
  · rfl

/-- The counter is left anywhere from its old value to its goal. -/
theorem look_cutFuses_due {kind : Nat} (hdue : fusesDue s kind = true) :
    look 0 s.flash.rollback kind ≤ look 0 (cutFuses kind s).flash.rollback kind
      ∧ look 0 (cutFuses kind s).flash.rollback kind ≤ fuseGoal s kind := by
  have hbelow : look 0 s.flash.rollback kind < fuseGoal s kind := by
    simp only [fusesDue, Bool.and_eq_true, decide_eq_true_eq] at hdue
    exact hdue.2
  have hcut : look 0 (cutFuses kind s).flash.rollback kind = look 0 s.flash.rollback kind
      + Config.freeValue s.freeCtr % (fuseGoal s kind - look 0 s.flash.rollback kind + 1) := by
    rw [cutFuses, if_pos hdue]
    exact look_put_same _ _ _ _
  have := Nat.mod_lt (Config.freeValue s.freeCtr) (show 0 < fuseGoal s kind - look 0 s.flash.rollback kind + 1 by omega)
  omega

theorem fusesDue_cutFuses_other {kind k : Nat} (hk : k ≠ kind) : fusesDue (cutFuses kind s) k = fusesDue s k := by
  have hgoal : fuseGoal (cutFuses kind s) k = fuseGoal s k := by rw [cutFuses_kept]; rfl
  have hstage : (cutFuses kind s).hbr.stage = s.hbr.stage := by rw [cutFuses_kept]
  rw [fusesDue, fusesDue, hgoal, hstage, look_cutFuses_other hk]

/-- A counter rises at most, only where it is due, and not beyond its goal. -/
def Risen (s t : State) (k : Nat) : Prop :=
  look 0 s.flash.rollback k ≤ look 0 t.flash.rollback k
    ∧ (fusesDue s k = false → look 0 t.flash.rollback k = look 0 s.flash.rollback k)
    ∧ (fusesDue s k = true → look 0 t.flash.rollback k ≤ fuseGoal s k)

theorem risen_of_eq {t : State} {k : Nat} (h : look 0 t.flash.rollback k = look 0 s.flash.rollback k) : Risen s t k := by
  refine ⟨h.ge, fun _ => h, fun hdue => ?_⟩
  simp only [fusesDue, Bool.and_eq_true, decide_eq_true_eq] at hdue
  exact h.le.trans hdue.2.le

theorem risen_cutFuses (kind : Nat) (s : State) : Risen s (cutFuses kind s) kind := by
  cases hdue : fusesDue s kind with
  | false => exact risen_of_eq (by rw [cutFuses_notDue hdue])
  | true => exact ⟨(look_cutFuses_due hdue).1, fun h => absurd (hdue.symm.trans h) (by decide), fun _ => (look_cutFuses_due hdue).2⟩

theorem risen_cutBoth (s : State) (k : Nat) : Risen s (cutFuses 2 (cutFuses 1 s)) k := by
  by_cases h2 : k = 2
  · subst h2
    have hcut := risen_cutFuses 2 (cutFuses 1 s)
    have hgoal : fuseGoal (cutFuses 1 s) 2 = fuseGoal s 2 := by rw [cutFuses_kept]; rfl
    rwa [Risen, fusesDue_cutFuses_other (by decide), look_cutFuses_other (by decide), hgoal] at hcut
  · have hlook : look 0 (cutFuses 2 (cutFuses 1 s)).flash.rollback k = look 0 (cutFuses 1 s).flash.rollback k := look_cutFuses_other h2
    by_cases h1 : k = 1
    · subst h1
      have hcut := risen_cutFuses 1 s
      rwa [Risen, ← hlook] at hcut
    · exact risen_of_eq (hlook.trans (look_cutFuses_other h1))

/-! ### The record that a loss of power tears (R418) -/

theorem tearRecord_kept (s : State) : tearRecord s =
    { s with log := { s.log with mram := (tearRecord s).log.mram }, freeCtr := (tearRecord s).freeCtr } := by
  unfold tearRecord
  split
  · rfl
  · dsimp only
    split <;> rfl

theorem slotValid_tornBytes (n : Nat) : slotValid (tornBytes n) = false := by
  unfold tornBytes
  dsimp only
  split
  · rfl
  next hinvalid => simpa using hinvalid

/-- A slot keeps its record, or it is that of the record being written and is left invalid. -/
theorem look_tearRecord (s : State) (k : Nat) : look [] (tearRecord s).log.mram k = look [] s.log.mram k
    ∨ s.log.held = false ∧ slotValid (look [] (tearRecord s).log.mram k) = false
      ∧ ∃ r rest, s.log.queue = r :: rest ∧ k = (placeRecord r s.log).2 := by
  unfold tearRecord
  split
  · exact .inl rfl
  next r rest hqueue =>
    dsimp only
    split
    · exact .inl rfl
    next hwrites =>
      have hheld : s.log.held = false := by
        cases hheld : s.log.held with
        | false => rfl
        | true => exact absurd (by rw [hheld, Bool.true_or]) hwrites
      by_cases hk : k = (placeRecord r s.log).2
      · refine .inr ⟨hheld, ?_, r, rest, hqueue, hk⟩
        subst hk
        exact (congrArg slotValid (look_put_same _ _ _ _)).trans (slotValid_tornBytes _)
      · exact .inl (look_put_other _ _ _ _ _ _ hk)

/-! ### Opening (R442, R444) -/

theorem foldl_setChan_kept (l : List (Nat × Channel)) (f : Channel → Channel) (n : State) : ∃ cs,
    l.foldl (fun n c => setChan c.1 (f c.2) n) n = { n with mem := { n.mem with chans := cs } } := by
  induction l generalizing n with
  | nil => exact ⟨_, rfl⟩
  | cons c r ih => exact ih (setChan c.1 (f c.2) n)

theorem foldl_setPort_kept (l : List Nat) (f : Nat → Port) (n : State) : ∃ ps,
    l.foldl (fun n p => setPort p (f p) n) n = { n with zng := { n.zng with ports := ps } } := by
  induction l generalizing n with
  | nil => exact ⟨_, rfl⟩
  | cons p r ih => exact ih (setPort p (f p) n)

/-- A return to BOOT from BOOT: what is left but the channels, the ports and the islets in service. -/
theorem reboot_kept (hmode : s.mode = .boot) : ∃ chans ports isl, reboot s = {
    cfg := s.cfg, now := s.now, out := s.out, freeCtr := s.freeCtr, pending := s.pending, flash := s.flash
    mode := .boot, log := keptLog s.log, pwr := keptPower s.pwr, hlt := { cofed := s.flash.cofed, warning := s.hlt.warning }
    mem := { chans := chans }, zng := { ports := ports }, isl := isl } ∧ isl.store = [] := by
  unfold reboot
  rw [← hmode, setMode_self]
  extract_lets _ blank withChans withPorts
  obtain ⟨chans, hchans⟩ : ∃ cs, withChans = { blank with mem := { blank.mem with chans := cs } } := foldl_setChan_kept _ _ _
  obtain ⟨ports, hports⟩ : ∃ ps, withPorts = { withChans with zng := { withChans.zng with ports := ps } } := foldl_setPort_kept _ _ _
  clear_value withPorts withChans
  subst hchans hports
  exact ⟨chans, ports, _, rfl, rfl⟩

/-- What an opening of the switch leaves: the cause is latched, and everything but what persists is lost. -/
structure Opened (cause : Nat) (s t : State) : Prop where
  closed : t.pwr.closed = false
  good : t.pwr.good = false
  step : t.pwr.step = 0
  latch : t.pwr.latch = BitVec.ofNat 3 cause
  down : t.pwr.down = false
  mode : t.mode = .boot
  flash : t.flash = { s.flash with rollback := t.flash.rollback }
  fuses : ∀ k, Risen s t k ∧ (s.pwr.good = false → look 0 t.flash.rollback k = look 0 s.flash.rollback k)
  mram : ∀ k, look [] t.log.mram k = look [] s.log.mram k ∨ s.pwr.good = true ∧ s.log.held = false
    ∧ slotValid (look [] t.log.mram k) = false ∧ ∃ r rest, s.log.queue = r :: rest ∧ k = (placeRecord r s.log).2
  lost : t.mem.cells = [] ∧ t.isl.store = [] ∧ t.xng = {} ∧ t.ttu = {} ∧ t.harts = [] ∧ t.snd = {} ∧ t.log.queue = []

/-- The module as a loss of power finds it: what was being written is cut short. -/
def cutShort (s : State) : State := if s.pwr.good then tearRecord (cutFuses 2 (cutFuses 1 s)) else s

theorem powerOff_eq (cause : Nat) (s : State) : powerOff cause s =
    { reboot { cutShort s with mode := .boot } with
      log := darkLog (reboot { cutShort s with mode := .boot }).log
      hlt := { (reboot { cutShort s with mode := .boot }).hlt with warning := false }
      pwr := { enable := (cutShort s).pwr.enable, slotId := (cutShort s).pwr.slotId, feedPins := (cutShort s).pwr.feedPins
               latch := BitVec.ofNat 3 cause, closed := false, good := false, step := 0 } } := rfl

theorem cutBoth_kept (s : State) : ∃ fuses ctr, cutFuses 2 (cutFuses 1 s) =
    { s with flash := { s.flash with rollback := fuses }, freeCtr := ctr } := by
  rw [cutFuses_kept 2, cutFuses_kept 1]
  exact ⟨_, _, rfl⟩

theorem cutShort_flash (s : State) : (cutShort s).flash = { s.flash with rollback := (cutShort s).flash.rollback } := by
  unfold cutShort
  split
  · obtain ⟨fuses, ctr, hcut⟩ := cutBoth_kept s
    rw [hcut, tearRecord_kept]
  · rfl

theorem risen_cutShort (s : State) (k : Nat) :
    Risen s (cutShort s) k ∧ (s.pwr.good = false → look 0 (cutShort s).flash.rollback k = look 0 s.flash.rollback k) := by
  unfold cutShort
  split
  next hgood =>
    have hcut := risen_cutBoth s k
    refine ⟨?_, fun hbad => absurd (hgood.symm.trans hbad) (by decide)⟩
    rw [tearRecord_kept]
    exact hcut
  · exact ⟨risen_of_eq rfl, fun _ => rfl⟩

theorem look_cutShort (s : State) (k : Nat) : look [] (cutShort s).log.mram k = look [] s.log.mram k
    ∨ s.pwr.good = true ∧ s.log.held = false ∧ slotValid (look [] (cutShort s).log.mram k) = false
      ∧ ∃ r rest, s.log.queue = r :: rest ∧ k = (placeRecord r s.log).2 := by
  unfold cutShort
  split
  next hgood =>
    have htorn := look_tearRecord (cutFuses 2 (cutFuses 1 s)) k
    obtain ⟨fuses, ctr, hcut⟩ := cutBoth_kept s
    have hlog : (cutFuses 2 (cutFuses 1 s)).log = s.log := by rw [hcut]
    rw [hlog] at htorn
    exact htorn.imp_right fun h => ⟨hgood, h⟩
  · exact .inl rfl

theorem opened_powerOff (cause : Nat) (s : State) : Opened cause s (powerOff cause s) := by
  obtain ⟨chans, ports, isl, hreboot, hstore⟩ := reboot_kept (s := { cutShort s with mode := .boot }) rfl
  rw [powerOff_eq, hreboot]
  exact {
    closed := rfl, good := rfl, step := rfl, latch := rfl, down := rfl, mode := rfl
    flash := cutShort_flash s, fuses := risen_cutShort s, mram := look_cutShort s
    lost := ⟨rfl, hstore, rfl, rfl, rfl, rfl, rfl⟩ }

/-- A passing of time before it is open changes nothing of what an opening leaves. -/
theorem Opened.of_passNow {cause n : Nat} {t : State} (h : Opened cause (passNow n s) t) : Opened cause s t := by
  have hdue (k : Nat) : fusesDue (passNow n s) k = fusesDue s k := by simp [fusesDue, fuseGoal]
  have hgoal (k : Nat) : fuseGoal (passNow n s) k = fuseGoal s k := by simp [fuseGoal]
  obtain ⟨closed, good, step, latch, down, mode, flash, fuses, mram, lost⟩ := h
  simp only [Risen, passNow_flash, passNow_pwr, passNow_log, hdue, hgoal] at flash fuses mram
  exact ⟨closed, good, step, latch, down, mode, flash, fuses, mram, lost⟩

/-- The commands that open the switch, each with the cause that it latches. -/
def Opens (s : State) (c : Instr) (cause : Nat) : Prop :=
  c = .powerDown ∧ s.pwr.down = true ∧ cause = s.pwr.downCause.toNat
    ∨ c = .powerDown ∧ s.pwr.down = false ∧ s.pwr.downWait = true ∧ cause = s.pwr.downCause.toNat
    ∨ c = .railStepTimeout ∧ s.pwr.closed = true ∧ s.pwr.good = false ∧ cause = 6
    ∨ (∃ us, c = .hardTrip ⟨cause, us⟩ ∧ tripFilter cause ≤ us) ∧ s.pwr.closed = true ∧ 3 ≤ cause

theorem opened_of_opens {c : Instr} {cause : Nat} (hcause : cause < 8) (h : Opens s c cause) :
    ∃ t, exec c s = .next t ∧ Opened cause s t := by
  rcases h with ⟨rfl, hdown, rfl⟩ | ⟨rfl, hdown, hwait, rfl⟩ | ⟨rfl, hclosed, hgood, rfl⟩ | ⟨⟨us, rfl, hlong⟩, hclosed, hlow⟩
  · exact ⟨_, next_congr (if_pos hdown), opened_powerOff _ s⟩
  · refine ⟨_, next_congr ((if_neg (by simp [hdown])).trans (if_pos hwait)), ?_⟩
    split
    · exact opened_powerOff _ s
    · exact (opened_powerOff _ _).of_passNow
  · exact ⟨_, next_congr (if_pos (by simp [hclosed, hgood])), opened_powerOff 6 s⟩
  · refine ⟨_, next_congr (if_pos ?_), opened_powerOff cause s⟩
    simp only [hclosed, hlow, hlong, Nat.le_of_lt_succ hcause, decide_true, Bool.and_self]

theorem exec_powerDown_kept (hdown : s.pwr.down = false) (hwait : s.pwr.downWait = false) : exec .powerDown s = .next s :=
  next_congr ((if_neg (by simp [hdown])).trans (if_neg (by simp [hwait])))

theorem exec_hardTrip_kept {cause us : Nat} (h : s.pwr.closed = false ∨ cause < 3 ∨ 7 < cause ∨ us < tripFilter cause) :
    exec (.hardTrip ⟨cause, us⟩) s = .next s := by
  refine next_congr (if_neg ?_)
  simp only [Bool.and_eq_true, decide_eq_true_eq]
  rintro ⟨⟨⟨hclosed, hlow⟩, hhigh⟩, hlong⟩
  rcases h with h | h | h | h
  · exact absurd (hclosed.symm.trans h) (by decide)
  all_goals omega

end

/-- Settles O42. -/
theorem inputSwitch : Obligations.InputSwitch := by
  refine fun s => ⟨fun us hlong => ⟨exec_enable_above hlong, exec_enable_below hlong⟩, fun us above => exec_enable_short above,
    exec_turnOnThreshold s, fun us => exec_disable, exec_railStep_early, exec_railStep_last, exec_powerDown_kept,
    fun c cause hcause h => ?_, fun cause us => exec_hardTrip_kept, by decide, by decide, by decide, by decide, by decide⟩
  obtain ⟨t, ht, hopened⟩ := opened_of_opens hcause h
  obtain ⟨closed, good, step, latch, down, mode, flash, fuses, mram, lost⟩ := hopened
  refine ⟨t, ht, closed, good, step, latch, down, mode, flash, fun k => ?_, mram, lost⟩
  obtain ⟨⟨hrises, hkept, hgoal⟩, hdark⟩ := fuses k
  exact ⟨hrises, fun h => h.elim hdark hkept, hgoal⟩

end Sys2Proof.Machine
end

section
/-! Bring-up (R17, R164, R246, R367, R377, R428 to R431, R442): its stages from the Harbour image to the crossing clock. -/

namespace Sys2Proof.Machine

section
variable {s : State}

/-! ### Stage 0 (R428, R429) -/

theorem standing_tryBanks (kind : Nat) (l : List Bool) (s : State) : Standing s (tryBanks kind l s) := by
  induction l generalizing s with
  | nil => exact .refl s
  | cons b rest ih =>
    have hopen : Standing s (openBank kind b s) := by
      unfold openBank
      split <;> exact .of_eq
    unfold tryBanks
    refine hopen.trans ?_
    dsimp only
    split
    · exact (standing_raise _ _ _ _).trans (ih _)
    · split
      · split
        · exact .of_eq
        · exact .after (standing_raise _ _ _ _) .of_eq
      · exact .of_eq

theorem standing_deriveIdentity (s : State) : Standing s (deriveIdentity s) := by
  unfold deriveIdentity
  constructor <;> dsimp only
  exact fun _ => rfl

theorem standing_bootCheck (s : State) : Standing s (bootCheck s) := by
  unfold bootCheck
  extract_lets _ measured harbour
  have hmeasured : Standing s measured := .of_eq
  have hharbour : Standing s harbour := hmeasured.trans (standing_tryBanks _ _ _)
  exact (hharbour.trans (standing_tryBanks _ _ _)).trans (standing_deriveIdentity _)

/-- Where stage 0 has failed the mask ROM answers, on mailbox 8 alone. -/
theorem rom_serves (hmode : s.mode = .failed) (hstage : s.hbr.stage = 0) :
    romAnswers s = true ∧ ∀ m, harbourServes s m = (m == 8) := by
  have hrom : romAnswers s = true := by simp [romAnswers, hmode, hstage]
  exact ⟨hrom, fun m => by simp [harbourServes, hrom, hmode]⟩

section
variable (hmode : s.mode = .boot) (hgood : s.pwr.good = true) (hstage : s.hbr.stage = 0)
include hmode hgood hstage

theorem exec_harbourFirmwareStart_passes (hbank : ∃ b, runningBank (bootCheck s) 1 = some b) : exec .harbourFirmwareStart s =
    .next { bootCheck s with hbr := { (bootCheck s).hbr with stage := 1 } } := by
  obtain ⟨b, hbank⟩ := hbank
  exact next_congr ((if_pos ⟨hmode, hstage, hgood⟩).trans (if_neg (by simp [hbank])))

theorem exec_harbourFirmwareStart_fails (hbank : runningBank (bootCheck s) 1 = none) : ∃ t, exec .harbourFirmwareStart s = .next t
    ∧ t.log.held = false ∧ t.hbr.stage = 0 ∧ t.mode = .failed ∧ romAnswers t = true ∧ ∀ m, harbourServes t m = (m == 8) := by
  let noted := raise 0x0A02 noSubject [(1, 0)] (raise 0x0D03 1 [] (bootCheck s))
  have hnoted : Standing s noted := ((standing_bootCheck s).trans (standing_raise _ _ _ _)).trans (standing_raise _ _ _ _)
  have hfails := standing_failModule (s := noted) (by rw [hnoted.mode, hmode]; decide) 5
  have hnone : (runningBank (bootCheck s) 1).isNone = true := by rw [hbank]; rfl
  have hexec : exec .harbourFirmwareStart s =
      .next { failModule 5 noted with log := { (failModule 5 noted).log with held := false } } := by
    refine next_congr ((if_pos ⟨hmode, hstage, hgood⟩).trans ?_)
    rw [if_pos hnone, failStageWith]
  have hfailed : (failModule 5 noted).mode = .failed := hfails.mode
  have hzero : (failModule 5 noted).hbr.stage = 0 := by
    rw [hfails.stage]
    dsimp only
    rw [hnoted.stage, hstage]
  generalize failModule 5 noted = v at hexec hfailed hzero
  obtain ⟨hrom, hserves⟩ := rom_serves (s := { v with log := { v.log with held := false } }) hfailed hzero
  exact ⟨_, hexec, rfl, hzero, hfailed, hrom, hserves⟩

end

/-! ### Stage 1 (R377, R442) -/

theorem recordEvent_held (ev : Event) (g : Recorder) : (recordEvent ev g).held = g.held := by
  unfold recordEvent
  split
  · split
    · dsimp only
      split <;> rfl
    · split <;> rfl
  · rfl

/-- What stage 1 loads leaves the flash, the power pins and the ports alone. -/
structure Loads (s t : State) : Prop where
  flash : t.flash = s.flash
  pwr : t.pwr = s.pwr
  ports : t.zng.ports = s.zng.ports

theorem Loads.of_eq {t : State} (flash : t.flash = s.flash := by rfl) (pwr : t.pwr = s.pwr := by rfl)
    (ports : t.zng.ports = s.zng.ports := by rfl) : Loads s t := ⟨flash, pwr, ports⟩

theorem Loads.trans {t u : State} (h : Loads s t) (k : Loads t u) : Loads s u :=
  ⟨k.flash.trans h.flash, k.pwr.trans h.pwr, k.ports.trans h.ports⟩

theorem loads_foldl {α : Type} {f : State → α → State} (h : ∀ s x, Loads s (f s x)) (l : List α) (s : State) : Loads s (l.foldl f s) := by
  induction l generalizing s with
  | nil => exact .of_eq
  | cons x r ih => exact (h s x).trans (ih _)

theorem loads_raise {c : Nat} (n : Nat) (fs : List (Nat × Nat)) (s : State) (hlight : weight64 c = 0) : Loads s (raise c n fs s) := by
  rw [raise_light c n fs s hlight]
  exact .of_eq

theorem loads_applyKey (key value : Nat) (s : State) : Loads s (applyKey key value s) :=
  .trans (t := { s with hbr := { s.hbr with config := put 0 key (value + 1) s.hbr.config } }) .of_eq (loads_raise _ _ _ (by decide))

theorem loads_applyStored (s : State) : Loads s (applyStored s) := by
  refine loads_foldl (fun u k => ?_) _ s
  split
  · exact .of_eq
  · dsimp only
    split
    · exact (loads_applyKey _ _ u).trans .of_eq
    · exact loads_applyKey _ _ u

theorem loads_checkIdentity (s : State) : Loads s (checkIdentity s) := by
  unfold checkIdentity
  split
  · exact .of_eq
  · exact .trans (t := { s with sec := { s.sec with identity := false } }) .of_eq (loads_raise _ _ _ (by decide))

theorem loads_takeIslets (s : State) : Loads s (takeIslets s) := by
  unfold takeIslets
  extract_lets u
  have hislets : Loads s u := loads_foldl (fun _ _ => .of_eq) _ s
  exact hislets.trans .of_eq

theorem loads_latch (s : State) : Loads s (if s.pwr.latch = 0 then s else raise 0x0C08 s.pwr.latch.toNat [] s) := by
  split
  · exact .of_eq
  · exact loads_raise _ _ _ (by decide)

/-- A port that may train leaves DOWN. -/
def startPort (s : State) (p : Nat) : State := if s.zng.portEn.getLsbD p then setPort p { portOf s p with phase := .detect } s else s

theorem startPorts_eq (s : State) : startPorts s = (List.range 8).foldl startPort s := rfl

theorem startPort_kept (s : State) (p : Nat) : ∃ ps, startPort s p = { s with zng := { s.zng with ports := ps } } := by
  unfold startPort
  split <;> exact ⟨_, rfl⟩

theorem foldl_ports_kept {f : State → Nat → State} (h : ∀ s p, ∃ ps, f s p = { s with zng := { s.zng with ports := ps } }) (l : List Nat)
    (s : State) : ∃ ps, l.foldl f s = { s with zng := { s.zng with ports := ps } } := by
  induction l generalizing s with
  | nil => exact ⟨_, rfl⟩
  | cons p r ih =>
    obtain ⟨ps, hps⟩ := h s p
    rw [List.foldl_cons, hps]
    exact ih _

theorem startPorts_kept (s : State) : ∃ ps, startPorts s = { s with zng := { s.zng with ports := ps } } :=
  foldl_ports_kept startPort_kept _ s

theorem startPort_phase (s : State) (k p : Nat) : (portOf (startPort s k) p).phase =
    if p = k ∧ s.zng.portEn.getLsbD p then .detect else (portOf s p).phase := by
  unfold startPort
  by_cases hp : p = k
  · subst hp
    split <;> simp [*]
  · split <;> simp [hp, portOf_setPort_other]

theorem foldl_startPort_phase (l : List Nat) (s : State) (p : Nat) : (portOf (l.foldl startPort s) p).phase =
    if p ∈ l ∧ s.zng.portEn.getLsbD p then .detect else (portOf s p).phase := by
  induction l generalizing s with
  | nil => simp
  | cons k r ih =>
    obtain ⟨ps, hps⟩ := startPort_kept s k
    have hen : (startPort s k).zng.portEn = s.zng.portEn := by rw [hps]
    rw [List.foldl_cons, ih, hen, startPort_phase]
    cases s.zng.portEn.getLsbD p with
    | false => simp
    | true =>
      by_cases hp : p = k
      · simp [hp]
      · simp [hp]

theorem startPorts_phase (s : State) {p : Nat} (hp : p < 8) : (portOf (startPorts s) p).phase =
    if s.zng.portEn.getLsbD p then .detect else (portOf s p).phase := by
  rw [startPorts_eq, foldl_startPort_phase]
  simp [hp]

/-- The module as stage 1 reads its flash and its straps: `e` is what the configuration, the identity and the islets make of it. -/
def strapped (feed : BitVec 12) (slot : BitVec 5) (e : State) : State :=
  { e with
    log := { e.log with held := false }
    hbr := { e.hbr with stage := 2 }
    zng := { e.zng with feed := feed.setWidth 16 }
    pwr := { e.pwr with feedId := feed, feedPins := feed, slotId := slot }
    hlt := { e.hlt with cofed := e.flash.cofed } }

theorem setMode_light (k : ModState) (s : State) : ∃ g, setMode k s = { s with mode := k, log := g } ∧ g.held = s.log.held := by
  unfold setMode
  split
  next hsame => exact ⟨s.log, by rw [← hsame], rfl⟩
  next =>
    rw [raise_light _ _ _ _ (by decide)]
    exact ⟨_, rfl, recordEvent_held _ _⟩

theorem exec_flashRead {feed : BitVec 12} {slot : BitVec 5} (hmode : s.mode = .boot) (hgood : s.pwr.good = true) (hstage : s.hbr.stage = 1) :
    ∃ t, exec (.flashRead feed slot) s = .next t
      ∧ t.hbr.stage = 2 ∧ t.mode = .train ∧ t.log.held = false ∧ t.zng.feed = feed.setWidth 16 ∧ t.pwr.feedId = feed
      ∧ t.pwr.slotId = slot ∧ t.pwr.lastOff = s.pwr.latch ∧ t.hlt.cofed = s.flash.cofed ∧ t.flash = s.flash
      ∧ ∀ p < 8, (portOf t p).phase = if t.zng.portEn.getLsbD p then .detect else (portOf s p).phase := by
  let latched : State := { s with pwr := { s.pwr with lastOff := s.pwr.latch } }
  let e := takeIslets (checkIdentity (applyStored (if latched.pwr.latch = 0 then latched else raise 0x0C08 latched.pwr.latch.toNat [] latched)))
  have hloads : Loads latched e :=
    (((loads_latch latched).trans (loads_applyStored _)).trans (loads_checkIdentity _)).trans (loads_takeIslets _)
  have hexec : exec (.flashRead feed slot) s = .next (startPorts (setMode .train (strapped feed slot e))) :=
    next_congr (if_pos ⟨hmode, hstage, hgood⟩)
  clear_value e
  obtain ⟨g, htrain, hheld⟩ := setMode_light .train (strapped feed slot e)
  obtain ⟨ps, hports⟩ := startPorts_kept { strapped feed slot e with mode := .train, log := g }
  have hphase (p : Nat) (hp : p < 8) := startPorts_phase { strapped feed slot e with mode := .train, log := g } hp
  have hsame (p : Nat) : portOf e p = portOf s p := by rw [portOf, hloads.ports]; rfl
  rw [hports] at hphase
  rw [htrain, hports] at hexec
  refine ⟨_, hexec, rfl, rfl, hheld, rfl, rfl, rfl, ?_, ?_, hloads.flash, fun p hp => ?_⟩
  · exact congrArg Power.lastOff hloads.pwr
  · exact congrArg Flash.cofed hloads.flash
  · rw [hphase p hp, ← hsame p]
    rfl

/-! ### Stage 2 (R244, R430) -/

theorem inStage_train {k : Nat} (hmode : s.mode = .train) (hstop : s.hbr.pwrStop = false) (hstage : s.hbr.stage = k) : inStage s k = true := by
  simp [inStage, hmode, hstop, hstage]

/-- Stage 2 ends, where it does, in the opening of the window or in stage 3. -/
def straitsDone (s : State) : State := if s.hbr.lpddr then openWindow s else { s with hbr := { s.hbr with stage := 3 } }

/-- What stage 2 comes to, once each strait lane has a lane or one has none. -/
def straitEnds (p : State × Bool) : State :=
  if !p.2 then failStage 2 p.1
  else if (runningBank (straitsDone p.1) 2).isNone then
    failStageWith 2 5 (raise 0x0D03 2 [] { straitsDone p.1 with hbr := { (straitsDone p.1).hbr with window := false } })
  else straitsDone p.1

theorem runningBank_straitsDone (s : State) : runningBank (straitsDone s) 2 = runningBank s 2 := by
  unfold straitsDone
  split <;> rfl

theorem straitEnds_passes (hbank : ∃ b, runningBank s 2 = some b) : straitEnds (s, true) = straitsDone s := by
  obtain ⟨b, hbank⟩ := hbank
  exact (if_neg (by simp)).trans (if_neg (by simp [runningBank_straitsDone, hbank]))

theorem straitEnds_noBank (hbank : runningBank s 2 = none) : straitEnds (s, true) =
    failModule 5 (raise 0x0A02 noSubject [(1, 2)] (raise 0x0D03 2 []
      { straitsDone s with hbr := { (straitsDone s).hbr with window := false } })) :=
  (if_neg (by simp)).trans (if_pos (by simp [runningBank_straitsDone, hbank]))

theorem exec_straitTraining_untrained (hports : portsTrained s = false) (bad : List Nat) : exec (.straitTraining bad) s = .next s :=
  next_congr (if_neg (by simp [hports]))

section
variable (hmode : s.mode = .train) (hstop : s.hbr.pwrStop = false) (hstage : s.hbr.stage = 2) (hports : portsTrained s = true)
include hmode hstop hstage hports

theorem exec_straitTraining (bad : List Nat) : exec (.straitTraining bad) s =
    .next (straitEnds (bad.foldl (fun acc t => ((trainLane t acc.1).1, acc.2 && (trainLane t acc.1).2)) (s, true))) :=
  next_congr (if_pos (by simp [inStage_train hmode hstop hstage, hports]))

theorem exec_straitTraining_nil (hbank : ∃ b, runningBank s 2 = some b) : exec (.straitTraining []) s = .next (straitsDone s) :=
  (exec_straitTraining hmode hstop hstage hports []).trans (next_congr (straitEnds_passes hbank))

theorem exec_straitTraining_noBank (hbank : runningBank s 2 = none) : exec (.straitTraining []) s =
    .next (failModule 5 (raise 0x0A02 noSubject [(1, 2)] (raise 0x0D03 2 []
      { straitsDone s with hbr := { (straitsDone s).hbr with window := false } }))) :=
  (exec_straitTraining hmode hstop hstage hports []).trans (next_congr (straitEnds_noBank hbank))

theorem exec_straitTraining_one (t : Nat) : exec (.straitTraining [t]) s = .next (straitEnds (trainLane t s)) :=
  exec_straitTraining hmode hstop hstage hports [t]

theorem exec_straitTraining_spared {t : Nat} (hbank : ∃ b, runningBank s 2 = some b) (hspare : spareUser s t = none) :
    exec (.straitTraining [t]) s = .next
      (straitsDone (raise 0x060B t [] { s with mem := { s.mem with straitSpared := s.mem.straitSpared ++ [t] } })) := by
  have hlane : trainLane t s = (raise 0x060B t [] { s with mem := { s.mem with straitSpared := s.mem.straitSpared ++ [t] } }, true) := by
    simp [trainLane, spareStraitLane, hspare]
  rw [exec_straitTraining_one hmode hstop hstage hports, hlane, straitEnds_passes]
  simpa [runningBank] using hbank

theorem exec_straitTraining_noSpare {t u : Nat} (hspare : spareUser s t = some u) (hother : u ≠ t) :
    exec (.straitTraining [t]) s = .next (failModule 3 (raise 0x0A02 noSubject [(1, 2)] s)) := by
  have hlane : trainLane t s = (s, false) := by simp [trainLane, hspare, hother]
  rw [exec_straitTraining_one hmode hstop hstage hports, hlane]
  rfl

end

/-! ### Stages 3 and 4 (R246, R367) -/

/-- A channel is as it was but for the time of its calibration. -/
def SameSlots (s t : State) : Prop := ∀ k, (chan t k).state = (chan s k).state ∧ (chan t k).slot = (chan s k).slot

theorem chan_setChan_other {k j : Nat} (h : j ≠ k) (ch : Channel) (s : State) : chan (setChan k ch s) j = chan s j :=
  look_put_other _ _ _ _ _ _ h

theorem sameSlots_calibrate (k n : Nat) (s : State) : SameSlots s (setChan k { chan s k with calAt := n } s) := by
  intro j
  by_cases hj : j = k
  · subst hj
    rw [chan_setChan_same]
    exact ⟨rfl, rfl⟩
  · rw [chan_setChan_other hj]
    exact ⟨rfl, rfl⟩

/-- One channel calibrates. -/
def calibrate (s : State) (k : Nat) : State := setChan k { chan s k with calAt := s.now } s

/-- The module with its channels calibrated. -/
def calibrated (s : State) : State := (calChans s).foldl (fun s k => setChan k { chan s k with calAt := s.now } s) s

theorem calibrated_eq (s : State) : calibrated s = (calChans s).foldl calibrate s := rfl

theorem foldl_calibrate_kept (l : List Nat) (s : State) : ∃ cs, l.foldl calibrate s = { s with mem := { s.mem with chans := cs } } := by
  induction l generalizing s with
  | nil => exact ⟨_, rfl⟩
  | cons k r ih => exact ih (calibrate s k)

theorem sameSlots_foldl_calibrate (l : List Nat) (s : State) : SameSlots s (l.foldl calibrate s) := by
  induction l generalizing s with
  | nil => exact fun k => ⟨rfl, rfl⟩
  | cons k r ih =>
    intro j
    have hfirst : _ ∧ _ := sameSlots_calibrate k s.now s j
    have hrest : _ ∧ _ := ih (calibrate s k) j
    exact ⟨hrest.1.trans hfirst.1, hrest.2.trans hfirst.2⟩

theorem calibrated_kept (s : State) : ∃ cs, calibrated s = { s with mem := { s.mem with chans := cs } } := by
  rw [calibrated_eq]
  exact foldl_calibrate_kept _ s

theorem sameSlots_calibrated (s : State) : SameSlots s (calibrated s) := by
  rw [calibrated_eq]
  exact sameSlots_foldl_calibrate _ s

/-- The module once the channels that TRAIN retires are retired. -/
def retiredAt (bad : List Nat) (scans : List (Nat × Nat × Nat × Nat × Nat)) (s : State) : State :=
  (retiresAt s bad scans).foldl (fun s k => if s.mode = .train then retireChan k s else s) s

/-- Every channel has its place, and the window opens where stage 2 has ended before. -/
def channelsReady (s : State) : State :=
  let t : State := { s with mem := { s.mem with trained := true }, hbr := { s.hbr with lpddr := true } }
  if t.hbr.stage = 3 then openWindow t else t

theorem channelsReady_mem (s : State) : (channelsReady s).mem = { s.mem with trained := true } := by
  unfold channelsReady
  dsimp only
  split <;> rfl

theorem channelsReady_log (s : State) : (channelsReady s).log = s.log := by
  unfold channelsReady
  dsimp only
  split <;> rfl

theorem channelsReady_lpddr (s : State) : (channelsReady s).hbr.lpddr = true := by
  unfold channelsReady
  dsimp only
  split <;> rfl

theorem channelsReady_stage (s : State) : (channelsReady s).hbr.stage = (if s.hbr.stage = 3 then 4 else s.hbr.stage)
    ∧ (channelsReady s).hbr.window = (s.hbr.stage == 3 || s.hbr.window) := by
  unfold channelsReady
  dsimp only
  split
  next h => simp [openWindow, h]
  next h => simp [h]

theorem sameSlots_channelsReady (s : State) : SameSlots s (channelsReady s) := by
  have hcfg : (channelsReady s).cfg = s.cfg := by
    unfold channelsReady
    dsimp only
    split <;> rfl
  intro k
  have hchan : chan (channelsReady s) k = chan s k := by rw [chan, channelsReady_mem, hcfg, chan]
  rw [hchan]
  exact ⟨rfl, rfl⟩

section
variable {bad : List Nat} {scans : List (Nat × Nat × Nat × Nat × Nat)} (hmode : s.mode = .train) (hstop : s.hbr.pwrStop = false)
  (hstage : s.hbr.stage = 2 ∨ s.hbr.stage = 3) (hlpddr : s.hbr.lpddr = false)
include hmode hstop hstage hlpddr

theorem lpddr_due : ((inStage s 2 || inStage s 3) && !s.hbr.lpddr) = true := by
  rcases hstage with h | h <;> simp [inStage_train hmode hstop h, hlpddr]

theorem exec_lpddrTraining : exec (.lpddrTraining bad scans) s =
    .next (if (retiredAt bad scans s).mode ≠ .train then raise 0x0A02 noSubject [(1, 3)] (retiredAt bad scans s)
      else channelsReady (calibrated (retiredAt bad scans s))) := by
  refine next_congr ((if_pos (lpddr_due hmode hstop hstage hlpddr)).trans ?_)
  unfold retiredAt channelsReady calibrated
  rfl

theorem exec_lpddrTraining_fails (hfails : (retiredAt bad scans s).mode ≠ .train) : exec (.lpddrTraining bad scans) s =
    .next (raise 0x0A02 noSubject [(1, 3)] (retiredAt bad scans s)) :=
  (exec_lpddrTraining hmode hstop hstage hlpddr).trans (next_congr (if_pos hfails))

/-- Stage 3 ends: every channel has its place, and the window opens where stage 2 has ended before. -/
theorem exec_lpddrTraining_ends (hends : (retiredAt bad scans s).mode = .train) : ∃ t, exec (.lpddrTraining bad scans) s = .next t
    ∧ t.mem.trained = true ∧ t.hbr.lpddr = true ∧ t.log = (retiredAt bad scans s).log
    ∧ t.mem.cells = (retiredAt bad scans s).mem.cells ∧ t.mem.homeFail = (retiredAt bad scans s).mem.homeFail
    ∧ t.hbr.stage = (if (retiredAt bad scans s).hbr.stage = 3 then 4 else (retiredAt bad scans s).hbr.stage)
    ∧ t.hbr.window = ((retiredAt bad scans s).hbr.stage == 3 || (retiredAt bad scans s).hbr.window)
    ∧ SameSlots (retiredAt bad scans s) t := by
  have hexec : exec (.lpddrTraining bad scans) s = .next (channelsReady (calibrated (retiredAt bad scans s))) :=
    (exec_lpddrTraining hmode hstop hstage hlpddr).trans (next_congr (if_neg (not_not.mpr hends)))
  generalize retiredAt bad scans s = u at hexec
  obtain ⟨cs, hkept⟩ := calibrated_kept u
  have hstage := channelsReady_stage (calibrated u)
  have hslots := sameSlots_channelsReady (calibrated u)
  refine ⟨_, hexec, ?_, channelsReady_lpddr _, ?_, ?_, ?_, ?_, ?_, fun k => ?_⟩
  · rw [channelsReady_mem]
  · rw [channelsReady_log, hkept]
  · rw [channelsReady_mem, hkept]
  · rw [channelsReady_mem, hkept]
  · rw [hstage.1, hkept]
  · rw [hstage.2, hkept]
  · exact ⟨(hslots k).1.trans (sameSlots_calibrated u k).1, (hslots k).2.trans (sameSlots_calibrated u k).2⟩

end

theorem exec_lpddrTraining_done {bad : List Nat} {scans : List (Nat × Nat × Nat × Nat × Nat)} (hlpddr : s.hbr.lpddr = true) :
    exec (.lpddrTraining bad scans) s = .next s := next_congr (if_neg (by simp [hlpddr]))

theorem spareChan_spare {h p : Nat} (hspare : spareChan s h = some p) : (chan s (h * 256 + p)).state = .spare := by
  have hfound := List.find?_some hspare
  exact beq_iff_eq.mp hfound

theorem retireChan_spared {k p : Nat} (hserves : (chan s k).state = .active ∨ (chan s k).state = .retirePending ∨ (chan s k).state = .lost)
    (hspare : spareChan s (k / 256) = some p) : retireChan k s = raise 0x0604 k [] (setChan (k / 256 * 256 + p)
      { chan s (k / 256 * 256 + p) with state := .active, slot := (chan s k).slot }
      (setChan k { chan s k with state := .retired, slot := 0x7F } s)) := by
  have hother : k / 256 * 256 + p ≠ k := by
    intro hsame
    have := spareChan_spare hspare
    rw [hsame] at this
    simp [this] at hserves
  have hgone : ¬ ((chan s k).state = .retired ∨ (chan s k).state = .absent) := by
    rcases hserves with h | h | h <;> simp [h]
  have hbusy : (chan s k).state ≠ .spare := by
    rcases hserves with h | h | h <;> simp [h]
  unfold retireChan
  dsimp only
  rw [if_neg hgone, if_neg hbusy, hspare]
  dsimp only
  rw [chan_setChan_other hother]

theorem closeWindow_now (s : State) : (closeWindow s).now = s.now := rfl

theorem exec_configHoldExpired (hmode : s.mode = .train) (hstop : s.hbr.pwrStop = false) (hstage : s.hbr.stage = 4)
    (hwindow : s.hbr.window = true) : ∃ t, exec .configHoldExpired s = .next t
      ∧ t.hbr.window = false ∧ t.hbr.stage = 5 ∧ t.now = max s.now (s.hbr.openAt + configValue s 3 * (second / 1000)) :=
  ⟨_, next_congr (if_pos (by simp [inStage_train hmode hstop hstage, hwindow])), rfl, rfl, (closeWindow_now _).trans (passNow_now _ _)⟩

/-! ### Stages 6 to 8 (R17, R164, R431) -/

/-- The functions of the ACTIVE ports run once the clock does. -/
def portsRun (s : State) : State :=
  (List.range 8).foldl (fun s p => if portActive s p then setPort p { portOf s p with func := .running } s else s) s

theorem portsRun_kept (s : State) : ∃ ps, portsRun s = { s with zng := { s.zng with ports := ps } } :=
  foldl_ports_kept (fun u p => by dsimp only; split <;> exact ⟨_, rfl⟩) _ s

section
variable (hmode : s.mode = .train) (hstop : s.hbr.pwrStop = false)
include hmode hstop

theorem exec_isletTest_passes (hstage : s.hbr.stage = 6) (hbody : (loadMainland s).2 = true) (bad : List Nat) :
    let u := (replaceFaulted (bad.foldl (fun s n => failIslet n s) (loadMainland s).1)).1
    exec (.isletTest bad) s = .next { u with hbr := { u.hbr with stage := 7 } } := by
  refine next_congr ((if_pos (inStage_train hmode hstop hstage)).trans ?_)
  generalize loadMainland s = p at hbody
  obtain ⟨loaded, ok⟩ := p
  cases hbody
  rfl

theorem exec_isletTest_fails (hstage : s.hbr.stage = 6) (hbody : (loadMainland s).2 = false) (bad : List Nat) : exec (.isletTest bad) s =
    .next (failModule 4 (raise 0x0A02 noSubject [(1, 6)] (raise 0x0D07 2 [] (loadMainland s).1))) := by
  refine next_congr ((if_pos (inStage_train hmode hstop hstage)).trans ?_)
  generalize loadMainland s = p at hbody
  obtain ⟨loaded, ok⟩ := p
  cases hbody
  rfl

/-- The crossing clock starts at zero, and the module is at rest. -/
theorem exec_clockStart (hstage : s.hbr.stage = 7) : ∃ t, exec .clockStart s = .next t
    ∧ t.xng.running = true ∧ t.xng.cycle = 0 ∧ t.xng.tick = 0 ∧ t.xng.tickCycle = 0 ∧ t.hbr.stage = 8
    ∧ t.mode = (if s.isl.slots.length < fullP s.cfg then .degraded else if s.ttu.func = .stopped then .ready else .run)
    ∧ t.mem = s.mem ∧ t.isl = s.isl ∧ t.flash = s.flash := by
  let started : State := { s with
    xng := { s.xng with running := true, cycle := 0, tick := 0, tickCycle := 0 }
    hbr := { s.hbr with stage := 8 } }
  have hexec : exec .clockStart s = .next (setMode (restMode (portsRun started)) (portsRun started)) :=
    next_congr (if_pos (inStage_train hmode hstop hstage))
  obtain ⟨ps, hports⟩ := portsRun_kept started
  obtain ⟨g, hrests, -⟩ := setMode_light (restMode (portsRun started)) (portsRun started)
  rw [hrests, hports] at hexec
  exact ⟨_, hexec, rfl, rfl, rfl, rfl, rfl, rfl, rfl, rfl, rfl⟩

end

theorem exec_bringupFailed {k : Nat} (hmode : s.mode = .train) (hgood : s.pwr.good = true) (hbound : k < 8) (hheld : k ≠ 4) (hzero : k ≠ 0)
    (hstage : s.hbr.stage = k) : exec (.bringupFailed k) s = .next (failModule 3 (raise 0x0A02 noSubject [(1, k)] s)) :=
  next_congr ((if_pos ⟨.inr hmode, hgood, by simp [stageRuns, hbound, hstage], hheld⟩).trans (if_neg hzero))

theorem exec_bringupFailed_over (hboot : s.mode ≠ .boot) (htrain : s.mode ≠ .train) (k : Nat) : exec (.bringupFailed k) s = .next s :=
  next_congr (if_neg fun h => h.1.elim hboot htrain)

end

/-- Settles O41. -/
theorem bringUpStages : Obligations.BringUpStages := by
  refine ⟨fun s hmode hgood => ⟨exec_harbourFirmwareStart_passes hmode hgood, exec_harbourFirmwareStart_fails hmode hgood,
      fun feed slot => exec_flashRead hmode hgood⟩,
    fun s hmode hstop => ?_, fun s hstop => ⟨fun hmode hstage => exec_isletTest_passes hmode hstop hstage,
      fun hmode hstage => exec_isletTest_fails hmode hstop hstage, fun hmode => exec_clockStart hmode hstop,
      fun hmode hgood k => exec_bringupFailed hmode hgood, exec_bringupFailed_over⟩⟩
  refine ⟨exec_straitTraining_nil hmode hstop, fun t hstage hports => exec_straitTraining_spared hmode hstop hstage hports,
    exec_straitTraining_noBank hmode hstop, fun _ => exec_straitTraining_untrained,
    fun t u hstage hports => exec_straitTraining_noSpare hmode hstop hstage hports, fun bad scans hstage hlpddr hretires => ?_,
    fun bad scans hstage hlpddr => ⟨exec_lpddrTraining_fails hmode hstop hstage hlpddr, fun hends => ?_⟩,
    fun k p => retireChan_spared, fun hlpddr bad scans => exec_lpddrTraining_done hlpddr, exec_configHoldExpired hmode hstop⟩
  · have hsame : retiredAt bad scans s = s := by rw [retiredAt, hretires]; rfl
    obtain ⟨t, ht, htrained, hready, hlog, hcells, -, hstages, hwindow, -⟩ :=
      exec_lpddrTraining_ends (bad := bad) (scans := scans) hmode hstop hstage hlpddr (hsame.symm ▸ hmode)
    rw [hsame] at hlog hcells hstages hwindow
    refine ⟨t, ht, htrained, hready, hstages.trans ?_, hwindow, hcells, hlog⟩
    rcases hstage with h | h <;> simp [h]
  · obtain ⟨t, ht, htrained, hready, hlog, -, hfail, -, -, hslots⟩ := exec_lpddrTraining_ends hmode hstop hstage hlpddr hends
    exact ⟨t, ht, htrained, hready, hlog, hfail, hslots⟩

end Sys2Proof.Machine
end

section
/-! Where the clause on the queue of `RecordsWritten` fails: a running reader whose ring lies in memory that no channel backs. -/

namespace Sys2Proof.Machine

/-- The only record waiting, of a code that has been recorded before. -/
def lastQueued : Record := ⟨⟨0x0A01, noSubject, zeros 20, 0, true, 0, 0, 0⟩, 0, 0, 0⟩

/-- A module right after reset whose reader runs with its ring in the memory of home 5, which has no channel; its writer may write, and
the permanent area is full. -/
def unbackedRing : State :=
  { State.reset with
    hbr := { State.reset.hbr with reader := .running }
    log := { queue := [lastQueued], newest := some lastQueued, nextSeq := 1, seen := [0x0A01], permFull := true
             ringBase := BitVec.ofNat 36 (5 * 2 ^ 29), held := false } }

/-- The copy of the record into the ring raises 0x0608 (R224), which is queued in its turn. -/
theorem recordWrite_unbackedRing : ∃ t, exec .recordWrite unbackedRing = .next t ∧ t.log.queue ≠ [] :=
  ⟨_, rfl, by decide +kernel⟩

/-- Refutes O45: while the reader runs with its ring in memory that no channel backs, the copy of the record raises 0x0608, so the queue
that the write leaves is not the rest of the old one. -/
theorem not_recordsWritten : ¬ Obligations.RecordsWritten := by
  intro h
  have hnewest (n : Record) (hn : unbackedRing.log.newest = some n) : n.ev.code ≠ 0x0A07 ∧ n.ev.code ≠ 0x0A08 := by
    cases hn
    exact ⟨by decide, by decide⟩
  obtain ⟨t, ht, -, -, hqueue, -⟩ := h.1 unbackedRing lastQueued [] rfl rfl rfl hnewest
  obtain ⟨t', ht', hmore⟩ := recordWrite_unbackedRing
  cases ht.symm.trans ht'
  exact hmore (hqueue rfl rfl).1

end Sys2Proof.Machine
end
